-- ==== Sys2Proof/Word.lean ====
section
/-! DEFINITION. The word types of the KZ8 and their plainest arithmetic (spec R2: little-endian, bit 0 least significant). -/
namespace Sys2Proof

/-- A 32-bit register or memory word (R2). -/
abbrev Word := BitVec 32
/-- A 64-bit value held in a register pair (R2). -/
abbrev DWord := BitVec 64
/-- A byte of memory (R2). -/
abbrev Byte := BitVec 8
/-- An 8-bit lane mask, bit l for lane l (R79). -/
abbrev Mask := BitVec 8
/-- The 64 bytes of one line, byte i in bits 8i+7 to 8i (R206). -/
abbrev Line := BitVec 512

/-- The pair value of two registers: the low word in the even register (R2). -/
def pairOf (lo hi : Word) : DWord := hi ++ lo
/-- Bits [31:0] of a pair value (R2). -/
def loOf (x : DWord) : Word := x.extractLsb' 0 32
/-- Bits [63:32] of a pair value (R2). -/
def hiOf (x : DWord) : Word := x.extractLsb' 32 32
/-- A Bool as one bit. -/
def bit1 (b : Bool) : BitVec 1 := BitVec.ofBool b

@[simp] theorem loOf_pairOf (a b : Word) : loOf (pairOf a b) = a := by
  apply BitVec.eq_of_getLsbD_eq; intro i hi
  rw [loOf, pairOf, BitVec.getLsbD_extractLsb', BitVec.getLsbD_append]; simp [hi]
@[simp] theorem hiOf_pairOf (a b : Word) : hiOf (pairOf a b) = b := by
  apply BitVec.eq_of_getLsbD_eq; intro i hi
  rw [hiOf, pairOf, BitVec.getLsbD_extractLsb', BitVec.getLsbD_append]; simp [hi]

end Sys2Proof
end

