-- ==== Sys2Proof/Config.lean ====
section
/-! DEFINITION. The values that the spec leaves open: constants with no body, so that nothing can be proved from a value of
one. Each is named in a row of the assumption log. -/
namespace Sys2Proof.Config

/-- The distance between a core's clk counter and the package's count of clocks (R18). -/
opaque clkSkew : Nat → Nat
/-- The stepping in IDENT, whose part number R445 gives. -/
opaque stepping : BitVec 16
/-- The package is one of a pair, and the second one: what boot firmware loads into PKG, and whether it trains a pair link (R445,
R453; log 68). -/
opaque paired : Bool
opaque second : Bool
/-- PWR, TEMP and ENERGY as they stand at a clk after reset (R445). -/
opaque power : Nat → Word
opaque temperature : Nat → BitVec 16
opaque energy : Nat → DWord
/-- The n-th free value of the machine. -/
opaque freeWord : Nat → Word
/-- The identifier from which the search for a free ray identifier starts, for the n-th ray (R329). -/
opaque freeRayId : Nat → Nat
/-- A tag of a semaphore, in a context, names a party on the other package (R435). -/
opaque tagAway : Nat → Word → Bool
/-- The hash of the cell table, of context, launch, origin cell and octant (R355). -/
opaque cellHash : Nat → Nat → Nat → Nat → Nat
/-- The rank of a hit among those of one key, of u, v, and shader with face (R351). -/
opaque hitRank : Word → Word → Nat → Nat
/-- What an entry of an index list reads as where its word is poisoned, of its offset and of the bytes that stand there (R202,
R315; log 93). -/
opaque poisonedEntry : Nat → Nat → Nat
/-- The set of the treelet cache, of context, launch and physical address (R354). -/
opaque treeletSet : Nat → Nat → Nat → Nat

end Sys2Proof.Config
end

