-- ==== Sys2Proof/Syntax.lean ====
section
/-! DEFINITION. The instruction set as syntax: one constructor of `Instr` for each row of spec/opcode_table.json, the
events among them (spec 03 R50 to R66 for the instructions, spec 95 for the events). -/
namespace Sys2Proof

/-- A lane source operand: a v register, or the 32-bit literal word (R52). -/
inductive VSrc where
  | reg (r : BitVec 5)
  | lit (w : Word)
  deriving DecidableEq, Repr

/-- A uniform source operand: an s register, or the 32-bit literal word (R52). -/
inductive SSrc where
  | reg (r : BitVec 6)
  | lit (w : Word)
  deriving DecidableEq, Repr

/-- The row index of ROWACT: an s register, or a 12-bit literal (R283). -/
inductive RowSrc where
  | reg (r : BitVec 6)
  | lit (i : BitVec 12)
  deriving DecidableEq, Repr

/-- A guard predicate p, negated when n (R56); unguarded is p = 7, n = false. -/
structure Guard where
  p : BitVec 3
  n : Bool
  deriving DecidableEq, Repr

/-- LR with d, a and b, where b may be a literal (R52, R136). -/
structure R3 where
  d : BitVec 5
  a : BitVec 5
  b : VSrc
  g : Guard
  deriving DecidableEq, Repr

/-- LR with d, a and b, no literal (R160). -/
structure R3n where
  d : BitVec 5
  a : BitVec 5
  b : BitVec 5
  g : Guard
  deriving DecidableEq, Repr

/-- LR with d and a. -/
structure R2 where
  d : BitVec 5
  a : BitVec 5
  g : Guard
  deriving DecidableEq, Repr

/-- LF with d, a, b, c. -/
structure F4 where
  d : BitVec 5
  a : BitVec 5
  b : BitVec 5
  c : BitVec 5
  g : Guard
  deriving DecidableEq, Repr

/-- LF of BFE: d, a, c (R147). -/
structure F3 where
  d : BitVec 5
  a : BitVec 5
  c : BitVec 5
  g : Guard
  deriving DecidableEq, Repr

/-- The compare forms ISET and FSET (R56, R149, R158). -/
structure Cmp where
  p : BitVec 3
  m : BitVec 2
  a : BitVec 5
  b : VSrc
  f : BitVec 5
  g : Guard
  deriving DecidableEq, Repr

/-- MOV (R125). -/
structure MovO where
  d : BitVec 5
  b : VSrc
  g : Guard
  deriving DecidableEq, Repr

/-- MOVU: the s register sN (R125). -/
structure MovuO where
  d : BitVec 5
  s : BitVec 6
  g : Guard
  deriving DecidableEq, Repr

/-- MOVS: selector (R127). -/
structure MovsO where
  d : BitVec 5
  s : BitVec 5
  g : Guard
  deriving DecidableEq, Repr

/-- LI with a 12-bit immediate (R150). -/
structure I12 where
  d : BitVec 5
  a : BitVec 5
  i : BitVec 12
  p : BitVec 3
  deriving DecidableEq, Repr

/-- SHI: kind and count (R150). -/
structure Sh5 where
  d : BitVec 5
  a : BitVec 5
  k : BitVec 2
  c : BitVec 5
  p : BitVec 3
  deriving DecidableEq, Repr

/-- MOVI (R150). -/
structure I17 where
  d : BitVec 5
  i : BitVec 17
  p : BitVec 3
  deriving DecidableEq, Repr

/-- CVT (R37). -/
structure CvtO where
  d : BitVec 5
  a : VSrc
  s : Bool
  r : BitVec 2
  f : BitVec 5
  g : Guard
  deriving DecidableEq, Repr

/-- PAND, POR, PXOR (R132). -/
structure P3 where
  p : BitVec 3
  m : Bool
  a : BitVec 3
  k : Bool
  b : BitVec 3
  g : Guard
  deriving DecidableEq, Repr

/-- PNOT, PMOV, LANY, LALL (R132, R106). -/
structure P2 where
  p : BitVec 3
  m : Bool
  a : BitVec 3
  g : Guard
  deriving DecidableEq, Repr

/-- PPACK (R132). -/
structure PkO where
  d : BitVec 5
  a : BitVec 5
  k : BitVec 2
  g : Guard
  deriving DecidableEq, Repr

/-- PUNPK (R132). -/
structure UpkO where
  a : BitVec 5
  k : BitVec 2
  g : Guard
  deriving DecidableEq, Repr

/-- LMASK (R106). -/
structure LmaskO where
  d : BitVec 5
  m : Bool
  a : BitVec 3
  g : Guard
  deriving DecidableEq, Repr

/-- LFIRST (R106). -/
structure LfirstO where
  p : BitVec 3
  g : Guard
  deriving DecidableEq, Repr

/-- BRA (R95). -/
structure BraO where
  g : Guard
  d : BitVec 21
  deriving DecidableEq, Repr

/-- LR with a alone: BRX (R97). -/
structure A1 where
  a : BitVec 5
  g : Guard
  deriving DecidableEq, Repr

/-- BRK (R99). -/
structure BrkO where
  g : Guard
  m : BitVec 8
  d : BitVec 13
  deriving DecidableEq, Repr

/-- JSET (R101). -/
structure JsetO where
  j : BitVec 3
  d : BitVec 22
  deriving DecidableEq, Repr

/-- JWAIT (R102). -/
structure JwaitO where
  j : BitVec 3
  g : Guard
  deriving DecidableEq, Repr

/-- JDROP (R102). -/
structure JdropO where
  m : BitVec 8
  g : Guard
  deriving DecidableEq, Repr

/-- JGET (R102). -/
structure JgetO where
  d : BitVec 5
  j : BitVec 3
  g : Guard
  deriving DecidableEq, Repr

/-- JPUT (R102). -/
structure JputO where
  j : BitVec 3
  a : BitVec 5
  g : Guard
  deriving DecidableEq, Repr

/-- CALL (R120): k/8 in k. -/
structure CallO where
  k : BitVec 2
  g : Guard
  d : BitVec 19
  deriving DecidableEq, Repr

/-- CALLX (R122). -/
structure CallxO where
  a : BitVec 5
  k : BitVec 2
  g : Guard
  deriving DecidableEq, Repr

/-- LR with a guard alone: RET, NOP, EXIT, YIELD, NEXTHIT, REND. -/
structure G0 where
  g : Guard
  deriving DecidableEq, Repr

/-- LR with b alone: NAP (R108). -/
structure B1 where
  b : VSrc
  g : Guard
  deriving DecidableEq, Repr

/-- LM of LD and SLD (R231, R193). -/
structure LmO where
  d : BitVec 5
  a : BitVec 5
  z : BitVec 3
  k : BitVec 2
  l : BitVec 4
  off : Option Word
  g : Guard
  s : Bool
  deriving DecidableEq, Repr

/-- LM of SST (R193). -/
structure SstO where
  d : BitVec 5
  a : BitVec 5
  z : BitVec 3
  l : BitVec 4
  off : Option Word
  g : Guard
  s : Bool
  deriving DecidableEq, Repr

/-- LM of ST (R233). -/
structure StO where
  d : BitVec 5
  a : BitVec 5
  z : BitVec 3
  k : BitVec 2
  off : Option Word
  g : Guard
  deriving DecidableEq, Repr

/-- LM of PREF and CLINE (R235, R237). -/
structure PfO where
  a : BitVec 5
  k : BitVec 2
  off : Option Word
  g : Guard
  deriving DecidableEq, Repr

/-- LA with its control word (R55, R59). -/
structure LaO where
  d : BitVec 5
  a : BitVec 5
  b : BitVec 5
  l : BitVec 4
  g : Guard
  off : BitVec 16
  op : BitVec 5
  scope : BitVec 3
  order : BitVec 2
  size : BitVec 3
  deriving DecidableEq, Repr

/-- TBOX (R366). -/
structure TboxO where
  d : BitVec 5
  a : BitVec 5
  l : BitVec 4
  g : Guard
  c : BitVec 5
  mask : BitVec 8
  deriving DecidableEq, Repr

/-- TTRI (R368). -/
structure TtriO where
  d : BitVec 5
  a : BitVec 5
  l : BitVec 4
  g : Guard
  c : BitVec 5
  cb : Bool
  cf : Bool
  deriving DecidableEq, Repr

/-- TRACE (R361). -/
structure TraceO where
  ord : Bool
  g : Guard
  n : BitVec 6
  k : BitVec 4
  cb : Bool
  cf : Bool
  first : Bool
  deriving DecidableEq, Repr

/-- RSPAWN (R363). -/
structure RspO where
  d : BitVec 5
  b : VSrc
  g : Guard
  deriving DecidableEq, Repr

/-- UR with d, a, b, where b may be a literal (R165). -/
structure U3 where
  d : BitVec 6
  a : BitVec 6
  b : SSrc
  deriving DecidableEq, Repr

/-- UR with d, a, b, no literal. -/
structure U3n where
  d : BitVec 6
  a : BitVec 6
  b : BitVec 6
  deriving DecidableEq, Repr

/-- UR with d and a. -/
structure U2 where
  d : BitVec 6
  a : BitVec 6
  deriving DecidableEq, Repr

/-- UR with d alone. -/
structure Ud where
  d : BitVec 6
  deriving DecidableEq, Repr

/-- UR with b alone, or a literal. -/
structure Ub where
  b : SSrc
  deriving DecidableEq, Repr

/-- UR with a and b, where b may be a literal (R200). -/
structure Uab where
  a : BitVec 6
  b : SSrc
  deriving DecidableEq, Repr

/-- UR with a and b, no literal. -/
structure Uabn where
  a : BitVec 6
  b : BitVec 6
  deriving DecidableEq, Repr

/-- UR with d and b: UMOV. -/
structure Udb where
  d : BitVec 6
  b : SSrc
  deriving DecidableEq, Repr

/-- UI with a 13-bit immediate (R166). -/
structure UiO where
  d : BitVec 6
  a : BitVec 6
  i : BitVec 13
  deriving DecidableEq, Repr

/-- USHI (R166). -/
structure UshO where
  d : BitVec 6
  a : BitVec 6
  k : BitVec 2
  c : BitVec 5
  deriving DecidableEq, Repr

/-- UMOVI (R166). -/
structure UmviO where
  d : BitVec 6
  i : BitVec 19
  deriving DecidableEq, Repr

/-- USET (R167). -/
structure UsetO where
  c : BitVec 3
  m : BitVec 2
  a : BitVec 6
  b : SSrc
  f : BitVec 5
  deriving DecidableEq, Repr

/-- ULANE.first (R130). -/
structure UlfO where
  d : BitVec 6
  a : BitVec 5
  deriving DecidableEq, Repr

/-- ULANE.idx (R130). -/
structure UliO where
  d : BitVec 6
  a : BitVec 5
  b : SSrc
  deriving DecidableEq, Repr

/-- CAND, COR, CXOR (R134). -/
structure C3 where
  c : BitVec 3
  a : BitVec 3
  m : Bool
  b : BitVec 3
  k : Bool
  deriving DecidableEq, Repr

/-- CNOT (R134). -/
structure C2 where
  c : BitVec 3
  a : BitVec 3
  m : Bool
  deriving DecidableEq, Repr

/-- UBRA (R104): condition c, negated when n. -/
structure UbraO where
  c : Guard
  d : BitVec 21
  deriving DecidableEq, Repr

/-- UR with a alone: UJMP (R104). -/
structure Ua where
  a : BitVec 6
  deriving DecidableEq, Repr

/-- The control word of a multiply (R313). -/
structure MmaC where
  p : Bool
  n : BitVec 4
  m : BitVec 4
  kl : BitVec 7
  mb : BitVec 3
  ma : BitVec 3
  deriving DecidableEq, Repr

/-- MMA, MMA.C (L in f2), MMAS (u in f2) (R313). -/
structure MmaO where
  t : BitVec 4
  u : BitVec 4
  a : BitVec 6
  c : MmaC
  deriving DecidableEq, Repr

/-- MMAG (R313). -/
structure MmagO where
  t : BitVec 4
  a : BitVec 6
  b : BitVec 6
  c : MmaC
  deriving DecidableEq, Repr

/-- ACC.ZERO (R317). -/
structure AccZ where
  p : Bool
  t : BitVec 4
  n : BitVec 4
  deriving DecidableEq, Repr

/-- ACC.COMMIT (R317). -/
structure AccC where
  p : Bool
  t : BitVec 4
  u : BitVec 4
  c : Guard
  deriving DecidableEq, Repr

/-- ACC.POISON (R317). -/
structure AccP where
  p : Bool
  t : BitVec 4
  d : BitVec 6
  clr : Bool
  deriving DecidableEq, Repr

/-- ACCLD, ACCST (R319). -/
structure AccIo where
  t : BitVec 4
  sat : Bool
  fmt : BitVec 3
  a : BitVec 6
  stride : BitVec 20
  row0 : BitVec 4
  rows : BitVec 4
  p : Bool
  deriving DecidableEq, Repr

/-- AMAP (R321). -/
structure AmapO where
  n : BitVec 3
  a : BitVec 6
  deriving DecidableEq, Repr

/-- BPL.LD (R322). -/
structure BplO where
  f : Bool
  a : BitVec 6
  b : BitVec 6
  len : BitVec 10
  cols : BitVec 7
  ss : BitVec 15
  deriving DecidableEq, Repr

/-- BPL.ZERO (R322). -/
structure BpzO where
  f : Bool
  b : BitVec 6
  len : BitVec 10
  cols : BitVec 7
  deriving DecidableEq, Repr

/-- MWAIT: r for .rd (R326). -/
structure MwaitO where
  r : Bool
  deriving DecidableEq, Repr

/-- ROWACT (R283): the row index in an s register or a 12-bit literal. -/
structure RowaO where
  n : BitVec 4
  i : RowSrc
  deriving DecidableEq, Repr

/-- ROWCON, ROWWR (R285). -/
structure RowtO where
  n : BitVec 4
  bpl : Bool
  a : BitVec 6
  b : Option (BitVec 6)
  off : BitVec 7
  len : BitVec 8
  deriving DecidableEq, Repr

/-- ROWPRE (R287). -/
structure RowpO where
  n : BitVec 4
  w : Bool
  deriving DecidableEq, Repr

/-- SMAP (R197). -/
structure SmapO where
  n : BitVec 4
  k : BitVec 2
  a : BitVec 6
  b : BitVec 6
  len : BitVec 21
  deriving DecidableEq, Repr

/-- SUNMAP (R199). -/
structure SunO where
  k : Bool
  n : BitVec 4
  deriving DecidableEq, Repr

/-- SGATH (R201). -/
structure SgaO where
  n : BitVec 4
  now : Bool
  a : BitVec 6
  b : BitVec 6
  rb : BitVec 14
  st : BitVec 16
  deriving DecidableEq, Repr

/-- SYNC (R251). -/
structure SyncO where
  d : BitVec 6
  a : BitVec 6
  t : Bool
  deriving DecidableEq, Repr

/-- FENCE (R255). -/
structure FenO where
  s : BitVec 3
  deriving DecidableEq, Repr

/-- BAR (R264). -/
structure BarO where
  n : BitVec 4
  deriving DecidableEq, Repr

/-- QPUSH (R396). -/
structure QpuO where
  q : BitVec 4
  nb : Bool
  cd : BitVec 3
  a : BitVec 6
  deriving DecidableEq, Repr

/-- QPOP (R396). -/
structure QpoO where
  q : BitVec 4
  nb : Bool
  cd : BitVec 3
  a : BitVec 6
  l : BitVec 4
  deriving DecidableEq, Repr

/-- SEND, MCAST (R412). -/
structure SendO where
  q : BitVec 4
  nb : Bool
  cd : BitVec 3
  a : BitVec 6
  b : BitVec 6
  deriving DecidableEq, Repr

/-- The rows of spec/opcode_table.json: the instructions with their operand fields, then the events, whose operands
name the thing that the event happens to, or the choice that the environment makes. -/
inductive Instr where
  /-- IADD (R142) -/
  | iadd (o : R3)
  /-- ISUB (R142) -/
  | isub (o : R3)
  /-- IADD_SAT (R142) -/
  | iaddSat (o : R3)
  /-- ISUB_SAT (R142) -/
  | isubSat (o : R3)
  /-- IMIN_I (R142) -/
  | iminI (o : R3)
  /-- IMAX_I (R142) -/
  | imaxI (o : R3)
  /-- IMIN_N (R142) -/
  | iminN (o : R3)
  /-- IMAX_N (R142) -/
  | imaxN (o : R3)
  /-- IABS (R142) -/
  | iabs (o : R2)
  /-- INEG (R142) -/
  | ineg (o : R2)
  /-- IDIFF (R142) -/
  | idiff (o : R3)
  /-- LEA1 (R142) -/
  | lea1 (o : R3)
  /-- LEA2 (R142) -/
  | lea2 (o : R3)
  /-- LEA3 (R142) -/
  | lea3 (o : R3)
  /-- LEA4 (R142) -/
  | lea4 (o : R3)
  /-- IADDW (R142) -/
  | iaddw (o : R3)
  /-- ISUBW (R142) -/
  | isubw (o : R3)
  /-- AND (R144) -/
  | and (o : R3)
  /-- OR (R144) -/
  | or (o : R3)
  /-- XOR (R144) -/
  | xor (o : R3)
  /-- ANDN (R144) -/
  | andn (o : R3)
  /-- ORN (R144) -/
  | orn (o : R3)
  /-- NOT (R144) -/
  | not (o : R2)
  /-- SHL (R144) -/
  | shl (o : R3)
  /-- SHR_N (R144) -/
  | shrN (o : R3)
  /-- SHR_I (R144) -/
  | shrI (o : R3)
  /-- ROTL (R144) -/
  | rotl (o : R3)
  /-- POPC (R144) -/
  | popc (o : R2)
  /-- CLZ (R144) -/
  | clz (o : R2)
  /-- BREV (R144) -/
  | brev (o : R2)
  /-- BYTSEL (R144) -/
  | bytsel (o : R3)
  /-- IMUL (R145) -/
  | imul (o : R3)
  /-- IMULH_I (R145) -/
  | imulhI (o : R3)
  /-- IMULH_N (R145) -/
  | imulhN (o : R3)
  /-- IMULW_I (R145) -/
  | imulwI (o : R3)
  /-- IMULW_N (R145) -/
  | imulwN (o : R3)
  /-- IMAD (R146) -/
  | imad (o : F4)
  /-- IMAD_W (R146) -/
  | imadW (o : F4)
  /-- BFE (R148) -/
  | bfe (o : F3)
  /-- BFI (R148) -/
  | bfi (o : F4)
  /-- ISET (R149) -/
  | iset (o : Cmp)
  /-- MOV (R126) -/
  | mov (o : MovO)
  /-- SEL (R126) -/
  | sel (o : R3)
  /-- MOVU (R126) -/
  | movu (o : MovuO)
  /-- MOVS (R128) -/
  | movs (o : MovsO)
  /-- IADDI (R150) -/
  | iaddi (o : I12)
  /-- ANDI (R150) -/
  | andi (o : I12)
  /-- ORI (R150) -/
  | ori (o : I12)
  /-- XORI (R150) -/
  | xori (o : I12)
  /-- SHI (R150) -/
  | shi (o : Sh5)
  /-- MOVI (R150) -/
  | movi (o : I17)
  /-- FADD (R153) -/
  | fadd (o : R3)
  /-- FSUB (R153) -/
  | fsub (o : R3)
  /-- FMUL (R153) -/
  | fmul (o : R3)
  /-- FMIN (R33) -/
  | fmin (o : R3)
  /-- FMAX (R33) -/
  | fmax (o : R3)
  /-- FABS (R153) -/
  | fabs (o : R2)
  /-- FNEG (R153) -/
  | fneg (o : R2)
  /-- FCOPYSIGN (R153) -/
  | fcopysign (o : R3)
  /-- FFRAC (R153) -/
  | ffrac (o : R2)
  /-- FCLASS (R154) -/
  | fclass (o : R2)
  /-- FRINT_RN (R153) -/
  | frintRn (o : R2)
  /-- FRINT_RZ (R153) -/
  | frintRz (o : R2)
  /-- FRINT_RM (R153) -/
  | frintRm (o : R2)
  /-- FRINT_RP (R153) -/
  | frintRp (o : R2)
  /-- FADD_RZ (R153) -/
  | faddRz (o : R3)
  /-- FADD_RM (R153) -/
  | faddRm (o : R3)
  /-- FADD_RP (R153) -/
  | faddRp (o : R3)
  /-- FMUL_RZ (R153) -/
  | fmulRz (o : R3)
  /-- FMUL_RM (R153) -/
  | fmulRm (o : R3)
  /-- FMUL_RP (R153) -/
  | fmulRp (o : R3)
  /-- FFMA (R155) -/
  | ffma (o : F4)
  /-- FFMS (R155) -/
  | ffms (o : F4)
  /-- HFMA2_F16 (R156) -/
  | hfma2F16 (o : F4)
  /-- HFMA2_BF16 (R156) -/
  | hfma2Bf16 (o : F4)
  /-- FRCP (R157) -/
  | frcp (o : R2)
  /-- FRSQ (R157) -/
  | frsq (o : R2)
  /-- FSQRT (R157) -/
  | fsqrt (o : R2)
  /-- FEX2 (R157) -/
  | fex2 (o : R2)
  /-- FLG2 (R157) -/
  | flg2 (o : R2)
  /-- FSINT (R157) -/
  | fsint (o : R2)
  /-- FCOST (R157) -/
  | fcost (o : R2)
  /-- FTANH (R157) -/
  | ftanh (o : R2)
  /-- FLOGI (R157) -/
  | flogi (o : R2)
  /-- FSET (R158) -/
  | fset (o : Cmp)
  /-- CVT (R39) -/
  | cvt (o : CvtO)
  /-- PK2_F16 (R161) -/
  | pk2F16 (o : R3n)
  /-- PK2_BF16 (R161) -/
  | pk2Bf16 (o : R3n)
  /-- PK4_E4M3 (R161) -/
  | pk4E4m3 (o : R3n)
  /-- PK4_E5M2 (R161) -/
  | pk4E5m2 (o : R3n)
  /-- PK8_E2M1 (R161) -/
  | pk8E2m1 (o : R3n)
  /-- PK4_E4M3_SAT (R161) -/
  | pk4E4m3Sat (o : R3n)
  /-- PK4_E5M2_SAT (R161) -/
  | pk4E5m2Sat (o : R3n)
  /-- UPK2_F16 (R161) -/
  | upk2F16 (o : R2)
  /-- UPK2_BF16 (R161) -/
  | upk2Bf16 (o : R2)
  /-- UPK4_E4M3 (R161) -/
  | upk4E4m3 (o : R2)
  /-- UPK4_E5M2 (R161) -/
  | upk4E5m2 (o : R2)
  /-- UPK8_E2M1 (R161) -/
  | upk8E2m1 (o : R2)
  /-- DP4_E4M3 (R163) -/
  | dp4E4m3 (o : F4)
  /-- DP4_E5M2 (R163) -/
  | dp4E5m2 (o : F4)
  /-- IDP4_I8 (R164) -/
  | idp4I8 (o : F4)
  /-- IDP4_N8 (R164) -/
  | idp4N8 (o : F4)
  /-- PAND (R133) -/
  | pand (o : P3)
  /-- POR (R133) -/
  | por (o : P3)
  /-- PXOR (R133) -/
  | pxor (o : P3)
  /-- PNOT (R133) -/
  | pnot (o : P2)
  /-- PPACK (R133) -/
  | ppack (o : PkO)
  /-- PUNPK (R133) -/
  | punpk (o : UpkO)
  /-- PMOV (R133) -/
  | pmov (o : P2)
  /-- LXC_AT (R107) -/
  | lxcAt (o : R3)
  /-- LXC_FLIP (R107) -/
  | lxcFlip (o : R3)
  /-- LXC_BELOW (R107) -/
  | lxcBelow (o : R3)
  /-- LXC_ABOVE (R107) -/
  | lxcAbove (o : R3)
  /-- LANY (R107) -/
  | lany (o : P2)
  /-- LALL (R107) -/
  | lall (o : P2)
  /-- LMASK (R107) -/
  | lmask (o : LmaskO)
  /-- LFIRST (R107) -/
  | lfirst (o : LfirstO)
  /-- LSUM (R107) -/
  | lsum (o : R2)
  /-- LMIN_I (R107) -/
  | lminI (o : R2)
  /-- LMAX_I (R107) -/
  | lmaxI (o : R2)
  /-- LSAME (R107) -/
  | lsame (o : R2)
  /-- BRA (R96) -/
  | bra (o : BraO)
  /-- BRX (R98) -/
  | brx (o : A1)
  /-- BRK (R100) -/
  | brk (o : BrkO)
  /-- JSET (R101) -/
  | jset (o : JsetO)
  /-- JWAIT (R103) -/
  | jwait (o : JwaitO)
  /-- JDROP (R103) -/
  | jdrop (o : JdropO)
  /-- JGET (R103) -/
  | jget (o : JgetO)
  /-- JPUT (R103) -/
  | jput (o : JputO)
  /-- CALL (R121) -/
  | call (o : CallO)
  /-- CALLX (R122) -/
  | callx (o : CallxO)
  /-- RET (R124) -/
  | ret (o : G0)
  /-- NOP (R109) -/
  | nop (o : G0)
  /-- EXIT (R109) -/
  | exit (o : G0)
  /-- YIELD (R109) -/
  | yield (o : G0)
  /-- NAP (R109) -/
  | nap (o : B1)
  /-- LD (R232) -/
  | ld (o : LmO)
  /-- ST (R234) -/
  | st (o : StO)
  /-- PREF (R236) -/
  | pref (o : PfO)
  /-- CLINE (R238) -/
  | cline (o : PfO)
  /-- SLD (R194) -/
  | sld (o : LmO)
  /-- SST (R194) -/
  | sst (o : SstO)
  /-- ATOM (R258) -/
  | atom (o : LaO)
  /-- RED (R259) -/
  | red (o : LaO)
  /-- SATOM (R196) -/
  | satom (o : LaO)
  /-- TBOX (R367) -/
  | tbox (o : TboxO)
  /-- TTRI (R369) -/
  | ttri (o : TtriO)
  /-- TRACE (R362) -/
  | trace (o : TraceO)
  /-- RSPAWN (R364) -/
  | rspawn (o : RspO)
  /-- NEXTHIT (R365) -/
  | nexthit (o : G0)
  /-- REND (R365) -/
  | rend (o : G0)
  /-- UADD (R165) -/
  | uadd (o : U3)
  /-- USUB (R165) -/
  | usub (o : U3)
  /-- UMUL (R165) -/
  | umul (o : U3)
  /-- UMULH_N (R165) -/
  | umulhN (o : U3)
  /-- UMIN_I (R165) -/
  | uminI (o : U3)
  /-- UMAX_I (R165) -/
  | umaxI (o : U3)
  /-- UMIN_N (R165) -/
  | uminN (o : U3)
  /-- UMAX_N (R165) -/
  | umaxN (o : U3)
  /-- UAND (R165) -/
  | uand (o : U3)
  /-- UOR (R165) -/
  | uor (o : U3)
  /-- UXOR (R165) -/
  | uxor (o : U3)
  /-- USHL (R165) -/
  | ushl (o : U3)
  /-- USHR_N (R165) -/
  | ushrN (o : U3)
  /-- USHR_I (R165) -/
  | ushrI (o : U3)
  /-- UPOPC (R165) -/
  | upopc (o : U2)
  /-- UCLZ (R165) -/
  | uclz (o : U2)
  /-- UMOV (R165) -/
  | umov (o : Udb)
  /-- UADDW (R165) -/
  | uaddw (o : U3)
  /-- UADDI (R166) -/
  | uaddi (o : UiO)
  /-- UANDI (R166) -/
  | uandi (o : UiO)
  /-- UORI (R166) -/
  | uori (o : UiO)
  /-- USHI (R166) -/
  | ushi (o : UshO)
  /-- UMOVI (R166) -/
  | umovi (o : UmviO)
  /-- USET (R167) -/
  | uset (o : UsetO)
  /-- UMOVS (R128) -/
  | umovs (o : U2)
  /-- ULANE_FIRST (R131) -/
  | ulaneFirst (o : UlfO)
  /-- ULANE_IDX (R131) -/
  | ulaneIdx (o : UliO)
  /-- CAND (R135) -/
  | cand (o : C3)
  /-- COR (R135) -/
  | cor (o : C3)
  /-- CXOR (R135) -/
  | cxor (o : C3)
  /-- CNOT (R135) -/
  | cnot (o : C2)
  /-- UBRA (R105) -/
  | ubra (o : UbraO)
  /-- UJMP (R105) -/
  | ujmp (o : Ua)
  /-- TRAP (R432) -/
  | trap (o : Ub)
  /-- FLGR (R432) -/
  | flgr (o : Ud)
  /-- FLGC (R432) -/
  | flgc (o : Ub)
  /-- MODE (R432) -/
  | mode (o : Ub)
  /-- MODER (R432) -/
  | moder (o : U3)
  /-- MMA (R314) -/
  | mma (o : MmaO)
  /-- MMA_C (R314) -/
  | mmaC (o : MmaO)
  /-- MMAG (R315) -/
  | mmag (o : MmagO)
  /-- MMAS (R316) -/
  | mmas (o : MmaO)
  /-- ACC_ZERO (R318) -/
  | accZero (o : AccZ)
  /-- ACC_COMMIT (R318) -/
  | accCommit (o : AccC)
  /-- ACC_DROP (R318) -/
  | accDrop (o : AccZ)
  /-- ACC_MERGE (R318) -/
  | accMerge (o : AccZ)
  /-- ACC_POISON (R318) -/
  | accPoison (o : AccP)
  /-- ACCLD (R320) -/
  | accld (o : AccIo)
  /-- ACCST (R320) -/
  | accst (o : AccIo)
  /-- AMAP (R321) -/
  | amap (o : AmapO)
  /-- BPL_LD (R323) -/
  | bplLd (o : BplO)
  /-- BPL_ZERO (R323) -/
  | bplZero (o : BpzO)
  /-- PAIR_BIND (R325) -/
  | pairBind (o : Ud)
  /-- PAIR_FREE (R325) -/
  | pairFree (o : Ud)
  /-- MWAIT (R327) -/
  | mwait (o : MwaitO)
  /-- ROWACT (R284) -/
  | rowact (o : RowaO)
  /-- ROWCON (R286) -/
  | rowcon (o : RowtO)
  /-- ROWWR (R286) -/
  | rowwr (o : RowtO)
  /-- ROWPRE (R288) -/
  | rowpre (o : RowpO)
  /-- ROWST (R290) -/
  | rowst (o : Ud)
  /-- ROWWAIT (R290) -/
  | rowwait (o : Ub)
  /-- SMAP (R198) -/
  | smap (o : SmapO)
  /-- SUNMAP (R199) -/
  | sunmap (o : SunO)
  /-- SFLUSH (R200) -/
  | sflush (o : Uab)
  /-- SINV (R200) -/
  | sinv (o : Uab)
  /-- SPRES (R200) -/
  | spres (o : Uab)
  /-- SHPUSH (R200) -/
  | shpush (o : Uab)
  /-- SGATH (R202) -/
  | sgath (o : SgaO)
  /-- SYNC_ACQ_X (R252) -/
  | syncAcqX (o : SyncO)
  /-- SYNC_ACQ_S (R252) -/
  | syncAcqS (o : SyncO)
  /-- SYNC_ACQ_O (R252) -/
  | syncAcqO (o : SyncO)
  /-- SYNC_REL (R252) -/
  | syncRel (o : SyncO)
  /-- SBIND (R254) -/
  | sbind (o : U3n)
  /-- SUNBIND (R254) -/
  | sunbind (o : U2)
  /-- FENCE_ACQ (R256) -/
  | fenceAcq (o : FenO)
  /-- FENCE_REL (R256) -/
  | fenceRel (o : FenO)
  /-- FENCE_FULL (R256) -/
  | fenceFull (o : FenO)
  /-- SEMA_SIG (R263) -/
  | semaSig (o : Uabn)
  /-- SEMA_WAIT (R263) -/
  | semaWait (o : Uabn)
  /-- SEMA_TRY (R263) -/
  | semaTry (o : U3n)
  /-- BAR_ARR (R265) -/
  | barArr (o : BarO)
  /-- BAR_WAIT (R265) -/
  | barWait (o : BarO)
  /-- BAR_SYNC (R265) -/
  | barSync (o : BarO)
  /-- ORDOPEN (R260) -/
  | ordopen (o : Uabn)
  /-- QPUSH (R397) -/
  | qpush (o : QpuO)
  /-- QPOP (R397) -/
  | qpop (o : QpoO)
  /-- CONT (R387) -/
  | cont (o : U2)
  /-- CFORK (R389) -/
  | cfork (o : U3)
  /-- CJOIN (R390) -/
  | cjoin (o : U2)
  /-- LAUNCH (R391) -/
  | launch (o : U2)
  /-- MCAST (R413) -/
  | mcast (o : SendO)
  /-- SEND (R413) -/
  | send (o : SendO)
  /-- RECV_POST (R416) -/
  | recvPost (o : U2)
  /-- RECV_WAIT (R416) -/
  | recvWait (o : U2)
  /-- RECV_TEST (R416) -/
  | recvTest (o : U2)
  /-- RECV_CANCEL (R416) -/
  | recvCancel (o : U2)
  /-- TFENCE (R422) -/
  | tfence
  /-- RTT (R430) -/
  | rtt
  /-- BKPT (R432) -/
  | bkpt
  /-- PLACE_SHADOW (R436): a DCMD write of op 1 (R448). -/
  | placeShadow (ctx core : Nat)
  /-- SWITCH_CORE (R437): a DCMD write of op 2. -/
  | switchCore (ctx core : Nat)
  /-- LOAD_CONTEXT (R440): a DCMD write of op 3. -/
  | loadContext (ctx : Nat)
  /-- KILL_CONTEXT (R434): a DCMD write of op 4. -/
  | killContext (ctx : Nat)
  /-- TLB_DROP (R216): a DCMD write of op 5, range in DARG0 and DARG1. -/
  | tlbDrop (ctx : Nat)
  /-- ICACHE_INVALIDATE (R238): a DCMD write of op 6, range in DARG0 and DARG1. -/
  | icacheInvalidate (ctx : Nat)
  /-- LQTAIL_WRITE (R447): the doorbell of context ctx written with v. -/
  | lqtailWrite (ctx v : Nat)
  /-- FQHEAD_WRITE (R449): FQHEAD written with v. -/
  | fqheadWrite (ctx v : Nat)
  /-- FQREPLAY_WRITE (R421): FQREPLAY written with a token. -/
  | fqreplayWrite (ctx token : Nat)
  /-- EQHEAD_WRITE (R446): EQHEAD written with v. -/
  | eqheadWrite (ctx v : Nat)
  /-- PWRCAP_WRITE (R445): PWRCAP written with v. -/
  | pwrcapWrite (v : Nat)
  /-- WEIGHT_WRITE (R445): the weight of class c written with v. -/
  | weightWrite (c v : Nat)
  /-- QUEUE_ENABLE (R378): the enable bit of continuation queue q written 1. -/
  | queueEnable (ctx q : Nat)
  /-- QUEUE_DISABLE (R378): the enable bit of continuation queue q written 0. -/
  | queueDisable (ctx q : Nat)
  /-- REGISTER_WRITE (R446): a 64-bit write of v at BAR0 offset off. -/
  | registerWrite (off v : Nat)
  /-- BAR2_ACCESS (R444): an access of n bytes at BAR2 offset off; wr = 1 writes v, wr = 0 reads. -/
  | bar2Access (wr off n v : Nat)
  /-- FUNDAMENTAL_RESET (R453): the host link is reset. -/
  | fundamentalReset
  /-- BOOT_VERIFY_DONE (R453): the signature check ends; ok = 1 when it passed. -/
  | bootVerifyDone (ok : Nat)
  /-- PAIR_LINK_LOST (R452): retraining failed. -/
  | pairLinkLost
  /-- TRAP_ENTRY (R425): the group whose raised cause waits for its pending results. -/
  | trapEntry (core slot : Nat)
  /-- CONTEXT_FAULT (R433): the oldest context fault recorded for ctx. -/
  | contextFault (ctx : Nat)
  /-- KILL_DONE (R434): every unit has finished removing ctx. -/
  | killDone (ctx : Nat)
  /-- SWITCH_TAKEN (R437): the requested switch of the core. -/
  | switchTaken (core : Nat)
  /-- DRAIN_COMPLETE (R439): the drain of the core's outgoing context. -/
  | drainComplete (core : Nat)
  /-- LOAD_START (R440): the oldest load of the core's resume queue. -/
  | loadStart (core : Nat)
  /-- LOAD_COMPLETE (R440): the load in progress; ok = 0 when the header or the check word is wrong. -/
  | loadComplete (core ok : Nat)
  /-- NAP_EXPIRY (R109): the napping split. -/
  | napExpiry (core slot entry : Nat)
  /-- YIELD_TIMEOUT (R85): the yielding split. -/
  | yieldTimeout (core slot entry : Nat)
  /-- OPPORTUNISTIC_MERGE (R90): two READY splits of one group. -/
  | opportunisticMerge (core slot e1 e2 : Nat)
  /-- LAUNCH_ACCEPT (R373): the header at LQHEAD of ctx. -/
  | launchAccept (ctx : Nat)
  /-- HELD_HEADER_ENQUEUE (R447): the header held at the head of the ring of ctx. -/
  | heldHeaderEnqueue (ctx : Nat)
  /-- BLOCK_ADMIT (R380): the EAM of the core's cluster offers its head; groups take free slots from slot upward; epi /= 0 admits formed episode epi - 1. -/
  | blockAdmit (core slot epi : Nat)
  /-- BLOCK_END (R374): the block. -/
  | blockEnd (blk : Nat)
  /-- JOIN_BUFFER_RETRY (R385): entry k of the join buffer. -/
  | joinBufferRetry (cluster k : Nat)
  /-- TIME_WRAP (R226): all logical times reset. -/
  | timeWrap
  /-- WALK_DONE (R214): the walk. -/
  | walkDone (id : Nat)
  /-- SLICE_READ (R223): the read request; vict: 0, or 1 + the line the slice evicts. -/
  | sliceRead (id vict : Nat)
  /-- SLICE_STORE (R223): the store request. -/
  | sliceStore (id : Nat)
  /-- L1_REPLY (R220): the reply; vict: 0, or 1 + the line the L1 evicts. -/
  | l1Reply (id vict : Nat)
  /-- L1_PROBE (R219): the probe. -/
  | l1Probe (id : Nat)
  /-- STORE_ACK (R224): the acknowledgement. -/
  | storeAck (id : Nat)
  /-- TARGET_ACCESS (R228): the N-class request. -/
  | targetAccess (id : Nat)
  /-- RSC_ACCESS (R276): the R-class request. -/
  | rscAccess (id : Nat)
  /-- ATOM_PERFORM (R258): the ATOM request; its lowest lane not yet performed. -/
  | atomPerform (id : Nat)
  /-- RED_APPLY (R259): the RED request; its lowest lane not yet applied. -/
  | redApply (id : Nat)
  /-- ORDERED_RED_ARRIVAL (R261): the RED.ord request; its lowest lane not yet arrived. -/
  | orderedRedArrival (id : Nat)
  /-- ORDOPEN_ANSWER (R260): the ORDOPEN request. -/
  | ordopenAnswer (id : Nat)
  /-- SYNC_GRANT (R250): the waiting acquire. -/
  | syncGrant (id : Nat)
  /-- SEMA_COUNT_TAKEN (R263): the waiting SEMA.WAIT. -/
  | semaCountTaken (id : Nat)
  /-- BAR_PHASE_COMPLETE (R265): barrier n of the block. -/
  | barPhaseComplete (blk n : Nat)
  /-- SCRATCH_REMOTE_ACCESS (R173): the remote scratch access. -/
  | scratchRemoteAccess (id : Nat)
  /-- SCRATCH_FILL_LAND (R178): the line fill. -/
  | scratchFillLand (id : Nat)
  /-- SCRATCH_WB_ACK (R180): the write-back. -/
  | scratchWbAck (id : Nat)
  /-- SCRATCH_PROBE (R181): the probe. -/
  | scratchProbe (id : Nat)
  /-- HALO_PUSH_ARRIVAL (R186): the push; late = 1 sends the range as it stands at the arrival. -/
  | haloPushArrival (id late : Nat)
  /-- HALO_PUSH_DONE (R186): the push. -/
  | haloPushDone (id : Nat)
  /-- ROW_OPEN_DONE (R272): slot or bank n of the core. -/
  | rowOpenDone (core n : Nat)
  /-- ROW_CLOSE_START (R288): slot or bank n of the core. -/
  | rowCloseStart (core n : Nat)
  /-- ROW_CLOSE_DONE (R272): slot or bank n of the core. -/
  | rowCloseDone (core n : Nat)
  /-- ROW_HOLD_EXPIRY (R275): slot or bank n of the core. -/
  | rowHoldExpiry (core n : Nat)
  /-- ROW_REFRESH (R273): slot or bank n of the core. -/
  | rowRefresh (core n : Nat)
  /-- INTERNAL_ACTIVATION (R276): bank n opens physical row row. -/
  | internalActivation (core n row : Nat)
  /-- ROW_TRANSFER_START (R286): the transfer. -/
  | rowTransferStart (id : Nat)
  /-- ROW_TRANSFER_END (R286): the transfer. -/
  | rowTransferEnd (id : Nat)
  /-- ROW_REACTIVATION (R280): slot n of the core. -/
  | rowReactivation (core n : Nat)
  /-- MATRIX_OP_START (R293): the next operation of the queue. -/
  | matrixOpStart (core : Nat)
  /-- MATRIX_OP_COMPLETE (R314): the oldest started operation. -/
  | matrixOpComplete (core : Nat)
  /-- ENGINE_JOB_START (R402): the card. -/
  | engineJobStart (id : Nat)
  /-- ENGINE_JOB_COMPLETE (R406): the card. -/
  | engineJobComplete (id : Nat)
  /-- MESSAGE_ARRIVAL (R411): the message. -/
  | messageArrival (id : Nat)
  /-- MESSAGE_RESEND (R413): the refused message. -/
  | messageResend (id : Nat)
  /-- TVU_ACCEPT (R362): the handed-over ray. -/
  | tvuAccept (ctx ray : Nat)
  /-- TRAVERSAL_DONE (R353): the ray; pick chooses the hit of a first-hit trace. -/
  | traversalDone (ctx ray pick : Nat)
  /-- TREELET_FILL (R354): the line fill. -/
  | treeletFill (cluster ctx line : Nat)
  /-- TREELET_PREFETCH (R355): the bin of the ray. -/
  | treeletPrefetch (cluster ctx ray : Nat)
  /-- RAY_ENTER_SAFFRON (R339): the ray. -/
  | rayEnterSaffron (ctx ray : Nat)
  /-- RAY_REFILL (R339): the spilled ray. -/
  | rayRefill (cluster ctx ray : Nat)
  /-- EPISODE_FORM_FULL (R338): the bin of the ray. -/
  | episodeFormFull (ctx ray : Nat)
  /-- EPISODE_FORM_PATIENCE (R338): the bin of the ray. -/
  | episodeFormPatience (ctx ray : Nat)
  /-- EPISODE_FORM_DRAIN (R338): the bin of the ray. -/
  | episodeFormDrain (ctx ray : Nat)
  /-- POWER_REMOVED (R17): the package loses power. -/
  | powerRemoved
  /-- PAIR_LINK_UP (R452): training ends. -/
  | pairLinkUp
  /-- PAIR_FLIT_REPLAY (R452): a flit is replayed. -/
  | pairFlitReplay
  /-- PAIRED_CONTEXT_LOST (R435): the context was lost on the other package. -/
  | pairedContextLost (ctx : Nat)
  /-- TVU_LANE_TEST_DONE (R353): the TBOX or TTRI test. -/
  | tvuLaneTestDone (id : Nat)
  /-- ORDERED_RED_RESEND (R261): the refused RED.ord request. -/
  | orderedRedResend (id : Nat)
  /-- ENGINE_CARD_ENTRY (R397): the pushed card. -/
  | engineCardEntry (id : Nat)
  deriving DecidableEq, Repr

end Sys2Proof
end

