-- ==== Sys2Proof/WellFormed.lean ====
section
/-! DEFINITION. When an instruction is well formed: the rules of R67 (spec 03) and the limits that the entries set on its
fields. -/
namespace Sys2Proof

/-- A field that names the first register of n (R56, R58, R137). -/
def mult {w : Nat} (n : Nat) (r : BitVec w) : Bool := r.toNat % n == 0
/-- A field that names the first register of a pair. -/
def even {w : Nat} (r : BitVec w) : Bool := mult 2 r

/-- The pair p = 7, n = 1 is reserved (R56, R58). -/
def Guard.ok (g : Guard) : Bool := !(g.p == 7 && g.n)

/-- A literal in place of a pair is allowed; a register must be even. -/
def VSrc.even : VSrc → Bool
  | .reg r => Sys2Proof.even r
  | .lit _ => true
def SSrc.even : SSrc → Bool
  | .reg r => Sys2Proof.even r
  | .lit _ => true

/-- The data register of a memory access: even for 64 bits, a multiple of 4 for 128 bits (R231, R193). -/
def dataOk (z : BitVec 3) (d : BitVec 5) : Bool :=
  (z != 3 || even d) && (z != 4 || mult 4 d)

/-- R41: the encodings of CVT that are reserved are refused. -/
def CvtO.ok (o : CvtO) : Bool :=
  let f := o.f.toNat
  let rnd : Bool := decide (f ∈ [0, 1, 4, 5, 6, 7, 8, 9, 10, 11, 12, 13, 16, 20, 21])
  let sat : Bool := decide (f ∈ [0, 1, 4, 5, 8, 9, 12, 13, 16, 18, 20, 21])
  decide (f < 24) && (rnd || o.r == 0) && (sat || !o.s) && (!(f == 8 || f == 9) || even o.d) &&
    (!(f == 10 || f == 11) || (match o.a with | .reg r => even r | .lit _ => false))

/-- The alignment of b: pairs for size 3, and the operands of cas (R195, R257). -/
def LaO.bOk (o : LaO) : Bool :=
  if o.op == 9 then (if o.size == 3 then mult 4 o.b else even o.b) else (o.size != 3 || even o.b)

/-- The control word of ATOM (R257). -/
def LaO.atomOk (o : LaO) : Bool :=
  (o.size == 2 || o.size == 3) && o.op.ule 12 && !(o.op == 10 && o.size == 3) && (o.size != 3 || even o.d) &&
    (o.op != 12 || o.d == 0) && (o.op != 11 || o.b == 0) && o.bOk &&
    (o.op != 11 || o.order.ule 1) && (o.op != 12 || o.order == 0 || o.order == 2)

/-- The control word of RED (R259). -/
def LaO.redOk (o : LaO) : Bool :=
  (o.size == 2 || o.size == 3) && (o.op.ule 7 || o.op == 10 || o.op == 16 || o.op == 26) &&
    !((o.op == 10 || o.op == 26) && o.size == 3) && (o.order == 0 || o.order == 2) &&
    (o.op == 16 || o.op == 26 || o.d == 0) && (o.size != 3 || even o.b)

/-- The control word of SATOM (R195). -/
def LaO.satomOk (o : LaO) : Bool :=
  (o.size == 2 || o.size == 3) && o.op.ule 10 && !(o.op == 10 && o.size == 3) && (o.size != 3 || even o.d) && o.bOk

/-- With nb = 0 the field cd must be 7 (R64). -/
def cdOk (nb : Bool) (cd : BitVec 3) : Bool := nb || cd == 7
/-- R394 and R396: the queue registers that QPUSH names, and the alignment of its source. -/
def QpuO.ok (o : QpuO) : Bool :=
  cdOk o.nb o.cd && (if o.q == 8 || o.q == 10 then mult 16 o.a else (BitVec.ofNat 4 12).ule o.q && even o.a)
/-- R394 and R396: the queue registers that QPOP names. -/
def QpoO.ok (o : QpoO) : Bool :=
  cdOk o.nb o.cd && (o.q == 9 || o.q == 11 || (BitVec.ofNat 4 12).ule o.q) && even o.a
/-- R394 and R412: the ports of SEND and MCAST. -/
def SendO.ok (o : SendO) : Bool := cdOk o.nb o.cd && o.q.ule 7 && even o.a


/-- The rules of R67 that concern the first word alone: register alignment, reserved guards and codes, limits of entries.
SLD.sp and SST.sp with x = 0 are taken, as slot 0, though R193 speaks of the slot in a literal alone: the model's choice
(log 72). -/
def wfFirst (i : Instr) : Bool :=
  match i with
  | .iadd o => o.g.ok
  | .isub o => o.g.ok
  | .iaddSat o => o.g.ok
  | .isubSat o => o.g.ok
  | .iminI o => o.g.ok
  | .imaxI o => o.g.ok
  | .iminN o => o.g.ok
  | .imaxN o => o.g.ok
  | .iabs o => o.g.ok
  | .ineg o => o.g.ok
  | .idiff o => o.g.ok
  | .lea1 o => o.g.ok && even o.d && even o.a
  | .lea2 o => o.g.ok && even o.d && even o.a
  | .lea3 o => o.g.ok && even o.d && even o.a
  | .lea4 o => o.g.ok && even o.d && even o.a
  | .iaddw o => o.g.ok && even o.d && even o.a && o.b.even
  | .isubw o => o.g.ok && even o.d && even o.a && o.b.even
  | .and o => o.g.ok
  | .or o => o.g.ok
  | .xor o => o.g.ok
  | .andn o => o.g.ok
  | .orn o => o.g.ok
  | .not o => o.g.ok
  | .shl o => o.g.ok
  | .shrN o => o.g.ok
  | .shrI o => o.g.ok
  | .rotl o => o.g.ok
  | .popc o => o.g.ok
  | .clz o => o.g.ok
  | .brev o => o.g.ok
  | .bytsel o => o.g.ok
  | .imul o => o.g.ok
  | .imulhI o => o.g.ok
  | .imulhN o => o.g.ok
  | .imulwI o => o.g.ok && even o.d
  | .imulwN o => o.g.ok && even o.d
  | .imad o => o.g.ok
  | .imadW o => o.g.ok && even o.d && even o.c
  | .bfe o => o.g.ok
  | .bfi o => o.g.ok
  | .iset o => o.g.ok && o.m != 3 && o.f.ule 9
  | .mov o => o.g.ok
  | .sel _ => true
  | .movu o => o.g.ok
  | .movs o => o.g.ok && o.s.ule 25
  | .iaddi _ => true
  | .andi _ => true
  | .ori _ => true
  | .xori _ => true
  | .shi _ => true
  | .movi _ => true
  | .fadd o => o.g.ok
  | .fsub o => o.g.ok
  | .fmul o => o.g.ok
  | .fmin o => o.g.ok
  | .fmax o => o.g.ok
  | .fabs o => o.g.ok
  | .fneg o => o.g.ok
  | .fcopysign o => o.g.ok
  | .ffrac o => o.g.ok
  | .fclass o => o.g.ok
  | .frintRn o => o.g.ok
  | .frintRz o => o.g.ok
  | .frintRm o => o.g.ok
  | .frintRp o => o.g.ok
  | .faddRz o => o.g.ok
  | .faddRm o => o.g.ok
  | .faddRp o => o.g.ok
  | .fmulRz o => o.g.ok
  | .fmulRm o => o.g.ok
  | .fmulRp o => o.g.ok
  | .ffma o => o.g.ok
  | .ffms o => o.g.ok
  | .hfma2F16 o => o.g.ok
  | .hfma2Bf16 o => o.g.ok
  | .frcp o => o.g.ok
  | .frsq o => o.g.ok
  | .fsqrt o => o.g.ok
  | .fex2 o => o.g.ok
  | .flg2 o => o.g.ok
  | .fsint o => o.g.ok
  | .fcost o => o.g.ok
  | .ftanh o => o.g.ok
  | .flogi o => o.g.ok
  | .fset o => o.g.ok && o.m != 3 && o.f.ule 13
  | .cvt o => o.g.ok && o.ok
  | .pk2F16 o => o.g.ok
  | .pk2Bf16 o => o.g.ok
  | .pk4E4m3 o => o.g.ok && even o.a && even o.b
  | .pk4E5m2 o => o.g.ok && even o.a && even o.b
  | .pk8E2m1 o => o.g.ok && mult 4 o.a && mult 4 o.b
  | .pk4E4m3Sat o => o.g.ok && even o.a && even o.b
  | .pk4E5m2Sat o => o.g.ok && even o.a && even o.b
  | .upk2F16 o => o.g.ok && even o.d
  | .upk2Bf16 o => o.g.ok && even o.d
  | .upk4E4m3 o => o.g.ok && mult 4 o.d
  | .upk4E5m2 o => o.g.ok && mult 4 o.d
  | .upk8E2m1 o => o.g.ok && mult 8 o.d
  | .dp4E4m3 o => o.g.ok
  | .dp4E5m2 o => o.g.ok
  | .idp4I8 o => o.g.ok
  | .idp4N8 o => o.g.ok
  | .pand o => o.g.ok
  | .por o => o.g.ok
  | .pxor o => o.g.ok
  | .pnot o => o.g.ok
  | .ppack o => o.g.ok
  | .punpk o => o.g.ok
  | .pmov o => o.g.ok
  | .lxcAt o => o.g.ok
  | .lxcFlip o => o.g.ok
  | .lxcBelow o => o.g.ok
  | .lxcAbove o => o.g.ok
  | .lany o => o.g.ok
  | .lall o => o.g.ok
  | .lmask o => o.g.ok
  | .lfirst o => o.g.ok
  | .lsum o => o.g.ok
  | .lminI o => o.g.ok
  | .lmaxI o => o.g.ok
  | .lsame o => o.g.ok
  | .bra o => o.g.ok
  | .brx o => o.g.ok && even o.a
  | .brk o => o.g.ok
  | .jset _ => true
  | .jwait o => o.g.ok
  | .jdrop o => o.g.ok
  | .jget o => o.g.ok && even o.d
  | .jput o => o.g.ok && even o.a
  | .call o => o.g.ok && o.k != 0
  | .callx o => o.g.ok && even o.a && o.k != 0
  | .ret o => o.g.ok
  | .nop o => o.g.ok
  | .exit o => o.g.ok
  | .yield o => o.g.ok
  | .nap o => o.g.ok
  | .ld o => o.g.ok && even o.a && o.z.ule 4 && dataOk o.z o.d && (o.k == 0 || (o.k == 1 && o.z.ule 1) || (o.k == 2 && !o.s))
  | .st o => o.g.ok && even o.a && o.z.ule 4 && dataOk o.z o.d && (o.k == 0 || o.k == 2)
  | .pref o => o.g.ok && even o.a && o.k != 3
  | .cline o => o.g.ok && even o.a && o.k != 3
  | .sld o => o.g.ok && o.z.ule 4 && dataOk o.z o.d && (o.k == 0 || (o.k == 1 && o.z.ule 1)) && (!o.s || o.z == 2 || o.z == 3)
  | .sst o => o.g.ok && o.z.ule 4 && dataOk o.z o.d && (!o.s || o.z == 2 || o.z == 3)
  | .atom o => o.g.ok && even o.a
  | .red o => o.g.ok && even o.a && o.l == 0
  | .satom o => o.g.ok
  | .tbox o => o.g.ok && even o.d && even o.a
  | .ttri o => o.g.ok && mult 4 o.d && even o.a
  | .trace o => o.g.ok
  | .rspawn o => o.g.ok
  | .nexthit o => o.g.ok
  | .rend o => o.g.ok
  | .uadd _ => true
  | .usub _ => true
  | .umul _ => true
  | .umulhN _ => true
  | .uminI _ => true
  | .umaxI _ => true
  | .uminN _ => true
  | .umaxN _ => true
  | .uand _ => true
  | .uor _ => true
  | .uxor _ => true
  | .ushl _ => true
  | .ushrN _ => true
  | .ushrI _ => true
  | .upopc _ => true
  | .uclz _ => true
  | .umov _ => true
  | .uaddw o => even o.d && even o.a && o.b.even
  | .uaddi _ => true
  | .uandi _ => true
  | .uori _ => true
  | .ushi _ => true
  | .umovi _ => true
  | .uset o => o.m != 3 && o.f.ule 9
  | .umovs o => (o.a.ule 25 || ((BitVec.ofNat 6 32).ule o.a && o.a.ule 35))
  | .ulaneFirst _ => true
  | .ulaneIdx _ => true
  | .cand _ => true
  | .cor _ => true
  | .cxor _ => true
  | .cnot _ => true
  | .ubra o => o.c.ok
  | .ujmp o => even o.a
  | .tfence => true
  | .trap _ => true
  | .rtt => true
  | .bkpt => true
  | .flgr o => even o.d
  | .flgc _ => true
  | .mode _ => true
  | .moder _ => true
  | .mma o => o.u == 0
  | .mmaC o => o.u != 0
  | .mmag o => even o.a
  | .mmas _ => true
  | .accZero _ => true
  | .accCommit o => o.c.ok
  | .accDrop _ => true
  | .accMerge _ => true
  | .accPoison o => (if o.p then mult 16 o.d else mult 8 o.d)
  | .accld o => o.fmt.ule 2 && !o.sat
  | .accst o => o.fmt.ule 4 && !(o.sat && o.fmt == 0)
  | .amap o => mult 4 o.a
  | .bplLd _ => true
  | .bplZero _ => true
  | .pairBind _ => true
  | .pairFree _ => true
  | .mwait _ => true
  | .rowact _ => true
  | .rowcon _ => true
  | .rowwr o => !o.bpl
  | .rowpre _ => true
  | .rowst o => even o.d
  | .rowwait _ => true
  | .smap o => o.k != 3 && (o.k == 2 || even o.b)
  | .sunmap _ => true
  | .sflush _ => true
  | .sinv _ => true
  | .spres _ => true
  | .shpush _ => true
  | .sgath _ => true
  | .syncAcqX o => even o.a && (o.t || o.d == 0)
  | .syncAcqS o => even o.a && (o.t || o.d == 0)
  | .syncAcqO o => even o.a && (o.t || o.d == 0)
  | .syncRel o => even o.a && (o.t || o.d == 0)
  | .sbind o => even o.a && mult 4 o.b
  | .sunbind o => even o.a
  | .fenceAcq _ => true
  | .fenceRel _ => true
  | .fenceFull _ => true
  | .semaSig o => even o.a && even o.b
  | .semaWait o => even o.a && even o.b
  | .semaTry o => even o.a && even o.b
  | .barArr _ => true
  | .barWait _ => true
  | .barSync _ => true
  | .ordopen o => even o.a && mult 4 o.b
  | .qpush o => o.ok
  | .qpop o => o.ok
  | .cont o => mult 8 o.a
  | .cfork o => mult 8 o.a
  | .cjoin o => even o.a
  | .launch o => even o.a
  | .mcast o => o.ok
  | .send o => o.ok
  | .recvPost o => mult 4 o.a
  | .recvWait o => even o.d
  | .recvTest o => even o.d
  | .recvCancel _ => true
  | .placeShadow _ _ => false
  | .switchCore _ _ => false
  | .loadContext _ => false
  | .killContext _ => false
  | .tlbDrop _ => false
  | .icacheInvalidate _ => false
  | .lqtailWrite _ _ => false
  | .fqheadWrite _ _ => false
  | .fqreplayWrite _ _ => false
  | .eqheadWrite _ _ => false
  | .pwrcapWrite _ => false
  | .weightWrite _ _ => false
  | .queueEnable _ _ => false
  | .queueDisable _ _ => false
  | .registerWrite _ _ => false
  | .bar2Access _ _ _ _ => false
  | .fundamentalReset => false
  | .bootVerifyDone _ => false
  | .pairLinkLost => false
  | .trapEntry _ _ => false
  | .contextFault _ => false
  | .killDone _ => false
  | .switchTaken _ => false
  | .drainComplete _ => false
  | .loadStart _ => false
  | .loadComplete _ _ => false
  | .napExpiry _ _ _ => false
  | .yieldTimeout _ _ _ => false
  | .opportunisticMerge _ _ _ _ => false
  | .launchAccept _ => false
  | .heldHeaderEnqueue _ => false
  | .blockAdmit _ _ _ => false
  | .blockEnd _ => false
  | .joinBufferRetry _ _ => false
  | .timeWrap => false
  | .walkDone _ => false
  | .sliceRead _ _ => false
  | .sliceStore _ => false
  | .l1Reply _ _ => false
  | .l1Probe _ => false
  | .storeAck _ => false
  | .targetAccess _ => false
  | .rscAccess _ => false
  | .atomPerform _ => false
  | .redApply _ => false
  | .orderedRedArrival _ => false
  | .ordopenAnswer _ => false
  | .syncGrant _ => false
  | .semaCountTaken _ => false
  | .barPhaseComplete _ _ => false
  | .scratchRemoteAccess _ => false
  | .scratchFillLand _ => false
  | .scratchWbAck _ => false
  | .scratchProbe _ => false
  | .haloPushArrival _ _ => false
  | .haloPushDone _ => false
  | .rowOpenDone _ _ => false
  | .rowCloseStart _ _ => false
  | .rowCloseDone _ _ => false
  | .rowHoldExpiry _ _ => false
  | .rowRefresh _ _ => false
  | .internalActivation _ _ _ => false
  | .rowTransferStart _ => false
  | .rowTransferEnd _ => false
  | .rowReactivation _ _ => false
  | .matrixOpStart _ => false
  | .matrixOpComplete _ => false
  | .engineJobStart _ => false
  | .engineJobComplete _ => false
  | .messageArrival _ => false
  | .messageResend _ => false
  | .tvuAccept _ _ => false
  | .traversalDone _ _ _ => false
  | .treeletFill _ _ _ => false
  | .treeletPrefetch _ _ _ => false
  | .rayEnterSaffron _ _ => false
  | .rayRefill _ _ _ => false
  | .episodeFormFull _ _ => false
  | .episodeFormPatience _ _ => false
  | .episodeFormDrain _ _ => false
  | .powerRemoved => false
  | .pairLinkUp => false
  | .pairFlitReplay => false
  | .pairedContextLost _ => false
  | .tvuLaneTestDone _ => false
  | .orderedRedResend _ => false
  | .engineCardEntry _ => false

/-- The rules of R67 that concern the second word. -/
def wfSecond (i : Instr) : Bool :=
  match i with
  | .iadd _ => true
  | .isub _ => true
  | .iaddSat _ => true
  | .isubSat _ => true
  | .iminI _ => true
  | .imaxI _ => true
  | .iminN _ => true
  | .imaxN _ => true
  | .iabs _ => true
  | .ineg _ => true
  | .idiff _ => true
  | .lea1 _ => true
  | .lea2 _ => true
  | .lea3 _ => true
  | .lea4 _ => true
  | .iaddw _ => true
  | .isubw _ => true
  | .and _ => true
  | .or _ => true
  | .xor _ => true
  | .andn _ => true
  | .orn _ => true
  | .not _ => true
  | .shl _ => true
  | .shrN _ => true
  | .shrI _ => true
  | .rotl _ => true
  | .popc _ => true
  | .clz _ => true
  | .brev _ => true
  | .bytsel _ => true
  | .imul _ => true
  | .imulhI _ => true
  | .imulhN _ => true
  | .imulwI _ => true
  | .imulwN _ => true
  | .imad _ => true
  | .imadW _ => true
  | .bfe _ => true
  | .bfi _ => true
  | .iset _ => true
  | .mov _ => true
  | .sel _ => true
  | .movu _ => true
  | .movs _ => true
  | .iaddi _ => true
  | .andi _ => true
  | .ori _ => true
  | .xori _ => true
  | .shi _ => true
  | .movi _ => true
  | .fadd _ => true
  | .fsub _ => true
  | .fmul _ => true
  | .fmin _ => true
  | .fmax _ => true
  | .fabs _ => true
  | .fneg _ => true
  | .fcopysign _ => true
  | .ffrac _ => true
  | .fclass _ => true
  | .frintRn _ => true
  | .frintRz _ => true
  | .frintRm _ => true
  | .frintRp _ => true
  | .faddRz _ => true
  | .faddRm _ => true
  | .faddRp _ => true
  | .fmulRz _ => true
  | .fmulRm _ => true
  | .fmulRp _ => true
  | .ffma _ => true
  | .ffms _ => true
  | .hfma2F16 _ => true
  | .hfma2Bf16 _ => true
  | .frcp _ => true
  | .frsq _ => true
  | .fsqrt _ => true
  | .fex2 _ => true
  | .flg2 _ => true
  | .fsint _ => true
  | .fcost _ => true
  | .ftanh _ => true
  | .flogi _ => true
  | .fset _ => true
  | .cvt _ => true
  | .pk2F16 _ => true
  | .pk2Bf16 _ => true
  | .pk4E4m3 _ => true
  | .pk4E5m2 _ => true
  | .pk8E2m1 _ => true
  | .pk4E4m3Sat _ => true
  | .pk4E5m2Sat _ => true
  | .upk2F16 _ => true
  | .upk2Bf16 _ => true
  | .upk4E4m3 _ => true
  | .upk4E5m2 _ => true
  | .upk8E2m1 _ => true
  | .dp4E4m3 _ => true
  | .dp4E5m2 _ => true
  | .idp4I8 _ => true
  | .idp4N8 _ => true
  | .pand _ => true
  | .por _ => true
  | .pxor _ => true
  | .pnot _ => true
  | .ppack _ => true
  | .punpk _ => true
  | .pmov _ => true
  | .lxcAt _ => true
  | .lxcFlip _ => true
  | .lxcBelow _ => true
  | .lxcAbove _ => true
  | .lany _ => true
  | .lall _ => true
  | .lmask _ => true
  | .lfirst _ => true
  | .lsum _ => true
  | .lminI _ => true
  | .lmaxI _ => true
  | .lsame _ => true
  | .bra _ => true
  | .brx _ => true
  | .brk _ => true
  | .jset _ => true
  | .jwait _ => true
  | .jdrop _ => true
  | .jget _ => true
  | .jput _ => true
  | .call _ => true
  | .callx _ => true
  | .ret _ => true
  | .nop _ => true
  | .exit _ => true
  | .yield _ => true
  | .nap _ => true
  | .ld _ => true
  | .st _ => true
  | .pref _ => true
  | .cline _ => true
  | .sld _ => true
  | .sst _ => true
  | .atom o => o.atomOk
  | .red o => o.redOk
  | .satom o => o.satomOk
  | .tbox o => mult 8 o.c
  | .ttri o => mult 8 o.c
  | .trace o => mult 4 o.n && (o.ord || o.k == 0) && !(o.ord && o.first)
  | .rspawn _ => true
  | .nexthit _ => true
  | .rend _ => true
  | .uadd _ => true
  | .usub _ => true
  | .umul _ => true
  | .umulhN _ => true
  | .uminI _ => true
  | .umaxI _ => true
  | .uminN _ => true
  | .umaxN _ => true
  | .uand _ => true
  | .uor _ => true
  | .uxor _ => true
  | .ushl _ => true
  | .ushrN _ => true
  | .ushrI _ => true
  | .upopc _ => true
  | .uclz _ => true
  | .umov _ => true
  | .uaddw _ => true
  | .uaddi _ => true
  | .uandi _ => true
  | .uori _ => true
  | .ushi _ => true
  | .umovi _ => true
  | .uset _ => true
  | .umovs _ => true
  | .ulaneFirst _ => true
  | .ulaneIdx _ => true
  | .cand _ => true
  | .cor _ => true
  | .cxor _ => true
  | .cnot _ => true
  | .ubra _ => true
  | .ujmp _ => true
  | .tfence => true
  | .trap _ => true
  | .rtt => true
  | .bkpt => true
  | .flgr _ => true
  | .flgc _ => true
  | .mode _ => true
  | .moder _ => true
  | .mma _ => true
  | .mmaC _ => true
  | .mmag _ => true
  | .mmas _ => true
  | .accZero _ => true
  | .accCommit _ => true
  | .accDrop _ => true
  | .accMerge _ => true
  | .accPoison _ => true
  | .accld o => decide (o.row0.toNat + o.rows.toNat + 1 <= 16)
  | .accst o => decide (o.row0.toNat + o.rows.toNat + 1 <= 16)
  | .amap _ => true
  | .bplLd _ => true
  | .bplZero _ => true
  | .pairBind _ => true
  | .pairFree _ => true
  | .mwait _ => true
  | .rowact _ => true
  | .rowcon _ => true
  | .rowwr _ => true
  | .rowpre _ => true
  | .rowst _ => true
  | .rowwait _ => true
  | .smap _ => true
  | .sunmap _ => true
  | .sflush _ => true
  | .sinv _ => true
  | .spres _ => true
  | .shpush _ => true
  | .sgath o => o.rb != 0
  | .syncAcqX _ => true
  | .syncAcqS _ => true
  | .syncAcqO _ => true
  | .syncRel _ => true
  | .sbind _ => true
  | .sunbind _ => true
  | .fenceAcq _ => true
  | .fenceRel _ => true
  | .fenceFull _ => true
  | .semaSig _ => true
  | .semaWait _ => true
  | .semaTry _ => true
  | .barArr _ => true
  | .barWait _ => true
  | .barSync _ => true
  | .ordopen _ => true
  | .qpush _ => true
  | .qpop _ => true
  | .cont _ => true
  | .cfork _ => true
  | .cjoin _ => true
  | .launch _ => true
  | .mcast _ => true
  | .send _ => true
  | .recvPost _ => true
  | .recvWait _ => true
  | .recvTest _ => true
  | .recvCancel _ => true
  | .placeShadow _ _ => false
  | .switchCore _ _ => false
  | .loadContext _ => false
  | .killContext _ => false
  | .tlbDrop _ => false
  | .icacheInvalidate _ => false
  | .lqtailWrite _ _ => false
  | .fqheadWrite _ _ => false
  | .fqreplayWrite _ _ => false
  | .eqheadWrite _ _ => false
  | .pwrcapWrite _ => false
  | .weightWrite _ _ => false
  | .queueEnable _ _ => false
  | .queueDisable _ _ => false
  | .registerWrite _ _ => false
  | .bar2Access _ _ _ _ => false
  | .fundamentalReset => false
  | .bootVerifyDone _ => false
  | .pairLinkLost => false
  | .trapEntry _ _ => false
  | .contextFault _ => false
  | .killDone _ => false
  | .switchTaken _ => false
  | .drainComplete _ => false
  | .loadStart _ => false
  | .loadComplete _ _ => false
  | .napExpiry _ _ _ => false
  | .yieldTimeout _ _ _ => false
  | .opportunisticMerge _ _ _ _ => false
  | .launchAccept _ => false
  | .heldHeaderEnqueue _ => false
  | .blockAdmit _ _ _ => false
  | .blockEnd _ => false
  | .joinBufferRetry _ _ => false
  | .timeWrap => false
  | .walkDone _ => false
  | .sliceRead _ _ => false
  | .sliceStore _ => false
  | .l1Reply _ _ => false
  | .l1Probe _ => false
  | .storeAck _ => false
  | .targetAccess _ => false
  | .rscAccess _ => false
  | .atomPerform _ => false
  | .redApply _ => false
  | .orderedRedArrival _ => false
  | .ordopenAnswer _ => false
  | .syncGrant _ => false
  | .semaCountTaken _ => false
  | .barPhaseComplete _ _ => false
  | .scratchRemoteAccess _ => false
  | .scratchFillLand _ => false
  | .scratchWbAck _ => false
  | .scratchProbe _ => false
  | .haloPushArrival _ _ => false
  | .haloPushDone _ => false
  | .rowOpenDone _ _ => false
  | .rowCloseStart _ _ => false
  | .rowCloseDone _ _ => false
  | .rowHoldExpiry _ _ => false
  | .rowRefresh _ _ => false
  | .internalActivation _ _ _ => false
  | .rowTransferStart _ => false
  | .rowTransferEnd _ => false
  | .rowReactivation _ _ => false
  | .matrixOpStart _ => false
  | .matrixOpComplete _ => false
  | .engineJobStart _ => false
  | .engineJobComplete _ => false
  | .messageArrival _ => false
  | .messageResend _ => false
  | .tvuAccept _ _ => false
  | .traversalDone _ _ _ => false
  | .treeletFill _ _ _ => false
  | .treeletPrefetch _ _ _ => false
  | .rayEnterSaffron _ _ => false
  | .rayRefill _ _ _ => false
  | .episodeFormFull _ _ => false
  | .episodeFormPatience _ _ => false
  | .episodeFormDrain _ _ => false
  | .powerRemoved => false
  | .pairLinkUp => false
  | .pairFlitReplay => false
  | .pairedContextLost _ => false
  | .tvuLaneTestDone _ => false
  | .orderedRedResend _ => false
  | .engineCardEntry _ => false

/-- An instruction is well formed when no rule of R67 rejects its fields; an event is no instruction word. -/
def Instr.wf (i : Instr) : Bool := wfFirst i && wfSecond i

end Sys2Proof
end

