-- ==== Sys2Proof/Decode.lean ====
section
/-! DEFINITION. The instruction words of the KZ8 (spec 03 R50 to R67 and the encoding of each entry): the decoder, total
on any two words and rejecting by name, and the encoder. -/
namespace Sys2Proof

/-- Bit i of a word. -/
def bitAt (w : Word) (i : Nat) : Bool := w.getLsbD i

/-- Format LR (R55). -/
def lr (mj : BitVec 7) (d a b fn : BitVec 5) (x : Bool) (g : Guard) : Word :=
  mj ++ d ++ a ++ b ++ fn ++ bit1 x ++ g.p ++ bit1 g.n
/-- Format LF (R55). -/
def lf (mj : BitVec 7) (d a b c : BitVec 5) (fx : Bool) (g : Guard) : Word :=
  mj ++ d ++ a ++ b ++ c ++ bit1 fx ++ g.p ++ bit1 g.n
/-- Formats LM and LA share their places (R55). -/
def lm (mj : BitVec 7) (d a : BitVec 5) (z : BitVec 3) (k : BitVec 2) (l : BitVec 4) (x : Bool) (g : Guard) (s : Bool) :
    Word :=
  mj ++ d ++ a ++ z ++ k ++ l ++ bit1 x ++ g.p ++ bit1 g.n ++ bit1 s
def la (mj : BitVec 7) (d a b : BitVec 5) (l : BitVec 4) (g : Guard) : Word :=
  mj ++ d ++ a ++ b ++ l ++ bit1 true ++ g.p ++ bit1 g.n ++ bit1 false
/-- Format UR (R57). -/
def ur (mj : BitVec 7) (d a b : BitVec 6) (fn : BitVec 5) (x : Bool) : Word :=
  mj ++ d ++ a ++ b ++ fn ++ bit1 x ++ bit1 false
/-- Format UQ (R57). -/
def uq (mj : BitVec 7) (q : BitVec 4) (nb : Bool) (cd : BitVec 3) (a b : BitVec 6) (l : BitVec 4) (x : Bool) : Word :=
  mj ++ q ++ bit1 nb ++ cd ++ a ++ b ++ l ++ bit1 x
/-- Format UX (R57). -/
def ux (mj : BitVec 7) (f1 f2 : BitVec 4) (a b : BitVec 6) (l : BitVec 4) (x : Bool) : Word :=
  mj ++ f1 ++ f2 ++ a ++ b ++ l ++ bit1 x

/-- The guard of the formats LR, LF (R55). -/
def Guard.atL (w : Word) : Guard := ⟨w.extractLsb' 1 3, bitAt w 0⟩
/-- The guard of the formats LM, LA (R55). -/
def Guard.atM (w : Word) : Guard := ⟨w.extractLsb' 2 3, bitAt w 1⟩
/-- The guard of the formats LB, LK, UB (R55, R57). -/
def Guard.atB (w : Word) : Guard := ⟨w.extractLsb' 22 3, bitAt w 21⟩

/-- The register field of a source that may be a literal: 0 beside x = 1 (R52). -/
def VSrc.fld : VSrc → BitVec 5
  | .reg r => r
  | .lit _ => 0
def VSrc.x : VSrc → Bool
  | .reg _ => false
  | .lit _ => true
def VSrc.tl : VSrc → List Word
  | .reg _ => []
  | .lit w => [w]
def VSrc.of (x : Bool) (r : BitVec 5) (w1 : Word) : VSrc := if x then .lit w1 else .reg r
def SSrc.fld : SSrc → BitVec 6
  | .reg r => r
  | .lit _ => 0
def SSrc.x : SSrc → Bool
  | .reg _ => false
  | .lit _ => true
def SSrc.tl : SSrc → List Word
  | .reg _ => []
  | .lit w => [w]
def SSrc.of (x : Bool) (r : BitVec 6) (w1 : Word) : SSrc := if x then .lit w1 else .reg r
/-- The literal offset of format LM (R52). -/
def offOf (x : Bool) (w1 : Word) : Option Word := if x then some w1 else none

/-! Each operand form with its words and with its fields read back from the words. -/

def R3.words (mj : BitVec 7) (fn : BitVec 5) (o : R3) : List Word := lr mj o.d o.a o.b.fld fn o.b.x o.g :: o.b.tl
def R3.ofWords (w w1 : Word) : R3 :=
  ⟨w.extractLsb' 20 5, w.extractLsb' 15 5, .of (bitAt w 4) (w.extractLsb' 10 5) w1, .atL w⟩
def R3n.words (mj : BitVec 7) (fn : BitVec 5) (o : R3n) : List Word := [lr mj o.d o.a o.b fn false o.g]
def R3n.ofWords (w _w1 : Word) : R3n := ⟨w.extractLsb' 20 5, w.extractLsb' 15 5, w.extractLsb' 10 5, .atL w⟩
def R2.words (mj : BitVec 7) (fn : BitVec 5) (o : R2) : List Word := [lr mj o.d o.a 0 fn false o.g]
def R2.ofWords (w _w1 : Word) : R2 := ⟨w.extractLsb' 20 5, w.extractLsb' 15 5, .atL w⟩
def F4.words (mj : BitVec 7) (fx : Bool) (o : F4) : List Word := [lf mj o.d o.a o.b o.c fx o.g]
def F4.ofWords (w _w1 : Word) : F4 :=
  ⟨w.extractLsb' 20 5, w.extractLsb' 15 5, w.extractLsb' 10 5, w.extractLsb' 5 5, .atL w⟩
def F3.words (mj : BitVec 7) (fx : Bool) (o : F3) : List Word := [lf mj o.d o.a 0 o.c fx o.g]
def F3.ofWords (w _w1 : Word) : F3 := ⟨w.extractLsb' 20 5, w.extractLsb' 15 5, w.extractLsb' 5 5, .atL w⟩
def Cmp.words (mj : BitVec 7) (o : Cmp) : List Word := lr mj (o.p ++ o.m) o.a o.b.fld o.f o.b.x o.g :: o.b.tl
def Cmp.ofWords (w w1 : Word) : Cmp :=
  ⟨w.extractLsb' 22 3, w.extractLsb' 20 2, w.extractLsb' 15 5, .of (bitAt w 4) (w.extractLsb' 10 5) w1,
    w.extractLsb' 5 5, .atL w⟩
def MovO.words (mj : BitVec 7) (fn : BitVec 5) (o : MovO) : List Word := lr mj o.d 0 o.b.fld fn o.b.x o.g :: o.b.tl
def MovO.ofWords (w w1 : Word) : MovO := ⟨w.extractLsb' 20 5, .of (bitAt w 4) (w.extractLsb' 10 5) w1, .atL w⟩
def MovuO.words (mj : BitVec 7) (fn : BitVec 5) (o : MovuO) : List Word :=
  [lr mj o.d (o.s.extractLsb' 0 5) (0#4 ++ o.s.extractLsb' 5 1) fn false o.g]
def MovuO.ofWords (w _w1 : Word) : MovuO :=
  ⟨w.extractLsb' 20 5, w.extractLsb' 10 1 ++ w.extractLsb' 15 5, .atL w⟩
def MovsO.words (mj : BitVec 7) (fn : BitVec 5) (o : MovsO) : List Word := [lr mj o.d o.s 0 fn false o.g]
def MovsO.ofWords (w _w1 : Word) : MovsO := ⟨w.extractLsb' 20 5, w.extractLsb' 15 5, .atL w⟩
def I12.words (mj : BitVec 7) (o : I12) : List Word := [mj ++ o.d ++ o.a ++ o.i ++ o.p]
def I12.ofWords (w _w1 : Word) : I12 := ⟨w.extractLsb' 20 5, w.extractLsb' 15 5, w.extractLsb' 3 12, w.extractLsb' 0 3⟩
def Sh5.words (mj : BitVec 7) (o : Sh5) : List Word := [mj ++ o.d ++ o.a ++ 0#5 ++ o.k ++ o.c ++ o.p]
def Sh5.ofWords (w _w1 : Word) : Sh5 :=
  ⟨w.extractLsb' 20 5, w.extractLsb' 15 5, w.extractLsb' 8 2, w.extractLsb' 3 5, w.extractLsb' 0 3⟩
def I17.words (mj : BitVec 7) (o : I17) : List Word := [mj ++ o.d ++ o.i ++ o.p]
def I17.ofWords (w _w1 : Word) : I17 := ⟨w.extractLsb' 20 5, w.extractLsb' 3 17, w.extractLsb' 0 3⟩
def CvtO.words (mj : BitVec 7) (o : CvtO) : List Word :=
  lr mj o.d o.a.fld (0#2 ++ bit1 o.s ++ o.r) o.f o.a.x o.g :: o.a.tl
def CvtO.ofWords (w w1 : Word) : CvtO :=
  ⟨w.extractLsb' 20 5, .of (bitAt w 4) (w.extractLsb' 15 5) w1, bitAt w 12, w.extractLsb' 10 2, w.extractLsb' 5 5, .atL w⟩
def P3.words (mj : BitVec 7) (fn : BitVec 5) (o : P3) : List Word :=
  [lr mj (o.p ++ 0#2) (0#1 ++ bit1 o.m ++ o.a) (0#1 ++ bit1 o.k ++ o.b) fn false o.g]
def P3.ofWords (w _w1 : Word) : P3 :=
  ⟨w.extractLsb' 22 3, bitAt w 18, w.extractLsb' 15 3, bitAt w 13, w.extractLsb' 10 3, .atL w⟩
def P2.words (mj : BitVec 7) (fn : BitVec 5) (o : P2) : List Word :=
  [lr mj (o.p ++ 0#2) (0#1 ++ bit1 o.m ++ o.a) 0 fn false o.g]
def P2.ofWords (w _w1 : Word) : P2 := ⟨w.extractLsb' 22 3, bitAt w 18, w.extractLsb' 15 3, .atL w⟩
def PkO.words (mj : BitVec 7) (fn : BitVec 5) (o : PkO) : List Word := [lr mj o.d o.a (0#3 ++ o.k) fn false o.g]
def PkO.ofWords (w _w1 : Word) : PkO := ⟨w.extractLsb' 20 5, w.extractLsb' 15 5, w.extractLsb' 10 2, .atL w⟩
def UpkO.words (mj : BitVec 7) (fn : BitVec 5) (o : UpkO) : List Word := [lr mj 0 o.a (0#3 ++ o.k) fn false o.g]
def UpkO.ofWords (w _w1 : Word) : UpkO := ⟨w.extractLsb' 15 5, w.extractLsb' 10 2, .atL w⟩
def LmaskO.words (mj : BitVec 7) (fn : BitVec 5) (o : LmaskO) : List Word :=
  [lr mj o.d (0#1 ++ bit1 o.m ++ o.a) 0 fn false o.g]
def LmaskO.ofWords (w _w1 : Word) : LmaskO := ⟨w.extractLsb' 20 5, bitAt w 18, w.extractLsb' 15 3, .atL w⟩
def LfirstO.words (mj : BitVec 7) (fn : BitVec 5) (o : LfirstO) : List Word := [lr mj (o.p ++ 0#2) 0 0 fn false o.g]
def LfirstO.ofWords (w _w1 : Word) : LfirstO := ⟨w.extractLsb' 22 3, .atL w⟩
def BraO.words (mj : BitVec 7) (o : BraO) : List Word := [mj ++ o.g.p ++ bit1 o.g.n ++ o.d]
def BraO.ofWords (w _w1 : Word) : BraO := ⟨.atB w, w.extractLsb' 0 21⟩
def A1.words (mj : BitVec 7) (fn : BitVec 5) (o : A1) : List Word := [lr mj 0 o.a 0 fn false o.g]
def A1.ofWords (w _w1 : Word) : A1 := ⟨w.extractLsb' 15 5, .atL w⟩
def BrkO.words (mj : BitVec 7) (o : BrkO) : List Word := [mj ++ o.g.p ++ bit1 o.g.n ++ o.m ++ o.d]
def BrkO.ofWords (w _w1 : Word) : BrkO := ⟨.atB w, w.extractLsb' 13 8, w.extractLsb' 0 13⟩
def JsetO.words (mj : BitVec 7) (o : JsetO) : List Word := [mj ++ o.j ++ o.d]
def JsetO.ofWords (w _w1 : Word) : JsetO := ⟨w.extractLsb' 22 3, w.extractLsb' 0 22⟩
def JwaitO.words (mj : BitVec 7) (fn : BitVec 5) (o : JwaitO) : List Word := [lr mj (o.j ++ 0#2) 0 0 fn false o.g]
def JwaitO.ofWords (w _w1 : Word) : JwaitO := ⟨w.extractLsb' 22 3, .atL w⟩
def JdropO.words (mj : BitVec 7) (fn : BitVec 5) (o : JdropO) : List Word :=
  [lr mj (o.m.extractLsb' 3 5) (o.m.extractLsb' 0 3 ++ 0#2) 0 fn false o.g]
def JdropO.ofWords (w _w1 : Word) : JdropO := ⟨w.extractLsb' 17 8, .atL w⟩
def JgetO.words (mj : BitVec 7) (fn : BitVec 5) (o : JgetO) : List Word := [lr mj o.d (o.j ++ 0#2) 0 fn false o.g]
def JgetO.ofWords (w _w1 : Word) : JgetO := ⟨w.extractLsb' 20 5, w.extractLsb' 17 3, .atL w⟩
def JputO.words (mj : BitVec 7) (fn : BitVec 5) (o : JputO) : List Word := [lr mj (o.j ++ 0#2) o.a 0 fn false o.g]
def JputO.ofWords (w _w1 : Word) : JputO := ⟨w.extractLsb' 22 3, w.extractLsb' 15 5, .atL w⟩
def CallO.words (mj : BitVec 7) (o : CallO) : List Word := [mj ++ o.k ++ o.g.p ++ bit1 o.g.n ++ o.d]
def CallO.ofWords (w _w1 : Word) : CallO := ⟨w.extractLsb' 23 2, ⟨w.extractLsb' 20 3, bitAt w 19⟩, w.extractLsb' 0 19⟩
def CallxO.words (mj : BitVec 7) (fn : BitVec 5) (o : CallxO) : List Word := [lr mj 0 o.a (0#3 ++ o.k) fn false o.g]
def CallxO.ofWords (w _w1 : Word) : CallxO := ⟨w.extractLsb' 15 5, w.extractLsb' 10 2, .atL w⟩
def G0.words (mj : BitVec 7) (fn : BitVec 5) (o : G0) : List Word := [lr mj 0 0 0 fn false o.g]
def G0.ofWords (w _w1 : Word) : G0 := ⟨.atL w⟩
def B1.words (mj : BitVec 7) (fn : BitVec 5) (o : B1) : List Word := lr mj 0 0 o.b.fld fn o.b.x o.g :: o.b.tl
def B1.ofWords (w w1 : Word) : B1 := ⟨.of (bitAt w 4) (w.extractLsb' 10 5) w1, .atL w⟩
def LmO.words (mj : BitVec 7) (o : LmO) : List Word := lm mj o.d o.a o.z o.k o.l o.off.isSome o.g o.s :: o.off.toList
def LmO.ofWords (w w1 : Word) : LmO :=
  ⟨w.extractLsb' 20 5, w.extractLsb' 15 5, w.extractLsb' 12 3, w.extractLsb' 10 2, w.extractLsb' 6 4, offOf (bitAt w 5) w1,
    .atM w, bitAt w 0⟩
def SstO.words (mj : BitVec 7) (o : SstO) : List Word := lm mj o.d o.a o.z 0 o.l o.off.isSome o.g o.s :: o.off.toList
def SstO.ofWords (w w1 : Word) : SstO :=
  ⟨w.extractLsb' 20 5, w.extractLsb' 15 5, w.extractLsb' 12 3, w.extractLsb' 6 4, offOf (bitAt w 5) w1, .atM w, bitAt w 0⟩
def StO.words (mj : BitVec 7) (o : StO) : List Word := lm mj o.d o.a o.z o.k 0 o.off.isSome o.g false :: o.off.toList
def StO.ofWords (w w1 : Word) : StO :=
  ⟨w.extractLsb' 20 5, w.extractLsb' 15 5, w.extractLsb' 12 3, w.extractLsb' 10 2, offOf (bitAt w 5) w1, .atM w⟩
def PfO.words (mj : BitVec 7) (o : PfO) : List Word := lm mj 0 o.a 0 o.k 0 o.off.isSome o.g false :: o.off.toList
def PfO.ofWords (w w1 : Word) : PfO := ⟨w.extractLsb' 15 5, w.extractLsb' 10 2, offOf (bitAt w 5) w1, .atM w⟩
def LaO.words (mj : BitVec 7) (o : LaO) : List Word :=
  [la mj o.d o.a o.b o.l o.g, o.off ++ o.op ++ o.scope ++ o.order ++ o.size ++ 0#3]
def LaO.ofWords (w w1 : Word) : LaO :=
  ⟨w.extractLsb' 20 5, w.extractLsb' 15 5, w.extractLsb' 10 5, w.extractLsb' 6 4, ⟨w.extractLsb' 2 3, bitAt w 1⟩,
    w1.extractLsb' 16 16, w1.extractLsb' 11 5, w1.extractLsb' 8 3, w1.extractLsb' 6 2, w1.extractLsb' 3 3⟩
def TboxO.words (mj : BitVec 7) (o : TboxO) : List Word :=
  [lm mj o.d o.a 0 0 o.l true o.g false, 0#19 ++ o.mask ++ o.c]
def TboxO.ofWords (w w1 : Word) : TboxO :=
  ⟨w.extractLsb' 20 5, w.extractLsb' 15 5, w.extractLsb' 6 4, .atM w, w1.extractLsb' 0 5, w1.extractLsb' 5 8⟩
def TtriO.words (mj : BitVec 7) (o : TtriO) : List Word :=
  [lm mj o.d o.a 0 0 o.l true o.g false, 0#25 ++ bit1 o.cf ++ bit1 o.cb ++ o.c]
def TtriO.ofWords (w w1 : Word) : TtriO :=
  ⟨w.extractLsb' 20 5, w.extractLsb' 15 5, w.extractLsb' 6 4, .atM w, w1.extractLsb' 0 5, bitAt w1 5, bitAt w1 6⟩
def TraceO.words (mj : BitVec 7) (o : TraceO) : List Word :=
  [lm mj 0 0 0 (0#1 ++ bit1 o.ord) 0 true o.g false, 0#19 ++ bit1 o.first ++ bit1 o.cf ++ bit1 o.cb ++ o.k ++ o.n]
def TraceO.ofWords (w w1 : Word) : TraceO :=
  ⟨bitAt w 10, .atM w, w1.extractLsb' 0 6, w1.extractLsb' 6 4, bitAt w1 10, bitAt w1 11, bitAt w1 12⟩
def RspO.words (mj : BitVec 7) (fn : BitVec 5) (o : RspO) : List Word := lr mj o.d 0 o.b.fld fn o.b.x o.g :: o.b.tl
def RspO.ofWords (w w1 : Word) : RspO := ⟨w.extractLsb' 20 5, .of (bitAt w 4) (w.extractLsb' 10 5) w1, .atL w⟩

def uD (w : Word) : BitVec 6 := w.extractLsb' 19 6
def uA (w : Word) : BitVec 6 := w.extractLsb' 13 6
def uB (w : Word) : BitVec 6 := w.extractLsb' 7 6
def uS (w w1 : Word) : SSrc := .of (bitAt w 1) (uB w) w1
def U3.words (mj : BitVec 7) (fn : BitVec 5) (o : U3) : List Word := ur mj o.d o.a o.b.fld fn o.b.x :: o.b.tl
def U3.ofWords (w w1 : Word) : U3 := ⟨uD w, uA w, uS w w1⟩
def U3n.words (mj : BitVec 7) (fn : BitVec 5) (o : U3n) : List Word := [ur mj o.d o.a o.b fn false]
def U3n.ofWords (w _w1 : Word) : U3n := ⟨uD w, uA w, uB w⟩
def U2.words (mj : BitVec 7) (fn : BitVec 5) (o : U2) : List Word := [ur mj o.d o.a 0 fn false]
def U2.ofWords (w _w1 : Word) : U2 := ⟨uD w, uA w⟩
def Ud.words (mj : BitVec 7) (fn : BitVec 5) (o : Ud) : List Word := [ur mj o.d 0 0 fn false]
def Ud.ofWords (w _w1 : Word) : Ud := ⟨uD w⟩
def Ub.words (mj : BitVec 7) (fn : BitVec 5) (o : Ub) : List Word := ur mj 0 0 o.b.fld fn o.b.x :: o.b.tl
def Ub.ofWords (w w1 : Word) : Ub := ⟨uS w w1⟩
def Uab.words (mj : BitVec 7) (fn : BitVec 5) (o : Uab) : List Word := ur mj 0 o.a o.b.fld fn o.b.x :: o.b.tl
def Uab.ofWords (w w1 : Word) : Uab := ⟨uA w, uS w w1⟩
def Uabn.words (mj : BitVec 7) (fn : BitVec 5) (o : Uabn) : List Word := [ur mj 0 o.a o.b fn false]
def Uabn.ofWords (w _w1 : Word) : Uabn := ⟨uA w, uB w⟩
def Udb.words (mj : BitVec 7) (fn : BitVec 5) (o : Udb) : List Word := ur mj o.d 0 o.b.fld fn o.b.x :: o.b.tl
def Udb.ofWords (w w1 : Word) : Udb := ⟨uD w, uS w w1⟩
def UiO.words (mj : BitVec 7) (o : UiO) : List Word := [mj ++ o.d ++ o.a ++ o.i]
def UiO.ofWords (w _w1 : Word) : UiO := ⟨uD w, uA w, w.extractLsb' 0 13⟩
def UshO.words (mj : BitVec 7) (o : UshO) : List Word := [mj ++ o.d ++ o.a ++ 0#6 ++ o.k ++ o.c]
def UshO.ofWords (w _w1 : Word) : UshO := ⟨uD w, uA w, w.extractLsb' 5 2, w.extractLsb' 0 5⟩
def UmviO.words (mj : BitVec 7) (o : UmviO) : List Word := [mj ++ o.d ++ o.i]
def UmviO.ofWords (w _w1 : Word) : UmviO := ⟨uD w, w.extractLsb' 0 19⟩
def UsetO.words (mj : BitVec 7) (o : UsetO) : List Word := ur mj (o.c ++ o.m ++ 0#1) o.a o.b.fld o.f o.b.x :: o.b.tl
def UsetO.ofWords (w w1 : Word) : UsetO :=
  ⟨w.extractLsb' 22 3, w.extractLsb' 20 2, uA w, uS w w1, w.extractLsb' 2 5⟩
def UlfO.words (mj : BitVec 7) (fn : BitVec 5) (o : UlfO) : List Word := [ur mj o.d (0#1 ++ o.a) 0 fn false]
def UlfO.ofWords (w _w1 : Word) : UlfO := ⟨uD w, w.extractLsb' 13 5⟩
def UliO.words (mj : BitVec 7) (fn : BitVec 5) (o : UliO) : List Word := ur mj o.d (0#1 ++ o.a) o.b.fld fn o.b.x :: o.b.tl
def UliO.ofWords (w w1 : Word) : UliO := ⟨uD w, w.extractLsb' 13 5, uS w w1⟩
def C3.words (mj : BitVec 7) (fn : BitVec 5) (o : C3) : List Word :=
  [ur mj (o.c ++ 0#3) (o.a ++ bit1 o.m ++ 0#2) (o.b ++ bit1 o.k ++ 0#2) fn false]
def C3.ofWords (w _w1 : Word) : C3 := ⟨w.extractLsb' 22 3, w.extractLsb' 16 3, bitAt w 15, w.extractLsb' 10 3, bitAt w 9⟩
def C2.words (mj : BitVec 7) (fn : BitVec 5) (o : C2) : List Word :=
  [ur mj (o.c ++ 0#3) (o.a ++ bit1 o.m ++ 0#2) 0 fn false]
def C2.ofWords (w _w1 : Word) : C2 := ⟨w.extractLsb' 22 3, w.extractLsb' 16 3, bitAt w 15⟩
def UbraO.words (mj : BitVec 7) (o : UbraO) : List Word := [mj ++ o.c.p ++ bit1 o.c.n ++ o.d]
def UbraO.ofWords (w _w1 : Word) : UbraO := ⟨.atB w, w.extractLsb' 0 21⟩
def Ua.words (mj : BitVec 7) (fn : BitVec 5) (o : Ua) : List Word := [ur mj 0 o.a 0 fn false]
def Ua.ofWords (w _w1 : Word) : Ua := ⟨uA w⟩

def xA (w : Word) : BitVec 6 := w.extractLsb' 11 6
def xB (w : Word) : BitVec 6 := w.extractLsb' 5 6
def x1 (w : Word) : BitVec 4 := w.extractLsb' 21 4
def x2 (w : Word) : BitVec 4 := w.extractLsb' 17 4
def MmaC.word (c : MmaC) : Word :=
  0#7 ++ bit1 c.p ++ c.n ++ c.m ++ 0#1 ++ c.kl ++ 0#1 ++ c.mb ++ 0#1 ++ c.ma
def MmaC.ofWord (w : Word) : MmaC :=
  ⟨bitAt w 24, w.extractLsb' 20 4, w.extractLsb' 16 4, w.extractLsb' 8 7, w.extractLsb' 4 3, w.extractLsb' 0 3⟩
def MmaO.words (mj : BitVec 7) (o : MmaO) : List Word := [ux mj o.t o.u o.a 0 0 true, o.c.word]
def MmaO.ofWords (w w1 : Word) : MmaO := ⟨x1 w, x2 w, xA w, .ofWord w1⟩
def MmagO.words (mj : BitVec 7) (o : MmagO) : List Word := [ux mj o.t 0 o.a o.b 0 true, o.c.word]
def MmagO.ofWords (w w1 : Word) : MmagO := ⟨x1 w, xA w, xB w, .ofWord w1⟩
def AccZ.words (mj : BitVec 7) (fn : BitVec 5) (o : AccZ) : List Word :=
  [ur mj (bit1 o.p ++ 0#1 ++ o.t) (0#2 ++ o.n) 0 fn false]
def AccZ.ofWords (w _w1 : Word) : AccZ := ⟨bitAt w 24, w.extractLsb' 19 4, w.extractLsb' 13 4⟩
def AccC.words (mj : BitVec 7) (fn : BitVec 5) (o : AccC) : List Word :=
  [ur mj (bit1 o.p ++ 0#1 ++ o.t) (0#2 ++ o.u) (0#2 ++ o.c.p ++ bit1 o.c.n) fn false]
def AccC.ofWords (w _w1 : Word) : AccC :=
  ⟨bitAt w 24, w.extractLsb' 19 4, w.extractLsb' 13 4, ⟨w.extractLsb' 8 3, bitAt w 7⟩⟩
def AccP.words (mj : BitVec 7) (fn : BitVec 5) (o : AccP) : List Word :=
  [ur mj (bit1 o.p ++ 0#1 ++ o.t) o.d (0#5 ++ bit1 o.clr) fn false]
def AccP.ofWords (w _w1 : Word) : AccP := ⟨bitAt w 24, w.extractLsb' 19 4, uA w, bitAt w 7⟩
def AccIo.words (mj : BitVec 7) (o : AccIo) : List Word :=
  [ux mj o.t (bit1 o.sat ++ o.fmt) o.a 0 0 true, 0#3 ++ bit1 o.p ++ o.rows ++ o.row0 ++ o.stride]
def AccIo.ofWords (w w1 : Word) : AccIo :=
  ⟨x1 w, bitAt w 20, w.extractLsb' 17 3, xA w, w1.extractLsb' 0 20, w1.extractLsb' 20 4, w1.extractLsb' 24 4, bitAt w1 28⟩
def AmapO.words (mj : BitVec 7) (o : AmapO) : List Word := [ux mj (0#1 ++ o.n) 0 o.a 0 0 false]
def AmapO.ofWords (w _w1 : Word) : AmapO := ⟨w.extractLsb' 21 3, xA w⟩
def BplO.words (mj : BitVec 7) (o : BplO) : List Word :=
  [ux mj (0#1 ++ bit1 o.f ++ 0#2) 0 o.a o.b 0 true, o.ss ++ o.cols ++ o.len]
def BplO.ofWords (w w1 : Word) : BplO :=
  ⟨bitAt w 23, xA w, xB w, w1.extractLsb' 0 10, w1.extractLsb' 10 7, w1.extractLsb' 17 15⟩
def BpzO.words (mj : BitVec 7) (o : BpzO) : List Word :=
  [ux mj (1#1 ++ bit1 o.f ++ 0#2) 0 0 o.b 0 true, 0#15 ++ o.cols ++ o.len]
def BpzO.ofWords (w w1 : Word) : BpzO := ⟨bitAt w 23, xB w, w1.extractLsb' 0 10, w1.extractLsb' 10 7⟩
def MwaitO.words (mj : BitVec 7) (fn : BitVec 5) (o : MwaitO) : List Word := [ur mj 0 0 (0#5 ++ bit1 o.r) fn false]
def MwaitO.ofWords (w _w1 : Word) : MwaitO := ⟨bitAt w 7⟩
def RowaO.words (mj : BitVec 7) (o : RowaO) : List Word :=
  match o.i with
  | .reg r => [ux mj o.n 0 r 0 0 false]
  | .lit i => [ux mj o.n 0 0 0 0 true, 0#20 ++ i]
def RowaO.ofWords (w w1 : Word) : RowaO := ⟨x1 w, if bitAt w 0 then .lit (w1.extractLsb' 0 12) else .reg (xA w)⟩
def RowtO.words (mj : BitVec 7) (o : RowtO) : List Word :=
  [ux mj o.n (0#1 ++ bit1 o.b.isSome ++ 0#1 ++ bit1 o.bpl) o.a (o.b.getD 0) 0 true, 0#16 ++ o.len ++ 0#1 ++ o.off]
def RowtO.ofWords (w w1 : Word) : RowtO :=
  ⟨x1 w, bitAt w 17, xA w, if bitAt w 19 then some (xB w) else none, w1.extractLsb' 0 7, w1.extractLsb' 8 8⟩
def RowpO.words (mj : BitVec 7) (o : RowpO) : List Word := [ux mj o.n (0#3 ++ bit1 o.w) 0 0 0 false]
def RowpO.ofWords (w _w1 : Word) : RowpO := ⟨x1 w, bitAt w 17⟩
def SmapO.words (mj : BitVec 7) (o : SmapO) : List Word := [ux mj o.n (0#2 ++ o.k) o.a o.b 0 true, 0#11 ++ o.len]
def SmapO.ofWords (w w1 : Word) : SmapO := ⟨x1 w, w.extractLsb' 17 2, xA w, xB w, w1.extractLsb' 0 21⟩
def SunO.words (mj : BitVec 7) (fn : BitVec 5) (o : SunO) : List Word := [ur mj (bit1 o.k ++ 0#1 ++ o.n) 0 0 fn false]
def SunO.ofWords (w _w1 : Word) : SunO := ⟨bitAt w 24, w.extractLsb' 19 4⟩
def SgaO.words (mj : BitVec 7) (o : SgaO) : List Word :=
  [ux mj o.n (0#3 ++ bit1 o.now) o.a o.b 0 true, o.st ++ 0#2 ++ o.rb]
def SgaO.ofWords (w w1 : Word) : SgaO := ⟨x1 w, bitAt w 17, xA w, xB w, w1.extractLsb' 0 14, w1.extractLsb' 16 16⟩
def SyncO.words (mj : BitVec 7) (fn : BitVec 5) (o : SyncO) : List Word := [ur mj o.d o.a (0#5 ++ bit1 o.t) fn false]
def SyncO.ofWords (w _w1 : Word) : SyncO := ⟨uD w, uA w, bitAt w 7⟩
def FenO.words (mj : BitVec 7) (fn : BitVec 5) (o : FenO) : List Word := [ur mj 0 0 (0#3 ++ o.s) fn false]
def FenO.ofWords (w _w1 : Word) : FenO := ⟨w.extractLsb' 7 3⟩
def BarO.words (mj : BitVec 7) (fn : BitVec 5) (o : BarO) : List Word := [ur mj (0#2 ++ o.n) 0 0 fn false]
def BarO.ofWords (w _w1 : Word) : BarO := ⟨w.extractLsb' 19 4⟩
def QpuO.words (mj : BitVec 7) (o : QpuO) : List Word := [uq mj o.q o.nb o.cd o.a 0 0 false]
def QpuO.ofWords (w _w1 : Word) : QpuO := ⟨x1 w, bitAt w 20, w.extractLsb' 17 3, xA w⟩
def QpoO.words (mj : BitVec 7) (o : QpoO) : List Word := [uq mj o.q o.nb o.cd o.a 0 o.l false]
def QpoO.ofWords (w _w1 : Word) : QpoO := ⟨x1 w, bitAt w 20, w.extractLsb' 17 3, xA w, w.extractLsb' 1 4⟩
def SendO.words (mj : BitVec 7) (o : SendO) : List Word := [uq mj o.q o.nb o.cd o.a o.b 0 false]
def SendO.ofWords (w _w1 : Word) : SendO := ⟨x1 w, bitAt w 20, w.extractLsb' 17 3, xA w, xB w⟩


/-- The words of an instruction, from the formats of R55 to R59 and each instruction's own entry; an event has none. -/
def encode (i : Instr) : List Word :=
  match i with
  | .iadd o => o.words 0x00 0
  | .isub o => o.words 0x00 1
  | .iaddSat o => o.words 0x00 2
  | .isubSat o => o.words 0x00 3
  | .iminI o => o.words 0x00 4
  | .imaxI o => o.words 0x00 5
  | .iminN o => o.words 0x00 6
  | .imaxN o => o.words 0x00 7
  | .iabs o => o.words 0x00 8
  | .ineg o => o.words 0x00 9
  | .idiff o => o.words 0x00 10
  | .lea1 o => o.words 0x00 11
  | .lea2 o => o.words 0x00 12
  | .lea3 o => o.words 0x00 13
  | .lea4 o => o.words 0x00 14
  | .iaddw o => o.words 0x00 15
  | .isubw o => o.words 0x00 16
  | .and o => o.words 0x01 0
  | .or o => o.words 0x01 1
  | .xor o => o.words 0x01 2
  | .andn o => o.words 0x01 3
  | .orn o => o.words 0x01 4
  | .not o => o.words 0x01 5
  | .shl o => o.words 0x01 6
  | .shrN o => o.words 0x01 7
  | .shrI o => o.words 0x01 8
  | .rotl o => o.words 0x01 9
  | .popc o => o.words 0x01 10
  | .clz o => o.words 0x01 11
  | .brev o => o.words 0x01 12
  | .bytsel o => o.words 0x01 13
  | .imul o => o.words 0x02 0
  | .imulhI o => o.words 0x02 1
  | .imulhN o => o.words 0x02 2
  | .imulwI o => o.words 0x02 3
  | .imulwN o => o.words 0x02 4
  | .imad o => o.words 0x03 false
  | .imadW o => o.words 0x03 true
  | .bfe o => o.words 0x04 false
  | .bfi o => o.words 0x04 true
  | .iset o => o.words 0x05
  | .mov o => o.words 0x06 0
  | .sel o => o.words 0x06 1
  | .movu o => o.words 0x06 2
  | .movs o => o.words 0x07 0
  | .iaddi o => o.words 0x08
  | .andi o => o.words 0x09
  | .ori o => o.words 0x0A
  | .xori o => o.words 0x0B
  | .shi o => o.words 0x0C
  | .movi o => o.words 0x0D
  | .fadd o => o.words 0x10 0
  | .fsub o => o.words 0x10 1
  | .fmul o => o.words 0x10 2
  | .fmin o => o.words 0x10 3
  | .fmax o => o.words 0x10 4
  | .fabs o => o.words 0x10 5
  | .fneg o => o.words 0x10 6
  | .fcopysign o => o.words 0x10 7
  | .ffrac o => o.words 0x10 8
  | .fclass o => o.words 0x10 9
  | .frintRn o => o.words 0x10 10
  | .frintRz o => o.words 0x10 11
  | .frintRm o => o.words 0x10 12
  | .frintRp o => o.words 0x10 13
  | .faddRz o => o.words 0x10 16
  | .faddRm o => o.words 0x10 17
  | .faddRp o => o.words 0x10 18
  | .fmulRz o => o.words 0x10 20
  | .fmulRm o => o.words 0x10 21
  | .fmulRp o => o.words 0x10 22
  | .ffma o => o.words 0x11 false
  | .ffms o => o.words 0x11 true
  | .hfma2F16 o => o.words 0x12 false
  | .hfma2Bf16 o => o.words 0x12 true
  | .frcp o => o.words 0x13 0
  | .frsq o => o.words 0x13 1
  | .fsqrt o => o.words 0x13 2
  | .fex2 o => o.words 0x13 3
  | .flg2 o => o.words 0x13 4
  | .fsint o => o.words 0x13 5
  | .fcost o => o.words 0x13 6
  | .ftanh o => o.words 0x13 7
  | .flogi o => o.words 0x13 8
  | .fset o => o.words 0x14
  | .cvt o => o.words 0x15
  | .pk2F16 o => o.words 0x16 0
  | .pk2Bf16 o => o.words 0x16 1
  | .pk4E4m3 o => o.words 0x16 2
  | .pk4E5m2 o => o.words 0x16 3
  | .pk8E2m1 o => o.words 0x16 4
  | .pk4E4m3Sat o => o.words 0x16 5
  | .pk4E5m2Sat o => o.words 0x16 6
  | .upk2F16 o => o.words 0x16 8
  | .upk2Bf16 o => o.words 0x16 9
  | .upk4E4m3 o => o.words 0x16 10
  | .upk4E5m2 o => o.words 0x16 11
  | .upk8E2m1 o => o.words 0x16 12
  | .dp4E4m3 o => o.words 0x17 false
  | .dp4E5m2 o => o.words 0x17 true
  | .idp4I8 o => o.words 0x18 false
  | .idp4N8 o => o.words 0x18 true
  | .pand o => o.words 0x19 0
  | .por o => o.words 0x19 1
  | .pxor o => o.words 0x19 2
  | .pnot o => o.words 0x19 3
  | .ppack o => o.words 0x19 4
  | .punpk o => o.words 0x19 5
  | .pmov o => o.words 0x19 6
  | .lxcAt o => o.words 0x1A 0
  | .lxcFlip o => o.words 0x1A 1
  | .lxcBelow o => o.words 0x1A 2
  | .lxcAbove o => o.words 0x1A 3
  | .lany o => o.words 0x1A 4
  | .lall o => o.words 0x1A 5
  | .lmask o => o.words 0x1A 6
  | .lfirst o => o.words 0x1A 7
  | .lsum o => o.words 0x1A 8
  | .lminI o => o.words 0x1A 9
  | .lmaxI o => o.words 0x1A 10
  | .lsame o => o.words 0x1A 11
  | .bra o => o.words 0x20
  | .brx o => o.words 0x21 0
  | .brk o => o.words 0x22
  | .jset o => o.words 0x23
  | .jwait o => o.words 0x24 0
  | .jdrop o => o.words 0x24 1
  | .jget o => o.words 0x24 2
  | .jput o => o.words 0x24 3
  | .call o => o.words 0x25
  | .callx o => o.words 0x26 0
  | .ret o => o.words 0x27 0
  | .nop o => o.words 0x28 0
  | .exit o => o.words 0x28 1
  | .yield o => o.words 0x28 2
  | .nap o => o.words 0x28 3
  | .ld o => o.words 0x30
  | .st o => o.words 0x31
  | .pref o => o.words 0x32
  | .cline o => o.words 0x33
  | .sld o => o.words 0x34
  | .sst o => o.words 0x35
  | .atom o => o.words 0x36
  | .red o => o.words 0x37
  | .satom o => o.words 0x38
  | .tbox o => o.words 0x3A
  | .ttri o => o.words 0x3B
  | .trace o => o.words 0x3C
  | .rspawn o => o.words 0x3D 0
  | .nexthit o => o.words 0x3D 1
  | .rend o => o.words 0x3D 2
  | .uadd o => o.words 0x40 0
  | .usub o => o.words 0x40 1
  | .umul o => o.words 0x40 2
  | .umulhN o => o.words 0x40 3
  | .uminI o => o.words 0x40 4
  | .umaxI o => o.words 0x40 5
  | .uminN o => o.words 0x40 6
  | .umaxN o => o.words 0x40 7
  | .uand o => o.words 0x40 8
  | .uor o => o.words 0x40 9
  | .uxor o => o.words 0x40 10
  | .ushl o => o.words 0x40 11
  | .ushrN o => o.words 0x40 12
  | .ushrI o => o.words 0x40 13
  | .upopc o => o.words 0x40 14
  | .uclz o => o.words 0x40 15
  | .umov o => o.words 0x40 16
  | .uaddw o => o.words 0x40 17
  | .uaddi o => o.words 0x41
  | .uandi o => o.words 0x42
  | .uori o => o.words 0x43
  | .ushi o => o.words 0x44
  | .umovi o => o.words 0x45
  | .uset o => o.words 0x46
  | .umovs o => o.words 0x47 0
  | .ulaneFirst o => o.words 0x48 0
  | .ulaneIdx o => o.words 0x48 1
  | .cand o => o.words 0x49 0
  | .cor o => o.words 0x49 1
  | .cxor o => o.words 0x49 2
  | .cnot o => o.words 0x49 3
  | .ubra o => o.words 0x50
  | .ujmp o => o.words 0x51 0
  | .tfence => [ur 0x52 0 0 0 0 false]
  | .trap o => o.words 0x52 1
  | .rtt => [ur 0x52 0 0 0 2 false]
  | .bkpt => [ur 0x52 0 0 0 3 false]
  | .flgr o => o.words 0x52 4
  | .flgc o => o.words 0x52 5
  | .mode o => o.words 0x52 6
  | .moder o => o.words 0x52 7
  | .mma o => o.words 0x58
  | .mmaC o => o.words 0x58
  | .mmag o => o.words 0x59
  | .mmas o => o.words 0x5A
  | .accZero o => o.words 0x5B 0
  | .accCommit o => o.words 0x5B 1
  | .accDrop o => o.words 0x5B 2
  | .accMerge o => o.words 0x5B 3
  | .accPoison o => o.words 0x5B 4
  | .accld o => o.words 0x5C
  | .accst o => o.words 0x5D
  | .amap o => o.words 0x5E
  | .bplLd o => o.words 0x5F
  | .bplZero o => o.words 0x5F
  | .pairBind o => o.words 0x60 0
  | .pairFree o => o.words 0x60 1
  | .mwait o => o.words 0x61 0
  | .rowact o => o.words 0x64
  | .rowcon o => o.words 0x65
  | .rowwr o => o.words 0x66
  | .rowpre o => o.words 0x67
  | .rowst o => o.words 0x68 0
  | .rowwait o => o.words 0x68 1
  | .smap o => o.words 0x6C
  | .sunmap o => o.words 0x6D 0
  | .sflush o => o.words 0x6E 0
  | .sinv o => o.words 0x6E 1
  | .spres o => o.words 0x6E 2
  | .shpush o => o.words 0x6E 3
  | .sgath o => o.words 0x6F
  | .syncAcqX o => o.words 0x70 0
  | .syncAcqS o => o.words 0x70 1
  | .syncAcqO o => o.words 0x70 2
  | .syncRel o => o.words 0x70 3
  | .sbind o => o.words 0x71 0
  | .sunbind o => o.words 0x71 1
  | .fenceAcq o => o.words 0x72 0
  | .fenceRel o => o.words 0x72 1
  | .fenceFull o => o.words 0x72 2
  | .semaSig o => o.words 0x73 0
  | .semaWait o => o.words 0x73 1
  | .semaTry o => o.words 0x73 2
  | .barArr o => o.words 0x74 0
  | .barWait o => o.words 0x74 1
  | .barSync o => o.words 0x74 2
  | .ordopen o => o.words 0x75 0
  | .qpush o => o.words 0x78
  | .qpop o => o.words 0x79
  | .cont o => o.words 0x7C 0
  | .cfork o => o.words 0x7C 1
  | .cjoin o => o.words 0x7C 2
  | .launch o => o.words 0x7C 3
  | .mcast o => o.words 0x7D
  | .send o => o.words 0x7E
  | .recvPost o => o.words 0x7F 0
  | .recvWait o => o.words 0x7F 1
  | .recvTest o => o.words 0x7F 2
  | .recvCancel o => o.words 0x7F 3
  | .placeShadow _ _ => []
  | .switchCore _ _ => []
  | .loadContext _ => []
  | .killContext _ => []
  | .tlbDrop _ => []
  | .icacheInvalidate _ => []
  | .lqtailWrite _ _ => []
  | .fqheadWrite _ _ => []
  | .fqreplayWrite _ _ => []
  | .eqheadWrite _ _ => []
  | .pwrcapWrite _ => []
  | .weightWrite _ _ => []
  | .queueEnable _ _ => []
  | .queueDisable _ _ => []
  | .registerWrite _ _ => []
  | .bar2Access _ _ _ _ => []
  | .fundamentalReset => []
  | .bootVerifyDone _ => []
  | .pairLinkLost => []
  | .trapEntry _ _ => []
  | .contextFault _ => []
  | .killDone _ => []
  | .switchTaken _ => []
  | .drainComplete _ => []
  | .loadStart _ => []
  | .loadComplete _ _ => []
  | .napExpiry _ _ _ => []
  | .yieldTimeout _ _ _ => []
  | .opportunisticMerge _ _ _ _ => []
  | .launchAccept _ => []
  | .heldHeaderEnqueue _ => []
  | .blockAdmit _ _ _ => []
  | .blockEnd _ => []
  | .joinBufferRetry _ _ => []
  | .timeWrap => []
  | .walkDone _ => []
  | .sliceRead _ _ => []
  | .sliceStore _ => []
  | .l1Reply _ _ => []
  | .l1Probe _ => []
  | .storeAck _ => []
  | .targetAccess _ => []
  | .rscAccess _ => []
  | .atomPerform _ => []
  | .redApply _ => []
  | .orderedRedArrival _ => []
  | .ordopenAnswer _ => []
  | .syncGrant _ => []
  | .semaCountTaken _ => []
  | .barPhaseComplete _ _ => []
  | .scratchRemoteAccess _ => []
  | .scratchFillLand _ => []
  | .scratchWbAck _ => []
  | .scratchProbe _ => []
  | .haloPushArrival _ _ => []
  | .haloPushDone _ => []
  | .rowOpenDone _ _ => []
  | .rowCloseStart _ _ => []
  | .rowCloseDone _ _ => []
  | .rowHoldExpiry _ _ => []
  | .rowRefresh _ _ => []
  | .internalActivation _ _ _ => []
  | .rowTransferStart _ => []
  | .rowTransferEnd _ => []
  | .rowReactivation _ _ => []
  | .matrixOpStart _ => []
  | .matrixOpComplete _ => []
  | .engineJobStart _ => []
  | .engineJobComplete _ => []
  | .messageArrival _ => []
  | .messageResend _ => []
  | .tvuAccept _ _ => []
  | .traversalDone _ _ _ => []
  | .treeletFill _ _ _ => []
  | .treeletPrefetch _ _ _ => []
  | .rayEnterSaffron _ _ => []
  | .rayRefill _ _ _ => []
  | .episodeFormFull _ _ => []
  | .episodeFormPatience _ _ => []
  | .episodeFormDrain _ _ => []
  | .powerRemoved => []
  | .pairLinkUp => []
  | .pairFlitReplay => []
  | .pairedContextLost _ => []
  | .tvuLaneTestDone _ => []
  | .orderedRedResend _ => []
  | .engineCardEntry _ => []

/-- The instruction that the major, fn and fx bits of a first word name, with the fields read at their places; none
where the major or the fn is not listed (R65, R66). Reserved fields are checked by `decode`. -/
noncomputable def candidate (w0 w1 : Word) : Option Instr :=
  match (w0.extractLsb' 25 7).toNat with
  | 0x00 => match (w0.extractLsb' 5 5).toNat with
    | 0 => some (.iadd (R3.ofWords w0 w1))
    | 1 => some (.isub (R3.ofWords w0 w1))
    | 2 => some (.iaddSat (R3.ofWords w0 w1))
    | 3 => some (.isubSat (R3.ofWords w0 w1))
    | 4 => some (.iminI (R3.ofWords w0 w1))
    | 5 => some (.imaxI (R3.ofWords w0 w1))
    | 6 => some (.iminN (R3.ofWords w0 w1))
    | 7 => some (.imaxN (R3.ofWords w0 w1))
    | 8 => some (.iabs (R2.ofWords w0 w1))
    | 9 => some (.ineg (R2.ofWords w0 w1))
    | 10 => some (.idiff (R3.ofWords w0 w1))
    | 11 => some (.lea1 (R3.ofWords w0 w1))
    | 12 => some (.lea2 (R3.ofWords w0 w1))
    | 13 => some (.lea3 (R3.ofWords w0 w1))
    | 14 => some (.lea4 (R3.ofWords w0 w1))
    | 15 => some (.iaddw (R3.ofWords w0 w1))
    | 16 => some (.isubw (R3.ofWords w0 w1))
    | _ => none
  | 0x01 => match (w0.extractLsb' 5 5).toNat with
    | 0 => some (.and (R3.ofWords w0 w1))
    | 1 => some (.or (R3.ofWords w0 w1))
    | 2 => some (.xor (R3.ofWords w0 w1))
    | 3 => some (.andn (R3.ofWords w0 w1))
    | 4 => some (.orn (R3.ofWords w0 w1))
    | 5 => some (.not (R2.ofWords w0 w1))
    | 6 => some (.shl (R3.ofWords w0 w1))
    | 7 => some (.shrN (R3.ofWords w0 w1))
    | 8 => some (.shrI (R3.ofWords w0 w1))
    | 9 => some (.rotl (R3.ofWords w0 w1))
    | 10 => some (.popc (R2.ofWords w0 w1))
    | 11 => some (.clz (R2.ofWords w0 w1))
    | 12 => some (.brev (R2.ofWords w0 w1))
    | 13 => some (.bytsel (R3.ofWords w0 w1))
    | _ => none
  | 0x02 => match (w0.extractLsb' 5 5).toNat with
    | 0 => some (.imul (R3.ofWords w0 w1))
    | 1 => some (.imulhI (R3.ofWords w0 w1))
    | 2 => some (.imulhN (R3.ofWords w0 w1))
    | 3 => some (.imulwI (R3.ofWords w0 w1))
    | 4 => some (.imulwN (R3.ofWords w0 w1))
    | _ => none
  | 0x03 => if w0.getLsbD 4 then some (.imadW (F4.ofWords w0 w1)) else some (.imad (F4.ofWords w0 w1))
  | 0x04 => if w0.getLsbD 4 then some (.bfi (F4.ofWords w0 w1)) else some (.bfe (F3.ofWords w0 w1))
  | 0x05 => some (.iset (Cmp.ofWords w0 w1))
  | 0x06 => match (w0.extractLsb' 5 5).toNat with
    | 0 => some (.mov (MovO.ofWords w0 w1))
    | 1 => some (.sel (R3.ofWords w0 w1))
    | 2 => some (.movu (MovuO.ofWords w0 w1))
    | _ => none
  | 0x07 => match (w0.extractLsb' 5 5).toNat with
    | 0 => some (.movs (MovsO.ofWords w0 w1))
    | _ => none
  | 0x08 => some (.iaddi (I12.ofWords w0 w1))
  | 0x09 => some (.andi (I12.ofWords w0 w1))
  | 0x0A => some (.ori (I12.ofWords w0 w1))
  | 0x0B => some (.xori (I12.ofWords w0 w1))
  | 0x0C => some (.shi (Sh5.ofWords w0 w1))
  | 0x0D => some (.movi (I17.ofWords w0 w1))
  | 0x10 => match (w0.extractLsb' 5 5).toNat with
    | 0 => some (.fadd (R3.ofWords w0 w1))
    | 1 => some (.fsub (R3.ofWords w0 w1))
    | 2 => some (.fmul (R3.ofWords w0 w1))
    | 3 => some (.fmin (R3.ofWords w0 w1))
    | 4 => some (.fmax (R3.ofWords w0 w1))
    | 5 => some (.fabs (R2.ofWords w0 w1))
    | 6 => some (.fneg (R2.ofWords w0 w1))
    | 7 => some (.fcopysign (R3.ofWords w0 w1))
    | 8 => some (.ffrac (R2.ofWords w0 w1))
    | 9 => some (.fclass (R2.ofWords w0 w1))
    | 10 => some (.frintRn (R2.ofWords w0 w1))
    | 11 => some (.frintRz (R2.ofWords w0 w1))
    | 12 => some (.frintRm (R2.ofWords w0 w1))
    | 13 => some (.frintRp (R2.ofWords w0 w1))
    | 16 => some (.faddRz (R3.ofWords w0 w1))
    | 17 => some (.faddRm (R3.ofWords w0 w1))
    | 18 => some (.faddRp (R3.ofWords w0 w1))
    | 20 => some (.fmulRz (R3.ofWords w0 w1))
    | 21 => some (.fmulRm (R3.ofWords w0 w1))
    | 22 => some (.fmulRp (R3.ofWords w0 w1))
    | _ => none
  | 0x11 => if w0.getLsbD 4 then some (.ffms (F4.ofWords w0 w1)) else some (.ffma (F4.ofWords w0 w1))
  | 0x12 => if w0.getLsbD 4 then some (.hfma2Bf16 (F4.ofWords w0 w1)) else some (.hfma2F16 (F4.ofWords w0 w1))
  | 0x13 => match (w0.extractLsb' 5 5).toNat with
    | 0 => some (.frcp (R2.ofWords w0 w1))
    | 1 => some (.frsq (R2.ofWords w0 w1))
    | 2 => some (.fsqrt (R2.ofWords w0 w1))
    | 3 => some (.fex2 (R2.ofWords w0 w1))
    | 4 => some (.flg2 (R2.ofWords w0 w1))
    | 5 => some (.fsint (R2.ofWords w0 w1))
    | 6 => some (.fcost (R2.ofWords w0 w1))
    | 7 => some (.ftanh (R2.ofWords w0 w1))
    | 8 => some (.flogi (R2.ofWords w0 w1))
    | _ => none
  | 0x14 => some (.fset (Cmp.ofWords w0 w1))
  | 0x15 => some (.cvt (CvtO.ofWords w0 w1))
  | 0x16 => match (w0.extractLsb' 5 5).toNat with
    | 0 => some (.pk2F16 (R3n.ofWords w0 w1))
    | 1 => some (.pk2Bf16 (R3n.ofWords w0 w1))
    | 2 => some (.pk4E4m3 (R3n.ofWords w0 w1))
    | 3 => some (.pk4E5m2 (R3n.ofWords w0 w1))
    | 4 => some (.pk8E2m1 (R3n.ofWords w0 w1))
    | 5 => some (.pk4E4m3Sat (R3n.ofWords w0 w1))
    | 6 => some (.pk4E5m2Sat (R3n.ofWords w0 w1))
    | 8 => some (.upk2F16 (R2.ofWords w0 w1))
    | 9 => some (.upk2Bf16 (R2.ofWords w0 w1))
    | 10 => some (.upk4E4m3 (R2.ofWords w0 w1))
    | 11 => some (.upk4E5m2 (R2.ofWords w0 w1))
    | 12 => some (.upk8E2m1 (R2.ofWords w0 w1))
    | _ => none
  | 0x17 => if w0.getLsbD 4 then some (.dp4E5m2 (F4.ofWords w0 w1)) else some (.dp4E4m3 (F4.ofWords w0 w1))
  | 0x18 => if w0.getLsbD 4 then some (.idp4N8 (F4.ofWords w0 w1)) else some (.idp4I8 (F4.ofWords w0 w1))
  | 0x19 => match (w0.extractLsb' 5 5).toNat with
    | 0 => some (.pand (P3.ofWords w0 w1))
    | 1 => some (.por (P3.ofWords w0 w1))
    | 2 => some (.pxor (P3.ofWords w0 w1))
    | 3 => some (.pnot (P2.ofWords w0 w1))
    | 4 => some (.ppack (PkO.ofWords w0 w1))
    | 5 => some (.punpk (UpkO.ofWords w0 w1))
    | 6 => some (.pmov (P2.ofWords w0 w1))
    | _ => none
  | 0x1A => match (w0.extractLsb' 5 5).toNat with
    | 0 => some (.lxcAt (R3.ofWords w0 w1))
    | 1 => some (.lxcFlip (R3.ofWords w0 w1))
    | 2 => some (.lxcBelow (R3.ofWords w0 w1))
    | 3 => some (.lxcAbove (R3.ofWords w0 w1))
    | 4 => some (.lany (P2.ofWords w0 w1))
    | 5 => some (.lall (P2.ofWords w0 w1))
    | 6 => some (.lmask (LmaskO.ofWords w0 w1))
    | 7 => some (.lfirst (LfirstO.ofWords w0 w1))
    | 8 => some (.lsum (R2.ofWords w0 w1))
    | 9 => some (.lminI (R2.ofWords w0 w1))
    | 10 => some (.lmaxI (R2.ofWords w0 w1))
    | 11 => some (.lsame (R2.ofWords w0 w1))
    | _ => none
  | 0x20 => some (.bra (BraO.ofWords w0 w1))
  | 0x21 => match (w0.extractLsb' 5 5).toNat with
    | 0 => some (.brx (A1.ofWords w0 w1))
    | _ => none
  | 0x22 => some (.brk (BrkO.ofWords w0 w1))
  | 0x23 => some (.jset (JsetO.ofWords w0 w1))
  | 0x24 => match (w0.extractLsb' 5 5).toNat with
    | 0 => some (.jwait (JwaitO.ofWords w0 w1))
    | 1 => some (.jdrop (JdropO.ofWords w0 w1))
    | 2 => some (.jget (JgetO.ofWords w0 w1))
    | 3 => some (.jput (JputO.ofWords w0 w1))
    | _ => none
  | 0x25 => some (.call (CallO.ofWords w0 w1))
  | 0x26 => match (w0.extractLsb' 5 5).toNat with
    | 0 => some (.callx (CallxO.ofWords w0 w1))
    | _ => none
  | 0x27 => match (w0.extractLsb' 5 5).toNat with
    | 0 => some (.ret (G0.ofWords w0 w1))
    | _ => none
  | 0x28 => match (w0.extractLsb' 5 5).toNat with
    | 0 => some (.nop (G0.ofWords w0 w1))
    | 1 => some (.exit (G0.ofWords w0 w1))
    | 2 => some (.yield (G0.ofWords w0 w1))
    | 3 => some (.nap (B1.ofWords w0 w1))
    | _ => none
  | 0x30 => some (.ld (LmO.ofWords w0 w1))
  | 0x31 => some (.st (StO.ofWords w0 w1))
  | 0x32 => some (.pref (PfO.ofWords w0 w1))
  | 0x33 => some (.cline (PfO.ofWords w0 w1))
  | 0x34 => some (.sld (LmO.ofWords w0 w1))
  | 0x35 => some (.sst (SstO.ofWords w0 w1))
  | 0x36 => some (.atom (LaO.ofWords w0 w1))
  | 0x37 => some (.red (LaO.ofWords w0 w1))
  | 0x38 => some (.satom (LaO.ofWords w0 w1))
  | 0x3A => some (.tbox (TboxO.ofWords w0 w1))
  | 0x3B => some (.ttri (TtriO.ofWords w0 w1))
  | 0x3C => some (.trace (TraceO.ofWords w0 w1))
  | 0x3D => match (w0.extractLsb' 5 5).toNat with
    | 0 => some (.rspawn (RspO.ofWords w0 w1))
    | 1 => some (.nexthit (G0.ofWords w0 w1))
    | 2 => some (.rend (G0.ofWords w0 w1))
    | _ => none
  | 0x40 => match (w0.extractLsb' 2 5).toNat with
    | 0 => some (.uadd (U3.ofWords w0 w1))
    | 1 => some (.usub (U3.ofWords w0 w1))
    | 2 => some (.umul (U3.ofWords w0 w1))
    | 3 => some (.umulhN (U3.ofWords w0 w1))
    | 4 => some (.uminI (U3.ofWords w0 w1))
    | 5 => some (.umaxI (U3.ofWords w0 w1))
    | 6 => some (.uminN (U3.ofWords w0 w1))
    | 7 => some (.umaxN (U3.ofWords w0 w1))
    | 8 => some (.uand (U3.ofWords w0 w1))
    | 9 => some (.uor (U3.ofWords w0 w1))
    | 10 => some (.uxor (U3.ofWords w0 w1))
    | 11 => some (.ushl (U3.ofWords w0 w1))
    | 12 => some (.ushrN (U3.ofWords w0 w1))
    | 13 => some (.ushrI (U3.ofWords w0 w1))
    | 14 => some (.upopc (U2.ofWords w0 w1))
    | 15 => some (.uclz (U2.ofWords w0 w1))
    | 16 => some (.umov (Udb.ofWords w0 w1))
    | 17 => some (.uaddw (U3.ofWords w0 w1))
    | _ => none
  | 0x41 => some (.uaddi (UiO.ofWords w0 w1))
  | 0x42 => some (.uandi (UiO.ofWords w0 w1))
  | 0x43 => some (.uori (UiO.ofWords w0 w1))
  | 0x44 => some (.ushi (UshO.ofWords w0 w1))
  | 0x45 => some (.umovi (UmviO.ofWords w0 w1))
  | 0x46 => some (.uset (UsetO.ofWords w0 w1))
  | 0x47 => match (w0.extractLsb' 2 5).toNat with
    | 0 => some (.umovs (U2.ofWords w0 w1))
    | _ => none
  | 0x48 => match (w0.extractLsb' 2 5).toNat with
    | 0 => some (.ulaneFirst (UlfO.ofWords w0 w1))
    | 1 => some (.ulaneIdx (UliO.ofWords w0 w1))
    | _ => none
  | 0x49 => match (w0.extractLsb' 2 5).toNat with
    | 0 => some (.cand (C3.ofWords w0 w1))
    | 1 => some (.cor (C3.ofWords w0 w1))
    | 2 => some (.cxor (C3.ofWords w0 w1))
    | 3 => some (.cnot (C2.ofWords w0 w1))
    | _ => none
  | 0x50 => some (.ubra (UbraO.ofWords w0 w1))
  | 0x51 => match (w0.extractLsb' 2 5).toNat with
    | 0 => some (.ujmp (Ua.ofWords w0 w1))
    | _ => none
  | 0x52 => match (w0.extractLsb' 2 5).toNat with
    | 0 => some .tfence
    | 1 => some (.trap (Ub.ofWords w0 w1))
    | 2 => some .rtt
    | 3 => some .bkpt
    | 4 => some (.flgr (Ud.ofWords w0 w1))
    | 5 => some (.flgc (Ub.ofWords w0 w1))
    | 6 => some (.mode (Ub.ofWords w0 w1))
    | 7 => some (.moder (U3.ofWords w0 w1))
    | _ => none
  | 0x58 => if w0.extractLsb' 17 4 = 0 then some (.mma (MmaO.ofWords w0 w1)) else some (.mmaC (MmaO.ofWords w0 w1))
  | 0x59 => some (.mmag (MmagO.ofWords w0 w1))
  | 0x5A => some (.mmas (MmaO.ofWords w0 w1))
  | 0x5B => match (w0.extractLsb' 2 5).toNat with
    | 0 => some (.accZero (AccZ.ofWords w0 w1))
    | 1 => some (.accCommit (AccC.ofWords w0 w1))
    | 2 => some (.accDrop (AccZ.ofWords w0 w1))
    | 3 => some (.accMerge (AccZ.ofWords w0 w1))
    | 4 => some (.accPoison (AccP.ofWords w0 w1))
    | _ => none
  | 0x5C => some (.accld (AccIo.ofWords w0 w1))
  | 0x5D => some (.accst (AccIo.ofWords w0 w1))
  | 0x5E => some (.amap (AmapO.ofWords w0 w1))
  | 0x5F => if w0.extractLsb' 24 1 = 0 then some (.bplLd (BplO.ofWords w0 w1)) else some (.bplZero (BpzO.ofWords w0 w1))
  | 0x60 => match (w0.extractLsb' 2 5).toNat with
    | 0 => some (.pairBind (Ud.ofWords w0 w1))
    | 1 => some (.pairFree (Ud.ofWords w0 w1))
    | _ => none
  | 0x61 => match (w0.extractLsb' 2 5).toNat with
    | 0 => some (.mwait (MwaitO.ofWords w0 w1))
    | _ => none
  | 0x64 => some (.rowact (RowaO.ofWords w0 w1))
  | 0x65 => some (.rowcon (RowtO.ofWords w0 w1))
  | 0x66 => some (.rowwr (RowtO.ofWords w0 w1))
  | 0x67 => some (.rowpre (RowpO.ofWords w0 w1))
  | 0x68 => match (w0.extractLsb' 2 5).toNat with
    | 0 => some (.rowst (Ud.ofWords w0 w1))
    | 1 => some (.rowwait (Ub.ofWords w0 w1))
    | _ => none
  | 0x6C => some (.smap (SmapO.ofWords w0 w1))
  | 0x6D => match (w0.extractLsb' 2 5).toNat with
    | 0 => some (.sunmap (SunO.ofWords w0 w1))
    | _ => none
  | 0x6E => match (w0.extractLsb' 2 5).toNat with
    | 0 => some (.sflush (Uab.ofWords w0 w1))
    | 1 => some (.sinv (Uab.ofWords w0 w1))
    | 2 => some (.spres (Uab.ofWords w0 w1))
    | 3 => some (.shpush (Uab.ofWords w0 w1))
    | _ => none
  | 0x6F => some (.sgath (SgaO.ofWords w0 w1))
  | 0x70 => match (w0.extractLsb' 2 5).toNat with
    | 0 => some (.syncAcqX (SyncO.ofWords w0 w1))
    | 1 => some (.syncAcqS (SyncO.ofWords w0 w1))
    | 2 => some (.syncAcqO (SyncO.ofWords w0 w1))
    | 3 => some (.syncRel (SyncO.ofWords w0 w1))
    | _ => none
  | 0x71 => match (w0.extractLsb' 2 5).toNat with
    | 0 => some (.sbind (U3n.ofWords w0 w1))
    | 1 => some (.sunbind (U2.ofWords w0 w1))
    | _ => none
  | 0x72 => match (w0.extractLsb' 2 5).toNat with
    | 0 => some (.fenceAcq (FenO.ofWords w0 w1))
    | 1 => some (.fenceRel (FenO.ofWords w0 w1))
    | 2 => some (.fenceFull (FenO.ofWords w0 w1))
    | _ => none
  | 0x73 => match (w0.extractLsb' 2 5).toNat with
    | 0 => some (.semaSig (Uabn.ofWords w0 w1))
    | 1 => some (.semaWait (Uabn.ofWords w0 w1))
    | 2 => some (.semaTry (U3n.ofWords w0 w1))
    | _ => none
  | 0x74 => match (w0.extractLsb' 2 5).toNat with
    | 0 => some (.barArr (BarO.ofWords w0 w1))
    | 1 => some (.barWait (BarO.ofWords w0 w1))
    | 2 => some (.barSync (BarO.ofWords w0 w1))
    | _ => none
  | 0x75 => match (w0.extractLsb' 2 5).toNat with
    | 0 => some (.ordopen (Uabn.ofWords w0 w1))
    | _ => none
  | 0x78 => some (.qpush (QpuO.ofWords w0 w1))
  | 0x79 => some (.qpop (QpoO.ofWords w0 w1))
  | 0x7C => match (w0.extractLsb' 2 5).toNat with
    | 0 => some (.cont (U2.ofWords w0 w1))
    | 1 => some (.cfork (U3.ofWords w0 w1))
    | 2 => some (.cjoin (U2.ofWords w0 w1))
    | 3 => some (.launch (U2.ofWords w0 w1))
    | _ => none
  | 0x7D => some (.mcast (SendO.ofWords w0 w1))
  | 0x7E => some (.send (SendO.ofWords w0 w1))
  | 0x7F => match (w0.extractLsb' 2 5).toNat with
    | 0 => some (.recvPost (U2.ofWords w0 w1))
    | 1 => some (.recvWait (U2.ofWords w0 w1))
    | 2 => some (.recvTest (U2.ofWords w0 w1))
    | 3 => some (.recvCancel (U2.ofWords w0 w1))
    | _ => none
  | _ => none

/-- Why two words are no instruction: each is a case of R67. -/
inductive DecodeError where
  /-- The major is not listed for its set (R65, R66). -/
  | unlistedMajor
  /-- The fn or fx value is not listed under its major. -/
  | unlistedFn
  /-- A field of the first word that must be 0 is not 0, or LA's word holds x = 0. -/
  | reservedField
  /-- The first word breaks another limit: a reserved guard, condition pair or code, an odd register where a pair begins. -/
  | firstWordLimit
  /-- A field of the second word that must be 0 is not 0. -/
  | reservedSecond
  /-- The second word breaks another limit of its entry. -/
  | secondWordLimit
  deriving DecidableEq, Repr

/-- Whether the rule broken concerns the first word (R67: those rules come before the placement check). -/
def DecodeError.first : DecodeError → Bool
  | .reservedSecond | .secondWordLimit => false
  | _ => true

/-- What the decoder answers. -/
inductive Decoded where
  | ok (i : Instr)
  | bad (e : DecodeError)
  deriving DecidableEq, Repr

/-- The majors that R65 and R66 list. -/
def listedMajors : List Nat :=
  [0x00, 0x01, 0x02, 0x03, 0x04, 0x05, 0x06, 0x07, 0x08, 0x09, 0x0A, 0x0B, 0x0C, 0x0D, 0x10, 0x11, 0x12, 0x13, 0x14, 0x15,
   0x16, 0x17, 0x18, 0x19, 0x1A, 0x20, 0x21, 0x22, 0x23, 0x24, 0x25, 0x26, 0x27, 0x28, 0x30, 0x31, 0x32, 0x33, 0x34, 0x35,
   0x36, 0x37, 0x38, 0x3A, 0x3B, 0x3C, 0x3D] ++
  [0x40, 0x41, 0x42, 0x43, 0x44, 0x45, 0x46, 0x47, 0x48, 0x49, 0x50, 0x51, 0x52, 0x58, 0x59, 0x5A, 0x5B, 0x5C, 0x5D, 0x5E,
   0x5F, 0x60, 0x61, 0x64, 0x65, 0x66, 0x67, 0x68, 0x6C, 0x6D, 0x6E, 0x6F, 0x70, 0x71, 0x72, 0x73, 0x74, 0x75, 0x78, 0x79,
   0x7C, 0x7D, 0x7E, 0x7F]

/-- R67: the checks of the first word, then those of the second word. A word whose fields, written back at their places,
do not give the same word holds a field that must be 0 and is not. -/
noncomputable def decode (w0 w1 : Word) : Decoded :=
  match candidate w0 w1 with
  | none => .bad (if (w0.extractLsb' 25 7).toNat ∈ listedMajors then .unlistedFn else .unlistedMajor)
  | some i =>
    match encode i with
    | [] => .bad .unlistedFn
    | e0 :: rest =>
      if e0 ≠ w0 then .bad .reservedField
      else if !wfFirst i then .bad .firstWordLimit
      else if rest ≠ [] ∧ rest ≠ [w1] then .bad .reservedSecond
      else if !wfSecond i then .bad .secondWordLimit
      else .ok i

/-- The x bit of a word whose major is listed, at the place of its format; in LA it is 1 by definition (R51). -/
def carriesX (w : Word) : Bool :=
  let mj := (w.extractLsb' 25 7).toNat
  if mj ∉ listedMajors then false
  else if mj < 0x40 then
    if mj ∈ [0x03, 0x04, 0x11, 0x12, 0x17, 0x18, 0x08, 0x09, 0x0A, 0x0B, 0x0C, 0x0D, 0x20, 0x22, 0x23, 0x25] then false
    else if mj ∈ [0x36, 0x37, 0x38] then true
    else if mj < 0x30 ∨ mj = 0x3D then bitAt w 4 else bitAt w 5
  else if mj ∈ [0x41, 0x42, 0x43, 0x44, 0x45, 0x50] then false
  else if mj ∈ [0x58, 0x59, 0x5A, 0x5C, 0x5D, 0x5E, 0x5F, 0x64, 0x65, 0x66, 0x67, 0x6C, 0x6F, 0x78, 0x79, 0x7D, 0x7E] then
    bitAt w 0
  else bitAt w 1

/-- The length of an instruction in bytes (R51). -/
def Instr.len (i : Instr) : Nat := 4 * (encode i).length

/-- The instruction that this decoder reads from words laid out as spec/opcode_table.json numbers their bits: the first
word in bits 31 to 0, the second in bits 63 to 32. -/
noncomputable def decodeTableWord (_nbits w : Nat) : Option Instr :=
  match decode (BitVec.ofNat 32 w) (BitVec.ofNat 32 (w / 2 ^ 32)) with
  | .ok i => some i
  | .bad _ => none

end Sys2Proof
end

