-- ==== Sys2Proof/Machine/Maps.lean ====
section
/-! DEFINITION. Sparse data by key: a list of (key, value) pairs with rising keys, and the few operations over it that the
machine uses. -/
namespace Sys2Proof.Machine

/-- Sparse data by key, keys strictly rising. -/
abbrev Map (α : Type) := List (Nat × α)

/-- The value at a key. -/
def mget {α : Type} : Map α → Nat → Option α
  | [], _ => none
  | (k, v) :: t, n => if n = k then some v else mget t n

/-- The value at a key, or a default. -/
def mgetD {α : Type} (m : Map α) (n : Nat) (d : α) : α := (mget m n).getD d

/-- The map with a value put at a key. -/
def mset {α : Type} : Map α → Nat → α → Map α
  | [], n, x => [(n, x)]
  | (k, v) :: t, n, x => if n = k then (k, x) :: t else if n < k then (n, x) :: (k, v) :: t else (k, v) :: mset t n x

/-- The map without a key. -/
def mdel {α : Type} : Map α → Nat → Map α
  | [], _ => []
  | (k, v) :: t, n => if n = k then mdel t n else (k, v) :: mdel t n

/-- The map with the value at a listed key changed. -/
def mmod {α : Type} : Map α → Nat → (α → α) → Map α
  | [], _, _ => []
  | (k, v) :: t, n, f => if n = k then (k, f v) :: t else (k, v) :: mmod t n f

/-- The map with a value put at a key, or the key removed where the value is the one that unlisted keys have. -/
def mput {α : Type} [DecidableEq α] (d : α) (m : Map α) (n : Nat) (x : α) : Map α :=
  if x = d then mdel m n else mset m n x

/-- Every value changed. -/
def mall {α : Type} (m : Map α) (f : Nat → α → α) : Map α := m.map fun p => (p.1, f p.1 p.2)

/-- The map without the pairs that a test refuses. -/
def mkeep {α : Type} (m : Map α) (f : Nat → α → Bool) : Map α := m.filter fun p => f p.1 p.2

/-- The keys below a bound that are not listed, lowest first, at most a given number of them. -/
def freeKeys {α : Type} (m : Map α) (from_ bound : Nat) : List Nat :=
  (List.range bound).filter fun k => decide (from_ ≤ k) && (mget m k).isNone

/-- The next key after every listed one. -/
def nextKey {α : Type} : Map α → Nat
  | [] => 0
  | [(k, _)] => k + 1
  | _ :: t => nextKey t

/-- Keys strictly rising. -/
def Map.sorted {α : Type} : Map α → Bool
  | [] => true
  | [_] => true
  | a :: b :: t => decide (a.1 < b.1) && Map.sorted (b :: t)

end Sys2Proof.Machine
end

