-- ==== Sys2Proof/Machine/CoreTypes.lean ====
section
/-! DEFINITION. The state of groups, splits and blocks (spec 04, 05, 13, 15). -/
namespace Sys2Proof.Machine

/-- Bits [48:2] of a PC (R81). -/
abbrev Pc := BitVec 47

/-- A register that a result may be pending for (R60). -/
inductive Reg where
  | v (n : Nat) | p (n : Nat) | s (n : Nat) | c (n : Nat)
  deriving DecidableEq, Repr

/-- What a split in WAIT waits for (R82). -/
inductive Wait where
  /-- A parked touch of an absent mapped-scratch word: the id of the touch (R179); never withdrawn. -/
  | touch (id : Nat)
  /-- A host replay: the token (R421); never withdrawn. -/
  | replay (token : Nat)
  /-- A queue, a message, a row slot, a matrix operation, an acknowledgement: the instruction looks again. -/
  | poll
  /-- The release of SYNC.REL: the instruction looks again (R463). -/
  | pollSync
  /-- A QPUSH that waits for an entry of the engine scheduler: the instruction looks again (R397, R417). -/
  | pollEng
  /-- A SEND or MCAST on its way (R413), by its id. -/
  | msg (id : Nat)
  /-- A waiting acquire (R252), by its id. -/
  | sync (id : Nat)
  /-- A waiting SEMA.WAIT (R263), by its id. -/
  | sema (id : Nat)
  /-- BAR.WAIT on a barrier (R265). -/
  | bar (n : Nat)
  /-- The arrival of BAR.ARR or, with sync, BAR.SYNC in the next phase (R265). -/
  | barArr (n : Nat) (sync : Bool)
  deriving DecidableEq, Repr

/-- The waits whose instruction looks again. -/
def Wait.polls : Wait → Bool
  | .poll => true
  | .pollSync => true
  | .pollEng => true
  | _ => false

/-- The waits that a trap or a switch withdraws: all but a parked touch and a host replay (R82). -/
def Wait.withdrawn : Wait → Bool
  | .touch _ => false
  | .replay _ => false
  | _ => true

/-- The state of a split-table entry that is not FREE (R81, R82). -/
inductive SplitSt where
  | ready
  | join (jx : Nat)
  | wait (w : Wait)
  /-- The clk at which the count has run out. -/
  | nap (until_ : Nat)
  deriving DecidableEq, Repr

/-- A split in a wait whose instruction looks again. -/
def SplitSt.polls : SplitSt → Bool
  | .wait w => w.polls
  | _ => false

/-- A split whose instruction has issued and waits in WAIT. -/
def SplitSt.waits : SplitSt → Bool
  | .wait w => w.withdrawn
  | _ => false

/-- The uniform state of a group (R113, R129, R302). -/
structure Uniform where
  /-- s0–s63; unlisted registers hold 0. -/
  s : Map Word := []
  /-- c0–c6. -/
  conds : BitVec 7 := 0
  mode : Word := 0
  flags : BitVec 6 := 0
  clkHi : Option Word := none
  ptsHi : Option Word := none
  /-- The valid operand maps m0–m7. -/
  maps : Map (BitVec 128) := []
  deriving DecidableEq, Repr

/-- An entry of a context's binding table (R249). -/
structure Binding where
  base : Nat
  len : Nat
  obj : Nat
  deriving DecidableEq, Repr

/-- An instruction that has issued and waits (R82), the uniform state that it has read, its place in issue order, and the binding
table that it began under (R249). -/
structure Latch where
  instr : Instr
  uni : Uniform
  seq : Nat
  binds : Map Binding := []
  deriving DecidableEq, Repr

/-- A valid entry of the split table (R81), with what issue keeps beside it. -/
structure Split where
  mask : Mask
  st : SplitSt
  pc : Pc
  /-- Open lookahead windows: the instruction's id and how many more instructions may issue (R60, R62). -/
  wins : List (Nat × Nat) := []
  /-- The split arrived at its PC by a branch (R53). -/
  jumped : Bool := false
  /-- The clk of the last issue, or at which a split that has not yet issued became READY (R84). -/
  since : Nat := 0
  /-- The split issues no earlier than this clk (R84, R425, R430). -/
  notBefore : Nat := 0
  /-- After YIELD: the clk at which 64 clk have passed, and the splits that have not issued yet (R85). -/
  yield : Option (Nat × List (Nat × Nat)) := none
  /-- The next instruction has counted its lookahead violation already (R60). -/
  counted : Bool := false
  /-- Merged at a join and not yet issued: issues nothing until every pending result of its lanes is written (R88). -/
  settle : Bool := false
  /-- The instruction at the PC has issued and waits (R82): it is looked at again and is not issued twice. -/
  latch : Option Latch := none
  /-- 1: the write-backs of the instruction at the PC have been sent; 2: its arrival at a barrier has been counted; 3: it has taken a count of its semaphore. -/
  half : Nat := 0
  deriving DecidableEq, Repr

/-- A READY split whose instruction has issued and waits (R82). -/
def Split.going (sp : Split) : Bool := sp.st == .ready && sp.latch.isSome

/-- A join register that is not free (R86). -/
structure Join where
  arm : Mask
  arv : Mask
  rpc : Pc
  deriving DecidableEq, Repr

/-- The state of one lane (R113, R115). The logical words listed are the resident ones that are not 0. -/
structure Lane where
  wb : Nat := 0
  stk : Nat := 0
  regs : Map Word := []
  /-- p0–p6. -/
  preds : BitVec 7 := 0
  /-- The lane flag word: IV DZ OF UF IX PZ in bits 5–0 (R36). -/
  flags : BitVec 6 := 0
  wid : DWord := 0
  ray : Word := 0xFFFFFFFF
  shader : Word := 0xFFFFFFFF
  episode : Word := 0xFFFFFFFF
  deriving DecidableEq, Repr

/-- A result not yet written: the instruction's id, the lane (none: the group) and the register (R60). -/
structure Pend where
  iid : Nat
  lane : Option Nat
  reg : Reg
  deriving DecidableEq, Repr

/-- A cause raised by a split (R418, R425). -/
structure Raised where
  cause : Nat
  entry : Nat
  lanes : Mask
  /-- s58:s59. -/
  pc : Pc
  /-- The PC that the split holds in the frozen table (R418, "Resume at"). -/
  resume : Pc
  x60 : Word
  x61 : Word
  deriving DecidableEq, Repr

/-- The frozen state of a group in a handler (R425, R430). -/
structure Frozen where
  splits : Map Split
  joins : Map Join
  /-- Each lane's wb at entry. -/
  wbs : List Nat
  /-- The lanes live at entry. -/
  live : Mask
  deriving DecidableEq, Repr

/-- What a group has done at a block barrier (R265): whether it has arrived in the current phase, and the phase of the
last arrival that it has not waited for. -/
structure BarUse where
  arrived : Bool := false
  last : Option Nat := none
  deriving DecidableEq, Repr

/-- An occupied group slot (R77, R113). -/
structure Group where
  /-- The group's id, never used again. -/
  uid : Nat
  ctx : Nat
  /-- The block's id. -/
  blk : Nat
  /-- The group's index in its block. -/
  idx : Nat
  live : Mask
  splits : Map Split
  joins : Map Join := []
  lanes : Map Lane := []
  uni : Uniform := {}
  pend : List Pend := []
  /-- Object addresses held; 0 names the default object (R250). -/
  holds : List Nat := []
  bars : Map BarUse := []
  /-- The trap that waits for the group's pending results (R425). -/
  trapping : Option Raised := none
  handler : Option Frozen := none
  /-- The entries whose instructions R84 gives the clk of the one at work, and which issue in it yet, be a trap raised (R420). -/
  also : List Nat := []
  /-- The entry whose SYNC, FENCE, SEMA or BAR holds the group (R463). -/
  holder : Option Nat := none
  /-- The group has completed a FENCE.rel or FENCE.full: its later stores and atomics are release points (R243, R246). -/
  fenced : Bool := false
  /-- Energy units in use (R382). -/
  units : Nat := 0
  /-- The last lane has exited; the slot waits for pending results, or for the join of R385. -/
  ended : Bool := false
  deriving DecidableEq, Repr

/-- A block barrier (R265). -/
structure Barrier where
  phase : Nat := 0
  count : Nat := 0
  deriving DecidableEq, Repr

/-- What kind of block a record describes (R371, R377, R335). -/
inductive BlockKind where
  /-- Block b of the launch. -/
  | launch (b : Nat)
  /-- A continuation in the tree of launch block b (none: of a ray launch), with its JOIN. -/
  | cont (b : Option Nat) (join : Nat)
  | episode (n : Nat)
  deriving DecidableEq, Repr

/-- A block resident on a core. -/
structure Block where
  core : Nat
  ctx : Nat
  launch : Nat
  kind : BlockKind
  /-- The slots of its groups. -/
  slots : List Nat
  groups : Nat
  ended : List Nat := []
  part : Nat
  /-- Words of register stack per lane, and the spill limit. -/
  stack : Nat
  limit : Nat
  trapb : Nat
  paired : Bool
  eclass : Nat
  bars : Map Barrier := []
  /-- Entry in the window table, if the block has a window (R169). -/
  window : Option Nat := none
  /-- Held in the join buffer of its cluster (R385). -/
  joinHeld : Bool := false
  deriving DecidableEq, Repr

/-- The state of a context on one core (R436). -/
inductive Residence where
  | active | shadow | draining | saved | loading
  deriving DecidableEq, Repr

/-- The 64-bit event counters of a core, a cluster or a slice (R63, R94, R119, R192, R230, R268, R282, R312, R358, R393,
R417, R442). -/
inductive Ctr where
  | laviol | spldiv | jndone | splopm | jwaitclk | issueq0 | issueq1 | issueq2 | issueq3
  | spillw | fillw | stklim
  | sfilll | swbw | sprobew | spark | shalol | sbankc
  | l1hit | l1miss | lrenew | lrebase | ltwrap | probehold | l1tlbm | l2tlbm | walks | walkj | rdmerge
  | pfiss | pfllc | pfused | pflate | pfevu | pfdrop
  | syncwclk | semawclk | barwclk | ordrsnd
  | rowactn | rowinta | rowreact | rowratew | rowrfrw | rowexp | rowswcl | rowcorr | rowtrans | rowlast
  | mxstep | mxstall | mxqwait | mxpois | mxcommit | mxdrop | bplline
  | rppopf | rppopp | rppopd | rpspill | rprefill | rpnosh | rspref
  | tlhit | tlmiss | tlpfiss | tlpfused | tlpflate | tlpfevu | tlpfdrop
  | tvnode | tvtri | tvrays | tverr | tvpark
  | eamadm | eambwait | eampwait | eamwwait | cqpush | cqref | cjdone
  | engjob | engedge | engfull | carkeyp | mbxop | msgacc | msgref | msgovf | msgtrunc
  | trapn | hostflt | ctxflt | swn | drainb | loadb
  deriving DecidableEq, Repr

/-- Counter values; an unlisted counter is 0. -/
abbrev Ctrs := List (Ctr × BitVec 64)

end Sys2Proof.Machine
end

