-- ==== Sys2Proof/Machine/MemTypes.lean ====
section
/-! DEFINITION. The state of memory, translation, the caches and the synchronisation objects (spec 08, 09). -/
namespace Sys2Proof.Machine

/-- Bytes by address in canonical form: addresses rising, no entry 0. -/
abbrev Bytes := Map Byte
/-- The poisoned 4-byte words, by word address (byte address / 4). -/
abbrev Poison := Map Bool

/-- A TLB entry: the context, the 64 KiB page number (of the first page for a 2 MiB entry) and the PTE (R209, R214). -/
structure TlbEntry where
  ctx : Nat
  page : Nat
  pte : DWord
  deriving DecidableEq, Repr

/-- Who waits for a walk: a split, by its group's id and entry. -/
structure Waiter where
  uid : Nat
  entry : Nat
  deriving DecidableEq, Repr

/-- A walk that a cluster's walker runs or holds until one of its 64 places is free, with the cores and the splits whose misses
it serves (R214). -/
structure Walk where
  cluster : Nat
  ctx : Nat
  page : Nat
  cores : List Nat
  waiters : List Waiter
  running : Bool := true
  deriving DecidableEq, Repr

/-- A miss that its core holds because the walker holds 512 (R214). -/
structure HeldMiss where
  core : Nat
  ctx : Nat
  page : Nat
  who : Waiter
  deriving DecidableEq, Repr

/-- A walk-cache entry: the context, the level and the index bits above that level's table, and the table entry (R214). -/
structure WalkCached where
  cluster : Nat
  ctx : Nat
  level : Nat
  prefix_ : Nat
  entry : DWord
  deriving DecidableEq, Repr

/-- The result of a walk that found no usable leaf, for a split that waited for it: cause 0x04 at the instruction, and
whether it goes to the host (R211). -/
structure WalkMiss where
  who : Waiter
  page : Nat
  hs : Bool
  deriving DecidableEq, Repr

/-- The state of a line in an L1 (R219, R224). -/
inductive L1St where
  | shared
  | modified
  /-- An L-class copy. -/
  | lease
  deriving DecidableEq, Repr

/-- A line held by an L1. The times of an L-class copy are kept whole; the 16-bit offsets of R225 are their distances from
the base of the line's home. -/
structure L1Line where
  st : L1St
  data : Line
  poison : BitVec 16
  wts : Nat := 0
  rts : Nat := 0
  /-- Brought in or last read by .lu: a first candidate for eviction (R232). -/
  lu : Bool := false
  /-- Brought in by PREF and not yet used (R230). -/
  pref : Bool := false
  /-- L-class stores written into the copy and not yet acknowledged, by request (R224). -/
  wr : List Nat := []
  deriving DecidableEq, Repr

/-- One lane's part of a memory request: the byte offset in the line, and the operand value of an atomic or a reduction. -/
structure LaneAcc where
  lane : Nat
  off : Nat
  val : BitVec 128 := 0
  ticket : Word := 0
  deriving DecidableEq, Repr

/-- What a memory request asks for (R231 to R238, R257 to R261). -/
inductive ReqOp where
  /-- LD: bytes, destination register, sign extension; cb: bypass the L1; lu: last use; ex: it joined a prefetch with
  ownership. -/
  | ld (z d : Nat) (sx cb lu ex : Bool)
  /-- ST; lu: no allocation; inL1: the bytes stand in an L-class copy already (R224). -/
  | st (lu inL1 : Bool)
  | pref
  | prefEx
  | prefLlc
  /-- A write-back of a line: CLINE (keep: the line became S) or an eviction. -/
  | wb (cline : Bool)
  /-- A fill of scratch (R178), with the id of the Fill. -/
  | sfill
  /-- A write-back of scratch (R180): the owning core and the scratch offset of the line. -/
  | swb (core off : Nat)
  /-- A line of a TBOX or TTRI (R367): the id of the test; with ex, it has joined a prefetch that asks for ownership. -/
  | test (id : Nat) (ex : Bool)
  /-- ATOM: op, size, destination, order, scope. -/
  | atom (op size d order scope : Nat)
  /-- RED: op (0 to 10), size, order. -/
  | red (op size order : Nat)
  /-- RED.ord: op 16 or 26, size, order. -/
  | redOrd (op size order : Nat)
  /-- ORDOPEN: done word (address, class L), count, first ticket. -/
  | ordopen (done : Nat) (doneL : Bool) (n t0 : Nat)
  deriving DecidableEq, Repr

/-- Where a request stands. -/
inductive Phase where
  /-- On its way to the slice or the target. -/
  | out
  /-- A read that the slice has passed on to memory (R221). -/
  | pending
  /-- Served; the reply or acknowledgement is on its way back. -/
  | back
  /-- RED.ord: refused by the slice, to be sent again (R261). -/
  | refused
  /-- RED.ord: held by an entry of the slice (R261). -/
  | held
  deriving DecidableEq, Repr

/-- Who made a request. -/
structure Owner where
  core : Nat
  slot : Nat
  /-- The group's id. -/
  uid : Nat
  entry : Nat
  ctx : Nat
  blk : Nat
  /-- The instruction's id. -/
  iid : Nat
  /-- Its place in the issue order of its group (R239). -/
  seq : Nat := 0
  deriving DecidableEq, Repr

/-- A memory request in flight, for one line (R229). -/
structure Req where
  who : Owner
  op : ReqOp
  /-- Physical address of the line. -/
  pa : Nat
  /-- The class of the page used: 0 D, 1 L, 2 N, 3 R. -/
  cls : Nat
  /-- The lease λ of the page (R222). -/
  lease : Nat
  /-- The requester's pts (R223). -/
  pts : Nat
  phase : Phase := .out
  lanes : List LaneAcc := []
  /-- The virtual line addresses that the instruction named (R249). -/
  vas : List Nat := []
  /-- The objects that they belonged to (R249). -/
  objs : List Nat := []
  /-- The bytes and byte mask of a store or write-back; the data of a reply. -/
  data : Line := 0
  mask : BitVec 64 := 0
  poison : BitVec 16 := 0
  wts : Nat := 0
  rts : Nat := 0
  /-- The sync time that the reply of a read acquire returns (R246). -/
  sts : Nat := 0
  /-- It follows a FENCE.rel of its group: it sets the line's sync time (R243, R246). -/
  fenced : Bool := false
  /-- A prefetch that a demand access has joined (R230). -/
  used : Bool := false
  /-- A read pending toward memory that a later write acknowledgement of the slice has overtaken (R221). -/
  overtaken : Bool := false
  /-- The slice has sent the probes that the request needs. -/
  probed : Bool := false
  /-- A read whose line was given up while its reply was on the way: delivered, and not kept (R220). -/
  stale : Bool := false
  deriving DecidableEq, Repr

/-- A probe on its way to an L1 (R219). -/
structure Probe where
  core : Nat
  pa : Nat
  /-- For a write by another agent: the copy is given up. -/
  write : Bool
  /-- The request that caused it. -/
  req : Nat
  /-- Counted as held for a fill (R220). -/
  held : Bool := false
  deriving DecidableEq, Repr

/-- What a home slice keeps for a line (R219, R222, R246). -/
structure SliceLine where
  /-- The L1s that may hold the line. -/
  holders : List Nat := []
  wts : Nat := 0
  rts : Nat := 0
  sts : Nat := 0
  /-- The line is of the L class. -/
  lclass : Bool := false
  deriving DecidableEq, Repr

/-- An ordered-reduction window of a slice (R261). -/
structure OrdWindow where
  ctx : Nat
  done : Nat
  doneL : Bool
  n : Nat
  next : Nat
  last : Nat
  applied : Nat
  deriving DecidableEq, Repr

/-- A waiting acquire (R250). -/
structure SyncWait where
  who : Owner
  /-- Physical line of the object; the address that names it (0: the default object). -/
  obj : Nat
  name : Nat
  /-- 0 ACQ.X, 1 ACQ.S, 2 ACQ.O. -/
  kind : Nat
  st : Bool
  d : Nat
  /-- The binding table that the SYNC began under (R249). -/
  binds : Map Binding := []
  /-- Ended by the breaking of the object: status 1. -/
  broken : Bool := false
  deriving DecidableEq, Repr

/-- A waiting SEMA.WAIT (R263). -/
structure SemaWait where
  who : Owner
  pa : Nat
  tag : Word
  gen : Word
  deriving DecidableEq, Repr

end Sys2Proof.Machine
end

