-- ==== Sys2Proof/Machine/ScratchTypes.lean ====
section
/-! DEFINITION. The state of scratch and its mappings (spec 07). -/
namespace Sys2Proof.Machine

/-- The kind of a mapping entry (R174). -/
inductive MapKind where
  | rw
  | ro
  | replica
  /-- A kind 1 entry after SGATH: scratch address of the index list, row count, bytes per row, stride. -/
  | gathered (idx c rowbytes stride : Nat)
  deriving DecidableEq, Repr

/-- A valid mapping entry of a block: start in its window, length, and the global base (for a replica: the owner's offset × 512 +
its core). -/
structure SMapping where
  kind : MapKind
  s : Nat
  n : Nat
  b : Nat
  deriving DecidableEq, Repr

/-- The state of a mapped word that is not ABSENT (R177). -/
inductive WordState where
  | pending
  | clean
  | dirty
  deriving DecidableEq, Repr

/-- A mapped word: its state, and the physical address under which the directory counts it as a sharer (R181). -/
structure MWord where
  st : WordState
  share : Option Nat := none
  /-- Filled from a page of the L class, whose words an acquire and a time wrap make ABSENT (R188, R226). -/
  lcl : Bool := false
  /-- The global address under which it was filled or written back, for such a word (R182). -/
  va : Nat := 0
  deriving DecidableEq, Repr

/-- A window of a core's scratch (R169), with the valid entries g0–g15 of its block (R174). -/
structure Window where
  blk : Nat
  off : Nat
  len : Nat
  maps : Map SMapping := []
  deriving DecidableEq, Repr

/-- A halo entry of an owner's core (R185): the owner range in that core's scratch and the replica that copies it. -/
structure Halo where
  off : Nat
  len : Nat
  ctx : Nat
  core : Nat
  blk : Nat
  /-- Entry register and start offset of the replica in its core's scratch. -/
  g : Nat
  dst : Nat
  m : Bool := false
  deriving DecidableEq, Repr

/-- The scratch of one core. -/
structure Scratch where
  bytes : Bytes := []
  poison : Poison := []
  wins : Map Window := []
  /-- Mapped words by word index in the scratch part; unlisted words of a mapping are ABSENT. -/
  words : Map MWord := []
  halo : Map Halo := []
  /-- The time of the last SATOM release on a line, by line index (R196, R246). -/
  times : Map Nat := []
  deriving DecidableEq, Repr

/-- A line fill in flight (R178): the scratch line, and where its data comes from. -/
structure Fill where
  core : Nat
  blk : Nat
  ctx : Nat
  /-- Offset of the line in the core's scratch. -/
  off : Nat
  /-- From the owner's scratch (core and offset) for a replica; otherwise the request of the same id brings the data. -/
  owner : Option (Nat × Nat) := none
  /-- The words made ABSENT since the request, by index in the line. -/
  dropped : BitVec 16 := 0
  /-- Of a gathered row whose index word is not valid yet: the place of that word. The fill goes on when it is (R202). -/
  index : Option (Nat × Nat) := none
  /-- The core, slot and PC of the instruction that no split waits for (R462). -/
  why : Option (Nat × Nat × Pc) := none
  deriving DecidableEq, Repr

/-- What a scratch access does (R194 to R196). -/
inductive ScrOp where
  | sld (z d : Nat) (sx : Bool)
  | sst (z : Nat)
  | satom (op size d order scope : Nat)
  deriving DecidableEq, Repr

/-- A scratch access in flight: at its owning core it waits for words, or it is on its way to another core (R172, R179). -/
structure Touch where
  who : Owner
  op : ScrOp
  /-- The owning core. -/
  at_ : Nat
  /-- Offsets in the owning core's scratch, by lane. -/
  lanes : List LaneAcc
  /-- Some word was not valid at the owning core. -/
  waits : Bool := false
  /-- It travels to another core (R178, R172). -/
  remote : Bool := false
  /-- The lanes of the split that issued it (R173). -/
  mask : Mask := 0
  /-- The leaves of the pages behind its words, settled at its issue, by line (R179). -/
  known : List (Nat × DWord) := []
  /-- It follows a FENCE.rel of its group (R243). -/
  fenced : Bool := false
  deriving DecidableEq, Repr

/-- A probe on its way to the scratch words of a core (R181): the physical line and its written words. -/
structure ScrProbe where
  core : Nat
  pa : Nat
  words : BitVec 16
  req : Nat
  deriving DecidableEq, Repr

/-- A halo push on its way (R186): one for each replica. -/
structure Push where
  owner : Nat
  halo : Nat
  len : Nat
  /-- The owner range as it stood at the push. -/
  off : Nat
  data : List Byte
  poison : List Bool
  core : Nat
  blk : Nat
  dst : Nat
  /-- The push act, whose replicas of one range are reached along one path (R186, R414); that the range has been read for it. -/
  path : Nat
  taken : Bool := false
  arrived : Bool := false
  who : Owner
  deriving DecidableEq, Repr

end Sys2Proof.Machine
end

