-- ==== Sys2Proof/Machine/RowTypes.lean ====
section
/-! DEFINITION. The state of the row stack above one core (spec 10). -/
namespace Sys2Proof.Machine

/-- The state of a row slot that is not CLOSED (R272). -/
inductive SlotState where
  | opening
  | open_
  | dirty
  | closing
  /-- EXPIRED; whether the close of R275 has finished. -/
  | expired (closed : Bool)
  deriving DecidableEq, Repr

/-- A row slot that is not CLOSED (R271, R272). -/
structure RowSlot where
  st : SlotState
  /-- The holder block. -/
  blk : Nat
  ctx : Nat
  /-- The row index named by ROWACT, and the physical row. -/
  index : Nat
  row : Nat
  /-- The clk of entry to the state (to OPEN, for OPEN and OPEN-DIRTY). -/
  since : Nat
  /-- A close is wanted and has not started: by ROWPRE, a block end, a kill, a switch or the hold limit. -/
  close : Bool := false
  /-- The id that was next when a ROWPRE asked for the close: what the core issued before it comes first (R277). -/
  closeId : Nat := 0
  /-- The state to which a slot that a resume re-activates returns (R280). -/
  back : Option SlotState := none
  deriving DecidableEq, Repr

/-- An internal activation of a bank (R276): the row, and the clk of its start; closing since a clk. Also the row of an EXPIRED
slot that a fault has made CLOSED before its close has finished, which serves nothing (R275). -/
structure InternalAct where
  row : Nat
  start : Nat
  closing : Option Nat := none
  serves : Bool := true
  deriving DecidableEq, Repr

/-- Where a row transfer goes (R286). -/
inductive XferKind where
  | toScratch
  | toPlane
  | fromScratch
  deriving DecidableEq, Repr

/-- A row transfer in flight (R286): row offset, offset in scratch or in the B-plane, lines moved. -/
structure Xfer where
  kind : XferKind
  slot : Nat
  /-- The physical row. -/
  row : Nat
  off : Nat
  to_ : Nat
  len : Nat
  who : Owner
  pc : Pc
  started : Option Nat := none
  /-- Into the plane: the beats of the vertical bus that it has had, and the clk at which it had the last one (R13). -/
  moved : Nat := 0
  doneAt : Option Nat := none
  deriving DecidableEq, Repr

/-- A slot recorded in a save image (R280). -/
structure SavedSlot where
  slot : Nat
  st : SlotState
  blk : Nat
  index : Nat
  row : Nat
  /-- A ROWPRE has asked for its close. -/
  close : Bool := false
  deriving DecidableEq, Repr

/-- The row controller of a core. -/
structure Rows where
  slots : Map RowSlot := []
  internal : Map InternalAct := []
  /-- Of each bank that has been open: how many of the refresh operations that have fallen due since reset are made, and the clk
  at which the running one ends; the others make each one as it falls due (R273). -/
  refreshed : Map Nat := []
  refreshing : Map Nat := []
  /-- The clks of the latest activations, newest first (R273). -/
  acts : List Nat := []
  xfers : Map Xfer := []
  /-- A transfer has had the last beat of the vertical bus while the array wanted it too (R13). -/
  turn : Bool := false
  /-- Slots closed by switch that the resumed context waits for (R280). -/
  reopen : List SavedSlot := []
  deriving DecidableEq, Repr

end Sys2Proof.Machine
end

