-- ==== Sys2Proof/Machine/MxTypes.lean ====
section
/-! DEFINITION. The state of a core's matrix array, accumulator tiles and B-plane (spec 11). -/
namespace Sys2Proof.Machine

/-- The control word of a tile (R296). -/
structure TileCtl where
  link : Nat := 0
  /-- 0 none, 1 committed side, 2 shadow side. -/
  spec : Nat := 0
  lvl : Bool := false
  occ : Bool := false
  cl : Nat := 0
  count : Nat := 0
  deriving DecidableEq, Repr

/-- An accumulator tile: the elements that are not +0 by 128 × row + column, and the poison map (R296). -/
structure Tile where
  elems : Map Word := []
  poison : BitVec 256 := 0
  deriving DecidableEq, Repr

/-- What a multiply does with its sums (R314). -/
inductive MulKind where
  | plain
  | canonical
  /-- MMAS with its shadow tile. -/
  | spec (u : Nat)
  deriving DecidableEq, Repr

/-- A matrix operation as captured at issue (R293). -/
inductive MxOp where
  /-- Tile, kind, images of the A and B maps, kA, kB, kl, the rows (source, destination), columns, the slots of an A chain
  with their physical rows, and the spans of A and its scales in scratch (core and offset) by row. -/
  | mul (t : Nat) (kind : MulKind) (ma mb : BitVec 128) (ka kb kl : Nat) (rows : List (Nat × Nat)) (n : Nat)
      (chain spans sspans : List (Nat × Nat))
  | zero (t n : Nat)
  | commit (t u : Nat) (cond : Bool)
  | drop (t u : Nat)
  | merge (t u : Nat)
  /-- Format, the rows' spans, first row, rows. -/
  | load (t fmt : Nat) (spans : List (Nat × Nat)) (row0 rows : Nat)
  | store (t fmt : Nat) (sat : Bool) (spans : List (Nat × Nat)) (row0 rows : Nat)
  | planeLd (b len cols : Nat) (spans : List (Nat × Nat))
  | planeZero (b len cols : Nat)
  deriving DecidableEq, Repr

/-- An entry of the matrix queue. -/
structure MxEntry where
  id : Nat
  op : MxOp
  /-- Pair form: also on the follower; for the plane forms, on the follower alone. -/
  pair : Bool
  who : Owner
  pc : Pc
  /-- The clk at which the array started it. -/
  started : Option Nat := none
  /-- The clks of tile copy and stream that have passed. -/
  ran : Nat := 0
  /-- The clk at which its stream ended, and the step that it then has for each core, with its overflow. -/
  read : Option Nat := none
  steps : List (Tile × Bool) := []
  deriving DecidableEq, Repr

/-- The matrix array of a core with its tiles and its plane. -/
structure Matrix where
  tiles : Map Tile := []
  /-- The control words that are not 0, and their issue-side copies (R307). -/
  ctls : Map TileCtl := []
  copies : Map TileCtl := []
  queue : List MxEntry := []
  plane : Bytes := []
  planePoison : Poison := []
  /-- 64 KiB regions written since the context began to hold the core (R309). -/
  regions : Map Bool := []
  /-- Tiles with a lasting error that no operation has read since (R311). -/
  lost : List Nat := []
  /-- On a leader: the holder block of the pair binding (R304). -/
  bound : Option Nat := none
  deriving DecidableEq, Repr

end Sys2Proof.Machine
end

