-- ==== Sys2Proof/Machine/RayTypes.lean ====
section
/-! DEFINITION. The state of rays, of Saffron, of the traversal units and of the treelet caches (spec 12). -/
namespace Sys2Proof.Machine

/-- A hit of a ray (R332, R351). -/
structure Hit where
  t : Word
  prim : Word
  inst : Word
  u : Word
  v : Word
  back : Bool
  shader : Nat
  deriving DecidableEq, Repr

/-- The chain of a ray (R352): the count, the next hit, the end shader and the hits. -/
structure Chain where
  n : Nat := 0
  next : Nat := 0
  end_ : Nat := 0
  hits : List Hit := []
  deriving DecidableEq, Repr

/-- The ray record (R331). -/
structure RayRec where
  /-- PAYLOAD, 16 words. -/
  payload : List Word
  /-- ORG, DIR, TMIN, TMAX: 8 words. -/
  geo : List Word
  /-- Bytes 96–99 without SHADER, and SHADER. -/
  flags : Word
  shader : Nat
  thit : Word := 0
  prim : Word := 0
  inst : Word := 0
  bu : Word := 0
  bv : Word := 0
  n : Nat := 0
  j : Nat := 0
  kind : Nat := 0
  deriving DecidableEq, Repr

/-- Where a live ray is. -/
inductive RayAt where
  /-- In a lane of an episode. -/
  | lane (core slot lane : Nat)
  /-- Handed over to the TVU and not yet accepted (R336). -/
  | handed
  /-- In traversal; it may wait for the treelet line at a physical address. -/
  | tvu (wants : Option Nat)
  /-- Parked in the TVU for a host replay (R356), or waiting for a parking place. -/
  | parked (token : Option Nat)
  /-- Replayed by the host, it waits for a free entry of its TVU (R353). -/
  | replayed
  /-- On its way into Saffron. -/
  | arriving
  /-- On die, in its bin since a clk. -/
  | bin (since : Nat)
  /-- In its launch's spill queue, at a place in order of arrival. -/
  | spilled (order : Nat)
  /-- In a formed episode. -/
  | formed (e : Nat)
  deriving DecidableEq, Repr

/-- A bound of t: an infinity, or n / d with d > 0. -/
inductive Bound where
  | ninf
  | fin (n : Int) (d : Nat)
  | pinf
  deriving DecidableEq, Repr
/-- A valid ray with TMIN ≤ TMAX. -/
structure GeoRay where
  o : List Int
  d : List Int
  tmin : Bound
  tmax : Bound
  deriving DecidableEq, Repr
/-- The space that a reference belongs to: its ray (none: nothing is hit), instance id, shader base, culling off, and whether
it lies inside an instance. -/
structure Space where
  ray : Option GeoRay
  inst : Word := 0xFFFFFFFF
  sbase : Nat := 0
  nocull : Bool := false
  inside : Bool := false
  base : DWord
  deriving DecidableEq, Repr
/-- What a traversal has still to visit: a reference, or a triangle of a leaf at an address. -/
inductive Todo where
  | ref (sp : Space) (r : Nat)
  | tri (sp : Space) (at_ : Nat)
  deriving DecidableEq, Repr
/-- How far a traversal has come (R353): what is left, the hits, the node and triangle tests made, the reads of lines that the
treelet cache has served, and those of the next item that have missed. -/
structure Trav where
  todo : List Todo
  hits : List Hit := []
  nodes : Nat := 0
  tris : Nat := 0
  found : Nat := 0
  lacked : Nat := 0
  /-- The addresses of the parts of items read since the traversal last stopped, the last first. -/
  reads : List Nat := []
  deriving DecidableEq, Repr

/-- A live ray of a context (R329). -/
structure Ray where
  launch : Nat
  cluster : Nat
  core : Nat
  rec_ : RayRec
  handle : DWord := 0
  chain : Chain := {}
  episodes : Nat := 0
  at_ : RayAt
  /-- pts carried by the hand-over. -/
  pts : Nat := 0
  /-- The first four distinct treelets that the traversal missed, by virtual address (R355). -/
  missed : List Nat := []
  /-- A traversal that has begun and not ended. -/
  trav : Option Trav := none
  /-- The record has met a lasting error, which ends its traversal with code 3 (R357). -/
  bad : Bool := false
  deriving DecidableEq, Repr

/-- A formed episode that waits for admission (R333). -/
structure Episode where
  ctx : Nat
  launch : Nat
  shader : Nat
  rays : List Nat
  deriving DecidableEq, Repr

/-- A line of a treelet (R354). -/
structure TreeLine where
  data : Line
  poison : BitVec 16
  deriving DecidableEq, Repr

/-- A treelet of a cluster's cache (R354): its lines present by index, the lines asked for, and the prefetch mark. -/
structure Treelet where
  ctx : Nat
  launch : Nat
  pa : Nat
  lines : Map TreeLine := []
  wanted : List Nat := []
  cls : Nat := 0
  pref : Bool := false
  deriving DecidableEq, Repr

/-- A TBOX or TTRI in a TVU (R366 to R369). -/
structure LaneTest where
  who : Owner
  /-- TBOX with its mask, or TTRI with its culling flags. -/
  box : Bool
  mask : Nat := 0
  cb : Bool := false
  cf : Bool := false
  d : Nat
  /-- Lane, the parts of its item (physical line, offset, length) and the eight ray registers. -/
  lanes : List (Nat × List (Nat × Nat × Nat) × List Word)
  /-- Lines that the L1 held at issue, and those that have come since, each as its reply came. -/
  got : Map TreeLine := []
  deriving DecidableEq, Repr

/-- Saffron and the treelet cache of one cluster. -/
structure RayCluster where
  formed : Map Episode := []
  /-- Treelets, most recently used first. -/
  cache : List Treelet := []
  /-- The cell table: the treelets of an entry (R355), with its context. -/
  cells : Map (Nat × List Nat) := []
  /-- Bins whose treelets were requested since their last episode: context, launch, shader, direction bin, origin cell. -/
  asked : List (List Nat) := []
  /-- Bins that form an episode because their launch has drained (R338). -/
  due : List (List Nat) := []
  /-- The clk at which an episode was last formed: at most one in a clk (R338). -/
  formedAt : Option Nat := none
  /-- The launch whose spill queue was served last: 64 × context + launch (R339). -/
  turn : Nat := 0
  deriving DecidableEq, Repr

/-- Where an engine job stands (R397, R401, R402). -/
inductive JobSt where
  /-- Its release is not performed yet. -/
  | entering
  | queued
  | running
  | parked (token : Nat)
  deriving DecidableEq, Repr

/-- A job card (R398) in a cluster. -/
structure Job where
  cluster : Nat
  caraway : Bool
  /-- The 16 words. -/
  card : List Word
  who : Owner
  st : JobSt
  /-- The cards that it has an edge to (R401). -/
  edges : List Nat := []
  /-- Place in scheduler order. -/
  order : Nat := 0
  pts : Nat := 0
  /-- Rows of the row stack that a running job reads, or writes, and that their row controllers have still to serve, and those
  served (R205, R217). -/
  wants : List (Nat × Bool) := []
  seen : List (Nat × Bool) := []
  deriving DecidableEq, Repr

/-- A record of a completion register (R407). -/
structure CompRec where
  ctx : Nat
  core : Nat
  slot : Nat
  caraway : Bool
  val : DWord
  pts : Nat
  deriving DecidableEq, Repr

/-- A value in a mailbox with the pts of its push. -/
structure Mail where
  val : DWord
  pts : Nat
  deriving DecidableEq, Repr

/-- A message (R410): port, tag, payload, the sender's context and core, and the pts it carries. -/
structure Msg where
  port : Nat
  tag : Nat
  payload : List Byte
  poison : List Bool
  ctx : Nat
  src : Nat
  pts : Nat
  deriving DecidableEq, Repr

/-- A SEND or MCAST on its way: the destinations still to visit (R413). -/
structure MsgFlight where
  who : Owner
  msg : Msg
  dests : List Nat
  nb : Bool
  cd : Nat
  /-- The present destination has refused it. -/
  refused : Bool := false
  deriving DecidableEq, Repr

/-- A posted receive (R415): the buffer's owner offset, and what matched. -/
structure Recv where
  ctx : Nat
  uid : Nat
  slot : Nat
  blk : Nat
  buf : Nat
  rtag : Nat
  rmask : Nat
  cap : Nat
  port : Nat
  filter : Word
  matched : Option Msg := none
  /-- The truncation fault has been raised (R416). -/
  told : Bool := false
  /-- Order of posting. -/
  order : Nat
  deriving DecidableEq, Repr

/-- The message tables of one core (R411). -/
structure MsgCore where
  recvs : Map Recv := []
  overflow : List Msg := []
  deriving DecidableEq, Repr

/-- What a save image holds of one context on one core (R439). -/
structure Saved where
  groups : Map Group := []
  /-- The 64-bit images of the split tables, by group slot, with the frozen one of a group in a handler after the other (R81). -/
  tables : Map (List DWord) := []
  /-- The header: the package and the device core index that wrote the image; and its bytes in memory as written, by offset,
  which the check word covers (R440). -/
  pkg : Nat := 0
  home : Nat := 0
  img : Bytes := []
  blocks : List Nat := []
  part : Nat := 0
  pts : Nat := 0
  /-- Window table entries, scratch bytes, poison and the DIRTY words of the windows. -/
  wins : Map Window := []
  bytes : Bytes := []
  poison : Poison := []
  words : Map MWord := []
  slots : List SavedSlot := []
  tiles : Map Tile := []
  ctls : Map TileCtl := []
  plane : Bytes := []
  planePoison : Poison := []
  regions : Map Bool := []
  lost : List Nat := []
  bound : Option Nat := none
  deriving DecidableEq, Repr

end Sys2Proof.Machine
end

