-- ==== Sys2Proof/Machine/WorkTypes.lean ====
section
/-! DEFINITION. The state of launches, continuation queues, contexts and the host's side (spec 13, 15, 16). -/
namespace Sys2Proof.Machine

/-- The fields of a launch header (R372). -/
structure Header where
  code : DWord
  lim : DWord
  /-- w0 to w5. -/
  widths : List Nat
  queue : Nat
  ray : Bool
  paired : Bool
  prio : Nat
  eclass : Nat
  part : Nat
  /-- Groups per block. -/
  groups : Nat
  /-- Words of register stack per lane, and the spill limit L. -/
  stack : Nat
  limit : Nat
  trapb : DWord
  comp : DWord
  mapt : DWord
  arg : DWord
  celle : BitVec 8
  quota : Nat
  patience : Nat
  deriving DecidableEq, Repr

/-- A running launch (R372 to R376). -/
structure Launch where
  hdr : Header
  /-- The scratch-map template copied at acceptance: 64-bit words (R175). -/
  template : List DWord
  /-- GEN of the completion object at acceptance. -/
  gen : Word
  target : Nat
  /-- The lowest block not admitted, those admitted above it, and the oldest unreported block W0. -/
  next : Nat := 0
  ahead : List Nat := []
  w0 : Nat := 0
  /-- For each launch block admitted and not reported: the blocks and queued records of its tree (R374). -/
  trees : Map Nat := []
  /-- Blocks and queued records of the launch that have not ended. -/
  alive : Nat := 0
  /-- Reports made. -/
  count : Nat := 0
  /-- The context was lost on the other package (R435). -/
  peerLost : Bool := false
  /-- pts that the acceptance carried (R384). -/
  pts : Nat := 0
  deriving DecidableEq, Repr

/-- A record in a continuation queue (R377, R378). -/
inductive QRec where
  /-- A launch entry. -/
  | launch (n : Nat)
  /-- A continuation: its four words, its launch, the tree it joins, where it was pushed, and the pts it carried. -/
  | cont (w0 frame join wid : DWord) (launch : Nat) (tree : Option Nat) (core : Nat) (pts : Nat)
  deriving DecidableEq, Repr

/-- A continuation queue that is not OFF (R378). -/
structure CQueue where
  base : Nat
  log : Nat
  recs : List QRec := []
  /-- Records pushed since the queue was enabled: the next takes the slot of this number, modulo the size (R378). -/
  tail : Nat := 0
  deriving DecidableEq, Repr

/-- An entry of a cluster's join buffer (R385). -/
structure JoinHeld where
  blk : Nat
  counter : Nat
  deriving DecidableEq, Repr

/-- The 64-bit and 32-bit fields of a context block outside the rings (R446). -/
structure CtxRegs where
  root : Nat := 0
  en : Bool := false
  ctla : Nat := 0
  srbase : Nat := 0
  srw : Nat := 0
  tfb : Nat := 0
  raybase : Nat := 0
  raycap : Nat := 0
  savebase : Nat := 0
  rb : Nat := 0
  rc : Nat := 0
  deriving DecidableEq, Repr

/-- The launch, fault and event rings of a context block (R446). -/
structure CtxRings where
  lqbase : Nat := 0
  lqlog : Nat := 0
  lqtail : Nat := 0
  lqhead : Nat := 0
  fqbase : Nat := 0
  fqlog : Nat := 0
  fqtail : Nat := 0
  fqhead : Nat := 0
  eqbase : Nat := 0
  eqlog : Nat := 0
  eqtail : Nat := 0
  eqhead : Nat := 0
  eqlost : Nat := 0
  deriving DecidableEq, Repr

/-- The registers of one continuation queue or mailbox in a context block (R446). -/
structure QRegs where
  base : Nat := 0
  log : Nat := 0
  on : Bool := false
  deriving DecidableEq, Repr

/-- A host-serviced fault record (R449). -/
structure FaultRec where
  va : DWord
  where_ : DWord
  cause : Nat
  src : Nat
  write : Bool
  core : Nat
  slot : Nat
  token : Nat
  deriving DecidableEq, Repr

/-- Who waits for a replay (R421, R356, R405). -/
inductive Parked where
  | split (core slot uid entry : Nat)
  | ray (ray : Nat)
  | job (id : Nat)
  deriving DecidableEq, Repr

/-- A context fault recorded and not yet acted on (R433). -/
structure CtxFault where
  primary : Nat
  secondary : Nat
  core : Nat
  slot : Nat
  pc : DWord
  x : DWord
  deriving DecidableEq, Repr

/-- The state of a context on the package (R249, R246, R371, R378, R446 to R449). -/
structure Ctx where
  regs : CtxRegs := {}
  rings : CtxRings := {}
  qd : Map QRegs := []
  /-- Mailbox m of cluster k at 4k + m. -/
  mbx : Map QRegs := []
  binds : Map Binding := []
  floor : Nat := 0
  launches : Map Launch := []
  queues : Map CQueue := []
  /-- The launch ring has stopped at a slot that cannot be read (R447). -/
  stalled : Bool := false
  /-- The header that stands at the head of the ring for want of room in its queue: its 64 bytes (R447). -/
  heldHdr : Option (List Byte) := none
  /-- Fault records that the device holds, oldest first, and the parked faults by token (R449). -/
  held : List FaultRec := []
  parked : Map Parked := []
  /-- Context faults recorded, oldest first (R433). -/
  faults : List CtxFault := []
  /-- A kill runs and "kill done" is still to be posted (R434). -/
  killing : Bool := false
  /-- The context was lost on the other package (R435). -/
  peerLost : Bool := false
  deriving DecidableEq, Repr

/-- A BAR2 access of the host that waits for a bank (R276, R444): what it has still to do, line by line, and what it has read. -/
structure HostAccess where
  wr : Bool
  parts : List (Nat × Nat × Nat)
  bytes : List Byte
  got : List Byte := []
  deriving DecidableEq, Repr

/-- The device registers that are not constants of the part (R445), and the command registers (R448). -/
structure Dev where
  /-- 0 the first package of a pair or a single one, 1 the second. Boot firmware loads it and the spec gives no value for reset:
  0 is the model's choice (log 68). -/
  pkg : Nat := 0
  pair : Nat := 0
  boot : Nat := 0
  pwrcap : Nat := 1500
  weights : List Nat := [2, 4, 6, 8, 12, 16, 24, 32]
  b2off : Nat := 0
  /-- The BAR2 size in force (R444). -/
  b2size : Nat := 2 ^ 30
  /-- Corrected, transient and lasting errors. -/
  errcnt : List Nat := [0, 0, 0]
  /-- DARG0, DARG1 and the flags of DCMDST: the spec gives no reset value, and 0 is the model's choice (log 69). -/
  darg0 : Nat := 0
  darg1 : Nat := 0
  busy : Bool := false
  refused : Bool := false
  /-- The core of a requested switch that makes DCMDST busy. -/
  pending : Option Nat := none
  /-- A load that makes DCMDST busy: the context, and the cores whose resume queues have no room for it yet (R440). -/
  loads : Option (Nat × List Nat) := none
  /-- The bytes that the host's last read returned, lowest first. -/
  lastRead : List Byte := []
  bar2 : Option HostAccess := none
  deriving DecidableEq, Repr

end Sys2Proof.Machine
end

