-- ==== Sys2Proof/Machine/State.lean ====
section
/-! DEFINITION. The whole state of the KZ8 as plain data, the reasons a step can stop, and the state after reset. -/
namespace Sys2Proof.Machine

/-- An instruction that issued in the present clk of a quadrant (R84). -/
structure Issued where
  slot : Nat
  entry : Nat
  uniform : Bool
  memory : Bool
  mask : Mask
  /-- MODE or MODER: it takes effect after the others of its group (R140). -/
  late : Bool := false
  /-- It enters the matrix queue (R293). -/
  matrix : Bool := false
  deriving DecidableEq, Repr

/-- The issue of one quadrant in its latest issuing clk (R84). -/
structure Quadrant where
  clk : Nat
  used : List Issued
  deriving DecidableEq, Repr

/-- The state of one core (spec 01 R12). -/
structure Core where
  /-- The partition code applied last (R111). -/
  part : Nat := 0
  groups : Map Group := []
  /-- The state of each context on the core; ABSENT is not listed (R436). -/
  res : Map Residence := []
  /-- The program time of each context (R222). -/
  pts : Map Nat := []
  /-- L1 TLB, newest first (R214). -/
  tlb : List TlbEntry := []
  /-- L1 data cache by line address (R219, R224), and the bases of R225. -/
  l1 : Map L1Line := []
  bases : Map Nat := []
  icache : Map Line := []
  scratch : Scratch := {}
  rows : Rows := {}
  mx : Matrix := {}
  msgs : MsgCore := {}
  /-- Save images of the core, by context (R439). -/
  saved : Map Saved := []
  /-- Bytes of the save image written in the second phase of a drain, and those of them whose groups and windows have left the
  core (R439). -/
  drained : Nat := 0
  left : Nat := 0
  /-- The resume queue: contexts whose load is queued; the clk at which the load in progress began (R440). -/
  resume : List Nat := []
  loadAt : Nat := 0
  /-- A switch has been requested and not taken (R436); the context that will save. -/
  switch : Bool := false
  /-- No instruction issues before this clk (R437), and none before re-activated slots are OPEN (R280). -/
  quietUntil : Nat := 0
  ctr : Ctrs := []
  /-- The clk at which a quadrant last issued, with what it issued in that clk (R84). -/
  issued : Map Quadrant := []
  deriving DecidableEq, Repr

/-- The state of one cluster (R12). -/
structure Cluster where
  l2tlb : List TlbEntry := []
  wcache : List WalkCached := []
  ctr : Ctrs := []
  joins : Map JoinHeld := []
  /-- The clk at which the EAM last admitted a block, and how many clks each of its heads has waited, by 64 × context + queue
  (R379). -/
  admitted : Option Nat := none
  waits : Map Nat := []
  /-- The heads that the EAM has taken and that are not admitted, by the same key (R379); and the block that it offers of a
  launch, by 64 × context + launch, while one of its cores can admit it (log 88). -/
  taken : List Nat := []
  claim : Option (Nat × Nat) := none
  rays : RayCluster := {}
  /-- Completion registers (R407), oldest first. -/
  comps : List CompRec := []
  /-- Mailbox m of context x at 4x + m (R409). -/
  mail : Map (List Mail) := []
  /-- How many values have been pushed to each: the next takes that entry of the ring, modulo its size. -/
  mailed : Map Nat := []
  deriving DecidableEq, Repr

/-- The times of one slice (R222, R246). -/
structure SliceTimes where
  mts : Nat := 0
  msts : Nat := 0
  deriving DecidableEq, Repr

/-- The requests and waits in flight, by id. -/
structure Flight where
  reqs : Map Req := []
  probes : Map Probe := []
  walks : Map Walk := []
  heldMisses : List HeldMiss := []
  misses : List WalkMiss := []
  syncs : Map SyncWait := []
  semas : Map SemaWait := []
  fills : Map Fill := []
  touches : Map Touch := []
  scrProbes : Map ScrProbe := []
  pushes : Map Push := []
  tests : Map LaneTest := []
  jobs : Map Job := []
  sends : Map MsgFlight := []
  deriving DecidableEq, Repr

/-- The memory of the package and what its slices keep (R204, R206, R219, R232). -/
structure Memory where
  bytes : Bytes := []
  poison : Poison := []
  /-- Directory entries and times by line address; an unlisted line has none. -/
  lines : Map SliceLine := []
  slices : Map SliceTimes := []
  /-- Ordered-reduction windows by line address (R261). -/
  windows : Map OrdWindow := []
  /-- The time of the last store after a FENCE.rel to a line of class N or R, which no slice keeps (R243, R244; log 84). -/
  tsync : Map Nat := []
  deriving DecidableEq, Repr

/-- The split that executes an instruction (the model's own: `exec` reads it). -/
structure Run where
  core : Nat
  slot : Nat
  entry : Nat
  deriving DecidableEq, Repr

/-- Where a stored unit of 8 bytes is read with an error (R278, R301, R311, R357, R451). -/
inductive FlawAt where
  /-- A scratch word of a core, by its offset. -/
  | pool (core off : Nat)
  /-- A byte of a core's B-plane. -/
  | plane (core off : Nat)
  /-- Physical addresses: a slice's line, a row, the GDDR 7. -/
  | llc (pa : Nat)
  | row (pa : Nat)
  | gddr (pa : Nat)
  /-- Eight bytes of a ray's record, by their number in it. -/
  | ray (ctx id unit_ : Nat)
  /-- Bytes of a treelet entry of a cluster, by the launch and the physical address. -/
  | treelet (cluster ctx launch pa : Nat)
  /-- An element of a tile of a core, at 128 × row + column. -/
  | tile (core t key : Nat)
  deriving DecidableEq, Repr
/-- What became of an error (R278, R451). -/
inductive FlawKind where
  | corrected
  | transient
  | lasting
  deriving DecidableEq, Repr
/-- An error of the hardware, met by a read; for the units with an address, the context that read (none: no context). -/
structure Flaw where
  at_ : FlawAt
  kind : FlawKind
  ctx : Option Nat := none
  deriving DecidableEq, Repr

/-- What moves next (the model's own schedule): the split of an entry issues, an event happens, an error is met, system software
sets a BAR2 size of 2^n GiB through the Resizable BAR capability (R444), or a clk passes. -/
inductive Turn where
  | issue (core slot entry : Nat)
  | event (i : Instr)
  | flaw (f : Flaw)
  | bar2Size (n : Nat)
  | tick
  deriving DecidableEq, Repr

/-- The whole machine. -/
structure State where
  /-- Core clocks since reset. -/
  now : Nat := 0
  cores : Map Core := []
  clusters : Map Cluster := []
  mem : Memory := {}
  fly : Flight := {}
  blocks : Map Block := []
  ctxs : Map Ctx := []
  /-- The live rays of context x, ray r, at 2^24 x + r (R329). -/
  rays : Map Ray := []
  dev : Dev := {}
  /-- The model's own: the next id of a group, block, instruction or request. -/
  nextId : Nat := 1
  /-- The model's own: how many free values have been taken. -/
  freed : Nat := 0
  run : Option Run := none
  /-- The model's own: the last instruction was held at issue (R82) and has not issued. -/
  held : Bool := false
  turns : List Turn := []
  deriving DecidableEq, Repr

/-- Why a step stops the machine. -/
inductive Fault where
  /-- An instruction is executed and no split executes it: raised by `exec` alone, never by `step`; safe. -/
  | noSplit
  deriving DecidableEq, Repr

/-- Why the model gives no next state. -/
inductive Refusal where
  /-- An instruction whose meaning is not written: raised by the arms of `exec`; safe. -/
  | notModelled (mnemonic : String)
  /-- An event that is not due in this state: raised by the meanings of events; safe, since nothing happens. -/
  | eventNotDue
  deriving DecidableEq, Repr

/-- The machine right after fundamental reset (R453 and each table's Reset column): nothing is resident, every register at
its reset value, and no memory byte listed. -/
def State.reset : State := {}

/-- The canonical form of a list of bytes: addresses rising, and no entry equal to what an unlisted address reads as. -/
def Bytes.wf (b : Bytes) : Bool := Map.sorted b && b.all fun p => p.2 != 0

/-- The canonical form of the package's memory. -/
def Memory.wf (m : Memory) : Bool := Bytes.wf m.bytes && Map.sorted m.poison && m.poison.all fun p => p.2

end Sys2Proof.Machine
end

