-- ==== Sys2Proof/Machine/Access.lean ====
section
/-! DEFINITION. The one way to each register and to each part of the state. -/
namespace Sys2Proof.Machine

/-- The outcome of an instruction, an event or a step. -/
abbrev Out := Host.Outcome State Fault Refusal

/-- Bits [lo+n-1:lo] of a number. -/
def bits (x lo n : Nat) : Nat := (x >>> lo) % 2 ^ n
/-- Bit i of a number. -/
def bitN (x i : Nat) : Bool := x.testBit i
/-- The 32-bit word of a number. -/
def toW (n : Nat) : Word := BitVec.ofNat 32 n
def toD (n : Nat) : DWord := BitVec.ofNat 64 n

/-! ### Masks and lanes -/

/-- Lane l of a mask. -/
def Mask.has (m : Mask) (l : Nat) : Bool := m.getLsbD l
/-- The mask of one lane. -/
def laneBit (l : Nat) : Mask := BitVec.ofNat 8 (2 ^ l)
/-- The lanes of a mask, ascending. -/
def lanesOf (m : Mask) : List Nat := (List.range 8).filter fun l => Mask.has m l
/-- The mask of a list of lanes. -/
def maskOf : List Nat → Mask
  | [] => 0
  | l :: t => laneBit l ||| maskOf t
/-- The lowest-numbered lane of a mask (0 for the empty mask). -/
def lowest (m : Mask) : Nat := (lanesOf m).headD 0

/-! ### Program counters -/

/-- The address of a PC: bits [63:49] are copies of bit 48 and bits [1:0] are 0 (R81). -/
def Pc.addr (p : Pc) : DWord := (p ++ 0#2).signExtend 64
/-- Bits [48:2] of an address. -/
def Pc.of (a : DWord) : Pc := a.extractLsb' 2 47
/-- The PC n bytes on. -/
def Pc.plus (p : Pc) (n : Nat) : Pc := p + BitVec.ofNat 47 (n / 4)
/-- The target P + 4 × disp of a direct branch (R54). -/
def Pc.disp {w : Nat} (p : Pc) (d : BitVec w) : Pc := p + d.signExtend 47
/-- Bits [63:49] all equal to bit 48 (R203). -/
def canonical (a : DWord) : Bool := (a.extractLsb' 0 49).signExtend 64 == a

/-! ### Cores, groups, splits -/

def State.core (s : State) (c : Nat) : Core := mgetD s.cores c {}
def State.modCore (s : State) (c : Nat) (f : Core → Core) : State := { s with cores := mset s.cores c (f (s.core c)) }
def State.cluster (s : State) (k : Nat) : Cluster := mgetD s.clusters k {}
def State.modCluster (s : State) (k : Nat) (f : Cluster → Cluster) : State :=
  { s with clusters := mset s.clusters k (f (s.cluster k)) }
def State.ctx (s : State) (x : Nat) : Ctx := mgetD s.ctxs x {}
def State.modCtx (s : State) (x : Nat) (f : Ctx → Ctx) : State := { s with ctxs := mset s.ctxs x (f (s.ctx x)) }
def State.group (s : State) (c g : Nat) : Option Group := mget (s.core c).groups g
def State.modGroup (s : State) (c g : Nat) (f : Group → Group) : State :=
  s.modCore c fun k => { k with groups := mmod k.groups g f }
/-- The group with a uid changed, be it resident in its slot or saved. -/
def State.modUid (s : State) (c g uid : Nat) (f : Group → Group) : State :=
  let f := fun (r : Group) => if r.uid = uid then f r else r
  s.modCore c fun k => { k with
    groups := mmod k.groups g f, saved := mall k.saved fun _ v => { v with groups := mmod v.groups g f } }
def State.modBlock (s : State) (b : Nat) (f : Block → Block) : State := { s with blocks := mmod s.blocks b f }
def State.fresh (s : State) : State := { s with nextId := s.nextId + 1 }
def Group.modSplit (g : Group) (e : Nat) (f : Split → Split) : Group := { g with splits := mmod g.splits e f }
/-- The cluster of a device core index (R10). -/
def clusterOf (core : Nat) : Nat := core / 24

/-- One event counter raised (R94). -/
def bumpCtrs : Ctrs → Ctr → Nat → Ctrs
  | [], c, n => [(c, BitVec.ofNat 64 n)]
  | (k, v) :: t, c, n => if k = c then (k, v + BitVec.ofNat 64 n) :: t else (k, v) :: bumpCtrs t c n
def State.bump (s : State) (core : Nat) (c : Ctr) (n : Nat := 1) : State :=
  if n = 0 then s else s.modCore core fun k => { k with ctr := bumpCtrs k.ctr c n }
def State.bumpK (s : State) (cluster : Nat) (c : Ctr) (n : Nat := 1) : State :=
  if n = 0 then s else s.modCluster cluster fun k => { k with ctr := bumpCtrs k.ctr c n }
/-- The value of a counter. -/
def ctrGet : Ctrs → Ctr → BitVec 64
  | [], _ => 0
  | (k, v) :: t, c => if k = c then v else ctrGet t c

/-- A free value: the next of the opaque sequence. -/
def State.free (s : State) : Word × State := (Config.freeWord s.freed, { s with freed := s.freed + 1 })

/-- The split that executes an instruction, with its group. -/
structure Ex where
  core : Nat
  slot : Nat
  entry : Nat
  gr : Group
  sp : Split
  deriving DecidableEq, Repr

/-- The uniform state that the instruction reads: as it stood at the instruction's issue (R82). -/
def Ex.uni (x : Ex) : Uniform :=
  match x.sp.latch with
  | some l => l.uni
  | none => x.gr.uni
/-- The executing split: READY, in an occupied slot. -/
def State.running (s : State) : Option Ex :=
  match s.run with
  | none => none
  | some r =>
    match s.group r.core r.slot with
    | none => none
    | some g =>
      match mget g.splits r.entry with
      | none => none
      | some sp => some ⟨r.core, r.slot, r.entry, g, sp⟩

/-- A split of a core by slot and entry. -/
def State.exAt (s : State) (core slot entry : Nat) : Option Ex :=
  match s.group core slot with
  | none => none
  | some g =>
    match mget g.splits entry with
    | none => none
    | some sp => some ⟨core, slot, entry, g, sp⟩
/-- What an instruction does on the executing split. -/
def onSplit (s : State) (f : Ex → Out) : Out :=
  match s.running with
  | some x => f x
  | none => .fault .noSplit

/-! ### Lane registers, predicates and flags -/

def Group.lane (g : Group) (l : Nat) : Lane := mgetD g.lanes l {}
def Group.modLane (g : Group) (l : Nat) (f : Lane → Lane) : Group := { g with lanes := mset g.lanes l (f (g.lane l)) }
/-- A change of every lane of a mask. -/
def Group.modLanes (g : Group) (m : Mask) (f : Nat → Lane → Lane) : Group :=
  (lanesOf m).foldl (fun g l => g.modLane l (f l)) g

/-- Register v of a lane: logical word wb + v (R115). -/
def Lane.v (ln : Lane) (r : Nat) : Word := mgetD ln.regs (ln.wb + r) 0
def Lane.setV (ln : Lane) (r : Nat) (x : Word) : Lane := { ln with regs := mput 0 ln.regs (ln.wb + r) x }
def Lane.vPair (ln : Lane) (r : Nat) : DWord := pairOf (ln.v r) (ln.v (r + 1))
def Lane.setPair (ln : Lane) (r : Nat) (x : DWord) : Lane := (ln.setV r (loOf x)).setV (r + 1) (hiOf x)
/-- Several registers, from a list of words. -/
def Lane.setVs (ln : Lane) (r : Nat) : List Word → Lane
  | [] => ln
  | x :: t => Lane.setVs (ln.setV r x) (r + 1) t
def Lane.vs (ln : Lane) (r n : Nat) : List Word := (List.range n).map fun i => ln.v (r + i)

/-- Predicate p of a lane; p7 reads 1 (R113). -/
def Lane.p (ln : Lane) (p : BitVec 3) : Bool := if p == 7 then true else ln.preds.getLsbD p.toNat
/-- A write to a predicate; a write to p7 is ignored (R113). -/
def setBit {w : Nat} (x : BitVec w) (i : Nat) (b : Bool) : BitVec w :=
  if b then x ||| BitVec.ofNat w (2 ^ i) else x &&& ~~~ BitVec.ofNat w (2 ^ i)
def Lane.setP (ln : Lane) (p : BitVec 3) (b : Bool) : Lane :=
  if p == 7 then ln else { ln with preds := setBit ln.preds p.toNat b }
def Lane.raise (ln : Lane) (f : BitVec 6) : Lane := { ln with flags := ln.flags ||| f }

/-- A guard in one lane (R56). -/
def Guard.holds (g : Guard) (ln : Lane) : Bool := ln.p g.p != g.n
/-- The active lanes of a split under a guard (R5). -/
def Group.active (g : Group) (m : Mask) (gd : Guard) : Mask :=
  maskOf ((lanesOf m).filter fun l => Guard.holds gd (g.lane l))
def Ex.active (x : Ex) (gd : Guard) : Mask := x.gr.active x.sp.mask gd

/-- A lane source operand: the register, or the literal (R52). -/
def VSrc.val (b : VSrc) (ln : Lane) : Word :=
  match b with
  | .reg r => ln.v r.toNat
  | .lit w => w
/-- A 64-bit lane source operand; a literal is sign-extended (R136). -/
def VSrc.val64 (b : VSrc) (ln : Lane) : DWord :=
  match b with
  | .reg r => ln.vPair r.toNat
  | .lit w => w.signExtend 64
/-- The length of an instruction whose operand may be a literal (R51). -/
def VSrc.len : VSrc → Nat
  | .reg _ => 4
  | .lit _ => 8

/-! ### Uniform registers and conditions -/

def Uniform.sr (u : Uniform) (r : Nat) : Word := mgetD u.s r 0
def Uniform.setS (u : Uniform) (r : Nat) (x : Word) : Uniform := { u with s := mput 0 u.s r x }
def Uniform.pair (u : Uniform) (r : Nat) : DWord := pairOf (u.sr r) (u.sr (r + 1))
def Uniform.setPair (u : Uniform) (r : Nat) (x : DWord) : Uniform := (u.setS r (loOf x)).setS (r + 1) (hiOf x)
def Uniform.setSs (u : Uniform) (r : Nat) : List Word → Uniform
  | [] => u
  | x :: t => Uniform.setSs (u.setS r x) (r + 1) t
/-- Condition c; c7 reads 1 (R113). -/
def Uniform.c (u : Uniform) (c : BitVec 3) : Bool := if c == 7 then true else u.conds.getLsbD c.toNat
def Uniform.setC (u : Uniform) (c : BitVec 3) (b : Bool) : Uniform :=
  if c == 7 then u else { u with conds := setBit u.conds c.toNat b }
def Group.modUni (g : Group) (f : Uniform → Uniform) : Group := { g with uni := f g.uni }

/-- A uniform source operand: the register, or the literal (R52). -/
def SSrc.val (b : SSrc) (u : Uniform) : Word :=
  match b with
  | .reg r => u.sr r.toNat
  | .lit w => w
def SSrc.val64 (b : SSrc) (u : Uniform) : DWord :=
  match b with
  | .reg r => u.pair r.toNat
  | .lit w => w.signExtend 64
def SSrc.len : SSrc → Nat
  | .reg _ => 4
  | .lit _ => 8

end Sys2Proof.Machine
end

