-- ==== Sys2Proof/Machine/Memory.lean ====
section
/-! DEFINITION. Memory: bytes and poison, physical addresses, the page table and translation, and the accesses that the
KZ8's own agents make (spec 08, 09, 16). -/
namespace Sys2Proof.Machine

/-! ### Bytes, lines and poison -/

/-- The byte at an address. -/
def Bytes.at_ (b : Bytes) (a : Nat) : Byte := mgetD b a 0
/-- n bytes from an address, lowest first. -/
def Bytes.read (b : Bytes) (a n : Nat) : List Byte := (List.range n).map fun i => Bytes.at_ b (a + i)
/-- A byte written; a byte 0 is not listed. -/
def Bytes.put (b : Bytes) (a : Nat) (x : Byte) : Bytes := mput 0 b a x
/-- Bytes written from an address. -/
def Bytes.write (b : Bytes) (a : Nat) : List Byte → Bytes
  | [] => b
  | x :: t => Bytes.write (Bytes.put b a x) (a + 1) t
/-- Byte i of a line. -/
def lineByte (d : Line) (i : Nat) : Byte := d.extractLsb' (8 * i) 8
/-- A byte as byte i of a line. -/
def byteIn (x : Byte) (i : Nat) : Line := BitVec.shiftLeft (x.zeroExtend 512) (8 * i)
/-- 64 bytes as a line (R2: little-endian). -/
def Bytes.line (b : Bytes) (pa : Nat) : Line :=
  b.foldl (fun (acc : Line) p => if pa ≤ p.1 ∧ p.1 < pa + 64 then acc ||| byteIn p.2 (p.1 - pa) else acc) (0 : Line)
/-- The bytes of a line whose mask bits are set, written. -/
def Bytes.writeLine (b : Bytes) (pa : Nat) (d : Line) (mask : BitVec 64) : Bytes :=
  ((List.range 64).filter fun i => mask.getLsbD i).foldl (fun b i => Bytes.put b (pa + i) (lineByte d i)) b
/-- A number from bytes, lowest first. -/
def leNat : List Byte → Nat
  | [] => 0
  | x :: t => x.toNat + 256 * leNat t
/-- n bytes of a number, lowest first. -/
def leBytes : Nat → Nat → List Byte
  | 0, _ => []
  | n + 1, x => BitVec.ofNat 8 x :: leBytes n (x / 256)
/-- The line that holds the given bytes from byte offset o, with its mask. -/
def placeBytes (o : Nat) (bs : List Byte) : Line × BitVec 64 :=
  (BitVec.ofNat 512 (leNat bs <<< (8 * o)), BitVec.ofNat 64 ((2 ^ bs.length - 1) <<< o))
/-- A line with the masked bytes of another put into it. -/
def blend (old new : Line) (mask : BitVec 64) : Line :=
  (List.range 64).foldl (fun acc i =>
    acc ||| byteIn (if mask.getLsbD i then lineByte new i else lineByte old i) i) 0
/-- The words of a line that a byte mask touches, and those that it covers whole. -/
def wordsTouched (mask : BitVec 64) : BitVec 16 :=
  (List.range 16).foldl (fun acc w => if mask.extractLsb' (4 * w) 4 ≠ 0 then setBit acc w true else acc) 0
def wordsWhole (mask : BitVec 64) : BitVec 16 :=
  (List.range 16).foldl (fun acc w => if mask.extractLsb' (4 * w) 4 = 0xF#4 then setBit acc w true else acc) 0
/-- The byte mask of whole words. -/
def maskOfWords (w : BitVec 16) : BitVec 64 :=
  (List.range 16).foldl (fun acc i => if w.getLsbD i then acc ||| ((0xF#64) <<< (4 * i)) else acc) 0

/-- The poison bits of a line (R232). -/
def Poison.line (p : Poison) (pa : Nat) : BitVec 16 :=
  p.foldl (fun acc q => if pa / 4 ≤ q.1 ∧ q.1 < pa / 4 + 16 ∧ q.2 then setBit acc (q.1 - pa / 4) true else acc) 0
/-- The poison bits of the selected words set to the given values. -/
def Poison.write (p : Poison) (pa : Nat) (bits sel : BitVec 16) : Poison :=
  ((List.range 16).filter fun w => sel.getLsbD w).foldl (fun p w => mput false p (pa / 4 + w) (bits.getLsbD w)) p

/-- A masked line write: whole words take the poison that the write carries; a narrower write leaves it (R234, R180). -/
def Memory.store (m : Memory) (pa : Nat) (d : Line) (mask : BitVec 64) (pois : BitVec 16) : Memory :=
  { m with bytes := Bytes.writeLine m.bytes pa d mask, poison := Poison.write m.poison pa pois (wordsWhole mask) }

/-! ### Physical addresses (R204 to R206) -/

/-- The line of an address. -/
def lineAddr (pa : Nat) : Nat := pa / 64 * 64

/-- Where a physical address lies (R204). -/
inductive Place where
  | row
  | gddr
  | control
  | host
  | unbacked
  deriving DecidableEq, Repr

/-- The place of an offset in a package. -/
def offsetPlace (o : Nat) : Place :=
  if o < 0x1800000000 then .row
  else if o < 0x2000000000 then .unbacked
  else if o < 0x3800000000 then .gddr
  else if o < 0x4000000000 then .unbacked
  else if o < 0x4000400000 then .control
  else .unbacked

/-- The place of a physical address; with no pair, an address with bit 44 set is unbacked (R204). -/
def State.place (s : State) (pa : Nat) : Place :=
  if pa.testBit 51 then .host
  else if (pa % 2 ^ 51) / 2 ^ 45 ≠ 0 then .unbacked
  else if pa.testBit 44 then (if s.dev.pair = 0 then .unbacked else offsetPlace (pa % 2 ^ 44))
  else offsetPlace (pa % 2 ^ 44)

/-- The address lies in the other package, seen from this one. -/
def State.otherPkg (s : State) (pa : Nat) : Bool := !pa.testBit 51 && pa.testBit 44 && decide (s.dev.pair ≠ 0)
/-- The address of the other package while the pair link is lost (R452). -/
def State.lostLink (s : State) (pa : Nat) : Bool := s.otherPkg pa && decide (s.dev.pair = 3)

/-- The key of a physical address in the list of bytes: host memory is one space for each context (R204). -/
def memKey (ctx pa : Nat) : Nat := if pa.testBit 51 then pa + 2 ^ 52 * (ctx + 1) else pa

/-- Core, bank, row and byte of a row-stack offset (R205). -/
def rowCore (pa : Nat) : Nat := pa % 2 ^ 44 / 2 ^ 29
def rowBank (pa : Nat) : Nat := pa % 2 ^ 29 / 2 ^ 25
def rowRow (pa : Nat) : Nat := pa % 2 ^ 25 / 2 ^ 13
/-- The physical address of a byte of a row. -/
def rowAddr (core bank row byte : Nat) : Nat := core * 2 ^ 29 + bank * 2 ^ 25 + row * 2 ^ 13 + byte

/-- The exclusive or of the bits of a number below 2^n. -/
def parity : Nat → Nat → Nat
  | 0, _ => 0
  | n + 1, x => (x % 2) ^^^ parity n (x / 2)

/-- The home slice of a physical address (R206). -/
def State.slice (s : State) (pa : Nat) : Nat :=
  let h := bits pa 6 7 ^^^ bits pa 13 7 ^^^ bits pa 20 7 ^^^ bits pa 27 7 ^^^ bits pa 34 7 ^^^ bits pa 41 7
  if s.dev.pair = 0 then h else 128 * parity 39 (pa / 2 ^ 13) + h

/-! ### Slices and times (R222, R223, R246) -/

def State.sliceTimes (s : State) (pa : Nat) : SliceTimes := mgetD s.mem.slices (s.slice pa) {}
/-- The directory entry and times of a line; a line brought in takes wts = rts = mts and sts = msts. -/
def State.sline (s : State) (pa : Nat) : SliceLine :=
  match mget s.mem.lines (lineAddr pa) with
  | some l => l
  | none => let t := s.sliceTimes pa; { wts := t.mts, rts := t.mts, sts := t.msts }
def State.modSline (s : State) (pa : Nat) (f : SliceLine → SliceLine) : State :=
  { s with mem := { s.mem with lines := mset s.mem.lines (lineAddr pa) (f (s.sline pa)) } }
/-- A write at the slice overtakes the reads of the line that are pending toward memory (R221). -/
def State.overtake (s : State) (pa : Nat) : State :=
  { s with fly := { s.fly with reqs := mall s.fly.reqs fun _ r =>
      if r.pa = pa ∧ r.phase = .pending then { r with overtaken := true } else r } }
/-- The program time of a context on a core. -/
def State.pts (s : State) (core ctx : Nat) : Nat := mgetD (s.core core).pts ctx 0
/-- pts raised (R223). -/
def State.raisePts (s : State) (core ctx t : Nat) : State :=
  if s.pts core ctx < t then s.modCore core fun k => { k with pts := mset k.pts ctx t } else s
/-- The pts floor raised by a release of scope 5 or wider (R246). -/
def State.raiseFloor (s : State) (ctx t : Nat) : State :=
  s.modCtx ctx fun x => { x with floor := max x.floor t }

/-- The store rule of the L class: wts := max(P, rts + 1); rts := wts (R223). -/
def SliceLine.stored (l : SliceLine) (p : Nat) : SliceLine :=
  { l with wts := max p (l.rts + 1), rts := max p (l.rts + 1), lclass := true }

/-! ### Copies of a line -/

/-- The cores whose L1 holds the line in state M. -/
def State.ownerOf (s : State) (pa : Nat) : Option (Nat × L1Line) :=
  (s.cores.filterMap fun p => match mget p.2.l1 pa with
    | some l => if l.st = .modified then some (p.1, l) else none
    | none => none).head?

/-- A write-back of a whole line on its way to the slice. -/
def ReqOp.isWb : ReqOp → Bool
  | .wb _ => true
  | _ => false
def Req.lineWb (r : Req) (pa : Nat) : Bool := r.op.isWb && decide (r.pa = pa) && r.phase == .out
/-- The data that is the truth for a line: the M copy, a write-back on its way, or memory (R217). -/
def State.lineData (s : State) (ctx pa : Nat) : Line × BitVec 16 :=
  match s.ownerOf pa with
  | some (_, l) => (l.data, l.poison)
  | none =>
    match s.fly.reqs.find? fun r => r.2.lineWb pa with
    | some (_, r) => (r.data, r.poison)
    | none => (Bytes.line s.mem.bytes (memKey ctx pa), Poison.line s.mem.poison (memKey ctx pa))

/-- Memory takes the bytes of a line whole. -/
def State.putLine (s : State) (pa : Nat) (d : Line) (p : BitVec 16) : State :=
  { s with mem := s.mem.store pa d (BitVec.allOnes 64) p }

/-- Write-backs of a line on their way land (R219). -/
def State.landWb (s : State) (pa : Nat) : State :=
  match s.fly.reqs.find? fun r => r.2.lineWb pa with
  | some (i, r) => { s.putLine pa r.data r.poison with
      fly := { s.fly with reqs := mset s.fly.reqs i { r with phase := .back } } }
  | none => s
/-- A probe for a read: an M copy sends its data and becomes S (R219). -/
def State.cleanLine (s : State) (pa : Nat) : State :=
  let s := s.landWb pa
  match s.ownerOf pa with
  | some (c, l) => (s.putLine pa l.data l.poison).modCore c fun k => { k with l1 := mset k.l1 pa { l with st := .shared } }
  | none => s

/-- Drops a core's copy of a line, counting a prefetched line that was never used (R230). -/
def State.dropCopy (s : State) (c pa : Nat) : State :=
  match mget (s.core c).l1 pa with
  | some l => (if l.pref then s.bump c .pfevu else s).modCore c fun k => { k with l1 := mdel k.l1 pa }
  | none => s

/-- A D-class read whose reply is on its way. -/
def Req.filling (r : Req) (pa : Nat) : Bool :=
  decide (r.pa = pa ∧ r.cls = 0) && r.phase == .back && (match r.op with | .ld .. => true | .test .. => true | .pref => true | .prefEx => true | _ => false)
/-- The D-class copies of a line are given up: M sends its data, every holder goes to I, and replies on their way are not
kept (R219, R220). -/
def State.reclaim (s : State) (pa : Nat) : State :=
  let s := s.cleanLine pa
  let s := { s with fly := { s.fly with reqs := mall s.fly.reqs fun _ r => if r.filling pa then { r with stale := true } else r } }
  let s := (s.cores.filter fun p => match mget p.2.l1 pa with | some l => l.st ≠ .lease | none => false).foldl
    (fun s p => s.dropCopy p.1 pa) s
  match mget s.mem.lines pa with
  | some _ => s.modSline pa fun l => { l with holders := [] }
  | none => s

/-- The slice evicts a line: every holder is probed, and its times are kept in mts and msts (R219, R222, R246). -/
def State.evictSlice (s : State) (vict : Nat) : State :=
  if vict = 0 then s
  else
    match mget s.mem.lines (vict - 1) with
    | none => s
    | some l =>
      let s := s.reclaim (vict - 1)
      let t := s.sliceTimes (vict - 1)
      { s with mem := { s.mem with
          lines := mdel s.mem.lines (vict - 1),
          slices := mset s.mem.slices (s.slice (vict - 1)) { mts := if l.lclass then max t.mts l.rts else t.mts, msts := max t.msts l.sts } } }
/-- The lines that a slice holds at most: its part of 192 MiB (R16). -/
def sliceLines : Nat := 192 * 2 ^ 20 / 128 / 64
/-- A slice that is full gives up a line, of its choice, before it takes another. -/
def State.makeRoom (s : State) (pa : Nat) : State :=
  if (mget s.mem.lines pa).isSome then s
  else
    let l := (s.mem.lines.filter fun p => s.slice p.1 = s.slice pa).map Prod.fst
    if l.length < sliceLines then s else { s with freed := s.freed + 1 }.evictSlice ((l.getD ((Config.freeWord s.freed).toNat % l.length) 0) + 1)
/-- The entry of a line at its slice changed by an agent or by the end of a store; a slice that does not hold the line takes it. -/
def State.takeSline (s : State) (pa : Nat) (f : SliceLine → SliceLine) : State := (s.makeRoom (lineAddr pa)).modSline pa f

/-- The scratch words of all cores that a write must probe (R181): the directory's sharers of written words, and the words
of fills whose data is on its way; core and word. -/
def State.sharers (s : State) (pa : Nat) (words : BitVec 16) : List (Nat × Nat) :=
  (s.cores.flatMap fun p => p.2.scratch.words.filterMap fun w =>
    match w.2.share with
    | some a => if pa ≤ a ∧ a < pa + 64 ∧ words.getLsbD ((a - pa) / 4) then some (p.1, w.1) else none
    | none => none) ++
  (s.fly.fills.flatMap fun f =>
    match mget s.fly.reqs f.1 with
    | some r =>
      if r.pa = pa ∧ r.cls = 0 ∧ r.phase = .back then
        ((List.range 16).filter fun i => words.getLsbD i).map fun i => (f.2.core, f.2.off / 4 + i)
      else []
    | none => []) ++
  s.fly.reqs.flatMap fun f =>
    match f.2.op with
    | .swb core off =>
      if f.2.pa = pa ∧ f.2.cls = 0 ∧ f.2.phase = .back then
        ((List.range 16).filter fun i => words.getLsbD i && f.2.mask.getLsbD (4 * i)).map fun i => (core, off / 4 + i)
      else []
    | _ => []

/-- A fill in flight for the scratch line that holds a word, or a write-back of that line whose acknowledgement is on its way:
a probe waits for it (R181, R180). -/
def State.fillFor (s : State) (core word : Nat) : Bool :=
  (s.fly.fills.any fun f => decide (f.2.core = core ∧ f.2.off = word / 16 * 64)) ||
  s.fly.reqs.any fun r => r.2.phase == .back && (match r.2.op with | .swb c off => decide (c = core ∧ off = word / 16 * 64) | _ => false)

/-- One scratch word becomes ABSENT when CLEAN (R177). -/
def State.dropWord (s : State) (core word : Nat) : State :=
  match mget (s.core core).scratch.words word with
  | some w => if w.st = .clean then
      (s.modCore core fun k => { k with scratch := { k.scratch with words := mdel k.scratch.words word } }).bump core .sprobew
    else s
  | none => s

/-- The probes that a write sends to scratch sharers: at once, but held where a fill or an acknowledged write-back of the line is on
its way; a mapping's own write-back, given by core and scratch offset, is left out (R181). No request waits for the probes of a
write that is made whole at the slice (request 0). -/
def State.probeScratch (s : State) (pa : Nat) (words : BitVec 16) (req : Nat) (own : Option (Nat × Nat) := none) : State :=
  ((s.sharers pa words).filter fun w => own ≠ some (w.1, w.2 / 16 * 64)).foldl (fun s w =>
    if s.fillFor w.1 w.2 then
      { s.fresh with fly := { s.fly with scrProbes := mset s.fly.scrProbes s.nextId ⟨w.1, pa, words, req⟩ } }
    else s.dropWord w.1 w.2) s
/-- Fills of scratch on their way take the bytes that a write made whole at the slice has put into their line: that write is
performed, and only its probe is still held for the fill (R181). -/
def State.patchFills (s : State) (pa : Nat) (d : Line) (mask : BitVec 64) (pois : BitVec 16) : State :=
  let w := wordsWhole mask
  let put := fun (r : Req) =>
    if r.op = .sfill ∧ r.pa = pa ∧ r.cls = 0 ∧ r.phase = .back then
      { r with data := blend r.data d mask, poison := (r.poison &&& ~~~w) ||| (pois &&& w) }
    else r
  { s with fly := { s.fly with reqs := mall s.fly.reqs fun _ r => put r } }

/-! ### The accesses of the KZ8's own agents -/

/-- A read of one line by an agent at the home slice: a D-class read, or an L-class read that keeps no copy. Reads of the
other package while the link is lost are poisoned (R452). -/
def State.agentLine (s : State) (ctx pa : Nat) : (Line × BitVec 16) × State :=
  if s.lostLink pa then ((0, BitVec.allOnes 16), s)
  else (s.lineData ctx pa, s.cleanLine pa)

/-- A masked write of one line by an agent at the home slice (R219, R223). One to the other package while the link is lost is
discarded (R452). -/
def State.homeStore (s : State) (ctx pa cls : Nat) (d : Line) (mask : BitVec 64) (pois : BitVec 16) (p : Nat) : State :=
  if s.lostLink pa then s
  else
    let s := (s.reclaim pa).overtake pa
    let s := (s.probeScratch pa (wordsTouched mask) 0).patchFills pa d mask pois
    let s := { s with mem := s.mem.store (memKey ctx pa) d mask pois }
    if cls = 1 then s.takeSline pa fun l => l.stored p else s

/-! ### The page table (R207 to R211) -/

def pteV (e : DWord) : Bool := e.getLsbD 0
def pteClass (e : DWord) : Nat := (e.extractLsb' 1 2).toNat
def pteW (e : DWord) : Bool := e.getLsbD 3
def pteX (e : DWord) : Bool := e.getLsbD 4
def pteP (e : DWord) : Bool := e.getLsbD 5
/-- λ = 2^(LEASE+3). -/
def pteLease (e : DWord) : Nat := 2 ^ ((e.extractLsb' 6 3).toNat + 3)
def pteHS (e : DWord) : Bool := e.getLsbD 9
def pteSZ (e : DWord) : Bool := e.getLsbD 10
/-- The physical page of a leaf. -/
def pteFrame (e : DWord) : Nat := (e.extractLsb' 16 36).toNat * 2 ^ 16
/-- A reserved bit of a leaf is set. -/
def pteBad (e : DWord) : Bool := e.extractLsb' 52 12 != 0 || e.extractLsb' 11 5 != 0
/-- A reserved bit of a table entry is set. -/
def tableBad (e : DWord) : Bool := e.extractLsb' 52 12 != 0 || e.extractLsb' 1 11 != 0
/-- The physical address of a virtual address under a leaf (R207). -/
def ptePa (e : DWord) (va : Nat) : Nat :=
  if pteSZ e then pteFrame e + va % 2 ^ 21 else pteFrame e + va % 2 ^ 16

/-- What a walk finds (R210, R211). -/
inductive Walked where
  | leaf (pte : DWord)
  /-- No translation: whether the host serves it, and the address of a malformed entry. -/
  | none_ (hs : Bool) (malformed : Option Nat)
  deriving DecidableEq, Repr

/-- One entry read as a D-class read of its physical address (R214). -/
def State.entry (s : State) (ctx a : Nat) : DWord × State :=
  let r := s.agentLine ctx (lineAddr a)
  (r.1.1.extractLsb' (8 * (a % 64)) 64, r.2)

/-- A table address is unbacked or in host memory (R211). -/
def State.tableGone (s : State) (a : Nat) : Bool := s.place a = .unbacked || s.place a = .host

/-- The level-3 entry, with the rules of a 2 MiB run (R210). -/
def State.walkLeaf (s : State) (ctx table va : Nat) : Walked × State :=
  let i := bits va 16 9
  let a := table + 8 * i
  if s.tableGone a then (.none_ false none, s) else
  let (e, s) := s.entry ctx a
  if !pteV e then (.none_ (pteHS e) none, s)
  else if !pteSZ e then (if pteBad e then (.none_ false (some a), s) else (.leaf e, s))
  else
    let a0 := table + 8 * (i / 32 * 32)
    let (f, s) := s.entry ctx a0
    if !pteV f then (.none_ (pteHS f) none, s)
    else if !pteSZ f || pteBad f || f.extractLsb' 16 5 != 0 then (.none_ false (some a0), s)
    else (.leaf f, s)

/-- A walk from a table of a level down to the leaf; levels left to go. -/
def State.walkFrom (s : State) (ctx va : Nat) : Nat → Nat → Walked × State
  | 0, table => s.walkLeaf ctx table va
  | n + 1, table =>
    let i := if n = 2 then bits va 43 6 else if n = 1 then bits va 34 9 else bits va 25 9
    let a := table + 8 * i
    if s.tableGone a then (.none_ false none, s) else
    let r := s.entry ctx a
    if !r.1.getLsbD 0 then (.none_ false none, r.2)
    else if tableBad r.1 then (.none_ false (some a), r.2)
    else State.walkFrom r.2 ctx va n ((r.1.extractLsb' 12 40).toNat * 4096)

/-- A whole walk from the context's root. -/
def State.walk (s : State) (ctx va : Nat) : Walked × State := s.walkFrom ctx va 3 (s.ctx ctx).regs.root

/-! ### Translation checks (R212, R215) -/

/-- The frame suits the class (R212). -/
def State.classOk (s : State) (e : DWord) (pa : Nat) : Bool :=
  match s.place pa with
  | .unbacked => false
  | .row => true
  | .gddr => pteClass e != 3
  | .host => pteClass e == 2
  | .control => pteClass e == 2 && pteP e

/-- Who makes an access and for what (R215). -/
structure Access where
  write : Bool := false
  fetch : Bool := false
  /-- An access of system software or of the KZ8: P is not checked. -/
  priv : Bool := false
  deriving DecidableEq, Repr

/-- The checks of R215 after a leaf was found: a cause, or none. -/
def State.pteCause (s : State) (e : DWord) (va : Nat) (a : Access) : Option Nat :=
  if pteP e && !a.priv then some 3
  else if a.write && !pteW e then some 5
  else if a.fetch && !pteX e then some 5
  else if !s.classOk e (ptePa e va) then some 6
  else if a.fetch && (pteClass e == 2 || pteClass e == 3) then some 6
  else none

/-- How an agent translates: the leaf and the physical address, or the cause. -/
abbrev Translator := State → Nat → Nat → Access → Except Nat (DWord × Nat) × State
/-- The checks of an agent's access on what its walk found. -/
def State.leafFor (s : State) (va : Nat) (a : Access) : Walked → Except Nat (DWord × Nat)
  | .none_ _ _ => .error 4
  | .leaf e =>
    match s.pteCause e va a with
    | some c => .error c
    | none => .ok (e, ptePa e va)
/-- The translation of the event queue's own writes, which report no malformed entry: the event is lost (R450). -/
def State.quietTranslate : Translator := fun s ctx va a =>
  let r := s.walk ctx va
  (r.2.leafFor va a r.1, r.2)

/-- The lines of a byte range: (address, offset in the line, length), at most n. -/
def lineParts : Nat → Nat → Nat → List (Nat × Nat × Nat)
  | 0, _, _ => []
  | k + 1, a, n =>
    if n = 0 then [] else
    let t := min n (64 - a % 64)
    (a, a % 64, t) :: lineParts k (a + t) (n - t)

/-- The parts of a range of at most n bytes. -/
def partsOf (va n : Nat) : List (Nat × Nat × Nat) := lineParts (n / 64 + 2) va n

/-- Every part of a range is canonical (R203, R215) and translates for a write: the physical addresses, or the first failure. -/
def State.checkBy (s : State) (tr : Translator) (ctx : Nat) (a : Access) (classes : List Nat) :
    List (Nat × Nat × Nat) → Except (Nat × Nat) (List (Nat × Nat × Nat × Nat)) × State
  | [] => (.ok [], s)
  | (va, o, n) :: t =>
    if !canonical (toD va) then (.error (5, va), s) else
    match tr s ctx va a with
    | (.error c, s) => (.error (c, va), s)
    | (.ok (e, pa), s) =>
      if pteClass e ∉ classes then (.error (6, va), s) else
      match State.checkBy s tr ctx a classes t with
      | (.error x, s) => (.error x, s)
      | (.ok rest, s) => (.ok ((pa, o, n, pteClass e) :: rest), s)

/-- How an agent stores bytes into a line: the context, the line, the class, the bytes and their mask, the poison and a time. -/
abbrev Storer := State → Nat → Nat → Nat → Line → BitVec 64 → BitVec 16 → Nat → State
/-- Bytes put at checked places. -/
def State.agentPut (s : State) (st : Storer) (ctx p : Nat) : List (Nat × Nat × Nat × Nat) → List Byte → State
  | [], _ => s
  | (pa, o, n, cls) :: t, bs =>
    let (d, m) := placeBytes o (bs.take n)
    State.agentPut (st s ctx (lineAddr pa) cls d m 0 p) st ctx p t (bs.drop n)

/-- Bytes of virtual memory written, all or none: the cause and its address, or nothing. -/
def State.writeBy (s : State) (tr : Translator) (st : Storer) (ctx : Nat) (a : Access) (classes : List Nat) (va : Nat) (bs : List Byte)
    (p : Nat := 0) : Option (Nat × Nat) × State :=
  match State.checkBy s tr ctx { a with write := true } classes (partsOf va bs.length) with
  | (.error x, s) => (some x, s)
  | (.ok ps, s) => (none, s.agentPut st ctx p ps bs)

/-! ### The event queue and the fault queue (R449, R450) -/

/-- The access of the KZ8 to its rings. -/
def Access.ring : Access := { write := true, priv := true }

/-- One event posted, or counted as lost (R450). -/
def State.postEvent (s : State) (ctx code : Nat) (a b : Nat := 0) (w1 d1 d2 : Nat := 0) : State :=
  let r := (s.ctx ctx).rings
  let lost := fun (s : State) => s.modCtx ctx fun x => { x with rings := { x.rings with eqlost := (x.rings.eqlost + 1) % 2 ^ 32 } }
  if (r.eqtail + 2 ^ 32 - r.eqhead) % 2 ^ 32 ≥ 2 ^ r.eqlog then lost s
  else
    let rec_ := leBytes 4 (code + 256 * (a % 256) + 65536 * (b % 256)) ++ leBytes 4 w1 ++ leBytes 8 d1 ++ leBytes 8 d2 ++
      leBytes 8 0
    match s.writeBy State.quietTranslate State.homeStore ctx .ring [0] (r.eqbase + 32 * (r.eqtail % 2 ^ r.eqlog)) rec_ with
    | (some _, s) => lost s
    | (none, s) => s.modCtx ctx fun x => { x with rings := { x.rings with eqtail := (r.eqtail + 1) % 2 ^ 32 } }

/-- A memory error posted and counted (R451): 1 transient, 2 lasting. -/
def State.memError (s : State) (ctx : Option Nat) (a unit_ pa : Nat) : State :=
  let s := { s with dev := { s.dev with errcnt := s.dev.errcnt.mapIdx fun i n => if i = a then (n + 1) % 2 ^ 64 else n } }
  match ctx with
  | some x => s.postEvent x 11 a unit_ 0 pa
  | none => s
/-- A store to the other package over a lost link is discarded and reported as a lasting error of its memory (R452); of the
write-back of a copy, no context is known. -/
def State.lostTell (s : State) (ctx : Option Nat) (pa : Nat) : State := s.memError ctx 2 (if s.place pa == .row then 4 else 5) pa
def State.lostStore (s : State) (ctx pa : Nat) : State := s.lostTell (some ctx) pa
/-- A masked write of one line by an agent, reported where it is lost. -/
def State.agentStore : Storer := fun s ctx pa cls d mask pois p =>
  if s.lostLink pa then s.lostStore ctx pa else s.homeStore ctx pa cls d mask pois p

/-- A walk by an agent, which reports a malformed entry (R211). -/
def State.walkAndTell (s : State) (ctx va : Nat) : Walked × State :=
  match s.walk ctx va with
  | (.none_ hs (some a), s) => (.none_ hs (some a), s.postEvent ctx 12 0 0 0 a)
  | r => r
/-- An access of an agent: the leaf and the physical address, or the cause. -/
def State.agentTranslate : Translator := fun s ctx va a =>
  let r := s.walkAndTell ctx va
  (r.2.leafFor va a r.1, r.2)
/-- Bytes of virtual memory read by an agent: the bytes with their poison, or the cause and its address, 0x05 for one that is not
canonical (R215). The classes allowed are given. -/
def State.agentRead (s : State) (ctx : Nat) (a : Access) (classes : List Nat) :
    List (Nat × Nat × Nat) → Except (Nat × Nat) (List (Byte × Bool)) × State
  | [] => (.ok [], s)
  | (va, o, n) :: t =>
    if !canonical (toD va) then (.error (5, va), s) else
    match s.agentTranslate ctx va a with
    | (.error c, s) => (.error (c, va), s)
    | (.ok (e, pa), s) =>
      if pteClass e ∉ classes then (.error (6, va), s) else
      let r := s.agentLine ctx (lineAddr pa)
      let here := (List.range n).map fun i => (lineByte r.1.1 (o + i), r.1.2.getLsbD ((o + i) / 4))
      match State.agentRead r.2 ctx a classes t with
      | (.error x, s) => (.error x, s)
      | (.ok rest, s) => (.ok (here ++ rest), s)

/-- Every part of a range translates for an agent's write. -/
def State.agentCheck (s : State) (ctx : Nat) (a : Access) (classes : List Nat) (l : List (Nat × Nat × Nat)) :
    Except (Nat × Nat) (List (Nat × Nat × Nat × Nat)) × State := s.checkBy State.agentTranslate ctx a classes l
/-- Bytes of virtual memory written by an agent, all or none: the cause and its address, or nothing. -/
def State.agentWrite (s : State) (ctx : Nat) (a : Access) (classes : List Nat) (va : Nat) (bs : List Byte) (p : Nat := 0) :
    Option (Nat × Nat) × State := s.writeBy State.agentTranslate State.agentStore ctx a classes va bs p

/-- The 32 bytes of a fault record (R449). -/
def FaultRec.bytes (f : FaultRec) : List Byte :=
  leBytes 8 f.va.toNat ++ leBytes 8 f.where_.toNat ++
  leBytes 4 (f.cause * 2 ^ 24 + f.src * 2 ^ 22 + (if f.write then 2 ^ 21 else 0) + f.core * 2 ^ 13 + f.slot) ++
  leBytes 4 f.token ++ leBytes 8 0

/-- The device tries to post its held fault records in order, as long as the queue takes them (R449). -/
def State.drainFaults : Nat → State → Nat → State
  | 0, s, _ => s
  | n + 1, s, ctx =>
    match (s.ctx ctx).held with
    | [] => s
    | f :: t =>
      let r := (s.ctx ctx).rings
      if (r.fqtail + 2 ^ 32 - r.fqhead) % 2 ^ 32 ≥ 2 ^ r.fqlog then s
      else
        match s.agentWrite ctx .ring [0] (r.fqbase + 32 * (r.fqtail % 2 ^ r.fqlog)) f.bytes with
        | (some _, s) => s
        | (none, s) => State.drainFaults n
            (s.modCtx ctx fun x => { x with held := t, rings := { x.rings with fqtail := (r.fqtail + 1) % 2 ^ 32 } }) ctx

/-- The token of a host-serviced fault: of 32 bits, and that of no other parked fault of the context (R449). -/
def State.token (s : State) (ctx : Nat) : Nat :=
  let p := (s.ctx ctx).parked
  (((List.range (p.length + 1)).map fun i => (s.nextId + i) % 2 ^ 32).find? fun t => (mget p t).isNone).getD 0
/-- A host-serviced fault posted, or held behind those already held (R449). -/
def State.postFault (s : State) (ctx : Nat) (f : FaultRec) (p : Parked) : State :=
  let s := s.modCtx ctx fun x => { x with held := x.held ++ [f], parked := mset x.parked f.token p }
  let s := s.bump f.core .hostflt
  if (s.ctx ctx).held.length = 1 then s.drainFaults 1 ctx else s

/-- A context fault recorded: the event CONTEXT_FAULT acts on it (R433). -/
def State.contextFault (s : State) (ctx : Nat) (f : CtxFault) : State :=
  (s.bump f.core .ctxflt).modCtx ctx fun x => { x with faults := x.faults ++ [f] }

/-! ### The TLBs (R214, R216) -/

/-- A TLB entry serves a virtual address. -/
def TlbEntry.serves (t : TlbEntry) (ctx va : Nat) : Bool :=
  decide (t.ctx = ctx) && (if pteSZ t.pte then decide (bits va 21 28 = t.page / 32) else decide (bits va 16 33 = t.page))

/-- The newest n entries, with one put in front. -/
def tlbPut (l : List TlbEntry) (t : TlbEntry) (n : Nat) : List TlbEntry := (t :: l.filter fun u => u ≠ t).take n

/-- What translation of a program's access gives. -/
inductive Tr where
  | ok (pte : DWord) (pa : Nat)
  /-- A walk is needed and in flight. -/
  | miss
  /-- A cause; whether it goes to the host (R215). -/
  | bad (cause : Nat) (host : Bool)
  deriving DecidableEq, Repr

/-- The misses that a cluster's walker holds, and those that a core holds besides (R214). -/
def State.walkerMisses (s : State) (k : Nat) : Nat :=
  ((s.fly.walks.filter fun w => w.2.cluster = k).map fun w => w.2.waiters.length).sum
def State.missesHeld (s : State) (core : Nat) : Nat := (s.fly.heldMisses.filter fun h => h.core = core).length
/-- The walks that a cluster runs. -/
def State.walksRunning (s : State) (k : Nat) : Nat :=
  (s.fly.walks.filter fun w => decide (w.2.cluster = k) && w.2.running).length
/-- A miss taken by the cluster's walker: it joins a walk, or starts one, which runs when fewer than 64 do (R214). -/
def State.takeMiss (s : State) (h : HeldMiss) : State :=
  let k := clusterOf h.core
  match s.fly.walks.find? fun w => decide (w.2.cluster = k ∧ w.2.ctx = h.ctx ∧ w.2.page = h.page) with
  | some (i, w) =>
    let cores := if h.core ∈ w.cores then w.cores else h.core :: w.cores
    { s with fly := { s.fly with
        walks := mset s.fly.walks i { w with cores := cores, waiters := h.who :: w.waiters } } }.bumpK k .walkj
  | none =>
    let runs := decide (s.walksRunning k < 64)
    { s.fresh with fly := { s.fly with walks := mset s.fly.walks s.nextId ⟨k, h.ctx, h.page, [h.core], [h.who], runs⟩ } }.bumpK k .walks
        (if runs then 1 else 0)
/-- The split waits for a walk, or its core holds its miss. -/
def State.missing (s : State) (k ctx page : Nat) (who : Waiter) : Bool :=
  (s.fly.walks.any fun w => decide (w.2.cluster = k ∧ w.2.ctx = ctx ∧ w.2.page = page ∧ who ∈ w.2.waiters)) ||
  s.fly.heldMisses.any fun h => decide (clusterOf h.core = k ∧ h.ctx = ctx ∧ h.page = page ∧ h.who = who)
/-- A miss in both TLBs: the walker takes it while it holds fewer than 512, or the core holds it while it holds fewer than 64;
a further miss waits at issue (R214). -/
def State.startWalk (s : State) (core ctx page : Nat) (who : Waiter) : State :=
  let h : HeldMiss := ⟨core, ctx, page, who⟩
  let told := fun (s : State) => (s.bump core .l1tlbm).bumpK (clusterOf core) .l2tlbm
  if s.walkerMisses (clusterOf core) < 512 then (told s).takeMiss h
  else if s.missesHeld core < 64 then { told s with fly := { s.fly with heldMisses := s.fly.heldMisses ++ [h] } }
  else s
/-- Held misses of a cluster go to its walker as long as it has room. -/
def State.takeHeld (s : State) (k : Nat) : List HeldMiss → State
  | [] => s
  | h :: t =>
    if clusterOf h.core = k ∧ s.walkerMisses k < 512 then
      State.takeHeld ({ s with fly := { s.fly with heldMisses := s.fly.heldMisses.filter fun g => g ≠ h } }.takeMiss h) k t
    else State.takeHeld s k t
/-- After a walk has ended: the oldest walk that waits runs, and held misses are taken (R214). -/
def State.nextWalks (s : State) (k : Nat) : State :=
  let s := match s.fly.walks.find? fun w => decide (w.2.cluster = k) && !w.2.running with
    | some (i, w) => { s with fly := { s.fly with walks := mset s.fly.walks i { w with running := true } } }.bumpK k .walks
    | none => s
  s.takeHeld k s.fly.heldMisses
/-- After walks have been dropped: walks that wait run in their places. -/
def State.runWalks (s : State) (k : Nat) : State := (List.range (64 - s.walksRunning k)).foldl (fun s _ => s.nextWalks k) s

/-- A program's access translated through the L1 TLB of a core, the L2 TLB and the walker, then checked by R215. -/
def State.translate (s : State) (core ctx : Nat) (who : Waiter) (va : Nat) (a : Access) : Tr × State :=
  let page := bits va 16 33
  let check := fun (e : DWord) =>
    match s.pteCause e va a with
    | some c => Tr.bad c ((c = 4 || c = 5) && pteHS e)
    | none => Tr.ok e (ptePa e va)
  match (s.core core).tlb.find? fun t => t.serves ctx va with
  | some t => (check t.pte, s)
  | none =>
    match s.fly.misses.find? fun m => decide (m.who = who ∧ m.page = page) with
    | some m => (.bad 4 m.hs, s)
    | none =>
      match (s.cluster (clusterOf core)).l2tlb.find? fun t => t.serves ctx va with
      | some t => (check t.pte, (s.bump core .l1tlbm).modCore core fun k => { k with tlb := tlbPut k.tlb t 128 })
      | none =>
        (.miss, if s.missing (clusterOf core) ctx page who then s else s.startWalk core ctx page who)

/-- The results of walks that a split has used up. -/
def State.forget (s : State) (who : Waiter) : State :=
  { s with fly := { s.fly with misses := s.fly.misses.filter fun m => m.who ≠ who } }

end Sys2Proof.Machine
end

