-- ==== Sys2Proof/Machine/Ops.lean ====
section
/-! DEFINITION. The operations over splits and joins, the ways an instruction ends, taking a trap and returning from one
(spec 04, 05, 15). -/
namespace Sys2Proof.Machine

/-! ### Splits (R80 to R83) -/

/-- One part of a division: its lanes, where they continue, whether they arrive by branch, and a join they wait at. -/
structure Part where
  mask : Mask
  pc : Pc
  jumped : Bool := false
  join : Option Nat := none
  deriving DecidableEq, Repr

/-- A part put among parts ordered by lowest lane; parts that continue at one PC are one part. -/
def putPart : List Part → Part → List Part
  | [], p => [p]
  | q :: t, p =>
    if p.pc = q.pc ∧ p.join = q.join then { q with mask := q.mask ||| p.mask, jumped := q.jumped || p.jumped } :: t
    else q :: putPart t p
/-- The parts without empty ones, equal targets put together, by lowest lane. -/
def partsBy (l : List Part) : List Part :=
  let m := (l.filter fun p => p.mask ≠ 0).foldl putPart []
  (List.range 8).filterMap fun i => m.find? fun p => decide (lowest p.mask = i)

/-- A part as an entry: it keeps what the dividing split carries (R62, R83). -/
def Part.entry (p : Part) (sp : Split) (now : Nat) : Split :=
  { sp with mask := p.mask, pc := p.pc, jumped := p.jumped, counted := false, half := 0, latch := none,
            st := match p.join with | some n => .join n | none => .ready,
            since := now }

/-- The lowest-numbered FREE entries. -/
def Group.freeEntries (g : Group) : List Nat := freeKeys g.splits 0 8

/-- Division (R83): the first part keeps entry e, the others take FREE entries in turn. -/
def Group.divide (g : Group) (e : Nat) (sp : Split) (now : Nat) (parts : List Part) : Group :=
  match partsBy parts with
  | [] => { g with splits := mdel g.splits e }
  | p :: rest =>
    let g1 := { g with splits := mset g.splits e (p.entry sp now) }
    (rest.zip g1.freeEntries).foldl (fun g q => { g with splits := mset g.splits q.2 (q.1.entry sp now) }) g1

/-! ### Joins (R86, R87): a register whose three fields are 0 is not listed -/

def Group.joinAt (g : Group) (n : Nat) : Join := mgetD g.joins n ⟨0, 0, 0⟩
def Group.setJoin (g : Group) (n : Nat) (j : Join) : Group := { g with joins := mput ⟨0, 0, 0⟩ g.joins n j }

/-- procedure arm -/
def Group.armJoin (g : Group) (n : Nat) (m : Mask) (target : Pc) : Group :=
  let j := g.joinAt n
  g.setJoin n (if j.arm = 0 ∨ j.rpc ≠ target then ⟨m, 0, target⟩ else { j with arm := j.arm ||| m })

/-- The split waits at join n and lies in a mask. -/
def Split.waitsIn (sp : Split) (n : Nat) (arv : Mask) : Bool := sp.st == .join n && (sp.mask &&& ~~~ arv) == 0

/-- procedure try_complete; the second component counts completions. The part that goes on has the lanes of the splits that
wait, and where none waits the register is freed and the completion counted: the model's choice for an image that JPUT wrote with
other lanes (log 74). -/
def Group.tryComplete (g : Group) (n now : Nat) : Group × Nat :=
  let j := g.joinAt n
  if j.arm ≠ 0 ∧ j.arv = j.arm then
    let w := g.splits.filter fun p => p.2.waitsIn n j.arv
    let g := g.setJoin n ⟨0, 0, 0⟩
    match w with
    | [] => (g, 1)
    | (e, sp) :: _ =>
      let m := w.foldl (fun a p => a ||| p.2.mask) 0
      let rest := w.foldl (fun l p => mdel l p.1) g.splits
      ({ g with splits := mset rest e { sp with mask := m, pc := j.rpc, st := .ready, jumped := true, settle := true,
                                                wins := [], counted := false, since := now, half := 0, latch := none } }, 1)
  else (g, 0)

/-- procedure leave -/
def Group.leaveJoin (g : Group) (n : Nat) (a : Mask) (now : Nat) : Group × Nat :=
  let j := g.joinAt n
  (g.setJoin n { j with arm := j.arm &&& ~~~ a, arv := j.arv &&& ~~~ a }).tryComplete n now

/-- leave for a list of joins, in order. -/
def Group.leaveJoins (g : Group) (ns : List Nat) (a : Mask) (now : Nat) : Group × Nat :=
  ns.foldl (fun (p : Group × Nat) n => let q := p.1.leaveJoin n a now; (q.1, p.2 + q.2)) (g, 0)

/-- procedure arrive, after the division has put the lanes in state JOIN. -/
def Group.arriveJoin (g : Group) (n : Nat) (a : Mask) (now : Nat) : Group × Nat :=
  let j := g.joinAt n
  (g.setJoin n { j with arv := j.arv ||| a }).tryComplete n now

/-! ### How an instruction ends -/

/-- The group of the executing split replaced. -/
def State.setGroup (s : State) (x : Ex) (g : Group) : State := s.modGroup x.core x.slot fun _ => g

/-- The executing split goes on at the next instruction (R54). -/
def Group.advance (g : Group) (e n : Nat) : Group :=
  g.modSplit e fun sp => { sp with pc := Pc.plus sp.pc n, jumped := false, counted := false, half := 0, latch := none }

/-- The instruction completes: the group is changed and the split advances by n bytes. -/
def State.done (s : State) (x : Ex) (n : Nat) (f : Group → Group) : State :=
  s.modGroup x.core x.slot fun g => (f g).advance x.entry n

/-- The instruction waits READY (R82): it is looked at again and is not issued twice. -/
def hold (s : State) : Out := .next { s with held := true }

/-- The split enters WAIT at the instruction (R82). -/
def waitOn (s : State) (x : Ex) (w : Wait) : Out :=
  .next (s.modGroup x.core x.slot fun g => g.modSplit x.entry fun sp => { sp with st := .wait w })

/-- The parts of a division take effect; divisions are counted (R83, R94). -/
def State.divide (s : State) (x : Ex) (g : Group) (parts : List Part) : State :=
  let s := if (partsBy parts).length > 1 then s.bump x.core .spldiv else s
  s.setGroup x (g.divide x.entry x.sp s.now parts)

/-! ### Results that come later (R60 to R62) -/

/-- Some result is pending for one of the lanes. -/
def Group.pending (g : Group) (m : Mask) : Bool :=
  g.pend.any fun p => match p.lane with | some l => Mask.has m l | none => false

/-- Every result of the group is written, no instruction of it that has issued waits READY (R62, R82), and none has still to
issue in the clk (R420): what trap entry and the drain of a switch wait for. -/
def Group.quiet (g : Group) : Bool := g.pend == [] && g.also == [] && g.splits.all fun p => !p.2.going
/-- The windows of a split after one more instruction; a window whose results are written is gone (R60). -/
def countedWins (g : Group) (sp : Split) : List (Nat × Nat) :=
  (sp.wins.filter fun w => g.pend.any fun p => p.iid == w.1).map fun w => (w.1, w.2 - 1)
/-- The quadrant of a slot (R77). -/
def quadrantOf (slot : Nat) : Nat := slot / 128
/-- An instruction counted as issued (R94). -/
def State.countIssue (s : State) (core slot : Nat) : State :=
  s.bump core (match quadrantOf slot with | 0 => .issueq0 | 1 => .issueq1 | 2 => .issueq2 | _ => .issueq3)
/-- A pending register of a lane is written: the register takes the value and the note of it goes. -/
def Group.deliver (g : Group) (iid l : Nat) (f : Lane → Lane) : Group :=
  { g.modLane l f with pend := g.pend.filter fun p => !(p.iid == iid && p.lane == some l) }

/-- The results of a lane instruction become pending, and its window opens (R60). -/
def Group.open_ (g : Group) (e iid la : Nat) (lanes regs : List Nat) : Group :=
  { g.modSplit e fun sp => { sp with wins := (iid, la) :: sp.wins } with
    pend := g.pend ++ lanes.flatMap fun l => regs.map fun r => ⟨iid, some l, .v r⟩ }

/-! ### Images (R81, R86) -/

/-- The code of a state. -/
def SplitSt.code : SplitSt → Nat
  | .ready => 1
  | .join _ => 2
  | .wait _ => 3
  | .nap _ => 4
/-- The 64-bit image of an entry; a FREE entry is 0. -/
def splitImage : Option Split → Nat
  | none => 0
  | some sp => sp.mask.toNat * 2 ^ 56 + sp.st.code * 2 ^ 53 +
      (match sp.st with | .join n => n | _ => 0) * 2 ^ 50 + sp.pc.toNat
/-- The images of a split table (R81). -/
def tableImage (m : Map Split) : List Nat := (List.range 8).map fun e => splitImage (mget m e)
/-- The split tables of a group as a save image holds them: the live one, and the frozen one of a group in a handler. -/
def Group.tables (g : Group) : List DWord :=
  (tableImage g.splits ++ match g.handler with | some h => tableImage h.splits | none => []).map toD
def joinImage (j : Join) : Nat := j.arm.toNat * 2 ^ 56 + j.arv.toNat * 2 ^ 48 + j.rpc.toNat

/-! ### Taking a trap (R418 to R428) -/

/-- The waits that a trap or a switch withdraws (R438): the split becomes READY at the waiting instruction. A BAR.SYNC that
has arrived does not arrive again (R265), and a SEMA that has taken its count takes no other (R263). -/
def Split.withdraw (sp : Split) : Split :=
  match sp.st with
  | .wait w => if w.withdrawn = false then sp else { sp with st := .ready, latch := none, half := if sp.half ≥ 2 then sp.half else 0 }
  | .nap _ => { sp with st := .ready }
  | _ => sp
/-- A wait that a split enters after the switch of its context was taken is withdrawn as it is entered (R82, R438). -/
def Group.withdrawLate (g : Group) (e : Nat) : Group :=
  { g.modSplit e Split.withdraw with holder := if g.holder = some e then none else g.holder }

/-- The waits of a group that stand at slices or in messages are taken back (R438). -/
def State.withdrawWaits (s : State) (uid : Nat) : State :=
  { s with fly := { s.fly with
      syncs := mkeep s.fly.syncs fun _ w => w.who.uid != uid
      semas := mkeep s.fly.semas fun _ w => w.who.uid != uid
      sends := mkeep s.fly.sends fun _ m => m.who.uid != uid } }

/-- The block of a group. -/
def State.blockOf (s : State) (g : Group) : Option Block := mget s.blocks g.blk

/-- The trap frame of a group: F = TFB + 512 × (512 × n + g) (R424). -/
def State.frameAddr (s : State) (ctx core slot : Nat) : Nat := (s.ctx ctx).regs.tfb + 512 * (512 * core + slot)

/-- Bytes 0 to 319 of the trap frame (R424). -/
def Group.frame (g : Group) (r : Raised) : List Byte :=
  ((List.range 8).flatMap fun i => leBytes 4 (g.uni.sr (56 + i)).toNat) ++
  ((tableImage g.splits).flatMap fun v => leBytes 8 v) ++
  ((List.range 8).flatMap fun n => leBytes 8 (joinImage (g.joinAt n))) ++
  ((List.range 8).map fun l => BitVec.ofNat 8 ((if Mask.has g.live l then 128 else 0) + (g.lane l).preds.toNat)) ++
  [BitVec.ofNat 8 g.uni.conds.toNat, BitVec.ofNat 8 r.entry, BitVec.ofNat 8 r.cause] ++ List.replicate 21 0 ++
  ((List.range 4).flatMap fun i => (List.range 8).flatMap fun l => leBytes 4 ((g.lane l).v i).toNat)

/-- The first word of entry c of the trap vector, fetched by R215: the word, or the cause met (R423, R425). -/
def State.trapEntryWord (s : State) (ctx trapb cause : Nat) : Except Nat Nat × State :=
  if trapb = 0 then (.ok 0, s)
  else
    match s.agentRead ctx { fetch := true } [0, 1] (partsOf (trapb + 8 * cause) 4) with
    | (.error (c, _), s) => (.error c, s)
    | (.ok bs, s) => (.ok (leNat (bs.map Prod.fst)), s)

/-- The handler's state of a group (R425, last lines). -/
def Group.enterHandler (g : Group) (r : Raised) (f trapb now : Nat) : Group :=
  let frozen : Frozen :=
    ⟨mall g.splits fun _ sp => sp.withdraw, g.joins, (List.range 8).map fun l => (g.lane l).wb, g.live⟩
  let u := g.uni.setSs 56 [r.lanes.zeroExtend 32, toW r.cause, loOf (Pc.addr r.pc), hiOf (Pc.addr r.pc), r.x60, r.x61,
    toW f, toW (f / 2 ^ 32)]
  { g with uni := u, joins := [], handler := some frozen, trapping := none, holder := none,
           splits := [(0, { mask := g.live, st := .ready, pc := Pc.of (toD (trapb + 8 * r.cause)), jumped := true,
                            since := now, notBefore := now + 40 })] }

/-- TAKING A TRAP, once no result of the group is pending (R425): a double fault or a missing entry makes a context fault;
otherwise the frame is written, the split table and joins are frozen, s56–s63 are loaded and the group is in its handler. -/
def State.takeTrap (s : State) (core slot : Nat) (g : Group) (r : Raised) : State :=
  let cf := fun (s : State) (primary secondary : Nat) =>
    (s.modGroup core slot fun g => { g with trapping := none }).contextFault g.ctx
      ⟨primary, secondary, core, slot, Pc.addr r.pc, pairOf r.x60 r.x61⟩
  if g.handler.isSome then cf s 0x14 r.cause
  else
    let trapb := match s.blockOf g with | some b => b.trapb | none => 0
    match s.trapEntryWord g.ctx trapb r.cause with
    | (.error c, s) => cf s r.cause c
    | (.ok w, s) =>
      if w = 0 then cf s r.cause 0
      else
        let g := g.modSplit r.entry fun sp => { sp with pc := r.resume }
        let f := s.frameAddr g.ctx core slot
        match s.agentWrite g.ctx { priv := true } [0] f (g.frame r) (s.pts core g.ctx) with
        | (some (c, _), s) => cf s r.cause c
        | (none, s) =>
          ((s.withdrawWaits g.uid).modGroup core slot fun _ => g.enterHandler r f trapb s.now).bump core .trapn

/-- A cause is raised by a split (R418, R425): the trap is taken at once when the group is quiet; otherwise it issues nothing
until TRAP_ENTRY. A group that has raised one already takes no other (R420). -/
def State.raise (s : State) (core slot : Nat) (g : Group) (r : Raised) : State :=
  if g.trapping.isSome then s else
  let g := { g with trapping := some r, holder := none }
  let s := s.modGroup core slot fun _ => g
  let s := if r.cause = 8 then s.bump core .stklim else s
  if g.quiet then s.takeTrap core slot g r else s

/-- A precise cause at the executing instruction: resume at it (R418). -/
def trapAt (s : State) (x : Ex) (cause : Nat) (lanes : Mask) (x60 x61 : Word) : Out :=
  .next (s.raise x.core x.slot x.gr ⟨cause, x.entry, lanes, x.sp.pc, x.sp.pc, x60, x61⟩)

/-- A cause of translation: to the host fault queue, where the split parks, or to the trap vector (R419, R421). -/
def accessFault (s : State) (x : Ex) (cause : Nat) (host write : Bool) (lanes : Mask) (va : DWord) : Out :=
  if host then
    let f : FaultRec := ⟨va, Pc.addr x.sp.pc, cause, 0, write, x.core, x.slot, s.token x.gr.ctx⟩
    let s := s.fresh.postFault x.gr.ctx f (.split x.core x.slot x.gr.uid x.entry)
    waitOn (s.modGroup x.core x.slot fun g => { g with holder := none }) x (.replay f.token)
  else trapAt s x cause lanes (loOf va) (hiOf va)

/-! ### Return from a trap (R430) -/

/-- A split of a group becomes READY when the wait it stands in ends, in the live or in the frozen table (R421). -/
def Group.wake (g : Group) (w : Wait) : Group :=
  let f := fun (_ : Nat) (sp : Split) => if sp.st = .wait w then { sp with st := .ready } else sp
  { g with splits := mall g.splits f
           handler := g.handler.map fun h => { h with splits := mall h.splits f } }

/-- The state of a group after RTT, from the frame's bytes, with the joins that completed (R430). -/
def Group.leaveHandler (g : Group) (h : Frozen) (fr : List Byte) (now : Nat) : Group × Nat :=
  let word := fun (o n : Nat) => leNat ((fr.drop o).take n)
  let gone := h.live &&& ~~~ g.live
  let kept := mkeep (mall h.splits fun _ sp => { sp with mask := sp.mask &&& ~~~ gone }) fun _ sp => sp.mask != 0
  let g := { g with splits := kept, joins := h.joins, handler := none }
  let gn := g.leaveJoins (List.range 8) gone now
  let g := gn.1
  let g := { g with splits := mall g.splits fun e (sp : Split) =>
    if sp.st = SplitSt.ready then
      let pc : Pc := BitVec.ofNat 47 (word (32 + 8 * e) 8)
      { sp with pc := pc, jumped := true, notBefore := now + 24, half := if pc = sp.pc then sp.half else 0 }
    else { sp with notBefore := now + 24 } }
  let g := g.modUni fun u =>
    { u.setSs 56 ((List.range 8).map fun i => toW (word (4 * i) 4)) with conds := BitVec.ofNat 7 (word 168 1) }
  (g.modLanes g.live fun l ln =>
    { ln.setVs 0 ((List.range 4).map fun i => toW (word (192 + 32 * i + 4 * l) 4)) with
      preds := BitVec.ofNat 7 (word (160 + l) 1) }, gn.2)

end Sys2Proof.Machine
end

