-- ==== Sys2Proof/Machine/Operands.lean ====
section
/-! DEFINITION. The shared shapes of lane and uniform instructions: each reads its operands before it writes a result, in
active lanes only, and advances (spec 06 R136 to R139, 05 R92). -/
namespace Sys2Proof.Machine

/-- A lane instruction of n bytes: each active lane is changed alone (R137). -/
def laneOp (s : State) (n : Nat) (gd : Guard) (f : Lane → Lane) : Out :=
  onSplit s fun x => .next (s.done x n fun g => g.modLanes (x.active gd) fun _ => f)

/-- A lane instruction that reads the group's uniform state, or the lane's number. -/
def laneOpU (s : State) (n : Nat) (gd : Guard) (f : Uniform → Nat → Lane → Lane) : Out :=
  onSplit s fun x => .next (s.done x n fun g => g.modLanes (x.active gd) (f x.gr.uni))

/-- A uniform instruction of n bytes: it executes once for the group (R92). -/
def uniOp (s : State) (n : Nat) (f : Uniform → Uniform) : Out :=
  onSplit s fun x => .next (s.done x n fun g => g.modUni f)

/-- d := f(a, b) with a literal allowed for b. -/
def opR3 (o : R3) (s : State) (f : Word → Word → Word) : Out :=
  laneOp s (VSrc.len o.b) o.g fun ln => ln.setV o.d.toNat (f (ln.v o.a.toNat) (VSrc.val o.b ln))
/-- d := f(a). -/
def opR2 (o : R2) (s : State) (f : Word → Word) : Out :=
  laneOp s 4 o.g fun ln => ln.setV o.d.toNat (f (ln.v o.a.toNat))
/-- d:d+1 := f(a:a+1, b). -/
def opLea (o : R3) (s : State) (f : DWord → Word → DWord) : Out :=
  laneOp s (VSrc.len o.b) o.g fun ln => ln.setPair o.d.toNat (f (ln.vPair o.a.toNat) (VSrc.val o.b ln))
/-- d:d+1 := f(a:a+1, b:b+1); a literal is sign-extended (R136). -/
def opWide (o : R3) (s : State) (f : DWord → DWord → DWord) : Out :=
  laneOp s (VSrc.len o.b) o.g fun ln => ln.setPair o.d.toNat (f (ln.vPair o.a.toNat) (VSrc.val64 o.b ln))
/-- d:d+1 := f(a, b). -/
def opMulw (o : R3) (s : State) (f : Word → Word → DWord) : Out :=
  laneOp s (VSrc.len o.b) o.g fun ln => ln.setPair o.d.toNat (f (ln.v o.a.toNat) (VSrc.val o.b ln))
/-- d := f(a, b, c). -/
def opF4 (o : F4) (s : State) (f : Word → Word → Word → Word) : Out :=
  laneOp s 4 o.g fun ln => ln.setV o.d.toNat (f (ln.v o.a.toNat) (ln.v o.b.toNat) (ln.v o.c.toNat))
/-- d := f(a, immediate), guarded by p alone (R150). -/
def opI12 (o : I12) (s : State) (f : Word → Word → Word) : Out :=
  laneOp s 4 ⟨o.p, false⟩ fun ln => ln.setV o.d.toNat (f (ln.v o.a.toNat) (o.i.signExtend 32))
/-- sd := f(sa, sb) with a literal allowed for b. -/
def opU3 (o : U3) (s : State) (f : Word → Word → Word) : Out :=
  uniOp s (SSrc.len o.b) fun u => u.setS o.d.toNat (f (u.sr o.a.toNat) (SSrc.val o.b u))
/-- sd := f(sa). -/
def opU2 (o : U2) (s : State) (f : Word → Word) : Out :=
  uniOp s 4 fun u => u.setS o.d.toNat (f (u.sr o.a.toNat))
/-- sd := f(sa, immediate) (R166). -/
def opUi (o : UiO) (s : State) (f : Word → Word → Word) : Out :=
  uniOp s 4 fun u => u.setS o.d.toNat (f (u.sr o.a.toNat) (o.i.signExtend 32))

/-- Combines a test with the old predicate or condition: 0 replaces, 1 and, 2 or (R56). -/
def combine (m : BitVec 2) (old t : Bool) : Bool := if m == 1 then old && t else if m == 2 then old || t else t

end Sys2Proof.Machine
end

