-- ==== Sys2Proof/Machine/Flags.lean ====
section
/-! DEFINITION. The sticky flags, the mode word, and the binary floating-point formats: their values, exact sums and
products, and the one rounding that sets OF, UF and IX (spec 02 R23 to R36). -/
namespace Sys2Proof.Machine

/-! ### Flags and the mode word (R30, R36) -/

/-- A flag word: IV DZ OF UF IX PZ in bits 0 to 5. -/
abbrev Flags := BitVec 6
def flIV : Flags := 0x01
def flDZ : Flags := 0x02
def flOF : Flags := 0x04
def flUF : Flags := 0x08
def flIX : Flags := 0x10
def flPZ : Flags := 0x20
def flWhen (b : Bool) (f : Flags) : Flags := if b then f else 0
def ftz32 (u : Uniform) : Bool := u.mode.getLsbD 0
def ftz16 (u : Uniform) : Bool := u.mode.getLsbD 1

/-! ### Formats (R23) -/

/-- A binary format: exponent and fraction widths, bias, the largest finite code, the code of infinity, the canonical NaN. -/
structure Fmt where
  w : Nat
  m : Nat
  bias : Nat
  maxFin : Nat
  inf : Option Nat
  nan : Option Nat
  /-- NaNs are signalling when the top fraction bit is 0 (R24). -/
  signals : Bool
  deriving DecidableEq, Repr

def fF32 : Fmt := ⟨8, 23, 127, 0x7F7FFFFF, some 0x7F800000, some 0x7FC00000, true⟩
def fF16 : Fmt := ⟨5, 10, 15, 0x7BFF, some 0x7C00, some 0x7E00, true⟩
def fBf16 : Fmt := ⟨8, 7, 127, 0x7F7F, some 0x7F80, some 0x7FC0, true⟩
def fE5m2 : Fmt := ⟨5, 2, 15, 0x7B, some 0x7C, some 0x7E, false⟩
def fE4m3 : Fmt := ⟨4, 3, 7, 0x7E, none, some 0x7F, false⟩
def fE2m1 : Fmt := ⟨2, 1, 1, 0x7, none, none, false⟩

/-- The sign bit of a format. -/
def Fmt.sbit (f : Fmt) : Nat := 2 ^ (f.w + f.m)
/-- The bits of a code without its sign. -/
def Fmt.mag (f : Fmt) (c : Nat) : Nat := c % f.sbit
def Fmt.neg (f : Fmt) (c : Nat) : Bool := c.testBit (f.w + f.m)
/-- A code from a sign and the other bits. -/
def Fmt.code (f : Fmt) (neg : Bool) (mag : Nat) : Nat := if neg then f.sbit + mag else mag
/-- A subnormal code. -/
def Fmt.sub (f : Fmt) (c : Nat) : Bool := f.mag c != 0 && decide (f.mag c < 2 ^ f.m)
/-- A subnormal code as a zero of its sign (R31). -/
def Fmt.flush (f : Fmt) (on : Bool) (c : Nat) : Nat := if on && f.sub c then f.code (f.neg c) 0 else c

/-- An exact value: a NaN, an infinity, a zero with its sign, or ±n × 2^e with n > 0. -/
inductive FVal where
  | nan (sig : Bool)
  | inf (neg : Bool)
  | zero (neg : Bool)
  | fin (neg : Bool) (n : Nat) (e : Int)
  deriving DecidableEq, Repr

/-- The value of a code (R23, R24). -/
def Fmt.val (f : Fmt) (c : Nat) : FVal :=
  let g := f.mag c
  let s := f.neg c
  let e := g / 2 ^ f.m
  let fr := g % 2 ^ f.m
  if g > f.maxFin then
    (if f.inf = some g then .inf s else .nan (f.signals && !fr.testBit (f.m - 1)))
  else if g = 0 then .zero s
  else if e = 0 then .fin s fr (1 - (f.bias : Int) - f.m)
  else .fin s (2 ^ f.m + fr) ((e : Int) - f.bias - f.m)

def FVal.isNan : FVal → Bool
  | .nan _ => true
  | _ => false
/-- A signalling NaN raises IV (R32). -/
def FVal.sig : FVal → Flags
  | .nan true => flIV
  | _ => 0
def FVal.negate : FVal → FVal
  | .nan s => .nan s
  | .inf n => .inf (!n)
  | .zero n => .zero (!n)
  | .fin n x e => .fin (!n) x e
def FVal.isNeg : FVal → Bool
  | .nan _ => false
  | .inf n => n
  | .zero n => n
  | .fin n _ _ => n

/-! ### Rounding (R28, R35) -/

/-- The four rounding modes, by their codes in CVT. -/
inductive Rnd where
  | rn | rz | rm | rp
  deriving DecidableEq, Repr

def Rnd.of (n : Nat) : Rnd := if n = 0 then .rn else if n = 1 then .rz else if n = 2 then .rm else .rp

/-- n × 2^e, and a little more when sticky, rounded to an integer multiple of 2^q: the multiple, and whether it is inexact. -/
def roundAt (r : Rnd) (neg : Bool) (n : Nat) (e q : Int) (sticky : Bool) : Nat × Bool :=
  if e ≥ q then (n * 2 ^ (e - q).toNat + (if sticky && ((r = .rm && neg) || (r = .rp && !neg)) then 1 else 0), sticky)
  else
    let k := (q - e).toNat
    let a := n / 2 ^ k
    let rest := n % 2 ^ k
    let half := 2 ^ (k - 1)
    let inexact := rest != 0 || sticky
    let up :=
      match r with
      | .rn => decide (rest > half) || (rest == half && (sticky || a % 2 == 1))
      | .rz => false
      | .rm => inexact && neg
      | .rp => inexact && !neg
    (if up then a + 1 else a, inexact)

/-- The mode gives an infinity on a finite overflow (R28). -/
def Rnd.toInf (r : Rnd) (neg : Bool) : Bool :=
  match r with
  | .rn => true
  | .rz => false
  | .rm => neg
  | .rp => !neg

/-- The result of an overflow (R28, R35). -/
def Fmt.overflow (f : Fmt) (r : Rnd) (sat neg : Bool) : Nat :=
  if sat || !r.toInf neg then f.code neg f.maxFin
  else
    match f.inf with
    | some i => f.code neg i
    | none => match f.nan with | some q => q | none => f.code neg f.maxFin

/-- A nonzero magnitude n × 2^e (and a little more when sticky) rounded once into a format: the code and OF, UF, IX. Tininess
is detected after rounding (R28). -/
def Fmt.round (f : Fmt) (r : Rnd) (sat neg : Bool) (n : Nat) (e : Int) (sticky : Bool := false) : Nat × Flags :=
  let top : Int := (n.log2 : Int) + e
  let emin : Int := 1 - (f.bias : Int)
  let q := max top emin - f.m
  let k := roundAt r neg n e q sticky
  let mag := if k.1 < 2 ^ f.m then k.1 else ((q + f.m + f.bias).toNat) * 2 ^ f.m + (k.1 - 2 ^ f.m)
  if mag > f.maxFin then (f.overflow r sat neg, flOF ||| flIX)
  else
    let free := roundAt r neg n e (top - f.m) sticky
    let tiny := decide (top < emin) && !(decide (top = emin - 1) && free.1 == 2 ^ (f.m + 1))
    (f.code neg mag, flWhen k.2 flIX ||| flWhen (k.2 && tiny) flUF)

/-- An exact value delivered in a format that has infinities and NaNs. -/
def Fmt.deliver (f : Fmt) (r : Rnd) (v : FVal) : Nat × Flags :=
  match v with
  | .nan _ => (f.nan.getD 0, 0)
  | .inf n => (f.code n (f.inf.getD f.maxFin), 0)
  | .zero n => (f.code n 0, 0)
  | .fin n x e => f.round r false n x e

/-- The flush of a result (R31). -/
def Fmt.flushOut (f : Fmt) (on : Bool) (x : Nat × Flags) : Nat × Flags :=
  if on && f.sub x.1 then (f.code (f.neg x.1) 0, x.2 ||| flUF ||| flIX) else x

/-! ### Exact sums and products (R29, R32) -/

/-- A product; none for 0 × ∞. The operands are no NaNs. -/
def mulVal (a b : FVal) : Option FVal :=
  let s := a.isNeg != b.isNeg
  match a, b with
  | .zero _, .inf _ => none
  | .inf _, .zero _ => none
  | .inf _, _ => some (.inf s)
  | _, .inf _ => some (.inf s)
  | .zero _, _ => some (.zero s)
  | _, .zero _ => some (.zero s)
  | .fin _ x e, .fin _ y g => some (.fin s (x * y) (e + g))
  | _, _ => none

/-- The least exponent of the finite terms. -/
def leastExp : List FVal → Option Int
  | [] => none
  | .fin _ _ e :: t => match leastExp t with | some g => some (min e g) | none => some e
  | _ :: t => leastExp t
/-- The sum of the finite terms as a multiple of 2^g. -/
def sumAt (g : Int) : List FVal → Int
  | [] => 0
  | .fin n x e :: t => (if n then -((x * 2 ^ (e - g).toNat : Nat) : Int) else ((x * 2 ^ (e - g).toNat : Nat) : Int)) + sumAt g t
  | _ :: t => sumAt g t
/-- A value from a signed multiple of 2^g; the sign of zero is given. -/
def ofInt (zneg : Bool) (t g : Int) : FVal := if t = 0 then .zero zneg else .fin (decide (t < 0)) t.natAbs g
/-- The sign of an exact zero sum (R29). -/
def zeroSign (r : Rnd) (l : List FVal) : Bool :=
  if l.all fun v => v == .zero true then true
  else if l.all fun v => v == .zero false then false
  else r == .rm
/-- An exact sum of terms that are no NaNs; none for ∞ − ∞. -/
def sumVal (r : Rnd) (l : List FVal) : Option FVal :=
  let p := l.any fun v => v == .inf false
  let n := l.any fun v => v == .inf true
  if p && n then none
  else if p then some (.inf false)
  else if n then some (.inf true)
  else
    match leastExp l with
    | none => some (.zero (zeroSign r l))
    | some g => some (ofInt (zeroSign r l) (sumAt g l) g)

/-- A NaN result: canonical, with IV. -/
def Fmt.invalid (f : Fmt) : Nat × Flags := (f.nan.getD 0, flIV)
/-- The canonical NaN for NaN operands: IV when one signals (R32). -/
def Fmt.nanOf (f : Fmt) (l : List FVal) : Nat × Flags := (f.nan.getD 0, flWhen (l.any fun v => v.sig != 0) flIV)

/-- FADD in a format (R153). -/
def fAdd (f : Fmt) (r : Rnd) (ftz : Bool) (a b : Nat) : Nat × Flags :=
  let x := f.val (f.flush ftz a)
  let y := f.val (f.flush ftz b)
  f.flushOut ftz <|
    if x.isNan || y.isNan then f.nanOf [x, y]
    else match sumVal r [x, y] with
      | none => f.invalid
      | some v => f.deliver r v
/-- FSUB in a format. -/
def fSub (f : Fmt) (r : Rnd) (ftz : Bool) (a b : Nat) : Nat × Flags :=
  let x := f.val (f.flush ftz a)
  let y := f.val (f.flush ftz b)
  f.flushOut ftz <|
    if x.isNan || y.isNan then f.nanOf [x, y]
    else match sumVal r [x, y.negate] with
      | none => f.invalid
      | some v => f.deliver r v
/-- FMUL in a format (R153). -/
def fMul (f : Fmt) (r : Rnd) (ftz : Bool) (a b : Nat) : Nat × Flags :=
  let x := f.val (f.flush ftz a)
  let y := f.val (f.flush ftz b)
  f.flushOut ftz <|
    if x.isNan || y.isNan then f.nanOf [x, y]
    else match mulVal x y with
      | none => f.invalid
      | some v => f.deliver r v
/-- FFMA and FFMS in a format (R155): a × b + c, with c negated for FFMS. -/
def fFma (f : Fmt) (ftz sub : Bool) (a b c : Nat) : Nat × Flags :=
  let x := f.val (f.flush ftz a)
  let y := f.val (f.flush ftz b)
  let z := f.val (f.flush ftz c)
  let z' := if sub then z.negate else z
  let iv := flWhen ([x, y, z].any fun v => v.sig != 0) flIV
  f.flushOut ftz <|
    if x.isNan || y.isNan then f.nanOf [x, y, z]
    else match mulVal x y with
      | none => (f.nan.getD 0, flIV ||| iv)
      | some p =>
        if z.isNan then f.nanOf [z]
        else match sumVal .rn [p, z'] with
          | none => f.invalid
          | some v => f.deliver .rn v

/-! ### Order and integers -/

/-- a < b for values that are no NaNs; −0 and +0 are equal. -/
def ltVal (a b : FVal) : Bool :=
  match a, b with
  | .inf true, .inf true => false
  | .inf true, _ => true
  | _, .inf true => false
  | .inf false, _ => false
  | _, .inf false => true
  | _, _ => match leastExp [a, b] with
    | none => false
    | some g => decide (sumAt g [a] < sumAt g [b])
def eqVal (a b : FVal) : Bool := !ltVal a b && !ltVal b a

/-- A finite value rounded to an integer: its magnitude, and whether it is inexact. -/
def toInt (r : Rnd) (v : FVal) : Int × Bool :=
  match v with
  | .fin n x e => let k := roundAt r n x e 0 false; (if n then -(k.1 : Int) else k.1, k.2)
  | _ => (0, false)

/-- FMIN and FMAX (R33): −0 below +0. -/
def fMinMax (mx : Bool) (ftz : Bool) (a b : Nat) : Nat × Flags :=
  let a := fF32.flush ftz a
  let b := fF32.flush ftz b
  let x := fF32.val a
  let y := fF32.val b
  let below := ltVal x y || (eqVal x y && x.isNeg && !y.isNeg)
  (if x.isNan && y.isNan then 0x7FC00000
   else if x.isNan then b
   else if y.isNan then a
   else if below then (if mx then b else a)
   else (if mx then a else b),
   x.sig ||| y.sig)

/-- An integral value as a binary32 code; a zero has the sign given. -/
def integral (neg : Bool) (y : Int) : Nat := (fF32.deliver .rn (ofInt neg y 0)).1
/-- FRINT (R153). -/
def fRint (r : Rnd) (ftz : Bool) (a : Nat) : Nat × Flags :=
  let a := fF32.flush ftz a
  match fF32.val a with
  | .nan s => (0x7FC00000, flWhen s flIV)
  | .fin n x e => (integral n (toInt r (.fin n x e)).1, 0)
  | _ => (a, 0)
/-- FFRAC (R153). -/
def fFrac (ftz : Bool) (a : Nat) : Nat × Flags :=
  let a := fF32.flush ftz a
  match fF32.val a with
  | .nan s => (0x7FC00000, flWhen s flIV)
  | .inf _ => (0x7FC00000, flIV)
  | .zero n => (fF32.code n 0, 0)
  | .fin n x e =>
    if e ≥ 0 then (fF32.code n 0, 0)
    else
      let rest := x % 2 ^ (-e).toNat
      (if rest = 0 then (fF32.code n 0) else (fF32.round .rn false n rest e).1, 0)
/-- FCLASS (R154). -/
def fClass (a : Nat) : Nat :=
  match fF32.val a with
  | .inf true => 2 ^ 0
  | .inf false => 2 ^ 7
  | .nan true => 2 ^ 8
  | .nan false => 2 ^ 9
  | .zero true => 2 ^ 3
  | .zero false => 2 ^ 4
  | .fin n _ _ => if fF32.sub a then (if n then 2 ^ 2 else 2 ^ 5) else (if n then 2 ^ 1 else 2 ^ 6)

/-- The condition of FSET, by its fn, and its flag (R159). -/
def fcond (fn : Nat) (ftz : Bool) (a b : Nat) : Bool × Flags :=
  let x := fF32.val (fF32.flush ftz a)
  let y := fF32.val (fF32.flush ftz b)
  let un := x.isNan || y.isNan
  let lt := !un && ltVal x y
  let eq := !un && eqVal x y
  let gt := !un && ltVal y x
  let t :=
    match fn with
    | 0 => eq
    | 1 => !un && !eq
    | 2 => lt
    | 3 => lt || eq
    | 4 => gt
    | 5 => gt || eq
    | 6 => un || eq
    | 7 => un || !eq
    | 8 => un || lt
    | 9 => un || lt || eq
    | 10 => un || gt
    | 11 => un || gt || eq
    | 12 => !un
    | _ => un
  (t, x.sig ||| y.sig ||| flWhen (un && decide (2 ≤ fn ∧ fn ≤ 5)) flIV)

/-- DP4 (R163). -/
def dp4 (f : Fmt) (ftz : Bool) (a b c : Nat) : Nat × Flags :=
  let z := fF32.val (fF32.flush ftz c)
  let xs := (List.range 4).map fun i => f.val (a / 2 ^ (8 * i) % 256)
  let ys := (List.range 4).map fun i => f.val (b / 2 ^ (8 * i) % 256)
  if z.isNan || (xs ++ ys).any FVal.isNan then (0x7FC00000, z.sig)
  else
    let ps := (xs.zip ys).map fun p => mulVal p.1 p.2
    if ps.any Option.isNone then fF32.invalid
    else fF32.flushOut ftz <|
      match sumVal .rn (z :: ps.filterMap id) with
      | none => fF32.invalid
      | some v => fF32.deliver .rn v

end Sys2Proof.Machine
end

