-- ==== Sys2Proof/Machine/Geom.lean ====
section
/-! DEFINITION. The exact tests of a ray against boxes and triangles, and the items of a BVH (spec 12 R340 to R351). Finite
.f32 values are integers in units of 2^−149. -/
namespace Sys2Proof.Machine

/-! ### Exact numbers -/

/-- A finite .f32 value in units of 2^−149. -/
def fxInt (c : Nat) : Option Int :=
  match fF32.val c with
  | .zero _ => some 0
  | .fin s n e => let m : Nat := n * 2 ^ (e + 149).toNat; some (if s then -(m : Int) else m)
  | _ => none
def Bound.le : Bound → Bound → Bool
  | .ninf, _ => true
  | _, .pinf => true
  | .fin a b, .fin c d => decide (a * d ≤ c * b)
  | _, _ => false
def Bound.max (a b : Bound) : Bound := if a.le b then b else a
def Bound.min (a b : Bound) : Bound := if a.le b then a else b
/-- n / d for d ≠ 0. -/
def ratio (n d : Int) : Bound := if d < 0 then .fin (-n) d.natAbs else .fin n d.natAbs
/-- TMIN or TMAX; none for a NaN. -/
def boundOf (c : Nat) : Option Bound :=
  match fF32.val c with
  | .nan _ => none
  | .inf n => some (if n then .ninf else .pinf)
  | .zero _ => some (.fin 0 1)
  | .fin .. => (fxInt c).map fun n => .fin n (2 ^ 149)
/-- n / d rounded to .f32, an exact zero as +0. -/
def roundRatio (r : Rnd) (n : Int) (d : Nat) : Word :=
  if n = 0 then 0
  else
    let sh := d.log2 + 64
    let a := n.natAbs * 2 ^ sh
    toW (fF32.round r false (decide (n < 0)) (a / d) (-(sh : Int)) (a % d != 0)).1
/-- A finite .f32 number as a key of the order of numbers; infinities stand at its ends. -/
def floatKey (w : Word) : Int := if w.getLsbD 31 then -((w.toNat % 2 ^ 31 : Nat) : Int) else w.toNat

/-! ### Rays (R347, R350) -/

/-- Every one of some options. -/
def allSome {α : Type} : List (Option α) → Option (List α)
  | [] => some []
  | some a :: t => (allSome t).map fun r => a :: r
  | none :: _ => none
/-- The ray of ORG, DIR, TMIN and TMAX; none when it is invalid or TMIN > TMAX. -/
def geoRay (w : List Word) : Option GeoRay :=
  let c := w.map BitVec.toNat
  match allSome ((c.take 3).map fxInt), allSome (((c.drop 3).take 3).map fxInt), boundOf (c.getD 6 0), boundOf (c.getD 7 0) with
  | some o, some d, some a, some b => if d.all (fun x => x == 0) || !a.le b then none else some ⟨o, d, a, b⟩
  | _, _, _, _ => none
/-- A component of a transformed ray: m0·x + m1·y + m2·z + m3, rounded; none when it is not finite. -/
def transformed (m : List (Option Int)) (v : List Int) (w : Bool) : Option Int :=
  match allSome m with
  | none => none
  | some m =>
    let s := m.getD 0 0 * v.getD 0 0 + m.getD 1 0 * v.getD 1 0 + m.getD 2 0 * v.getD 2 0 + (if w then m.getD 3 0 * 2 ^ 149 else 0)
    if s = 0 then some 0 else fxInt (fF32.round .rn false (decide (s < 0)) s.natAbs (-298)).1
/-- The ray in an instance's space, by the rows of its matrix (R350); none when it is invalid. -/
def GeoRay.enter (r : GeoRay) (rows : List (List (Option Int))) : Option GeoRay :=
  match allSome (rows.map fun m => transformed m r.o true), allSome (rows.map fun m => transformed (m.take 3) r.d false) with
  | some o, some d => if d.all (fun x => x == 0) then none else some { r with o := o, d := d }
  | _, _ => none

/-! ### Boxes (R341, R348) -/

/-- One axis of a box test: the interval narrowed, or none. -/
def boxAxis (i : Option (Bound × Bound)) (o d lo hi : Int) : Option (Bound × Bound) :=
  match i with
  | none => none
  | some (a, b) =>
    if hi < lo then none
    else if d = 0 then (if o < lo ∨ hi < o then none else some (a, b))
    else
      let p := ratio (lo - o) d; let q := ratio (hi - o) d
      some (a.max (p.min q), b.min (p.max q))
/-- tnear of a box that the ray hits. -/
def GeoRay.box (r : GeoRay) (lo hi : List Int) : Option Bound :=
  let i := (List.range 3).foldl (fun i k => boxAxis i (r.o.getD k 0) (r.d.getD k 0) (lo.getD k 0) (hi.getD k 0))
    (some (r.tmin, r.tmax))
  match i with
  | some (a, b) => if a.le b then some a else none
  | none => none
def Bound.roundDown : Bound → Word
  | .ninf => 0xFF800000
  | .fin n d => roundRatio .rm n d
  | .pinf => 0x7F800000

/-- The number in n bytes of an item from byte o. -/
def itemField (b : List Byte) (o n : Nat) : Nat := leNat ((b.drop o).take n)
def nodeCnt (b : List Byte) : Nat := itemField b 15 1 % 16
/-- A node that breaks R341. -/
def nodeBad (b : List Byte) : Bool :=
  nodeCnt b == 0 || decide (nodeCnt b > 8) || itemField b 15 1 / 16 != 0 ||
  (List.range 3).any fun i => (fxInt (itemField b (4 * i) 4)).isNone
/-- A box bound of a child: ORG + Q × 2^EXP on axis i. -/
def nodeBound (b : List Byte) (at_ i : Nat) : Int :=
  let e := (BitVec.ofNat 8 (itemField b (12 + i) 1)).toInt
  (fxInt (itemField b (4 * i) 4)).getD 0 + (itemField b (at_ + i) 1 : Int) * 2 ^ (e + 149).toNat
def nodeRef (b : List Byte) (c : Nat) : Nat := itemField b (64 + 4 * c) 4
def nodeMask (b : List Byte) (c : Nat) : Nat := itemField b (96 + 4 * c) 1
/-- tnear of child c when its mask and its box pass. -/
def GeoRay.child (r : GeoRay) (b : List Byte) (mask c : Nat) : Option Bound :=
  if nodeMask b c &&& mask = 0 then none
  else r.box ((List.range 3).map fun i => nodeBound b (16 + 6 * c) i) ((List.range 3).map fun i => nodeBound b (19 + 6 * c) i)

/-! ### Triangles (R344, R349) -/

abbrev Vec3 := Int × Int × Int
def Vec3.sub (a b : Vec3) : Vec3 := (a.1 - b.1, a.2.1 - b.2.1, a.2.2 - b.2.2)
def Vec3.cross (a b : Vec3) : Vec3 :=
  (a.2.1 * b.2.2 - a.2.2 * b.2.1, a.2.2 * b.1 - a.1 * b.2.2, a.1 * b.2.1 - a.2.1 * b.1)
def Vec3.dot (a b : Vec3) : Int := a.1 * b.1 + a.2.1 * b.2.1 + a.2.2 * b.2.2
def vec3 (l : List Int) (i : Nat) : Vec3 := (l.getD i 0, l.getD (i + 1) 0, l.getD (i + 2) 0)
/-- A triangle hit: t, u, v as .f32 codes, and the face. -/
structure TriHit where
  t : Word
  u : Word
  v : Word
  back : Bool
  deriving DecidableEq, Repr
/-- The test of a ray against three vertices; culling of back and of front faces. -/
def GeoRay.tri (r : GeoRay) (p : List Int) (cb cf : Bool) : Option TriHit :=
  let p0 := vec3 p 0
  let e1 := (vec3 p 3).sub p0; let e2 := (vec3 p 6).sub p0
  let o := vec3 r.o 0; let d := vec3 r.d 0
  let n := e1.cross e2
  let den := n.dot d
  let k := o.sub p0
  let t := -(n.dot k); let u := (k.cross e2).dot d; let v := (e1.cross k).dot d
  let flip := fun (x : Int) => if den < 0 then -x else x
  let q := den.natAbs
  let back := decide (0 < den)
  let at_ : Bound := .fin (flip t) q
  if den = 0 ∨ flip u < 0 ∨ flip v < 0 ∨ flip u + flip v > (q : Int) then none
  else if r.tmin.le at_ = false ∨ at_.le r.tmax = false then none
  else if (if back then cb else cf) then none
  else some ⟨roundRatio .rn (flip t) q, roundRatio .rn (flip u) q, roundRatio .rn (flip v) q, back⟩
/-- The vertices of an entry; none when a component is an infinity or a NaN. -/
def triVerts (b : List Byte) : Option (List Int) := allSome ((List.range 9).map fun i => fxInt (itemField b (4 * i) 4))
def triBad (b : List Byte) : Bool := itemField b 41 1 / 2 != 0 || itemField b 42 2 != 0
def triNocull (b : List Byte) : Bool := itemField b 41 1 % 2 == 1

/-! ### TBOX and TTRI of one lane (R367, R369) -/

/-- A child put among children by (tnear, index). -/
def putChild : List (Bound × Nat) → Bound × Nat → List (Bound × Nat)
  | [], c => [c]
  | d :: t, c => if d.1.le c.1 then d :: putChild t c else c :: d :: t
/-- The two result words of TBOX, with the flags raised. FTZ32 flushes no operand and no result, a rounded tnear raises neither IX
nor UF, and a signalling NaN in the ray registers raises no IV: the model's choices (R31, R32, R36, R367; log 71). -/
def laneBox (b : List Byte) (poison : Bool) (ray : List Word) (mask : Nat) : (Word × Word) × Flags :=
  let hits :=
    if nodeBad b ∨ poison = true then []
    else
      match geoRay ray with
      | none => []
      | some r => ((List.range (nodeCnt b)).filterMap fun c =>
          if nodeRef b c / 2 ^ 30 = 3 then none else (r.child b mask c).map fun t => (t, c)).foldl putChild []
  let first := hits.map Prod.snd
  let order := first ++ (List.range 8).filter fun c => c ∉ first
  let m := first.foldl (fun m c => m + 2 ^ c) 0
  let w := (List.range 8).foldl (fun w i => w + order.getD i 0 * 2 ^ (8 + 3 * i)) m
  ((toW w, match hits with | h :: _ => h.1.roundDown | [] => 0x7F800000),
   if nodeBad b then flIV else flWhen poison flPZ)
/-- The four result words of TTRI, with the flags raised. FTZ32 flushes nothing here either, rounded t, u and v raise neither IX
nor UF, and a signalling NaN in the ray registers raises no IV: the model's choices (R31, R32, R36, R369; log 71). -/
def laneTri (b : List Byte) (poison : Bool) (ray : List Word) (cb cf : Bool) : List Word × Flags :=
  let hit :=
    if triBad b ∨ poison = true then none
    else
      match geoRay ray, triVerts b with
      | some r, some p => r.tri p (cb && !triNocull b) (cf && !triNocull b)
      | _, _ => none
  (match hit with
   | some h => [h.t, h.u, h.v, if h.back then 2 else 1]
   | none => [0x7F800000, 0, 0, 0], if triBad b then flIV else flWhen poison flPZ)

end Sys2Proof.Machine
end

