-- ==== Sys2Proof/Machine/Special.lean ====
section
/-! DEFINITION. The special functions of lanes (spec 02 R34, 06 R157). Algebraic functions are rounded from an exact quotient
or root. A transcendental value is a fixed-point number less than 2^17 units of 2^−256 off the exact one, which is nearer than any tie
between two codes, and is rounded once. -/
namespace Sys2Proof.Machine

/-- 1.0, ln 2 and π in units of 2^−256. -/
def fxOne : Nat := 2 ^ 256
def fxLn2 : Nat := 0xb17217f7d1cf79abc9e3b39803f2f6af40f343267298b62d8a0d175b8baafa2b
def fxPi : Nat := 0x3243f6a8885a308d313198a2e03707344a4093822299f31d0082efa98ec4e6c89

/-- The largest integer whose square is not above n, bit by bit from 2^k down. -/
def isqrtFrom (n : Nat) : Nat → Nat → Nat
  | 0, r => r
  | k + 1, r => let t := r + 2 ^ k; isqrtFrom n k (if t * t ≤ n then t else r)
def isqrt (n : Nat) : Nat := isqrtFrom n (n.log2 / 2 + 1) 0

/-- Σ y^k / k! from term k on, for a term t. -/
def expTail (y : Nat) : Nat → Nat → Nat → Nat
  | 0, _, _ => 0
  | n + 1, k, t => t + expTail y n (k + 1) (t * y / fxOne / (k + 1))
/-- e^y for 0 ≤ y < 1. -/
def fxExp (y : Nat) : Nat := expTail y 64 0 fxOne
/-- e^−y. -/
def fxExpNeg (y : Nat) : Nat :=
  let n := y / fxLn2 + 1
  fxExp (n * fxLn2 - y) / 2 ^ n
/-- Σ z^(2k+1) / (2k+1) from a power p on. -/
def atanhTail (zz : Nat) : Nat → Nat → Nat → Nat
  | 0, _, _ => 0
  | n + 1, k, p => p / (2 * k + 1) + atanhTail zz n (k + 1) (p * zz / fxOne)
/-- log2 of n / 2^k, for 2^k ≤ n < 2^(k+1). -/
def fxLog2 (n k : Nat) : Nat :=
  let z := (n - 2 ^ k) * fxOne / (n + 2 ^ k)
  2 * atanhTail (z * z / fxOne) 90 0 z * fxOne / fxLn2
/-- The sine series from a term on. -/
def sinTail (qq : Nat) : Nat → Nat → Nat → Int
  | 0, _, _ => 0
  | n + 1, k, t => (t : Int) - sinTail qq n (k + 1) (t * qq / fxOne / ((2 * k + 2) * (2 * k + 3)))
/-- sin 2πt for 0 < t < 1/4. -/
def fxSin (t : Nat) : Nat :=
  let q := 2 * fxPi * t / fxOne
  (sinTail (q * q / fxOne) 44 0 q).toNat

/-- The code and flags of an irrational value that lies within 2^17 units of n units of 2^e: no operand of .f32 brings its
function so close to a tie (log 10). -/
def irrational (neg : Bool) (n : Nat) (e : Int := -256) : Nat × Flags := fF32.round .rn false neg n e true

/-- ±n × 2^e as units of 2^−256, for e ≥ −256. -/
def toFx (n : Nat) (e : Int) : Nat := n * 2 ^ (e + 256).toNat

def oneCode (neg : Bool) : Nat := fF32.code neg 0x3F800000

def fRcp (x : Nat) : Nat × Flags :=
  match fF32.val x with
  | .nan s => (0x7FC00000, flWhen s flIV)
  | .inf n => (fF32.code n 0, 0)
  | .zero n => (fF32.code n 0x7F800000, flDZ)
  | .fin s n e => fF32.round .rn false s (2 ^ 64 / n) (-e - 64) (2 ^ 64 % n != 0)
def fRsq (x : Nat) : Nat × Flags :=
  match fF32.val x with
  | .nan s => (0x7FC00000, flWhen s flIV)
  | .inf n => if n then fF32.invalid else (0, 0)
  | .zero n => (fF32.code n 0x7F800000, flDZ)
  | .fin s n e =>
    if s then fF32.invalid
    else
      let n' := if e % 2 = 0 then n else 2 * n
      let h := (if e % 2 = 0 then e else e - 1) / 2
      let r := isqrt (2 ^ 128 / n')
      fF32.round .rn false false r (-h - 64) (r * r * n' != 2 ^ 128)
def fSqrt (x : Nat) : Nat × Flags :=
  match fF32.val x with
  | .nan s => (0x7FC00000, flWhen s flIV)
  | .inf n => if n then fF32.invalid else (x, 0)
  | .zero _ => (x, 0)
  | .fin s n e =>
    if s then fF32.invalid
    else
      let n' := (if e % 2 = 0 then n else 2 * n) * 2 ^ 64
      let h := (if e % 2 = 0 then e else e - 1) / 2
      let r := isqrt n'
      fF32.round .rn false false r (h - 32) (r * r != n')
def fEx2 (x : Nat) : Nat × Flags :=
  match fF32.val x with
  | .nan s => (0x7FC00000, flWhen s flIV)
  | .inf n => if n then (0, 0) else (0x7F800000, 0)
  | .zero _ => (oneCode false, 0)
  | .fin s n e =>
    let big := decide ((n.log2 : Int) + e ≥ 8)
    if big then fF32.round .rn false false 1 (if s then -400 else 400) true
    else
      let u := toFx n e
      let k : Int := if s then -((u : Int) / fxOne) else (u : Int) / fxOne
      let f := u % fxOne
      if f = 0 then fF32.round .rn false false 1 k
      else
        let k := if s then k - 1 else k
        let f := if s then fxOne - f else f
        irrational false (fxExp (f * fxLn2 / fxOne)) (k - 256)
def fLg2 (x : Nat) : Nat × Flags :=
  match fF32.val x with
  | .nan s => (0x7FC00000, flWhen s flIV)
  | .inf n => if n then fF32.invalid else (x, 0)
  | .zero _ => (0xFF800000, flDZ)
  | .fin s n e =>
    if s then fF32.invalid
    else
      let k := n.log2
      let y : Int := (e + k) * fxOne
      if n = 2 ^ k then fF32.deliver .rn (ofInt false (e + k) 0)
      else
        let c := y + fxLog2 n k
        irrational (decide (c < 0)) c.natAbs
def fSint (x : Nat) : Nat × Flags :=
  match fF32.val x with
  | .nan s => (0x7FC00000, flWhen s flIV)
  | .inf _ => fF32.invalid
  | .zero _ => (x, 0)
  | .fin s n e =>
    let u := if e ≥ 0 then 0 else toFx n e % fxOne
    let neg := s != decide (2 * u ≥ fxOne)
    let u := u % (fxOne / 2)
    if u = 0 then (fF32.code s 0, 0)
    else if 4 * u = fxOne then (oneCode neg, 0)
    else irrational neg (fxSin (if 4 * u > fxOne then fxOne / 2 - u else u))
def fCost (x : Nat) : Nat × Flags :=
  match fF32.val x with
  | .nan s => (0x7FC00000, flWhen s flIV)
  | .inf _ => fF32.invalid
  | .zero _ => (oneCode false, 0)
  | .fin _ n e =>
    let u := if e ≥ 0 then 0 else toFx n e % fxOne
    let u := if 2 * u > fxOne then fxOne - u else u
    let neg := decide (4 * u > fxOne)
    if u = 0 then (oneCode false, 0)
    else if 2 * u = fxOne then (oneCode true, 0)
    else if 4 * u = fxOne then (0, 0)
    else irrational neg (fxSin (if neg then u - fxOne / 4 else fxOne / 4 - u))
def fTanh (x : Nat) : Nat × Flags :=
  match fF32.val x with
  | .nan s => (0x7FC00000, flWhen s flIV)
  | .inf n => (oneCode n, 0)
  | .zero _ => (x, 0)
  | .fin s n e =>
    if (n.log2 : Int) + e ≥ 5 then fF32.round .rn false s (fxOne - 1) (-256) true
    else
      let c := fxExpNeg (2 * toFx n e)
      irrational s ((fxOne - c) * fxOne / (fxOne + c))
def fLogi (x : Nat) : Nat × Flags :=
  match fF32.val x with
  | .nan s => (0x7FC00000, flWhen s flIV)
  | .inf n => if n then (0, 0) else (oneCode false, 0)
  | .zero _ => (0x3F000000, 0)
  | .fin s n e =>
    if (n.log2 : Int) + e ≥ 7 then
      (if s then fF32.round .rn false false 1 (-170) true else fF32.round .rn false false (fxOne - 1) (-256) true)
    else
      let c := fxExpNeg (toFx n e)
      irrational false ((if s then c else fxOne) * fxOne / (fxOne + c))

/-- A special function of a lane, with the flushes of R31. -/
def special (f : Nat → Nat × Flags) (ftz : Bool) (x : Nat) : Nat × Flags :=
  fF32.flushOut ftz (f (fF32.flush ftz x))

end Sys2Proof.Machine
end

