-- ==== Sys2Proof/Machine/Convert.lean ====
section
/-! DEFINITION. Conversions between formats: CVT, PK and UPK (spec 02 R35 to R41, 06 R160 and R161), and the LG6 and MX
scale codes (R26, R27). -/
namespace Sys2Proof.Machine

/-- The FTZ bit that governs a format (R31). -/
def ftzOf (u : Uniform) (f : Fmt) : Bool :=
  if f = fF32 then ftz32 u else if f = fF16 ∨ f = fBf16 then ftz16 u else false

/-- An exact value converted into a binary format with the cases of R35; .e2m1 always saturates. -/
def Fmt.convert (f : Fmt) (r : Rnd) (sat : Bool) (v : FVal) : Nat × Flags :=
  let sat := sat || f.nan.isNone
  match v with
  | .nan s => match f.nan with
    | some q => (q, flWhen s flIV)
    | none => (0, flPZ ||| flWhen s flIV)
  | .inf n =>
    if sat then (f.code n f.maxFin, 0)
    else match f.inf with
      | some i => (f.code n i, 0)
      | none => (f.nan.getD 0, flIV)
  | .zero n => (f.code n 0, 0)
  | .fin n x e => f.round r sat n x e

/-- A conversion between binary formats, with the flushes of R39. -/
def cvtFloat (u : Uniform) (dst src : Fmt) (r : Rnd) (sat : Bool) (x : Nat) : Nat × Flags :=
  dst.flushOut (ftzOf u dst) (dst.convert r sat (src.val (src.flush (ftzOf u src) x)))

/-- The significand of T[j], with 23 fraction bits (R26). -/
def lg6T (j : Nat) : Nat := if j = 0 then 0x800000 else if j = 1 then 0x9837F0 else if j = 2 then 0xB504F3 else 0xD744FD
/-- The value of an LG6 code (R26). -/
def lg6Val (c : Nat) : FVal :=
  let c := c % 64
  if c = 0x30 then .zero false
  else
    let q : Int := if c % 32 < 16 then (c % 32 : Nat) else ((c % 32 : Nat) : Int) - 32
    .fin (decide (c ≥ 32)) (lg6T (q % 4).toNat) (q / 4 - 23)
/-- The codes of a sign with the zero, by rising magnitude. -/
def lg6Codes (neg : Bool) : List Nat :=
  0x30 :: (if neg then (List.range 31).map fun i => 32 + (i + 17) % 32 else (List.range 32).map fun i => (i + 16) % 32)
/-- lg6_nearest (R40). -/
def lg6Nearest (v : FVal) : Nat × Flags :=
  match v with
  | .nan s => (0x30, flPZ ||| flWhen s flIV)
  | .inf n => (if n then 0x2F else 0x0F, 0)
  | .zero _ => (0x30, 0)
  | .fin n x e =>
    let g := min e (-27)
    let dist := fun c => (sumAt g [v] - sumAt g [lg6Val c]).natAbs
    let best := (lg6Codes n).foldl (fun b c => if dist c < dist b ∨ (dist c = dist b ∧ b % 2 = 1 ∧ c % 2 = 0) then c else b) 0x30
    let big := decide ((sumAt g [.fin false x e]) > sumAt g [lg6Val 0x0F])
    (best, if big then flOF ||| flIX else if best = 0x30 then flUF ||| flIX else flWhen (dist best != 0) flIX)

/-- A value rounded into the range of an integer type (R35, R39). -/
def cvtInt (r : Rnd) (lo hi : Int) (v : FVal) : Int × Flags :=
  match v with
  | .nan _ => (0, flIV)
  | .inf n => (if n then lo else hi, flIV)
  | v =>
    let y := toInt r v
    if y.1 < lo then (lo, flIV) else if y.1 > hi then (hi, flIV) else (y.1, flWhen y.2 flIX)

/-- The E8M0 code of a value (R39). -/
def cvtE8m0 (v : FVal) : Nat × Flags :=
  match v with
  | .nan s => (0xFF, flWhen s flIV)
  | .inf _ => (0xFF, flIV)
  | .zero _ => (0, 0)
  | .fin _ n e => ((min (max ((n.log2 : Int) + e + 127) 0) 254).toNat, 0)
/-- The value of an E8M0 code (R27). -/
def e8m0Val (c : Nat) : FVal := if c % 256 = 255 then .nan false else .fin false 1 (((c % 256 : Nat) : Int) - 127)

/-- What CVT writes: the source as a pair value, the result as a 64-bit number with its flags (R38, R39). -/
def cvt (u : Uniform) (fn : Nat) (r : Rnd) (sat : Bool) (x : DWord) : DWord × Flags :=
  let a := x.toNat % 2 ^ 32
  let f32in := fF32.val (fF32.flush (ftz32 u) a)
  let code := fun (p : Nat × Flags) => (toD p.1, p.2)
  let int := fun (p : Int × Flags) => (BitVec.ofInt 64 p.1, p.2)
  let w32 := fun (p : Int × Flags) => ((BitVec.ofInt 32 p.1).zeroExtend 64, p.2)
  let ofI := fun (y : Int) => code (fF32.deliver r (ofInt false y 0))
  match fn with
  | 0 => code (cvtFloat u fF16 fF32 r sat a)
  | 1 => code (cvtFloat u fBf16 fF32 r sat a)
  | 2 => code (cvtFloat u fF32 fF16 .rn false (a % 2 ^ 16))
  | 3 => code (cvtFloat u fF32 fBf16 .rn false (a % 2 ^ 16))
  | 4 => w32 (cvtInt r (-2 ^ 31) (2 ^ 31 - 1) f32in)
  | 5 => w32 (cvtInt r 0 (2 ^ 32 - 1) f32in)
  | 6 => ofI (loOf x).toInt
  | 7 => ofI a
  | 8 => int (cvtInt r (-2 ^ 63) (2 ^ 63 - 1) f32in)
  | 9 => int (cvtInt r 0 (2 ^ 64 - 1) f32in)
  | 10 => ofI x.toInt
  | 11 => ofI x.toNat
  | 12 => code (cvtFloat u fE4m3 fF32 r sat a)
  | 13 => code (cvtFloat u fE5m2 fF32 r sat a)
  | 14 => code (cvtFloat u fF32 fE4m3 .rn false (a % 2 ^ 8))
  | 15 => code (cvtFloat u fF32 fE5m2 .rn false (a % 2 ^ 8))
  | 16 => code (cvtFloat u fE2m1 fF32 r sat a)
  | 17 => code (cvtFloat u fF32 fE2m1 .rn false (a % 2 ^ 4))
  | 18 => code (lg6Nearest f32in)
  | 19 => code (fF32.convert .rn false (lg6Val a))
  | 20 => code (cvtFloat u fBf16 fF16 r sat (a % 2 ^ 16))
  | 21 => code (cvtFloat u fF16 fBf16 r sat (a % 2 ^ 16))
  | 22 => code (cvtE8m0 f32in)
  | _ => code (fF32.flushOut (ftz32 u) (fF32.convert .rn false (e8m0Val a)))

/-- The conversions that read a pair, and those that write one (R38). -/
def cvtWideIn (fn : Nat) : Bool := fn == 10 || fn == 11
def cvtWideOut (fn : Nat) : Bool := fn == 8 || fn == 9

/-- CVT (R39). -/
def execCvt (o : CvtO) (s : State) : Out :=
  laneOpU s (VSrc.len o.a) o.g fun u _ ln =>
    let fn := o.f.toNat
    let x := match o.a with
      | .lit w => w.zeroExtend 64
      | .reg r => if cvtWideIn fn then ln.vPair r.toNat else (ln.v r.toNat).zeroExtend 64
    let y := cvt u fn (Rnd.of o.r.toNat) o.s x
    (if cvtWideOut fn then ln.setPair o.d.toNat y.1 else ln.setV o.d.toNat (loOf y.1)).raise y.2

/-- Elements packed into one word, element i at bits w × i (R25). -/
def packWord (w : Nat) (f : Nat → Nat × Flags) : List Nat → Nat × Flags
  | [] => (0, 0)
  | x :: t => let y := f x; let r := packWord w f t; (y.1 + 2 ^ w * r.1, y.2 ||| r.2)

/-- PK: the words of the sources, in element order, become the packed elements of d (R160, R161). -/
def opPack (o : R3n) (s : State) (dst : Fmt) (sat : Bool) (n : Nat) : Out :=
  laneOpU s 4 o.g fun u _ ln =>
    let xs := (ln.vs o.a.toNat n ++ ln.vs o.b.toNat n).map BitVec.toNat
    let y := packWord (dst.w + dst.m + 1) (cvtFloat u dst fF32 .rn sat) xs
    (ln.setV o.d.toNat (toW y.1)).raise y.2
/-- UPK: the n elements of a become n registers (R160, R161). -/
def opUnpack (o : R2) (s : State) (src : Fmt) (n : Nat) : Out :=
  laneOpU s 4 o.g fun u _ ln =>
    let w := src.w + src.m + 1
    let ys := (List.range n).map fun i => cvtFloat u fF32 src .rn false (bits (ln.v o.a.toNat).toNat (w * i) w)
    (ln.setVs o.d.toNat (ys.map fun y => toW y.1)).raise (ys.foldl (fun f y => f ||| y.2) 0)

def execPk2F16 (o : R3n) (s : State) : Out := opPack o s fF16 false 1
def execPk2Bf16 (o : R3n) (s : State) : Out := opPack o s fBf16 false 1
def execPk4E4m3 (o : R3n) (s : State) : Out := opPack o s fE4m3 false 2
def execPk4E5m2 (o : R3n) (s : State) : Out := opPack o s fE5m2 false 2
def execPk8E2m1 (o : R3n) (s : State) : Out := opPack o s fE2m1 false 4
def execPk4E4m3Sat (o : R3n) (s : State) : Out := opPack o s fE4m3 true 2
def execPk4E5m2Sat (o : R3n) (s : State) : Out := opPack o s fE5m2 true 2
def execUpk2F16 (o : R2) (s : State) : Out := opUnpack o s fF16 2
def execUpk2Bf16 (o : R2) (s : State) : Out := opUnpack o s fBf16 2
def execUpk4E4m3 (o : R2) (s : State) : Out := opUnpack o s fE4m3 4
def execUpk4E5m2 (o : R2) (s : State) : Out := opUnpack o s fE5m2 4
def execUpk8E2m1 (o : R2) (s : State) : Out := opUnpack o s fE2m1 8

end Sys2Proof.Machine
end

