-- ==== Sys2Proof/Machine/MxArith.lean ====
section
/-! DEFINITION. The arithmetic of the matrix arrays: operand elements, the step sum, tile additions and the counter (spec 02
R26, R27, R42 to R47, 11 R291, R297, R302, R303). -/
namespace Sys2Proof.Machine

/-! ### Operand maps (R302, R303) -/

def mapBase (m : BitVec 128) : Nat := (m.extractLsb' 0 32).toNat
def mapStride (m : BitVec 128) : Nat := (m.extractLsb' 32 20).toNat
def mapSstride (m : BitVec 128) : Nat := (m.extractLsb' 52 12).toNat
def mapFmt (m : BitVec 128) : Nat := (m.extractLsb' 64 4).toNat
def mapMx (m : BitVec 128) : Bool := m.getLsbD 68
def mapSrc (m : BitVec 128) : Nat := (m.extractLsb' 69 2).toNat
def mapScale (m : BitVec 128) : Nat := (m.extractLsb' 96 32).toNat
/-- A valid image (R302). -/
def mapOk (m : BitVec 128) : Bool :=
  m.extractLsb' 71 25 == 0 && mapSrc m != 3 && decide (mapFmt m ≤ 5) && !(mapMx m && decide (mapFmt m < 2)) &&
  (mapSrc m != 1 || (m.extractLsb' 4 4 == 0 && m.extractLsb' 21 11 == 0)) &&
  (mapSrc m != 2 || (m.extractLsb' 15 17 == 0 && m.extractLsb' 32 32 == 0 && m.extractLsb' 111 17 == 0))
/-- The byte offset in the chain of SRC 1. -/
def mapOff (m : BitVec 128) : Nat := (m.extractLsb' 8 13).toNat
def mapSlot (m : BitVec 128) : Nat := (m.extractLsb' 0 4).toNat

/-- Element width, class and rate of a format (R291). -/
def fmtWidth (f : Nat) : Nat := if f < 2 then 16 else if f < 4 then 8 else if f = 4 then 4 else 6
def fmtClass (f : Nat) : Nat := if f < 2 then 0 else if f < 4 then 1 else f - 2
def fmtRate (f : Nat) : Nat := if f < 2 then 1 else if f < 4 then 2 else 8
/-- bits(k) (R303). -/
def bitsOf (f k : Nat) : Nat := if f = 5 then 24 * (k / 4) + 6 * (k % 4) else k * fmtWidth f
/-- The first byte of element k0, and the bytes that kl elements from it touch. -/
def byteOf (f k0 : Nat) : Nat := bitsOf f k0 / 8
def bytesOf (f k0 kl : Nat) : Nat := (bitsOf f (k0 + kl) + 7) / 8 - byteOf f k0
/-- The scale bytes of kl elements. -/
def scalesOf (k0 kl : Nat) : Nat := (k0 + kl - 1) / 32 - k0 / 32 + 1

/-! ### Elements (R26, R27, R42) -/

/-- An element: one that contributes zero and poisons, an exact value, or a log code with its sign. -/
inductive MEl where
  | bad
  | num (v : FVal)
  | log (neg : Bool) (q : Int)
  deriving DecidableEq, Repr

def fmtOf (f : Nat) : Fmt := if f = 0 then fBf16 else if f = 1 then fF16 else if f = 2 then fE4m3 else if f = 3 then fE5m2 else fE2m1
/-- The element of a code. -/
def elemOf (f c : Nat) : MEl :=
  if f = 5 then
    if c = 0x30 then .num (.zero false)
    else .log (c.testBit 5) (if c % 32 ≥ 16 then ((c % 32 : Nat) : Int) - 32 else ((c % 32 : Nat) : Int))
  else
    match (fmtOf f).val c with
    | .nan _ => .bad
    | .inf _ => .bad
    | v => .num v
/-- A scale applied. -/
def MEl.scaled (x : MEl) (c : Nat) : MEl :=
  if c = 255 then .bad
  else
    let e := ((c : Nat) : Int) - 127
    match x with
    | .num (.fin n v g) => .num (.fin n v (g + e))
    | .log n q => .log n (q + 4 * e)
    | v => v
/-- kl elements from k0 of bytes and of scales, each byte with its poison. -/
def readEls (m : BitVec 128) (k0 kl : Nat) (data sc : Nat → Byte × Bool) : List MEl :=
  (List.range kl).map fun q =>
    let f := mapFmt m
    let o := bitsOf f (k0 + q) - 8 * byteOf f k0
    let n := (o % 8 + fmtWidth f + 7) / 8
    let bs := (List.range n).map fun i => data (o / 8 + i)
    let x := if bs.any Prod.snd then MEl.bad else elemOf f (leNat (bs.map Prod.fst) / 2 ^ (o % 8) % 2 ^ fmtWidth f)
    if mapMx m then
      let s := sc ((k0 + q) / 32 - k0 / 32)
      if s.2 then .bad else x.scaled s.1.toNat
    else x
/-- A product; none poisons. -/
def mxProd (a b : MEl) : Option FVal :=
  match a, b with
  | .bad, _ => none
  | _, .bad => none
  | .num x, .num y => mulVal x y
  | .log n q, .log m r =>
    let t := q + r
    some (.fin (n != m) (lg6T (t % 4).toNat) (t / 4 - 23))
  | _, _ => some (.zero false)

/-! ### The step sum (R43) -/

/-- A product cut to a multiple of 2^q. -/
def cutAt (q : Int) (p : Bool × Nat × Int) : Int :=
  let k : Nat := if p.2.2 ≥ q then p.2.1 * 2 ^ (p.2.2 - q).toNat else p.2.1 / 2 ^ (q - p.2.2).toNat
  if p.1 then -(k : Int) else k
/-- S, whether it is poisoned, and whether it overflowed. -/
def stepSum (l : List (MEl × MEl)) : Word × Bool × Bool :=
  let ps := l.map fun p => mxProd p.1 p.2
  let bad := ps.any Option.isNone
  match ps.filterMap fun p => match p with | some (.fin n x e) => some (n, x, e) | _ => none with
  | [] => (0, bad, false)
  | p :: t =>
    let top := fun (p : Bool × Nat × Int) => ((p.2.1.log2 : Nat) : Int) + p.2.2
    let q := t.foldl (fun m p => max m (top p)) (top p) - 60
    let sum := (p :: t).foldl (fun a p => a + cutAt q p) 0
    if sum = 0 then (0, bad, false)
    else
      let r := fF32.round .rn true (decide (sum < 0)) sum.natAbs q
      let ovf := r.2 &&& flOF != 0
      (toW r.1, bad || ovf, ovf)

/-! ### Tiles (R44, R297) -/

/-- add32, and whether it overflowed. -/
def add32 (x y : Word) : Word × Bool :=
  if y = 0 then (if x = 0x80000000 then 0 else x, false)
  else if x = 0 then (if y = 0x80000000 then 0 else y, false)
  else
    let r := (fAdd fF32 .rn false x.toNat y.toNat).1
    if r % 2 ^ 31 = 0x7F800000 then (toW (r - 1), true) else (toW r, false)
/-- The poison bit of an element (R42). -/
def poisonBit (k : Nat) : BitVec 256 := BitVec.ofNat 256 (2 ^ (16 * (k / 1024) + k % 128 / 8))
/-- add32 over the listed elements of two tiles; with full, the elements that only the first lists meet +0. -/
def zipAdd (full : Bool) : Nat → Map Word → Map Word → List (Nat × Word × Bool)
  | 0, _, _ => []
  | _ + 1, [], b => b.map fun p => (p.1, add32 0 p.2)
  | _ + 1, a, [] => a.map fun p => (p.1, if full then add32 p.2 0 else (p.2, false))
  | n + 1, (i, x) :: a, (j, y) :: b =>
    if i = j then (i, add32 x y) :: zipAdd full n a b
    else if i < j then (i, if full then add32 x 0 else (x, false)) :: zipAdd full n a ((j, y) :: b)
    else (j, add32 0 y) :: zipAdd full n ((i, x) :: a) b
/-- The sum of two tiles with the OR of their poison, and whether an element overflowed. -/
def Tile.add (full : Bool) (a b : Tile) : Tile × Bool :=
  let l := zipAdd full (a.elems.length + b.elems.length + 1) a.elems b.elems
  let ovf := l.filter fun p => p.2.2
  ({ elems := l.filterMap fun p => if p.2.1 = 0 then none else some (p.1, p.2.1)
     poison := ovf.foldl (fun m p => m ||| poisonBit p.1) (a.poison ||| b.poison) }, !ovf.isEmpty)
/-- A tile without the elements that are +0. -/
def Tile.clean (t : Tile) : Tile := { t with elems := t.elems.filter fun p => p.2 ≠ 0 }

def Matrix.tile (k : Matrix) (n : Nat) : Tile := mgetD k.tiles n {}
def Matrix.setTile (k : Matrix) (n : Nat) (t : Tile) : Matrix := { k with tiles := mput {} k.tiles n t }
def Matrix.ctl (k : Matrix) (n : Nat) : TileCtl := mgetD k.ctls n {}
def Matrix.setCtl (k : Matrix) (n : Nat) (f : TileCtl → TileCtl) : Matrix := { k with ctls := mput {} k.ctls n (f (k.ctl n)) }

/-! ### The counter (R46, R47) -/

/-- The carries of an arrival: the value goes up through the occupied levels below the top. -/
def Matrix.carry (t L : Nat) : Nat → Matrix → Tile → Nat → Bool → Matrix × Tile × Nat × Bool
  | 0, k, x, i, o => (k, x, i, o)
  | n + 1, k, x, i, o =>
    let v := t + 1 + i
    if (k.ctl v).occ ∧ i < L - 1 then
      let r := (k.tile v).add true x
      Matrix.carry t L n (k.setCtl v fun c => { c with occ := false }) r.1 (i + 1) (o || r.2)
    else (k, x, i, o)
/-- fold(). -/
def Matrix.fold (k : Matrix) (t L : Nat) : Tile × Bool :=
  match (List.range L).filter fun i => (k.ctl (t + 1 + i)).occ with
  | [] => ({}, false)
  | i :: l => l.foldl (fun y j => let r := (k.tile (t + 1 + j)).add true y.1; (r.1, y.2 || r.2)) (k.tile (t + 1 + i), false)
/-- arrive(x, i) into the counter of length L headed at t, and whether an addition overflowed. -/
def Matrix.arrive (k : Matrix) (t L : Nat) (x : Tile) (i : Nat) : Matrix × Bool :=
  let r := Matrix.carry t L L k x.clean (min i (L - 1)) false
  let v := t + 1 + r.2.2.1
  let y := if (r.1.ctl v).occ then (r.1.tile v).add true r.2.1 else (r.2.1, false)
  let k := (r.1.setTile v y.1).setCtl v fun c => { c with occ := true }
  let f := k.fold t L
  (k.setTile t f.1, r.2.2.2 || y.2 || f.2)
/-- The bits of a number of 256 that are 1. -/
def popcount256 (x : BitVec 256) : Nat := ((List.range 256).filter fun i => x.getLsbD i).length
/-- The poison bits that an operation has set. -/
def Matrix.newPoison (old k : Matrix) : Nat := (k.tiles.map fun p => popcount256 (p.2.poison &&& ~~~ (old.tile p.1).poison)).sum

/-- The step of a multiply: the rows of A by destination and the columns of B give the sums of its shape, with their poison. -/
def stepTile (rows : List (Nat × List MEl)) (cols : List (Nat × List MEl)) : Tile × Bool :=
  let l := rows.flatMap fun r => cols.map fun c => (128 * r.1 + c.1, stepSum (r.2.zip c.2))
  ({ elems := l.map fun p => (p.1, p.2.1)
     poison := l.foldl (fun m p => if p.2.2.1 then m ||| poisonBit p.1 else m) 0 }, l.any fun p => p.2.2.2)
/-- Rows in ascending order of their destination. -/
def byDest (l : List (Nat × Nat)) : List (Nat × Nat) := (List.range 128).filterMap fun d => l.find? fun r => r.2 = d

/-! ### Control words (R298, R314, R318) -/

/-- The control words after an operation; occupancy and step counts apart. -/
def MxOp.link (op : MxOp) (m : Map TileCtl) : Map TileCtl :=
  let up := fun (m : Map TileCtl) (n : Nat) (f : TileCtl → TileCtl) => mput ({} : TileCtl) m n (f (mgetD m n {}))
  match op with
  | .mul t (.spec u) .. =>
    if (mgetD m t {}).spec = 0 then
      up (up m t fun c => { c with spec := 1, link := u }) u fun c => { c with spec := 2, link := t }
    else m
  | .zero t n =>
    (List.range n).foldl (fun m i => up m (t + 1 + i) fun c => { c with lvl := true, occ := false, cl := 0 })
      (up m t fun c => { c with cl := n, count := 0, lvl := false })
  | .commit t u _ => up (up m t fun c => { c with spec := 0, link := 0 }) u fun c => { c with spec := 0, link := 0 }
  | .drop t u => up (up m t fun c => { c with spec := 0, link := 0 }) u fun c => { c with spec := 0, link := 0 }
  | _ => m

end Sys2Proof.Machine
end

