-- ==== Sys2Proof/Machine/GlobalMem.lean ====
section
/-! DEFINITION. LD, ST, PREF and CLINE, and what becomes of their requests at the L1s, the home slices and the walkers (spec
08 R203 to R238). -/
namespace Sys2Proof.Machine

/-! ### Addresses and checks (R215, R232) -/

def Ex.waiter (x : Ex) : Waiter := ⟨x.gr.uid, x.entry⟩
/-- The place in issue order of the executing instruction; next is the next id (R239). -/
def Ex.seq (x : Ex) (next : Nat) : Nat :=
  match x.sp.latch with
  | some l => l.seq
  | none => next
def Ex.owner (x : Ex) (iid : Nat) : Owner := ⟨x.core, x.slot, x.gr.uid, x.entry, x.gr.ctx, x.gr.blk, iid, x.seq iid⟩
/-- The address of a lane: va:va+1 + sext(off, 32). -/
def laneAddr (ln : Lane) (a : BitVec 5) (off : Word) : DWord := ln.vPair a.toNat + off.signExtend 64
def offWord (o : Option Word) : Word := o.getD 0
/-- The object that an address belongs to under a binding table; 0 is the default object (R249). -/
def regionObj (b : Map Binding) (va : Nat) : Nat :=
  match b.find? fun b => decide (b.2.base ≤ va ∧ va < b.2.base + b.2.len) with
  | some b => b.2.obj
  | none => 0
/-- The objects that the lines of an access belong to as it is made (R249). -/
def State.objsOf (s : State) (ctx : Nat) (vas : List Nat) : List Nat := (vas.map fun va => regionObj (s.ctx ctx).binds va).eraseDups
/-- The length of an instruction with an optional offset word. -/
def offLen (o : Option Word) : Nat := if o.isSome then 8 else 4

/-- What the checks of one lane give. -/
inductive LaneChk where
  | ok (pte : DWord) (pa : Nat)
  | miss
  | bad (cause : Nat) (host : Bool)
  deriving DecidableEq, Repr
/-- A lane that passed its checks. -/
structure LaneOk where
  lane : Nat
  va : Nat
  pte : DWord
  pa : Nat
  deriving DecidableEq, Repr

/-- One lane: canonical, aligned to z bytes, translated, and on a page of an allowed class. -/
def State.checkLane (s : State) (core ctx : Nat) (who : Waiter) (a : Access) (classes : List Nat) (z : Nat) (va : DWord) :
    LaneChk × State :=
  if !canonical va then (.bad 5 false, s)
  else if va.toNat % z ≠ 0 then (.bad 7 false, s)
  else
    match s.translate core ctx who va.toNat a with
    | (.ok e pa, s) => if pteClass e ∈ classes then (.ok e pa, s) else (.bad 6 false, s)
    | (.miss, s) => (.miss, s)
    | (.bad c h, s) => (.bad c h, s)
/-- Every lane, ascending. -/
def State.checkLanes (s : State) (core ctx : Nat) (who : Waiter) (a : Access) (classes : List Nat) (z : Nat) :
    List (Nat × DWord) → List (Nat × DWord × LaneChk) × State
  | [] => ([], s)
  | (l, va) :: t =>
    let r := s.checkLane core ctx who a classes z va
    let q := State.checkLanes r.2 core ctx who a classes z t
    ((l, va, r.1) :: q.1, q.2)
def LaneChk.cause : LaneChk → Nat
  | .bad c _ => c
  | _ => 0
/-- The lanes' checks decide (R232): held for a walk, a fault of the lowest lane that fails, or the lanes go on. -/
def checked (s : State) (x : Ex) (write : Bool) (r : List (Nat × DWord × LaneChk)) (k : List LaneOk → State → Out) : Out :=
  if r.any fun p => p.2.2 == .miss then hold s
  else
    match r.find? fun p => p.2.2.cause != 0 with
    | some (_, va, .bad c h) =>
      let m := maskOf ((r.filter fun p => p.2.2.cause == c).map Prod.fst)
      if c = 7 then trapAt s x 7 m (loOf va) (hiOf va) else accessFault s x c h write m va
    | _ => k (r.filterMap fun p => match p.2.2 with | .ok e pa => some ⟨p.1, p.2.1.toNat, e, pa⟩ | _ => none) s
/-- The checks of an access of the executing split. -/
def withChecks (s : State) (x : Ex) (a : Access) (classes : List Nat) (z : Nat) (l : List (Nat × DWord))
    (k : List LaneOk → State → Out) : Out :=
  let r := s.checkLanes x.core x.gr.ctx x.waiter a classes z l
  checked r.2 x a.write r.1 k

/-- The lanes that touch one line through one class. -/
structure LineUse where
  pa : Nat
  cls : Nat
  lease : Nat
  lanes : List LaneOk
  deriving DecidableEq, Repr
def putUse : List LineUse → LaneOk → List LineUse
  | [], k => [⟨lineAddr k.pa, pteClass k.pte, pteLease k.pte, [k]⟩]
  | u :: t, k =>
    if u.pa = lineAddr k.pa ∧ u.cls = pteClass k.pte then { u with lanes := u.lanes ++ [k] } :: t else u :: putUse t k
/-- The virtual addresses that the lanes of a use name, by line. -/
def LineUse.vas (u : LineUse) : List Nat := (u.lanes.map fun k => lineAddr k.va).eraseDups
/-- The distinct lines of an instruction (R229). -/
def lineUses (l : List LaneOk) : List LineUse := l.foldl putUse []

/-! ### What an access waits for at issue -/

/-- An access that later accesses of the core to the line wait for (R218, R240). -/
def ReqOp.orders : ReqOp → Bool
  | .ld .. => true
  | .test .. => true
  | .st .. => true
  | .atom .. => true
  | .red .. => true
  | _ => false
def ReqOp.isOrd : ReqOp → Bool
  | .redOrd .. => true
  | _ => false
/-- A request in flight keeps the line from a later access of this split. -/
def Req.blocks (r : Req) (x : Ex) (pa : Nat) : Bool :=
  decide (r.pa = pa) &&
    ((r.op.orders && decide (r.who.core = x.core ∧ r.who.ctx = x.gr.ctx)) ||
     (r.op.isOrd && decide (r.who.uid = x.gr.uid ∧ r.who.entry = x.entry)))
def State.lineBusy (s : State) (x : Ex) (pa : Nat) : Bool := s.fly.reqs.any fun r => r.2.blocks x pa
/-- An instruction of another split of the group has issued before this one and waits READY (R82). -/
def State.earlier (s : State) (x : Ex) (f : Instr → Bool) : Bool :=
  x.gr.splits.any fun e => e.2.going && (match e.2.latch with | some l => decide (l.seq < x.seq s.nextId) && f l.instr | none => false)
/-- The maker of a request is of the group, and issued before this instruction (R239). -/
def State.before (s : State) (x : Ex) (w : Owner) : Bool := decide (w.uid = x.gr.uid ∧ w.seq < x.seq s.nextId)
/-- ATOM and SATOM with acquire order. -/
def isAcquire : Instr → Bool
  | .atom o => o.order.toNat % 2 == 1
  | .satom o => o.order.toNat % 2 == 1
  | _ => false
/-- An ATOM with acquire order of the group has no result yet: later accesses wait (R82). -/
def ReqOp.acquires : ReqOp → Bool
  | .atom _ _ _ o _ => o % 2 == 1
  | _ => false
def State.acqBusy (s : State) (x : Ex) : Bool :=
  (s.fly.reqs.any fun r => r.2.op.acquires && s.before x r.2.who) ||
  (s.fly.touches.any fun t => s.before x t.2.who && (match t.2.op with | .satom _ _ _ o _ => o % 2 == 1 | _ => false)) ||
  s.earlier x isAcquire
/-- The outstanding line misses and line stores of a core (R229). -/
def ReqOp.isMiss : ReqOp → Bool
  | .ld .. => true
  | .test .. => true
  | .pref => true
  | .prefEx => true
  | _ => false
def ReqOp.isSt : ReqOp → Bool
  | .st .. => true
  | _ => false
def State.missCount (s : State) (core : Nat) : Nat :=
  (s.fly.reqs.filter fun r => r.2.op.isMiss && decide (r.2.who.core = core)).length
def State.storeCount (s : State) (core : Nat) : Nat :=
  (s.fly.reqs.filter fun r => r.2.op.isSt && decide (r.2.who.core = core)).length

/-- A request put in flight. -/
def State.send (s : State) (r : Req) : State :=
  { s.fresh with fly := { s.fly with reqs := mset s.fly.reqs s.nextId r } }
def State.setReq (s : State) (id : Nat) (r : Req) : State := { s with fly := { s.fly with reqs := mset s.fly.reqs id r } }
def State.dropReq (s : State) (id : Nat) : State := { s with fly := { s.fly with reqs := mdel s.fly.reqs id } }

/-! ### Values in lines -/

/-- z bytes of a line from byte o: each poisoned word reads as 0; and whether one was met (R232). -/
def lineValue (d : Line) (p : BitVec 16) (o z : Nat) : Nat × Bool :=
  let bs := (List.range z).map fun i => if p.getLsbD ((o + i) / 4) then (0 : Byte) else lineByte d (o + i)
  (leNat bs, (List.range z).any fun i => p.getLsbD ((o + i) / 4))
/-- A loaded value in registers: 8- and 16-bit results fill one register (R232). -/
def Lane.load (ln : Lane) (d z : Nat) (sx : Bool) (v : Nat × Bool) : Lane :=
  let n := if sx ∧ v.1.testBit (8 * z - 1) then v.1 + (2 ^ 32 - 2 ^ (8 * z)) else v.1
  (ln.setVs d ((List.range (max 1 (z / 4))).map fun i => toW (n / 2 ^ (32 * i)))).raise (if v.2 then 0x20 else 0)
/-- The bytes that a lane stores. -/
def Lane.storeBytes (ln : Lane) (d z : Nat) : List Byte :=
  leBytes z ((List.range (max 1 (z / 4))).foldl (fun n i => n + (ln.v (d + i)).toNat * 2 ^ (32 * i)) 0)
/-- The masked line of the lanes of one use, a later lane's bytes over an earlier one's (R234). -/
def storeLine (g : Group) (d z : Nat) (l : List LaneOk) : Line × BitVec 64 :=
  l.foldl (fun (acc : Line × BitVec 64) k =>
    let p := placeBytes (k.pa % 64) ((g.lane k.lane).storeBytes d z)
    (blend acc.1 p.1 p.2, acc.2 ||| p.2)) (0, 0)
/-- An L1 line with masked bytes written: whole words take their poison from the write (R234). -/
def L1Line.write (l : L1Line) (d : Line) (m : BitVec 64) : L1Line :=
  { l with data := blend l.data d m, poison := l.poison &&& ~~~ (wordsWhole m) }

/-! ### LD (R231, R232) -/

/-- A first demand access to a prefetched line counts it used (R230). -/
def State.usePref (s : State) (core pa : Nat) : State :=
  match mget (s.core core).l1 pa with
  | some l => if l.pref then
      (s.bump core .pfused).modCore core fun k => { k with l1 := mset k.l1 pa { l with pref := false } } else s
  | none => s
/-- The L1 line that serves a load now: a D-class copy, or an L-class copy within its lease (R219, R224). -/
def State.l1Hit (s : State) (x : Ex) (u : LineUse) : Option L1Line :=
  match mget (s.core x.core).l1 u.pa with
  | some l =>
    if u.cls = 0 ∧ l.st ≠ .lease then some l
    else if u.cls = 1 ∧ l.st = .lease ∧ s.pts x.core x.gr.ctx ≤ l.rts then some l
    else none
  | none => none
/-- Marks a copy that a last use has read (R232). -/
def State.markLu (s : State) (core pa : Nat) (lu : Bool) : State :=
  if lu then s.modCore core fun k => { k with l1 := mmod k.l1 pa fun l => { l with lu := true } } else s
/-- Registers of the lanes of a use written at once. -/
def Group.loadNow (g : Group) (d z : Nat) (sx : Bool) (l : L1Line) (ks : List LaneOk) : Group :=
  ks.foldl (fun g k => g.modLane k.lane fun ln => ln.load d z sx (lineValue l.data l.poison (k.pa % 64) z)) g

/-- A prefetch of a core into its L1, still outstanding, that a demand access of a line joins: its reply is not given up, and an
L-class reply already on its way holds for the program time (R224, R230). -/
def Req.joinable (r : Req) (core ctx pa cls pts : Nat) : Bool :=
  decide (r.pa = pa ∧ r.cls = cls ∧ r.who.core = core ∧ r.who.ctx = ctx ∧ (r.op = .pref ∨ r.op = .prefEx)) && !r.stale &&
  (decide (cls = 0) || r.phase != .back || decide (pts ≤ r.rts))
def State.prefetching (s : State) (x : Ex) (pa cls : Nat) : Option (Nat × Req) :=
  s.fly.reqs.find? fun r => r.2.joinable x.core x.gr.ctx pa cls (s.pts x.core x.gr.ctx)
/-- The request of one line of a load; it joins a prefetch of the core that is outstanding (R230). -/
def State.loadReq (s : State) (x : Ex) (iid : Nat) (d z : Nat) (sx cb lu : Bool) (u : LineUse) : State :=
  let lanes := u.lanes.map fun k => (⟨k.lane, k.pa % 64, 0, 0⟩ : LaneAcc)
  let p := s.pts x.core x.gr.ctx
  let op := fun (ex : Bool) => ReqOp.ld z d sx cb lu ex
  match s.prefetching x u.pa u.cls, cb with
  | some (i, r), false => (s.bump x.core .pflate (if r.used then 0 else 1)).setReq i
      { r with who := x.owner iid, op := op (r.op == .prefEx), lanes := lanes, vas := u.vas, objs := s.objsOf x.gr.ctx u.vas, pts := max p r.pts }
  | _, _ => s.send { who := x.owner iid, op := op false, pa := u.pa, cls := u.cls, lease := u.lease, pts := p, lanes := lanes,
                     vas := u.vas, objs := s.objsOf x.gr.ctx u.vas }
/-- A store to a line that the core is prefetching joins the prefetch (R230). -/
def State.joinPref (s : State) (x : Ex) (pa cls : Nat) : State :=
  match s.prefetching x pa cls with
  | some (i, r) => if r.used then s else (s.bump x.core .pflate).setReq i { r with used := true }
  | none => s

/-- One line of a load: a hit delivers at once, a miss or a bypass sends a request (R217, R219, R224, R228). What a hit delivers is
never in flight, so it opens no window and a touch of it counts no lookahead violation (R60; log 91). -/
def State.loadLine (s : State) (x : Ex) (iid d z : Nat) (sx cb lu : Bool) (u : LineUse) : State :=
  match (if cb ∨ 2 ≤ u.cls then none else s.l1Hit x u) with
  | some l =>
    let s := (((s.bump x.core .l1hit).usePref x.core u.pa).markLu x.core u.pa lu).raisePts x.core x.gr.ctx
      (if u.cls = 1 then l.wts else 0)
    s.modGroup x.core x.slot fun g => g.loadNow d z sx l u.lanes
  | none =>
    let looked := !cb && decide (u.cls ≤ 1)
    let renew := looked && decide (u.cls = 1) && (mget (s.core x.core).l1 u.pa).isSome
    let s := (s.bump x.core .l1miss (if looked then 1 else 0)).bump x.core .lrenew (if renew then 1 else 0)
    let s := s.loadReq x iid d z sx cb lu u
    s.modGroup x.core x.slot fun g => { g with pend := g.pend ++ (u.lanes.flatMap fun k =>
      (List.range (max 1 (z / 4))).map fun i => (⟨iid, some k.lane, .v (d + i)⟩ : Pend)) }

/-- The window of an instruction whose results come later opens (R60). -/
def Group.window (g : Group) (e iid la : Nat) : Group :=
  if g.pend.any fun p => p.iid == iid then g.modSplit e fun sp => { sp with wins := (iid, la) :: sp.wins } else g

/-- The line misses that a load makes: lines without a hit that join no prefetch (R229). -/
def State.loadMisses (s : State) (x : Ex) (cb : Bool) (us : List LineUse) : Nat :=
  (us.filter fun u => cb || decide (2 ≤ u.cls) || ((s.l1Hit x u).isNone && (s.prefetching x u.pa u.cls).isNone)).length
def execLd (o : LmO) (s : State) : Out :=
  onSplit s fun x =>
    let act := x.active o.g
    let z := 2 ^ o.z.toNat
    if act = 0 then .next (s.done x (offLen o.off) id)
    else
      withChecks s x {} [0, 1, 2, 3] z ((lanesOf act).map fun l => (l, laneAddr (x.gr.lane l) o.a (offWord o.off))) fun ks s =>
        let us := lineUses ks
        if s.acqBusy x || us.any (fun u => s.lineBusy x u.pa) || decide (s.missCount x.core + s.loadMisses x o.s us > 256) then
          hold s
        else
          let iid := s.nextId
          let s := us.foldl (fun s u => s.loadLine x iid o.d.toNat z (o.k == 1) o.s (o.k == 2) u) s.fresh
          .next (s.done x (offLen o.off) fun g => g.window x.entry iid o.l.toNat)

/-! ### ST (R233, R234) -/

/-- The store is written into a line that the L1 holds in M, and is performed at once (R217, R219). -/
def State.storesHere (s : State) (x : Ex) (u : LineUse) (words : BitVec 16) : Bool :=
  match mget (s.core x.core).l1 u.pa with
  | some l => decide (u.cls = 0 ∧ l.st = .modified) && s.sharers u.pa words == []
  | none => false
/-- One line of a store: bytes and mask. A store after a FENCE.rel sets the line's sync time (R243, R246). -/
def State.storeUse (s : State) (x : Ex) (iid d z : Nat) (lu : Bool) (u : LineUse) : State :=
  let w := storeLine x.gr d z u.lanes
  let pts := s.pts x.core x.gr.ctx
  let req := fun (inL1 : Bool) => ({
    who := x.owner iid, op := .st lu inL1, pa := u.pa, cls := u.cls, lease := u.lease, pts := pts, data := w.1, mask := w.2,
    vas := u.vas, objs := s.objsOf x.gr.ctx u.vas, fenced := x.gr.fenced } : Req)
  match mget (s.core x.core).l1 u.pa with
  | some l =>
    let here := s.storesHere x u (wordsTouched w.2)
    let s := (s.bump x.core .l1hit (if u.cls ≤ 1 then 1 else 0)).usePref x.core u.pa
    if here then
      let s := s.modCore x.core fun k => { k with l1 := mmod k.l1 u.pa fun l => l.write w.1 w.2 }
      if x.gr.fenced then s.takeSline u.pa fun l => { l with sts := max l.sts pts } else s
    else if u.cls = 1 ∧ l.st = .lease then
      if lu then (s.dropCopy x.core u.pa).send (req false)
      else (s.modCore x.core fun k =>
        { k with l1 := mmod k.l1 u.pa fun l => { l.write w.1 w.2 with wr := s.nextId :: l.wr } }).send (req true)
    else (s.joinPref x u.pa u.cls).send (req false)
  | none => ((s.bump x.core .l1miss (if u.cls ≤ 1 then 1 else 0)).joinPref x u.pa u.cls).send (req false)

/-- The line stores that a store sends (R229). -/
def State.storesSent (s : State) (x : Ex) (d z : Nat) (us : List LineUse) : Nat :=
  (us.filter fun u => !s.storesHere x u (wordsTouched (storeLine x.gr d z u.lanes).2)).length
def execSt (o : StO) (s : State) : Out :=
  onSplit s fun x =>
    let act := x.active o.g
    let z := 2 ^ o.z.toNat
    if act = 0 then .next (s.done x (offLen o.off) id)
    else
      withChecks s x { write := true } [0, 1, 2, 3] z
          ((lanesOf act).map fun l => (l, laneAddr (x.gr.lane l) o.a (offWord o.off))) fun ks s =>
        let us := lineUses ks
        if s.acqBusy x || us.any (fun u => s.lineBusy x u.pa) || decide (s.storeCount x.core + s.storesSent x o.d.toNat z us > 64) then
          hold s
        else
          let iid := s.nextId
          let s := us.foldl (fun s u => s.storeUse x iid o.d.toNat z (o.k == 2) u) s.fresh
          .next (s.done x (offLen o.off) id)

/-! ### PREF (R235, R236) -/

/-- A prefetch of the line is outstanding already. -/
def State.prefBusy (s : State) (core ctx pa : Nat) : Bool :=
  s.fly.reqs.any fun r => r.2.op.isMiss && decide (r.2.pa = pa ∧ r.2.who.core = core ∧ r.2.who.ctx = ctx)
/-- The line is present where the prefetch would bring it. -/
def State.prefThere (s : State) (x : Ex) (k : Nat) (u : LineUse) : Bool :=
  if k = 1 then (mget s.mem.lines u.pa).isSome
  else match mget (s.core x.core).l1 u.pa with
    | some l => if u.cls = 0 then (l.st == .modified || (k == 0 && l.st == .shared))
                else l.st == .lease && decide (s.pts x.core x.gr.ctx ≤ l.rts)
    | none => false
/-- One line of a prefetch: dropped, or looked up (R229) and present or requested. -/
def State.prefLine (s : State) (x : Ex) (k : Nat) (u : LineUse) : State :=
  if 2 ≤ u.cls then s.bump x.core .pfdrop
  else
  let s := s.bump x.core (if s.prefThere x 0 u then .l1hit else .l1miss)
  if s.prefThere x k u || s.prefBusy x.core x.gr.ctx u.pa then s
  else if s.missCount x.core ≥ 256 then s.bump x.core .pfdrop
  else
    let op := if k = 1 then ReqOp.prefLlc else if k = 2 ∧ u.cls = 0 then .prefEx else .pref
    (s.bump x.core (if k = 1 then .pfllc else .pfiss)).send
      { who := x.owner s.nextId, op := op, pa := u.pa, cls := u.cls, lease := u.lease, pts := s.pts x.core x.gr.ctx }
/-- The lanes whose line cannot be used, by distinct line of the virtual address. -/
def badLines (r : List (Nat × DWord × LaneChk)) : Nat :=
  ((r.filter fun p => p.2.2.cause != 0).map fun p => p.2.1.toNat / 64).eraseDups.length

def execPref (o : PfO) (s : State) : Out :=
  onSplit s fun x =>
    let act := x.active o.g
    let k := o.k.toNat
    let r := s.checkLanes x.core x.gr.ctx x.waiter { write := k == 2 } [0, 1, 2, 3] 1
      ((lanesOf act).map fun l => (l, laneAddr (x.gr.lane l) o.a (offWord o.off)))
    if r.1.any fun p => p.2.2 == .miss then hold r.2
    else
      let ks := r.1.filterMap fun p => match p.2.2 with | .ok e pa => some (⟨p.1, p.2.1.toNat, e, pa⟩ : LaneOk) | _ => none
      let s := (lineUses ks).foldl (fun s u => s.prefLine x k u) (r.2.bump x.core .pfdrop (badLines r.1))
      .next (s.done x (offLen o.off) id)

/-! ### CLINE (R237, R238) -/

/-- A write-back of the M copy of a core, on behalf of an owner. -/
def State.writeBack (s : State) (who : Owner) (pa : Nat) (cline : Bool) : State :=
  match mget (s.core who.core).l1 pa with
  | some l => s.send { who := who, op := .wb cline, pa := pa, cls := 0, lease := 0, pts := 0, data := l.data,
                       mask := BitVec.allOnes 64, poison := l.poison }
  | none => s
/-- CLINE on one line. -/
def State.clineUse (s : State) (x : Ex) (k : Nat) (u : LineUse) : State :=
  let who := x.owner s.nextId
  match mget (s.core x.core).l1 u.pa with
  | some l =>
    if k = 0 then
      if l.st = .modified then
        (s.writeBack who u.pa true).modCore x.core fun c => { c with l1 := mset c.l1 u.pa { l with st := .shared } }
      else s
    else (if l.st = .modified then s.writeBack who u.pa true else s).dropCopy x.core u.pa
  | none => s
/-- The mark of an instruction whose first part has been done. -/
def State.setHalf (s : State) (x : Ex) (n : Nat) : State :=
  s.modGroup x.core x.slot fun g => g.modSplit x.entry fun sp => { sp with half := n }
/-- Write-backs of CLINE that the group has in flight. -/
def State.clineBusy (s : State) (x : Ex) : Bool :=
  s.fly.reqs.any fun r => decide (r.2.op = .wb true ∧ r.2.who.uid = x.gr.uid ∧ r.2.who.entry = x.entry)

def execCline (o : PfO) (s : State) : Out :=
  onSplit s fun x =>
    let act := x.active o.g
    let k := o.k.toNat
    if act = 0 then .next (s.done x (offLen o.off) id)
    else
      withChecks s x { write := k == 1, fetch := k == 2 && false } (if k = 2 then [0, 1] else [0, 1, 2, 3]) 1
          ((lanesOf act).map fun l => (l, laneAddr (x.gr.lane l) o.a (offWord o.off))) fun ks s =>
        let us := (lineUses ks).filter fun u => decide (u.cls ≤ 1)
        if x.sp.half = 1 then (if s.clineBusy x then waitOn s x .poll else .next (s.done x (offLen o.off) id))
        else if us.any (fun u => s.lineBusy x u.pa) then hold s
        else if k = 2 then
          .next ((s.modCore x.core fun c => { c with icache := us.foldl (fun m u => mdel m u.pa) c.icache }).done x (offLen o.off) id)
        else
          let s := us.foldl (fun s u => s.clineUse x k u) s
          if s.clineBusy x then waitOn (s.setHalf x 1) x .poll else .next (s.done x (offLen o.off) id)

/-! ### Probes (R219, R220) -/

/-- A reply that brings the line to a core is on its way. -/
def Req.fillsL1 (r : Req) (core pa : Nat) : Bool :=
  decide (r.pa = pa ∧ r.who.core = core ∧ r.cls = 0) && r.phase == .back &&
    (match r.op with | .ld _ _ _ cb _ _ => !cb | .test .. => true | .pref => true | .prefEx => true | .st lu _ => !lu | _ => false)
def State.fillOut (s : State) (core pa : Nat) : Bool := s.fly.reqs.any fun r => r.2.fillsL1 core pa
/-- A probe sent; one that finds a fill outstanding is counted as held (R230). -/
def State.sendProbe (s : State) (core pa req : Nat) (write : Bool) : State :=
  let held := s.fillOut core pa
  let s := s.bump core .probehold (if held then 1 else 0)
  { s.fresh with fly := { s.fly with probes := mset s.fly.probes s.nextId ⟨core, pa, write, req, held⟩ } }
/-- The directory's note of a copy goes. -/
def State.unhold (s : State) (pa core : Nat) : State :=
  match mget s.mem.lines pa with
  | some _ => s.modSline pa fun d => { d with holders := d.holders.filter fun c => c ≠ core }
  | none => s
/-- L1_PROBE: a probe applies, once no fill of its line is outstanding. -/
def execL1Probe (id : Nat) (s : State) : Out :=
  match mget s.fly.probes id with
  | none => .refused .eventNotDue
  | some p =>
    if s.fillOut p.core p.pa then .refused .eventNotDue
    else
      let s := { s with fly := { s.fly with probes := mdel s.fly.probes id } }
      match mget (s.core p.core).l1 p.pa with
      | none => .next s
      | some l =>
        let s := if l.st = .modified then s.putLine p.pa l.data l.poison else s
        if p.write then
          if l.st = .lease then .next s
          else .next ((s.dropCopy p.core p.pa).unhold p.pa p.core)
        else if l.st = .modified then
          .next (s.modCore p.core fun k => { k with l1 := mset k.l1 p.pa { l with st := .shared } })
        else .next s

/-- Probes that a request needs at the directory: the core and whether the copy is given up. -/
def State.needed (s : State) (r : Req) : List (Nat × Bool) :=
  if r.cls ≠ 0 then []
  else
    let h := (s.sline r.pa).holders
    let others := (h.filter fun c => c ≠ r.who.core).map fun c => (c, true)
    let owner := match s.ownerOf r.pa with | some (c, _) => [(c, false)] | none => []
    match r.op with
    | .ld _ _ _ _ _ ex => if ex then others else owner
    | .pref => owner
    | .prefEx => others
    | .st lu _ => if lu then h.map fun c => (c, true) else others
    | .sfill => owner
    | .test _ ex => if ex then others else owner
    | .wb _ => []
    | .prefLlc => []
    | _ => h.map fun c => (c, true)
/-- Ownership of the line is on its way to an L1: the line waits at its home slice until it has arrived (R219, R236). -/
def Req.granted (r : Req) : Bool :=
  r.phase == .back && decide (r.cls = 0) && !r.stale &&
    (match r.op with | .st lu _ => !lu | .prefEx => true | .ld _ _ _ _ _ ex => ex | .test _ ex => ex | _ => false)
def ReqOp.isFill : ReqOp → Bool
  | .sfill => true
  | _ => false
/-- Another request holds the line at its home slice, a write-back of it is on its way, or its probes are not answered. A fill of
scratch does not wait for ownership on its way, whose words the store probes as it arrives (R181). -/
def State.sliceBusy (s : State) (id : Nat) (r : Req) : Bool :=
  (s.fly.reqs.any fun q => decide (q.1 ≠ id ∧ q.2.pa = r.pa) &&
    (q.2.lineWb r.pa || (q.2.probed && q.2.phase == .out) || (q.2.granted && !r.op.isFill))) ||
  (s.fly.probes.any fun p => decide (p.2.req = id)) || s.fly.scrProbes.any fun p => decide (p.2.req = id)
/-- A read of the line at its slice. -/
def ReqOp.reads : ReqOp → Bool
  | .ld .. => true
  | .pref => true
  | .prefEx => true
  | .prefLlc => true
  | .sfill => true
  | .test .. => true
  | _ => false
/-- A read that takes a lease: an L1 miss, a renewal or PREF; LD.cb and scratch fills do not (R223). -/
def ReqOp.leases : ReqOp → Bool
  | .ld _ _ _ cb _ _ => !cb
  | .test .. => true
  | .pref => true
  | .prefEx => true
  | _ => false
/-- The limit of the times of a slice (R226). -/
def timeLimit : Nat := 2 ^ 48 - 2 ^ 20
/-- The time that a lease gives a line: no less than its own, and a lease beyond its write and the program's time (R223). -/
def SliceLine.leased (l : SliceLine) (r : Req) : Nat := max l.rts (max (l.wts + r.lease) (r.pts + r.lease))
/-- An L-class request at its slice that would make a time pass the limit. -/
def State.passesLimit (s : State) (r : Req) : Bool :=
  r.cls == 1 && (r.phase == .out || r.phase == .pending) &&
    decide (timeLimit < if r.op.reads then (if r.op.leases then (s.sline r.pa).leased r else 0) else max r.pts ((s.sline r.pa).rts + 1))
/-- A time wrap is due: a request, or the next write of a line, would make a time pass the limit (R226). -/
def State.timesFull (s : State) : Bool :=
  (s.fly.reqs.any fun r => s.passesLimit r.2) || (s.mem.lines.any fun l => decide (timeLimit ≤ l.2.rts)) ||
  s.mem.slices.any fun t => decide (timeLimit ≤ t.2.mts)
/-- A request at its home slice: it waits, or sends its probes in this step, or is served. -/
def atSlice (s : State) (id : Nat) (r : Req) (serve : State → Out) : Out :=
  if (r.phase ≠ .out ∧ r.phase ≠ .pending) ∨ s.sliceBusy id r = true ∨ (r.cls = 1 ∧ s.timesFull = true) then .refused .eventNotDue
  else if r.probed then serve (s.makeRoom r.pa)
  else
    match s.needed r with
    | [] => serve (s.makeRoom r.pa)
    | ps => .next ((ps.foldl (fun s p => s.sendProbe p.1 r.pa id p.2) s).setReq id { r with probed := true })

/-! ### Reads at the home slice (R219, R221, R223) -/

/-- A D-class read that the directory registers. -/
def ReqOp.registers : ReqOp → Bool
  | .ld _ _ _ cb _ _ => !cb
  | .test .. => true
  | .pref => true
  | .prefEx => true
  | _ => false
/-- The read served: the reply carries the data and the times. -/
def State.serveRead (s : State) (id : Nat) (r : Req) : State :=
  if s.lostLink r.pa then s.setReq id { r with phase := .back, data := 0, poison := BitVec.allOnes 16 }
  else
    let d := s.lineData r.who.ctx r.pa
    let l := s.sline r.pa
    let rts := if r.cls = 1 ∧ r.op.leases then l.leased r else l.rts
    let h := if r.cls = 0 ∧ r.op.registers ∧ r.who.core ∉ l.holders then r.who.core :: l.holders else l.holders
    (s.modSline r.pa fun l => { l with rts := rts, holders := h, lclass := l.lclass || decide (r.cls = 1) }).setReq id
      { r with phase := .back, data := d.1, poison := d.2, wts := l.wts, rts := rts, sts := l.sts }
/-- A read of the line is pending toward memory, and no write acknowledgement of the slice has overtaken it (R221). -/
def State.mergesRead (s : State) (id pa : Nat) : Bool :=
  s.fly.reqs.any fun q => decide (q.1 ≠ id ∧ q.2.pa = pa) && q.2.phase == .pending && !q.2.overtaken
/-- SLICE_READ: a read at its home slice. Of a line that the slice does not hold, it goes on toward memory, or is merged into a
read that is pending there, and is served when the data has come (R221). A prefetch into the slice ends here. -/
def execSliceRead (id vict : Nat) (s : State) : Out :=
  match mget s.fly.reqs id with
  | none => .refused .eventNotDue
  | some r =>
    if r.op.reads ∧ r.cls ≤ 1 then
      if r.phase = .out ∧ mget s.mem.lines r.pa = none ∧ s.sliceBusy id r = false then
        .next ((s.bump r.who.core .rdmerge (if s.mergesRead id r.pa then 1 else 0)).setReq id { r with phase := .pending })
      else
        atSlice s id r fun s =>
          let s := s.evictSlice vict
          if r.op = .prefLlc then .next ((s.modSline r.pa fun l => l).dropReq id) else .next (s.serveRead id r)
    else .refused .eventNotDue

/-! ### Replies at the L1 (R219, R224, R225) -/

/-- A line leaves an L1: M is written back. -/
def State.dropL1 (s : State) (core pa : Nat) : State :=
  match mget (s.core core).l1 pa with
  | none => s
  | some l =>
    let s := if l.st = .modified then s.writeBack ⟨core, 0, 0, 0, 0, 0, 0, 0⟩ pa false else s
    s.dropCopy core pa
/-- The lines that an L1 holds under a partition code (R110). -/
def l1Lines (code : Nat) : Nat := if code = 6 ∨ code = 7 then 2048 else 4096
/-- The line of an L1 that gives way: one of last use where there is one, else the one named (R232). -/
def State.victimL1 (s : State) (core named : Nat) : Nat :=
  match (s.core core).l1.find? fun p => p.2.lu with
  | some p => if (mget (s.core core).l1 named).any fun l => l.lu then named else p.1
  | none => named
/-- The environment lets an L1 give up a line (0: none). -/
def State.evictL1 (s : State) (core vict : Nat) : State :=
  if vict = 0 then s else s.dropL1 core (s.victimL1 core (vict - 1))
/-- A full L1 gives up a line, of its choice, before it takes another. -/
def State.roomL1 (s : State) (core pa : Nat) : State :=
  let l := (s.core core).l1
  if (mget l pa).isSome || decide (l.length < l1Lines (s.core core).part) then s
  else { s with freed := s.freed + 1 }.dropL1 core
    (s.victimL1 core ((l.map Prod.fst).getD ((Config.freeWord s.freed).toNat % l.length) 0))
/-- The base that serves a line's home (R225). -/
def State.baseOf (s : State) (core pa : Nat) : Nat := mgetD (s.core core).bases (s.slice pa % 128) 0
/-- An L-class copy arrives: the base moves up to reach its rts, copies left below it are lost, and the rest have their wts
raised to it; a copy whose rts lies below the base is not kept (R225). -/
def State.installLease (s : State) (core pa : Nat) (l : L1Line) : State :=
  let b := s.baseOf core pa
  if l.rts < b then s
  else if l.rts ≤ b + 0xFFFF then s.modCore core fun k => { k with l1 := mset k.l1 pa { l with wts := max l.wts b } }
  else
    let b' := l.rts - 0xFFFF
    let same := fun (q : Nat) (m : L1Line) => m.st == .lease && decide (s.slice q % 128 = s.slice pa % 128)
    let gone := ((s.core core).l1.filter fun p => same p.1 p.2 && decide (p.2.rts < b')).map Prod.fst
    let s := gone.foldl (fun s q => s.dropCopy core q) (s.bump core .lrebase)
    s.modCore core fun k => { k with
      bases := mset k.bases (s.slice pa % 128) b',
      l1 := mset (mall k.l1 fun q m => if same q m then { m with wts := max m.wts b' } else m) pa { l with wts := max l.wts b' } }
/-- The line of a reply kept in the L1. A D-class copy that the L1 holds already is current, and stays (R219, R240). -/
def State.install (s : State) (r : Req) : State :=
  let pref := !r.used && (match r.op with | .pref => true | .prefEx => true | _ => false)
  let lu := match r.op with | .ld _ _ _ _ lu _ => lu | _ => false
  let ex := match r.op with | .prefEx => true | .ld _ _ _ _ _ ex => ex | .test _ ex => ex | _ => false
  if r.stale || s.lostLink r.pa then s
  else
    let s := s.roomL1 r.who.core r.pa
    if r.cls = 0 then
      let new : L1Line := { st := if ex then .modified else .shared, data := r.data, poison := r.poison, lu := lu, pref := pref }
      s.modCore r.who.core fun k => { k with l1 := mset k.l1 r.pa (match mget k.l1 r.pa with
        | some l => if l.st = .lease then new else { l with st := if ex then .modified else l.st, lu := l.lu || lu }
        | none => new) }
    else s.installLease r.who.core r.pa
      { st := .lease, data := r.data, poison := r.poison, wts := r.wts, rts := r.rts, lu := lu, pref := pref }
/-- The registers that a load's reply writes. -/
def Group.loadReply (g : Group) (r : Req) (z d : Nat) (sx : Bool) : Group :=
  if g.uid ≠ r.who.uid then g
  else r.lanes.foldl (fun g k => g.deliver r.who.iid k.lane fun ln => ln.load d z sx (lineValue r.data r.poison k.off z)) g
/-- L1_REPLY: the reply of a load, a prefetch or a lane test; LD.cb is a read acquire and takes the line's sync time (R243, R246). -/
def execL1Reply (id vict : Nat) (s : State) : Out :=
  match mget s.fly.reqs id with
  | none => .refused .eventNotDue
  | some r =>
    if r.phase ≠ .back then .refused .eventNotDue
    else
      match r.op with
      | .ld z d sx cb _ _ =>
        let s := s.dropReq id
        let s := if !cb && decide (r.cls ≤ 1) then (s.evictL1 r.who.core vict).install r else s
        let s := if r.cls = 1 then s.raisePts r.who.core r.who.ctx r.wts else s
        let s := if cb then s.raisePts r.who.core r.who.ctx r.sts else s
        .next (s.modGroup r.who.core r.who.slot fun g => g.loadReply r z d sx)
      | .pref => .next (((s.dropReq id).evictL1 r.who.core vict).install r)
      | .prefEx => .next (((s.dropReq id).evictL1 r.who.core vict).install r)
      | .test i _ =>
        let s := s.dropReq id
        let s := if r.cls ≤ 1 then (s.evictL1 r.who.core vict).install r else s
        let s := if r.cls = 1 then s.raisePts r.who.core r.who.ctx r.wts else s
        .next { s with fly := { s.fly with tests := mmod s.fly.tests i fun t => { t with got := mset t.got r.pa ⟨r.data, r.poison⟩ } } }
      | _ => .refused .eventNotDue

/-! ### Stores at the home slice (R219, R223) -/

/-- Replies on their way to an L1 that obtains ownership of the line are not kept. -/
def State.staleReplies (s : State) (core pa : Nat) : State :=
  let mark := fun (r : Req) => if r.filling pa && decide (r.who.core = core) then { r with stale := true } else r
  { s with fly := { s.fly with reqs := mall s.fly.reqs fun _ r => mark r } }
/-- A store takes place at its home slice: memory takes the bytes, or the L1 obtains ownership (keep). The acknowledgement of an
L-class store tells also the write time that the line had before it. -/
def State.serveStore (s : State) (id : Nat) (r : Req) (own : Option (Nat × Nat)) (keep : Bool) : State :=
  let before := (s.sline r.pa).wts
  let s := (s.probeScratch r.pa (wordsTouched r.mask) id own).overtake r.pa
  let s := if keep then (s.staleReplies r.who.core r.pa).modSline r.pa fun l => { l with holders := [r.who.core] }
           else { s with mem := s.mem.store r.pa r.data r.mask r.poison }
  let s := if r.fenced then s.modSline r.pa fun l => { l with sts := max l.sts r.pts } else s
  let s := if r.cls = 1 then s.modSline r.pa fun l => l.stored r.pts else s
  s.setReq id { r with phase := .back, probed := true, wts := if r.cls = 1 then (s.sline r.pa).wts else 0, rts := before }
/-- SLICE_STORE: a store, a write-back or a scratch write-back at its home slice. -/
def execSliceStore (id : Nat) (s : State) : Out :=
  match mget s.fly.reqs id with
  | none => .refused .eventNotDue
  | some r =>
    if 2 ≤ r.cls then .refused .eventNotDue
    else
      let serve := fun (own : Option (Nat × Nat)) (keep : Bool) => atSlice s id r fun s =>
        if s.lostLink r.pa then .next ((s.lostStore r.who.ctx r.pa).setReq id { r with phase := .back })
        else .next (s.serveStore id r own keep)
      match r.op with
      | .st lu _ => serve none (decide (r.cls = 0) && !lu)
      | .swb c off => serve (some (c, off)) false
      | .wb _ => if r.phase = .out then .next (s.landWb r.pa) else .refused .eventNotDue
      | _ => .refused .eventNotDue

/-- Ownership arrives with the store: the L1 holds the line in M with the bytes written (R217, R219). -/
def State.ownLine (s : State) (r : Req) : State :=
  let d := s.lineData r.who.ctx r.pa
  let l : L1Line := { st := .modified, data := d.1, poison := d.2 }
  let s := s.roomL1 r.who.core r.pa
  (s.modCore r.who.core fun k => { k with l1 := mset k.l1 r.pa (l.write r.data r.mask) }).takeSline r.pa fun d =>
    { d with holders := if r.who.core ∈ d.holders then d.holders else r.who.core :: d.holders }
/-- The acknowledgement of an L-class store: the copy that the store was written into takes the acknowledged time (R224, R225). A
copy that lacks an earlier write of another agent to the line, as its write time tells, gives way: with the new time it would
serve that write's bytes as they were before (R240, R245; log 84). -/
def State.ackLease (s : State) (id : Nat) (r : Req) : State :=
  match mget (s.core r.who.core).l1 r.pa with
  | some l =>
    if l.st = .lease ∧ id ∈ l.wr then
      let s := s.modCore r.who.core fun k => { k with l1 := mdel k.l1 r.pa }
      if l.wts ≠ r.rts then s
      else s.installLease r.who.core r.pa { l with wts := r.wts, rts := r.wts, wr := l.wr.filter fun i => i ≠ id }
    else s
  | none => s
/-- STORE_ACK: the store or write-back is performed and its note goes (R217); a D-class store that finds new sharers in scratch
probes them first (R181). -/
def execStoreAck (id : Nat) (s : State) : Out :=
  match mget s.fly.reqs id with
  | none => .refused .eventNotDue
  | some r =>
    if r.phase ≠ .back ∨ (s.fly.scrProbes.any fun p => decide (p.2.req = id)) = true then .refused .eventNotDue
    else
      match r.op with
      | .st lu _ =>
        if r.cls = 0 ∧ lu = false ∧ s.lostLink r.pa = false then
          if s.sharers r.pa (wordsTouched r.mask) = [] then .next ((s.dropReq id).ownLine r)
          else .next (s.probeScratch r.pa (wordsTouched r.mask) id)
        else if r.cls = 1 then .next (((s.dropReq id).raisePts r.who.core r.who.ctx r.wts).ackLease id r)
        else .next (s.dropReq id)
      | .wb _ => .next (s.dropReq id)
      | _ => .refused .eventNotDue

/-! ### Walks (R210, R211, R214) -/

/-- The index bits above a level's table. -/
def walkPrefix (level va : Nat) : Nat := if level = 0 then bits va 43 6 else if level = 1 then bits va 34 15 else bits va 25 24
/-- The deepest table entry that the walk cache holds for an address. -/
def cachedTable (w : List WalkCached) (ctx va : Nat) : List Nat → Option WalkCached
  | [] => none
  | lv :: t =>
    match w.find? fun c => decide (c.ctx = ctx ∧ c.level = lv ∧ c.prefix_ = walkPrefix lv va) with
    | some c => some c
    | none => cachedTable w ctx va t
/-- The table address of a table entry. -/
def tableOf (e : DWord) : Nat := (e.extractLsb' 12 40).toNat * 4096
/-- Table entries read on the way down are cached, newest first, at most 256 (R214). -/
def State.fillWalk (s : State) (cluster ctx va : Nat) : Nat → Nat → Nat → State
  | 0, _, _ => s
  | n + 1, lv, table =>
    let i := if lv = 0 then bits va 43 6 else if lv = 1 then bits va 34 9 else bits va 25 9
    let a := table + 8 * i
    if lv ≥ 3 ∨ s.tableGone a = true then s
    else
      let e := (s.entry ctx a).1
      if !e.getLsbD 0 || tableBad e then s
      else State.fillWalk (s.modCluster cluster fun k => { k with
        wcache := (⟨cluster, ctx, lv, walkPrefix lv va, e⟩ :: k.wcache).take 256 }) cluster ctx va n (lv + 1) (tableOf e)
/-- A walk that starts at the deepest cached table. -/
def State.walkFast (s : State) (cluster ctx va : Nat) : Walked × State :=
  match cachedTable (s.cluster cluster).wcache ctx va [2, 1, 0] with
  | some c => (s.fillWalk cluster ctx va 3 (c.level + 1) (tableOf c.entry)).walkFrom ctx va (2 - c.level) (tableOf c.entry)
  | none => (s.fillWalk cluster ctx va 3 0 (s.ctx ctx).regs.root).walkFrom ctx va 3 (s.ctx ctx).regs.root
/-- The TLB entry of a leaf. -/
def tlbOf (ctx page : Nat) (e : DWord) : TlbEntry := ⟨ctx, if pteSZ e then page / 32 * 32 else page, e⟩
/-- A walk ends: the TLBs that it serves are filled, or the splits that waited learn that there is no leaf; a malformed entry posts
an event (R211, R214). -/
def State.endWalk (s : State) (id : Nat) (w : Walk) : Walked × State :=
  let s := { s with fly := { s.fly with walks := mdel s.fly.walks id } }
  match s.walkFast w.cluster w.ctx (w.page * 2 ^ 16) with
  | (.leaf e, s) =>
    let t := tlbOf w.ctx w.page e
    let s := s.modCluster w.cluster fun k => { k with l2tlb := tlbPut k.l2tlb t 8192 }
    (.leaf e, w.cores.foldl (fun s c => s.modCore c fun k => { k with tlb := tlbPut k.tlb t 128 }) s)
  | (.none_ hs mal, s) =>
    let s := match mal with
      | some a => s.postEvent w.ctx 12 0 0 0 a
      | none => s
    (.none_ hs mal, { s with fly := { s.fly with misses := s.fly.misses ++ w.waiters.map fun u => ⟨u, w.page, hs⟩ } })
/-- WALK_DONE: a running walk ends, and its place is taken. -/
def execWalkDone (id : Nat) (s : State) : Out :=
  match mget s.fly.walks id with
  | none => .refused .eventNotDue
  | some w => if !w.running then .refused .eventNotDue else .next ((s.endWalk id w).2.nextWalks w.cluster)
/-- A walk for an access that no split waits for, through the L2 TLB of a cluster; its entry goes to the L1 TLBs of the given cores
too. It ends in the step that asks for it, and so does the walk in flight that it joins, or the first of 64 whose place it takes:
when a walk ends is timing (R214; log 64). -/
def State.walkFor (s : State) (k ctx va : Nat) (cores : List Nat) : Walked × State :=
  let page := bits va 16 33
  match (s.cluster k).l2tlb.find? fun t => t.serves ctx va with
  | some t => (.leaf t.pte, cores.foldl (fun s c => s.modCore c fun k => { k with tlb := tlbPut k.tlb t 128 }) s)
  | none =>
    let s := s.bumpK k .l2tlbm
    match s.fly.walks.find? fun w => decide (w.2.cluster = k ∧ w.2.ctx = ctx ∧ w.2.page = page) with
    | some (i, w) =>
      let q := ((s.bumpK k .walkj).bumpK k .walks (if w.running then 0 else 1)).endWalk i { w with cores := w.cores ++ cores.filter fun c => c ∉ w.cores }
      (q.1, if w.running then q.2.nextWalks k else q.2)
    | none =>
      let full := if s.walksRunning k < 64 then none else s.fly.walks.find? fun w => decide (w.2.cluster = k) && w.2.running
      let s := match full with | some (i, w) => (s.endWalk i w).2 | none => s
      let q := (s.bumpK k .walks).endWalk 0 { cluster := k, ctx := ctx, page := page, cores := cores, waiters := [] }
      (q.1, if full.isSome then q.2.nextWalks k else q.2)

end Sys2Proof.Machine
end

