-- ==== Sys2Proof/Machine/Scratch.lean ====
section
/-! DEFINITION. Scratch: addresses and windows, mappings and their words, fills, and the accesses themselves (spec 07 R168
to R181, R184, R193 to R196). -/
namespace Sys2Proof.Machine

/-! ### Addresses (R168, R169, R171, R172) -/

/-- What a scratch address names. -/
inductive ScrAt where
  /-- It fails the check of R171, with the reason. -/
  | bad (reason : Nat)
  /-- The window's block is switched out. -/
  | away
  | at_ (core off : Nat)
  deriving DecidableEq, Repr

/-- Who makes a scratch access: the executing core, block and context. -/
structure ScrWho where
  core : Nat
  blk : Nat
  ctx : Nat
  deriving DecidableEq, Repr
def Ex.scr (x : Ex) : ScrWho := ⟨x.core, x.gr.blk, x.gr.ctx⟩

def Window.covers (w : Window) (off n : Nat) : Bool := decide (w.off ≤ off ∧ off + n ≤ w.off + w.len)
/-- The window of a block. -/
def State.blockWin (s : State) (core blk : Nat) : Option Window :=
  ((s.core core).scratch.wins.find? fun w => decide (w.2.blk = blk)).map Prod.snd
/-- A block of a context. -/
def State.blkIn (s : State) (blk ctx : Nat) : Bool := match mget s.blocks blk with | some b => decide (b.ctx = ctx) | none => false
/-- The window of a core's part that holds n bytes and belongs to a context. -/
def State.windowAt (s : State) (core off n ctx : Nat) : Option Window :=
  ((s.core core).scratch.wins.find? fun w => w.2.covers off n && s.blkIn w.2.blk ctx).map Prod.snd
/-- The bytes lie in a window of a saved block of the context. -/
def State.savedWin (s : State) (core off n ctx : Nat) : Bool :=
  match mget (s.core core).saved ctx with
  | some v => v.wins.any fun w => w.2.covers off n
  | none => false
/-- n bytes at a scratch address (R171). -/
def State.scrAddr (s : State) (w : ScrWho) (e n : Nat) : ScrAt :=
  let field := bits e 20 5
  let off := bits e 0 20
  if e / 2 ^ 25 ≠ 0 ∨ (24 ≤ field ∧ field ≤ 30) then .bad 1
  else if field = 31 then
    match s.blockWin w.core w.blk with
    | none => .bad 2
    | some v => if off + n > v.len then .bad 2 else .at_ w.core (v.off + off)
  else
    let c := clusterOf w.core * 24 + field
    match s.windowAt c off n w.ctx with
    | some _ =>
      match mget (s.core c).res w.ctx with
      | some .active => .at_ c off
      | some .shadow => .at_ c off
      | _ => .away
    | none => if s.savedWin c off n w.ctx then .away else .bad 3

/-! ### Mappings (R174, R176, R185, R202) -/

/-- The valid entry of a core's scratch part that holds an offset, with its window. -/
def State.mapAt (s : State) (core off : Nat) : Option (Window × Nat × SMapping) :=
  match (s.core core).scratch.wins.find? fun w => w.2.covers off 1 with
  | none => none
  | some (_, w) =>
    (w.maps.find? fun m => decide (w.off + m.2.s ≤ off ∧ off < w.off + m.2.s + m.2.n)).map fun m => (w, m)

/-- A word has its value: plain scratch, CLEAN or DIRTY. -/
def State.validWord (s : State) (core off : Nat) : Bool :=
  match s.mapAt core off with
  | none => true
  | some _ =>
    match mget (s.core core).scratch.words (off / 4) with
    | some w => w.st == .clean || w.st == .dirty
    | none => false
def State.absentWord (s : State) (core off : Nat) : Bool :=
  (s.mapAt core off).isSome && (mget (s.core core).scratch.words (off / 4)).isNone
/-- The offsets of the words of n bytes. -/
def wordOffs (off n : Nat) : List Nat := (List.range ((off + n + 3) / 4 - off / 4)).map fun i => 4 * (off / 4 + i)
def State.validRange (s : State) (core off n : Nat) : Bool := (wordOffs off n).all fun o => s.validWord core o

/-- What stands behind a scratch byte. -/
inductive Backing where
  | plain
  /-- Past the rows of a gathered entry: 0, never filled. -/
  | zero
  | mem (va : Nat) (ro : Bool)
  | copy (core off : Nat)
  /-- The row's index word is not valid yet: its place. -/
  | index (core off : Nat)
  /-- The row's index cannot be read: its scratch address and the reason. -/
  | noIndex (e reason : Nat)
  /-- The row's index list lies in a window whose block is switched out (R172). -/
  | away
  deriving DecidableEq, Repr

/-- z bytes of a scratch part: each poisoned word's bytes read as 0, and whether one was met (R184). -/
def Scratch.value (k : Scratch) (off z : Nat) : Nat × Bool :=
  let pois := fun i => mgetD k.poison ((off + i) / 4) false
  (leNat ((List.range z).map fun i => if pois i then (0 : Byte) else Bytes.at_ k.bytes (off + i)), (List.range z).any pois)
/-- An entry of z bytes of an index list in scratch (R202, R315). What one in a poisoned word reads as is not stated, and is free;
it raises no PZ (log 93). -/
def Scratch.entry (k : Scratch) (off z : Nat) : Nat :=
  let v := k.value off z
  if v.2 then Config.poisonedEntry off (leNat (Bytes.read k.bytes off z)) % 2 ^ (8 * z) else v.1
/-- The backing of a byte of a core's scratch part. -/
def State.backing (s : State) (core off : Nat) : Backing :=
  match s.mapAt core off with
  | none => .plain
  | some (w, _, m) =>
    let j := off - w.off - m.s
    match m.kind with
    | .rw => .mem (m.b + j) false
    | .ro => .mem (m.b + j) true
    | .replica => .copy (m.b % 512) (m.b / 512 + j)
    | .gathered idx c rb st =>
      let r := j / rb
      if r ≥ c then .zero
      else
        let e := (idx + 4 * r) % 2 ^ 32
        let ctx := match mget s.blocks w.blk with | some b => b.ctx | none => 0
        match s.scrAddr ⟨core, w.blk, ctx⟩ e 4 with
        | .bad n => .noIndex e n
        | .away => .away
        | .at_ c o =>
          if s.validWord c o then .mem (m.b + (s.core c).scratch.entry o 4 * st + j % rb) true else .index c o

/-! ### Fills (R178, R179) -/

/-- The line of a scratch offset. -/
def scrLine (off : Nat) : Nat := off / 64 * 64
/-- A fill in flight for the line of a word, asked for by the block whose mapping holds the word; one that an earlier block has left
behind lands nowhere. -/
def State.fillOf (s : State) (core off : Nat) (f : Fill) : Bool :=
  decide (f.core = core ∧ f.off = scrLine off) && (match s.mapAt core off with | some (w, _, _) => decide (w.blk = f.blk) | none => false)
/-- A fill in flight that will write a word. -/
def State.fillsWord (s : State) (core off : Nat) : Bool :=
  s.fly.fills.any fun f => s.fillOf core off f.2 && !f.2.dropped.getLsbD (off % 64 / 4)
def State.fillCount (s : State) (core : Nat) : Nat := (s.fly.fills.filter fun f => decide (f.2.core = core)).length

/-- The translation of a fill: through the core's TLBs and the walker of its cluster (R176, R214). -/
def State.fillTranslate (s : State) (core ctx va : Nat) (write : Bool := false) : Except Nat (DWord × Nat) × State :=
  let check := fun (e : DWord) => match s.pteCause e va { write := write } with
    | some c => Except.error c
    | none => if pteClass e ≤ 1 then Except.ok (e, ptePa e va) else Except.error 6
  match (s.core core).tlb.find? fun t => t.serves ctx va with
  | some t => (check t.pte, s)
  | none =>
    match (s.bump core .l1tlbm).walkFor (clusterOf core) ctx va [core] with
    | (.none_ _ _, s) => (.error 4, s)
    | (.leaf e, s) => (check e, s)

def State.setWord (s : State) (core off : Nat) (w : MWord) : State :=
  s.modCore core fun k => { k with scratch := { k.scratch with words := mset k.scratch.words (off / 4) w } }
/-- Bytes of a scratch part written, their poison left. -/
def State.putScr (s : State) (core off : Nat) (bs : List Byte) : State :=
  s.modCore core fun k => { k with scratch := { k.scratch with bytes := Bytes.write k.scratch.bytes off bs } }
def State.setScrPoison (s : State) (core off : Nat) (b : Bool) : State :=
  s.modCore core fun k => { k with scratch := { k.scratch with poison := mput false k.scratch.poison (off / 4) b } }
/-- A word that is CLEAN and 0. -/
def State.zeroWord (s : State) (core off : Nat) : State :=
  ((s.putScr core off [0, 0, 0, 0]).setScrPoison core off false).setWord core off { st := .clean }

/-- The leaf of a page that an access settled at its issue, or a translation of the fill's own. -/
def State.knownTranslate (s : State) (known : List (Nat × DWord)) (core ctx va : Nat) : Except Nat (DWord × Nat) × State :=
  match known.find? fun k => k.1 == lineAddr va with
  | some k => (.ok (k.2, ptePa k.2 va), s)
  | none => s.fillTranslate core ctx va
/-- A fill in flight without its data. -/
def State.addFill (s : State) (f : Fill) : State := { s.fresh with fly := { s.fly with fills := mset s.fly.fills s.nextId f } }
/-- A fill of a line is requested, where its core has fewer than 64 (R179). A translation that fails leaves the line as it is, or
makes a context fault for an operation that no split waits for (R462). -/
def State.startFill (s : State) (why : Option (Nat × Nat × Pc)) (known : List (Nat × DWord)) : Nat → Nat → Nat → State
  | 0, _, _ => s
  | n + 1, core, off =>
    match s.mapAt core off with
    | none => s
    | some (w, _, _) =>
      let ctx := match mget s.blocks w.blk with | some b => b.ctx | none => 0
      let fault := fun (s : State) (c va : Nat) =>
        match why with
        | some (k, slot, pc) => s.contextFault ctx ⟨c, 0, k, slot, Pc.addr pc, toD va⟩
        | none => s
      let fill : Fill := { core := core, blk := w.blk, ctx := ctx, off := scrLine off, why := why }
      if s.fillCount core ≥ 64 then s else
      match s.backing core (scrLine off) with
      | .plain => s
      | .zero => s
      | .away => s
      | .noIndex e _ => fault s 9 e
      | .index c o =>
        let s1 := s.addFill { fill with index := some (c, o) }
        if s.fillsWord c o then s1 else State.startFill s1 why known n c o
      | .copy c o =>
        let s1 := s.addFill { fill with owner := some (c, o) }
        if s1.validRange c o 64 || s1.fly.fills.any (fun f => s1.fillOf c o f.2) then s1
        else State.startFill s1 why known n c o
      | .mem va _ =>
        if !canonical (toD va) then fault s 5 va else
        match s.knownTranslate known core ctx va with
        | (.error c, s) => fault s c va
        | (.ok (e, pa), s) =>
          let r : Req := { who := ⟨core, 0, 0, 0, ctx, w.blk, 0, 0⟩, op := .sfill, pa := lineAddr pa, cls := pteClass e,
                           lease := pteLease e, pts := s.pts core ctx, vas := [lineAddr va] }
          { s.fresh with fly := { s.fly with fills := mset s.fly.fills s.nextId fill, reqs := mset s.fly.reqs s.nextId r } }
/-- The leaves behind a word, as an access that has passed its checks settles them (R179). -/
def State.leavesOf (s : State) : Nat → Nat → Nat → List (Nat × DWord)
  | 0, _, _ => []
  | n + 1, core, off =>
    match s.mapAt core off with
    | none => []
    | some (w, _, _) =>
      let ctx := match mget s.blocks w.blk with | some b => b.ctx | none => 0
      match s.backing core off with
      | .mem va _ => match (s.fillTranslate core ctx va).1 with | .ok (e, _) => [(lineAddr va, e)] | .error _ => []
      | .copy c o => if s.validWord c o then [] else s.leavesOf n c o
      | _ => []
/-- The request that brings a word's line: its class and the global address of the word. -/
def State.fillSource (s : State) (core off : Nat) : Bool × Nat :=
  match s.fly.fills.find? fun f => s.fillOf core off f.2 with
  | some f => match mget s.fly.reqs f.1 with | some r => (r.cls == 1, r.vas.headD 0 + off % 64) | none => (false, 0)
  | none => (false, 0)
/-- A touched word: an ABSENT one becomes PENDING, its line's fill requested (R177). -/
def State.touchWord (s : State) (why : Option (Nat × Nat × Pc)) (known : List (Nat × DWord)) (core off : Nat) : State :=
  if !s.absentWord core off then s
  else if s.backing core off = .zero then s.zeroWord core off
  else
    let s := if s.fillsWord core off then s else s.startFill why known 3 core off
    if s.fillsWord core off then
      let q := s.fillSource core off
      s.setWord core off { st := .pending, lcl := q.1, va := q.2 }
    else s
def State.touchRange (s : State) (why : Option (Nat × Nat × Pc)) (known : List (Nat × DWord)) (core off n : Nat) : State :=
  (wordOffs off n).foldl (fun s o => s.touchWord why known core o) s
/-- The lines of a range whose fill must still be requested. -/
def State.newFills (s : State) (core off n : Nat) : List Nat :=
  (((wordOffs off n).filter fun o => s.absentWord core o && !s.fillsWord core o && s.backing core o != .zero).map scrLine).eraseDups

/-! ### Bytes of scratch -/

/-- A store into one word: a part of a word that has no value leaves its other bytes without a stated value, and its poison; a
whole word loses its poison; a mapped word becomes DIRTY (R177, R184). -/
def State.storeWord (s : State) (core off lo hi : Nat) : State :=
  let whole := decide (lo ≤ off ∧ off + 4 ≤ hi)
  let s := if whole then s.setScrPoison core off false
    else if s.validWord core off then s
    else let f := s.free; f.2.putScr core off (leBytes 4 f.1.toNat)
  if (s.mapAt core off).isSome then s.setWord core off { st := .dirty } else s
/-- The halo entries over written bytes are marked (R186). -/
def State.markHalo (s : State) (core off n : Nat) : State :=
  s.modCore core fun k => { k with scratch := { k.scratch with
    halo := mall k.scratch.halo fun _ h => if h.off < off + n ∧ off < h.off + h.len then { h with m := true } else h } }
/-- Bytes stored at an offset of a scratch part. -/
def State.storeScr (s : State) (core off : Nat) (bs : List Byte) : State :=
  let s := (wordOffs off bs.length).foldl (fun s o => s.storeWord core o off (off + bs.length)) s
  (s.putScr core off bs).markHalo core off bs.length

/-! ### The atomic operations (R195) -/

/-- A signed value of z bytes. -/
def sint (z n : Nat) : Int := if n.testBit (8 * z - 1) then (n : Int) - 2 ^ (8 * z) else n
/-- new := op(old, b); c is the second operand of cas. -/
def atomNew (op z old b c : Nat) : Nat :=
  match op with
  | 0 => (old + b) % 2 ^ (8 * z)
  | 1 => if sint z old ≤ sint z b then old else b
  | 2 => if sint z b ≤ sint z old then old else b
  | 3 => min old b
  | 4 => max old b
  | 5 => old &&& b
  | 6 => old ||| b
  | 7 => old ^^^ b
  | 8 => b
  | 9 => if old = b then c else old
  | 10 => (fAdd fF32 .rn false old b).1
  | 11 => old
  | _ => b
/-- The operand registers of a lane: b, or compare and new for cas, as one number: b in the low z bytes. -/
def Lane.atomVal (ln : Lane) (b z op : Nat) : BitVec 128 :=
  let n := if op = 9 then 2 * (z / 4) else z / 4
  BitVec.ofNat 128 ((List.range n).foldl (fun a i => a + (ln.v (b + i)).toNat * 2 ^ (32 * i)) 0)
def LaneAcc.b (k : LaneAcc) (z : Nat) : Nat := k.val.toNat % 2 ^ (8 * z)
def LaneAcc.c (k : LaneAcc) (z : Nat) : Nat := k.val.toNat / 2 ^ (8 * z) % 2 ^ (8 * z)

/-! ### One access at its owning core (R194, R196) -/

def ScrOp.size : ScrOp → Nat
  | .sld z _ _ => z
  | .sst z => z
  | .satom _ z _ _ _ => z
def ScrOp.dest : ScrOp → Option Nat
  | .sld _ d _ => some d
  | .sst _ => none
  | .satom _ _ d _ _ => some d
def ScrOp.reads : ScrOp → Bool
  | .sst _ => false
  | _ => true
def ScrOp.signs : ScrOp → Bool
  | .sld _ _ sx => sx
  | _ => false
/-- One lane's access, and the value that it returns. -/
def State.scrLane (s : State) (core : Nat) (op : ScrOp) (k : LaneAcc) : (Nat × Bool) × State :=
  let z := op.size
  let v := (s.core core).scratch.value k.off z
  match op with
  | .sld .. => (v, s)
  | .sst _ => ((0, false), s.storeScr core k.off (leBytes z k.val.toNat))
  | .satom o _ _ _ _ =>
    if v.2 then ((0, true), if o = 8 then s.storeScr core k.off (leBytes z (k.b z)) else s)
    else (v, s.storeScr core k.off (leBytes z (atomNew o z v.1 (k.b z) (k.c z))))
/-- The lanes of an access, ascending, with the values returned. -/
def State.scrLanes (s : State) (core : Nat) (op : ScrOp) : List LaneAcc → List (Nat × (Nat × Bool)) × State
  | [] => ([], s)
  | k :: t =>
    let r := s.scrLane core op k
    let q := State.scrLanes r.2 core op t
    ((k.lane, r.1) :: q.1, q.2)
/-- Clks lost to bank conflicts: words of one bank are served one a clk. -/
def bankLoss (z : Nat) (l : List LaneAcc) : Nat :=
  let ws := (l.flatMap fun k => (wordOffs k.off z).map fun o => o / 4).eraseDups
  (List.range 32).foldl (fun m b => max m ((ws.filter fun w => w % 32 = b).length - 1)) 0
/-- Values written to registers now. -/
def Group.scrNow (g : Group) (op : ScrOp) (vs : List (Nat × (Nat × Bool))) : Group :=
  match op.dest with
  | none => g
  | some d => vs.foldl (fun g v => g.modLane v.1 fun ln => ln.load d op.size op.signs v.2) g
/-- Values delivered to pending registers (R60). -/
def Group.scrLater (g : Group) (op : ScrOp) (iid : Nat) (vs : List (Nat × (Nat × Bool))) : Group :=
  match op.dest with
  | none => g
  | some d => vs.foldl (fun g v => g.deliver iid v.1 fun ln => ln.load d op.size op.signs v.2) g
/-- Accesses that wait for words which have become ABSENT again, or which the limit on fills has kept back, ask for their fills
anew, and so do the replicas that wait for their owner's words. -/
def State.refill (s : State) : State :=
  let s := s.fly.touches.foldl (fun s p =>
    if p.2.waits = true ∧ p.2.remote = false then
      p.2.lanes.foldl (fun s k => s.touchRange none p.2.known p.2.at_ k.off p.2.op.size) s
    else s) s
  s.fly.fills.foldl (fun s f => match f.2.owner with | some (c, o) => s.touchRange f.2.why [] c o 64 | none => s) s
/-- Words become ABSENT, also for the fills of their lines in flight (R178). -/
def State.dropWords (s : State) (core : Nat) (offs : List Nat) : State :=
  let s := s.modCore core fun k => { k with scratch := { k.scratch with
    words := mkeep k.scratch.words fun w _ => !offs.contains (4 * w) } }
  { s with fly := { s.fly with fills := mall s.fly.fills fun _ f =>
      if f.core = core then
        { f with dropped := offs.foldl (fun d o => if scrLine o = f.off then setBit d (o % 64 / 4) true else d) f.dropped }
      else f } }

/-- CLEAN and PENDING words of a block over L-class backing become ABSENT, where their addresses are covered (R182, R183). -/
def State.acquireWhere (s : State) (core blk : Nat) (f : Nat → Bool) : State :=
  match s.blockWin core blk with
  | none => s
  | some w =>
    let offs := (s.core core).scratch.words.filterMap fun p =>
      if p.2.lcl && (p.2.st == .clean || p.2.st == .pending) && w.covers (4 * p.1) 4 then
        (if f p.2.va then some (4 * p.1) else none)
      else none
    if offs = [] then s else (s.dropWords core offs).refill
/-- The time of a release stays with the scratch lines of an access. -/
def State.scrTimes (s : State) (who : Owner) (core : Nat) (l : List LaneAcc) : State :=
  l.foldl (fun s k => s.modCore core fun c => { c with scratch := { c.scratch with
    times := mset c.scratch.times (k.off / 64) (max (mgetD c.scratch.times (k.off / 64) 0) (s.pts who.core who.ctx)) } }) s
/-- The order of a scratch access (R196, R244 to R246): the time of a release, or of a store or SATOM that follows a FENCE.rel, stays
with its scratch line, an acquire takes that time over, and from scope 4 on the mapped words of its block are fetched anew. -/
def State.satomOrder (s : State) (who : Owner) (core : Nat) (op : ScrOp) (l : List LaneAcc) (fenced : Bool) : State :=
  match op with
  | .sst _ => if fenced then s.scrTimes who core l else s
  | .satom a _ _ o sc =>
    let s := if o / 2 = 1 ∨ (fenced = true ∧ a ≠ 11) then s.scrTimes who core l else s
    if o % 2 = 1 then
      let s := l.foldl (fun s k => s.raisePts who.core who.ctx (mgetD (s.core core).scratch.times (k.off / 64) 0)) s
      if 4 ≤ sc then s.acquireWhere who.core who.blk fun _ => true else s
    else s
  | _ => s
/-- An access in flight is performed: its results are written and the splits that wait for it become READY. -/
def State.performTouch (s : State) (id : Nat) (t : Touch) : State :=
  let r := (s.bump t.at_ .sbankc (bankLoss t.op.size t.lanes)).scrLanes t.at_ t.op t.lanes
  let s := { r.2 with fly := { r.2.fly with touches := mdel r.2.fly.touches id } }
  let s := s.satomOrder t.who t.at_ t.op t.lanes t.fenced
  s.modGroup t.who.core t.who.slot fun g =>
    if g.uid = t.who.uid then (g.scrLater t.op t.who.iid r.1).wake (.touch id) else g

def Touch.overlaps (t : Touch) (at_ off z : Nat) : Bool :=
  decide (t.at_ = at_) && t.lanes.any fun k => decide (k.off / 4 * 4 < off + z ∧ off / 4 * 4 < k.off + t.op.size)
/-- Every word is valid, and no earlier access that a lane of the split made to these words is in flight (R173). -/
def State.touchReady (s : State) (id : Nat) (t : Touch) : Bool :=
  !t.remote && (t.lanes.all fun k => !t.op.reads || s.validRange t.at_ k.off t.op.size) &&
  s.fly.touches.all fun u => !(decide (u.1 < id ∧ u.2.who.uid = t.who.uid ∧ u.2.mask &&& t.mask ≠ 0) &&
    t.lanes.any fun k => u.2.overlaps t.at_ k.off t.op.size)
/-- The accesses of a core that can be performed, in order of their ids; each may let the next one go. -/
def State.finishTouches (s : State) (core : Nat) : State :=
  s.fly.touches.foldl (fun s p =>
    if p.2.at_ = core ∧ s.touchReady p.1 p.2 = true then s.performTouch p.1 p.2 else s) s
/-! ### The checks of a touch (R171, R176, R194) -/

/-- What the checks of one lane give. -/
inductive ScrChk where
  | ok (core off : Nat)
  /-- A walk is in flight, or the row's index is being filled. -/
  | hold
  | away
  | bad (cause : Nat) (host : Bool) (x60 x61 : Word)
  deriving DecidableEq, Repr

/-- The backing of a place admits the access: none, held, or a fault. A store that is refused because its range is read-only, a
replica or gathered (R176) names its scratch address, that of the line where a span is checked line by line, in s60, and 0 in s61:
the model's choice (log 94). -/
def State.backCheck (s : State) (ctx : Nat) (who : Waiter) (e : Nat) (write : Bool) : Nat → Nat → Nat → ScrChk × State
  | 0, core, off => (.ok core off, s)
  | n + 1, core, off =>
    let ro : ScrChk × State := (.bad 5 false (toW e) 0, s)
    match s.backing core off with
    | .plain => (.ok core off, s)
    | .away => if write then ro else (.away, s)
    | .zero => if write then ro else (.ok core off, s)
    | .noIndex i r => if write then ro else (.bad 9 false (toW i) (toW r), s)
    | .index c o =>
      if write then ro
      else
        match State.backCheck s ctx who e false n c o with
        | (.ok _ _, s) => (.hold, s.touchWord none [] c o)
        | r => r
    | .copy c o =>
      if write then ro
      else if s.validRange c (scrLine o) 64 then (.ok core off, s)
      else
        match State.backCheck s ctx who e false n c o with
        | (.ok _ _, s) => (.ok core off, s)
        | r => r
    | .mem va r =>
      if write && r then ro
      else if !canonical (toD va) then (.bad 5 false (toW va) (toW (va / 2 ^ 32)), s)
      else
        match s.translate core ctx who va { write := write } with
        | (.miss, s) => (.hold, s)
        | (.bad c h, s) => (.bad c h (toW va) (toW (va / 2 ^ 32)), s)
        | (.ok p _, s) => if pteClass p ≤ 1 then (.ok core off, s) else (.bad 6 false (toW va) (toW (va / 2 ^ 32)), s)
/-- Words of a replica or a gathered row that have their values: nothing stands behind them until they are filled again (R185,
R202). -/
def State.filled (s : State) (core off z : Nat) : Bool :=
  s.validRange core off z && (match s.mapAt core off with
    | some (_, _, m) => (match m.kind with | .replica => true | .gathered .. => true | _ => false)
    | none => false)
/-- One lane: the address, the alignment, the mapping. -/
def State.scrCheck (s : State) (x : Ex) (z : Nat) (write : Bool) (e : Nat) : ScrChk × State :=
  match s.scrAddr x.scr e z with
  | .bad r => (.bad 9 false (toW e) (toW r), s)
  | .away => (.away, s)
  | .at_ c o =>
    if e % z ≠ 0 then (.bad 7 false (toW e) 0, s)
    else if !write && s.filled c o z then (.ok c o, s)
    else s.backCheck x.gr.ctx x.waiter e write 3 c o
def State.scrChecks (s : State) (x : Ex) (z : Nat) (write : Bool) : List (Nat × Nat) → List (Nat × ScrChk) × State
  | [] => ([], s)
  | (l, e) :: t =>
    let r := s.scrCheck x z write e
    let q := State.scrChecks r.2 x z write t
    ((l, r.1) :: q.1, q.2)
def ScrChk.cause : ScrChk → Nat
  | .bad c _ _ _ => c
  | _ => 0
/-- A fault of a scratch access. -/
def scrFault (s : State) (x : Ex) (c : Nat) (host write : Bool) (m : Mask) (x60 x61 : Word) : Out :=
  if host then accessFault s x c true write m (pairOf x60 x61) else trapAt s x c m x60 x61
/-- The lanes' checks decide: the lowest lane that fails raises, or the lanes go on with their places. -/
def scrChecked (s : State) (x : Ex) (write : Bool) (r : List (Nat × ScrChk)) (k : List (Nat × Nat × Nat) → State → Out) : Out :=
  if r.any fun p => p.2 == .hold then hold s
  else
    match r.find? fun p => p.2.cause != 0 with
    | some (_, .bad c h x60 x61) =>
      scrFault s x c h write (maskOf ((r.filter fun p => p.2.cause == c).map Prod.fst)) x60 x61
    | _ =>
      if r.any fun p => p.2 == .away then waitOn s x .poll
      else k (r.filterMap fun p => match p.2 with | .ok c o => some (p.1, c, o) | _ => none) s

/-! ### SLD, SST and the sending of SATOM (R179, R193 to R196) -/

/-- e(l): plain or lane-strided. -/
def scrEa (ln : Lane) (l : Nat) (a : BitVec 5) (off : Option Word) (sp : Bool) (z : Nat) : Nat :=
  let v := ln.v a.toNat
  if sp then (v + toW (8 * z) * offWord off + toW (z * l)).toNat else (v + offWord off).toNat
/-- An access of the split to a word that is in flight: a later one takes effect after it (R173). -/
def State.scrOlder (s : State) (x : Ex) (core off z : Nat) : Bool :=
  s.fly.touches.any fun t => decide (t.2.who.uid = x.gr.uid ∧ t.2.mask &&& x.sp.mask ≠ 0) && t.2.overlaps core off z
/-- The access of the lanes that address one core. -/
def State.scrSend (s : State) (x : Ex) (iid : Nat) (op : ScrOp) (core : Nat) (l : List LaneAcc) : State :=
  let known := (l.flatMap fun k => (wordOffs k.off op.size).flatMap fun o => s.leavesOf 3 core o).eraseDups
  let t : Touch := { who := x.owner iid, op := op, at_ := core, lanes := l, mask := x.sp.mask, known := known, fenced := x.gr.fenced }
  let later := fun (s : State) (t : Touch) =>
    let s := { s.fresh with fly := { s.fly with touches := mset s.fly.touches s.nextId t } }
    match op.dest with
    | none => s
    | some d => s.modGroup x.core x.slot fun g => { g with pend := g.pend ++ (l.flatMap fun k =>
        (List.range (max 1 (op.size / 4))).map fun i => (⟨iid, some k.lane, .v (d + i)⟩ : Pend)) }
  if core ≠ x.core then later s { t with remote := true }
  else if !op.reads || (l.all fun k => s.validRange core k.off op.size) && !l.any fun k => s.scrOlder x core k.off op.size then
    let r := (s.bump core .sbankc (bankLoss op.size l)).scrLanes core op l
    (r.2.satomOrder (x.owner iid) core op l x.gr.fenced).modGroup x.core x.slot fun g => g.scrNow op r.1
  else later (l.foldl (fun s k => s.touchRange none t.known core k.off op.size) s) { t with waits := true }
/-- An access in flight that lanes of this split made holds a later one to the words at issue, but for one load of the core after
another, which takes its value after the first (R173). -/
def State.scrBusy (s : State) (x : Ex) (op : ScrOp) (core off : Nat) : Bool :=
  s.fly.touches.any fun t => decide (t.2.who.uid = x.gr.uid ∧ t.2.mask &&& x.sp.mask ≠ 0) && t.2.overlaps core off op.size &&
    !(match op, t.2.op with | .sld .., .sld .. => !t.2.remote && decide (core = x.core) | _, _ => false)
/-- The access needs more fills than a core may have outstanding (R179). -/
def State.fillsFull (s : State) (core : Nat) (z : Nat) (l : List LaneAcc) : Bool :=
  let n := (l.flatMap fun k => s.newFills core k.off z).eraseDups.length
  n ≠ 0 && decide (s.fillCount core + n > 64)
/-- The places of one core, as accesses with the values that they carry. -/
def placesOf (ps : List (Nat × Nat × Nat)) (core : Nat) (val : Nat → BitVec 128) : List LaneAcc :=
  (ps.filter fun p => p.2.1 = core).map fun p => ⟨p.1, p.2.2, val p.1, 0⟩
/-- A scratch access after its checks: held for an earlier access or for fill slots, or sent to each owning core. -/
def scrIssue (s : State) (x : Ex) (n la : Nat) (op : ScrOp) (ps : List (Nat × Nat × Nat)) (val : Nat → BitVec 128) : Out :=
  let cores := (ps.map fun p => p.2.1).eraseDups
  if s.acqBusy x || ps.any (fun p => s.scrBusy x op p.2.1 p.2.2) ||
      (op.reads && s.fillsFull x.core op.size (placesOf ps x.core val)) then hold s
  else
    let iid := s.nextId
    let s := cores.foldl (fun s c => s.scrSend x iid op c (placesOf ps c val)) s.fresh
    .next (s.done x n fun g => g.window x.entry iid la)

def execSld (o : LmO) (s : State) : Out :=
  onSplit s fun x =>
    let act := x.active o.g
    let z := 2 ^ o.z.toNat
    if act = 0 then .next (s.done x (offLen o.off) id)
    else
      let r := s.scrChecks x z false ((lanesOf act).map fun l => (l, scrEa (x.gr.lane l) l o.a o.off o.s z))
      scrChecked r.2 x false r.1 fun ps s => scrIssue s x (offLen o.off) o.l.toNat (.sld z o.d.toNat (o.k == 1)) ps fun _ => 0
def execSst (o : SstO) (s : State) : Out :=
  onSplit s fun x =>
    let act := x.active o.g
    let z := 2 ^ o.z.toNat
    if act = 0 then .next (s.done x (offLen o.off) id)
    else
      let r := s.scrChecks x z true ((lanesOf act).map fun l => (l, scrEa (x.gr.lane l) l o.a o.off o.s z))
      scrChecked r.2 x true r.1 fun ps s =>
        scrIssue s x (offLen o.off) 0 (.sst z) ps fun l =>
          BitVec.ofNat 128 (leNat ((x.gr.lane l).storeBytes o.d.toNat z))

/-! ### The events of scratch -/

/-- The fills of an access that arrives are more than its core may have outstanding: it is not served yet (R179). -/
def State.touchFull (s : State) (t : Touch) : Bool := t.op.reads && s.fillsFull t.at_ t.op.size t.lanes
/-- SCRATCH_REMOTE_ACCESS: an access arrives at its owning core: it is performed, or waits for words (R178). One whose window
is no longer there returns values that are not stated and stores nothing. -/
def execScratchRemoteAccess (id : Nat) (s : State) : Out :=
  match mget s.fly.touches id with
  | none => .refused .eventNotDue
  | some t =>
    if t.remote = false ∨ (s.savedWin t.at_ ((t.lanes.head?.map LaneAcc.off).getD 0) 1 t.who.ctx) = true then .refused .eventNotDue
    else if t.lanes.all fun k => (s.windowAt t.at_ k.off t.op.size t.who.ctx).isSome then
      if s.touchFull t then .refused .eventNotDue else
      let t := { t with remote := false, waits := true }
      let s := { s with fly := { s.fly with touches := mset s.fly.touches id t } }
      let s := if t.op.reads then t.lanes.foldl (fun s k => s.touchRange none t.known t.at_ k.off t.op.size) s else s
      .next (if s.touchReady id t then (s.performTouch id t).finishTouches t.at_ else s)
    else
      let vs := t.lanes.foldl (fun (p : List (Nat × (Nat × Bool)) × State) k =>
        let f := p.2.free; let h := f.2.free
        (p.1 ++ [(k.lane, ((f.1.toNat + 2 ^ 32 * h.1.toNat) % 2 ^ (8 * t.op.size), false))], h.2)) ([], s)
      let s := { vs.2 with fly := { vs.2.fly with touches := mdel vs.2.fly.touches id } }
      .next (s.modGroup t.who.core t.who.slot fun g =>
        if g.uid = t.who.uid then (g.scrLater t.op t.who.iid vs.1).wake (.touch id) else g)

/-- The words of a line that a fill writes: those PENDING or ABSENT, not dropped since (R178). -/
def State.fillWords (s : State) (f : Fill) (cls pa va : Nat) (d : Line) (p : BitVec 16) : State :=
  ((List.range 16).filter fun i => !f.dropped.getLsbD i).foldl (fun s i =>
    let o := f.off + 4 * i
    match s.mapAt f.core o, mget (s.core f.core).scratch.words (o / 4) with
    | none, _ => s
    | some _, some w => if w.st = .pending then fillOne s f.core o i cls pa va d p else s
    | some _, none => fillOne s f.core o i cls pa va d p) s
where
  fillOne (s : State) (core o i cls pa va : Nat) (d : Line) (p : BitVec 16) : State :=
    (((s.putScr core o ((List.range 4).map fun b => lineByte d (4 * i + b))).setScrPoison core o (p.getLsbD i)).setWord core o
      { st := .clean, share := if cls = 0 then some (pa + 4 * i) else none, lcl := cls == 1, va := if cls = 1 then va + 4 * i else 0 })
/-- The fill's mapping is still there. -/
def State.fillAlive (s : State) (f : Fill) : Bool :=
  match s.mapAt f.core f.off with
  | some (w, _, _) => decide (w.blk = f.blk)
  | none => false
/-- A line of a scratch part with its poison. -/
def Scratch.line (k : Scratch) (off : Nat) : Line × BitVec 16 := (Bytes.line k.bytes off, Poison.line k.poison off)
/-- Held probes that no request waits for apply once nothing of their lines is on its way (R181). -/
def State.applyProbes (s : State) (core : Nat) : State :=
  s.fly.scrProbes.foldl (fun s p =>
    let ws := (s.sharers p.2.pa p.2.words).filter fun w => w.1 = core
    if p.2.core ≠ core ∨ p.2.req ≠ 0 ∨ (ws.any fun w => s.fillFor w.1 w.2) = true then s
    else ws.foldl (fun s w => s.dropWord w.1 w.2) { s with fly := { s.fly with scrProbes := mdel s.fly.scrProbes p.1 } }) s
/-- A fill lands with its data; the accesses that awaited it complete, and a held probe then applies (R181). -/
def State.landFill (s : State) (id : Nat) (f : Fill) (cls pa va : Nat) (d : Line) (p : BitVec 16) : State :=
  let s := { s with fly := { s.fly with fills := mdel s.fly.fills id, reqs := mdel s.fly.reqs id } }
  (if s.fillAlive f then (((s.bump f.core .sfilll).fillWords f cls pa va d p).refill).finishTouches f.core else s.refill).applyProbes f.core
/-- A filled replica whose registration at its owner is gone, after a switch of either, is registered again (R189). Where the
owner's halo table is full by then, the replica stays without one: a choice of the model, which the spec does not settle (log 77). -/
def State.registerHalo (s : State) (core off c : Nat) : State :=
  match s.mapAt core off with
  | some (w, g, m) =>
    let h := (s.core c).scratch.halo
    if m.kind ≠ .replica ∨ (h.any fun e => decide (e.2.core = core ∧ e.2.blk = w.blk ∧ e.2.g = g)) = true then s
    else
      match freeKeys h 0 64 with
      | [] => s
      | i :: _ =>
        let ctx := match mget s.blocks w.blk with | some b => b.ctx | none => 0
        let e : Halo := { off := m.b / 512, len := m.n, ctx := ctx, core := core, blk := w.blk, g := g, dst := w.off + m.s }
        s.modCore c fun k => { k with scratch := { k.scratch with halo := mset h i e } }
  | none => s
/-- A PENDING word takes the class and the global address of the request that its fill has made (R182). -/
def State.retag (s : State) (core off : Nat) : State :=
  match mget (s.core core).scratch.words (off / 4) with
  | some w => if w.st = .pending then let q := s.fillSource core off; s.setWord core off { w with lcl := q.1, va := q.2 } else s
  | none => s
/-- The index word of a gathered row has come: the fill of the row is requested (R202). Words that wait for a fill that fails
are ABSENT again. -/
def State.indexCome (s : State) (id : Nat) (f : Fill) : State :=
  let s := { s with fly := { s.fly with fills := mdel s.fly.fills id } }
  if s.fillAlive f = false then s
  else
    let s := s.startFill f.why [] 3 f.core f.off
    if s.fly.fills.any fun g => s.fillOf f.core f.off g.2 then
      let s := (wordOffs f.off 64).foldl (fun s o => s.retag f.core o) s
      { s with fly := { s.fly with fills := mall s.fly.fills fun _ g => if s.fillOf f.core f.off g then { g with dropped := g.dropped ||| f.dropped } else g } }
    else s.dropWords f.core ((wordOffs f.off 64).filter fun o =>
      match mget (s.core f.core).scratch.words (o / 4) with | some w => w.st == .pending | none => false)
/-- SCRATCH_FILL_LAND (R178). A replica is filled from its owner's words once they are valid; with the owner's window gone the
values are not stated. -/
def execScratchFillLand (id : Nat) (s : State) : Out :=
  match mget s.fly.fills id with
  | none => .refused .eventNotDue
  | some f =>
    match f.index, f.owner with
    | some (c, o), _ => if s.validWord c o then .next (s.indexCome id f) else .refused .eventNotDue
    | none, some (c, o) =>
      if (s.windowAt c o 64 f.ctx).isSome then
        if s.validRange c o 64 then
          let d := (s.core c).scratch.line o
          .next ((s.landFill id f 2 0 0 d.1 d.2).registerHalo f.core f.off c)
        else .refused .eventNotDue
      else
        let q := (List.range 16).foldl (fun (a : Line × State) i =>
          let w := a.2.free; (a.1 ||| BitVec.shiftLeft (w.1.zeroExtend 512) (32 * i), w.2)) ((0 : Line), s)
        .next (q.2.landFill id f 2 0 0 q.1 0)
    | none, none =>
      match mget s.fly.reqs id with
      | none => .refused .eventNotDue
      | some r =>
        if r.phase = .back then
          let s := if r.cls = 1 then s.raisePts f.core f.ctx r.wts else s
          .next (s.landFill id f r.cls r.pa (r.vas.headD 0) r.data r.poison)
        else .refused .eventNotDue
/-- SCRATCH_PROBE: a held probe applies once no fill of its lines is in flight (R181). -/
def execScratchProbe (id : Nat) (s : State) : Out :=
  match mget s.fly.scrProbes id with
  | none => .refused .eventNotDue
  | some p =>
    let ws := (s.sharers p.pa p.words).filter fun w => w.1 = p.core
    if ws.any fun w => s.fillFor w.1 w.2 then .refused .eventNotDue
    else .next (ws.foldl (fun s w => s.dropWord w.1 w.2) { s with fly := { s.fly with scrProbes := mdel s.fly.scrProbes id } })

end Sys2Proof.Machine
end

