-- ==== Sys2Proof/Machine/LaneInt.lean ====
section
/-! DEFINITION. Integer arithmetic, logic, shifts, multiplication, bit fields and integer compares of lanes (spec 06 R141 to
R150), and the word functions that the uniform instructions share. -/
namespace Sys2Proof.Machine

/-! ### Word functions -/

/-- clamp to the signed 32-bit range (R142). -/
def clamp32 (y : Int) : Word := BitVec.ofInt 32 (min (max y (-2147483648)) 2147483647)
def minI (a b : Word) : Word := if a.sle b then a else b
def maxI (a b : Word) : Word := if a.sle b then b else a
def minN (a b : Word) : Word := if a.ule b then a else b
def maxN (a b : Word) : Word := if a.ule b then b else a
/-- |sext(A)| mod 2^32. -/
def absI (a : Word) : Word := if a.msb then -a else a
/-- SHL: 0 for a count of 32 or more (R144). -/
def shl (a b : Word) : Word := if b.toNat < 32 then a <<< b.toNat else 0
def shrN (a b : Word) : Word := if b.toNat < 32 then a >>> b.toNat else 0
def shrI (a b : Word) : Word := a.sshiftRight (min b.toNat 31)
def rotl (a b : Word) : Word := a.rotateLeft (b.toNat % 32)
/-- The number of 1 bits. -/
def popc (a : Word) : Word := toW ((List.range 32).filter fun i => a.getLsbD i).length
/-- The number of leading 0 bits; 32 for 0. -/
def clz (a : Word) : Word := toW ((List.range 32).takeWhile fun i => !a.getLsbD (31 - i)).length
/-- res[i] = A[31 − i]. -/
def brev (a : Word) : Word := (List.range 32).foldl (fun acc i => setBit acc i (a.getLsbD (31 - i))) 0
/-- One byte of BYTSEL from its 4-bit selector. -/
def bytsel1 (a : Word) (sel : Nat) : Byte :=
  if sel ≤ 3 then a.extractLsb' (8 * sel) 8
  else if sel ≤ 7 then (if a.getLsbD (8 * (sel - 4) + 7) then 0xFF else 0x00)
  else 0
def bytsel (a b : Word) : Word :=
  bytsel1 a (b.extractLsb' 12 4).toNat ++ bytsel1 a (b.extractLsb' 8 4).toNat ++ bytsel1 a (b.extractLsb' 4 4).toNat ++
    bytsel1 a (b.extractLsb' 0 4).toNat
/-- The high word of a product (R145). -/
def mulhI (a b : Word) : Word := hiOf (a.signExtend 64 * b.signExtend 64)
def mulhN (a b : Word) : Word := hiOf (a.zeroExtend 64 * b.zeroExtend 64)
def mulwI (a b : Word) : DWord := a.signExtend 64 * b.signExtend 64
def mulwN (a b : Word) : DWord := a.zeroExtend 64 * b.zeroExtend 64
/-- BFE (R148). -/
def bfe (a c : Word) : Word :=
  let pos := (c.extractLsb' 0 8).toNat
  let len := min (c.extractLsb' 8 8).toNat 32
  let f := if len = 0 ∨ pos ≥ 32 then 0 else (a.toNat / 2 ^ pos) % 2 ^ len
  if c.getLsbD 16 ∧ len > 0 ∧ f.testBit (len - 1) then BitVec.ofInt 32 ((f : Int) - 2 ^ len) else toW f
/-- BFI (R148). -/
def bfi (a b c : Word) : Word :=
  let pos := (c.extractLsb' 0 8).toNat
  let len := min (c.extractLsb' 8 8).toNat 32
  let m := toW (((2 ^ len - 1) <<< pos))
  (a &&& ~~~ m) ||| (toW (b.toNat <<< pos) &&& m)
/-- The condition of ISET and USET, by its fn (R149). -/
def icond (f : BitVec 5) (a b : Word) : Bool :=
  match f.toNat with
  | 0 => a == b
  | 1 => a != b
  | 2 => a.slt b
  | 3 => a.sle b
  | 4 => b.slt a
  | 5 => b.sle a
  | 6 => a.ult b
  | 7 => a.ule b
  | 8 => b.ult a
  | 9 => b.ule a
  | _ => false
/-- The shift that a kind names: SHL, SHR.n, SHR.i, ROTL (R150, R166). -/
def shiftKind (k : BitVec 2) (a b : Word) : Word :=
  match k.toNat with
  | 0 => shl a b
  | 1 => shrN a b
  | 2 => shrI a b
  | _ => rotl a b

/-! ### R142 -/
def execIadd (o : R3) (s : State) : Out := opR3 o s fun a b => a + b
def execIsub (o : R3) (s : State) : Out := opR3 o s fun a b => a - b
def execIaddSat (o : R3) (s : State) : Out := opR3 o s fun a b => clamp32 (a.toInt + b.toInt)
def execIsubSat (o : R3) (s : State) : Out := opR3 o s fun a b => clamp32 (a.toInt - b.toInt)
def execIminI (o : R3) (s : State) : Out := opR3 o s minI
def execImaxI (o : R3) (s : State) : Out := opR3 o s maxI
def execIminN (o : R3) (s : State) : Out := opR3 o s minN
def execImaxN (o : R3) (s : State) : Out := opR3 o s maxN
def execIabs (o : R2) (s : State) : Out := opR2 o s absI
def execIneg (o : R2) (s : State) : Out := opR2 o s fun a => -a
def execIdiff (o : R3) (s : State) : Out := opR3 o s fun a b => maxN a b - minN a b
def execLea1 (o : R3) (s : State) : Out := opLea o s fun a b => a + b.signExtend 64 <<< 1
def execLea2 (o : R3) (s : State) : Out := opLea o s fun a b => a + b.signExtend 64 <<< 2
def execLea3 (o : R3) (s : State) : Out := opLea o s fun a b => a + b.signExtend 64 <<< 3
def execLea4 (o : R3) (s : State) : Out := opLea o s fun a b => a + b.signExtend 64 <<< 4
def execIaddw (o : R3) (s : State) : Out := opWide o s fun a b => a + b
def execIsubw (o : R3) (s : State) : Out := opWide o s fun a b => a - b

/-! ### R144 -/
def execAnd (o : R3) (s : State) : Out := opR3 o s fun a b => a &&& b
def execOr (o : R3) (s : State) : Out := opR3 o s fun a b => a ||| b
def execXor (o : R3) (s : State) : Out := opR3 o s fun a b => a ^^^ b
def execAndn (o : R3) (s : State) : Out := opR3 o s fun a b => a &&& ~~~ b
def execOrn (o : R3) (s : State) : Out := opR3 o s fun a b => a ||| ~~~ b
def execNot (o : R2) (s : State) : Out := opR2 o s fun a => ~~~ a
def execShl (o : R3) (s : State) : Out := opR3 o s shl
def execShrN (o : R3) (s : State) : Out := opR3 o s shrN
def execShrI (o : R3) (s : State) : Out := opR3 o s shrI
def execRotl (o : R3) (s : State) : Out := opR3 o s rotl
def execPopc (o : R2) (s : State) : Out := opR2 o s popc
def execClz (o : R2) (s : State) : Out := opR2 o s clz
def execBrev (o : R2) (s : State) : Out := opR2 o s brev
def execBytsel (o : R3) (s : State) : Out := opR3 o s bytsel

/-! ### R145, R146, R148, R149, R150 -/
def execImul (o : R3) (s : State) : Out := opR3 o s fun a b => a * b
def execImulhI (o : R3) (s : State) : Out := opR3 o s mulhI
def execImulhN (o : R3) (s : State) : Out := opR3 o s mulhN
def execImulwI (o : R3) (s : State) : Out := opMulw o s mulwI
def execImulwN (o : R3) (s : State) : Out := opMulw o s mulwN
def execImad (o : F4) (s : State) : Out := opF4 o s fun a b c => a * b + c
def execImadW (o : F4) (s : State) : Out :=
  laneOp s 4 o.g fun ln =>
    ln.setPair o.d.toNat (mulwN (ln.v o.a.toNat) (ln.v o.b.toNat) + ln.vPair o.c.toNat)
def execBfe (o : F3) (s : State) : Out :=
  laneOp s 4 o.g fun ln => ln.setV o.d.toNat (bfe (ln.v o.a.toNat) (ln.v o.c.toNat))
def execBfi (o : F4) (s : State) : Out := opF4 o s bfi
def execIset (o : Cmp) (s : State) : Out :=
  laneOp s (VSrc.len o.b) o.g fun ln => ln.setP o.p (combine o.m (ln.p o.p) (icond o.f (ln.v o.a.toNat) (VSrc.val o.b ln)))
def execIaddi (o : I12) (s : State) : Out := opI12 o s fun a i => a + i
def execAndi (o : I12) (s : State) : Out := opI12 o s fun a i => a &&& i
def execOri (o : I12) (s : State) : Out := opI12 o s fun a i => a ||| i
def execXori (o : I12) (s : State) : Out := opI12 o s fun a i => a ^^^ i
def execShi (o : Sh5) (s : State) : Out :=
  laneOp s 4 ⟨o.p, false⟩ fun ln => ln.setV o.d.toNat (shiftKind o.k (ln.v o.a.toNat) (o.c.zeroExtend 32))
def execMovi (o : I17) (s : State) : Out := laneOp s 4 ⟨o.p, false⟩ fun ln => ln.setV o.d.toNat (o.i.signExtend 32)

end Sys2Proof.Machine
end

