-- ==== Sys2Proof/Machine/LaneMove.lean ====
section
/-! DEFINITION. Moves, special values, predicates, conditions and lane exchange (spec 05 R125 to R135, 04 R106 and R107). -/
namespace Sys2Proof.Machine

def execMov (o : MovO) (s : State) : Out := laneOp s (VSrc.len o.b) o.g fun ln => ln.setV o.d.toNat (VSrc.val o.b ln)
/-- SEL writes every lane of the split; its guard field is the selector (R126). -/
def execSel (o : R3) (s : State) : Out :=
  laneOp s (VSrc.len o.b) ⟨7, false⟩ fun ln =>
    ln.setV o.d.toNat (if Guard.holds o.g ln then ln.v o.a.toNat else VSrc.val o.b ln)
def execMovu (o : MovuO) (s : State) : Out := laneOpU s 4 o.g fun u _ ln => ln.setV o.d.toNat (u.sr o.s.toNat)

/-! ### Special values (R127 to R129) -/

/-- The core's clk counter (R18). -/
def State.clk (s : State) (core : Nat) : DWord := toD (s.now + Config.clkSkew core)
/-- The units of groups on a core, and the budget (R382). -/
def Core.units (k : Core) : Nat := (k.groups.map fun g => g.2.units).sum
def State.budget (s : State) : Nat := 1024 * s.dev.pwrcap / 1600
/-- The launch of a group. -/
def State.launchOf (s : State) (g : Group) : Option Launch :=
  match s.blockOf g with
  | some b => mget (s.ctx b.ctx).launches b.launch
  | none => none
/-- Field i of an identifier under the launch's widths (R370). -/
def widField (widths : List Nat) (wid : DWord) (i : Nat) : Nat := bits wid.toNat (widths.take i).sum (widths.getD i 0)

/-- The value of a selector for one lane (R128); the latched halves of R129 apart. Of an identifier field wider than 32 bits the
low 32 are given, which is the model's choice (log 76). -/
def specialVal (s : State) (x : Ex) (act : Mask) (fl : BitVec 6) (l sel : Nat) : Word :=
  let g := x.gr
  let ln := g.lane l
  match sel with
  | 0 => toW l
  | 1 => toW x.slot
  | 2 => loOf ln.wid
  | 3 => hiOf ln.wid
  | 10 => toW (x.core % 24)
  | 11 => toW (clusterOf x.core)
  | 12 => toW s.dev.pkg
  | 13 => loOf (s.clk x.core)
  | 14 => g.uni.clkHi.getD (hiOf (s.clk x.core))
  | 15 => x.sp.mask.zeroExtend 32
  | 16 => act.zeroExtend 32
  | 17 => toW g.ctx
  | 18 => toW (s.core x.core).part
  | 19 => toW ln.stk
  | 20 => toW ln.wb
  | 21 => fl.zeroExtend 32
  | 22 => g.uni.mode
  | 23 => ln.ray
  | 24 => ln.shader
  | 25 => ln.episode
  | 32 => toW (s.pts x.core g.ctx)
  | 33 => g.uni.ptsHi.getD (toW (s.pts x.core g.ctx / 2 ^ 32))
  | 34 => toW (s.budget - (s.core x.core).units)
  | 35 => toW (match s.launchOf g with | some n => n.w0 | none => 0)
  | n => toW (widField (match s.launchOf g with | some n => n.hdr.widths | none => []) ln.wid (n - 4))

/-- A read of a low half latches the high half for the group (R129). -/
def latch (s : State) (x : Ex) (sel : Nat) (g : Group) : Group :=
  if sel = 13 then g.modUni fun u => { u with clkHi := some (hiOf (s.clk x.core)) }
  else if sel = 32 then g.modUni fun u => { u with ptsHi := some (toW (s.pts x.core x.gr.ctx / 2 ^ 32)) }
  else g

def execMovs (o : MovsO) (s : State) : Out :=
  onSplit s fun x =>
    let a := x.active o.g
    .next (s.done x 4 fun g =>
      if a = 0 then g
      else (latch s x o.s.toNat g).modLanes a fun l ln =>
        ln.setV o.d.toNat (specialVal s x a (x.gr.lane l).flags l o.s.toNat))
def execUmovs (o : U2) (s : State) : Out :=
  onSplit s fun x =>
    .next (s.done x 4 fun g => (latch s x o.a.toNat g).modUni fun u =>
      u.setS o.d.toNat (specialVal s x x.sp.mask x.gr.uni.flags (lowest x.sp.mask) o.a.toNat))

/-! ### ULANE (R130, R131) -/

def execUlaneFirst (o : UlfO) (s : State) : Out :=
  onSplit s fun x => .next (s.done x 4 fun g => g.modUni fun u =>
    u.setS o.d.toNat ((x.gr.lane (lowest x.sp.mask)).v o.a.toNat))
def execUlaneIdx (o : UliO) (s : State) : Out :=
  onSplit s fun x => .next (s.done x (SSrc.len o.b) fun g => g.modUni fun u =>
    let n := (SSrc.val o.b x.uni).toNat
    u.setS o.d.toNat (if n ≤ 7 ∧ Mask.has x.sp.mask n then (x.gr.lane n).v o.a.toNat else 0))

/-! ### Predicates (R132, R133) -/

/-- p[a], negated when n. -/
def Lane.pn (ln : Lane) (p : BitVec 3) (n : Bool) : Bool := ln.p p != n
def opPred (o : P3) (s : State) (f : Bool → Bool → Bool) : Out :=
  laneOp s 4 o.g fun ln => ln.setP o.p (f (ln.pn o.a o.m) (ln.pn o.b o.k))
def execPand (o : P3) (s : State) : Out := opPred o s fun a b => a && b
def execPor (o : P3) (s : State) : Out := opPred o s fun a b => a || b
def execPxor (o : P3) (s : State) : Out := opPred o s fun a b => a != b
def execPnot (o : P2) (s : State) : Out := laneOp s 4 o.g fun ln => ln.setP o.p (!ln.pn o.a o.m)
def execPmov (o : P2) (s : State) : Out := laneOp s 4 o.g fun ln => ln.setP o.p (ln.pn o.a o.m)
/-- Byte n of a word replaced. -/
def setByte (w : Word) (n : Nat) (b : Byte) : Word :=
  (w &&& ~~~ (BitVec.shiftLeft (0xFF : Word) (8 * n))) ||| BitVec.shiftLeft (b.zeroExtend 32) (8 * n)
def execPpack (o : PkO) (s : State) : Out :=
  laneOp s 4 o.g fun ln => ln.setV o.d.toNat (setByte (ln.v o.a.toNat) o.k.toNat ((1#1 ++ ln.preds : BitVec 8)))
def execPunpk (o : UpkO) (s : State) : Out :=
  laneOp s 4 o.g fun ln => { ln with preds := (ln.v o.a.toNat).extractLsb' (8 * o.k.toNat) 7 }

/-! ### Conditions (R134, R135) -/

def Uniform.cn (u : Uniform) (c : BitVec 3) (n : Bool) : Bool := u.c c != n
def opCond (o : C3) (s : State) (f : Bool → Bool → Bool) : Out :=
  uniOp s 4 fun u => u.setC o.c (f (u.cn o.a o.m) (u.cn o.b o.k))
def execCand (o : C3) (s : State) : Out := opCond o s fun a b => a && b
def execCor (o : C3) (s : State) : Out := opCond o s fun a b => a || b
def execCxor (o : C3) (s : State) : Out := opCond o s fun a b => a != b
def execCnot (o : C2) (s : State) : Out := uniOp s 4 fun u => u.setC o.c (!u.cn o.a o.m)

/-! ### Lane exchange (R106, R107): the active lanes are the sources and the destinations -/

/-- A lane-exchange instruction: the change of a lane from the group before and the active mask. -/
def laneX (s : State) (n : Nat) (gd : Guard) (f : Group → Mask → Nat → Lane → Lane) : Out :=
  onSplit s fun x => .next (s.done x n fun g => g.modLanes (x.active gd) (f x.gr (x.active gd)))

/-- The value of LXC from a source lane; a lane that is not active keeps its own. -/
def lxcRes (g : Group) (act : Mask) (a l : Nat) (src : Int) : Word :=
  if 0 ≤ src ∧ src ≤ 7 ∧ Mask.has act src.toNat then (g.lane src.toNat).v a else (g.lane l).v a
def opLxc (o : R3) (s : State) (f : Nat → Nat → Int) : Out :=
  laneX s (VSrc.len o.b) o.g fun g act l ln =>
    ln.setV o.d.toNat (lxcRes g act o.a.toNat l (f l (VSrc.val o.b (g.lane l)).toNat))
def execLxcAt (o : R3) (s : State) : Out := opLxc o s fun _ n => n
def execLxcFlip (o : R3) (s : State) : Out := opLxc o s fun l n => ((l ^^^ n % 8 : Nat) : Int)
def execLxcBelow (o : R3) (s : State) : Out := opLxc o s fun l n => (l : Int) - n
def execLxcAbove (o : R3) (s : State) : Out := opLxc o s fun l n => (l : Int) + n
def execLany (o : P2) (s : State) : Out :=
  laneX s 4 o.g fun g act _ ln => ln.setP o.p ((lanesOf act).any fun m => (g.lane m).pn o.a o.m)
def execLall (o : P2) (s : State) : Out :=
  laneX s 4 o.g fun g act _ ln => ln.setP o.p ((lanesOf act).all fun m => (g.lane m).pn o.a o.m)
def execLmask (o : LmaskO) (s : State) : Out :=
  laneX s 4 o.g fun g act _ ln =>
    ln.setV o.d.toNat ((maskOf ((lanesOf act).filter fun m => (g.lane m).pn o.a o.m)).zeroExtend 32)
def execLfirst (o : LfirstO) (s : State) : Out :=
  laneX s 4 o.g fun _ act l ln => ln.setP o.p (decide (l = lowest act))
/-- The values of a register in the active lanes. -/
def laneVals (g : Group) (act : Mask) (a : Nat) : List Word := (lanesOf act).map fun m => (g.lane m).v a
/-- The fold of a non-empty list. -/
def foldVals (f : Word → Word → Word) : List Word → Word
  | [] => 0
  | x :: t => t.foldl f x
def opLred (o : R2) (s : State) (f : Word → Word → Word) : Out :=
  laneX s 4 o.g fun g act _ ln => ln.setV o.d.toNat (foldVals f (laneVals g act o.a.toNat))
def execLsum (o : R2) (s : State) : Out := opLred o s fun a b => a + b
def execLminI (o : R2) (s : State) : Out := opLred o s minI
def execLmaxI (o : R2) (s : State) : Out := opLred o s maxI
def execLsame (o : R2) (s : State) : Out :=
  laneX s 4 o.g fun g act l ln =>
    ln.setV o.d.toNat
      ((maskOf ((lanesOf act).filter fun m => (g.lane m).v o.a.toNat == (g.lane l).v o.a.toNat)).zeroExtend 32)

end Sys2Proof.Machine
end

