-- ==== Sys2Proof/Machine/Control.lean ====
section
/-! DEFINITION. Branches and joins (spec 04 R90, R95 to R105, R109). -/
namespace Sys2Proof.Machine

/-- The active lanes go to a target, the others on (R96). -/
def Ex.branch (x : Ex) (a : Mask) (target : Pc) (n : Nat) : List Part :=
  [⟨a, target, true, none⟩, ⟨x.sp.mask &&& ~~~ a, Pc.plus x.sp.pc n, false, none⟩]

/-- Join completions are counted (R94). -/
def State.joined (s : State) (core : Nat) (q : Group × Nat) : State × Group := (s.bump core .jndone q.2, q.1)

def execBra (o : BraO) (s : State) : Out :=
  onSplit s fun x => .next (s.divide x x.gr (x.branch (x.active o.g) (Pc.disp x.sp.pc o.d) 4))

/-- The check of per-lane targets (R98): misaligned first, then not canonical. -/
def targetFault (s : State) (x : Ex) (w : Word) (t : List (Nat × DWord)) : Option Out :=
  let mis := t.filter fun p => p.2.extractLsb' 0 2 != 0
  let bad := t.filter fun p => !canonical p.2
  match mis, bad with
  | _ :: _, _ => some (trapAt s x 7 (maskOf (mis.map Prod.fst)) w 0)
  | [], p :: _ => some (trapAt s x 5 (maskOf (bad.map Prod.fst)) (loOf p.2) (hiOf p.2))
  | [], [] => none
/-- The parts of per-lane targets, and the other lanes. -/
def Ex.targets (x : Ex) (a : Mask) (t : List (Nat × DWord)) (n : Nat) : List Part :=
  (t.map fun p => ⟨laneBit p.1, Pc.of p.2, true, none⟩) ++ [⟨x.sp.mask &&& ~~~ a, Pc.plus x.sp.pc n, false, none⟩]
/-- The first word of an instruction. -/
def firstWord (i : Instr) : Word := (encode i).headD 0

def execBrx (o : A1) (s : State) : Out :=
  onSplit s fun x =>
    let a := x.active o.g
    let t := (lanesOf a).map fun l => (l, (x.gr.lane l).vPair o.a.toNat)
    match targetFault s x (firstWord (.brx o)) t with
    | some r => r
    | none => .next (s.divide x x.gr (x.targets a t 4))
/-- The join registers of a mask, ascending. -/
def joinsOf (m : BitVec 8) : List Nat := lanesOf m
def execBrk (o : BrkO) (s : State) : Out :=
  onSplit s fun x =>
    let a := x.active o.g
    let q := s.joined x.core (x.gr.leaveJoins (joinsOf o.m) a s.now)
    .next (q.1.divide x q.2 (x.branch a (Pc.disp x.sp.pc o.d) 4))
def execJset (o : JsetO) (s : State) : Out :=
  onSplit s fun x => .next (s.done x 4 fun g => g.armJoin o.j.toNat x.sp.mask (Pc.disp x.sp.pc o.d))
/-- JWAIT (R103): the armed active lanes arrive and wait; their PC in the table is the JWAIT's (R81). -/
def execJwait (o : JwaitO) (s : State) : Out :=
  onSplit s fun x =>
    let j := o.j.toNat
    let w := x.active o.g &&& (x.gr.joinAt j).arm
    if w = 0 then .next (s.done x 4 id)
    else
      let s := s.divide x x.gr [⟨w, x.sp.pc, false, some j⟩, ⟨x.sp.mask &&& ~~~ w, Pc.plus x.sp.pc 4, false, none⟩]
      match s.group x.core x.slot with
      | none => .next s
      | some g =>
        let q := s.joined x.core (g.arriveJoin j w s.now)
        .next (q.1.setGroup x q.2)
def execJdrop (o : JdropO) (s : State) : Out :=
  onSplit s fun x =>
    let q := s.joined x.core (x.gr.leaveJoins (joinsOf o.m) (x.active o.g) s.now)
    .next (q.1.setGroup x (q.2.advance x.entry 4))
def execJget (o : JgetO) (s : State) : Out :=
  onSplit s fun x => .next (s.done x 4 fun g => g.modLanes (x.active o.g) fun _ ln =>
    ln.setPair o.d.toNat (toD (joinImage (x.gr.joinAt o.j.toNat))))
/-- The lanes in state JOIN at a join register. -/
def Group.waitingAt (g : Group) (j : Nat) : Mask :=
  (g.splits.filter fun p => p.2.st == .join j).foldl (fun m p => m ||| p.2.mask) 0
def execJput (o : JputO) (s : State) : Out :=
  onSplit s fun x =>
    let a := x.active o.g
    let j := o.j.toNat
    if a = 0 then .next (s.done x 4 id)
    else
      let v := (x.gr.lane (lowest a)).vPair o.a.toNat
      let arm := v.extractLsb' 56 8 &&& x.gr.live
      let g := (x.gr.advance x.entry 4).setJoin j
        ⟨arm, v.extractLsb' 48 8 &&& arm &&& x.gr.waitingAt j, v.extractLsb' 0 47⟩
      let q := s.joined x.core (g.tryComplete j s.now)
      .next (q.1.setGroup x q.2)

/-- The whole split goes to a target. -/
def State.goTo (s : State) (x : Ex) (p : Pc) : State := s.divide x x.gr [⟨x.sp.mask, p, true, none⟩]
def execUbra (o : UbraO) (s : State) : Out :=
  onSplit s fun x =>
    if x.uni.c o.c.p != o.c.n then .next (s.goTo x (Pc.disp x.sp.pc o.d)) else .next (s.done x 4 id)
def execUjmp (o : Ua) (s : State) : Out :=
  onSplit s fun x =>
    let t := x.uni.pair o.a.toNat
    match targetFault s x (firstWord (.ujmp o)) ((lanesOf x.sp.mask).map fun l => (l, t)) with
    | some r => r
    | none => .next (s.goTo x (Pc.of t))

def execNop (_ : G0) (s : State) : Out := onSplit s fun x => .next (s.done x 4 id)

/-- The membership vector of a lane (R86). -/
def Group.member (g : Group) (l : Nat) : List Bool := (List.range 8).map fun n => Mask.has (g.joinAt n).arm l
/-- OPPORTUNISTIC_MERGE (R90): two READY splits at one PC, all lanes of one membership, nothing pending. -/
def execOpportunisticMerge (core slot e1 e2 : Nat) (s : State) : Out :=
  match s.group core slot with
  | none => .refused .eventNotDue
  | some g =>
    match mget g.splits e1, mget g.splits e2 with
    | some a, some b =>
      let m := a.mask ||| b.mask
      let same := (lanesOf m).all fun l => g.member l == g.member (lowest m)
      if e1 < e2 ∧ a.st = .ready ∧ b.st = .ready ∧ a.pc = b.pc ∧ same = true ∧ g.pending m = false ∧ g.trapping = none ∧
          a.half = 0 ∧ b.half = 0 ∧ a.latch = none ∧ b.latch = none ∧ g.holder ≠ some e1 ∧ g.holder ≠ some e2 then
        let sp : Split :=
          { a with mask := m, wins := [], jumped := a.jumped || b.jumped, since := max a.since b.since,
                   notBefore := max a.notBefore b.notBefore, yield := a.yield.orElse fun _ => b.yield }
        .next ((s.bump core .splopm).modGroup core slot fun g => { g with splits := mset (mdel g.splits e2) e1 sp })
      else .refused .eventNotDue
    | _, _ => .refused .eventNotDue

end Sys2Proof.Machine
end

