-- ==== Sys2Proof/Machine/Traps.lean ====
section
/-! DEFINITION. TFENCE, TRAP, BKPT, RTT, the flag and mode instructions, and TRAP_ENTRY (spec 15 R422 to R432, R61, R67). -/
namespace Sys2Proof.Machine

/-! ### Arithmetic traps (R422) -/

/-- mode[13:8]. -/
def Uniform.ten (u : Uniform) : BitVec 6 := u.mode.extractLsb' 8 6
def execTfence (s : State) : Out :=
  onSplit s fun x =>
    let e := x.gr.uni.ten
    let hit := (lanesOf x.gr.live).filter fun l => (x.gr.lane l).flags &&& e != 0
    let tl := hit.foldl (fun t l => t ||| ((x.gr.lane l).flags &&& e)) 0
    let tg := x.gr.uni.flags &&& e
    if tl ≠ 0 ∨ tg ≠ 0 then trapAt s x 0x10 (maskOf hit) (tl.zeroExtend 32) (tg.zeroExtend 32)
    else .next (s.done x 4 id)

/-! ### R432 -/

def execTrap (o : Ub) (s : State) : Out :=
  onSplit s fun x => .next (s.raise x.core x.slot x.gr
    ⟨0x11, x.entry, x.sp.mask, x.sp.pc, Pc.plus x.sp.pc (SSrc.len o.b), SSrc.val o.b x.uni, 0⟩)
def execBkpt (s : State) : Out := onSplit s fun x => trapAt s x 0x12 x.sp.mask 0 0
def execFlgr (o : Ud) (s : State) : Out :=
  onSplit s fun x => .next (s.done x 4 fun g => g.modUni fun u =>
    let lf := (lanesOf x.sp.mask).foldl (fun f l => f ||| (x.gr.lane l).flags) 0
    (u.setS o.d.toNat (u.flags.zeroExtend 32)).setS (o.d.toNat + 1) (lf.zeroExtend 32))
def execFlgc (o : Ub) (s : State) : Out :=
  onSplit s fun x => .next (s.done x (SSrc.len o.b) fun g =>
    let v := SSrc.val o.b x.uni
    (g.modLanes x.sp.mask fun _ ln => { ln with flags := ln.flags &&& ~~~ (v.extractLsb' 0 6) }).modUni fun u =>
      { u with flags := u.flags &&& ~~~ (v.extractLsb' 8 6) })
/-- The fields of the mode word; its reserved bits hold 0 (R30). -/
def modeBits : Word := 0x3F03
/-- A new mode applies to later instructions of every split: the others issue no more in this clk (R140). -/
def Group.setMode (g : Group) (e now : Nat) (m : Word) : Group :=
  { g with uni := { g.uni with mode := m &&& modeBits },
           splits := mall g.splits fun i (sp : Split) =>
             if i = e then sp else { sp with notBefore := max sp.notBefore (now + 1) } }
def execMode (o : Ub) (s : State) : Out :=
  onSplit s fun x => .next (s.done x (SSrc.len o.b) fun g => g.setMode x.entry s.now (SSrc.val o.b x.uni))
def execModer (o : U3) (s : State) : Out :=
  onSplit s fun x => .next (s.done x (SSrc.len o.b) fun g =>
    let u := x.gr.uni
    let a := u.sr o.a.toNat
    (g.setMode x.entry s.now ((u.mode &&& ~~~ a) ||| (SSrc.val o.b u &&& a))).modUni fun v => v.setS o.d.toNat u.mode)

/-! ### Illegal instructions and literals (R53, R67, R68) -/

/-- A cause decided before the guard: every lane of the split is named, with the two words. -/
def wordFault (s : State) (x : Ex) (cause : Nat) (w0 w1 : Word) : Out := trapAt s x cause x.sp.mask w0 w1

/-! ### RTT (R429, R430) -/

/-- Some store of the group is not performed at scope 3: of global memory, of scratch, or of a row by ROWWR. -/
def State.storesOut (s : State) (uid : Nat) : Bool :=
  (s.fly.reqs.any fun r => decide (r.2.who.uid = uid) &&
    (match r.2.op with | .st .. => true | .red .. => true | .redOrd .. => true | .atom .. => true | _ => false)) ||
  (s.fly.touches.any fun t => decide (t.2.who.uid = uid) && (match t.2.op with | .sld .. => false | _ => true)) ||
  s.cores.any fun c => c.2.rows.xfers.any fun t => decide (t.2.who.uid = uid ∧ t.2.kind = .fromScratch)
/-- Every lane's window is the one at entry. -/
def Group.sameWindows (g : Group) (h : Frozen) : Bool :=
  (lanesOf g.live).all fun l => (g.lane l).wb == h.wbs.getD l 0
def execRtt (s : State) : Out :=
  onSplit s fun x =>
    match x.gr.handler with
    | none => wordFault s x 1 (firstWord .rtt) 0
    | some h =>
      let cf := fun (s : State) (c : Nat) => Host.Outcome.next
        (s.contextFault x.gr.ctx ⟨0x14, c, x.core, x.slot, Pc.addr x.sp.pc, 0⟩)
      if x.gr.splits.length > 1 || !x.gr.sameWindows h then cf s 0x13
      else if x.gr.pend ≠ [] || s.storesOut x.gr.uid then hold s
      else
        match s.agentRead x.gr.ctx { priv := true } [0] (partsOf (s.frameAddr x.gr.ctx x.core x.slot) 320) with
        | (.error (c, _), s) => cf s c
        | (.ok bs, s) =>
          let q := s.joined x.core (x.gr.leaveHandler h (bs.map Prod.fst) s.now)
          .next (q.1.setGroup x q.2)

/-! ### TRAP_ENTRY (R425) -/

/-- TRAP_ENTRY: the raised cause of a group that has become quiet. -/
def execTrapEntry (core slot : Nat) (s : State) : Out :=
  match s.group core slot with
  | none => .refused .eventNotDue
  | some g =>
    match g.trapping with
    | none => .refused .eventNotDue
    | some r => if g.quiet then .next (s.takeTrap core slot g r) else .refused .eventNotDue

end Sys2Proof.Machine
end

