-- ==== Sys2Proof/Machine/Release.lean ====
section
/-! DEFINITION. Release and acquire: what is performed at a scope, the write-back of mapped words, halo pushes, and FENCE
(spec 07 R180, R182, R183, R186, 09 R239 to R243, R255, R256, R463). -/
namespace Sys2Proof.Machine

/-! ### What a release covers -/

/-- The binding table that an instruction began under (R249). -/
def State.bindsOf (s : State) (x : Ex) : Map Binding :=
  match x.sp.latch with
  | some l => l.binds
  | none => (s.ctx x.gr.ctx).binds
/-- The accesses that a release covers: of global addresses by line, and of scratch. -/
structure Cover where
  /-- none: every address; else the regions of an object. -/
  obj : Option Nat := none
  /-- The binding table that gives the regions. -/
  binds : Map Binding := []
  /-- none: every address; else lists of (base, length). -/
  ranges : Option (List (Nat × Nat)) := none
  /-- Scratch beside these ranges: core, offset, length. -/
  scr : List (Nat × Nat × Nat) := []
  deriving DecidableEq, Repr
def Cover.all : Cover := {}
/-- The accesses of an object's regions, by the table that the SYNC began under. -/
def State.coverOf (s : State) (x : Ex) (obj : Nat) : Cover := { obj := some obj, binds := s.bindsOf x }
def Cover.inRanges (c : Cover) (va : Nat) : Bool :=
  match c.ranges with
  | some l => l.any fun r => decide (r.1 < va + 64 ∧ va < r.1 + r.2)
  | none => true
/-- An address is covered. -/
def Cover.covers (c : Cover) (va : Nat) : Bool :=
  (match c.obj with | some o => regionObj c.binds va == o | none => true) && c.inRanges va
/-- A mapped word is covered: by its global address, or as scratch. -/
def Cover.takesWord (c : Cover) (core off va : Nat) : Bool :=
  c.covers va || c.scr.any fun r => decide (r.1 = core ∧ r.2.1 < off + 4 ∧ off < r.2.1 + r.2.2)
/-- A request is covered: by the objects that its addresses belonged to when it was made (R249). -/
def Cover.takes (c : Cover) (r : Req) : Bool :=
  r.vas == [] || ((match c.obj with | some o => r.objs.contains o | none => true) && r.vas.any c.inRanges)
/-- Scratch addresses belong to the default object (R249). -/
def Cover.scratch (c : Cover) : Bool := (c.obj == none || c.obj == some 0) && c.ranges.isNone

/-! ### Performed at a scope (R243, R256) -/

/-- A request that stands for an access not performed at the scope. -/
def ReqOp.unperformed (scope : Nat) : ReqOp → Bool
  | .ld .. => true
  | .st _ inL1 => !(inL1 && decide (scope ≤ 3))
  | .atom .. => true
  | .red .. => true
  | .redOrd .. => true
  | _ => false
/-- The maker of a request is of the group, or of the split for scope 0, and issued before this instruction. -/
def State.earlierIn (s : State) (x : Ex) (scope : Nat) (w : Owner) : Bool := s.before x w && decide (scope = 0 → w.entry = x.entry)
/-- Every covered access that the group has issued is performed at the scope. -/
def State.performed (s : State) (x : Ex) (scope : Nat) (c : Cover) : Bool :=
  (decide (scope = 0) || !s.earlier x fun _ => true) &&
  (s.fly.reqs.all fun r => !(r.2.op.unperformed scope && s.earlierIn x scope r.2.who && c.takes r.2)) &&
  (s.fly.touches.all fun t => !(c.scratch && s.earlierIn x scope t.2.who)) &&
  (s.fly.tests.all fun t => !s.earlierIn x scope t.2.who) &&
  ((s.core x.core).rows.xfers.all fun t => !s.earlierIn x scope t.2.who) &&
  (s.core x.core).mx.queue.all fun e => !s.earlierIn x scope e.who
/-- Every load and ATOM that the group has issued has written its result. -/
def State.loadsDone (s : State) (x : Ex) : Bool :=
  !s.earlier x (fun _ => true) &&
  (s.fly.reqs.all fun r => !(s.before x r.2.who && (match r.2.op with | .ld .. => true | .atom .. => true | _ => false))) &&
  (s.fly.touches.all fun t => !(s.before x t.2.who && t.2.op.reads)) &&
  (s.fly.tests.all fun t => !s.before x t.2.who) &&
  (s.core x.core).rows.xfers.all fun t => decide (t.2.kind = .fromScratch) || !s.before x t.2.who
/-- ATOM, RED, SATOM and the push to a mailbox (R409); the other synchronisation accesses hold the group (R241, R463). -/
def isAtomic : Instr → Bool
  | .atom _ => true
  | .red _ => true
  | .satom _ => true
  | .qpush o => decide (12 ≤ o.q.toNat)
  | _ => false
/-- An earlier synchronisation access of the group is not performed yet (R241). -/
def State.syncBusy (s : State) (x : Ex) : Bool :=
  (s.fly.reqs.any fun r => s.before x r.2.who &&
    (match r.2.op with | .atom .. => true | .red .. => true | .redOrd .. => true | _ => false)) ||
  (s.fly.touches.any fun t => s.before x t.2.who && (match t.2.op with | .satom .. => true | _ => false)) ||
  s.earlier x isAtomic

/-! ### Write-back of mapped words (R180) -/

/-- The global address of a mapped word of a read-write entry. -/
def Window.globalOf (w : Window) (m : SMapping) (off : Nat) : Nat := m.b + (off - w.off - m.s)
/-- The DIRTY words of a block's window in the given places: each line with its words and its global address. -/
def State.dirtyLines (s : State) (core blk : Nat) (f : Nat → Nat → Bool) : List (Nat × BitVec 16 × Nat) :=
  match s.blockWin core blk with
  | none => []
  | some w =>
    let ws := (s.core core).scratch.words.filterMap fun p =>
      if p.2.st ≠ .dirty then none
      else
        match w.maps.find? fun m => decide (w.off + m.2.s ≤ 4 * p.1 ∧ 4 * p.1 < w.off + m.2.s + m.2.n) with
        | some m => let va := w.globalOf m.2 (4 * p.1); if f (4 * p.1) va then some (4 * p.1, va) else none
        | none => none
    let lines := (ws.map fun p => scrLine p.1).eraseDups
    lines.map fun l =>
      let here := ws.filter fun p => scrLine p.1 = l
      (l, here.foldl (fun m p => setBit m (p.1 % 64 / 4) true) 0, match here with | p :: _ => lineAddr p.2 | [] => 0)

/-- What the translation of lines to write back gives. -/
inductive WbTr where
  | ok (l : List (Nat × BitVec 16 × Nat × DWord × Nat))
  | miss
  | bad (cause : Nat) (host : Bool) (va : Nat)
  deriving DecidableEq, Repr
def State.wbTranslate (s : State) (x : Ex) : List (Nat × BitVec 16 × Nat) → WbTr × State
  | [] => (.ok [], s)
  | (o, m, va) :: t =>
    match s.translate x.core x.gr.ctx x.waiter va { write := true } with
    | (.miss, s) => (.miss, s)
    | (.bad c h, s) => (.bad c h va, s)
    | (.ok e pa, s) =>
      if pteClass e > 1 then (.bad 6 false va, s)
      else
        match State.wbTranslate s x t with
        | (.ok l, s) => (.ok ((o, m, va, e, pa) :: l), s)
        | r => r
/-- One masked line write of DIRTY words. -/
def State.sendWb (s : State) (x : Ex) (l : Nat × BitVec 16 × Nat × DWord × Nat) : State :=
  let k := (s.core x.core).scratch
  let d := k.line l.1
  s.send { who := x.owner s.nextId, op := .swb x.core l.1, pa := lineAddr l.2.2.2.2, cls := pteClass l.2.2.2.1,
           lease := pteLease l.2.2.2.1, pts := s.pts x.core x.gr.ctx, data := d.1, mask := maskOfWords l.2.1,
           poison := d.2, vas := [l.2.2.1],
           objs := s.objsOf x.gr.ctx [l.2.2.1] }
def ReqOp.isSwb : ReqOp → Bool
  | .swb .. => true
  | _ => false
/-- Write-backs that this split waits for. -/
def State.wbOut (s : State) (x : Ex) : Bool :=
  s.fly.reqs.any fun r => r.2.op.isSwb && decide (r.2.who.uid = x.gr.uid ∧ r.2.who.entry = x.entry)
/-- SCRATCH_WB_ACK: the words that still hold what was written become CLEAN (R177, R180). -/
def execScratchWbAck (id : Nat) (s : State) : Out :=
  match mget s.fly.reqs id with
  | none => .refused .eventNotDue
  | some r =>
    match r.op with
    | .swb core off =>
      if r.phase ≠ .back ∨ (s.fly.scrProbes.any fun p => decide (p.2.req = id)) = true then .refused .eventNotDue
      else
        let ws := (List.range 16).filter fun i => r.mask.getLsbD (4 * i)
        let s := s.dropReq id
        let s := if r.cls = 1 then s.raisePts core r.who.ctx r.wts else s
        let s := s.bump core .swbw ws.length
        .next (ws.foldl (fun s i =>
          let o := off + 4 * i
          let same := (List.range 4).all fun b => Bytes.at_ (s.core core).scratch.bytes (o + b) == lineByte r.data (4 * i + b)
          match mget (s.core core).scratch.words (o / 4) with
          | some w =>
            if w.st = .dirty ∧ same = true then
              s.setWord core o { st := .clean, share := if r.cls = 0 then some (r.pa + 4 * i) else none, lcl := r.cls == 1,
                                 va := if r.cls = 1 then r.vas.headD 0 + 4 * i else 0 }
            else s
          | none => s) s |>.applyProbes core)
    | _ => .refused .eventNotDue

/-! ### Halo pushes (R186) -/

/-- The snake position of core c of a cluster (R414). -/
def snakePos (c : Nat) : Nat := if c / 6 % 2 = 0 then c else c / 6 * 6 + (5 - c % 6)
/-- Pushes of a block's owner ranges with M = 1 that a test selects, one for each replica. -/
def State.pushHalos (s : State) (x : Ex) (f : Halo → Bool) : State :=
  match s.blockWin x.core x.gr.blk with
  | none => s
  | some w =>
    let path := s.nextId
    (s.core x.core).scratch.halo.foldl (fun s h =>
      if h.2.m && w.covers h.2.off h.2.len && f h.2 then
        let k := (s.core x.core).scratch
        let p : Push :=
          { owner := x.core, halo := h.1, len := h.2.len, off := h.2.off, data := Bytes.read k.bytes h.2.off h.2.len
            poison := (List.range (h.2.len / 4)).map fun i => mgetD k.poison (h.2.off / 4 + i) false
            core := h.2.core, blk := h.2.blk, dst := h.2.dst, path := path, who := x.owner s.nextId }
        { (s.fresh.modCore x.core fun k => { k with scratch := { k.scratch with
            halo := mmod k.scratch.halo h.1 fun e => { e with m := false } } }) with
          fly := { s.fly with pushes := mset s.fly.pushes s.nextId p } }
      else s) s
/-- Pushes that this split waits for. -/
def State.pushOut (s : State) (x : Ex) : Bool :=
  s.fly.pushes.any fun p => decide (p.2.who.uid = x.gr.uid ∧ p.2.who.entry = x.entry)
/-- Another push of one owner range. -/
def Push.sameRange (p q : Push) : Bool := decide (p.owner = q.owner ∧ p.off = q.off ∧ p.len = q.len)
/-- The replicas of a range are reached in snake order, and one replica in the order of the push acts (R186, R414): another push
goes before this one. -/
def State.pushBefore (s : State) (p : Push) : Bool :=
  s.fly.pushes.any fun q => !q.2.arrived && p.sameRange q.2 &&
    ((q.2.path == p.path && decide (snakePos (q.2.core % 24) < snakePos (p.core % 24))) ||
     (decide (q.2.path < p.path) && q.2.core == p.core && q.2.dst == p.dst))
/-- The range as it stands when it is read: with a store made meanwhile (late = 1) or without; it is read once for all
replicas of the act. -/
def State.readPush (s : State) (p : Push) (late : Nat) : State :=
  if p.taken then s
  else
    let k := (s.core p.owner).scratch
    let fresh := decide (late = 1) && (s.windowAt p.owner p.off p.len p.who.ctx).isSome
    let d := if fresh then Bytes.read k.bytes p.off p.len else p.data
    let w := if fresh then (List.range (p.len / 4)).map fun i => mgetD k.poison (p.off / 4 + i) false else p.poison
    { s with fly := { s.fly with pushes := mall s.fly.pushes fun _ q =>
        if q.path = p.path ∧ p.sameRange q = true then { q with data := d, poison := w, taken := true } else q } }
/-- HALO_PUSH_ARRIVAL: the replica's words become CLEAN with the pushed values; a push to a block that is not there is
discarded. -/
def execHaloPushArrival (id late : Nat) (s : State) : Out :=
  match mget s.fly.pushes id with
  | none => .refused .eventNotDue
  | some p =>
    if p.arrived || s.pushBefore p then .refused .eventNotDue
    else
      let s := s.readPush p late
      let p := mgetD s.fly.pushes id p
      let s := { s.bump p.owner .shalol (p.len / 64) with fly := { s.fly with pushes := mset s.fly.pushes id { p with arrived := true } } }
      match s.blockWin p.core p.blk with
      | none => .next s
      | some _ =>
        let s := (List.range (p.len / 4)).foldl (fun s i =>
          let o := p.dst + 4 * i
          match s.mapAt p.core o with
          | some (w, _, m) =>
            if w.blk = p.blk ∧ m.kind = .replica then
              ((s.putScr p.core o ((p.data.drop (4 * i)).take 4)).setScrPoison p.core o (p.poison.getD i false)).setWord p.core o { st := .clean }
            else s
          | none => s) s
        .next (s.finishTouches p.core)
/-- HALO_PUSH_DONE: the acknowledgement returns. -/
def execHaloPushDone (id : Nat) (s : State) : Out :=
  match mget s.fly.pushes id with
  | none => .refused .eventNotDue
  | some p => if p.arrived then .next { s with fly := { s.fly with pushes := mdel s.fly.pushes id } } else .refused .eventNotDue

/-! ### Release -/

/-- How far a release has come. -/
inductive Rel where
  | done (s : State)
  | wait (s : State)
  | fault (o : Out)
  deriving Repr

/-- DIRTY words written back and pushes made, then their acknowledgements awaited; half tells whether they were sent. -/
def State.writeBackAll (s : State) (x : Ex) (f : Nat → Nat → Bool) (push : Halo → Bool) : Rel :=
  if x.sp.half = 0 then
    match s.wbTranslate x (s.dirtyLines x.core x.gr.blk f) with
    | (.miss, s) => .wait s
    | (.bad c h va, s) => .fault (accessFault s x c h true x.sp.mask (toD va))
    | (.ok l, s) =>
      let s := (l.foldl (fun s p => s.sendWb x p) s).pushHalos x push
      if s.wbOut x || s.pushOut x then .wait (s.setHalf x 1) else .done s
  else if s.wbOut x || s.pushOut x then .wait s else .done s
/-- A release point of a scope over what it covers: every access performed, then the work of R182 or R183. -/
def State.release (s : State) (x : Ex) (scope : Nat) (c : Cover) : Rel :=
  if x.sp.half = 0 ∧ s.performed x scope c = false then .wait s
  else if scope < 4 then .done s
  else s.writeBackAll x (fun off va => c.takesWord x.core off va) fun _ => true
/-- An instruction that waits for its own release before it is sent (R82): READY and not eligible. -/
def released (s : State) (x : Ex) (scope : Nat) (c : Cover) (k : State → Out) : Out :=
  match s.release x scope c with
  | .done s => k (if 5 ≤ scope then s.raiseFloor x.gr.ctx (s.pts x.core x.gr.ctx) else s)
  | .wait s => hold s
  | .fault o => o

/-- An instruction that holds the group from its issue until it completes, faults or is withdrawn (R463). -/
def onGroup (s : State) (f : Ex → State → Out) : Out :=
  onSplit s fun x => f x (s.modGroup x.core x.slot fun g => { g with holder := some x.entry })
/-- An instruction that holds the group waits (R463). -/
def groupWait (s : State) (x : Ex) (w : Wait) : Out :=
  waitOn (s.modGroup x.core x.slot fun g => { g with holder := some x.entry }) x w
/-- The instruction that holds the group completes. -/
def State.groupDone (s : State) (x : Ex) (n : Nat) (f : Group → Group) : State :=
  s.done x n fun g => f { g with holder := none }
/-- A release by an instruction that holds the group. -/
def groupReleased (s : State) (x : Ex) (w : Wait) (scope : Nat) (c : Cover) (k : State → Out) : Out :=
  match s.release x scope c with
  | .done s => k (if 5 ≤ scope then s.raiseFloor x.gr.ctx (s.pts x.core x.gr.ctx) else s)
  | .wait s => groupWait s x w
  | .fault o => o

/-! ### Acquire on mapped words (R182, R183) -/

/-- CLEAN and PENDING words over L-class backing in the covered addresses become ABSENT. -/
def State.acquireWords (s : State) (core blk : Nat) (c : Cover) : State :=
  s.acquireWhere core blk c.covers

/-! ### FENCE (R255, R256) -/

/-- FENCE: the release part, then the acquire part. -/
def opFence (rel acq : Bool) (o : FenO) (s : State) : Out :=
  onGroup s fun x s =>
    let sc := o.s.toNat
    let fin := fun (s : State) =>
      if acq && !s.loadsDone x then groupWait s x .poll
      else
        let s := if acq && decide (4 ≤ sc) then s.acquireWords x.core x.gr.blk Cover.all else s
        .next (s.groupDone x 4 fun g => { g with fenced := g.fenced || rel })
    if rel then groupReleased s x .poll sc Cover.all fin else fin s
def execFenceAcq (o : FenO) (s : State) : Out := opFence false true o s
def execFenceRel (o : FenO) (s : State) : Out := opFence true false o s
def execFenceFull (o : FenO) (s : State) : Out := opFence true true o s

end Sys2Proof.Machine
end

