-- ==== Sys2Proof/Machine/Atomics.lean ====
section
/-! DEFINITION. ATOM, RED, SATOM and ORDOPEN, and what becomes of them at the home slices (spec 07 R195, R196, 09 R257 to
R261). -/
namespace Sys2Proof.Machine

/-- One address that a uniform instruction names: aligned, canonical, translated and of an allowed class. -/
def uniAccess (s : State) (x : Ex) (va : DWord) (a : Access) (classes : List Nat) (al : Nat)
    (k : DWord → Nat → State → Out) : Out :=
  if va.toNat % al ≠ 0 then trapAt s x 7 x.sp.mask (loOf va) (hiOf va)
  else if !canonical va then trapAt s x 5 x.sp.mask (loOf va) (hiOf va)
  else
    match s.translate x.core x.gr.ctx x.waiter va.toNat a with
    | (.miss, s) => hold s
    | (.bad c h, s) => accessFault s x c h a.write x.sp.mask va
    | (.ok e pa, s) => if pteClass e ∈ classes then k e pa s else accessFault s x 6 false a.write x.sp.mask va

/-! ### ATOM and RED (R257 to R259) -/

/-- The requests of an atomic or a reduction, one for each line. -/
def State.sendAtomic (s : State) (x : Ex) (iid : Nat) (op : ReqOp) (val : Nat → LaneAcc → LaneAcc) (u : LineUse) : State :=
  s.send { who := x.owner iid, op := op, pa := u.pa, cls := u.cls, lease := u.lease, pts := s.pts x.core x.gr.ctx,
           lanes := u.lanes.map fun k => val k.lane ⟨k.lane, k.pa % 64, 0, 0⟩, vas := u.vas,
           objs := s.objsOf x.gr.ctx u.vas, fenced := x.gr.fenced }
/-- The address of a lane: va:va+1 + off16. -/
def atomAddr (o : LaO) (ln : Lane) : DWord := ln.vPair o.a.toNat + o.off.signExtend 64
/-- What every synchronisation access waits for at issue: an acquire, an earlier one of the group (R241), its lines. -/
def State.atomHeld (s : State) (x : Ex) (us : List LineUse) : Bool :=
  s.acqBusy x || s.syncBusy x || us.any fun u => s.lineBusy x u.pa
/-- The release part, where the order has one. -/
def ordered (s : State) (x : Ex) (order scope : Nat) (k : State → Out) : Out :=
  if order / 2 = 1 then released s x scope Cover.all k else k s

def execAtom (o : LaO) (s : State) : Out :=
  onSplit s fun x =>
    let act := x.active o.g
    let z := 2 ^ o.size.toNat
    let op := o.op.toNat
    if act = 0 then .next (s.done x 8 id)
    else
      withChecks s x { write := op != 11 } [0, 1] z ((lanesOf act).map fun l => (l, atomAddr o (x.gr.lane l))) fun ks s =>
        let us := lineUses ks
        if s.atomHeld x us then hold s
        else
          ordered s x o.order.toNat o.scope.toNat fun s =>
            let iid := s.nextId
            let val := fun l (k : LaneAcc) => { k with val := (x.gr.lane l).atomVal o.b.toNat z op }
            let s := us.foldl (fun s u => s.sendAtomic x iid (.atom op z o.d.toNat o.order.toNat o.scope.toNat) val u) s.fresh
            let s := if op = 12 then s else s.modGroup x.core x.slot fun g => { g with pend := g.pend ++ ((lanesOf act).flatMap fun l =>
              (List.range (z / 4)).map fun i => (⟨iid, some l, .v (o.d.toNat + i)⟩ : Pend)) }
            .next (s.done x 8 fun g => g.window x.entry iid o.l.toNat)
def execRed (o : LaO) (s : State) : Out :=
  onSplit s fun x =>
    let act := x.active o.g
    let z := 2 ^ o.size.toNat
    let op := o.op.toNat
    if act = 0 then .next (s.done x 8 id)
    else
      withChecks s x { write := true } [0, 1] z ((lanesOf act).map fun l => (l, atomAddr o (x.gr.lane l))) fun ks s =>
        let us := lineUses ks
        if s.atomHeld x us then hold s
        else
          ordered s x o.order.toNat o.scope.toNat fun s =>
            let iid := s.nextId
            let val := fun l (k : LaneAcc) =>
              { k with val := (x.gr.lane l).atomVal o.b.toNat z op, ticket := (x.gr.lane l).v o.d.toNat }
            let s := if op < 16 then us.foldl (fun s u => s.sendAtomic x iid (.red op z o.order.toNat) val u) s.fresh
              else us.foldl (fun s u => u.lanes.foldl (fun s k =>
                s.sendAtomic x iid (.redOrd op z o.order.toNat) val { u with lanes := [k] }) s) s.fresh
            .next (s.done x 8 id)
/-- SATOM (R195, R196): a synchronisation access whose step is made at the owning core. -/
def execSatom (o : LaO) (s : State) : Out :=
  onSplit s fun x =>
    let act := x.active o.g
    let z := 2 ^ o.size.toNat
    let op := o.op.toNat
    if act = 0 then .next (s.done x 8 id)
    else
      let r := s.scrChecks x z true ((lanesOf act).map fun l =>
        (l, ((x.gr.lane l).v o.a.toNat + o.off.signExtend 32).toNat))
      scrChecked r.2 x true r.1 fun ps s =>
        if s.syncBusy x then hold s
        else
          ordered s x o.order.toNat o.scope.toNat fun s =>
            scrIssue s x 8 o.l.toNat (.satom op z o.d.toNat o.order.toNat o.scope.toNat) ps fun l =>
              (x.gr.lane l).atomVal o.b.toNat z op

/-- A value written by a synchronisation access into a line at its home slice. -/
def State.sliceWrite (s : State) (r : Req) (off z v : Nat) : State :=
  let p := placeBytes off (leBytes z v)
  let s := (s.probeScratch r.pa (wordsTouched p.2) 0).patchFills r.pa p.1 p.2 0
  let s := { s with mem := s.mem.store (memKey r.who.ctx r.pa) p.1 p.2 0 }
  if r.cls = 1 then s.modSline r.pa fun l => l.stored r.pts else s
/-- The indivisible step of one lane at the home slice: the value returned, with its poison (R258). -/
def State.atomStep (s : State) (r : Req) (op z order : Nat) (k : LaneAcc) : (Nat × Bool) × State :=
  if s.lostLink r.pa then ((0, true), if op = 11 then s else s.lostStore r.who.ctx r.pa)
  else
    let d := s.lineData r.who.ctx r.pa
    let v := lineValue d.1 d.2 k.off z
    let s :=
      if v.2 then (if op = 8 ∨ op = 12 then s.sliceWrite r k.off z (k.b z) else s)
      else if op = 11 then s
      else s.sliceWrite r k.off z (atomNew op z v.1 (k.b z) (k.c z))
    let s := if order / 2 = 1 ∨ (r.fenced = true ∧ op ≠ 11) then s.modSline r.pa fun l => { l with sts := max l.sts r.pts } else s
    let s := if order % 2 = 1 then s.raisePts r.who.core r.who.ctx (s.sline r.pa).sts else s
    let s := if r.cls = 1 then s.raisePts r.who.core r.who.ctx (s.sline r.pa).wts else s
    (v, s)
/-- The lanes of one instruction take their steps in ascending order, on whatever lines they lie (R258). -/
def State.laneTurn (s : State) (id : Nat) (r : Req) : Bool :=
  let first := fun (q : Req) => match q.lanes with | k :: _ => k.lane | [] => 8
  s.fly.reqs.all fun q => !decide (q.1 ≠ id ∧ q.2.who = r.who) || decide (first r ≤ first q.2)
/-- A reduction on a poisoned word raises PZ in its lane (R258, R259). -/
def State.redPoison (s : State) (r : Req) (k : LaneAcc) (bad : Bool) : State :=
  if bad then s.modUid r.who.core r.who.slot r.who.uid fun g => g.modLane k.lane fun ln => ln.raise 0x20
  else s
/-- The request after one of its lanes is done: it gives the line up until its next lane's turn. -/
def State.laneGone (s : State) (id : Nat) (r : Req) : State :=
  match r.lanes.drop 1 with
  | [] => s.dropReq id
  | l => match mget s.fly.reqs id with | some q => s.setReq id { q with lanes := l, probed := false } | none => s
/-- ATOM_PERFORM: the lowest lane not yet performed takes its step, and its result is written. -/
def execAtomPerform (id : Nat) (s : State) : Out :=
  match mget s.fly.reqs id with
  | none => .refused .eventNotDue
  | some r =>
    match r.op, r.lanes with
    | .atom op z d order scope, k :: _ =>
      if s.laneTurn id r = false then .refused .eventNotDue else
      atSlice s id r fun s =>
        let q := s.atomStep r op z order k
        let s := q.2.laneGone id r
        let s := if order % 2 = 1 ∧ 4 ≤ scope then s.acquireWhere r.who.core r.who.blk fun _ => true else s
        if op = 12 then .next s
        else .next (s.modGroup r.who.core r.who.slot fun g =>
          if g.uid = r.who.uid then g.deliver r.who.iid k.lane fun ln => ln.load d z false (if q.1.2 then (0, true) else q.1) else g)
    | _, _ => .refused .eventNotDue
/-- RED_APPLY: the lowest lane not yet applied. -/
def execRedApply (id : Nat) (s : State) : Out :=
  match mget s.fly.reqs id with
  | none => .refused .eventNotDue
  | some r =>
    match r.op, r.lanes with
    | .red op z order, k :: _ =>
      if s.laneTurn id r = false then .refused .eventNotDue else
      atSlice s id r fun s => let q := s.atomStep r op z order k; .next ((q.2.redPoison r k q.1.2).laneGone id r)
    | _, _ => .refused .eventNotDue

/-! ### Ordered reductions (R260, R261) -/

/-- Entries in use at a slice: windows and held contributions. -/
def State.ordEntries (s : State) (pa : Nat) : Nat :=
  (s.mem.windows.filter fun w => s.slice w.1 = s.slice pa).length +
  (s.fly.reqs.filter fun r => decide (r.2.phase = Phase.held ∧ s.slice r.2.pa = s.slice pa)).length
def State.setWindow (s : State) (pa : Nat) (w : OrdWindow) : State :=
  { s with mem := { s.mem with windows := mset s.mem.windows pa w } }
/-- The window ends: the done word is written as by atom.st.rel at scope 5. -/
def State.closeWindow (s : State) (pa : Nat) (w : OrdWindow) (v p : Nat) : State :=
  let s := { s with mem := { s.mem with windows := mdel s.mem.windows pa } }
  let b := placeBytes (w.done % 64) (leBytes 4 v)
  let s := s.agentStore w.ctx (lineAddr w.done) (if w.doneL then 1 else 0) b.1 b.2 0 p
  (s.takeSline w.done fun l => { l with sts := max l.sts p }).raiseFloor w.ctx p
/-- A window lost: held contributions are discarded, the done word tells how many were applied, and an event is posted. -/
def State.loseWindow (s : State) (pa : Nat) (w : OrdWindow) (p : Nat) : State :=
  let s := { s with fly := { s.fly with reqs := mkeep s.fly.reqs fun _ r => !(decide (r.pa = pa ∧ r.phase = Phase.held)) } }
  (s.closeWindow pa w (0x80000000 ||| w.applied) p).postEvent w.ctx 5 0 0 0 pa
/-- The operation of an ordered reduction. -/
def ordOp (op : Nat) : Nat := if op = 16 then 0 else 10
/-- One ordered contribution applied. -/
def State.applyOrd (s : State) (id : Nat) (r : Req) (w : OrdWindow) : State :=
  match r.op, r.lanes with
  | .redOrd op z order, k :: _ =>
    let q := s.atomStep r (ordOp op) z order k
    ((q.2.redPoison r k q.1.2).dropReq id).setWindow r.pa { w with next := w.next + 1, applied := w.applied + 1 }
  | _, _ => s
/-- Held contributions that are next, applied in turn. -/
def State.applyHeld : Nat → State → Nat → State
  | 0, s, _ => s
  | n + 1, s, pa =>
    match mget s.mem.windows pa with
    | none => s
    | some w =>
      match s.fly.reqs.find? fun r => decide (r.2.pa = pa ∧ r.2.phase = Phase.held ∧ (r.2.lanes.map fun k => k.ticket.toNat) = [w.next]) with
      | some (i, r) => State.applyHeld n (s.applyOrd i r w) pa
      | none => s
/-- ORDERED_RED_ARRIVAL: a lane's contribution is applied, held, refused or discarded. The release of a done word carries the
program time of the request that arrives: the model's choice (R261; log 90). -/
def execOrderedRedArrival (id : Nat) (s : State) : Out :=
  match mget s.fly.reqs id with
  | none => .refused .eventNotDue
  | some r =>
    match r.op, r.lanes with
    | .redOrd .., k :: _ =>
      atSlice s id r fun s =>
        let t := k.ticket.toNat
        let heldAlready := s.fly.reqs.any fun q => decide (q.2.pa = r.pa ∧ q.2.phase = Phase.held) && q.2.lanes.any fun j => j.ticket == k.ticket
        match mget s.mem.windows r.pa with
        | none => .next ((s.dropReq id).postEvent r.who.ctx 5 0 0 0 r.pa)
        | some w =>
          if t < w.next ∨ t > w.last ∨ heldAlready = true then .next ((s.dropReq id).loseWindow r.pa w r.pts)
          else if t = w.next then
            let s := (s.applyOrd id r w).applyHeld 256 r.pa
            match mget s.mem.windows r.pa with
            | some v => .next (if v.applied = v.n then s.closeWindow r.pa v v.n r.pts else s)
            | none => .next s
          else if s.ordEntries r.pa < 256 then .next (s.setReq id { r with phase := .held })
          else .next (s.setReq id { r with phase := .refused })
    | _, _ => .refused .eventNotDue
/-- ORDERED_RED_RESEND: the core sends a refused lane again. -/
def execOrderedRedResend (id : Nat) (s : State) : Out :=
  match mget s.fly.reqs id with
  | none => .refused .eventNotDue
  | some r =>
    if r.phase = .refused then .next ((s.bump r.who.core .ordrsnd).setReq id { r with phase := .out }) else .refused .eventNotDue

/-- The ORDOPEN of a split whose answer is out (R82). -/
def State.opening (s : State) (x : Ex) : Bool :=
  s.fly.reqs.any fun r => decide (r.2.who.uid = x.gr.uid ∧ r.2.who.entry = x.entry) &&
    (match r.2.op with | .ordopen .. => true | _ => false)
/-- ORDOPEN sends its request; the split stays READY until the answer (R82). -/
def execOrdopen (o : Uabn) (s : State) : Out :=
  onSplit s fun x =>
    if s.opening x then hold s
    else
      let u := x.uni
      let line := u.pair o.a.toNat
      let done := u.pair o.b.toNat
      if line.toNat % 64 ≠ 0 then trapAt s x 7 x.sp.mask (loOf line) (hiOf line)
      else if done.toNat % 4 ≠ 0 then trapAt s x 7 x.sp.mask (loOf done) (hiOf done)
      else
        uniAccess s x line { write := true } [0, 1] 64 fun e pa s =>
          uniAccess s x done { write := true } [0, 1] 4 fun f dpa s =>
            let id := s.nextId
            let s := s.send { who := x.owner id, pa := pa, cls := pteClass e, lease := pteLease e, pts := s.pts x.core x.gr.ctx,
                              op := .ordopen dpa (pteClass f == 1) (u.sr (o.b.toNat + 2)).toNat (u.sr (o.b.toNat + 3)).toNat }
            hold s
/-- The reason for which the slice refuses a window (R260), 0 for none. -/
def State.openReason (s : State) (pa n t0 : Nat) : Nat :=
  if (mget s.mem.windows pa).isSome then 1
  else if n = 0 ∨ n > 2 ^ 24 then 2
  else if s.ordEntries pa ≥ 256 then 3
  else if t0 + n - 1 > 0xFFFFFFFF then 4
  else 0
/-- The split that made a request no longer waits for its answer. -/
def Group.answered (g : Group) (w : Owner) : Group :=
  if g.uid = w.uid then g.modSplit w.entry fun sp => { sp with latch := none } else g
/-- ORDOPEN_ANSWER: the window is open and the split goes on, or cause 0x17 is raised. -/
def execOrdopenAnswer (id : Nat) (s : State) : Out :=
  match mget s.fly.reqs id with
  | none => .refused .eventNotDue
  | some r =>
    match r.op with
    | .ordopen done doneL n t0 =>
      let reason := s.openReason r.pa n t0
      let s := (s.dropReq id).modGroup r.who.core r.who.slot fun g => g.answered r.who
      let s := if reason = 0 then s.setWindow r.pa ⟨r.who.ctx, done, doneL, n, t0, t0 + n - 1, 0⟩ else s
      match s.exAt r.who.core r.who.slot r.who.entry with
      | none => .next s
      | some x =>
        if x.gr.uid ≠ r.who.uid then .next s
        else if reason = 0 then .next ((s.done x 4 fun g => g.modSplit x.entry fun sp => { sp with wins := countedWins g sp }).countIssue x.core x.slot)
        else trapAt s x 0x17 x.sp.mask 0 (toW reason)
    | _ => .refused .eventNotDue

end Sys2Proof.Machine
end

