-- ==== Sys2Proof/Machine/Sync.lean ====
section
/-! DEFINITION. SYNC, SBIND, SUNBIND, SEMA and BAR, the waits that they make and the breaking of objects (spec 09 R248 to
R254, R262 to R268). -/
namespace Sys2Proof.Machine

/-! ### Records (R248) -/

/-- The lock word of an object's record. -/
def lockOf (d : Line) : Nat := (d.extractLsb' 0 64).toNat
def lockMode (d : Line) : Nat := bits (lockOf d) 58 2
def lockShared (d : Line) : Nat := bits (lockOf d) 48 10
def recRpts (d : Line) : Nat := (d.extractLsb' 64 48).toNat
/-- A record with BRK = 1, MODE = 3 or a reserved field that is not 0. -/
def recBroken (d : Line) : Bool :=
  (lockOf d).testBit 63 || lockMode d == 3 || bits (lockOf d) 60 3 != 0 || bits (lockOf d) 32 16 != 0 ||
  d.extractLsb' 112 16 != 0 || d.extractLsb' 192 320 != 0
/-- A lock word. -/
def lockWord (mode shared owner : Nat) : Nat := mode * 2 ^ 58 + shared * 2 ^ 48 + owner
/-- Bytes of a record written at its home slice. -/
def State.recWrite (s : State) (ctx pa off n v : Nat) : State :=
  let p := placeBytes off (leBytes n v)
  s.agentStore ctx pa 0 p.1 p.2 0 0
/-- The holder id of a group. -/
def State.holderId (s : State) (x : Ex) : Nat := x.gr.ctx * 2 ^ 26 + s.dev.pkg * 2 ^ 25 + x.core * 2 ^ 17 + x.slot * 2 ^ 8
/-- The sync time of a line read by an acquire (R246). -/
def State.acquireTime (s : State) (x : Ex) (pa t : Nat) : State := s.raisePts x.core x.gr.ctx (max t (s.sline pa).sts)
/-- The sync time of a line written by a release. -/
def State.releaseTime (s : State) (x : Ex) (pa : Nat) : State :=
  s.takeSline pa fun l => { l with sts := max l.sts (s.pts x.core x.gr.ctx) }

/-! ### SYNC (R250 to R252) -/

/-- The place of an object's record: object 0 stands at CTLA, reached as a privileged access (R249). -/
def objAccess (s : State) (x : Ex) (obj : DWord) (k : Nat → State → Out) : Out :=
  if obj = 0 then uniAccess s x (toD (s.ctx x.gr.ctx).regs.ctla) { write := true, priv := true } [0] 64 fun _ pa s => k pa s
  else uniAccess s x obj { write := true } [0] 64 fun _ pa s => k pa s
/-- A split that waited goes on. -/
def Group.ready (g : Group) (e : Nat) : Group := g.modSplit e fun sp => { sp with st := .ready }
/-- SYNC ends with a status (R252). -/
def syncStatus (s : State) (x : Ex) (st : Bool) (d status : Nat) (f : Group → Group) : Out :=
  if st then .next (s.groupDone x 4 fun g => (f (g.ready x.entry)).modUni fun u => u.setS d (toW status))
  else if status = 0 then .next (s.groupDone x 4 fun g => f (g.ready x.entry))
  else trapAt s x 0x15 x.sp.mask 0 (toW status)
/-- The groups of a context, resident or saved. -/
def State.groupsOf (s : State) (ctx : Nat) : List Group :=
  s.cores.flatMap fun c => ((c.2.groups.map Prod.snd).filter fun g => g.ctx = ctx) ++
    (mgetD c.2.saved ctx {}).groups.map Prod.snd
/-- A paired context is lost on the other package, and a group of it there holds the object (R435): the record names an
exclusive holder there, or counts shared holders that no group of this package is (log 86). -/
def State.heldAway (s : State) (ctx obj : Nat) (d : Line) : Bool :=
  let o := lockOf d % 2 ^ 32
  (s.ctx ctx).peerLost &&
  ((lockMode d == 1 && decide (o / 2 ^ 26 = ctx ∧ bits o 25 1 ≠ s.dev.pkg)) ||
   (lockMode d == 2 && decide (((s.groupsOf ctx).filter fun g => obj ∈ g.holds).length < lockShared d)))
/-- A waiting acquire ahead in the order of the home slice. -/
def State.syncAhead (s : State) (pa id : Nat) (shared : Bool) : Bool :=
  s.fly.syncs.any fun w => decide (w.2.obj = pa ∧ w.1 < id) && (w.2.kind == 0 || (shared && w.2.kind == 1))
/-- The rules of R250. -/
def State.grantable (s : State) (d : Line) (kind pa id : Nat) : Bool :=
  match kind with
  | 0 => lockMode d == 0 && !s.syncAhead pa id true
  | 1 => lockMode d != 1 && decide (lockShared d < 1023) && !s.syncAhead pa id false
  | _ => lockMode d != 1
/-- An acquire is granted: the record, pts, mapped words and the hold table. -/
def grantSync (s : State) (x : Ex) (d : Line) (kind pa obj : Nat) (binds : Map Binding) (st : Bool) (dst : Nat) : Out :=
  let s := match kind with
    | 0 => s.recWrite x.gr.ctx pa 0 8 (lockWord 1 (lockShared d) (s.holderId x))
    | 1 => s.recWrite x.gr.ctx pa 0 8 (lockWord 2 (lockShared d + 1) (lockOf d % 2 ^ 32))
    | _ => s
  let s := s.acquireTime x pa (recRpts d)
  let s := s.acquireWords x.core x.gr.blk { obj := some obj, binds := binds }
  syncStatus s x st dst 0 fun g => if kind = 2 then g else { g with holds := g.holds ++ [obj] }
/-- The objects that a group holds are broken (R250, R267): BRK 1, and no holder. -/
def State.breakHolds (s : State) (ctx : Nat) (holds : List Nat) : State :=
  holds.foldl (fun s h =>
    let va := if h = 0 then (s.ctx ctx).regs.ctla else h
    match s.agentTranslate ctx va { write := true, priv := h == 0 } with
    | (.error _, s) => s
    | (.ok (_, pa), s) =>
      let s := s.recWrite ctx (lineAddr pa) 0 8 (2 ^ 63)
      { s with fly := { s.fly with syncs := mall s.fly.syncs fun _ w => if w.obj = lineAddr pa then { w with broken := true } else w } }) s
/-- SYNC.ACQ: 0 exclusive, 1 shared, 2 observe. -/
def opAcquire (kind : Nat) (o : SyncO) (s : State) : Out :=
  onGroup s fun x s =>
    if s.acqBusy x || s.syncBusy x then hold s
    else
      let obj := x.uni.pair o.a.toNat
      objAccess s x obj fun pa s =>
        let r := s.agentLine x.gr.ctx pa
        let d := r.1.1; let s := r.2
        if recBroken d then syncStatus s x o.t o.d.toNat 1 fun g => g
        else if s.heldAway x.gr.ctx obj.toNat d then syncStatus (s.breakHolds x.gr.ctx [obj.toNat]) x o.t o.d.toNat 1 fun g => g
        else if obj.toNat ∈ x.gr.holds then syncStatus s x o.t o.d.toNat 2 fun g => g
        else if kind < 2 ∧ x.gr.holds.length ≥ 8 then syncStatus s x o.t o.d.toNat 3 fun g => g
        else if s.grantable d kind pa s.nextId then grantSync s x d kind pa obj.toNat (s.bindsOf x) o.t o.d.toNat
        else
          let id := s.nextId
          let w : SyncWait := { who := x.owner id, obj := pa, name := obj.toNat, kind := kind, st := o.t, d := o.d.toNat,
                                binds := s.bindsOf x }
          groupWait { s.fresh with fly := { s.fly with syncs := mset s.fly.syncs id w } } x (.sync id)
def execSyncAcqX (o : SyncO) (s : State) : Out := opAcquire 0 o s
def execSyncAcqS (o : SyncO) (s : State) : Out := opAcquire 1 o s
def execSyncAcqO (o : SyncO) (s : State) : Out := opAcquire 2 o s
/-- SYNC_GRANT: a waiting acquire is granted, or ends because its object is broken. -/
def execSyncGrant (id : Nat) (s : State) : Out :=
  match mget s.fly.syncs id with
  | none => .refused .eventNotDue
  | some w =>
    match s.exAt w.who.core w.who.slot w.who.entry with
    | none => .refused .eventNotDue
    | some x =>
      let r := s.agentLine x.gr.ctx w.obj
      let d := r.1.1
      let gone := { r.2 with fly := { r.2.fly with syncs := mdel r.2.fly.syncs id } }
      if x.gr.uid ≠ w.who.uid then .refused .eventNotDue
      else if w.broken || recBroken d then syncStatus gone x w.st w.d 1 fun g => g
      else if s.grantable d w.kind w.obj id then grantSync gone x d w.kind w.obj w.name w.binds w.st w.d
      else .refused .eventNotDue

/-- The hold of an object ends. -/
def Group.unhold (g : Group) (obj : Nat) : Group := { g with holds := g.holds.filter fun h => h ≠ obj }
/-- The record at a release: MODE 1 becomes free, MODE 2 loses one holder. -/
def State.recRelease (s : State) (x : Ex) (d : Line) (pa : Nat) : State :=
  let s := s.recWrite x.gr.ctx pa 8 6 (max (recRpts d) (s.pts x.core x.gr.ctx))
  let s := s.releaseTime x pa
  if lockMode d = 1 then s.recWrite x.gr.ctx pa 0 8 (lockWord 0 (lockShared d) 0)
  else if lockMode d = 2 then
    s.recWrite x.gr.ctx pa 0 8 (lockWord (if lockShared d ≤ 1 then 0 else 2) (lockShared d - 1) (lockOf d % 2 ^ 32))
  else s
def execSyncRel (o : SyncO) (s : State) : Out :=
  onGroup s fun x s =>
    if s.acqBusy x || s.syncBusy x then hold s
    else
      let obj := x.uni.pair o.a.toNat
      objAccess s x obj fun pa s =>
        if obj.toNat ∉ x.gr.holds then syncStatus s x o.t o.d.toNat 2 fun g => g
        else
          groupReleased s x .pollSync 6 (s.coverOf x obj.toNat) fun s =>
            let r := s.agentLine x.gr.ctx pa
            let s := if recBroken r.1.1 then r.2 else r.2.recRelease x r.1.1 pa
            syncStatus s x o.t o.d.toNat 0 fun g => g.unhold obj.toNat

/-! ### SBIND and SUNBIND (R253, R254) -/

/-- 1 + the lowest index of an entry that names an object, 0 for none. -/
def bidxOf (b : Map Binding) (obj : Nat) : Nat :=
  match b.find? fun p => p.2.obj == obj with
  | some p => p.1 + 1
  | none => 0
/-- The refusals of SBIND in their order. -/
def bindRefusal (b : Map Binding) (base : DWord) (len : Nat) : Option Nat :=
  let n := base.toNat
  if n % 64 ≠ 0 ∨ len % 64 ≠ 0 ∨ len = 0 ∨ canonical base = false ∨ n + len > 2 ^ 64 ∨
      canonical (base + toD (len - 1)) = false ∨ base.getLsbD 63 ≠ (base + toD (len - 1)).getLsbD 63 then some 0x103
  else if b.any fun p => decide (p.2.base < n + len ∧ n < p.2.base + p.2.len) then some 0x101
  else if (freeKeys b 0 256) = [] then some 0x102
  else none
def execSbind (o : U3n) (s : State) : Out :=
  onSplit s fun x =>
    let u := x.uni
    let obj := u.pair o.a.toNat
    objAccess s x obj fun pa s =>
      let b := (s.ctx x.gr.ctx).binds
      let base := u.pair o.b.toNat
      let len := (u.sr (o.b.toNat + 2)).toNat
      let fin := fun (s : State) (v : Nat) => Host.Outcome.next (s.done x 4 fun g => g.modUni fun u => u.setS o.d.toNat (toW v))
      match bindRefusal b base len with
      | some v => fin s v
      | none =>
        let i := (freeKeys b 0 256).headD 0
        let b := mset b i ⟨base.toNat, len, obj.toNat⟩
        let s := s.modCtx x.gr.ctx fun c => { c with binds := b }
        fin (s.recWrite x.gr.ctx pa 20 4 (bidxOf b obj.toNat)) i
/-- SUNBIND: a record that cannot be written is left as it is. -/
def execSunbind (o : U2) (s : State) : Out :=
  onSplit s fun x =>
    let base := (x.uni.pair o.a.toNat).toNat
    let fin := fun (s : State) (v : Nat) => Host.Outcome.next (s.done x 4 fun g => g.modUni fun u => u.setS o.d.toNat (toW v))
    match (s.ctx x.gr.ctx).binds.find? fun p => p.2.base == base with
    | none => fin s 0x104
    | some p =>
      let b := mdel (s.ctx x.gr.ctx).binds p.1
      let s := s.modCtx x.gr.ctx fun c => { c with binds := b }
      let va := if p.2.obj = 0 then (s.ctx x.gr.ctx).regs.ctla else p.2.obj
      fin (s.agentWrite x.gr.ctx { priv := p.2.obj == 0 } [0] (va + 20) (leBytes 4 (bidxOf b p.2.obj))).2 0

/-! ### SEMA (R262, R263) -/

/-- The words of a semaphore in its line. -/
def semWord (d : Line) (pa i : Nat) : Word := d.extractLsb' (8 * (pa % 64) + 32 * i) 32
/-- The cause and reason for which SEMA faults before it acts; the tag stands in word t. -/
def semFault (d : Line) (pa t : Nat) (tag gen : Word) : Option (Nat × Nat) :=
  if semWord d pa 3 = 0xFFFFFFFF then some (0x15, 1)
  else if semWord d pa 3 ≠ gen then some (0x16, 2)
  else if semWord d pa t ≠ tag then some (0x16, 1)
  else none
def State.semWrite (s : State) (ctx pa v : Nat) : State :=
  let p := placeBytes (pa % 64) (leBytes 4 v)
  s.agentStore ctx (lineAddr pa) 0 p.1 p.2 0 0
/-- A declared party of a semaphore lies on the other package (R435); which tags name one is the program's, and free. -/
def semAway (ctx : Nat) (d : Line) (pa : Nat) : Bool :=
  Config.tagAway ctx (semWord d pa 1) || Config.tagAway ctx (semWord d pa 2)
/-- A semaphore with a party on the lost side of a paired context is broken. -/
def State.breakSema (s : State) (ctx pa : Nat) : State :=
  if (s.ctx ctx).peerLost ∧ semAway ctx (s.lineData ctx (lineAddr pa)).1 pa = true then s.semWrite ctx (pa + 12) 0xFFFFFFFF else s
/-- SEMA's checks, then its own part. -/
def opSema (s : State) (x : Ex) (a b : BitVec 6) (t : Nat) (k : Nat → Line → Word → Word → State → Out) : Out :=
  if s.acqBusy x || s.syncBusy x then hold s
  else
    let u := x.uni
    uniAccess s x (u.pair a.toNat) { write := true } [0] 16 fun _ pa s =>
      let r := (s.breakSema x.gr.ctx pa).agentLine x.gr.ctx (lineAddr pa)
      let tag := u.sr b.toNat; let gen := u.sr (b.toNat + 1)
      match semFault r.1.1 pa t tag gen with
      | some (c, n) => trapAt r.2 x c x.sp.mask 0 (toW n)
      | none => k pa r.1.1 tag gen r.2
def execSemaSig (o : Uabn) (s : State) : Out :=
  onGroup s fun x s => opSema s x o.a o.b 1 fun pa _ _ _ s =>
    groupReleased s x .poll 6 Cover.all fun s =>
      let r := s.agentLine x.gr.ctx (lineAddr pa)
      let n := (semWord r.1.1 pa 0).toNat
      if n = 0xFFFFFFFF then trapAt r.2 x 0x16 x.sp.mask 0 3
      else .next (((r.2.semWrite x.gr.ctx pa (n + 1)).releaseTime x pa).groupDone x 4 id)
/-- A count is taken (R263). -/
def State.takeCount (s : State) (x : Ex) (pa n : Nat) : State := (s.semWrite x.gr.ctx pa (n - 1)).acquireTime x pa 0
/-- After a count is taken the instruction acts as FENCE.acq at scope 6 (R263); what it does then is k. -/
def semaFence (s : State) (x : Ex) (k : State → Out) : Out :=
  if s.loadsDone x then k (s.acquireWords x.core x.gr.blk Cover.all) else groupWait (s.setHalf x 3) x .poll
/-- A semaphore on which a WAIT waits. -/
def State.semaWaited (s : State) (pa : Nat) : Bool := s.fly.semas.any fun w => w.2.pa == pa
def execSemaWait (o : Uabn) (s : State) : Out :=
  onGroup s fun x s =>
    let fin := fun (s : State) => Host.Outcome.next (s.groupDone x 4 id)
    if x.sp.half = 3 then semaFence s x fin
    else opSema s x o.a o.b 2 fun pa d tag gen s =>
      let n := (semWord d pa 0).toNat
      if s.semaWaited pa then trapAt s x 0x16 x.sp.mask 0 4
      else if n = 0 then
        let i := s.nextId
        groupWait { s.fresh with fly := { s.fly with semas := mset s.fly.semas i ⟨x.owner i, pa, tag, gen⟩ } } x (.sema i)
      else semaFence (s.takeCount x pa n) x fin
def execSemaTry (o : U3n) (s : State) : Out :=
  onGroup s fun x s =>
    let fin := fun (v : Word) (s : State) => Host.Outcome.next (s.groupDone x 4 fun g => g.modUni fun u => u.setS o.d.toNat v)
    if x.sp.half = 3 then semaFence s x (fin 1)
    else opSema s x o.a o.b 2 fun pa d _ _ s =>
      let n := (semWord d pa 0).toNat
      if n = 0 then fin 0 s
      else if s.semaWaited pa then trapAt s x 0x16 x.sp.mask 0 4
      else semaFence (s.takeCount x pa n) x (fin 1)
/-- SEMA_COUNT_TAKEN: a waiting SEMA.WAIT takes a count, or ends with the fault that its semaphore now gives. -/
def execSemaCountTaken (id : Nat) (s : State) : Out :=
  match mget s.fly.semas id with
  | none => .refused .eventNotDue
  | some w =>
    match s.exAt w.who.core w.who.slot w.who.entry with
    | none => .refused .eventNotDue
    | some x =>
      let r := s.agentLine x.gr.ctx (lineAddr w.pa)
      let gone := { r.2 with fly := { r.2.fly with semas := mdel r.2.fly.semas id } }
      let n := (semWord r.1.1 w.pa 0).toNat
      if x.gr.uid ≠ w.who.uid then .refused .eventNotDue
      else
        match semFault r.1.1 w.pa 2 w.tag w.gen with
        | some (c, m) => trapAt gone x c x.sp.mask 0 (toW m)
        | none =>
          if n = 0 then .refused .eventNotDue
          else semaFence (gone.takeCount x w.pa n) x fun s => .next (s.groupDone x 4 fun g => g.ready x.entry)

/-! ### BAR (R264, R265) -/

def Block.bar (b : Block) (n : Nat) : Barrier := mgetD b.bars n {}
def Group.bar (g : Group) (n : Nat) : BarUse := mgetD g.bars n {}
def Group.setBar (g : Group) (n : Nat) (u : BarUse) : Group := { g with bars := mset g.bars n u }
def State.barOf (s : State) (g : Group) (n : Nat) : Barrier := match s.blockOf g with | some b => b.bar n | none => {}
/-- The group is counted in the current phase. -/
def State.arriveBar (s : State) (x : Ex) (n : Nat) : State :=
  let p := (s.barOf x.gr n).phase
  (s.modBlock x.gr.blk fun b => { b with bars := mset b.bars n { b.bar n with count := (b.bar n).count + 1 } }).modGroup
    x.core x.slot fun g => g.setBar n ⟨true, some p⟩
/-- BAR.ARR and the arrival of BAR.SYNC: the earlier accesses performed at scope 2, then the arrival, in this phase or the
next. -/
def barArrive (s : State) (x : Ex) (n : Nat) (sync : Bool) (k : State → Out) : Out :=
  groupReleased s x .poll 2 Cover.all fun s =>
    if (x.gr.bar n).arrived then groupWait s x (.barArr n sync) else k (s.arriveBar x n)
/-- The wait for the phase of the group's last arrival. -/
def barWait (s : State) (x : Ex) (n : Nat) : Out :=
  match s.group x.core x.slot with
  | none => .next s
  | some g =>
    match (g.bar n).last with
    | none => .next (s.groupDone x 4 id)
    | some p =>
      if p < (s.barOf g n).phase then .next (s.groupDone x 4 fun g => g.setBar n { g.bar n with last := none })
      else groupWait s x (.bar n)
def execBarArr (o : BarO) (s : State) : Out :=
  onGroup s fun x s =>
    if s.acqBusy x || s.syncBusy x then hold s
    else barArrive s x o.n.toNat false fun s => .next (s.groupDone x 4 id)
def execBarWait (o : BarO) (s : State) : Out :=
  onGroup s fun x s => if s.acqBusy x || s.syncBusy x then hold s else barWait s x o.n.toNat
def execBarSync (o : BarO) (s : State) : Out :=
  onGroup s fun x s =>
    if s.acqBusy x || s.syncBusy x then hold s
    else if x.sp.half = 2 then barWait s x o.n.toNat
    else barArrive s x o.n.toNat true fun s => barWait (s.setHalf x 2) x o.n.toNat
/-- What the completion of a phase does to one group of the block: its arrival mark goes, a split that waits for the phase
goes on, and one that waits to arrive does so, which the count takes in. -/
def Group.barTurn (g : Group) (n phase : Nat) : Group × Nat :=
  let g := g.setBar n { g.bar n with arrived := false }
  match g.splits.find? fun p => match p.2.st with | .wait (.bar m) => m == n | .wait (.barArr m _) => m == n | _ => false with
  | none => (g, 0)
  | some (e, sp) =>
    match sp.st with
    | .wait (.barArr _ sync) =>
      let g := g.setBar n ⟨true, some phase⟩
      if sync then (g.modSplit e fun sp => { sp with st := .wait (.bar n), half := 2 }, 1)
      else (({ g.ready e with holder := none }).advance e 4, 1)
    | _ => (({ g.ready e with holder := none }).setBar n ⟨false, none⟩ |>.advance e 4, 0)
/-- A group of the block stands in a save image. -/
def State.blockSaved (s : State) (core blk : Nat) : Bool := (s.core core).saved.any fun v => v.2.groups.any fun g => g.2.blk == blk
/-- BAR_PHASE_COMPLETE: every group of the block that has not ended has arrived; a saved block completes after its resume
(R441). -/
def execBarPhaseComplete (blk n : Nat) (s : State) : Out :=
  match mget s.blocks blk with
  | none => .refused .eventNotDue
  | some b =>
    let alive := b.groups - b.ended.length
    if alive = 0 ∨ (b.bar n).count < alive ∨ s.blockSaved b.core blk = true then .refused .eventNotDue
    else
      let phase := (b.bar n).phase + 1
      let core := s.cores.find? fun c => c.2.groups.any fun g => g.2.blk == blk
      match core with
      | none => .refused .eventNotDue
      | some (c, k) =>
        let turns := k.groups.map fun g => (g.1, if g.2.blk = blk then g.2.barTurn n phase else (g.2, 0))
        let count := (turns.map fun t => t.2.2).sum
        .next ((s.modCore c fun k => { k with groups := turns.map fun t => (t.1, t.2.1) }).modBlock blk fun b =>
          { b with bars := mset b.bars n ⟨phase, count⟩ })

end Sys2Proof.Machine
end

