-- ==== Sys2Proof/Machine/Rows.lean ====
section
/-! DEFINITION. Row slots, their timing, the row instructions, row transfers, and the accesses of classes N and R (spec 10, 08
R228). -/
namespace Sys2Proof.Machine

def State.rows (s : State) (core : Nat) : Rows := (s.core core).rows
def State.modRows (s : State) (core : Nat) (f : Rows → Rows) : State := s.modCore core fun k => { k with rows := f k.rows }
def State.setSlot (s : State) (core n : Nat) (r : RowSlot) : State :=
  s.modRows core fun k => { k with slots := mset k.slots n r }
def State.delSlot (s : State) (core n : Nat) : State := s.modRows core fun k => { k with slots := mdel k.slots n }

/-! ### Activations (R273) -/

/-- How many of the refresh operations that have fallen due at a bank are made; one that has never been open makes each in time. -/
def Rows.refreshesMade (k : Rows) (now bank : Nat) : Nat := mgetD k.refreshed bank (now / 4096)
/-- Refresh operations owed to a bank, or one that runs. -/
def Rows.refreshBusy (k : Rows) (now bank : Nat) : Bool :=
  match mget k.refreshed bank with
  | some made => decide (made < now / 4096) || (match mget k.refreshing bank with | some t => decide (now < t) | none => false)
  | none => decide (4096 ≤ now ∧ now % 4096 < 30)
/-- The rate window lets one more activation start: at most 4 in any 24 clk and 1 in a clk. -/
def Rows.rateOk (k : Rows) (now : Nat) : Bool :=
  decide ((k.acts.filter fun a => now < a + 24).length < 4) && k.acts.all fun a => a != now
/-- An activation of a bank starts; refreshes that fall due from now on are owed. -/
def State.activate (s : State) (core bank : Nat) : State :=
  s.modRows core fun k =>
    { k with acts := (s.now :: k.acts).take 4, refreshed := mset k.refreshed bank (k.refreshesMade s.now bank) }
/-- A bank that no slot and no internal activation keeps open. -/
def Rows.bankClosed (k : Rows) (bank : Nat) : Bool :=
  (mget k.internal bank).isNone &&
  (match mget k.slots bank with
   | none => true
   | some r => match r.st with | .expired true => true | _ => false)
/-- The slots that a matrix operation reads, with their physical rows (R294). -/
def MxOp.chain : MxOp → List (Nat × Nat)
  | .mul _ _ _ _ _ _ _ _ _ chain _ _ => chain
  | _ => []
/-- The slots that an operation of the queue has still to read: those of its chain until its stream ends (R294). -/
def MxEntry.chainLeft (e : MxEntry) : List (Nat × Nat) := if e.read.isSome then [] else e.op.chain
def MxEntry.readsBank (e : MxEntry) (bank : Nat) : Bool := e.chainLeft.any fun c => c.1 == bank
/-- A transfer of a bank in flight; an operand read from a held row counts as one until its stream ends (R294). -/
def State.moving (s : State) (core bank : Nat) : Bool :=
  ((s.rows core).xfers.any fun t => t.2.slot == bank) || (s.core core).mx.queue.any fun e => e.readsBank bank
/-- A matrix operation that has still to read the bank, issued before an id (R277, R294). -/
def State.mxBefore (s : State) (core bank id : Nat) : Bool :=
  (s.core core).mx.queue.any fun e => decide (e.id < id) && e.readsBank bank

/-! ### The records of a switch (R280) -/

/-- What a save image records of a slot: nothing of one that is CLOSING; a slot that a ROWPRE is to close keeps that. -/
def RowSlot.record (r : RowSlot) (n : Nat) : Option SavedSlot :=
  let saved := fun (st : SlotState) => some { slot := n, st := st, blk := r.blk, index := r.index, row := r.row, close := r.close : SavedSlot }
  match r.st with
  | .closing => none
  | .expired _ => saved (.expired true)
  | .opening => saved (r.back.getD .open_)
  | st => saved st
/-- The record of a slot of a context that drains is changed by work that was issued before the switch (R280, R438). -/
def State.noteSlot (s : State) (core ctx n : Nat) (f : Option SavedSlot → Option SavedSlot) : State :=
  if mget (s.core core).res ctx = some .draining then
    s.modCore core fun k => { k with saved := mmod k.saved ctx fun v => { v with
      slots := (v.slots.filter fun r => r.slot ≠ n) ++ (f (v.slots.find? fun r => r.slot == n)).toList } }
  else s

/-! ### Slot faults (R275, R284) -/

/-- The holder's block has ended, be its join held, or its context was killed. -/
def State.holderGone (s : State) (r : RowSlot) : Bool :=
  match mget s.blocks r.blk with
  | some b => b.joinHeld
  | none => true
/-- A slot that a fault of cause 0x0C makes CLOSED: a close that has not finished, or not started, goes on in the bank. -/
def State.closeExpired (s : State) (core n : Nat) (r : RowSlot) : State :=
  let s := (s.delSlot core n).noteSlot core r.ctx n fun _ => none
  match r.st with
  | .expired false => s.modRows core fun k =>
      { k with internal := mset k.internal n ⟨r.row, r.since, if r.close then none else some r.since, false⟩ }
  | _ => s
/-- Cause 0x0C at a use of an EXPIRED slot; the slot becomes CLOSED as it is raised, which a group that has raised a cause already
does not do (R420). -/
def expiredFault (s : State) (x : Ex) (n : Nat) (r : RowSlot) : Out :=
  trapAt (if x.gr.trapping.isSome then s else s.closeExpired x.core n r) x 0x0C x.sp.mask (toW n) (toW r.index)
def SlotState.isExpired : SlotState → Bool
  | .expired _ => true
  | _ => false
def SlotState.isOpen : SlotState → Bool
  | .open_ => true
  | .dirty => true
  | _ => false
/-- A drain has not closed every bank of the outgoing context yet: row instructions wait (R280). -/
def State.banksDraining (s : State) (x : Ex) : Bool := (s.rows x.core).slots.any fun r => decide (r.2.ctx ≠ x.gr.ctx)
/-- The first checks of a row instruction that names slot N: a holder from another block, then EXPIRED. -/
def slotChecked (s : State) (x : Ex) (n : Nat) (k : Option RowSlot → Out) : Out :=
  if s.banksDraining x then hold s
  else
    match mget (s.rows x.core).slots n with
    | none => k none
    | some r =>
      if r.blk ≠ x.gr.blk then trapAt s x 0x0A x.sp.mask (toW n) 2
      else if r.st.isExpired then expiredFault s x n r
      else k (some r)

/-! ### ROWACT (R283, R284) -/

/-- A request for the row controllers of this package that waits to be served: of class R, or of class N to the row stack
(R205, R217). -/
def State.toRow (s : State) (r : Req) : Bool :=
  decide (2 ≤ r.cls ∧ r.phase = .out ∧ s.place r.pa = .row) && !s.otherPkg r.pa
/-- Such a request to a bank. -/
def State.toBank (s : State) (core bank : Nat) (r : Req) : Bool := s.toRow r && decide (rowCore r.pa = core ∧ rowBank r.pa = bank)
/-- Requests of the core itself to a bank that have not been served (R277). -/
def State.bankAsked (s : State) (core bank : Nat) : Bool :=
  s.fly.reqs.any fun r => s.toBank core bank r.2 && decide (r.2.who.core = core)
def execRowact (o : RowaO) (s : State) : Out :=
  onSplit s fun x =>
    let n := o.n.toNat
    let i := match o.i with | .reg r => (x.uni.sr r.toNat).toNat | .lit w => w.toNat
    let len := match o.i with | .reg _ => 4 | .lit _ => 8
    slotChecked s x n fun r =>
      match r with
      | some _ => trapAt s x 0x0A x.sp.mask (toW n) 1
      | none =>
        let g := (s.ctx x.gr.ctx).regs
        let k := s.rows x.core
        if i ≥ g.rc then trapAt s x 0x0D x.sp.mask (toW n) 1
        else if (mget k.internal n).isSome ∨ s.bankAsked x.core n = true then hold s
        else if k.refreshBusy s.now n = true ∨ k.rateOk s.now = false then hold s
        else
          let r : RowSlot := { st := .opening, blk := x.gr.blk, ctx := x.gr.ctx, index := i, row := g.rb + i, since := s.now }
          let out := mget (s.core x.core).res x.gr.ctx = some .draining
          let s := ((s.activate x.core n).bump x.core .rowactn).setSlot x.core n { r with close := decide out }
          .next ((s.noteSlot x.core x.gr.ctx n fun _ => r.record n).done x len id)

/-! ### ROWCON and ROWWR (R285, R286, R462) -/

/-- The lines of a scratch span checked for an operation that no split waits on: each page that backs a mapped line, and
the right to write (R462). -/
def State.spanCheck (s : State) (x : Ex) (write : Bool) (e core : Nat) : Nat → Nat → ScrChk × State
  | 0, off => (.ok core off, s)
  | n + 1, off =>
    match s.backCheck x.gr.ctx x.waiter e write 3 core off with
    | (.ok _ _, s) => State.spanCheck s x write (e + 64) core n (off + 64)
    | r => r
/-- A scratch span of an operation: decoded by R171, then its lines checked. -/
def spanChecked (s : State) (x : Ex) (write : Bool) (e len : Nat) (k : Nat → State → Out) : Out :=
  match s.scrAddr x.scr e len with
  | .bad r => trapAt s x 9 x.sp.mask (toW e) (toW r)
  | .away => waitOn s x .poll
  | .at_ c off =>
    match s.spanCheck x write (e / 64 * 64) c ((off + len + 63) / 64 - off / 64) (scrLine off) with
    | (.bad cause h x60 x61, s) => scrFault s x cause h write x.sp.mask x60 x61
    | (.ok _ _, s) => k off s
    | (_, s) => hold s
/-- Scratch accesses of the group to a span that are not applied. -/
def State.spanBusy (s : State) (x : Ex) (core off len : Nat) : Bool :=
  s.fly.touches.any fun t => decide (t.2.who.uid = x.gr.uid ∧ t.2.at_ = core) &&
    t.2.lanes.any fun k => decide (k.off < off + len ∧ off < k.off + t.2.op.size)
/-- The transfer of a row instruction. -/
structure RowMove where
  kind : XferKind
  n : Nat
  sa : Nat
  o : Nat
  len : Nat
def RowtO.move (con : Bool) (o : RowtO) (u : Uniform) : RowMove :=
  { kind := if !con then .fromScratch else if o.bpl then .toPlane else .toScratch
    n := o.n.toNat
    sa := (u.sr o.a.toNat).toNat
    o := 64 * o.off.toNat + (match o.b with | some r => (u.sr r.toNat).toNat | none => 0)
    len := 64 * (o.len.toNat + 1) }
/-- An open slot is written: OPEN-DIRTY; one that is EXPIRED stays so. -/
def State.dirtySlot (s : State) (core n : Nat) (r : RowSlot) : State :=
  if r.st.isOpen then (s.setSlot core n { r with st := .dirty }).noteSlot core r.ctx n fun v => v.map fun v => { v with st := .dirty }
  else s
/-- The transfer queued on its slot. -/
def State.queueMove (s : State) (x : Ex) (m : RowMove) (r : RowSlot) (to_ : Nat) : State :=
  let t : Xfer := { kind := m.kind, slot := m.n, row := r.row, off := m.o, to_ := to_, len := m.len, who := x.owner s.nextId, pc := x.sp.pc }
  let s := if m.kind = .fromScratch then s.dirtySlot x.core m.n r else s
  (s.fresh.modRows x.core fun k => { k with xfers := mset k.xfers s.nextId t }).done x 8 id
/-- The transfers of a core in flight; an operand read of the array from a held row is one (R286, R294). -/
def State.moveCount (s : State) (core : Nat) : Nat :=
  (s.rows core).xfers.length + ((s.core core).mx.queue.map fun e => e.chainLeft.length).sum
/-- ROWCON and ROWWR. -/
def opMove (s : State) (m : Uniform → RowMove) : Out :=
  onSplit s fun x =>
    let m := m x.uni
    let N := toW m.n
    slotChecked s x m.n fun r =>
      match r with
      | none => trapAt s x 0x0B x.sp.mask N 0
      | some r =>
        if r.st = .closing then trapAt s x 0x0B x.sp.mask N 0
        else if m.o % 64 ≠ 0 then trapAt s x 7 x.sp.mask (toW m.o) 0
        else if m.o + m.len > 8192 then trapAt s x 0x0D x.sp.mask N 2
        else
          let held := s.acqBusy x || decide (s.moveCount x.core ≥ 16)
          match m.kind with
          | .toPlane =>
            if m.sa % 64 ≠ 0 then trapAt s x 7 x.sp.mask (toW m.sa) 0
            else if m.sa + m.len > 2 ^ 22 then trapAt s x 0x0D x.sp.mask N 3
            else if r.st = .opening ∨ held = true then hold s
            else .next (s.queueMove x m r m.sa)
          | _ =>
            match s.scrAddr x.scr m.sa m.len with
            | .bad c => trapAt s x 9 x.sp.mask (toW m.sa) (toW c)
            | .away => if m.sa % 64 ≠ 0 then trapAt s x 7 x.sp.mask N 0 else trapAt s x 9 x.sp.mask (toW m.sa) 7
            | .at_ c _ =>
              if m.sa % 64 ≠ 0 then trapAt s x 7 x.sp.mask N 0
              else if c ≠ x.core then trapAt s x 9 x.sp.mask (toW m.sa) 7
              else
                spanChecked s x (m.kind == .toScratch) m.sa m.len fun off s =>
                  if r.st = .opening ∨ held = true ∨ s.spanBusy x x.core off m.len = true then hold s
                  else .next (s.queueMove x m r off)
def execRowcon (o : RowtO) (s : State) : Out := opMove s (RowtO.move true o)
def execRowwr (o : RowtO) (s : State) : Out := opMove s (RowtO.move false o)

/-! ### ROWPRE, ROWST, ROWWAIT (R287 to R290) -/

/-- A slot of a block that a ROWPRE.wait which has begun still waits for. -/
def RowSlot.closingFor (r : RowSlot) (blk : Nat) : Bool := decide (r.blk = blk) && (r.close || r.st == .closing)
/-- The slot that a ROWPRE.wait has waited for is CLOSED: a switch that found it open has nothing to open again. -/
def State.noteClosed (s : State) (x : Ex) (n : Nat) : State := s.noteSlot x.core x.gr.ctx n fun v => v.filter fun v => v.blk ≠ x.gr.blk
/-- ROWPRE. One that waits for CLOSED, and whose slot expires meanwhile, raises cause 0x0C as one that is checked then: the model's
choice (R288; log 95). -/
def execRowpre (o : RowpO) (s : State) : Out :=
  onSplit s fun x =>
    let n := o.n.toNat
    if x.sp.half = 1 then
      match mget (s.rows x.core).slots n with
      | some r =>
        if r.blk = x.gr.blk ∧ r.st.isExpired = true then expiredFault s x n r
        else if r.closingFor x.gr.blk then hold s else .next ((s.noteClosed x n).done x 4 id)
      | none => .next ((s.noteClosed x n).done x 4 id)
    else
      slotChecked s x n fun r =>
        match r with
        | none => .next (s.done x 4 id)
        | some r =>
          if r.st = .opening then hold s
          else
            let s := if r.st = .closing then s
              else (s.setSlot x.core n { r with close := true, closeId := if r.close then r.closeId else x.seq s.nextId }).noteSlot
                x.core r.ctx n fun v => v.map fun v => { v with close := true }
            if o.w then hold (s.setHalf x 1) else .next (s.done x 4 id)
/-- The code that ROWST reports for a slot. -/
def slotCode (r : Option RowSlot) (blk : Nat) : Nat :=
  match r with
  | none => 0
  | some r =>
    if r.blk ≠ blk then 6
    else match r.st with
      | .opening => 1
      | .open_ => 2
      | .dirty => 3
      | .closing => 4
      | .expired _ => 5
def execRowst (o : Ud) (s : State) : Out :=
  onSplit s fun x =>
    if s.banksDraining x then hold s else
    let v := (List.range 16).foldl (fun v i => v + slotCode (mget (s.rows x.core).slots i) x.gr.blk * 2 ^ (3 * i)) 0
    .next (s.done x 4 fun g => g.modUni fun u => u.setPair o.d.toNat (toD v))
/-- A slot that ROWWAIT waits for. -/
def State.rowBusy (s : State) (x : Ex) (i : Nat) : Bool :=
  let mine := (s.rows x.core).xfers.any fun t => decide (t.2.slot = i) && s.before x t.2.who
  match mget (s.rows x.core).slots i with
  | none => mine
  | some r => decide (r.blk = x.gr.blk) && (r.st == .opening || r.st == .closing || mine)
def execRowwait (o : Ub) (s : State) : Out :=
  onSplit s fun x =>
    let m := (SSrc.val o.b x.uni).toNat
    if s.banksDraining x then hold s
    else if (List.range 16).any fun i => m.testBit i && s.rowBusy x i then waitOn s x .poll
    else .next (s.done x (SSrc.len o.b) id)

/-! ### The events of slots (R272, R273, R275, R280) -/

/-- ROW_OPEN_DONE: 20 clk after the start of the activation; a slot that a resume re-activates returns in its recorded state. -/
def execRowOpenDone (core n : Nat) (s : State) : Out :=
  match mget (s.rows core).slots n with
  | none => .refused .eventNotDue
  | some r =>
    if r.st = .opening ∧ r.since + 20 ≤ s.now then
      .next ((s.setSlot core n { r with st := r.back.getD .open_, since := s.now, back := none }).modRows core fun k =>
        { k with reopen := if r.back.isSome then k.reopen.filter fun v => !(v.slot == n && v.blk == r.blk) else k.reopen })
    else .refused .eventNotDue
/-- The host's BAR2 access waits for a row (R444). -/
def State.hostRowAt (s : State) : Option Nat :=
  match s.dev.bar2 with
  | some b => match b.parts with
    | (pa, _, _) :: _ => if offsetPlace pa == .row then some pa else none
    | [] => none
  | none => none
def State.hostWants (s : State) (core n row : Nat) : Bool :=
  match s.hostRowAt with
  | some pa => decide (rowCore pa = core ∧ rowBank pa = n ∧ rowRow pa = row)
  | none => false
/-- A job of an engine waits for a row (R276, R402). -/
def State.jobWants (s : State) (core n row : Nat) : Bool :=
  s.fly.jobs.any fun j => j.2.wants.any fun r => decide (rowCore r.1 = core ∧ rowBank r.1 = n ∧ rowRow r.1 = row)
/-- A bank has waiting accesses to a row: requests, of which those of the core itself come in their order (R277), or the host's
or an engine's (R276, R444, R402). -/
def State.rowWanted (s : State) (core n row : Nat) : Bool :=
  (s.fly.reqs.any fun r => s.toBank core n r.2 && decide (rowRow r.2.pa = row) &&
    (decide (r.2.who.core ≠ core) ||
      s.fly.reqs.all fun q => !(s.toBank core n q.2 && decide (q.2.who.core = core ∧ q.1 < r.1 ∧ rowRow q.2.pa ≠ row)))) ||
  s.hostWants core n row || s.jobWants core n row
/-- Accesses of the core to the open row of a slot that were issued before the ROWPRE that closes it (R277). -/
def State.beforeClose (s : State) (core n : Nat) (r : RowSlot) : Bool :=
  s.fly.reqs.any fun q => s.toBank core n q.2 && decide (q.2.who.core = core ∧ q.1 < r.closeId ∧ rowRow q.2.pa = r.row)
/-- ROW_CLOSE_START: the slot's transfers have ended and the minimum open time has passed; or the close of an EXPIRED slot, or
of an internal activation that has served its accesses. -/
def execRowCloseStart (core n : Nat) (s : State) : Out :=
  let k := s.rows core
  let inner : Out :=
    match mget k.internal n with
    | some a =>
      if a.closing = none ∧ s.moving core n = false ∧ (a.serves = false ∨ (a.start + 60 ≤ s.now ∧ s.rowWanted core n a.row = false)) then
        .next (s.modRows core fun k => { k with internal := mset k.internal n { a with closing := some s.now } })
      else .refused .eventNotDue
    | none => .refused .eventNotDue
  match mget k.slots n with
  | some r =>
    if r.close ∧ s.moving core n = false ∧
        ((r.st.isOpen = true ∧ r.since + 40 ≤ s.now ∧ s.beforeClose core n r = false) ∨ r.st = .expired false) then
      .next (s.setSlot core n { r with st := if r.st.isOpen then .closing else r.st, since := s.now, close := false })
    else inner
  | none => inner
/-- ROW_CLOSE_DONE: 20 clk after the start of the close. -/
def execRowCloseDone (core n : Nat) (s : State) : Out :=
  let k := s.rows core
  let inner : Out :=
    match mget k.internal n with
    | some a =>
      match a.closing with
      | some t =>
        if t + 20 ≤ s.now then .next (s.modRows core fun k => { k with internal := mdel k.internal n })
        else .refused .eventNotDue
      | none => .refused .eventNotDue
    | none => .refused .eventNotDue
  match mget k.slots n with
  | some r =>
    if r.since + 20 ≤ s.now ∧ r.close = false then
      match r.st with
      | .closing => .next (s.delSlot core n)
      | .expired false => .next (if s.holderGone r then s.delSlot core n else s.setSlot core n { r with st := .expired true })
      | _ => inner
    else inner
  | none => inner
/-- ROW_HOLD_EXPIRY: a row has been open for 8,192 clk. -/
def execRowHoldExpiry (core n : Nat) (s : State) : Out :=
  match mget (s.rows core).slots n with
  | none => .refused .eventNotDue
  | some r =>
    if r.st.isOpen ∧ r.since + 8192 ≤ s.now then
      .next ((s.bump core .rowexp).setSlot core n { r with st := .expired false, since := s.now, close := true })
    else .refused .eventNotDue
/-- ROW_REFRESH: one operation of 30 clk in a closed bank that has been open. -/
def execRowRefresh (core n : Nat) (s : State) : Out :=
  let k := s.rows core
  let done := k.refreshesMade s.now n
  if (mget k.refreshed n).isSome = true ∧ done < s.now / 4096 ∧ k.bankClosed n = true ∧ (match mget k.refreshing n with | some t => decide (t ≤ s.now) | none => true) = true then
    .next (s.modRows core fun k => { k with refreshed := mset k.refreshed n (done + 1), refreshing := mset k.refreshing n (s.now + 30) })
  else .refused .eventNotDue
/-- INTERNAL_ACTIVATION: a closed bank opens a row for waiting accesses (R276). -/
def execInternalActivation (core n row : Nat) (s : State) : Out :=
  let k := s.rows core
  if s.rowWanted core n row = true ∧ k.bankClosed n = true ∧ k.refreshBusy s.now n = false ∧ k.rateOk s.now = true then
    .next (((s.activate core n).bump core .rowinta).modRows core fun k => { k with internal := mset k.internal n { row := row, start := s.now } })
  else .refused .eventNotDue
/-- ROW_REACTIVATION: once the drain has closed every bank, a slot closed by switch opens again for the resumed context; one
that was EXPIRED is EXPIRED again (R280). -/
def execRowReactivation (core n : Nat) (s : State) : Out :=
  let k := s.rows core
  match k.reopen.find? fun v => v.slot == n with
  | none => .refused .eventNotDue
  | some v =>
    let ctx := match mget s.blocks v.blk with | some b => b.ctx | none => 0
    let r : RowSlot :=
      { st := .opening, blk := v.blk, ctx := ctx, index := v.index, row := v.row, since := s.now, close := v.close,
        back := some v.st }
    if (mget k.slots n).isSome || k.slots.any fun q => q.2.ctx != ctx then .refused .eventNotDue
    else
      match v.st with
      | .expired _ => .next ((s.setSlot core n { r with st := .expired true, back := none }).modRows core fun k =>
          { k with reopen := k.reopen.filter fun v => v.slot ≠ n })
      | _ =>
        if k.bankClosed n = true ∧ k.refreshBusy s.now n = false ∧ k.rateOk s.now = true then
          .next (((s.activate core n).bump core .rowreact).setSlot core n r)
        else .refused .eventNotDue

/-! ### Transfers (R286) -/

/-- The transfer with an id, with its core. -/
def State.xferAt (s : State) (id : Nat) : Option (Nat × Xfer) :=
  s.cores.findSome? fun c => (mget c.2.rows.xfers id).map fun t => (c.1, t)
def State.setXfer (s : State) (core id : Nat) (t : Xfer) : State := s.modRows core fun k => { k with xfers := mset k.xfers id t }
/-- n / d, rounded up. -/
def ceilDiv (n d : Nat) : Nat := (n + d - 1) / d
/-- The transfer has still to have beats of the vertical bus (R13). -/
def Xfer.onBus (t : Xfer) : Bool := t.kind == .toPlane && t.started.isSome && decide (t.moved < ceilDiv t.len 2048)
/-- The time of a transfer has passed: 8 clk, and for the plane its beats of the bus, else a clk for every 256 bytes. -/
def Xfer.timeOver (t : Xfer) (now : Nat) : Bool :=
  match t.kind, t.started, t.doneAt with
  | .toPlane, _, some d => decide (d + 8 ≤ now)
  | .toPlane, _, none => false
  | _, some b, _ => decide (b + 8 + ceilDiv t.len 256 ≤ now)
  | _, none, _ => false
/-- The transfer that has the next beat of a core's vertical bus: one at a time, in the order of issue. -/
def State.busTransfer (s : State) (core : Nat) : Option (Nat × Xfer) := (s.rows core).xfers.find? fun t => t.2.onBus
/-- A beat of the bus goes to that transfer. -/
def State.busBeat (s : State) (core : Nat) : State :=
  match s.busTransfer core with
  | none => s
  | some (id, t) => s.modRows core fun k => { k with xfers := mset k.xfers id { t with
      moved := t.moved + 1, doneAt := if t.moved + 1 = ceilDiv t.len 2048 then some (s.now + 1) else none } }
/-- The fills of a span that an operation reads are requested, while the core has room (R179, R462). -/
def State.touchSpan (s : State) (why : Nat × Nat × Pc) (core off n : Nat) : State := s.touchRange (some why) [] core off n
/-- A word of a span is ABSENT with no fill in flight, and the core has room for one. -/
def State.fillable (s : State) (core off n : Nat) : Bool :=
  decide (s.fillCount core < 64) && (wordOffs off n).any fun o => s.absentWord core o && !s.fillsWord core o
/-- ROW_TRANSFER_START: the slot's earlier transfers have started; words to be read are filled (R179). A started transfer asks
again for words that are ABSENT. -/
def execRowTransferStart (id : Nat) (s : State) : Out :=
  match s.xferAt id with
  | none => .refused .eventNotDue
  | some (c, t) =>
    let fills := fun (s : State) => if t.kind = .fromScratch then s.touchSpan (t.who.core, t.who.slot, t.pc) c t.to_ t.len else s
    if t.started.isSome then
      if t.kind = .fromScratch ∧ s.fillable c t.to_ t.len = true then .next (fills s) else .refused .eventNotDue
    else if ((s.rows c).xfers.any fun u => decide (u.1 < id ∧ u.2.slot = t.slot ∧ u.2.started = none)) || s.mxBefore c t.slot id then
      .refused .eventNotDue
    else .next (fills (s.setXfer c id { t with started := some s.now }))
/-- Poison bits of a list of words of a map. -/
def poisonOf (p : Poison) (a n : Nat) : List Bool := (List.range (n / 4)).map fun i => mgetD p (a / 4 + i) false
def Poison.put (p : Poison) (a : Nat) (l : List Bool) : Poison :=
  (l.zip (List.range l.length)).foldl (fun p b => mput false p (a / 4 + b.2) b.1) p
/-- The 64 KiB regions of the B-plane that a write touches (R309). -/
def touchRegions (m : Map Bool) (a n : Nat) : Map Bool :=
  (List.range ((a + n + 65535) / 65536 - a / 65536)).foldl (fun m i => mset m (a / 65536 + i) true) m
/-- The B-plane of a core written. -/
def State.putPlane (s : State) (core a : Nat) (bs : List Byte) (p : List Bool) : State :=
  (s.bump core .bplline ((a + bs.length + 63) / 64 - a / 64)).modCore core fun k => { k with mx := { k.mx with
    plane := Bytes.write k.mx.plane a bs, planePoison := Poison.put k.mx.planePoison a p,
    regions := touchRegions k.mx.regions a bs.length } }
/-- Scratch words written as SST writes them, with their poison. -/
def State.putSpan (s : State) (core off : Nat) (bs : List Byte) (p : List Bool) : State :=
  let s := s.storeScr core off bs
  s.modCore core fun k => { k with scratch := { k.scratch with poison := Poison.put k.scratch.poison off p } }
/-- The bytes of a transfer moved. -/
def State.moveRow (s : State) (core : Nat) (t : Xfer) : State :=
  let pa := rowAddr core t.slot t.row t.off
  match t.kind with
  | .fromScratch =>
    let k := (s.core core).scratch
    { s with mem := { s.mem with bytes := Bytes.write s.mem.bytes pa (Bytes.read k.bytes t.to_ t.len)
                                 poison := Poison.put s.mem.poison pa (poisonOf k.poison t.to_ t.len) } }
  | .toScratch => s.putSpan core t.to_ (Bytes.read s.mem.bytes pa t.len) (poisonOf s.mem.poison pa t.len)
  | .toPlane => s.putPlane core t.to_ (Bytes.read s.mem.bytes pa t.len) (poisonOf s.mem.poison pa t.len)
/-- R-class requests of the core, older than a transfer, to its row (R277). -/
def State.rowAsked (s : State) (core id : Nat) (t : Xfer) : Bool :=
  s.fly.reqs.any fun r => s.toBank core t.slot r.2 && decide (r.1 < id ∧ r.2.who.core = core ∧ rowRow r.2.pa = t.row)
/-- ROW_TRANSFER_END: the transfer's time has passed and every scratch word that it reads is valid. -/
def execRowTransferEnd (id : Nat) (s : State) : Out :=
  match s.xferAt id with
  | none => .refused .eventNotDue
  | some (c, t) =>
    if t.timeOver s.now = true ∧ s.rowAsked c id t = false ∧ ((s.rows c).xfers.all fun u => !decide (u.1 < id ∧ u.2.slot = t.slot)) = true then
      if t.kind = .fromScratch ∧ s.validRange c t.to_ t.len = false then .refused .eventNotDue
      else .next ((s.moveRow c t).modRows c fun k => { k with xfers := mdel k.xfers id })
    else .refused .eventNotDue

/-! ### Accesses of classes N and R (R228, R276, R277) -/

/-- A request served at its target: a load takes the bytes, with the time of the last store there that followed a FENCE.rel; a
store writes them. -/
def State.serveTarget (s : State) (id : Nat) (r : Req) : State :=
  if s.lostLink r.pa then
    (match r.op with | .st .. => s.lostStore r.who.ctx r.pa | _ => s).setReq id { r with phase := .back, data := 0, poison := BitVec.allOnes 16 }
  else
    let a := memKey r.who.ctx r.pa
    match r.op with
    | .st .. =>
      let m := s.mem.store a r.data r.mask 0
      { s with mem := if r.fenced then { m with tsync := mput 0 m.tsync a (max (mgetD m.tsync a 0) r.pts) } else m }.setReq id
        { r with phase := .back }
    | _ => s.setReq id { r with phase := .back, data := Bytes.line s.mem.bytes a, poison := Poison.line s.mem.poison a,
                                sts := mgetD s.mem.tsync a 0 }
/-- TARGET_ACCESS: an N-class request is served by its target; one to the row stack is a row controller's. -/
def execTargetAccess (id : Nat) (s : State) : Out :=
  match mget s.fly.reqs id with
  | none => .refused .eventNotDue
  | some r => if r.cls = 2 ∧ r.phase = .out ∧ s.toRow r = false then .next (s.serveTarget id r) else .refused .eventNotDue
/-- A transfer of the requester's own core, issued before the access, that has still to pass its line. -/
def State.lineMoving (s : State) (id : Nat) (r : Req) : Bool :=
  decide (r.who.core = rowCore r.pa) && (s.mxBefore (rowCore r.pa) (rowBank r.pa) id || (s.rows (rowCore r.pa)).xfers.any fun t =>
    decide (t.1 < id ∧ t.2.slot = rowBank r.pa ∧ t.2.row = rowRow r.pa ∧ t.2.off < r.pa % 8192 + 64 ∧ r.pa % 8192 < t.2.off + t.2.len))
/-- An access of the bank's own core comes after others of the core to the row, and after others to the bank unless they wait for
a row that is not open (R276, R277). -/
def State.rowTurn (s : State) (id : Nat) (r : Req) (open_ : Bool) : Bool :=
  decide (r.who.core ≠ rowCore r.pa) ||
  s.fly.reqs.all fun q => !(s.toBank (rowCore r.pa) (rowBank r.pa) q.2 &&
    decide (q.2.who.core = r.who.core ∧ q.1 < id ∧ (rowRow q.2.pa = rowRow r.pa ∨ open_ = false)))
/-- An access of the bank's own core for which a later transfer of it in flight waits (R277): the row stands open for that
transfer, and serves the access. -/
def State.beforeMove (s : State) (id : Nat) (r : Req) : Bool :=
  decide (r.who.core = rowCore r.pa) &&
  (s.rows (rowCore r.pa)).xfers.any fun t => decide (id < t.1 ∧ t.2.slot = rowBank r.pa ∧ t.2.row = rowRow r.pa)
/-- The slot of a bank that stands open on a row for an access; one of the core itself that comes after the ROWPRE of the slot
finds it closed (R277). DEDUCED (log 85): an EXPIRED slot whose close waits for a transfer serves the accesses of its core that
come before the transfer. -/
def State.slotOpen (s : State) (id : Nat) (r : Req) : Option RowSlot :=
  match mget (s.rows (rowCore r.pa)).slots (rowBank r.pa) with
  | some v =>
    if v.row ≠ rowRow r.pa then none
    else if v.st.isOpen then
      (if v.close = true ∧ r.who.core = rowCore r.pa ∧ 0 < v.closeId ∧ v.closeId < id then none else some v)
    else if v.st = .expired false ∧ v.close = true ∧ s.beforeMove id r = true then some v
    else none
  | none => none
/-- A row is open for an access of a job: in its slot, or by an internal activation. -/
def State.rowServes (s : State) (pa : Nat) : Bool :=
  let k := s.rows (rowCore pa)
  match mget k.slots (rowBank pa), mget k.internal (rowBank pa) with
  | some v, none => v.st.isOpen && v.row == rowRow pa
  | _, some a => a.serves && a.row == rowRow pa && a.closing.isNone && decide (a.start + 20 ≤ s.now)
  | none, none => false
/-- A row that a running job waits for serves it; a write makes an open slot OPEN-DIRTY (R276). -/
def State.serveJob (s : State) (id : Nat) (j : Job) : Out :=
  match j.wants.find? fun r => s.rowServes r.1 with
  | none => .refused .eventNotDue
  | some r =>
    let s := { s with fly := { s.fly with jobs := mset s.fly.jobs id { j with wants := j.wants.filter (· ≠ r), seen := r :: j.seen } } }
    .next (match mget (s.rows (rowCore r.1)).slots (rowBank r.1) with
      | some v => if r.2 && v.row == rowRow r.1 then s.dirtySlot (rowCore r.1) (rowBank r.1) v else s
      | none => s)
/-- RSC_ACCESS: a request is served from the open row of its bank, or by the other package (R276). -/
def execRscAccess (id : Nat) (s : State) : Out :=
  match mget s.fly.reqs id with
  | none => match mget s.fly.jobs id with | some j => s.serveJob id j | none => .refused .eventNotDue
  | some r =>
    if s.toRow r = false then
      (if r.cls = 3 ∧ r.phase = .out then .next (s.serveTarget id r) else .refused .eventNotDue)
    else if s.lineMoving id r then .refused .eventNotDue
    else
      let c := rowCore r.pa; let b := rowBank r.pa
      let stores := match r.op with | .st .. => true | _ => false
      match s.slotOpen id r with
      | some v =>
        if s.rowTurn id r true = false then .refused .eventNotDue
        else
          let s := s.serveTarget id r
          .next (if stores then s.dirtySlot c b v else s)
      | none =>
        match mget (s.rows c).internal b with
        | some a =>
          if a.row = rowRow r.pa ∧ a.closing = none ∧ s.rowTurn id r (!a.serves) = true ∧
              (if a.serves then a.start + 20 ≤ s.now else s.beforeMove id r = true) then
            .next (s.serveTarget id r)
          else .refused .eventNotDue
        | none => .refused .eventNotDue

/-! ### The clks that activations wait (R282) -/

/-- The banks of a core for which an activation is wanted now: by a ROWACT that waits, by accesses, or by a resume. -/
def State.actsWanted (s : State) (core : Nat) : List Nat :=
  let k := s.rows core
  let idle := fun (n : Nat) => (mget k.slots n).isNone && (mget k.internal n).isNone && !s.bankAsked core n
  let drained := fun (ctx : Nat) => k.slots.all fun r => r.2.ctx == ctx
  let mine := (s.core core).groups.flatMap fun g => g.2.splits.filterMap fun e => match e.2.latch with
    | some l => (match l.instr with
      | .rowact o => if idle o.n.toNat && drained g.2.ctx then some o.n.toNat else none
      | _ => none)
    | none => none
  let host := fun (n : Nat) => match s.hostRowAt with | some pa => decide (rowCore pa = core ∧ rowBank pa = n) | none => false
  let asked := (List.range 16).filter fun n => k.bankClosed n && (host n ||
    (s.fly.jobs.any fun j => j.2.wants.any fun r => decide (rowCore r.1 = core ∧ rowBank r.1 = n)) || s.fly.reqs.any fun r => s.toBank core n r.2)
  let ctxOf := fun (blk : Nat) => match mget s.blocks blk with | some b => b.ctx | none => 0
  let again := k.reopen.filterMap fun v =>
    if v.st != .expired true && (mget k.slots v.slot).isNone && k.bankClosed v.slot && drained (ctxOf v.blk) then some v.slot else none
  mine ++ asked ++ again
/-- A clk that activations of a core wait: for owed refreshes of their banks, else for the rate window. -/
def State.countActs (s : State) (core : Nat) : State :=
  let k := s.rows core
  let l := s.actsWanted core
  (s.bump core .rowrfrw (l.filter fun n => k.refreshBusy s.now n).length).bump core .rowratew
    (if k.rateOk s.now then 0 else (l.filter fun n => !k.refreshBusy s.now n).length)

end Sys2Proof.Machine
end

