-- ==== Sys2Proof/Machine/ScratchMap.lean ====
section
/-! DEFINITION. The mapping instructions SMAP, SUNMAP, SFLUSH, SINV, SPRES, SHPUSH and SGATH, and the time wrap (spec 07 R197
to R202, 08 R226). -/
namespace Sys2Proof.Machine

/-! ### Windows and entries -/

/-- Cause 0x09 at a mapping instruction. -/
def mapFault (s : State) (x : Ex) (e reason : Nat) : Out := trapAt s x 9 x.sp.mask (toW e) (toW reason)
/-- n bytes at a scratch address that must lie in the executing block's window: the window and the offset. -/
def inWindow (s : State) (x : Ex) (e n : Nat) (k : Window → Nat → Out) : Out :=
  match s.scrAddr x.scr e n, s.blockWin x.core x.gr.blk with
  | .bad r, _ => mapFault s x e r
  | .at_ c o, some w => if c = x.core ∧ w.covers o n = true then k w o else mapFault s x e 3
  | _, _ => mapFault s x e 3
def State.modWindow (s : State) (core blk : Nat) (f : Window → Window) : State :=
  s.modCore core fun k => { k with scratch := { k.scratch with
    wins := mall k.scratch.wins fun _ w => if w.blk = blk then f w else w } }
/-- An entry installed: every word of its range ABSENT, what the range held discarded. -/
def State.installMap (s : State) (core blk g off : Nat) (m : SMapping) : State :=
  let s := s.modCore core fun k => { k with scratch := { k.scratch with
    bytes := mkeep k.scratch.bytes fun a _ => decide (a < off ∨ off + m.n ≤ a)
    poison := mkeep k.scratch.poison fun a _ => decide (4 * a < off ∨ off + m.n ≤ 4 * a)
    words := mkeep k.scratch.words fun a _ => decide (4 * a < off ∨ off + m.n ≤ 4 * a) } }
  s.modWindow core blk fun w => { w with maps := mset w.maps g m }

/-! ### SMAP (R197, R198) -/

def execSmap (o : SmapO) (s : State) : Out :=
  onSplit s fun x =>
    let u := x.uni
    let e := (u.sr o.a.toNat).toNat; let n := o.len.toNat; let g := o.n.toNat
    inWindow s x e 1 fun w off =>
      let st := off - w.off
      if (mget w.maps g).isSome then mapFault s x e 5
      else if st % 64 ≠ 0 ∨ n % 64 ≠ 0 ∨ n < 64 ∨ st + n > w.len ∨
          (w.maps.any fun m => decide (m.2.s < st + n ∧ st < m.2.s + m.2.n)) = true then mapFault s x e 4
      else if o.k = 2 then
        let b := (u.sr o.b.toNat).toNat
        match s.scrAddr x.scr b n with
        | .bad r => mapFault s x b r
        | .away => waitOn s x .poll
        | .at_ c ow =>
          let h := (s.core c).scratch.halo
          if ow % 64 ≠ 0 then mapFault s x b 4
          else
            match freeKeys h 0 64 with
            | [] => mapFault s x b 6
            | i :: _ =>
              let s := s.modCore c fun k => { k with scratch := { k.scratch with
                halo := mset h i { off := ow, len := n, ctx := x.gr.ctx, core := x.core, blk := x.gr.blk, g := g, dst := off } } }
              .next ((s.installMap x.core x.gr.blk g off ⟨.replica, st, n, 512 * ow + c⟩).done x 8 id)
      else
        let b := u.pair o.b.toNat
        if b.toNat % 64 ≠ 0 then trapAt s x 7 x.sp.mask (loOf b) (hiOf b)
        else if !canonical b then trapAt s x 5 x.sp.mask (loOf b) (hiOf b)
        else .next ((s.installMap x.core x.gr.blk g off ⟨if o.k = 1 then .ro else .rw, st, n, b.toNat⟩).done x 8 id)

/-! ### SUNMAP (R199) -/

/-- The registrations of a replica entry of a block go. -/
def State.dropHalo (s : State) (f : Halo → Bool) : State :=
  { s with cores := mall s.cores fun _ k => { k with scratch := { k.scratch with halo := mkeep k.scratch.halo fun _ h => !f h } } }
/-- The range of an entry becomes plain scratch: words that have a value keep it, the others become 0. -/
def State.plainRange (s : State) (core off n : Nat) : State :=
  (wordOffs off n).foldl (fun s o =>
    let s := if s.validWord core o then s else (s.putScr core o [0, 0, 0, 0]).setScrPoison core o false
    s.modCore core fun k => { k with scratch := { k.scratch with words := mdel k.scratch.words (o / 4) } }) s
/-- An instruction that has sent write-backs or pushes waits for them; one whose walk is in flight has not issued. -/
def flushWait (s : State) (x : Ex) : Out :=
  match s.exAt x.core x.slot x.entry with
  | some y => if y.sp.half = 1 then waitOn s x .poll else hold s
  | none => hold s
/-- The write-back of the DIRTY words in a range, repeated for words that have changed since. -/
def rangeFlush (s : State) (x : Ex) (off n : Nat) (k : State → Out) : Out :=
  let here := fun (o _ : Nat) => decide (off < o + 4 ∧ o < off + n)
  match s.writeBackAll x here fun _ => false with
  | .fault o => o
  | .wait s => flushWait s x
  | .done s => if s.dirtyLines x.core x.gr.blk here = [] then k s else waitOn (s.setHalf x 0) x .poll
def execSunmap (o : SunO) (s : State) : Out :=
  onSplit s fun x =>
    let g := o.n.toNat
    match s.blockWin x.core x.gr.blk with
    | none => .next (s.done x 4 id)
    | some w =>
      match mget w.maps g with
      | none => .next (s.done x 4 id)
      | some m =>
        let off := w.off + m.s
        let fin := fun (s : State) =>
          let s := s.dropHalo fun h => decide (h.core = x.core ∧ h.blk = x.gr.blk ∧ h.g = g)
          let s := (s.plainRange x.core off m.n).modWindow x.core x.gr.blk fun w => { w with maps := mdel w.maps g }
          Host.Outcome.next (s.done x 4 id)
        if s.fly.fills.any fun f => decide (f.2.core = x.core ∧ off ≤ f.2.off ∧ f.2.off < off + m.n) then waitOn s x .poll
        else if o.k then fin s
        else if s.acqBusy x then hold s
        else rangeFlush s x off m.n fin

/-! ### SFLUSH, SINV, SPRES, SHPUSH (R200) -/

/-- The range of the four: it lies in the executing block's window; a length of 0 does nothing. -/
def rangeOp (o : Uab) (s : State) (k : Ex → Nat → Nat → Nat → Out) : Out :=
  onSplit s fun x =>
    let u := x.uni
    let e := (u.sr o.a.toNat).toNat; let n := (SSrc.val o.b u).toNat; let len := SSrc.len o.b
    if n = 0 then .next (s.done x len id)
    else inWindow s x e n fun _ off => k x len off n
def execSflush (o : Uab) (s : State) : Out :=
  rangeOp o s fun x len off n => if s.acqBusy x then hold s else rangeFlush s x off n fun s => .next (s.done x len id)
/-- The words of a range that SINV makes ABSENT: every one of a replica, else those that are not DIRTY. -/
def State.invalid (s : State) (core off n : Nat) : List Nat :=
  (wordOffs off n).filter fun o =>
    match mget (s.core core).scratch.words (o / 4), s.mapAt core o with
    | some w, some (_, _, m) => m.kind == .replica || w.st != .dirty
    | _, _ => false
def execSinv (o : Uab) (s : State) : Out :=
  rangeOp o s fun x len off n => .next (((s.dropWords x.core (s.invalid x.core off n)).refill).done x len id)
/-- Fills of ABSENT lines requested while the core has room for them. -/
def State.askFills (s : State) (core off n : Nat) : State :=
  (s.newFills core off n).foldl (fun s l => if s.fillCount core < 64 then s.startFill none [] 3 core l else s) s
def execSpres (o : Uab) (s : State) : Out :=
  rangeOp o s fun x len off n => if s.acqBusy x then hold s else .next ((s.askFills x.core off n).done x len id)
def execShpush (o : Uab) (s : State) : Out :=
  rangeOp o s fun x len off n => if s.acqBusy x then hold s else
    let s := if x.sp.half = 0 then (s.pushHalos x fun h => decide (h.off < off + n ∧ off < h.off + h.len)).setHalf x 1 else s
    if s.pushOut x then waitOn s x .poll else .next (s.done x len id)

/-! ### SGATH (R201, R202) -/

/-- The words of a gathered range after SGATH: those of its rows ABSENT, the others CLEAN and 0. -/
def State.gather (s : State) (core off n rows : Nat) : State :=
  let s := s.dropWords core (wordOffs off n)
  (wordOffs (off + rows) (n - rows)).foldl (fun s o => s.zeroWord core o) s
def execSgath (o : SgaO) (s : State) : Out :=
  onSplit s fun x =>
    let u := x.uni
    let e := (u.sr o.a.toNat).toNat; let c := (u.sr o.b.toNat).toNat; let rb := 64 * o.rb.toNat; let g := o.n.toNat
    let entry := match s.blockWin x.core x.gr.blk with
      | some w => (mget w.maps g).map fun m => (w, m)
      | none => none
    if e % 4 ≠ 0 then trapAt s x 7 x.sp.mask (toW e) 0
    else
      match entry with
      | none => mapFault s x e 5
      | some (w, m) =>
        let global := match m.kind with | .ro => true | .gathered .. => true | _ => false
        if !global then mapFault s x e 5
        else if c * rb > m.n then mapFault s x e 4
        else if o.now && s.acqBusy x then hold s
        else
          let off := w.off + m.s
          let s := s.modWindow x.core x.gr.blk fun w =>
            { w with maps := mset w.maps g { m with kind := .gathered e c rb (64 * o.st.toNat) } }
          let s := (s.gather x.core off m.n (c * rb)).refill
          let s := if o.now then s.askFills x.core off (c * rb) else s
          .next ((s.finishTouches x.core).done x 8 id)

/-! ### Time wrap (R226) -/

/-- The CLEAN and PENDING words over the L class of a core. -/
def Scratch.lclWords (k : Scratch) : List Nat :=
  (k.words.filter fun w => w.2.lcl && w.2.st != .dirty).map fun w => 4 * w.1
/-- Times carried by what is on its way or queued become 0 with every pts. -/
def QRec.timeless : QRec → QRec
  | .launch n => .launch n
  | .cont w0 f j w l t c _ => .cont w0 f j w l t c 0
def Msg.timeless (m : Msg) : Msg := { m with pts := 0 }
def State.timeless (s : State) : State :=
  { s with
    cores := mall s.cores fun _ k => { k with
      pts := mall k.pts fun _ _ => 0, bases := [], scratch := { k.scratch with times := [] },
      saved := mall k.saved fun _ v => { v with pts := 0 },
      msgs := { k.msgs with recvs := mall k.msgs.recvs fun _ r => { r with matched := r.matched.map Msg.timeless },
                            overflow := k.msgs.overflow.map Msg.timeless } },
    clusters := mall s.clusters fun _ c => { c with
      comps := c.comps.map fun r => { r with pts := 0 }, mail := mall c.mail fun _ l => l.map fun m => { m with pts := 0 } },
    rays := mall s.rays fun _ r => { r with pts := 0 },
    ctxs := mall s.ctxs fun _ x => { x with
      floor := 0, launches := mall x.launches fun _ l => { l with pts := 0 },
      queues := mall x.queues fun _ q => { q with recs := q.recs.map QRec.timeless } },
    mem := { s.mem with lines := mall s.mem.lines fun _ l => { l with wts := 0, rts := 0, sts := 0 }, slices := [], tsync := [] },
    fly := { s.fly with
      reqs := mall s.fly.reqs fun _ r => { r with pts := 0, wts := 0, rts := 0, sts := 0, stale := r.stale || (r.cls == 1 && r.phase == .back) },
      jobs := mall s.fly.jobs fun _ j => { j with pts := 0 },
      sends := mall s.fly.sends fun _ m => { m with msg := m.msg.timeless } } }
/-- TIME_WRAP: every logical time becomes 0, and no L-class copy or clean or pending mapped word over the L class is left; each
core counts it (R226). -/
def execTimeWrap (s : State) : Out :=
  if s.timesFull then
    let cores := s.cores
    let s := (List.range 192).foldl (fun s c => s.bump c .ltwrap) s.timeless
    let s := cores.foldl (fun s k => (k.2.l1.filter fun l => l.2.st = .lease).foldl (fun s l => s.dropCopy k.1 l.1) s) s
    .next (cores.foldl (fun s k => (s.dropWords k.1 k.2.scratch.lclWords).refill) s)
  else .refused .eventNotDue

end Sys2Proof.Machine
end

