-- ==== Sys2Proof/Machine/Matrix.lean ====
section
/-! DEFINITION. The matrix queue, its checks, the matrix instructions and the events of the array (spec 11 R291 to R327). -/
namespace Sys2Proof.Machine

def State.mx (s : State) (core : Nat) : Matrix := (s.core core).mx
def State.modMx (s : State) (core : Nat) (f : Matrix → Matrix) : State := s.modCore core fun k => { k with mx := f k.mx }

/-! ### Partition codes (R110, R111) -/

/-- The tiles that a partition code allots. -/
def tilesOf (part : Nat) : Nat := [4, 8, 0, 4, 12, 0, 6, 4].getD part 0
/-- No block is resident on a core. -/
def State.openCore (s : State) (core : Nat) : Bool :=
  (s.core core).groups.isEmpty &&
  s.blocks.all fun b => b.2.core != core || (s.core core).saved.any fun v => b.1 ∈ v.2.blocks
/-- A partition code applied, be it the one that the core has: dirty L1 lines are written back, the L1 is invalidated, scratch and
tiles are discarded. -/
def State.applyPart (s : State) (core part : Nat) : State :=
  let s := (s.core core).l1.foldl (fun s p => s.dropL1 core p.1) s
  s.modCore core fun k => { k with
    part := part
    scratch := { k.scratch with bytes := [], poison := [], words := [] }
    mx := { k.mx with tiles := [], ctls := [], copies := [], lost := [] } }

/-! ### The order of the queue (R293) -/

/-- The instructions that enter the matrix queue. -/
def entersMatrix : Instr → Bool
  | .mma _ => true
  | .mmaC _ => true
  | .mmag _ => true
  | .mmas _ => true
  | .accZero _ => true
  | .accCommit _ => true
  | .accDrop _ => true
  | .accMerge _ => true
  | .accld _ => true
  | .accst _ => true
  | .bplLd _ => true
  | .bplZero _ => true
  | _ => false
/-- No matrix instruction of the core that issued before this one is held at its issue. -/
def State.mxTurn (s : State) (x : Ex) : Bool :=
  (s.core x.core).groups.all fun g => g.2.splits.all fun e => match e.2.latch with
    | some l => !(e.2.going && entersMatrix l.instr && decide (l.seq < x.seq s.nextId))
    | none => true
/-- The splits of a core that a full queue holds at issue (R312). -/
def Core.mxHeld (k : Core) : Nat :=
  if k.mx.queue.length < 16 then 0
  else (k.groups.map fun g => (g.2.splits.filter fun e => match e.2.latch with
    | some l => e.2.going && entersMatrix l.instr
    | none => false).length).sum

/-! ### The checks (R307) -/

/-- Cause 0x0E. -/
def mxFault (s : State) (x : Ex) (reason : Nat) (detail : Word) : Out := trapAt s x 0x0E x.sp.mask detail (toW reason)
/-- What waits for the drain of another context, on each core that it reaches (R309). -/
def State.drainBusy (s : State) (core : Nat) : Bool := (s.core core).res.any fun r => r.2 == .draining
/-- The first tile that is not allotted. -/
def badTile (part : Nat) (ts : List Nat) : Option Nat := ts.find? fun t => decide (tilesOf part ≤ t)
/-- The follower that a pair form reaches (R304). -/
def State.follower (s : State) (x : Ex) : Option Nat :=
  if x.core % 2 = 0 ∧ (s.mx x.core).bound = some x.gr.blk then some (x.core + 1) else none
/-- A bound follower. -/
def State.isFollower (s : State) (core : Nat) : Bool := decide (core % 2 = 1) && (s.mx (core - 1)).bound.isSome
/-- Reasons 1 to 3: the tiles, the pair form and the bound follower; then the cores that the instruction acts on. -/
def mxCores (s : State) (x : Ex) (pair : Bool) (tiles : List Nat) (k : List Nat → Out) : Out :=
  if s.drainBusy x.core ∨ (pair = true ∧ s.drainBusy (x.core + 1) = true) ∨ s.mxTurn x = false then hold s
  else
    match badTile (s.core x.core).part tiles with
    | some t => mxFault s x 1 (toW t)
    | none =>
      if pair then
        match s.follower x with
        | none => mxFault s x 2 0
        | some f =>
          match badTile (s.core f).part tiles with
          | some t => mxFault s x 1 (toW t)
          | none => k [x.core, f]
      else if s.isFollower x.core then mxFault s x 3 0
      else k [x.core]
/-- The issue-side copy of a control word. -/
def State.copyOf (s : State) (core t : Nat) : TileCtl := mgetD (s.mx core).copies t {}
/-- The tile that a test refuses on some core. -/
def State.badCopy (s : State) (cores : List Nat) (t : Nat) (f : TileCtl → Bool) : Bool := cores.any fun c => f (s.copyOf c t)
def TileCtl.counts (c : TileCtl) : Bool := c.cl != 0 || c.lvl
/-- Two tiles form a link. -/
def State.linked (s : State) (c t u : Nat) : Bool :=
  (s.copyOf c t).spec == 1 && (s.copyOf c t).link == u && (s.copyOf c u).spec == 2 && (s.copyOf c u).link == t

/-! ### Spans (R171, R462) -/

/-- What the decoding of spans gives. -/
inductive Spans where
  | ok (l : List (Nat × Nat × Nat × Nat))
  | away
  | bad (e reason : Nat)
/-- Spans (address and length) decoded by R171: address, core, offset, length. -/
def State.decodeSpans (s : State) (x : Ex) : List (Nat × Nat) → Spans
  | [] => .ok []
  | (e, n) :: t =>
    match s.scrAddr x.scr e n with
    | .bad r => .bad e r
    | .away => match State.decodeSpans s x t with | .bad e r => .bad e r | _ => .away
    | .at_ c off => match State.decodeSpans s x t with | .ok l => .ok ((e, c, off, n) :: l) | r => r
/-- The mapped lines of spans checked in order. -/
def State.checkSpans (s : State) (x : Ex) (write : Bool) : List (Nat × Nat × Nat × Nat) → ScrChk × State
  | [] => (.ok 0 0, s)
  | (e, c, off, n) :: t =>
    match s.spanCheck x write (e / 64 * 64) c ((off + n + 63) / 64 - off / 64) (scrLine off) with
    | (.ok _ _, s) => State.checkSpans s x write t
    | r => r
/-- The scratch spans of a matrix instruction: every decoding, then every mapped line. -/
def mxSpans (s : State) (x : Ex) (write : Bool) (l : List (Nat × Nat)) (k : List (Nat × Nat) → State → Out) : Out :=
  match s.decodeSpans x l with
  | .bad e r => trapAt s x 9 x.sp.mask (toW e) (toW r)
  | .away => waitOn s x .poll
  | .ok ps =>
    match s.checkSpans x write ps with
    | (.bad c h x60 x61, s) => scrFault s x c h write x.sp.mask x60 x61
    | (.ok _ _, s) => k (ps.map fun p => (p.2.1, p.2.2.1)) s
    | (_, s) => hold s

/-! ### The queue (R293) -/

/-- The control words of the cores that an operation changes, in a copy or in the tiles. -/
def State.linkCopies (s : State) (cores : List Nat) (op : MxOp) : State :=
  cores.foldl (fun s c => s.modMx c fun k => { k with copies := op.link k.copies }) s
/-- An operation enters the queue and completes for its split; a full queue holds it, and an acquire that has no result yet
(R239, R243). -/
def enterMx (s : State) (x : Ex) (len : Nat) (op : MxOp) (cores : List Nat) (pair : Bool) : Out :=
  if (s.mx x.core).queue.length ≥ 16 ∨ s.acqBusy x = true then hold s
  else
    let e : MxEntry := { id := s.nextId, op := op, pair := pair, who := x.owner s.nextId, pc := x.sp.pc }
    let s := (s.fresh.linkCopies cores op).modMx x.core fun k => { k with queue := k.queue ++ [e] }
    .next (s.done x len id)

/-! ### MMA, MMA.C, MMAS, MMAG (R313 to R316) -/

/-- The fault of reasons 5 and 6 of a multiply. Where t and u do not form the link, s60 names t: the model's choice (R307; log 97). -/
def State.mulFault (s : State) (cores : List Nat) (t L : Nat) (kind : MulKind) : Option (Nat × Nat) :=
  match kind with
  | .spec u =>
    let fresh := fun c => (s.copyOf c t).spec == 0 && (s.copyOf c u).spec == 0 && t != u
    if cores.any fun c => !(fresh c || s.linked c t u) then some (5, t)
    else if s.badCopy cores t TileCtl.counts then some (6, t)
    else if s.badCopy cores u TileCtl.counts then some (6, u)
    else none
  | _ =>
    if s.badCopy cores t fun c => c.spec != 0 then some (5, t)
    else if s.badCopy cores t fun c => c.lvl || c.cl != L then some (6, t)
    else none
/-- The offsets and the B spans of a multiply are wrong (reason 8). -/
def badOffsets (mb : BitVec 128) (ka kb kl : Nat) : Bool :=
  decide (ka % 4 ≠ 0 ∨ kb % 4 ≠ 0) || decide (mapBase mb + byteOf (mapFmt mb) kb + bytesOf (mapFmt mb) kb kl > 32768) ||
  (mapMx mb && decide (mapScale mb + kb / 32 + scalesOf kb kl > 32768))
/-- How far into its chain a multiply reads, in slots. -/
def chainTop (ma : BitVec 128) (ka kl : Nat) (srcs : List Nat) : Nat :=
  let f := mapFmt ma
  srcs.foldl (fun m i =>
    let a := (mapOff ma + i * mapStride ma + byteOf f ka + bytesOf f ka kl - 1) / 8192
    let b := if mapMx ma then (mapScale ma + i * mapSstride ma + ka / 32 + scalesOf ka kl - 1) / 8192 else 0
    max m (max a b)) 0
/-- The slots of a chain checked in order, then their physical rows. -/
def chainChecked (s : State) (x : Ex) (k : List (Nat × Nat) → Out) : List Nat → List (Nat × Nat) → Out
  | [], acc => k acc
  | n :: t, acc =>
    match mget (s.rows x.core).slots n with
    | none => trapAt s x 0x0B x.sp.mask (toW n) 0
    | some r =>
      if r.blk ≠ x.gr.blk then trapAt s x 0x0A x.sp.mask (toW n) 2
      else if r.st.isExpired then expiredFault s x n r
      else if r.st = .closing then trapAt s x 0x0B x.sp.mask (toW n) 0
      else chainChecked s x k t (acc ++ [(n, r.row)])
/-- The operands of a multiply after its maps and control words have passed: reason 8, the spans, the chain, the queue. -/
def mulOperands (s : State) (x : Ex) (cores : List Nat) (pair : Bool) (t : Nat) (kind : MulKind) (ma mb : BitVec 128)
    (ka kb kl n : Nat) (rows : List (Nat × Nat)) : Out :=
  let f := mapFmt ma
  let top := chainTop ma ka kl (rows.map Prod.fst)
  let op := fun chain spans sspans => MxOp.mul t kind ma mb ka kb kl rows n chain spans sspans
  if badOffsets mb ka kb kl ∨ (mapSrc ma = 1 ∧ mapSlot ma + top > 15) then mxFault s x 8 0
  else if mapSrc ma = 0 then
    let a := rows.map fun r => ((mapBase ma + r.1 * mapStride ma + byteOf f ka) % 2 ^ 32, bytesOf f ka kl)
    let c := if mapMx ma then rows.map fun r => ((mapScale ma + r.1 * mapSstride ma + ka / 32) % 2 ^ 32, scalesOf ka kl) else []
    mxSpans s x false (a ++ c) fun l s => enterMx s x 8 (op [] (l.take a.length) (l.drop a.length)) cores pair
  else
    chainChecked s x (fun ch => enterMx s x 8 (op ch [] []) cores pair)
      (if rows.isEmpty then [] else (List.range (top + 1)).map fun i => mapSlot ma + i) []
/-- The checks that all multiplies share, up to reason 6. -/
def opMul (s : State) (t : Nat) (kind : MulKind) (L : Nat) (a : BitVec 6) (c : MmaC)
    (k : Ex → List Nat → BitVec 128 → BitVec 128 → Nat → Nat → Nat → Out) : Out :=
  onSplit s fun x =>
    let tiles := (List.range (L + 1)).map (t + ·) ++ (match kind with | .spec u => [u] | _ => [])
    mxCores s x c.p tiles fun cores =>
      let bad := fun (n : BitVec 3) => mxFault s x 4 (n.zeroExtend 32)
      let kk := (x.uni.sr a.toNat).toNat
      match mget x.uni.maps c.ma.toNat, mget x.uni.maps c.mb.toNat with
      | none, _ => bad c.ma
      | some ma, mb =>
        if mapSrc ma = 2 then bad c.ma
        else
          match mb with
          | none => bad c.mb
          | some mb =>
            if mapSrc mb ≠ 2 then bad c.mb
            else if fmtClass (mapFmt ma) ≠ fmtClass (mapFmt mb) then
              let f := s.free
              mxFault f.2 x 4 ((if f.1.getLsbD 0 then c.ma else c.mb).zeroExtend 32)
            else
              match s.mulFault cores t L kind with
              | some (r, d) => mxFault s x r (toW d)
              | none => k x cores ma mb (kk % 65536) (kk / 65536) (c.kl.toNat + 1)
/-- The rows of a multiply that reads its rows in order. -/
def plainRows (c : MmaC) : List (Nat × Nat) := (List.range (8 * (c.m.toNat + 1))).map fun i => (i, i)
def colsOf (c : MmaC) : Nat := 8 * (c.n.toNat + 1)
/-- A multiply without lists. -/
def opMma (s : State) (t : Nat) (kind : MulKind) (L : Nat) (a : BitVec 6) (c : MmaC) : Out :=
  opMul s t kind L a c fun x cores ma mb ka kb kl =>
    mulOperands s x cores c.p t kind ma mb ka kb kl (colsOf c) (plainRows c)
def execMma (o : MmaO) (s : State) : Out := opMma s o.t.toNat .plain 0 o.a o.c
def execMmaC (o : MmaO) (s : State) : Out := opMma s o.t.toNat .canonical o.u.toNat o.a o.c
def execMmas (o : MmaO) (s : State) : Out := opMma s o.t.toNat (.spec o.u.toNat) 0 o.a o.c

/-- The list index at which reason 7 is raised: an entry out of range, or one that repeats an earlier one. -/
def listFault (sc : List Nat) : Option Nat :=
  (List.range sc.length).find? fun i =>
    let v := sc.getD i 0
    v != 255 && (decide (128 ≤ v) || (sc.take i).contains v)
/-- The entries of a list of z-byte numbers in a scratch part. -/
def State.listAt (s : State) (core off z n : Nat) : List Nat :=
  (List.range n).map fun i => (s.core core).scratch.entry (off + z * i) z
/-- The span of a list of MMAG checked and read, unless an earlier check fails; k goes on where the list stands in scratch. -/
def listSpan (s : State) (x : Ex) (e n : Nat) (first : Out → Out) (k : Nat → Nat → State → Out) : Out :=
  match s.decodeSpans x [(e, n)] with
  | .bad _ r => first (trapAt s x 9 x.sp.mask (toW e) (toW r))
  | .away => waitOn s x .poll
  | .ok ps =>
    match s.checkSpans x false ps with
    | (.bad c h x60 x61, s) => first (scrFault s x c h false x.sp.mask x60 x61)
    | (.ok _ _, s) =>
      match ps with
      | [(_, c, off, _)] =>
        if s.validRange c off n then k c off s else hold (s.touchSpan (x.core, x.slot, x.sp.pc) c off n)
      | _ => hold s
    | (_, s) => hold s
/-- MMAG: reason 7 comes before reason 8 and the alignment of the index list, and these before the spans (R307, R315). -/
def execMmag (o : MmagO) (s : State) : Out :=
  opMul s o.t.toNat .plain 0 o.a o.c fun x cores ma mb ka kb kl =>
    let u := x.uni
    let m := 8 * (o.c.m.toNat + 1)
    let ia := (u.sr (o.a.toNat + 1)).toNat
    let early := fun (s : State) (later : Out) =>
      if badOffsets mb ka kb kl then mxFault s x 8 0
      else if ia % 2 ≠ 0 then trapAt s x 7 x.sp.mask (toW ia) 0 else later
    let index := fun (later : Out) =>
      match s.decodeSpans x [(ia, 2 * m)] with
      | .bad _ r => trapAt s x 9 x.sp.mask (toW ia) (toW r)
      | _ => later
    listSpan s x (u.sr o.b.toNat).toNat m (fun f => early s (index f)) fun c off s =>
      let sc := s.listAt c off 1 m
      match listFault sc with
      | some i => mxFault s x 7 (toW i)
      | none => early s (listSpan s x ia (2 * m) id fun c off s =>
          mulOperands s x cores o.c.p o.t.toNat .plain ma mb ka kb kl (colsOf o.c)
            (((s.listAt c off 2 m).zip sc).filter fun r => r.2 ≠ 255))

/-! ### The ACC family (R317, R318) -/

def execAccZero (o : AccZ) (s : State) : Out :=
  onSplit s fun x =>
    let t := o.t.toNat; let n := o.n.toNat
    let all := (List.range (n + 1)).map (t + ·)
    mxCores s x o.p all fun cores =>
      match all.find? fun v => s.badCopy cores v fun c => c.spec != 0 with
      | some v => mxFault s x 5 (toW v)
      | none => enterMx s x 4 (.zero t n) cores o.p
/-- ACC.COMMIT; s60 of reason 5 names t, the model's choice (R307; log 97). -/
def execAccCommit (o : AccC) (s : State) : Out :=
  onSplit s fun x =>
    let t := o.t.toNat; let u := o.u.toNat
    mxCores s x o.p [t, u] fun cores =>
      if cores.any fun c => !s.linked c t u then mxFault s x 5 (toW t)
      else enterMx s x 4 (.commit t u (x.uni.c o.c.p != o.c.n)) cores o.p
/-- ACC.DROP; s60 of reason 5 names t, the model's choice (R307; log 97). -/
def execAccDrop (o : AccZ) (s : State) : Out :=
  onSplit s fun x =>
    let t := o.t.toNat; let u := o.n.toNat
    mxCores s x o.p [t, u] fun cores =>
      if cores.any fun c => !s.linked c t u then mxFault s x 5 (toW t) else enterMx s x 4 (.drop t u) cores o.p
/-- ACC.MERGE; where t = u or the counters overlap, s60 of reason 6 names t: the model's choice (R307; log 97). -/
def execAccMerge (o : AccZ) (s : State) : Out :=
  onSplit s fun x =>
    let t := o.t.toNat; let u := o.n.toNat
    mxCores s x o.p [t, u] fun cores =>
      let spec := fun (c : TileCtl) => c.spec != 0
      let noHead := fun (c : TileCtl) => c.cl == 0 || c.lvl
      let meet := cores.any fun c => decide (t ≤ u + (s.copyOf c u).cl ∧ u ≤ t + (s.copyOf c t).cl)
      if s.badCopy cores t spec then mxFault s x 5 (toW t)
      else if s.badCopy cores u spec then mxFault s x 5 (toW u)
      else if s.badCopy cores t noHead then mxFault s x 6 (toW t)
      else if s.badCopy cores u noHead then mxFault s x 6 (toW u)
      else if meet then mxFault s x 6 (toW t)
      else enterMx s x 4 (.merge t u) cores o.p
/-- The words of a poison map. -/
def poisonWords (p : BitVec 256) : List Word := (List.range 8).map fun w => p.extractLsb' (32 * w) 32
/-- ACC.POISON waits for the operations that entered the queue before it. -/
def execAccPoison (o : AccP) (s : State) : Out :=
  onSplit s fun x =>
    let t := o.t.toNat
    mxCores s x o.p [t] fun cores =>
      if (s.mx x.core).queue.any fun e => decide (e.id < x.seq s.nextId) then hold s
      else
        let ws := cores.flatMap fun c => poisonWords ((s.mx c).tile t).poison
        let s := if o.clr then cores.foldl (fun s c => s.modMx c fun k => k.setTile t { k.tile t with poison := 0 }) s else s
        .next (s.done x 4 fun g => g.modUni fun u => u.setSs o.d.toNat ws)

/-! ### ACCLD, ACCST (R319, R320) -/

def accBytes (fmt : Nat) : Nat := if fmt = 0 then 4 else if fmt < 3 then 2 else 1
/-- ACCLD and ACCST. For cause 0x07 s60 is sa, also where STRIDE alone is misaligned: the model's choice (R319; log 17). -/
def opAccIo (s : State) (o : AccIo) (store : Bool) : Out :=
  onSplit s fun x =>
    let t := o.t.toNat; let z := accBytes o.fmt.toNat
    let a := (x.uni.sr o.a.toNat).toNat; let st := o.stride.toNat
    let row0 := 8 * o.row0.toNat; let rows := 8 * (o.rows.toNat + 1)
    mxCores s x o.p [t] fun cores =>
      if store = false ∧ s.badCopy cores t (fun c => c.spec != 0) = true then mxFault s x 5 (toW t)
      else if store = false ∧ s.badCopy cores t TileCtl.counts = true then mxFault s x 6 (toW t)
      else if a % z ≠ 0 ∨ st % z ≠ 0 then trapAt s x 7 x.sp.mask (toW a) 0
      else
        let n := 128 * z * cores.length
        mxSpans s x store ((List.range rows).map fun i => ((a + i * st) % 2 ^ 32, n)) fun l s =>
          enterMx s x 8 (if store then .store t o.fmt.toNat o.sat l row0 rows else .load t o.fmt.toNat l row0 rows) cores o.p
def execAccld (o : AccIo) (s : State) : Out := opAccIo s o false
def execAccst (o : AccIo) (s : State) : Out := opAccIo s o true

/-! ### AMAP, BPL, PAIR, MWAIT (R321 to R327) -/

def execAmap (o : AmapO) (s : State) : Out :=
  onSplit s fun x =>
    let u := x.uni
    let m : BitVec 128 := u.sr (o.a.toNat + 3) ++ u.sr (o.a.toNat + 2) ++ u.sr (o.a.toNat + 1) ++ u.sr o.a.toNat
    if mapOk m then .next (s.done x 4 fun g => g.modUni fun u => { u with maps := mset u.maps o.n.toNat m })
    else mxFault s x 4 (o.n.zeroExtend 32)
/-- BPL.LD and BPL.ZERO: the follower form, reason 8, alignment, the spans. -/
def opBpl (s : State) (f : Bool) (b : BitVec 6) (n cols : Nat) (src : Option (BitVec 6 × Nat)) : Out :=
  onSplit s fun x =>
    if s.drainBusy x.core ∨ (f = true ∧ s.drainBusy (x.core + 1) = true) ∨ s.mxTurn x = false then hold s
    else if f ∧ s.follower x = none then mxFault s x 2 0
    else
      let sb := (x.uni.sr b.toNat).toNat
      if sb ≥ 2 ^ 22 ∨ sb % 32768 + n > 32768 ∨ sb / 32768 + cols > 128 then mxFault s x 8 0
      else if sb % 32 ≠ 0 then trapAt s x 7 x.sp.mask (toW sb) 0
      else
        match src with
        | none => enterMx s x 8 (.planeZero sb n cols) [] f
        | some (a, ss) =>
          let sa := (x.uni.sr a.toNat).toNat
          if sa % 32 ≠ 0 then trapAt s x 7 x.sp.mask (toW sa) 0
          else
            mxSpans s x false ((List.range cols).map fun c => ((sa + c * ss) % 2 ^ 32, n)) fun l s =>
              enterMx s x 8 (.planeLd sb n cols l) [] f
def execBplLd (o : BplO) (s : State) : Out :=
  opBpl s o.f o.b (32 * (o.len.toNat + 1)) (o.cols.toNat + 1) (some (o.a, 32 * o.ss.toNat))
def execBplZero (o : BpzO) (s : State) : Out := opBpl s o.f o.b (32 * (o.len.toNat + 1)) (o.cols.toNat + 1) none
/-- The status of PAIR.BIND (R325). -/
def State.bindStatus (s : State) (x : Ex) : Nat :=
  let f := x.core + 1
  if x.core % 2 = 1 then 1
  else if (s.mx x.core).bound = some x.gr.blk then 0
  else if (s.mx x.core).bound.isSome then 3
  else if mget (s.core f).res x.gr.ctx ≠ some .active then 2
  else if (s.core f).part ≠ (s.core x.core).part ∧ s.openCore f = false then 4
  else 0
def execPairBind (o : Ud) (s : State) : Out :=
  onSplit s fun x =>
    let f := x.core + 1
    if x.core % 2 = 0 ∧ (s.mx f).queue ≠ [] then hold s
    else
      let st := s.bindStatus x
      let s := if st = 0 ∧ (s.mx x.core).bound = none then
          (if s.openCore f then s.applyPart f (s.core x.core).part else s).modMx x.core fun k => { k with bound := some x.gr.blk }
        else s
      .next (s.done x 4 fun g => g.modUni fun u => u.setS o.d.toNat (toW st))
def execPairFree (o : Ud) (s : State) : Out :=
  onSplit s fun x =>
    if (s.follower x).isNone then .next (s.done x 4 fun g => g.modUni fun u => u.setS o.d.toNat 1)
    else if (s.mx x.core).queue.any fun e => e.pair && decide (e.who.blk = x.gr.blk) then hold s
    else .next ((s.modMx x.core fun k => { k with bound := none }).done x 4 fun g => g.modUni fun u => u.setS o.d.toNat 0)
/-- The operation reads operands in scratch, rows or the plane, and has not read them all (R327). -/
def MxEntry.reading (e : MxEntry) : Bool :=
  match e.op with
  | .mul .. => e.read.isNone
  | .load .. => true
  | .planeLd .. => true
  | _ => false
def execMwait (o : MwaitO) (s : State) : Out :=
  onSplit s fun x =>
    if (s.mx x.core).queue.any fun e => s.before x e.who && (!o.r || e.reading) then waitOn s x .poll else .next (s.done x 4 id)

/-! ### The array at work (R292, R293, R314, R318, R320, R323) -/

/-- The spans of scratch that an operation reads: core, offset, length. -/
def MxEntry.reads (e : MxEntry) : List (Nat × Nat × Nat) :=
  match e.op with
  | .mul _ _ ma _ ka _ kl _ _ _ spans sspans =>
    (spans.map fun p => (p.1, p.2, bytesOf (mapFmt ma) ka kl)) ++ sspans.map fun p => (p.1, p.2, scalesOf ka kl)
  | .load _ fmt spans _ _ => spans.map fun p => (p.1, p.2, 128 * accBytes fmt * (if e.pair then 2 else 1))
  | .planeLd _ n _ spans => spans.map fun p => (p.1, p.2, n)
  | _ => []
def MxEntry.writes (e : MxEntry) : List (Nat × Nat × Nat) :=
  match e.op with
  | .store _ fmt _ spans _ _ => spans.map fun p => (p.1, p.2, 128 * accBytes fmt * (if e.pair then 2 else 1))
  | _ => []
/-- The span lies in a window of the context that is there. -/
def State.spanThere (s : State) (ctx : Nat) (p : Nat × Nat × Nat) : Bool := (s.windowAt p.1 p.2.1 p.2.2 ctx).isSome
/-- The clks of tile copy before the stream of a multiply. -/
def State.mxCopy (s : State) (core : Nat) (e : MxEntry) : Nat :=
  match e.op with
  | .mul t (.spec _) .. => if ((s.mx core).ctl t).spec = 0 then 32 else 0
  | _ => 0
/-- The clks of the stream of a multiply whose operands are there; a stream from scratch takes at most 512 bytes of A, its scales
among them, in a clk. -/
def MxOp.stream : MxOp → Nat
  | .mul _ _ ma _ ka _ kl rows _ _ _ _ =>
    let row := bytesOf (mapFmt ma) ka kl + if mapMx ma then scalesOf ka kl else 0
    max (ceilDiv kl (fmtRate (mapFmt ma))) (if mapSrc ma = 0 then ceilDiv (rows.length * row) 512 else 0)
  | _ => 0
/-- The clks from the end of its stream to the landing of its results, or those of an operation without a stream. -/
def State.mxTime (s : State) (core : Nat) (e : MxEntry) : Nat :=
  match e.op with
  | .mul _ .canonical .. => 32
  | .mul .. => 24
  | .zero _ n => 8 * (n + 1)
  | .merge _ u => 8 * ((List.range ((s.mx core).ctl u).cl).filter fun i => ((s.mx core).ctl (u + 1 + i)).occ).length
  | .commit .. => 1
  | .drop .. => 1
  | .planeZero _ n cols => 8 + ceilDiv (n * cols) 2048
  | .planeLd _ n cols _ => 8 + ceilDiv (n * cols) 256
  | _ => 8 + ceilDiv ((e.reads ++ e.writes).map fun p => p.2.2).sum 512
/-- A row slot of the operation's chain is OPENING, or an earlier transfer or access of it has not ended (R292, R294). -/
def State.chainBusy (s : State) (core : Nat) (e : MxEntry) : Bool :=
  e.op.chain.any fun c =>
    (match mget (s.rows core).slots c.1 with | some r => r.st == .opening | none => false) ||
    ((s.rows core).xfers.any fun t => decide (t.1 < e.id ∧ t.2.slot = c.1)) ||
    s.fly.reqs.any fun r => s.toBank core c.1 r.2 && decide (r.1 < e.id ∧ r.2.who.core = core)
/-- Row data is to move into the plane of a core in this clk (R13). -/
def State.planeMoves (s : State) (core : Nat) : Bool := (s.busTransfer core).isSome
/-- The tiles that an operation reads or writes on a core. -/
def Matrix.tilesOfOp (k : Matrix) : MxOp → List Nat
  | .mul t .plain .. => [t]
  | .mul t .canonical .. => (List.range ((k.ctl t).cl + 1)).map (t + ·)
  | .mul t (.spec u) .. => [t, u]
  | .zero t n => (List.range (n + 1)).map (t + ·)
  | .commit t u _ => [t, u]
  | .drop t u => [t, u]
  | .merge t u => (List.range ((k.ctl t).cl + 1)).map (t + ·) ++ (List.range ((k.ctl u).cl + 1)).map (u + ·)
  | .load t .. => [t]
  | .store t .. => [t]
  | .planeLd .. => []
  | .planeZero .. => []
/-- The tiles that the results of a multiply land in. -/
def Matrix.tilesLanding (k : Matrix) (op : MxOp) : List Nat :=
  match op with
  | .mul _ (.spec u) .. => [u]
  | .mul .. => k.tilesOfOp op
  | _ => []
/-- The operation may start: the earlier ones have ended their streams, or their work, and have landed in its tiles. -/
def Matrix.mayStart (k : Matrix) (op : MxOp) (earlier : List MxEntry) : Bool :=
  earlier.all fun e => e.read.isSome && (k.tilesOfOp op).all fun t => decide (t ∉ k.tilesLanding e.op)
/-- The first operation that has not started, with those before it. -/
def nextToStart (l : List MxEntry) : List MxEntry × Option MxEntry :=
  (l.takeWhile fun e => e.started.isSome, (l.dropWhile fun e => e.started.isSome).head?)
def Matrix.setEntry (k : Matrix) (e : MxEntry) : Matrix := { k with queue := k.queue.map fun u => if u.id = e.id then e else u }
/-- The operand words in scratch of an operation that its context's windows hold. -/
def State.mxHere (s : State) (e : MxEntry) : List (Nat × Nat × Nat) := e.reads.filter fun p => s.spanThere e.who.ctx p
def State.mxTouch (s : State) (e : MxEntry) : State :=
  (s.mxHere e).foldl (fun s p => s.touchSpan (e.who.core, e.who.slot, e.pc) p.1 p.2.1 p.2.2) s
/-- MATRIX_OP_START: the next operation starts and requests the fills of its operands; a started one asks again for words that
are ABSENT. -/
def execMatrixOpStart (core : Nat) (s : State) : Out :=
  let k := s.mx core
  let n := nextToStart k.queue
  let start := match n.2 with | some e => k.mayStart e.op n.1 | none => false
  match start, n.2 with
  | true, some e => .next ((s.mxTouch e).modMx core fun k => k.setEntry { e with started := some s.now })
  | _, _ =>
    match n.1.find? fun e => e.read.isNone with
    | some e => if (s.mxHere e).any fun p => s.fillable p.1 p.2.1 p.2.2 then .next (s.mxTouch e) else .refused .eventNotDue
    | none => .refused .eventNotDue

/-- The bytes of a span with their poison; those of a window that is gone are not stated. -/
def State.spanBytes (s : State) (ctx : Nat) (p : Nat × Nat × Nat) : List (Byte × Bool) × State :=
  if s.spanThere ctx p then
    let k := (s.core p.1).scratch
    ((List.range p.2.2).map fun i => (Bytes.at_ k.bytes (p.2.1 + i), mgetD k.poison ((p.2.1 + i) / 4) false), s)
  else (List.range ((p.2.2 + 3) / 4)).foldl (fun a _ =>
    let f := a.2.free; (a.1 ++ (leBytes 4 f.1.toNat).map fun b => (b, false), f.2)) ([], s)
def State.spansBytes (s : State) (ctx : Nat) : List (Nat × Nat × Nat) → List (List (Byte × Bool)) × State
  | [] => ([], s)
  | p :: t => let r := s.spanBytes ctx p; let q := State.spansBytes r.2 ctx t; (r.1 :: q.1, q.2)
/-- Byte q of a chain of rows. -/
def State.chainByte (s : State) (core : Nat) (chain : List (Nat × Nat)) (slot0 q : Nat) : Byte × Bool :=
  match chain.find? fun c => c.1 == slot0 + q / 8192 with
  | some c =>
    let pa := rowAddr core c.1 c.2 (q % 8192)
    (Bytes.at_ s.mem.bytes pa, mgetD s.mem.poison (pa / 4) false)
  | none => (0, false)
def State.planeByte (s : State) (core a : Nat) : Byte × Bool :=
  (Bytes.at_ (s.mx core).plane a, mgetD (s.mx core).planePoison (a / 4) false)
/-- The rows of A: destination and elements. -/
def State.rowsOfA (s : State) (core : Nat) (ma : BitVec 128) (ka kl : Nat) (rows chain : List (Nat × Nat))
    (data scales : List (List (Byte × Bool))) : List (Nat × List MEl) :=
  let f := mapFmt ma
  let els := ((List.range rows.length).zip rows).map fun p =>
    let i := p.1; let r := p.2
    let chainAt := fun base q => s.chainByte core chain (mapSlot ma) (base + q)
    let a := fun q => if mapSrc ma = 0 then (data.getD i []).getD q (0, false)
      else chainAt (mapOff ma + r.1 * mapStride ma + byteOf f ka) q
    let c := fun q => if mapSrc ma = 0 then (scales.getD i []).getD q (0, false)
      else chainAt (mapScale ma + r.1 * mapSstride ma + ka / 32) q
    (r.2, readEls ma ka kl a c)
  (List.range 128).filterMap fun d => els.find? fun r => r.1 = d
/-- The columns of B on one core. -/
def State.colsOfB (s : State) (core : Nat) (mb : BitVec 128) (kb kl n : Nat) : List (Nat × List MEl) :=
  (List.range n).map fun j =>
    (j, readEls mb kb kl (fun q => s.planeByte core (32768 * j + mapBase mb + byteOf (mapFmt mb) kb + q))
      fun q => s.planeByte core (32768 * j + mapScale mb + kb / 32 + q))
/-- The steps of a multiply on its cores, from its operands as they stand. -/
def State.mxSteps (s : State) (core : Nat) (e : MxEntry) : List (Tile × Bool) × State :=
  match e.op with
  | .mul _ _ ma mb ka kb kl rows n chain spans sspans =>
    let d := s.spansBytes e.who.ctx (spans.map fun p => (p.1, p.2, bytesOf (mapFmt ma) ka kl))
    let q := d.2.spansBytes e.who.ctx (sspans.map fun p => (p.1, p.2, scalesOf ka kl))
    let a := s.rowsOfA core ma ka kl rows chain d.1 q.1
    (((if e.pair then [core, core + 1] else [core]).map fun c => stepTile a (s.colsOfB c mb kb kl n)), q.2)
  | _ => ([], s)
/-- The parts of scratch that a multiply reads in one clk of its stream. -/
def MxEntry.beatReads (e : MxEntry) (i : Nat) : List (Nat × Nat × Nat) :=
  match e.op with
  | .mul _ _ ma _ ka _ kl _ _ _ spans sspans =>
    let f := mapFmt ma
    let k0 := ka + kl * i / e.op.stream
    let k1 := max (k0 + 1) (ka + ceilDiv (kl * (i + 1)) e.op.stream)
    let b := byteOf f k0 - byteOf f ka
    (spans.map fun p => (p.1, p.2 + b, bytesOf f k0 (k1 - k0))) ++
      sspans.map fun p => (p.1, p.2 + (k0 / 32 - ka / 32), scalesOf k0 (k1 - k0))
  | _ => []
/-- The operands of one clk of a stream are there (R292): no word of scratch is ABSENT or PENDING, and the rows are open. -/
def State.beatReady (s : State) (core : Nat) (e : MxEntry) (i : Nat) : Bool :=
  !s.chainBusy core e && (e.beatReads i).all fun p =>
    !s.spanThere e.who.ctx p && !s.savedWin p.1 p.2.1 p.2.2 e.who.ctx || s.spanThere e.who.ctx p && s.validRange p.1 p.2.1 p.2.2
/-- The multiply at work in the array of a core. -/
def State.atWork (s : State) (core : Nat) : Option MxEntry :=
  (s.mx core).queue.find? fun e => e.started.isSome && e.read.isNone && e.op.stream != 0
/-- The array wants the next beat of the vertical bus: the multiply at work takes A from a row, and its other operands are there. -/
def State.arrayAsks (s : State) (core : Nat) (e : MxEntry) : Bool :=
  !e.op.chain.isEmpty && decide (s.mxCopy core e ≤ e.ran) && s.beatReady core e (e.ran - s.mxCopy core e)
/-- A clk of a multiply at work: the copy or the stream goes on, or it waits for an operand; got: no other has the bus. -/
def State.streamClk (s : State) (core : Nat) (e : MxEntry) (got : Bool) : State :=
  let c := s.mxCopy core e
  let e' := { e with ran := e.ran + 1 }
  if e.ran < c then s.modMx core fun k => k.setEntry e'
  else if s.beatReady core e (e.ran - c) = false ∨ (e.op.chain.isEmpty = false ∧ got = false) then s.bump core .mxstall
  else if e'.ran < c + e.op.stream then s.modMx core fun k => k.setEntry e'
  else
    let r := s.mxSteps core e
    r.2.modMx core fun k => k.setEntry { e' with read := some (s.now + 1), steps := r.1 }
/-- A clk of the array and of the vertical bus: of a bus that both want, the transfer has the first beat and every other one
(R13). -/
def State.mxClk (s : State) (core : Nat) : State :=
  let moves := s.planeMoves core
  match s.atWork core with
  | none => s.busBeat core
  | some e =>
    let both := moves && s.arrayAsks core e
    let array := if both then (s.rows core).turn else !moves
    let s' := if array then s else s.busBeat core
    (if (s.rows core).turn = (both && !array) then s' else s'.modRows core fun k => { k with turn := both && !array }).streamClk core e array

/-- Flags raised in the group flag word of the issuing group. -/
def State.raiseGroup (s : State) (w : Owner) (f : Flags) : State :=
  s.modGroup w.core w.slot fun g => if g.uid = w.uid then g.modUni fun u => { u with flags := u.flags ||| f } else g
/-- A multiply's step put into the tile of one core. -/
def Matrix.mulInto (k : Matrix) (t : Nat) (kind : MulKind) (step : Tile) : Matrix × Bool :=
  match kind with
  | .plain => let r := (k.tile t).add false step; (k.setTile t r.1, r.2)
  | .canonical =>
    let r := k.arrive t (k.ctl t).cl step 0
    (r.1.setCtl t fun c => { c with count := min (c.count + 1) 0xFFFFF }, r.2)
  | .spec u => let r := (k.tile u).add false step; (k.setTile u r.1, r.2)
/-- The tile copy of the first MMAS of a link (R316). DESIGN CHOICE (log 70): the poison bits that it carries into the shadow
raise no PZ; R42 does not say whether a copied bit counts as set. -/
def Matrix.specCopy (k : Matrix) (t : Nat) (kind : MulKind) : Matrix :=
  match kind with
  | .spec u => if (k.ctl t).spec = 0 then k.setTile u (k.tile t) else k
  | _ => k
/-- What an operation does to one core's tiles: new tiles and flags; a swap of two tiles sets no poison bit. -/
def State.mxPut (s : State) (c : Nat) (e : MxEntry) (k' : Matrix) (fl : Flags) : State :=
  let k := s.mx c
  let n := match e.op with | .commit .. => 0 | _ => k.newPoison k'
  ((s.modMx c fun _ => { k' with ctls := e.op.link k'.ctls }).bump c .mxpois n).raiseGroup e.who (fl ||| flWhen (n != 0) flPZ)
/-- ACC.MERGE on one core (R47, R318). -/
def Matrix.mergeInto (k : Matrix) (t u : Nat) : Matrix × Bool :=
  let r := ((List.range (k.ctl u).cl).reverse.filter fun i => (k.ctl (u + 1 + i)).occ).foldl
    (fun (p : Matrix × Bool) i => let q := p.1.arrive t (k.ctl t).cl (k.tile (u + 1 + i)) i; (q.1, p.2 || q.2)) (k, false)
  (r.1.setCtl t fun c => { c with count := min (c.count + (k.ctl u).count) 0xFFFFF }, r.2)
/-- The code and flags of an element stored (R320). -/
def accCode (fmt : Nat) (sat : Bool) (w : Word) : Nat × Flags :=
  if fmt = 0 then (w.toNat, 0)
  else (if fmt = 1 then fBf16 else if fmt = 2 then fF16 else if fmt = 3 then fE4m3 else fE5m2).convert .rn sat (fF32.val w.toNat)
/-- The element loaded from a code, and whether it is poisoned (R44, R320). -/
def accElem (fmt c : Nat) : Word × Bool :=
  match (if fmt = 0 then fF32 else if fmt = 1 then fBf16 else fF16).val c with
  | .nan _ => (0, true)
  | .inf n => (if n then 0xFF7FFFFF else 0x7F7FFFFF, true)
  | v => (toW (fF32.deliver .rn v).1, false)
/-- One element of ACCST written as SST would write it, with the poison of its block. -/
def State.storeElem (s : State) (core off z : Nat) (c : Nat) (bad : Bool) : State :=
  let s := s.storeScr core off (leBytes z c)
  if bad then (wordOffs off z).foldl (fun s o => s.setScrPoison core o true) s else s
/-- ACCST: rows ascending, columns ascending; spans of windows that are gone take nothing, nor do lines that do not land. -/
def State.accStore (s : State) (e : MxEntry) (cores : List Nat) (t fmt : Nat) (sat : Bool) (spans : List (Nat × Nat))
    (row0 : Nat) (lands : Nat → Nat → Bool := fun _ _ => true) : State :=
  let z := accBytes fmt
  ((List.range spans.length).zip spans).foldl (fun s p =>
    let i := row0 + p.1
    if !s.spanThere e.who.ctx (p.2.1, p.2.2, 128 * z * cores.length) then s
    else ((List.range (128 * cores.length)).filter fun j => lands p.2.1 (p.2.2 + j * z)).foldl (fun s j =>
      let tile := (s.mx (cores.getD (j / 128) 0)).tile t
      let key := 128 * i + j % 128
      let c := accCode fmt sat (mgetD tile.elems key 0)
      (s.storeElem p.2.1 (p.2.2 + j * z) z c.1 ((tile.poison &&& poisonBit key) != 0)).raiseGroup e.who
        (c.2 &&& (flOF ||| flUF ||| flIX))) s) s
/-- ACCLD on one core: its rows replaced, and the poison of the blocks covered. -/
def Tile.loadRows (t : Tile) (fmt row0 c : Nat) (data : List (List (Byte × Bool))) : Tile :=
  let z := accBytes fmt
  let els := ((List.range data.length).zip data).flatMap fun p => (List.range 128).map fun j =>
    let bs := (List.range z).map fun b => p.2.getD ((128 * c + j) * z + b) (0, false)
    (128 * (row0 + p.1) + j, if bs.any Prod.snd then ((0 : Word), true) else accElem fmt (leNat (bs.map Prod.fst)))
  let lo := 128 * row0; let hi := 128 * (row0 + data.length)
  let kept := t.elems.filter fun p => p.1 < lo
  let rest := t.elems.filter fun p => hi ≤ p.1
  let cover : BitVec 256 := BitVec.ofNat 256 (2 ^ (2 * (row0 + data.length)) - 2 ^ (2 * row0))
  { elems := kept ++ (els.filterMap fun p => if p.2.1 = 0 then none else some (p.1, p.2.1)) ++ rest
    poison := (els.filter fun p => p.2.2).foldl (fun m p => m ||| poisonBit p.1) (t.poison &&& ~~~ cover) }
/-- The operation's effect. MXCOMMIT and MXDROP of a pair form count on its leader alone: the model's choice (R312; log 96). -/
def State.mxPerform (s : State) (core : Nat) (e : MxEntry) : State :=
  let cores := if e.pair then [core, core + 1] else [core]
  let each := fun (s : State) (f : Matrix → Matrix × Bool) (fl : Flags) =>
    cores.foldl (fun s c => let r := f (s.mx c); s.mxPut c e r.1 (fl ||| flWhen r.2 (flOF ||| flPZ))) s
  let plane := if e.pair then core + 1 else core
  match e.op with
  | .mul t kind .. =>
    let s := cores.foldl (fun s c => s.modMx c fun k => k.specCopy t kind) s
    (cores.zip e.steps).foldl (fun s p =>
      let st := p.2
      let r := (s.mx p.1).mulInto t kind st.1
      (s.mxPut p.1 e r.1 (flWhen (st.2 || r.2) flOF ||| flWhen (st.1.poison != 0 || r.2) flPZ)).bump p.1 .mxstep) s
  | .zero t n => each s (fun k => ((List.range (n + 1)).foldl (fun k i => k.setTile (t + i) {}) k, false)) 0
  | .commit t u cond =>
    (each s (fun k => (if cond then (k.setTile t (k.tile u)).setTile u (k.tile t) else k, false)) 0).bump core
      (if cond then .mxcommit else .mxdrop)
  | .drop _ _ => (each s (fun k => (k, false)) 0).bump core .mxdrop
  | .merge t u => each s (fun k => k.mergeInto t u) 0
  | .store t fmt sat spans row0 _ => s.accStore e cores t fmt sat spans row0
  | .load t fmt _ row0 _ =>
    let d := s.spansBytes e.who.ctx e.reads
    ((List.range cores.length).zip cores).foldl (fun s p =>
      let k := s.mx p.2
      let n := (k.tile t).loadRows fmt row0 p.1 d.1
      s.mxPut p.2 e (k.setTile t n) (flWhen ((n.poison &&& BitVec.ofNat 256 (2 ^ (2 * (row0 + d.1.length)) - 2 ^ (2 * row0))) != 0) flPZ)) d.2
  | .planeLd b _ _ _ =>
    let d := s.spansBytes e.who.ctx e.reads
    ((List.range d.1.length).zip d.1).foldl (fun s p =>
      s.putPlane plane (b + 32768 * p.1) (p.2.map Prod.fst) ((List.range (p.2.length / 4)).map fun i => (p.2.getD (4 * i) (0, false)).2)) d.2
  | .planeZero b n cols =>
    (List.range cols).foldl (fun s c => s.putPlane plane (b + 32768 * c) (List.replicate n 0) (List.replicate (n / 4) false)) s
/-- The tiles that an operation reads on a core (R311). -/
def Matrix.tilesRead (k : Matrix) (op : MxOp) : List Nat :=
  match op with
  | .mul t (.spec u) .. => if (k.ctl t).spec = 0 then [t, u] else [u]
  | .mul .. => k.tilesOfOp op
  | .merge .. => k.tilesOfOp op
  | .store t .. => [t]
  | _ => []
/-- The tiles with an unread lasting error after an operation has written or exchanged tiles. -/
def MxOp.keepLost : MxOp → List Nat → List Nat
  | .zero t n, l => l.filter fun v => decide (v < t ∨ t + n < v)
  | .commit t u true, l => l.map fun v => if v = t then u else if v = u then t else v
  | _, l => l
/-- An operation that reads a tile with a lasting error raises PZ for its group (R311). -/
def State.mxLost (s : State) (e : MxEntry) (c : Nat) : State :=
  let k := s.mx c
  let hit := k.lost.filter fun v => decide (v ∈ k.tilesRead e.op)
  (s.modMx c fun k => { k with lost := e.op.keepLost (k.lost.filter fun v => v ∉ hit) }).raiseGroup e.who (flWhen (!hit.isEmpty) flPZ)
/-- The binding of a holder that has ended ends with the last pair operation that the holder issued, saved or not (R305). -/
def State.endBinding (s : State) (core : Nat) : State :=
  let lead := core / 2 * 2
  let ended := fun (b : Nat) => (mget s.blocks b).isNone && !((s.mx lead).queue.any fun e => e.pair && decide (e.who.blk = b))
  let cut := fun (b : Option Nat) => match b with | some b => if ended b then none else some b | none => none
  [lead, lead + 1].foldl (fun s c => s.modCore c fun k => { k with
    mx := { k.mx with bound := cut k.mx.bound }
    saved := mall k.saved fun _ v => { v with bound := cut v.bound } }) s
/-- The operation has had its time, and its operands are there. -/
def State.mxDone (s : State) (core : Nat) (e : MxEntry) : Bool :=
  let time := s.mxTime core e
  match e.op with
  | .mul .. => match e.read with | some r => decide (r + time ≤ s.now) | none => false
  | _ =>
    match e.started with
    | none => false
    | some b => decide (b + time ≤ s.now) &&
        ((e.reads ++ e.writes).all fun p => s.spanThere e.who.ctx p || !s.savedWin p.1 p.2.1 p.2.2 e.who.ctx) &&
        e.reads.all fun p => !s.spanThere e.who.ctx p || s.validRange p.1 p.2.1 p.2.2
/-- MATRIX_OP_COMPLETE: the results of an operation land and its writes apply. -/
def execMatrixOpComplete (core : Nat) (s : State) : Out :=
  match (s.mx core).queue.find? fun e => s.mxDone core e with
  | none => .refused .eventNotDue
  | some e =>
    let s := s.modMx core fun k => { k with queue := k.queue.filter fun u => u.id ≠ e.id }
    let s := (if e.pair then [core, core + 1] else [core]).foldl (fun s c => s.mxLost e c) s
    .next ((s.mxPerform core e).endBinding core)

end Sys2Proof.Machine
end

