-- ==== Sys2Proof/Machine/Launch.lean ====
section
/-! DEFINITION. Launch headers, launches and their completion, continuation queues, joins, and CONT, CFORK, CJOIN and LAUNCH
(spec 13 R370 to R378, R384 to R391, 07 R175, 16 R447). -/
namespace Sys2Proof.Machine

/-! ### The header (R371, R372) -/

/-- The number in n bytes from byte o. -/
def byteField (b : List Byte) (o n : Nat) : Nat := leNat ((b.drop o).take n)
/-- A header from its 64 bytes. -/
def headerOf (b : List Byte) : Header :=
  let w := byteField b 16 8
  let r := byteField b 56 8
  { code := toD (byteField b 0 8), lim := toD (byteField b 8 8), widths := (List.range 6).map fun i => bits w (6 * i) 6
    queue := bits w 57 6, ray := bitN w 56, paired := bitN w 55, prio := bits w 52 3, eclass := bits w 49 3
    part := bits w 46 3, groups := bits w 40 6 + 1, stack := 16 * (bits w 36 4 + 2), limit := bits r 0 16
    trapb := toD (byteField b 24 8), comp := toD (byteField b 32 8), mapt := toD (byteField b 40 8)
    arg := toD (byteField b 48 8), celle := BitVec.ofNat 8 (r / 2 ^ 56), quota := bits r 32 24 + 1
    patience := bits r 16 16 + 1 }
/-- N_i. -/
def Header.count (h : Header) (i : Nat) : Nat := widField h.widths h.lim i + 1
/-- T, the groups of the launch. -/
def Header.total (h : Header) : Nat := h.count 1 * h.count 2 * h.count 3 * h.count 4 * h.count 5
/-- ceil(T / G), the blocks of the launch. -/
def Header.blocks (h : Header) : Nat := (h.total + h.groups - 1) / h.groups
/-- The groups of block b. -/
def Header.groupsOf (h : Header) (b : Nat) : Nat := min (b * h.groups + h.groups) h.total - b * h.groups
/-- The identifier of lane l of the group with linear index j. -/
def Header.wid (h : Header) (j l : Nat) : DWord :=
  let f1 := j % h.count 1; let j := j / h.count 1
  let f2 := j % h.count 2; let j := j / h.count 2
  let f3 := j % h.count 3; let j := j / h.count 3
  let fs := [l, f1, f2, f3, j % h.count 4, j / h.count 4]
  toD ((List.range 6).foldl (fun a i => a + fs.getD i 0 * 2 ^ (h.widths.take i).sum) 0)

/-! ### The scratch-map template (R175) -/

/-- An entry of a template. -/
structure TplEntry where
  n : Nat
  kind : Nat
  s : Nat
  len : Nat
  b : DWord
  deriving DecidableEq, Repr
/-- W, and the entries, of a template's words. -/
def tplWindow (t : List DWord) : Nat := bits (t.headD 0).toNat 0 32
def tplEntries (t : List DWord) : List TplEntry :=
  (List.range (bits (t.headD 0).toNat 32 8)).map fun i =>
    let w := (t.getD (1 + 2 * i) 0).toNat
    ⟨bits w 0 4, bits w 4 2, 64 * bits w 32 14, 64 * bits w 47 15, t.getD (2 + 2 * i) 0⟩
/-- The reserved bits of an entry's first word are 0. -/
def tplClear (w : Nat) : Bool := bits w 6 26 == 0 && bits w 46 1 == 0 && bits w 62 2 == 0
def TplEntry.overlaps (a b : TplEntry) : Bool := decide (a.s < b.s + b.len ∧ b.s < a.s + a.len)
/-- No entry of a list overlaps a later one, and no two of kinds 0 and 1 name one register. -/
def tplApart : List TplEntry → Bool
  | [] => true
  | e :: t => (t.all fun f => !e.overlaps f && !(decide (e.n = f.n) && e.kind != 3 && f.kind != 3)) && tplApart t
/-- The bytes of the scratch part under a code (R110). -/
def scratchPart (part : Nat) : Nat := 1024 * ([512, 256, 256, 768, 512, 768, 1024, 384].getD part 0)
/-- A template that keeps R174 and R175. -/
def tplOk (part : Nat) (t : List DWord) : Bool :=
  let h := (t.headD 0).toNat
  let es := tplEntries t
  decide (tplWindow t % 1024 = 0 ∧ tplWindow t ≤ scratchPart part ∧ bits h 32 8 ≤ 16 ∧ bits h 40 24 = 0) &&
  ((List.range es.length).all fun i => tplClear (t.getD (1 + 2 * i) 0).toNat) &&
  (es.all fun e => decide (64 ≤ e.len ∧ e.s + e.len ≤ tplWindow t) && e.kind != 2 &&
    (e.kind == 3 || (decide (e.b.toNat % 64 = 0) && canonical e.b))) && tplApart es
/-- 64-bit words of bytes. -/
def dwords : Nat → List Byte → List DWord
  | 0, _ => []
  | n + 1, b => toD (byteField b 0 8) :: dwords n (b.drop 8)
/-- The template that a header names, read whole: none when it cannot be read. -/
def State.readTemplate (s : State) (ctx : Nat) (mapt : DWord) : Option (List DWord) × State :=
  if mapt = 0 then (some [], s)
  else if !canonical mapt then (none, s)
  else
    match s.agentRead ctx {} [0, 1] (partsOf mapt.toNat 8) with
    | (.error _, s) => (none, s)
    | (.ok h, s) =>
      let n := bits (leNat (h.map Prod.fst)) 32 8
      if n > 16 then (none, s)
      else
        match s.agentRead ctx {} [0, 1] (partsOf mapt.toNat (8 + 16 * n)) with
        | (.error _, s) => (none, s)
        | (.ok b, s) => (some (dwords (1 + 2 * n) (b.map Prod.fst)), s)

/-! ### The checks of a header (R373) -/

/-- Reasons 1 to 6. -/
def State.headerReason (s : State) (ctx : Nat) (b : List Byte) : Nat :=
  let h := headerOf b
  let w := byteField b 16 8
  let far := fun (a : DWord) (n : Nat) => decide (a.toNat % n ≠ 0) || !canonical a
  if far h.code 8 || far h.trapb 256 || (h.ray && far h.arg 64) || bitN w 63 || (!h.ray && byteField b 58 6 != 0) then 1
  else if h.widths.getD 0 0 ≠ 3 ∨ h.widths.sum > 64 then 2
  else if h.lim.toNat / 2 ^ h.widths.sum ≠ 0 ∨ h.blocks > 2 ^ 32 - 1 then 3
  else if bits w 36 4 > 14 then 4
  else if h.limit > (s.ctx ctx).regs.srw then 5
  else if h.groups * s.dev.weights.getD h.eclass 0 > 1024 then 6
  else 0
/-- The quotas of the running ray launches of a context. -/
def Ctx.quotas (x : Ctx) : Nat := (x.launches.map fun l => if l.2.hdr.ray then l.2.hdr.quota else 0).sum
/-- Reason 8: the exponent, the patience and the quota of a ray launch. -/
def State.rayRefused (s : State) (ctx : Nat) (h : Header) : Bool :=
  h.ray && decide (h.celle.toInt < -64 ∨ h.celle.toInt > 63 ∨ h.patience < 256 ∨
    (s.ctx ctx).quotas + h.quota > (s.ctx ctx).regs.raycap)
/-- The place of a completion object: in a writable D-class page. -/
def State.compPlace (s : State) (ctx : Nat) (comp : DWord) : Option Nat × State :=
  if comp.toNat % 16 ≠ 0 ∨ canonical comp = false then (none, s)
  else
    match s.agentTranslate ctx comp.toNat { write := true } with
    | (.error _, s) => (none, s)
    | (.ok (e, pa), s) => if pteClass e = 0 then (some pa, s) else (none, s)
/-- The first reason that applies, or 0, with the template. -/
def State.refusal (s : State) (ctx : Nat) (b : List Byte) : (Nat × List DWord) × State :=
  let h := headerOf b
  let r := s.headerReason ctx b
  if r ≠ 0 then ((r, []), s)
  else
    let (t, s) := s.readTemplate ctx h.mapt
    match t with
    | none => ((7, []), s)
    | some t =>
      if h.mapt ≠ 0 ∧ tplOk h.part t = false then ((7, []), s)
      else if s.rayRefused ctx h then ((8, []), s)
      else
        let (p, s) := if h.comp = 0 then (some 0, s) else s.compPlace ctx h.comp
        if p.isNone then ((9, []), s)
        else if (s.ctx ctx).launches.length ≥ 64 then ((10, []), s)
        else ((0, t), s)

/-! ### Completion objects (R376) -/

/-- Bytes of a completion object written at its home slice; the write is a release at scope 5, at a program time. -/
def State.compPut (s : State) (ctx pa off n v time : Nat) : State :=
  let p := placeBytes (pa % 64 + off) (leBytes n v)
  let s := s.agentStore ctx (lineAddr pa) 0 p.1 p.2 0 0
  s.takeSline pa fun l => { l with sts := max l.sts time }
/-- A 32-bit field of a completion object. -/
def State.compGet (s : State) (ctx pa off : Nat) : Nat × State :=
  let r := s.agentLine ctx (lineAddr pa)
  ((r.1.1.extractLsb' (8 * (pa % 64 + off)) 32).toNat, r.2)
/-- atom.add of 1 to COUNT, with release at scope 5: a poisoned word stays as it is (R258). -/
def State.compAdd (s : State) (ctx pa time : Nat) : State :=
  let r := s.agentLine ctx (lineAddr pa)
  if r.1.2.getLsbD ((pa % 64 + 4) / 4) then r.2.takeSline pa fun l => { l with sts := max l.sts time }
  else r.2.compPut ctx pa 4 4 (((r.1.1.extractLsb' (8 * (pa % 64 + 4)) 32).toNat + 1) % 2 ^ 32) time
/-- A later write: GEN is read again, and when it has changed the write is discarded and reported. -/
def State.compLater (s : State) (ctx n : Nat) (l : Launch) (f : State → Nat → State) : State :=
  if l.hdr.comp = 0 then s
  else
    let lost := fun (s : State) => s.postEvent ctx 2 0 0 n l.hdr.comp.toNat
    match s.compPlace ctx l.hdr.comp with
    | (none, s) => lost s
    | (some pa, s) =>
      let (g, s) := s.compGet ctx pa 0
      if g ≠ l.gen.toNat then lost s else f s pa
/-- A refused launch: status 3 and the reason. -/
def State.refuseLaunch (s : State) (ctx reason : Nat) (comp : DWord) : State :=
  if comp = 0 then s
  else
    match s.compPlace ctx comp with
    | (none, s) => s
    | (some pa, s) => s.compPut ctx pa 12 4 (256 * reason + 3) (s.ctx ctx).floor

/-! ### Launches that end (R375, R376) -/

def State.launch? (s : State) (ctx n : Nat) : Option Launch := mget (s.ctx ctx).launches n
def State.modLaunch (s : State) (ctx n : Nat) (f : Launch → Launch) : State :=
  s.modCtx ctx fun x => { x with launches := mmod x.launches n f }
/-- The key of a ray of a context. -/
def rayKey (ctx id : Nat) : Nat := ctx * 2 ^ 24 + id
/-- The live rays of a launch. -/
def State.raysOf (s : State) (ctx n : Nat) : List (Nat × Ray) :=
  s.rays.filter fun r => decide (r.1 / 2 ^ 24 = ctx ∧ r.2.launch = n)
/-- STATUS is written, "launch ended" posted, and the number is free; the launch's treelets are dropped (R354). -/
def State.endLaunch (s : State) (ctx n status : Nat) (l : Launch) : State :=
  let s := s.compLater ctx n l fun s pa => s.compPut ctx pa 12 4 status (s.ctx ctx).floor
  let s := s.postEvent ctx 1 n status
  let s := s.modCtx ctx fun x => { x with launches := mdel x.launches n }
  { s with clusters := mall s.clusters fun _ k =>
      { k with rays := { k.rays with cache := k.rays.cache.filter fun t => !(t.ctx == ctx && t.launch == n) } } }
/-- A launch ends once every block is reported, nothing of it is left, and no ray of it lives. -/
def State.tryEnd (s : State) (ctx n : Nat) : State :=
  match s.launch? ctx n with
  | none => s
  | some l =>
    if l.count = l.target ∧ l.alive = 0 ∧ s.raysOf ctx n = [] then s.endLaunch ctx n (if l.peerLost then 5 else 1) l else s
/-- Finished blocks are reported in order, at most n of them. -/
def State.report (s : State) (ctx n : Nat) : Nat → State
  | 0 => s
  | k + 1 =>
    match s.launch? ctx n with
    | none => s
    | some l =>
      if mget l.trees l.w0 ≠ some 0 then s
      else
        let s := s.compLater ctx n l fun s pa => s.compAdd ctx pa (s.ctx ctx).floor
        State.report (s.modLaunch ctx n fun l => { l with trees := mdel l.trees l.w0, w0 := l.w0 + 1, count := l.count + 1 }) ctx n k
/-- A block or a queued record joins a launch, and its tree. -/
def State.grow (s : State) (ctx n k : Nat) (tree : Option Nat) : State :=
  s.modLaunch ctx n fun l => { l with
    alive := l.alive + k, trees := match tree with | some b => mmod l.trees b fun a => a + k | none => l.trees }
/-- A block or a queued record of a launch is gone: trees are reported, and the launch may end. -/
def State.shrink (s : State) (ctx n : Nat) (tree : Option Nat) : State :=
  let s := s.modLaunch ctx n fun l => { l with
    alive := l.alive - 1, trees := match tree with | some b => mmod l.trees b fun a => a - 1 | none => l.trees }
  (s.report ctx n 256).tryEnd ctx n

/-! ### Continuation queues (R378) -/

def CQueue.room (q : CQueue) : Nat := 2 ^ q.log - q.recs.length
/-- The status of a push of n records: 0, 1 FULL or 2 OFF. -/
def State.pushStatus (s : State) (ctx q n : Nat) : Nat :=
  match mget (s.ctx ctx).queues q with
  | none => 2
  | some c => if c.room < n then 1 else 0
/-- The 32 bytes of a record (R377); a launch entry has none of its own. -/
def QRec.bytes : QRec → List Byte
  | .launch _ => []
  | .cont w0 frame join wid _ _ _ _ => [w0, frame, join, wid].flatMap fun d => leBytes 8 d.toNat
/-- n free words in memory at an address of a context, as far as pages can be written. -/
def State.storeFree (s : State) (ctx : Nat) (a : Access) (va n : Nat) : State :=
  (List.range n).foldl (fun s i => let f := s.free; (f.2.agentWrite ctx a [0] (va + 4 * i) (leBytes 4 f.1.toNat)).2) s
/-- A record at the tail, with its 64-byte slot of the ring in memory: the record, and bytes of the KZ8's own (R378). -/
def State.enqueue (s : State) (ctx q : Nat) (r : QRec) : State :=
  let s := match mget (s.ctx ctx).queues q with
    | none => s
    | some c =>
      let at_ := c.base + 64 * (c.tail % 2 ^ c.log)
      let b := r.bytes
      ((s.agentWrite ctx { priv := true } [0] at_ b).2).storeFree ctx { priv := true } (at_ + b.length) ((64 - b.length) / 4)
  s.modCtx ctx fun x => { x with queues := mmod x.queues q fun c => { c with recs := c.recs ++ [r], tail := c.tail + 1 } }
/-- The head is removed; the next head has not waited, and no EAM has taken it. -/
def State.dequeue (s : State) (ctx q : Nat) : State :=
  { s with clusters := mall s.clusters fun _ k =>
      { k with waits := mdel k.waits (64 * ctx + q), taken := k.taken.filter fun h => h ≠ 64 * ctx + q } }.modCtx ctx fun x =>
    { x with queues := mmod x.queues q fun c => { c with recs := c.recs.drop 1 } }

/-- The number that a launch takes: a free one, from an open starting point (R373). -/
def State.freeLaunch (s : State) (ctx : Nat) : Nat × State :=
  let (w, s) := s.free
  let all := (List.range 64).map fun i => (w.toNat + i) % 64
  ((all.find? fun n => (s.launch? ctx n).isNone).getD 0, s)
/-- A header is offered: status 6 with its reason, 1 or 2 from the queue with no effect, or 0 and accepted. -/
def State.offer (s : State) (ctx : Nat) (b : List Byte) (pts : Nat) : (Nat × Nat) × State :=
  let h := headerOf b
  let ((r, t), s) := s.refusal ctx b
  if r ≠ 0 then ((6, r), s.refuseLaunch ctx r h.comp)
  else
    let st := s.pushStatus ctx h.queue 1
    if st ≠ 0 then ((st, 0), s)
    else
      let (n, s) := s.freeLaunch ctx
      let (gen, s) :=
        if h.comp = 0 then (0, s)
        else
          match s.compPlace ctx h.comp with
          | (none, s) => (0, s)
          | (some pa, s) =>
            let (g, s) := s.compGet ctx pa 0
            (g, (s.compPut ctx pa 8 4 h.blocks (s.ctx ctx).floor).compPut ctx pa 12 4 0 (s.ctx ctx).floor)
      let l : Launch := { hdr := h, template := t, gen := toW gen, target := h.blocks, pts := pts }
      let s := s.modCtx ctx fun x => { x with launches := mset x.launches n l }
      ((0, 0), s.enqueue ctx h.queue (.launch n))

/-! ### The launch ring (R447) -/

/-- The header at the head of the ring has been offered. -/
def State.offered (ctx : Nat) (b : List Byte) (r : (Nat × Nat) × State) : State :=
  if r.1.1 = 0 ∨ r.1.1 = 6 then
    r.2.modCtx ctx fun x => { x with heldHdr := none, rings := { x.rings with lqhead := (x.rings.lqhead + 1) % 2 ^ 32 } }
  else r.2.modCtx ctx fun x => { x with heldHdr := some b }
def execLaunchAccept (ctx : Nat) (s : State) : Out :=
  let x := s.ctx ctx
  let r := x.rings
  if !x.regs.en || decide (r.lqhead = r.lqtail) || x.stalled || x.heldHdr.isSome then .refused .eventNotDue
  else
    let va := r.lqbase + 64 * (r.lqhead % 2 ^ r.lqlog)
    match s.agentRead ctx { priv := true } [0, 1] (partsOf va 64) with
    | (.error (c, _), s) => .next ((s.modCtx ctx fun x => { x with stalled := true }).postEvent ctx 13 c 0 r.lqhead va)
    | (.ok b, s) => let b := b.map Prod.fst; .next (State.offered ctx b (s.offer ctx b 0))
def execHeldHeaderEnqueue (ctx : Nat) (s : State) : Out :=
  match (s.ctx ctx).heldHdr with
  | none => .refused .eventNotDue
  | some b =>
    let r := s.offer ctx b 0
    if r.1.1 = 1 ∨ r.1.1 = 2 then .refused .eventNotDue else .next (State.offered ctx b r)

/-! ### Pushing continuations (R377, R387, R389) -/

/-- The four 64-bit words of a record. -/
structure Record where
  w0 : DWord
  frame : DWord
  join : DWord
  wid : DWord
  deriving DecidableEq, Repr
def Record.queue (r : Record) : Nat := bits r.w0.toNat 58 6
/-- A malformed record: status 5. Field 0 of WID is three bits wide and never above 7. -/
def Record.bad (r : Record) : Bool := bits r.w0.toNat 0 3 != 0 || bitN r.w0.toNat 51 || bits r.w0.toNat 49 2 == 3
/-- Who pushes: the core, the launch and the tree. -/
structure Pusher where
  core : Nat
  ctx : Nat
  launch : Nat
  tree : Option Nat
  deriving DecidableEq, Repr
/-- The tree of a block: a launch block is in its own. -/
def Block.tree (b : Block) : Option Nat :=
  match b.kind with
  | .launch n => some n
  | .cont t _ => t
  | .episode _ => none
/-- Who pushes; in a ray launch the blocks started from records join no tree (R389). -/
def State.pusher (s : State) (core : Nat) (b : Block) : Pusher :=
  ⟨core, b.ctx, b.launch, match s.launch? b.ctx b.launch with | some l => if l.hdr.ray then none else b.tree | none => none⟩
/-- The pusher of the executing group. -/
def State.pusherOf (s : State) (x : Ex) : Pusher :=
  match s.blockOf x.gr with
  | some b => s.pusher x.core b
  | none => ⟨x.core, x.gr.ctx, 0, none⟩
/-- The status of a push of n records like r. -/
def State.recStatus (s : State) (w : Pusher) (r : Record) (n : Nat) : Nat :=
  if r.bad then 5 else s.pushStatus w.ctx r.queue n
/-- A record is pushed. -/
def State.pushRec (s : State) (w : Pusher) (r : Record) (pts : Nat) : State :=
  ((s.enqueue w.ctx r.queue (.cont r.w0 r.frame r.join r.wid w.launch w.tree w.core pts)).grow w.ctx w.launch 1 w.tree).bump
    w.core .cqpush
/-- A refused push is counted. -/
def State.noteRefused (s : State) (core st : Nat) : State := if st = 1 ∨ st = 2 then s.bump core .cqref else s

/-- The step of R385 at the counter's home slice: the status. -/
def State.joinCounter (s : State) (w : Pusher) (pa pts : Nat) : Nat × State :=
  let (d, s) := s.agentLine w.ctx pa
  let n := (d.1.extractLsb' 0 32).toNat
  let put := fun (s : State) (v : Nat) =>
    let p := placeBytes 0 (leBytes 4 v)
    (s.agentStore w.ctx pa 0 p.1 p.2 0 0).takeSline pa fun l => { l with sts := max l.sts pts }
  if n = 0 then (3, s)
  else if n = 1 then
    let r : Record := ⟨d.1.extractLsb' 256 64, d.1.extractLsb' 320 64, d.1.extractLsb' 384 64, d.1.extractLsb' 448 64⟩
    let st := s.recStatus w r 1
    if st ≠ 0 then (st, s.noteRefused w.core st)
    else
      let s := put s 0
      (0, (s.pushRec w r (s.sline pa).sts).bumpK (clusterOf w.core) .cjdone)
  else (0, put s (n - 1))

/-! ### CONT, CFORK, CJOIN, LAUNCH -/

/-- The record in sa … sa+7. -/
def Uniform.record (u : Uniform) (a : Nat) : Record := ⟨u.pair a, u.pair (a + 2), u.pair (a + 4), u.pair (a + 6)⟩
/-- What the four wait for: earlier synchronisation accesses, and the release at scope 5 (R241, R384). -/
def pushing (s : State) (x : Ex) (k : State → Out) : Out :=
  if s.acqBusy x || s.syncBusy x then hold s else released s x 5 Cover.all k
/-- The status goes to sd. -/
def pushDone (s : State) (x : Ex) (n d v : Nat) : Out := .next (s.done x n fun g => g.modUni fun u => u.setS d (toW v))

def execCont (o : U2) (s : State) : Out :=
  onSplit s fun x =>
    pushing s x fun s =>
      let r := x.uni.record o.a.toNat
      let w := s.pusherOf x
      let st := s.recStatus w r 1
      let s := if st = 0 then s.pushRec w r (s.pts x.core x.gr.ctx) else s.noteRefused x.core st
      pushDone s x 4 o.d.toNat st
/-- Record i of a fork: field 1 of WID is f + i. -/
def Record.fork (r : Record) (i : Nat) : Record := { r with wid := r.wid + toD (8 * i) }
/-- n records pushed in order. -/
def State.pushFork (s : State) (w : Pusher) (r : Record) (pts : Nat) : Nat → Nat → State
  | 0, _ => s
  | n + 1, i => State.pushFork (s.pushRec w (r.fork i) pts) w r pts n (i + 1)
/-- The width of field 1 in the launch of a group. -/
def State.width1 (s : State) (g : Group) : Nat := match s.launchOf g with | some l => l.hdr.widths.getD 1 0 | none => 0
def execCfork (o : U3) (s : State) : Out :=
  onSplit s fun x =>
    let n := (SSrc.val o.b x.uni).toNat
    let len := SSrc.len o.b
    if n = 0 then pushDone s x len o.d.toNat 0
    else
      pushing s x fun s =>
        let r := x.uni.record o.a.toNat
        let w := s.pusherOf x
        let w1 := s.width1 x.gr
        let pts := s.pts x.core x.gr.ctx
        let st := if r.bad then 5
          else if s.pushStatus w.ctx r.queue 1 = 2 then 2
          else if n > 65536 ∨ bits r.wid.toNat 3 w1 + n - 1 ≥ 2 ^ w1 then 4
          else s.pushStatus w.ctx r.queue n
        if st ≠ 0 then pushDone (s.noteRefused x.core st) x len o.d.toNat st
        else if r.join = 0 then pushDone (s.pushFork w r pts n 0) x len o.d.toNat 0
        else
          uniAccess s x r.join { write := true } [0] 64 fun _ pa s =>
            let (d, s) := s.agentLine w.ctx pa
            let c := (d.1.extractLsb' 0 32).toNat
            if c + n > 0xFFFFFFFF then pushDone s x len o.d.toNat 3
            else
              let p := placeBytes 0 (leBytes 4 (c + n))
              let s := (s.agentStore w.ctx pa 0 p.1 p.2 0 0).releaseTime x pa
              pushDone (s.pushFork w r pts n 0) x len o.d.toNat 0
def execCjoin (o : U2) (s : State) : Out :=
  onSplit s fun x =>
    uniAccess s x (x.uni.pair o.a.toNat) { write := true } [0] 64 fun _ pa s =>
      pushing s x fun s =>
        let r := s.joinCounter (s.pusherOf x) pa (s.pts x.core x.gr.ctx)
        pushDone r.2 x 4 o.d.toNat r.1
def execLaunch (o : U2) (s : State) : Out :=
  onSplit s fun x =>
    uniAccess s x (x.uni.pair o.a.toNat) { write := true } [0, 1] 64 fun _ pa s =>
      pushing s x fun s =>
        let (d, s) := s.agentLine x.gr.ctx pa
        let b := (List.range 64).map fun i => lineByte d.1 i
        let r := s.offer x.gr.ctx b (s.pts x.core x.gr.ctx)
        let s := r.2.bump x.core .cqpush (if r.1.1 = 0 then 1 else 0)
        pushDone (s.noteRefused x.core r.1.1) x 4 o.d.toNat (r.1.1 + 256 * r.1.2)

end Sys2Proof.Machine
end

