-- ==== Sys2Proof/Machine/Work.lean ====
section
/-! DEFINITION. EXIT, the end of groups and of blocks, joins at block end, and the enabling and disabling of queues (spec 04
R77, R78, R109, 07 R187, 13 R374, R378, R385, 15 R428). -/
namespace Sys2Proof.Machine

/-! ### The end of lanes and groups -/

/-- The active lanes leave every join and are exited; the others go on n bytes further. -/
def State.leaveLanes (s : State) (x : Ex) (a : Mask) (n : Nat) : State :=
  let q := s.joined x.core (x.gr.leaveJoins (List.range 8) a s.now)
  let rest := x.sp.mask &&& ~~~ a
  let g := { q.2 with live := q.2.live &&& ~~~ a }
  q.1.setGroup x (if rest = 0 then { g with splits := mdel g.splits x.entry }
    else (g.modSplit x.entry fun sp => { sp with mask := rest }).advance x.entry n)
/-- The group is the last one of its block that has not ended. -/
def State.lastGroup (s : State) (g : Group) : Bool :=
  match s.blockOf g with
  | some b => decide (b.ended.length + 1 = b.groups)
  | none => false
/-- The join of a continuation block. -/
def Block.joins (b : Block) : Option Nat :=
  match b.kind with
  | .cont _ j => if j = 0 then none else some j
  | _ => none
/-- The slot of a continuation block with a join stays occupied from its last exit until its push succeeds or is discarded, also
where the push is not held: the model's choice (R77, R385; log 92). -/
def State.keepsSlot (s : State) (g : Group) : Bool :=
  match s.blockOf g with
  | some b => b.joins.isSome
  | none => false
/-- The group has no live lane left: objects that it holds are broken, and its slot is freed. -/
def State.endGroup (s : State) (x : Ex) : State :=
  let s := s.breakHolds x.gr.ctx x.gr.holds
  let s := s.modBlock x.gr.blk fun b => { b with ended := b.ended ++ [x.gr.idx] }
  if s.keepsSlot x.gr then
    s.modGroup x.core x.slot fun g =>
      { g with ended := true, live := 0, splits := [], joins := [], handler := none, holder := none, holds := [] }
  else s.modCore x.core fun k => { k with groups := mdel k.groups x.slot }
/-- The window of a block is freed: its mapped words and their registrations go, the halo entries over it and the replica
registrations of the block too (R187). -/
def State.freeWindow (s : State) (core blk : Nat) : State :=
  match s.blockWin core blk with
  | none => s
  | some w =>
    let s := s.dropHalo fun h => decide (h.core = core ∧ h.blk = blk)
    let s := s.modCore core fun k => { k with scratch := { k.scratch with
      halo := mkeep k.scratch.halo fun _ h => !w.covers h.off h.len
      words := mkeep k.scratch.words fun i _ => !w.covers (4 * i) 4
      wins := mkeep k.scratch.wins fun _ v => v.blk != blk } }
    s.finishTouches core

/-- What EXIT and the hand-over of a ray do in the end: the block's matrix operations complete and its dirty words are written
back before its last lane goes; k is the further effect. -/
def exitLanes (s : State) (x : Ex) (a : Mask) (n : Nat) (k : State → State) : Out :=
  if a ≠ x.gr.live then .next ((k s).leaveLanes x a n)
  else if s.lastGroup x.gr then
    if (s.mx x.core).queue.any fun e => e.who.blk == x.gr.blk then hold s
    else
      match s.writeBackAll x (fun _ _ => true) fun _ => false with
      | .fault o => o
      | .wait s => hold s
      | .done s => .next (((k s).freeWindow x.core x.gr.blk).endGroup x)
  else .next ((k s).endGroup x)

/-- The rays of an episode's lanes end (R329, R336). -/
def State.endRays (s : State) (x : Ex) (a : Mask) : State :=
  match s.blockOf x.gr with
  | some b =>
    match b.kind with
    | .episode _ => (lanesOf a).foldl (fun s l => { s with rays := mdel s.rays (rayKey x.gr.ctx (x.gr.lane l).ray.toNat) }) s
    | _ => s
  | none => s
def execExit (o : G0) (s : State) : Out :=
  onSplit s fun x =>
    let a := x.active o.g
    if a = 0 then .next (s.done x 4 id)
    else if x.gr.pending a then hold s
    else exitLanes s x a 4 fun s => s.endRays x a

/-! ### The end of a block (R374, R385) -/

/-- A store of the block that is not performed at scope 5, or other work of it in flight. -/
def State.blockBusy (s : State) (blk : Nat) (b : Block) : Bool :=
  (s.fly.reqs.any fun r => r.2.who.blk == blk && (r.2.op.unperformed 5 || r.2.op.isSwb)) ||
  (s.fly.touches.any fun t => t.2.who.blk == blk) || (s.fly.pushes.any fun p => p.2.who.blk == blk) ||
  (s.rows b.core).xfers.any fun t => t.2.who.blk == blk
/-- The row slots that a block holds close in the background (R271); one that a switch has closed is not opened again. -/
def State.dropHolder (s : State) (core blk : Nat) : State :=
  (s.modCore core fun k => { k with saved := mall k.saved fun _ v => { v with slots := v.slots.filter fun r => r.blk ≠ blk } }).modRows core
   fun k => { k with
    reopen := k.reopen.filter fun r => r.blk ≠ blk
    slots := mall (mkeep k.slots fun _ r => !(r.blk == blk && (match r.st with | .expired c => c | _ => false)))
      fun _ r => if r.blk = blk ∧ (r.st = .opening ∨ r.st.isOpen = true) then { r with close := true } else r }
/-- The block is gone: slots still held are freed, its launch is told. -/
def State.dropBlock (s : State) (blk : Nat) (b : Block) : State :=
  let s := s.modCore b.core fun k => { k with
    groups := mkeep k.groups fun _ g => g.blk != blk
    saved := mall k.saved fun _ v => { v with groups := mkeep v.groups fun _ g => g.blk != blk, blocks := v.blocks.filter fun i => i ≠ blk } }
  ({ s with blocks := mdel s.blocks blk }.endBinding b.core).shrink b.ctx b.launch b.tree
/-- The join at the end of a continuation block: status 0, 1, or none with "join lost" to be posted. -/
def State.joinAtEnd (s : State) (b : Block) (j : Nat) : Option Nat × State :=
  if j % 64 ≠ 0 ∨ canonical (toD j) = false then (none, s)
  else
    match s.agentTranslate b.ctx j { write := true } with
    | (.error _, s) => (none, s)
    | (.ok (e, pa), s) =>
      if pteClass e ≠ 0 then (none, s)
      else
        let r := s.joinCounter (s.pusher b.core b) pa (s.pts b.core b.ctx)
        if r.1 ≤ 1 then (some r.1, r.2) else (none, r.2)
/-- A block end with a join: made, held in the join buffer, or lost. -/
def State.endWithJoin (s : State) (blk : Nat) (b : Block) (j : Nat) : Option State :=
  let k := clusterOf b.core
  let held := (s.cluster k).joins
  let out := fun (s : State) => s.modCluster k fun c => { c with joins := mkeep c.joins fun _ h => h.blk != blk }
  match s.joinAtEnd b j with
  | (some 0, s) => some ((out s).dropBlock blk b)
  | (some _, s) =>
    if b.joinHeld then none
    else
      match freeKeys held 0 256 with
      | [] => none
      | i :: _ => some ((s.modCluster k fun c => { c with joins := mset c.joins i ⟨blk, j⟩ }).modBlock blk fun b =>
          { b with joinHeld := true })
  | (none, s) => some (((out s).postEvent b.ctx 6 0 0 0 j).dropBlock blk b)
def execBlockEnd (blk : Nat) (s : State) : Out :=
  match mget s.blocks blk with
  | none => .refused .eventNotDue
  | some b =>
    if b.ended.length < b.groups ∨ b.joinHeld = true ∨ s.blockBusy blk b = true then .refused .eventNotDue
    else
      let s := (s.raiseFloor b.ctx (s.pts b.core b.ctx)).dropHolder b.core blk
      match b.joins with
      | none => .next (s.dropBlock blk b)
      | some j => match s.endWithJoin blk b j with | some t => .next t | none => .refused .eventNotDue
/-- JOIN_BUFFER_RETRY: entry i of a cluster's join buffer is tried again. -/
def execJoinBufferRetry (cluster i : Nat) (s : State) : Out :=
  match mget (s.cluster cluster).joins i with
  | none => .refused .eventNotDue
  | some h =>
    match mget s.blocks h.blk with
    | none => .refused .eventNotDue
    | some b => match s.endWithJoin h.blk b h.counter with | some t => .next t | none => .refused .eventNotDue

/-! ### Queues enabled and disabled (R378) -/

/-- QUEUE_ENABLE: an OFF queue becomes EMPTY; nothing after a failed boot check (R453). -/
def execQueueEnable (ctx q : Nat) (s : State) : Out :=
  let r := mgetD (s.ctx ctx).qd q {}
  if q ≥ 64 ∨ s.dev.boot = 3 then .next s
  else .next (s.modCtx ctx fun x => { x with
    qd := mset x.qd q { r with on := true }
    queues := if (mget x.queues q).isSome then x.queues else mset x.queues q { base := r.base, log := r.log } })
/-- The join that waits for a queue: its record's queue, as the counter's line holds it. -/
def State.waitsFor (s : State) (h : JoinHeld) (ctx q : Nat) : Bool :=
  match mget s.blocks h.blk with
  | none => false
  | some b =>
    b.ctx == ctx &&
    (match (s.agentTranslate ctx h.counter { write := true }).1 with
     | .error _ => false
     | .ok (_, pa) => bits (((s.lineData ctx pa).1.extractLsb' 256 64).toNat) 58 6 == q)
/-- A join of the buffer is lost. -/
def State.loseJoin (s : State) (k : Nat) (h : JoinHeld) : State :=
  match mget s.blocks h.blk with
  | none => s
  | some b =>
    let s := s.modCluster k fun c => { c with joins := mkeep c.joins fun _ g => g.blk != h.blk }
    (s.postEvent b.ctx 6 0 0 0 h.counter).dropBlock h.blk b
/-- A record of a queue that is disabled. -/
def State.discard (s : State) (ctx : Nat) (r : QRec) : State :=
  match r with
  | .launch _ => s
  | .cont _ _ _ _ n t _ _ => s.shrink ctx n t
/-- QUEUE_DISABLE: the queue becomes OFF, its records are discarded, and joins held for it are lost. -/
def execQueueDisable (ctx q : Nat) (s : State) : Out :=
  if s.dev.boot = 3 then .next s else
  let recs := match mget (s.ctx ctx).queues q with | some c => c.recs | none => []
  let held := s.clusters.flatMap fun k => (k.2.joins.filter fun h => s.waitsFor h.2 ctx q).map fun h => (k.1, h.2)
  let s := s.modCtx ctx fun x => { x with
    qd := mmod x.qd q fun r => { r with on := false }, queues := mdel x.queues q }
  let s := recs.foldl (fun s r => s.discard ctx r) s
  .next (held.foldl (fun s h => s.loseJoin h.1 h.2) s)

end Sys2Proof.Machine
end

