-- ==== Sys2Proof/Machine/Traverse.lean ====
section
/-! DEFINITION. The traversal of a BVH by one ray, through the cluster's treelet cache (spec 12 R345 to R351, R354). -/
namespace Sys2Proof.Machine

/-! ### Reads (R354, R356) -/

/-- Why a traversal cannot go on now, or ends with an error. -/
inductive Stop where
  /-- An error code of R346. -/
  | code (c : Nat)
  /-- A fault for the host: the address and the cause. -/
  | park (va cause : Nat)
  /-- A line that is not in the cache: its virtual and physical address and the page's class. -/
  | need (va pa cls : Nat)
  deriving DecidableEq, Repr
/-- Who reads: the context, the launch and the cluster. -/
structure TreeWho where
  ctx : Nat
  launch : Nat
  cluster : Nat
  deriving DecidableEq, Repr
/-- The physical treelet of an address. -/
def treeletOf (pa : Nat) : Nat := pa / 4096 * 4096
def Treelet.tagged (t : Treelet) (w : TreeWho) (pa : Nat) : Bool := decide (t.ctx = w.ctx ∧ t.launch = w.launch ∧ t.pa = treeletOf pa)
/-- One part of a read: the page's translation, then the line in the cache. -/
def State.treePart (s : State) (w : TreeWho) (va o n : Nat) : Except Stop (List (Byte × Bool)) :=
  if !canonical (toD va) then .error (.code 5)
  else
    match (s.walk w.ctx va).1 with
    | .none_ hs _ => .error (if hs then .park va 4 else .code 5)
    | .leaf e =>
      match s.pteCause e va {} with
      | some c => .error (if c = 5 ∧ pteHS e = true then .park va 5 else .code 5)
      | none =>
        let pa := ptePa e va
        if pteClass e > 1 then .error (.code 5)
        else
          match (s.cluster w.cluster).rays.cache.find? fun t => t.tagged w pa with
          | none => .error (.need va (lineAddr pa) (pteClass e))
          | some t =>
            match mget t.lines (pa % 4096 / 64) with
            | none => .error (.need va (lineAddr pa) (pteClass e))
            | some l => .ok ((List.range n).map fun i => (lineByte l.data (o + i), l.poison.getLsbD ((o + i) / 4)))
/-- The parts of an item. -/
def State.treeParts (s : State) (w : TreeWho) : List (Nat × Nat × Nat) → Except Stop (List (Byte × Bool))
  | [] => .ok []
  | (va, o, n) :: t =>
    match s.treePart w va o n with
    | .error e => .error e
    | .ok a => match State.treeParts s w t with | .error e => .error e | .ok b => .ok (a ++ b)
/-- An item of n bytes: its bytes, and whether one of its words is poisoned. -/
def State.item (s : State) (w : TreeWho) (va n : Nat) : Except Stop (List Byte × Bool) :=
  match s.treeParts w (partsOf (va % 2 ^ 64) n) with
  | .error e => .error e
  | .ok l => .ok (l.map Prod.fst, l.any Prod.snd)

/-! ### The walk over the tree -/

/-- What the ray asks for: its mask and culling flags. -/
structure RayFlags where
  mask : Nat
  cb : Bool
  cf : Bool
  deriving DecidableEq, Repr

/-- What the cache has served of an item of n bytes that has come. -/
def Trav.read (t : Trav) (va n : Nat) : Trav :=
  let ps := partsOf (va % 2 ^ 64) n
  { t with found := t.found + (ps.length - t.lacked), lacked := 0, reads := (ps.map Prod.fst).reverse ++ t.reads }
/-- One triangle of a leaf. -/
def State.visitTri (s : State) (w : TreeWho) (f : RayFlags) (sp : Space) (at_ : Nat) (t : Trav) : Trav × Option Stop :=
  match s.item w at_ 48 with
  | .error e => ({ t with todo := .tri sp at_ :: t.todo }, some e)
  | .ok (b, p) =>
    let t := t.read at_ 48
    if triBad b then (t, some (.code 1))
    else if p then (t, some (.code 2))
    else
      let cull := !(triNocull b || sp.nocull)
      let hit := match sp.ray, triVerts b with
        | some r, some v => r.tri v (f.cb && cull) (f.cf && cull)
        | _, _ => none
      let t := { t with tris := t.tris + 1 }
      (match hit with
      | some h => { t with hits := t.hits ++ [{ t := h.t, prim := toW (itemField b 36 4), inst := sp.inst, u := h.u, v := h.v,
                                                back := h.back, shader := (sp.sbase + itemField b 40 1) % 2 ^ 16 }] }
      | none => t, none)
/-- The children of a node that the ray enters: references. -/
def nodeChildren (b : List Byte) (r : Option GeoRay) (mask : Nat) : List Nat :=
  match r with
  | none => []
  | some r => (List.range (nodeCnt b)).filterMap fun c =>
      if nodeRef b c / 2 ^ 30 = 3 then none else (r.child b mask c).map fun _ => nodeRef b c
/-- A row of an instance's matrix. -/
def instRow (b : List Byte) (i : Nat) : List (Option Int) := (List.range 4).map fun j => fxInt (itemField b (16 * i + 4 * j) 4)
/-- The space inside an instance. -/
def Space.enter (sp : Space) (b : List Byte) : Space :=
  { ray := match sp.ray with | some r => r.enter ((List.range 3).map fun i => instRow b i) | none => none
    inst := toW (itemField b 56 4), sbase := itemField b 60 2, nocull := itemField b 63 1 % 2 == 1, inside := true
    base := toD (itemField b 48 8) }
/-- One reference, already taken from what is left. -/
def State.visitRef (s : State) (w : TreeWho) (f : RayFlags) (sp : Space) (ref : Nat) (t : Trav) : Trav × Option Stop :=
  let idx := ref % 2 ^ 30
  let kind := ref / 2 ^ 30
  let again := { t with todo := .ref sp ref :: t.todo }
  if kind = 1 then
    ({ t with todo := ((List.range (idx % 16 + 1)).map fun i => .tri sp (sp.base.toNat + 16 * (idx / 16) + 48 * i)) ++ t.todo }, none)
  else if kind = 2 then
    if sp.inside then (t, some (.code 4))
    else
      let va := sp.base.toNat + 64 * idx
      match s.item w va 64 with
      | .error e => (again, some e)
      | .ok (b, p) =>
        let t := t.read va 64
        if itemField b 63 1 / 2 ≠ 0 then (t, some (.code 1))
        else if p then (t, some (.code 2))
        else if itemField b 62 1 &&& f.mask = 0 then (t, none)
        else if itemField b 48 8 % 128 ≠ 0 ∨ canonical (toD (itemField b 48 8)) = false then (t, some (.code 6))
        else
          let inner := sp.enter b
          (if inner.ray.isSome then { t with todo := .ref inner 0 :: t.todo } else t, none)
  else if t.nodes ≥ 2 ^ 20 then (t, some (.code 7))
  else
    let va := sp.base.toNat + 128 * idx
    match s.item w va 128 with
    | .error e => (again, some e)
    | .ok (b, p) =>
      let t := t.read va 128
      let empties := (List.range (nodeCnt b)).any fun c => nodeRef b c / 2 ^ 30 == 3 && nodeRef b c % 2 ^ 30 != 0
      if nodeBad b ∨ empties = true then (t, some (.code 1))
      else if p then (t, some (.code 2))
      else ({ t with nodes := t.nodes + 1, todo := ((nodeChildren b sp.ray f.mask).map fun r => .ref sp r) ++ t.todo }, none)
/-- A traversal goes on until nothing is left or it stops. At most 2^20 node tests leave at most 2^23 references, each an instance
with its root, or a leaf with 16 triangles, so that 2^28 items are never reached and code 7 is the node tests' alone (R346). -/
def State.traverse (s : State) (w : TreeWho) (f : RayFlags) : Nat → Trav → Trav × Option Stop
  | 0, t => (t, some (.code 7))
  | n + 1, t =>
    match t.todo with
    | [] => (t, none)
    | d :: l =>
      let r := match d with
        | .ref sp r => s.visitRef w f sp r { t with todo := l }
        | .tri sp a => s.visitTri w f sp a { t with todo := l }
      match r with
      | (t, some e) => (t, some e)
      | (t, none) => State.traverse s w f n t

/-! ### The order of hits (R351) -/

/-- Hit a comes before hit b. -/
def Hit.before (a b : Hit) : Bool :=
  if floatKey a.t ≠ floatKey b.t then decide (floatKey a.t < floatKey b.t)
  else if a.inst ≠ b.inst then decide (a.inst.toNat < b.inst.toNat)
  else decide (a.prim.toNat < b.prim.toNat)
def Hit.same (a b : Hit) : Bool := !a.before b && !b.before a
/-- What tells two hits of one key apart: a rank that is free (log 87), and what they report. -/
def Hit.rank (h : Hit) : Nat × Nat :=
  let side := h.shader * 2 + (if h.back then 1 else 0)
  (Config.hitRank h.u h.v side, (h.u.toNat * 2 ^ 32 + h.v.toNat) * 2 ^ 17 + side)
/-- Of two hits with one key the one delivered: it depends on what they report, and on no order of traversal. -/
def Hit.kept (a b : Hit) : Hit :=
  if a.rank.1 < b.rank.1 ∨ (a.rank.1 = b.rank.1 ∧ a.rank.2 ≤ b.rank.2) then a else b
/-- A hit put among hits in ascending order of keys; hits with one key are one. -/
def putHit : List Hit → Hit → List Hit
  | [], h => [h]
  | a :: t, h => if a.same h then a.kept h :: t else if h.before a then h :: a :: t else a :: putHit t h
/-- The accepted hits in order, one for each key. -/
def sortHits (l : List Hit) : List Hit := l.foldl putHit []

end Sys2Proof.Machine
end

