-- ==== Sys2Proof/Machine/Rays.lean ====
section
/-! DEFINITION. Rays: TRACE, RSPAWN, NEXTHIT, REND, TBOX and TTRI, the traversal units with their treelet caches, and Saffron's
bins and episodes (spec 12). -/
namespace Sys2Proof.Machine

/-! ### Rays of a launch (R328, R329) -/

/-- The launch of a group when it is a ray launch. -/
def State.rayLaunch (s : State) (g : Group) : Option (Nat × Launch) :=
  match s.blockOf g with
  | none => none
  | some b =>
    match s.launch? b.ctx b.launch with
    | some l => if l.hdr.ray then some (b.launch, l) else none
    | none => none
/-- The group is an episode. -/
def State.isEpisode (s : State) (g : Group) : Bool :=
  match s.blockOf g with
  | some b => match b.kind with | .episode _ => true | _ => false
  | none => false
/-- The first free identifier from n on, below a capacity, in at most k tries. -/
def State.idFrom (s : State) (ctx cap : Nat) : Nat → Nat → Nat
  | 0, n => n
  | k + 1, n => if (mget s.rays (rayKey ctx n)).isSome then State.idFrom s ctx cap k ((n + 1) % cap) else n
/-- A new identifier: a free one, from an open starting point (R329). -/
def State.newRay (s : State) (ctx : Nat) : Nat × State :=
  let cap := min (s.ctx ctx).regs.raycap (2 ^ 24)
  (s.idFrom ctx cap s.rays.length (Config.freeRayId s.freed % cap), { s with freed := s.freed + 1 })
def State.ray? (s : State) (ctx id : Nat) : Option Ray := mget s.rays (rayKey ctx id)
def State.setRay (s : State) (ctx id : Nat) (r : Ray) : State := { s with rays := mset s.rays (rayKey ctx id) r }

/-- A part of an identifier's region of memory written by the device (R329); a page that cannot be written takes nothing. -/
def State.rayStore (s : State) (ctx id off : Nat) (bs : List Byte) : State :=
  (s.agentWrite ctx { priv := true } [0] ((s.ctx ctx).regs.raybase + 640 * id + off) bs).2
/-- The chain area of an identifier written; its layout is not architectural, and its bytes are free values (R352). -/
def State.storeChain (s : State) (ctx id : Nat) : State :=
  (List.range 128).foldl (fun s i => let f := s.free; f.2.rayStore ctx id (128 + 4 * i) (leBytes 4 f.1.toNat)) s

/-! ### Deliveries (R332, R352) -/

/-- 0x7F800000 and no ids. -/
def RayRec.noHit (r : RayRec) (kind shader j n : Nat) : RayRec :=
  { r with thit := 0x7F800000, prim := 0xFFFFFFFF, inst := 0xFFFFFFFF, bu := 0, bv := 0, kind := kind, shader := shader, j := j, n := n }
/-- A hit delivered. -/
def RayRec.hit (r : RayRec) (h : Hit) (j n : Nat) : RayRec :=
  { r with thit := h.t, prim := h.prim, inst := h.inst, bu := h.u, bv := h.v, kind := if h.back then 2 else 1, shader := h.shader,
           j := j, n := n }
/-- The end of a chain. -/
def Ray.chainEnd (r : Ray) : Ray :=
  { r with rec_ := r.rec_.noHit 3 r.chain.end_ r.chain.n r.chain.n, chain := { r.chain with n := 0, next := 0, hits := [] } }
/-- NEXTHIT on a chain. -/
def Ray.nextHit (r : Ray) : Ray :=
  if r.chain.next = r.chain.n then r.chainEnd
  else
    match r.chain.hits[r.chain.next]? with
    | some h => { r with rec_ := r.rec_.hit h r.chain.next r.chain.n, chain := { r.chain with next := r.chain.next + 1 } }
    | none => r.chainEnd
/-- PAYLOAD and the geometry, from a lane's registers. -/
def Lane.payload (ln : Lane) : List Word := ln.vs 0 16
def Lane.geo (ln : Lane) : List Word := ln.vs 24 8

/-! ### TRACE (R361, R362) -/

/-- Entries of a core's TVU in use: rays handed to it, in traversal or waiting for a parking place; a parked ray keeps none
(R356). -/
def State.tvuCount (s : State) (core : Nat) : Nat :=
  (s.rays.filter fun r => decide (r.2.core = core) && (match r.2.at_ with | .handed => true | .tvu _ => true | .parked none => true | _ => false)).length
/-- The flags of bytes 96 to 99, from the mask and the control word. -/
def traceFlags (o : TraceO) (mask : Nat) : Word :=
  toW (mask * 2 ^ 24 + o.k.toNat * 2 ^ 20 + (if o.ord then 2 ^ 19 else 0) + (if o.first then 2 ^ 18 else 0) +
    (if o.cf then 2 ^ 17 else 0) + (if o.cb then 2 ^ 16 else 0))
/-- A record with nothing but what a lane hands over. -/
def newRec (p g : List Word) (flags : Word) (shader : Nat) : RayRec := { payload := p, geo := g, flags := flags, shader := shader }
/-- One lane's ray handed to the TVU. -/
def State.traceLane (s : State) (x : Ex) (o : TraceO) (n : Nat) (ep : Bool) (l : Nat) : State :=
  let ctx := x.gr.ctx
  let ln := x.gr.lane l
  let h := x.uni.pair o.n.toNat
  let w := (x.uni.sr (o.n.toNat + 2)).toNat
  let fl := traceFlags o (bits w 16 8)
  let chain : Chain := { end_ := bits w 0 16 }
  let pts := s.pts x.core ctx
  match (if ep then s.ray? ctx ln.ray.toNat else none) with
  | some r => s.setRay ctx ln.ray.toNat { r with
      core := x.core, handle := h, chain := chain, at_ := .handed, pts := pts, missed := [], trav := none
      rec_ := { r.rec_ with payload := ln.payload, geo := ln.geo, flags := fl } }
  | none =>
    let (id, s) := s.newRay ctx
    s.setRay ctx id { launch := n, cluster := clusterOf x.core, core := x.core, rec_ := newRec ln.payload ln.geo fl 0,
                      handle := h, chain := chain, at_ := .handed, pts := pts }
def execTrace (o : TraceO) (s : State) : Out :=
  onSplit s fun x =>
    let w := encode (.trace o)
    match s.rayLaunch x.gr with
    | none => wordFault s x 1 (w.getD 0 0) (w.getD 1 0)
    | some (n, l) =>
      let a := x.active o.g
      let h := x.uni.pair o.n.toNat
      let k := (lanesOf a).length
      let ep := s.isEpisode x.gr
      if a = 0 then .next (s.done x 8 id)
      else if x.gr.pending a then hold s
      else if h.toNat % 128 ≠ 0 then trapAt s x 7 a (loOf h) (hiOf h)
      else if !canonical h then trapAt s x 5 a (loOf h) (hiOf h)
      else if s.tvuCount x.core + k > 512 then hold s
      else if ep = false ∧ (s.raysOf x.gr.ctx n).length + k > l.hdr.quota then hold s
      else
        released s x 4 Cover.all fun s =>
          exitLanes s x a 8 fun s => (lanesOf a).foldl (fun s l => s.traceLane x o n ep l) s

/-! ### RSPAWN, NEXTHIT, REND (R363 to R365) -/

/-- RSPAWN in one lane: the identifier, or a refusal at the quota. -/
def State.spawnLane (s : State) (x : Ex) (o : RspO) (n : Nat) (q : Nat) (l : Nat) : Word × State :=
  let ctx := x.gr.ctx
  let ln := x.gr.lane l
  if (s.raysOf ctx n).length ≥ q then (0xFFFFFFFF, s.bumpK (clusterOf x.core) .rspref)
  else
    let (id, s) := s.newRay ctx
    let sh := (VSrc.val o.b ln).toNat % 2 ^ 16
    (toW id, s.setRay ctx id { launch := n, cluster := clusterOf x.core, core := x.core,
                               rec_ := (newRec ln.payload ln.geo 0 sh).noHit 4 sh 0 0, chain := { end_ := sh },
                               at_ := .arriving, pts := s.pts x.core ctx })
/-- RSPAWN in several lanes, ascending: the lanes with what they receive. -/
def State.spawnLanes (s : State) (x : Ex) (o : RspO) (n q : Nat) : List Nat → List (Nat × Word) × State
  | [] => ([], s)
  | l :: t =>
    let r := s.spawnLane x o n q l
    let k := State.spawnLanes r.2 x o n q t
    ((l, r.1) :: k.1, k.2)
def execRspawn (o : RspO) (s : State) : Out :=
  onSplit s fun x =>
    let w := encode (.rspawn o)
    match s.rayLaunch x.gr with
    | none => wordFault s x 1 (w.getD 0 0) (w.getD 1 0)
    | some (n, l) =>
      let a := x.active o.g
      if a = 0 then .next (s.done x (VSrc.len o.b) id)
      else
        released s x 4 Cover.all fun s =>
          let r := s.spawnLanes x o n l.hdr.quota (lanesOf a)
          .next (r.2.done x (VSrc.len o.b) fun g =>
            r.1.foldl (fun g p => g.modLane p.1 fun ln => ln.setV o.d.toNat p.2) g)
/-- NEXTHIT and REND: the active lanes' rays take their payload, act on their chains and go to Saffron. -/
def opChain (i : Instr) (o : G0) (f : Ray → Ray) (s : State) : Out :=
  onSplit s fun x =>
    if !s.isEpisode x.gr then wordFault s x 1 (firstWord i) 0
    else
      let a := x.active o.g
      if a = 0 then .next (s.done x 4 id)
      else if x.gr.pending a then hold s
      else
        released s x 4 Cover.all fun s =>
          exitLanes s x a 4 fun s => (lanesOf a).foldl (fun s l =>
            let ln := x.gr.lane l
            match s.ray? x.gr.ctx ln.ray.toNat with
            | some r => (s.storeChain x.gr.ctx ln.ray.toNat).setRay x.gr.ctx ln.ray.toNat
                { f { r with rec_ := { r.rec_ with payload := ln.payload } } with at_ := .arriving, pts := s.pts x.core x.gr.ctx }
            | none => s) s
def execNexthit (o : G0) (s : State) : Out := opChain (.nexthit o) o Ray.nextHit s
def execRend (o : G0) (s : State) : Out := opChain (.rend o) o Ray.chainEnd s

/-! ### TBOX and TTRI (R366 to R369) -/

/-- The check of one lane: aligned, canonical, every page translated, and of class D, L or N. -/
def State.testCheck (s : State) (x : Ex) (al n : Nat) (va : DWord) : (LaneChk × List (Nat × Nat × Nat × DWord)) × State :=
  if va.toNat % al ≠ 0 then ((.bad 7 false, []), s)
  else
    let r := s.checkLane x.core x.gr.ctx x.waiter {} [0, 1, 2] 1 va
    match r.1 with
    | .ok e pa =>
      let ps := partsOf va.toNat n
      match ps.find? fun p => p.1 / 65536 != va.toNat / 65536 with
      | none => ((.ok e pa, ps.map fun p => (lineAddr (pa + (p.1 - va.toNat)), p.2.1, p.2.2, e)), r.2)
      | some p =>
        let q := r.2.checkLane x.core x.gr.ctx x.waiter {} [0, 1, 2] 1 (toD p.1)
        match q.1 with
        | .ok f pb => ((.ok e pa, ps.map fun t =>
            if t.1 / 65536 = va.toNat / 65536 then (lineAddr (pa + (t.1 - va.toNat)), t.2.1, t.2.2, e)
            else (lineAddr (pb + (t.1 - p.1)), t.2.1, t.2.2, f)), q.2)
        | c => ((c, []), q.2)
    | c => ((c, []), r.2)
/-- The checks of the lanes, ascending. -/
def State.testChecks (s : State) (x : Ex) (al n : Nat) :
    List (Nat × DWord) → List (Nat × DWord × LaneChk × List (Nat × Nat × Nat × DWord)) × State
  | [] => ([], s)
  | (l, va) :: t =>
    let r := s.testCheck x al n va
    let q := State.testChecks r.2 x al n t
    ((l, va, r.1.1, r.1.2) :: q.1, q.2)
/-- The line of an item that the L1 serves at once, or its request, as a plain load makes it (R369): it renews a lease, or joins a
prefetch that is outstanding (R224, R230). -/
def State.testLine (s : State) (x : Ex) (iid : Nat) (pa : Nat) (e : DWord) : Option TreeLine × State :=
  let u : LineUse := ⟨pa, pteClass e, pteLease e, []⟩
  match (if 2 ≤ u.cls then none else s.l1Hit x u) with
  | some l =>
    (some ⟨l.data, l.poison⟩,
     ((s.bump x.core .l1hit).usePref x.core pa).raisePts x.core x.gr.ctx (if u.cls = 1 then l.wts else 0))
  | none =>
    let looked := decide (u.cls ≤ 1)
    let renew := decide (u.cls = 1) && (mget (s.core x.core).l1 pa).isSome
    let s := (s.bump x.core .l1miss (if looked then 1 else 0)).bump x.core .lrenew (if renew then 1 else 0)
    let p := s.pts x.core x.gr.ctx
    match s.prefetching x pa u.cls with
    | some (i, r) => (none, (s.bump x.core .pflate (if r.used then 0 else 1)).setReq i
        { r with who := x.owner iid, op := .test iid (r.op == .prefEx), pts := max p r.pts })
    | none => (none, s.send { who := x.owner iid, op := .test iid false, pa := pa, cls := u.cls, lease := u.lease, pts := p })
/-- The distinct lines of an instruction. -/
def State.testLines (s : State) (x : Ex) (iid : Nat) : List (Nat × DWord) → Map TreeLine → Map TreeLine × State
  | [], m => (m, s)
  | (pa, e) :: t, m =>
    match s.testLine x iid pa e with
    | (some l, s) => State.testLines s x iid t (mset m pa l)
    | (none, s) => State.testLines s x iid t m
/-- One entry for each line, by the first lane that touches it (R229). -/
def eachLine (l : List (Nat × DWord)) : List (Nat × DWord) := l.foldl (fun m p => if m.any fun q => q.1 == p.1 then m else m ++ [p]) []
/-- A lane test: the checks, the reads, and the results to come. -/
def opTest (len al n la d k : Nat) (a c : BitVec 5) (g : Guard) (t : LaneTest → LaneTest) (s : State) : Out :=
  onSplit s fun x =>
    let act := x.active g
    if act = 0 then .next (s.done x len id)
    else
      let r := s.testChecks x al n ((lanesOf act).map fun l => (l, (x.gr.lane l).vPair a.toNat))
      checked r.2 x false (r.1.map fun p => (p.1, p.2.1, p.2.2.1)) fun _ s =>
        let lines := eachLine (r.1.flatMap fun p => p.2.2.2.map fun q => (q.1, q.2.2.2))
        let us : List LineUse := lines.map fun p => ⟨p.1, pteClass p.2, pteLease p.2, []⟩
        if s.acqBusy x || us.any (fun u => s.lineBusy x u.pa) || decide (s.missCount x.core + s.loadMisses x false us > 256) then
          hold s
        else
          let iid := s.nextId
          let (got, s) := s.fresh.testLines x iid lines []
          let test := t { who := x.owner iid, box := false, d := d, got := got,
                          lanes := r.1.map fun p => (p.1, p.2.2.2.map fun q => (q.1, q.2.1, q.2.2.1), (x.gr.lane p.1).vs c.toNat 8) }
          let s := { s with fly := { s.fly with tests := mset s.fly.tests iid test } }
          .next (s.done x len fun g => g.open_ x.entry iid la (lanesOf act) ((List.range k).map fun i => d + i))
def execTbox (o : TboxO) (s : State) : Out :=
  opTest 8 128 128 o.l.toNat o.d.toNat 2 o.a o.c o.g (fun t => { t with box := true, mask := o.mask.toNat }) s
def execTtri (o : TtriO) (s : State) : Out :=
  opTest 8 16 48 o.l.toNat o.d.toNat 4 o.a o.c o.g (fun t => { t with cb := o.cb, cf := o.cf }) s
/-- The item of a lane: its bytes, and whether one of its words is poisoned. -/
def LaneTest.item (t : LaneTest) (parts : List (Nat × Nat × Nat)) : List Byte × Bool :=
  let b := parts.flatMap fun p =>
    match mget t.got p.1 with
    | some l => (List.range p.2.2).map fun i => (lineByte l.data (p.2.1 + i), l.poison.getLsbD ((p.2.1 + i) / 4))
    | none => []
  (b.map Prod.fst, b.any Prod.snd)
/-- The results of one lane. -/
def LaneTest.result (t : LaneTest) (parts : List (Nat × Nat × Nat)) (ray : List Word) : List Word × Flags :=
  let i := t.item parts
  if t.box then let r := laneBox i.1 i.2 ray t.mask; ([r.1.1, r.1.2], r.2)
  else laneTri i.1 i.2 ray t.cb t.cf
/-- TVU_LANE_TEST_DONE: every line has come, and the results are written. -/
def execTvuLaneTestDone (id : Nat) (s : State) : Out :=
  match mget s.fly.tests id with
  | none => .refused .eventNotDue
  | some t =>
    if s.fly.reqs.any fun r => match r.2.op with | .test i _ => i == id | _ => false then .refused .eventNotDue
    else
      let s := { s with fly := { s.fly with tests := mdel s.fly.tests id } }
      let s := s.bump t.who.core (if t.box then .tvnode else .tvtri) t.lanes.length
      .next (s.modGroup t.who.core t.who.slot fun g =>
        if g.uid ≠ t.who.uid then g
        else t.lanes.foldl (fun g l =>
          let r := t.result l.2.1 l.2.2
          g.deliver t.who.iid l.1 fun ln => (ln.setVs t.d r.1).raise r.2) g)

/-! ### The traversal unit (R353 to R356) -/

/-- TVU_ACCEPT: a handed-over ray enters the TVU of its core; so does a replayed one, once an entry is free (R353, R356). -/
def execTvuAccept (ctx id : Nat) (s : State) : Out :=
  match s.ray? ctx id with
  | some r =>
    if r.at_ = .handed then .next ((s.setRay ctx id { r with at_ := .tvu none }).bump r.core .tvrays)
    else if r.at_ = .replayed ∧ s.tvuCount r.core < 512 then .next (s.setRay ctx id { r with at_ := .tvu none })
    else .refused .eventNotDue
  | none => .refused .eventNotDue
/-- The direction bin's octant and axis (R337). -/
def rayOctant (g : List Word) : Nat := (List.range 3).foldl (fun n i => n + (if (g.getD (3 + i) 0).getLsbD 31 then 2 ^ (2 - i) else 0)) 0
def rayAxis (g : List Word) : Nat :=
  let mag := fun (i : Nat) => let m := (g.getD (3 + i) 0).toNat % 2 ^ 31; if m > 0x7F800000 then 0 else m
  if mag 0 ≥ mag 1 ∧ mag 0 ≥ mag 2 then 0 else if mag 1 ≥ mag 2 then 1 else 2
/-- The coordinate of the origin cell on one axis. -/
def cellCoord (e : Int) (w : Word) : Nat :=
  match fF32.val w.toNat with
  | .nan _ => 512
  | .inf n => if n then 0 else 1023
  | _ => (max (-512) (min 511 ((fxInt w.toNat).getD 0 / (2 ^ (149 + e).toNat : Int))) + 512).toNat
/-- The Morton code of the origin cell. -/
def rayCell (e : Int) (g : List Word) : Nat :=
  let c := (List.range 3).map fun i => cellCoord e (g.getD i 0)
  (List.range 10).foldl (fun n b => n + (List.range 3).foldl (fun m i => m + (if (c.getD i 0).testBit b then 2 ^ (3 * b + 2 - i) else 0)) 0) 0
/-- The key of a ray: context, launch, shader, direction bin, origin cell. -/
def State.rayBin (s : State) (ctx : Nat) (r : Ray) : List Nat :=
  let e := match s.launch? ctx r.launch with | some l => l.hdr.celle.toInt | none => 0
  [ctx, r.launch, r.rec_.shader, 4 * rayOctant r.rec_.geo + rayAxis r.rec_.geo, rayCell e r.rec_.geo]
/-- The entry of the cell table for a ray. -/
def State.cellOf (s : State) (ctx : Nat) (r : Ray) : Nat :=
  let k := s.rayBin ctx r
  Config.cellHash ctx r.launch (k.getD 4 0) (rayOctant r.rec_.geo) % 4096
/-- The set of the treelet cache in which a treelet stands: 64 sets of 16 (R354). -/
def treeSet (t : Treelet) : Nat := Config.treeletSet t.ctx t.launch t.pa % 64
/-- A ray of a cluster waits for a line of a treelet. -/
def State.treeletAwaited (s : State) (cluster : Nat) (t : Treelet) : Bool :=
  s.rays.any fun r => decide (r.1 / 2 ^ 24 = t.ctx ∧ r.2.launch = t.launch ∧ r.2.cluster = cluster) &&
    (match r.2.at_ with | .tvu (some pa) => decide (treeletOf pa = t.pa) | _ => false)
/-- Room for a new treelet in its set: of 16 the one used longest ago leaves, never one with a read waiting; with none to leave
there is no room, and the read waits (R21, R354). The cache stands most recently used first. -/
def State.treeRoom (s : State) (cluster : Nat) (t : Treelet) : Option State :=
  let all := (s.cluster cluster).rays.cache
  let mates := all.filter fun u => treeSet u = treeSet t
  if mates.length < 16 then some s
  else
    (mates.reverse.find? fun u => !s.treeletAwaited cluster u).map fun v =>
      (s.modCluster cluster fun k => { k with rays := { k.rays with cache := k.rays.cache.filter fun u => u != v } }).bumpK cluster
        .tlpfevu (if v.pref then 1 else 0)
/-- A treelet is asked for: the lines not present are wanted, and it is the most recently used. -/
def State.askTreelet (s : State) (w : TreeWho) (pa cls : Nat) (pref : Bool) : Option State :=
  let old := (s.cluster w.cluster).rays.cache.find? fun t => t.tagged w pa
  let t : Treelet := old.getD { ctx := w.ctx, launch := w.launch, pa := treeletOf pa, cls := cls, pref := pref }
  let t := { t with wanted := (List.range 64).filter fun i => (mget t.lines i).isNone }
  (if old.isSome then some s else s.treeRoom w.cluster t).map fun s => s.modCluster w.cluster fun k =>
    { k with rays := { k.rays with cache := t :: k.rays.cache.filter fun u => !u.tagged w pa } }
/-- A demand read finds a prefetched treelet: present, or on its way (R355). -/
def State.usedPref (s : State) (w : TreeWho) (pa : Nat) (late : Bool) : State :=
  match (s.cluster w.cluster).rays.cache.find? fun t => t.tagged w pa && t.pref with
  | none => s
  | some _ =>
    let f := fun (t : Treelet) => if t.tagged w pa then { t with pref := false } else t
    (s.modCluster w.cluster fun k => { k with rays := { k.rays with cache := k.rays.cache.map f } }).bumpK w.cluster
      (if late then .tlpflate else .tlpfused)
/-- The treelets that a traversal has read become the most recently used, the last read first; prefetched ones count as used. -/
def State.usedTreelets (s : State) (w : TreeWho) (vas : List Nat) : State :=
  let pas := (vas.filterMap fun va => match (s.walk w.ctx va).1 with
    | .leaf e => some (treeletOf (ptePa e va))
    | .none_ _ _ => none).eraseDups.reverse
  pas.foldl (fun s pa =>
    let s := s.usedPref w pa false
    s.modCluster w.cluster fun k => { k with rays := { k.rays with
      cache := (k.rays.cache.filter fun t => t.tagged w pa) ++ k.rays.cache.filter fun t => !t.tagged w pa } }) s
/-- Parking places of a core's TVU in use. -/
def State.parkedRays (s : State) (core : Nat) : Nat :=
  (s.rays.filter fun r => decide (r.2.core = core) && (match r.2.at_ with | .parked (some _) => true | _ => false)).length
/-- The result of a traversal without an error (R351, R352). -/
def Ray.decided (r : Ray) (hits : List Hit) (pick : Nat) : Ray :=
  let ord := r.rec_.flags.getLsbD 19
  let first := r.rec_.flags.getLsbD 18
  if first then
    match hits[pick % (hits.length + (if hits = [] then 1 else 0))]? with
    | some h => { r with rec_ := r.rec_.hit h 0 1 }
    | none => { r with rec_ := r.rec_.noHit 0 r.chain.end_ 0 0 }
  else
    let l := (sortHits hits).take (if ord then bits r.rec_.flags.toNat 20 4 + 1 else 1)
    match l with
    | [] => { r with rec_ := r.rec_.noHit 0 r.chain.end_ 0 0 }
    | h :: _ =>
      if ord then { r with rec_ := r.rec_.hit h 0 l.length, chain := { r.chain with n := l.length, next := 1, hits := l } }
      else { r with rec_ := r.rec_.hit h 0 1 }
/-- The ray leaves the TVU; its cell-table entry is replaced, and an ordered trace parks its hits in the chain area. -/
def State.leaveTvu (s : State) (ctx id : Nat) (r : Ray) : State :=
  let s := if r.chain.hits = [] then s else s.storeChain ctx id
  (s.setRay ctx id { r with at_ := .arriving, trav := none, bad := false }).modCluster r.cluster fun k =>
    { k with rays := { k.rays with cells := mset k.rays.cells (s.cellOf ctx r) (ctx, r.missed) } }
/-- A traversal that has not begun: a ray that is not valid hits nothing. -/
def Ray.begin_ (r : Ray) : Trav :=
  { todo := match geoRay r.rec_.geo with
    | none => []
    | some g => [.ref { ray := some g, base := r.handle } 0] }
/-- TRAVERSAL_DONE: the traversal goes on until it ends, lacks a line in the cache, or parks for the host. -/
def execTraversalDone (ctx id pick : Nat) (s : State) : Out :=
  match s.ray? ctx id with
  | none => .refused .eventNotDue
  | some r =>
    let w : TreeWho := ⟨ctx, r.launch, r.cluster⟩
    let waits := match r.at_ with
      | .tvu (some pa) => !((s.cluster r.cluster).rays.cache.any fun t => t.tagged w pa && (mget t.lines (pa % 4096 / 64)).isSome)
      | .tvu none => false
      | .parked none => decide (s.parkedRays r.core ≥ 64)
      | _ => true
    if waits then .refused .eventNotDue
    else
      let fl := r.rec_.flags.toNat
      let f : RayFlags := ⟨bits fl 24 8, bitN fl 16, bitN fl 17⟩
      let t0 := r.trav.getD r.begin_
      let run := if r.bad then (t0, some (.code 3)) else s.traverse w f (2 ^ 28) { t0 with reads := [] }
      let t := run.1
      let s' := ((s.bump r.core .tvnode (t.nodes - t0.nodes)).bump r.core .tvtri (t.tris - t0.tris)).bumpK r.cluster .tlhit (t.found - t0.found)
      let s' := s'.usedTreelets w t.reads
      let r' : Ray := { r with trav := some t }
      match run.2 with
      | none => .next (s'.leaveTvu ctx id (r'.decided t.hits pick))
      | some (.code c) =>
        let s' := (s'.postEvent ctx 4 c 0 id).bump r.core .tverr
        .next (s'.leaveTvu ctx id { r' with rec_ := { r.rec_.noHit 5 r.chain.end_ 0 0 with prim := toW c } })
      | some (.need va pa cls) =>
        let late : Bool := (s'.cluster w.cluster).rays.cache.any fun t => t.tagged w pa && t.pref
        let blk := va / 4096 * 4096
        let missed := if r.missed.length < 4 ∧ blk ∉ r.missed then r.missed ++ [blk] else r.missed
        match (if late then s'.usedPref w pa true else s').askTreelet w pa cls false with
        | some s' => .next ((s'.setRay ctx id { r' with
            at_ := .tvu (some pa), missed := missed, trav := some { t with lacked := t.lacked + 1 } }).bumpK r.cluster .tlmiss)
        | none => if t.todo = t0.todo then .refused .eventNotDue else .next (s'.setRay ctx id { r' with at_ := .tvu none })
      | some (.park va cause) =>
        if s.parkedRays r.core ≥ 64 then
          if r.at_ = RayAt.parked none then .refused .eventNotDue else .next (s'.setRay ctx id { r' with at_ := .parked none })
        else
          let rec_ : FaultRec := ⟨toD va, toD id, cause, 1, false, r.core, 0, s'.token ctx⟩
          let s' := (s'.setRay ctx id { r' with at_ := .parked (some rec_.token) }).bump r.core .tvpark
          .next (s'.fresh.postFault ctx rec_ (.ray id))
/-- TREELET_FILL: one line of a treelet is read at its home slice. -/
def execTreeletFill (cluster ctx line : Nat) (s : State) : Out :=
  let i := line % 4096 / 64
  match (s.cluster cluster).rays.cache.find? fun t => t.ctx == ctx && t.pa == treeletOf line && decide (i ∈ t.wanted) with
  | none => .refused .eventNotDue
  | some t =>
    let r := s.agentLine ctx (lineAddr line)
    let u := { t with lines := mset t.lines i ⟨r.1.1, r.1.2⟩, wanted := t.wanted.filter fun j => j != i }
    .next (r.2.modCluster cluster fun k => { k with rays := { k.rays with cache := k.rays.cache.map fun v => if v = t then u else v } })

/-! ### Saffron (R337 to R339, R355) -/

/-- Records that a cluster's Saffron holds. -/
def State.onDie (s : State) (cluster : Nat) : Nat :=
  (s.rays.filter fun r => decide (r.2.cluster = cluster) && (match r.2.at_ with | .bin _ => true | .formed _ => true | _ => false)).length
/-- The spilled rays of a cluster: key, and place in the order of arrival. -/
def State.spilledRays (s : State) (cluster : Nat) : List (Nat × Nat × Nat) :=
  s.rays.filterMap fun r =>
    match r.2.at_ with
    | .spilled o => if r.2.cluster = cluster then some (r.1, 64 * (r.1 / 2 ^ 24) + r.2.launch, o) else none
    | _ => none
/-- The 128 bytes of a record (R331). -/
def RayRec.bytes (r : RayRec) (id : Nat) : List Byte :=
  (r.payload.take 16 ++ r.geo.take 8 ++ [r.flags ||| toW r.shader, r.thit, r.prim, r.inst, r.bu, r.bv,
    toW (r.n * 2 ^ 16 + r.j * 2 ^ 8 + r.kind), toW id]).flatMap fun w => leBytes 4 w.toNat
/-- RAY_ENTER_SAFFRON: an arriving ray takes a record, or is written to its identifier's spill copy when every record is in
use. -/
def execRayEnterSaffron (ctx id : Nat) (s : State) : Out :=
  match s.ray? ctx id with
  | none => .refused .eventNotDue
  | some r =>
    if r.at_ ≠ .arriving then .refused .eventNotDue
    else if s.onDie r.cluster ≥ 65536 then
      .next (((s.fresh.setRay ctx id { r with at_ := .spilled s.nextId }).rayStore ctx id 0 (r.rec_.bytes id)).bumpK r.cluster .rpspill)
    else if s.spilledRays r.cluster ≠ [] then .refused .eventNotDue
    else .next (s.setRay ctx id { r with at_ := .bin s.now })
/-- RAY_REFILL: the next spilled ray, launches in turn and each queue in its order. -/
def execRayRefill (cluster ctx id : Nat) (s : State) : Out :=
  match s.ray? ctx id with
  | none => .refused .eventNotDue
  | some r =>
    let all := s.spilledRays cluster
    let l := 64 * ctx + r.launch
    let turn := (s.cluster cluster).rays.turn
    let dist := fun (k : Nat) => (k + 8192 - turn - 1) % 4096
    match r.at_ with
    | .spilled o =>
      if r.cluster = cluster ∧ s.onDie cluster < 65536 ∧ (all.all fun p => decide (p.2.1 = l → o ≤ p.2.2)) = true ∧
          (all.all fun p => decide (dist l ≤ dist p.2.1)) = true then
        .next (((s.setRay ctx id { r with at_ := .bin s.now }).modCluster cluster fun k =>
          { k with rays := { k.rays with turn := l } }).bumpK cluster .rprefill)
      else .refused .eventNotDue
    | _ => .refused .eventNotDue
/-- An on-die ray in its bin: when it entered, its context and identifier. -/
structure Binned where
  since : Nat
  ctx : Nat
  id : Nat
  key : List Nat
  deriving DecidableEq, Repr
def Binned.older (a b : Binned) : Bool := decide (a.since < b.since ∨ (a.since = b.since ∧ a.id < b.id))
def putBinned : List Binned → Binned → List Binned
  | [], b => [b]
  | a :: t, b => if b.older a then b :: a :: t else a :: putBinned t b
/-- The on-die rays of a cluster, oldest first; those of one clk by ascending identifier. -/
def State.binned (s : State) (cluster : Nat) : List Binned :=
  (s.rays.filterMap fun r =>
    match r.2.at_ with
    | .bin t => if r.2.cluster = cluster then some ⟨t, r.1 / 2 ^ 24, r.1 % 2 ^ 24, s.rayBin (r.1 / 2 ^ 24) r.2⟩ else none
    | _ => none).foldl putBinned []
/-- The oldest has waited as long as the launch's bin patience. -/
def State.impatient (s : State) (b : Binned) (half : Bool) : Bool :=
  match s.launch? b.ctx (b.key.getD 1 0) with
  | some l => decide (b.since + (if half then l.hdr.patience / 2 else l.hdr.patience) ≤ s.now)
  | none => false
/-- Nothing of the launch is left in the cluster but rays that wait in Saffron or on their way to it. -/
def State.drained (s : State) (cluster ctx n : Nat) : Bool :=
  (s.blocks.all fun b => !(clusterOf b.2.core == cluster && b.2.ctx == ctx && b.2.launch == n)) &&
  (s.raysOf ctx n).all fun r => r.2.cluster != cluster ||
    (match r.2.at_ with | .arriving => true | .bin _ => true | .spilled _ => true | _ => false)
/-- The rays of a bin become an episode. -/
def State.formEpisode (s : State) (cluster : Nat) (l : List Binned) (c : Ctr) : State :=
  match l with
  | [] => s
  | b :: _ =>
    let e := s.nextId
    let s := l.foldl (fun s p => match s.ray? p.ctx p.id with | some r => s.setRay p.ctx p.id { r with at_ := .formed e } | none => s) s.fresh
    (s.modCluster cluster fun k => { k with rays := { k.rays with
      formed := mset k.rays.formed e ⟨b.ctx, b.key.getD 1 0, b.key.getD 2 0, l.map Binned.id⟩
      asked := k.rays.asked.filter fun a => a != b.key } }).bumpK cluster c
/-- A bin qualifies (R338): it is full, or its oldest ray has lost patience, or its launch has drained. -/
def State.qualifies (s : State) (cluster : Nat) (all : List Binned) (key : List Nat) : Bool :=
  match all.filter fun b => b.key == key with
  | [] => false
  | b :: t => decide (t.length ≥ 7) || s.impatient b false || decide (key ∈ (s.cluster cluster).rays.due) ||
      s.drained cluster b.ctx (key.getD 1 0)
/-- The bin of the ray forms an episode if the case that holds for it says so, no other that qualifies has an older ray, and none
has been formed in this clk. -/
def formBin (ctx id : Nat) (c : Ctr) (holds : State → Nat → List Binned → Bool) (s : State) : Out :=
  match s.ray? ctx id with
  | none => .refused .eventNotDue
  | some r =>
    let k := r.cluster
    let all := s.binned k
    let key := s.rayBin ctx r
    match all.filter fun b => b.key == key with
    | [] => .refused .eventNotDue
    | b :: t =>
      let first := all.all fun a => !(decide (a.since < b.since) && s.qualifies k all a.key)
      if holds s k (b :: t) && first && decide ((s.cluster k).rays.formedAt ≠ some s.now) &&
          (all.any fun a => decide (a.ctx = ctx ∧ a.id = id)) then
        -- a launch that has drained makes every bin of it due
        let mine := if s.drained k ctx r.launch then (all.filter fun a => decide (a.ctx = ctx ∧ a.key.getD 1 0 = r.launch)).map Binned.key else []
        .next ((s.formEpisode k ((b :: t).take 8) c).modCluster k fun u => { u with rays := { u.rays with
          formedAt := some s.now
          due := (mine ++ u.rays.due).eraseDups.filter fun q => q != key } })
      else .refused .eventNotDue
/-- EPISODE_FORM_FULL (case 1). -/
def execEpisodeFormFull (ctx ray : Nat) (s : State) : Out := formBin ctx ray .rppopf (fun _ _ l => decide (l.length ≥ 8)) s
/-- EPISODE_FORM_PATIENCE (case 2). -/
def execEpisodeFormPatience (ctx ray : Nat) (s : State) : Out :=
  formBin ctx ray .rppopp (fun s _ l => decide (l.length < 8) && (match l with | b :: _ => s.impatient b false | [] => false)) s
/-- EPISODE_FORM_DRAIN (case 3): every bin of a drained launch forms an episode, one in a clk. -/
def execEpisodeFormDrain (ctx ray : Nat) (s : State) : Out :=
  formBin ctx ray .rppopd (fun s k l => match l with
    | b :: _ => decide (b.key ∈ (s.cluster k).rays.due) || s.drained k ctx (b.key.getD 1 0)
    | [] => false) s
/-- One treelet of a cell-table entry asked for, unless it is present, its translation fails, or its set has no room. -/
def State.prefTreelet (s : State) (w : TreeWho) (va : Nat) : State :=
  match s.agentTranslate w.ctx va {} with
  | (.error _, s) => s.bumpK w.cluster .tlpfdrop
  | (.ok (e, pa), s) =>
    if pteClass e > 1 then s.bumpK w.cluster .tlpfdrop
    else if (s.cluster w.cluster).rays.cache.any fun t => t.tagged w pa then s
    else match s.askTreelet w pa (pteClass e) true with
      | some s => s.bumpK w.cluster .tlpfiss
      | none => s.bumpK w.cluster .tlpfdrop
/-- TREELET_PREFETCH: entries of another context are not its own (R359). The bin of the ray has 4 rays, or its oldest has waited half the patience. -/
def execTreeletPrefetch (cluster ctx id : Nat) (s : State) : Out :=
  match s.ray? ctx id with
  | none => .refused .eventNotDue
  | some r =>
    let key := s.rayBin ctx r
    let k := s.cluster cluster
    match (s.binned cluster).filter fun b => b.key == key with
    | [] => .refused .eventNotDue
    | b :: t =>
      if r.cluster = cluster ∧ key ∉ k.rays.asked ∧ (t.length ≥ 3 ∨ s.impatient b true = true) then
        let s := s.modCluster cluster fun k => { k with rays := { k.rays with asked := key :: k.rays.asked } }
        match mget k.rays.cells (s.cellOf ctx r) with
        | some (c, l) => .next (if c = ctx then l.foldl (fun s va => s.prefTreelet ⟨ctx, r.launch, cluster⟩ va) s else s)
        | none => .next s
      else .refused .eventNotDue

end Sys2Proof.Machine
end

