-- ==== Sys2Proof/Machine/Admit.lean ====
section
/-! DEFINITION. Admission: the head that a cluster offers, the tests of a core, and the state of the groups that start (spec 13
R379 to R383, 05 R110 to R113, 07 R169, R170, R175, 12 R333 to R335). -/
namespace Sys2Proof.Machine

/-! ### Heads (R379) -/

/-- A head: the first record of a non-empty queue, with its context, its queue and its effective priority. -/
structure Head where
  ctx : Nat
  queue : Nat
  rec_ : QRec
  prio : Nat
  /-- The clks that it has waited as a head of the cluster, and whether the EAM has taken it already. -/
  wait : Nat
  taken : Bool
  deriving DecidableEq, Repr
/-- The context is active on some core of a cluster. -/
def State.activeIn (s : State) (cluster ctx : Nat) : Bool :=
  s.cores.any fun c => clusterOf c.1 == cluster && mget c.2.res ctx == some .active
def State.recPrio (s : State) (ctx : Nat) (r : QRec) : Nat :=
  match r with
  | .launch n => match s.launch? ctx n with | some l => l.hdr.prio | none => 0
  | .cont w0 _ _ _ _ _ _ _ => bits w0.toNat 55 3
/-- A block of a launch that is not admitted. -/
def Launch.unadmitted (l : Launch) (b : Nat) : Bool := decide (l.next ≤ b ∧ b < l.hdr.blocks) && !l.ahead.contains b
/-- The block of a launch that a cluster offers: the one that it has claimed, or else the lowest that is not admitted and that no
cluster has claimed (R379; log 88). -/
def State.offerBlock (s : State) (cluster ctx n : Nat) (l : Launch) : Option Nat :=
  let key := 64 * ctx + n
  let claims := s.clusters.filterMap fun k => match k.2.claim with
    | some (i, b) => if i = key ∧ k.1 ≠ cluster then some b else none
    | none => none
  let lowest := ((List.range (l.ahead.length + 9)).map fun i => l.next + i).find? fun b => l.unadmitted b && !claims.contains b
  match (s.cluster cluster).claim with
  | some (i, b) => if i = key ∧ l.unadmitted b = true then some b else lowest
  | none => lowest
/-- A record has a block for a cluster. -/
def State.offers (s : State) (cluster ctx : Nat) (r : QRec) : Bool :=
  match r with
  | .launch n => match s.launch? ctx n with | some l => (s.offerBlock cluster ctx n l).isSome | none => true
  | .cont _ _ _ _ _ _ _ _ => true
/-- The heads of a cluster. -/
def State.heads (s : State) (cluster : Nat) : List Head :=
  (s.ctxs.filter fun c => s.activeIn cluster c.1).flatMap fun c => c.2.queues.filterMap fun q =>
    match q.2.recs with
    | [] => none
    | r :: _ =>
      let i := 64 * c.1 + q.1
      let w := mgetD (s.cluster cluster).waits i 0
      if s.offers cluster c.1 r then some ⟨c.1, q.1, r, min 7 (s.recPrio c.1 r + w / 65536), w, (s.cluster cluster).taken.contains i⟩
      else none
/-- The head k goes before the head h: by its effective priority; of equal ones, a head that has been taken holds the others
back, and else the one that has waited longest goes first. -/
def Head.over (k h : Head) : Bool :=
  decide (k.prio > h.prio) || (k.prio == h.prio && ((k.taken && !h.taken) || (k.taken == h.taken && decide (k.wait > h.wait))))
/-- The head that the EAM takes. -/
def topHead : List Head → Option Head
  | [] => none
  | h :: t =>
    match topHead t with
    | none => some h
    | some k => if k.over h then some k else some h

/-! ### The tests of a core (R380, R382) -/

/-- What a block asks of a core. -/
structure Want where
  ctx : Nat
  launch : Nat
  kind : BlockKind
  groups : Nat
  window : Nat
  eclass : Nat
  deriving DecidableEq, Repr
/-- The granules of the register-stack part under a code (R110, R112). -/
def stackPart (part : Nat) : Nat := 2 * ([1024, 1024, 1536, 768, 512, 1024, 512, 1280].getD part 0)
/-- Granules of a group: S / 16. -/
def State.granules (s : State) (g : Group) : Nat := match s.blockOf g with | some b => b.stack / 16 | none => 0
/-- The granules of the group that leaves next that a drain has written, and so freed (R114). -/
def State.granulesGone (s : State) (core : Nat) : Nat :=
  let k := s.core core
  match k.res.find? fun r => r.2 == .draining with
  | none => 0
  | some (x, _) => match k.groups.find? fun g => g.2.ctx = x with
    | some (_, g) => min (s.granules g) ((k.drained - k.left) / 512)
    | none => 0
/-- The granules of a core that are allotted. -/
def State.granulesUsed (s : State) (core : Nat) : Nat :=
  ((s.core core).groups.map fun g => s.granules g.2).sum - s.granulesGone core
/-- The first free run of n bytes of a core's scratch part, at a multiple of 1 KiB (R169). -/
def firstFit (wins : Map Window) (size n : Nat) : Option Nat :=
  ((List.range (size / 1024 + 1)).map fun i => 1024 * i).find? fun o =>
    decide (o + n ≤ size) && wins.all fun w => decide (o + n ≤ w.2.off ∨ w.2.off + w.2.len ≤ o)
/-- The core's code is the block's, or is open. -/
def State.codeOk (s : State) (core part : Nat) : Bool := (s.core core).part == part || s.openCore core
def State.activeOn (s : State) (core ctx : Nat) : Bool := mget (s.core core).res ctx == some .active
/-- The energy test. -/
def State.energyOk (s : State) (core : Nat) (w : Want) : Bool :=
  decide ((s.core core).units + w.groups * s.dev.weights.getD w.eclass 0 ≤ s.budget)
/-- The slots that the groups take: free ones from a slot upward. -/
def State.slotsFor (s : State) (core slot n : Nat) : List Nat := (freeKeys (s.core core).groups slot 512).take n
/-- Every test of R380 but the reorder window and the affinity: the slots, and the window's place. -/
def State.admits (s : State) (core slot : Nat) (h : Header) (w : Want) : Option (List Nat × Nat) :=
  let k := s.core core
  let slots := s.slotsFor core slot w.groups
  let follower := !h.paired || (core % 2 == 0 && s.activeOn (core + 1) w.ctx && s.codeOk (core + 1) h.part)
  if s.activeOn core w.ctx && s.codeOk core h.part && follower && decide (slots.length = w.groups) && s.energyOk core w &&
      decide (s.granulesUsed core + w.groups * (h.stack / 16) ≤ stackPart h.part) then
    if w.window = 0 then some (slots, 0)
    else if k.scratch.wins.length ≥ 128 then none
    else (firstFit k.scratch.wins (scratchPart h.part) w.window).map fun o => (slots, o)
  else none

/-! ### The start of groups (R80, R113, R170, R381) -/

/-- What a group starts with beside zeros: the entry, the s registers, and its live lanes. -/
structure Preload where
  code : DWord
  s0 : DWord
  s2 : DWord
  s4 : DWord
  lanes : List Lane
/-- A new group of a block. -/
def newGroup (uid ctx blk idx units now s54 : Nat) (p : Preload) : Group :=
  let u : Uniform := (((({} : Uniform).setPair 0 p.s0).setPair 2 p.s2).setPair 4 p.s4).setS 54 (toW s54)
  { uid := uid, ctx := ctx, blk := blk, idx := idx, live := BitVec.ofNat 8 (2 ^ p.lanes.length - 1), units := units, uni := u
    splits := [(0, { mask := BitVec.ofNat 8 (2 ^ p.lanes.length - 1), st := .ready, pc := Pc.of p.code, since := now, notBefore := now + 1 })]
    lanes := (List.range 8).zip p.lanes }
/-- The absolute scratch address of an offset of a core (R170, R171). -/
def scratchAddr (core off : Nat) : Nat := core % 24 * 2 ^ 20 + off
/-- A window of a block: its table entry, its bytes 0, and the entries of kinds 0 and 1 of the template. -/
def State.openWindow (s : State) (core blk off n : Nat) (t : List DWord) : State :=
  let s := s.modCore core fun k => { k with scratch := { k.scratch with
    bytes := mkeep k.scratch.bytes fun a _ => decide (a < off ∨ off + n ≤ a)
    poison := mkeep k.scratch.poison fun a _ => decide (4 * a < off ∨ off + n ≤ 4 * a)
    times := mkeep k.scratch.times fun a _ => decide (64 * a < off ∨ off + n ≤ 64 * a)
    wins := mset k.scratch.wins ((freeKeys k.scratch.wins 0 128).headD 0) { blk := blk, off := off, len := n } } }
  (tplEntries t).foldl (fun s e =>
    if e.kind = 3 then s
    else s.installMap core blk e.n (off + e.s) ⟨if e.kind = 1 then .ro else .rw, e.s, e.len, e.b.toNat⟩) s
/-- The core applies the block's code when it is open; so does an open follower of a paired block. -/
def State.adopt (s : State) (core : Nat) (h : Header) : State :=
  let s := if s.openCore core then s.applyPart core h.part else s
  if h.paired && s.openCore (core + 1) then s.applyPart (core + 1) h.part else s
/-- The groups of a block put into their slots, in order. -/
def State.startGroups (s : State) (core ctx blk units s54 : Nat) (pre : Nat → Preload) : Nat → List Nat → State
  | _, [] => s
  | i, slot :: t =>
    let g := newGroup s.nextId ctx blk i units s.now s54 (pre i)
    State.startGroups (s.fresh.modCore core fun k => { k with groups := mset k.groups slot g }) core ctx blk units s54 pre (i + 1) t
/-- A block admitted: the record, the window, the groups, and pts at least the floor and what the push carried. -/
def State.startBlock (s : State) (core : Nat) (l : Launch) (w : Want) (place : List Nat × Nat) (pts : Nat)
    (pre : Nat → Preload) : State :=
  let h := l.hdr
  let s := s.adopt core h
  let blk := s.nextId
  let b : Block :=
    { core := core, ctx := w.ctx, launch := w.launch, kind := w.kind, slots := place.1, groups := w.groups, part := h.part,
      stack := h.stack, limit := h.limit, trapb := h.trapb.toNat, paired := h.paired, eclass := w.eclass }
  let s := { s.fresh with blocks := mset s.blocks blk b }
  let s := if w.window = 0 then s else s.openWindow core blk place.2 w.window l.template
  let s := s.startGroups core w.ctx blk (s.dev.weights.getD w.eclass 0) (if w.window = 0 then 0 else scratchAddr core place.2) pre 0 place.1
  ((s.raisePts core w.ctx (max (s.ctx w.ctx).floor pts)).bump core .eamadm)

/-! ### The three kinds of block -/

/-- What a block of a launch asks for. -/
def Launch.want (l : Launch) (ctx n b : Nat) : Want := ⟨ctx, n, .launch b, l.hdr.groupsOf b, tplWindow l.template, l.hdr.eclass⟩
/-- The block lies outside the launch's reorder window (R375). -/
def Launch.outside (l : Launch) (b : Nat) : Bool := decide (b ≥ l.w0 + 256)
/-- The lowest block not admitted moves over those admitted ahead of it. -/
def Launch.pass : Nat → Launch → Launch
  | 0, l => l
  | k + 1, l =>
    if l.ahead.contains l.next then Launch.pass k { l with next := l.next + 1, ahead := l.ahead.filter fun b => b ≠ l.next } else l
/-- Block b is admitted. -/
def Launch.admitBlock (l : Launch) (b : Nat) : Launch :=
  let l := { l with ahead := b :: l.ahead, alive := l.alive + 1, trees := mset l.trees b 1 }
  l.pass l.ahead.length
/-- The block of a launch that the cluster offers. -/
def State.admitLaunch (s : State) (core slot n : Nat) (hd : Head) (l : Launch) : Option State :=
  match s.offerBlock (clusterOf core) hd.ctx n l with
  | none => none
  | some b =>
    let w := l.want hd.ctx n b
    if l.outside b then none
    else
      (s.admits core slot l.hdr w).map fun place =>
        let pre := fun (i : Nat) => ({
          code := l.hdr.code, s0 := toD b, s2 := l.hdr.arg, s4 := 0
          lanes := (List.range (l.hdr.count 0)).map fun j => { wid := l.hdr.wid (b * l.hdr.groups + i) j } } : Preload)
        let s := (s.startBlock core l w place l.pts pre).modLaunch hd.ctx n fun l => l.admitBlock b
        if (l.admitBlock b).next = l.hdr.blocks then s.dequeue hd.ctx hd.queue
        else s.modCluster (clusterOf core) fun k =>
          { k with taken := k.taken.filter fun h => h ≠ 64 * hd.ctx + hd.queue, claim := none }
/-- AFF allows the core (R377). -/
def affOk (aff pushed core : Nat) : Bool :=
  if aff = 1 then clusterOf core == clusterOf pushed else if aff = 2 then core == pushed else true
/-- A continuation. -/
def State.admitCont (s : State) (core slot : Nat) (hd : Head) (l : Launch) (w0 frame join wid : DWord) (n : Nat)
    (tree : Option Nat) (pushed pts : Nat) : Option State :=
  let w : Want := ⟨hd.ctx, n, .cont tree join.toNat, 1, tplWindow l.template, bits w0.toNat 52 3⟩
  if !affOk (bits w0.toNat 49 2) pushed core then none
  else
    (s.admits core slot l.hdr w).map fun place =>
      let code := (w0.extractLsb' 0 49).signExtend 64
      let pre := fun (_ : Nat) => ({
        code := code, s2 := frame, s4 := join
        s0 := match tree with | some b => toD b | none => BitVec.allOnes 64
        lanes := (List.range (bits wid.toNat 0 3 + 1)).map fun j => { wid := (wid &&& 0xFFFFFFFFFFFFFFF8#64) ||| toD j } } : Preload)
      (s.startBlock core l w place pts pre).dequeue hd.ctx hd.queue
/-- The shader record of an episode: CODE and DATA, or none when the episode is not started (R334). -/
def State.shaderRec (s : State) (ctx : Nat) (l : Launch) (i : Nat) : Option (DWord × DWord) × State :=
  let a := l.hdr.arg + toD (32 * i)
  match (if canonical a then s.agentRead ctx {} [0, 1] (partsOf a.toNat 32) else (.error (4, 0), s)) with
  | (.error _, s) => (none, s)
  | (.ok bs, s) =>
    let b := bs.map Prod.fst
    let code := toD (byteField b 0 8)
    if code = 0 ∨ code.toNat % 8 ≠ 0 ∨ canonical code = false ∨ byteField b 16 16 ≠ 0 then (none, s)
    else (some (code, toD (byteField b 8 8)), s)
/-- Lane l of an episode (R335). -/
def episodeLane (r : Ray) (id : Nat) : Lane :=
  let k := r.rec_
  { regs := ((k.payload.take 16 ++ [k.thit, k.prim, k.inst, k.bu, k.bv, toW (k.n * 2 ^ 16 + k.j * 2 ^ 8 + k.kind), toW id,
      k.flags ||| toW k.shader] ++ k.geo.take 8).foldl (fun (a : Nat × Map Word) w => (a.1 + 1, mput 0 a.2 a.1 w)) (0, [])).2
    ray := toW id, shader := toW k.shader, episode := toW (r.episodes + 1) }
/-- A formed episode: its rays end when its shader record is not usable. -/
def State.admitEpisode (s : State) (core slot e : Nat) (ep : Episode) (l : Launch) : Option State :=
  let w : Want := ⟨ep.ctx, ep.launch, .episode e, 1, 0, l.hdr.eclass⟩
  let gone := fun (s : State) => s.modCluster (clusterOf core) fun k => { k with rays := { k.rays with formed := mdel k.rays.formed e } }
  (s.admits core slot l.hdr w).map fun place =>
    match s.shaderRec ep.ctx l ep.shader with
    | (none, s) =>
      let s := ep.rays.foldl (fun s id => { s with rays := mdel s.rays (rayKey ep.ctx id) }) (gone s)
      (((s.postEvent ep.ctx 3 0 0 ep.shader).bumpK (clusterOf core) .rpnosh).tryEnd ep.ctx ep.launch)
    | (some (code, data), s) =>
      let rays := ep.rays.filterMap fun id => (s.ray? ep.ctx id).map fun r => (id, r)
      let pre := fun (_ : Nat) => ({
        code := code, s0 := data, s2 := 0, s4 := 0, lanes := rays.map fun p => episodeLane p.2 p.1 } : Preload)
      let pts := rays.foldl (fun m p => max m p.2.pts) 0
      let s := (gone s).startBlock core l w place pts pre
      let s := s.grow ep.ctx ep.launch 1 none
      (rays.zip (List.range 8)).foldl (fun s p => s.setRay ep.ctx p.1.1
        { p.1.2 with at_ := .lane core (place.1.headD 0) p.2, episodes := (p.1.2.episodes + 1) % 2 ^ 32 }) s

/-- The admission of the cluster's head at a core. -/
def State.admitHead (s : State) (core slot : Nat) : Option State :=
  match topHead (s.heads (clusterOf core)) with
  | none => none
  | some hd =>
    match hd.rec_ with
    | .launch n =>
      match s.launch? hd.ctx n with
      | some l => s.admitLaunch core slot n hd l
      | none => none
    | .cont w0 frame join wid n tree pushed pts =>
      match s.launch? hd.ctx n with
      | some l => s.admitCont core slot hd l w0 frame join wid n tree pushed pts
      | none => none
/-- BLOCK_ADMIT: the head of the core's cluster, or formed episode epi − 1, admitted at the core, one block in a clk (R379); no
core runs before boot firmware is verified (R453). -/
def execBlockAdmit (core slot epi : Nat) (s : State) : Out :=
  let r := if s.dev.boot ≠ 2 ∨ (s.cluster (clusterOf core)).admitted = some s.now then none else match epi with
    | 0 => s.admitHead core slot
    | e + 1 =>
      match mget (s.cluster (clusterOf core)).rays.formed e with
      | none => none
      | some ep =>
        match s.launch? ep.ctx ep.launch with
        | some l => s.admitEpisode core slot e ep l
        | none => none
  match r with
  | some t => .next (t.modCluster (clusterOf core) fun k => { k with admitted := some s.now })
  | none => .refused .eventNotDue

/-! ### Waits of heads (R379, R393) -/

/-- The launch of a head, and what the block that is offered of it asks for, with the cores that may take it. -/
def State.headWant (s : State) (cluster : Nat) (hd : Head) : Option (Launch × Want × (Nat → Bool)) :=
  let n := match hd.rec_ with | .launch n => n | .cont _ _ _ _ n _ _ _ => n
  (s.launch? hd.ctx n).bind fun l => match hd.rec_ with
    | .launch _ => (s.offerBlock cluster hd.ctx n l).map fun b => (l, l.want hd.ctx n b, fun _ => true)
    | .cont w0 _ join _ _ tree pushed _ =>
      some (l, ⟨hd.ctx, n, .cont tree join.toNat, 1, tplWindow l.template, bits w0.toNat 52 3⟩, affOk (bits w0.toNat 49 2) pushed)
/-- A head waits for its reorder window. -/
def State.windowWaits (s : State) (cluster : Nat) (hd : Head) : Bool :=
  match hd.rec_ with
  | .launch n => match s.launch? hd.ctx n with
    | some l => match s.offerBlock cluster hd.ctx n l with | some b => l.outside b | none => false
    | none => false
  | _ => false
/-- What the head that is offered waits for: a partition code on every core that its context and its affinity allow, or budget
on every one of those that have the code. -/
def State.headHeld (s : State) (cluster : Nat) (hd : Head) : Option Ctr :=
  match s.headWant cluster hd with
  | none => none
  | some (l, w, aff) =>
    let h := l.hdr
    let here := (s.cores.map Prod.fst).filter fun c => clusterOf c == cluster && s.activeOn c hd.ctx && aff c &&
      (!h.paired || (c % 2 == 0 && s.activeOn (c + 1) hd.ctx))
    let fit := here.filter fun c => s.codeOk c h.part && (!h.paired || s.codeOk (c + 1) h.part)
    if here = [] then none
    else if fit = [] then some .eampwait
    else if fit.all fun c => !s.energyOk c w then some .eambwait
    else none
/-- The block that a cluster claims of the launch whose head it takes: the one that it offers, while one of its cores can admit
it (log 88). -/
def State.claimOf (s : State) (cluster : Nat) (hd : Head) : Option (Nat × Nat) :=
  match hd.rec_ with
  | .cont _ _ _ _ _ _ _ _ => none
  | .launch n =>
    match s.launch? hd.ctx n with
    | none => none
    | some l =>
      match s.offerBlock cluster hd.ctx n l with
      | none => none
      | some b =>
        if !l.outside b && ((s.cores.map Prod.fst).any fun c =>
            clusterOf c == cluster && (s.admits c 0 l.hdr (l.want hd.ctx n b)).isSome) then some (64 * hd.ctx + n, b)
        else none
/-- A clk passes for the heads of a cluster: each waits one more, those that the counters name are counted, once a clk, and the
EAM takes the one that goes first. -/
def State.headWaits (s : State) (cluster : Nat) : State :=
  let hs := s.heads cluster
  if hs = [] ∧ (s.cluster cluster).waits = [] ∧ (s.cluster cluster).claim = none then s
  else
    let s := s.bumpK cluster .eamwwait (if hs.any fun h => s.windowWaits cluster h then 1 else 0)
    let top := topHead hs
    let s := match top with
      | some h => if s.windowWaits cluster h then s else match s.headHeld cluster h with | some c => s.bumpK cluster c | none => s
      | none => s
    let claim := match top with | some h => s.claimOf cluster h | none => none
    s.modCluster cluster fun k => { k with
      waits := hs.foldl (fun m h => mset m (64 * h.ctx + h.queue) (h.wait + 1)) []
      taken := (hs.filter fun h => h.taken || top == some h).map fun h => 64 * h.ctx + h.queue
      claim := claim }
/-- The clks that QPUSHes of a core wait for an entry of the engine scheduler (R417). -/
def State.engineWaits (s : State) (core : Nat) : State :=
  s.bumpK (clusterOf core) .engfull
    (((s.core core).groups.map fun g => (g.2.splits.filter fun e => e.2.st == .wait .pollEng).length).sum)
/-- Every cluster. -/
def State.clusterWaits (s : State) : State :=
  (s.cores.map Prod.fst).foldl (fun s c => s.engineWaits c) ((List.range 8).foldl (fun s k => s.headWaits k) s)

end Sys2Proof.Machine
end

