-- ==== Sys2Proof/Machine/Engines.lean ====
section
/-! DEFINITION. The cluster engines: job cards, the scheduler, the jobs of the CGE and of Caraway, completion registers and
cluster mailboxes, with QPUSH and QPOP (spec 14 R394 to R409). -/
namespace Sys2Proof.Machine

/-! ### Cards (R398) -/

/-- Word i of a card, and the 64-bit field in words i and i + 1. -/
def Job.w (j : Job) (i : Nat) : Nat := (j.card.getD i 0).toNat
def Job.d (j : Job) (i : Nat) : Nat := j.w i + 2 ^ 32 * j.w (i + 1)
def Job.tag (j : Job) : Nat := bits (j.w 0) 16 16
def Job.dscr (j : Job) : Bool := bitN (j.w 0) 11
def Job.sscr (j : Job) : Bool := bitN (j.w 0) 10
def Job.co (j : Job) : Bool := bitN (j.w 0) 9
def Job.cq (j : Job) : Bool := bitN (j.w 0) 8
def Job.op (j : Job) : Nat := bits (j.w 0) 0 8
def Job.src (j : Job) : Nat := j.d 4
def Job.dst (j : Job) : Nat := j.d 6
/-- LB, NR, SSTR, DSTR, SLEN, DLEN and IDX of a CGE card. -/
def Job.lb (j : Job) : Nat := j.w 8
def Job.nr (j : Job) : Nat := j.w 9
def Job.sstr (j : Job) : Nat := j.w 10
def Job.dstr (j : Job) : Nat := j.w 11
def Job.slen (j : Job) : Nat := j.w 12
def Job.dlen (j : Job) : Nat := j.w 13
def Job.idx (j : Job) : Nat := j.d 14
/-- NK, NP, D0, DESC, KT, the widths of a value and of a key in bytes, VIN, VOUT and TMP of a Caraway card. -/
def Job.nk (j : Job) : Nat := j.w 8
def Job.np (j : Job) : Nat := bits (j.w 9) 16 8
def Job.d0 (j : Job) : Nat := bits (j.w 9) 8 8
def Job.desc (j : Job) : Bool := bitN (j.w 9) 6
def Job.kt (j : Job) : Nat := bits (j.w 9) 4 2
def Job.vb (j : Job) : Nat := 4 * bits (j.w 9) 2 2
def Job.kb (j : Job) : Nat := 4 * (bits (j.w 9) 0 2 + 1)
def Job.vin (j : Job) : Nat := j.d 10
def Job.vout (j : Job) : Nat := j.d 12
def Job.tmp (j : Job) : Nat := j.d 14

/-! ### Footprints (R399) -/

/-- A range of global or of absolute scratch addresses. -/
structure ERange where
  scr : Bool
  base : Nat
  len : Nat
  deriving DecidableEq, Repr
def ERange.meets (a b : ERange) : Bool :=
  a.scr == b.scr && decide (0 < a.len ∧ 0 < b.len ∧ a.base < b.base + b.len ∧ b.base < a.base + a.len)
/-- NR rows of LB bytes. -/
def Job.rows (j : Job) (scr : Bool) (base stride : Nat) : ERange := ⟨scr, base, (j.nr - 1) * stride + j.lb⟩
def Job.indices (j : Job) : ERange := ⟨false, j.idx, 4 * j.nr⟩
/-- The read ranges. -/
def Job.reads (j : Job) : List ERange :=
  if j.caraway then ⟨j.sscr, j.src, j.kb * j.nk⟩ :: (if j.vb = 0 then [] else [⟨j.sscr, j.vin, j.vb * j.nk⟩])
  else if j.op = 0 then [j.rows j.sscr j.src j.sstr]
  else if j.op = 1 then [⟨j.sscr, j.src, j.slen⟩, j.indices]
  else if j.op = 2 then [j.rows j.sscr j.src j.sstr, j.indices]
  else []
/-- The write ranges. -/
def Job.writes (j : Job) : List ERange :=
  if j.caraway then
    ⟨j.dscr, j.dst, j.kb * j.nk⟩ :: ((if j.vb = 0 then [] else [⟨j.dscr, j.vout, j.vb * j.nk⟩]) ++
      [⟨j.dscr, j.tmp, (j.kb + j.vb) * j.nk⟩])
  else if j.op = 2 then [⟨j.dscr, j.dst, j.dlen⟩]
  else [j.rows j.dscr j.dst j.dstr]

/-! ### Malformed cards (R400) -/

/-- A range stays inside one half of the canonical space, or inside the scratch of core fields 0 to 30. -/
def ERange.fits (r : ERange) : Bool :=
  let last := r.base + r.len - 1
  r.len == 0 ||
    (if r.scr then decide (last < 2 ^ 25) && bits r.base 20 5 != 31 && bits last 20 5 != 31
     else decide (last < 2 ^ 64) && canonical (toD r.base) && canonical (toD last) && decide (r.base / 2 ^ 63 = last / 2 ^ 63))
/-- The fields of a CGE card are as its OP allows. -/
def Job.cgeOk (j : Job) : Bool :=
  let index := j.op == 1 || j.op == 2
  decide (j.op ≤ 3 ∧ bits (j.w 0) 12 4 = 0) && (j.op == 1 || j.op == 3 || j.slen == 0) && (j.op == 2 || j.dlen == 0) &&
  (index || j.idx == 0) && decide (j.dst % 4 = 0 ∧ j.dstr % 4 = 0 ∧ j.src % 4 = 0 ∧ j.sstr % 4 = 0) &&
  (!index || decide (j.idx % 4 = 0)) && decide (4 ≤ j.lb ∧ j.lb ≤ 2 ^ 20 ∧ j.lb % 4 = 0 ∧ 1 ≤ j.nr ∧ j.nr ≤ 2 ^ 24) &&
  j.reads.all fun r => j.writes.all fun w => !r.meets w
/-- The fields of a Caraway card are as R398 and R400 allow. -/
def Job.sortOk (j : Job) : Bool :=
  let w9 := j.w 9
  decide (j.op = 0x10 ∧ bits (j.w 0) 12 4 = 0 ∧ bits w9 24 8 = 0 ∧ bitN w9 7 = false ∧ j.kt ≠ 3 ∧ bits w9 2 2 ≠ 3 ∧ bits w9 0 2 ≤ 1) &&
  decide (1 ≤ j.nk ∧ j.nk ≤ 2 ^ 28 ∧ 1 ≤ j.np ∧ j.np ≤ 8 ∧ j.d0 + j.np ≤ j.kb) &&
  decide (j.src % j.kb = 0 ∧ j.dst % j.kb = 0 ∧ j.tmp % 4 = 0) &&
  (j.vb == 0 || decide (j.vin % j.vb = 0 ∧ j.vout % j.vb = 0)) &&
  (let k : ERange := ⟨j.dscr, j.dst, j.kb * j.nk⟩
   let v : ERange := ⟨j.dscr, j.vout, j.vb * j.nk⟩
   let t : ERange := ⟨j.dscr, j.tmp, (j.kb + j.vb) * j.nk⟩
   let ki : ERange := ⟨j.sscr, j.src, j.kb * j.nk⟩
   let vi : ERange := ⟨j.sscr, j.vin, j.vb * j.nk⟩
   !k.meets v && !k.meets t && !v.meets t && !(k.meets ki && j.dst != j.src) && !k.meets vi && !v.meets ki &&
     !(v.meets vi && j.vout != j.vin) && !t.meets ki && !t.meets vi)
def Job.malformed (j : Job) : Bool :=
  !(if j.caraway then j.sortOk else j.cgeOk) || !(j.reads.all ERange.fits) || !(j.writes.all ERange.fits) ||
    (j.co && j.d 2 % 16 != 0)

/-! ### The accesses of a job (R402, R405) -/

/-- Why a job cannot be carried out now, or ends. -/
inductive JobStop where
  /-- A fault for the host. -/
  | park (va cause : Nat) (write : Bool)
  /-- Status 1. -/
  | fault
  /-- A scratch word has no value yet, or its window is switched out. -/
  | wait
  deriving DecidableEq, Repr
/-- The translation of an engine's access, through the L2 TLB of its cluster and the walks there (R214). -/
def State.jobTranslate (s : State) (j : Job) (va : Nat) (write : Bool) (classes : List Nat) : Except JobStop (DWord × Nat) × State :=
  let stop := fun (c : Nat) (hs : Bool) => if hs ∧ (c = 4 ∨ c = 5) then JobStop.park va c write else .fault
  match s.walkFor j.cluster j.who.ctx va [] with
  | (.none_ hs _, s) => (.error (stop 4 hs), s)
  | (.leaf e, s) =>
    (match s.pteCause e va { write := write } with
     | some c => .error (stop c (pteHS e))
     | none => if pteClass e ∈ classes then .ok (e, ptePa e va) else .error .fault, s)
/-- The core and the offset of an absolute scratch address of a cluster. -/
def scrPlace (cluster a : Nat) : Nat × Nat := (cluster * 24 + bits a 20 5, bits a 0 20)
/-- A scratch range lies in one window of the context, resident on its core; core fields above 23 name no core (R168). -/
def State.jobRange (s : State) (j : Job) (r : ERange) : Option JobStop :=
  if !r.scr || r.len == 0 then none
  else if bits r.base 20 5 ≥ 24 then some .fault
  else
    let p := scrPlace j.cluster r.base
    if (s.windowAt p.1 p.2 r.len j.who.ctx).isSome then
      if mget (s.core p.1).res j.who.ctx = some .active then none else some .wait
    else if s.savedWin p.1 p.2 r.len j.who.ctx then some .wait
    else some .fault
/-- What stands behind a scratch word lets the job write it, or read it. -/
def State.jobBacked (s : State) (j : Job) (write : Bool) (core off : Nat) : Option JobStop × State :=
  let of := fun (r : Except JobStop (DWord × Nat) × State) => (match r.1 with | .error e => some e | .ok _ => none, r.2)
  match s.backing core off with
  | .plain => (none, s)
  | .zero => (if write then some .fault else none, s)
  | .index _ _ => (some (if write then .fault else .wait), s)
  | .noIndex _ _ => (some .fault, s)
  | .away => (some (if write then .fault else .wait), s)
  | .copy _ _ => (if write then some .fault else none, s)
  | .mem va ro => if write && ro then (some .fault, s) else of (s.jobTranslate j va write [0, 1])
/-- A word read: its value and its poison, with the time that an L-class line gives. -/
def State.jobRead (s : State) (j : Job) (scr : Bool) (a : Nat) : Except JobStop (Word × Bool × Nat) × State :=
  if scr then
    let p := scrPlace j.cluster a
    let k := (s.core p.1).scratch
    if s.validWord p.1 p.2 then
      (.ok (toW (leNat (Bytes.read k.bytes p.2 4)), mgetD k.poison (p.2 / 4) false, 0), s)
    else
      match s.jobBacked j false p.1 p.2 with
      | (some e, s) => (.error e, s)
      | (none, s) => (.error .wait, s)
  else
    match s.jobTranslate j a false [0, 1, 2, 3] with
    | (.error e, s) => (.error e, s)
    | (.ok (e, pa), s) =>
      let r := s.agentLine j.who.ctx (lineAddr pa)
      (.ok (r.1.1.extractLsb' (8 * (pa % 64)) 32, r.1.2.getLsbD (pa % 64 / 4),
        if pteClass e = 1 then (r.2.sline (lineAddr pa)).wts else 0), r.2)
/-- Words read in order, with the latest of their times. -/
def State.jobReads (s : State) (j : Job) (scr : Bool) : List Nat → Except JobStop (List (Word × Bool) × Nat) × State
  | [] => (.ok ([], 0), s)
  | a :: t =>
    match s.jobRead j scr a with
    | (.error e, s) => (.error e, s)
    | (.ok (w, p, n), s) =>
      match State.jobReads s j scr t with
      | (.error e, s) => (.error e, s)
      | (.ok (l, m), s) => (.ok ((w, p) :: l, max n m), s)
/-- A word can be written. -/
def State.jobMay (s : State) (j : Job) (scr : Bool) (a : Nat) : Option JobStop × State :=
  if scr then
    match s.jobRange j ⟨true, a, 4⟩ with
    | some e => (some e, s)
    | none => let p := scrPlace j.cluster a; s.jobBacked j true p.1 p.2
  else
    match s.jobTranslate j a true [0, 1, 2, 3] with
    | (.error e, s) => (some e, s)
    | (.ok _, s) => (none, s)
/-- The first word of a list that cannot be written. -/
def State.jobMays (s : State) (j : Job) (scr : Bool) : List Nat → Option JobStop × State
  | [] => (none, s)
  | a :: t => match s.jobMay j scr a with | (some e, s) => (some e, s) | (none, s) => State.jobMays s j scr t
/-- A word written with its poison, where it may be; the time of the write is kept in the job. -/
def State.jobWrite (s : State) (j : Job) (scr : Bool) (a : Nat) (v : Word) (p : Bool) : Job × State :=
  if scr then
    let q := scrPlace j.cluster a
    (j, (s.putSpan q.1 q.2 (leBytes 4 v.toNat) [p]).finishTouches q.1)
  else
    match s.jobTranslate j a true [0, 1, 2, 3] with
    | (.error _, s) => (j, s)
    | (.ok (e, pa), s) =>
      let m := placeBytes (pa % 64) (leBytes 4 v.toNat)
      let s := s.agentStore j.who.ctx (lineAddr pa) (pteClass e) m.1 m.2 (if p then BitVec.allOnes 16 else 0) j.pts
      (if pteClass e = 1 then { j with pts := max j.pts (s.sline (lineAddr pa)).wts } else j, s)
def State.jobWrites (s : State) (j : Job) (scr : Bool) : List (Nat × Word × Bool) → Job × State
  | [] => (j, s)
  | (a, v, p) :: t => let r := s.jobWrite j scr a v p; State.jobWrites r.2 r.1 scr t
/-- The words of a range. -/
def wordsFrom (a n : Nat) : List Nat := (List.range (n / 4)).map fun i => a + 4 * i
/-! ### The operations (R403, R404) -/

/-- What a job does: word addresses to read, and where each value goes. -/
structure Moves where
  src : List Nat
  dst : List Nat
/-- The words of row r of a CGE job, from a to b. -/
def Job.rowMoves (j : Job) (a b : Nat) : List (Nat × Nat) := (wordsFrom a j.lb).zip (wordsFrom b j.lb)
/-- The first row whose index passes the bound. -/
def badRow (idx : List Nat) (stride lb bound : Nat) : Option Nat :=
  (List.range idx.length).find? fun r => decide (idx.getD r 0 * stride + lb > bound)
/-- The rows of COPY, GATHER and SCATTER, from the indices. -/
def Job.moves (j : Job) (idx : List Nat) : List (Nat × Nat) :=
  (List.range j.nr).flatMap fun r =>
    let i := idx.getD r r
    j.rowMoves (j.src + (if j.op = 2 then r else i) * j.sstr) (j.dst + (if j.op = 2 then i else r) * j.dstr)
/-- The sort value of a key (R404). -/
def sortValue (kt z k : Nat) : Nat :=
  let top := 2 ^ (8 * z - 1)
  if kt = 0 then k
  else if kt = 1 then k ^^^ top
  else if k.testBit (8 * z - 1) then (2 ^ (8 * z) - 1) ^^^ k else k ^^^ top
/-- The sort field of a key. -/
def Job.field (j : Job) (k : Nat) : Nat := bits (sortValue j.kt j.kb k) (8 * j.d0) (8 * j.np)
/-- Stable insertion: x, which stood before every element of a sorted list, put among them. -/
def insertBy (le : Nat × Nat → Nat × Nat → Bool) (x : Nat × Nat) : List (Nat × Nat) → List (Nat × Nat)
  | [] => [x]
  | y :: t => if le x y then x :: y :: t else y :: insertBy le x t
/-- The order of the elements: (field, index) pairs. -/
def Job.order_ (j : Job) (keys : List Nat) : List Nat :=
  let le := fun (a b : Nat × Nat) => if j.desc then decide (b.1 ≤ a.1) else decide (a.1 ≤ b.1)
  (((keys.map j.field).zip (List.range keys.length)).foldr (insertBy le) []).map Prod.snd
/-- Elements of n words each. -/
def chunks : Nat → Nat → List (Word × Bool) → List (List (Word × Bool))
  | 0, _, _ => []
  | k + 1, n, l => l.take n :: chunks k n (l.drop n)
/-- The number in the words of an element. -/
def elemNat (l : List (Word × Bool)) : Nat := l.foldr (fun w n => w.1.toNat + 2 ^ 32 * n) 0

/-- The indices of a GATHER or SCATTER; the value of a poisoned index is not stated. -/
def State.jobIndices (s : State) (l : List (Word × Bool)) : List Nat × State :=
  l.foldl (fun (r : List Nat × State) w =>
    if w.2 then let f := r.2.free; (r.1 ++ [f.1.toNat], f.2) else (r.1 ++ [w.1.toNat], r.2)) ([], s)
/-- The first row whose index passes its bound. -/
def Job.badIndex (j : Job) (idx : List Nat) : Option Nat :=
  if j.op = 1 then badRow idx j.sstr j.lb j.slen else if j.op = 2 then badRow idx j.dstr j.lb j.dlen else none
/-- The words of the keys of a SORT that are not read poisoned: no other key is moved (R404). -/
def State.goodKeys (s : State) (j : Job) : List Nat :=
  (List.range j.nk).flatMap fun i =>
    let ws := wordsFrom (j.src + j.kb * i) j.kb
    if ws.any fun a => (match (s.jobRead j j.sscr a).1 with | .ok (_, p, _) => p | .error _ => false) then [] else ws
/-- The places that a job writes, each with the words of which one goes there at some time; a FILL has none, and writes its
pattern. A GATHER or SCATTER reads all indices first, and writes nothing before that, or where one passes its bound (R403). -/
def State.jobPlaces (s : State) (j : Job) : List (Nat × Option (List Nat)) × State :=
  if j.caraway then
    let k := s.goodKeys j
    let v := if j.vb = 0 then [] else wordsFrom j.vin (j.vb * j.nk)
    ((wordsFrom j.dst (j.kb * j.nk)).map (fun a => (a, some k)) ++
      (if j.vb = 0 then [] else (wordsFrom j.vout (j.vb * j.nk)).map fun a => (a, some v)) ++
      (wordsFrom j.tmp ((j.kb + j.vb) * j.nk)).map fun a => (a, some (k ++ v)), s)
  else if j.op = 3 then ((List.range j.nr).flatMap fun r => (wordsFrom (j.dst + r * j.dstr) j.lb).map fun a => (a, none), s)
  else
    match s.jobReads j false (if j.op = 0 then [] else wordsFrom j.idx (4 * j.nr)) with
    | (.error _, s) => ([], s)
    | (.ok (ws, _), s) =>
      let q := s.jobIndices ws
      (if (j.badIndex q.1).isSome then [] else (j.moves q.1).map fun p => (p.2, some [p.1]), q.2)
/-- A job that ends early: each word that it writes holds its old value or one that the job wrote, and which is not stated (R404,
R405, R408). -/
def State.jobPart (s : State) (j : Job) : Job × State :=
  let ps := s.jobPlaces j
  ps.1.foldl (fun (r : Job × State) (p : Nat × Option (List Nat)) =>
    let f := r.2.free; let g := f.2.free
    if f.1.getLsbD 0 = false then (r.1, g.2)
    else
      let v : Option (Word × Bool) × State := match p.2 with
        | none => (some (toW j.slen, false), g.2)
        | some [] => (none, g.2)
        | some src => match g.2.jobRead r.1 j.sscr (src.getD (g.1.toNat % src.length) 0) with
          | (.ok (w, b, _), s) => (some (w, b), s)
          | (.error _, s) => (none, s)
      match v with
      | (none, s) => (r.1, s)
      | (some (w, b), s) =>
        match s.jobMay r.1 j.dscr p.1 with
        | (some _, s) => (r.1, s)
        | (none, s) => s.jobWrite r.1 j.dscr p.1 w b) (j, ps.2)

/-- How a job ends: its status, its word 1, the job with its time, and the state. -/
inductive JobEnd where
  | done (status word1 : Nat) (j : Job) (s : State)
  | park (va cause : Nat) (write : Bool) (s : State)
  | wait
/-- A job that stops. -/
def JobStop.ends (e : JobStop) (j : Job) (s : State) : JobEnd :=
  match e with
  | .park va c w => .park va c w s
  | .fault => let r := s.jobPart j; .done 1 0 r.1 r.2
  | .wait => .wait
/-- Values moved to their places. -/
def State.jobStore (s : State) (j : Job) (dst : List Nat) (vals : List (Word × Bool)) (word1 t : Nat) (more : Job × State → Job × State) :
    JobEnd :=
  match s.jobMays j j.dscr dst with
  | (some e, s) => e.ends j s
  | (none, s) =>
    let r := more (s.jobWrites { j with pts := max j.pts t } j.dscr ((dst.zip vals).map fun p => (p.1, p.2.1, p.2.2)))
    .done 0 word1 r.1 r.2
/-- A CGE job. -/
def State.runCge (s : State) (j : Job) : JobEnd :=
  if j.op = 3 then
    let dst := (List.range j.nr).flatMap fun r => wordsFrom (j.dst + r * j.dstr) j.lb
    s.jobStore j dst (dst.map fun _ => (toW j.slen, false)) j.nr 0 id
  else
    let index := j.op = 1 ∨ j.op = 2
    match s.jobReads j false (if index then wordsFrom j.idx (4 * j.nr) else []) with
    | (.error e, s) => e.ends j s
    | (.ok (ws, t), s) =>
      let (idx, s) := s.jobIndices ws
      match j.badIndex idx with
      | some r => .done 2 r j s
      | none =>
        let ms := j.moves idx
        match s.jobReads j j.sscr (ms.map Prod.fst) with
        | (.error e, s) => e.ends j s
        | (.ok (vals, u), s) => s.jobStore j (ms.map Prod.snd) vals j.nr (max t u) id
/-- A SORT. -/
def State.runSort (s : State) (j : Job) : JobEnd :=
  let kw := j.kb / 4; let vw := j.vb / 4
  match s.jobReads j j.sscr (wordsFrom j.src (j.kb * j.nk)) with
  | (.error e, s) => e.ends j s
  | (.ok (ks, t), s) =>
    if ks.any Prod.snd then let r := s.jobPart j; .done 4 0 r.1 r.2
    else
      match s.jobReads j j.sscr (if j.vb = 0 then [] else wordsFrom j.vin (j.vb * j.nk)) with
      | (.error e, s) => e.ends j s
      | (.ok (vs, u), s) =>
        let keys := chunks j.nk kw ks
        let vals := chunks j.nk vw vs
        let order := j.order_ (keys.map elemNat)
        let out := order.flatMap (fun i => keys.getD i []) ++ (if j.vb = 0 then [] else order.flatMap fun i => vals.getD i [])
        let dst := wordsFrom j.dst (j.kb * j.nk) ++ (if j.vb = 0 then [] else wordsFrom j.vout (j.vb * j.nk))
        let tmp := wordsFrom j.tmp ((j.kb + j.vb) * j.nk)
        match s.jobMays j j.dscr tmp with
        | (some e, s) => e.ends j s
        | (none, s) =>
          s.jobStore j dst out j.nk (max t u) fun r =>
            tmp.foldl (fun (r : Job × State) a =>
              let f := r.2.free; let g := f.2.free; g.2.jobWrite r.1 j.dscr a f.1 (g.1.getLsbD 0)) r
/-- The rows of the row stack that a job reads, or writes, by the class of their pages and by their place (R205, R217). -/
def State.jobRows (s : State) (j : Job) : List (Nat × Bool) :=
  let ps := (s.jobPlaces j).1
  let reads := (if j.op = 1 ∨ j.op = 2 then wordsFrom j.idx (4 * j.nr) else []) ++
    (if j.sscr then [] else ps.flatMap fun p => p.2.getD [])
  let row := fun (a : Nat) (w : Bool) => match (s.jobTranslate j a w [2, 3]).1 with
    | .ok (_, pa) => if s.place pa == .row && !s.otherPkg pa then some (pa / 8192 * 8192, w) else none
    | .error _ => none
  ((reads.filterMap fun a => row a false) ++ (if j.dscr then [] else ps.filterMap fun p => row p.1 true)).eraseDups
/-- A job carried out whole, once its scratch ranges are there. -/
def State.runJob (s : State) (j : Job) : JobEnd :=
  match (j.reads ++ j.writes).findSome? fun r => s.jobRange j r with
  | some e => e.ends j s
  | none => if j.caraway then s.runSort j else s.runCge j

/-! ### Completion (R406, R407) -/

/-- The arrival at COMP. -/
def State.jobArrive (s : State) (j : Job) : State :=
  if !j.co then s
  else
    let x := j.who.ctx
    let lost := fun (s : State) => s.postEvent x 2 0 0 j.tag (j.d 2)
    match s.compPlace x (toD (j.d 2)) with
    | (none, s) => lost s
    | (some pa, s) =>
      let (g, s) := s.compGet x pa 0
      if g ≠ j.w 1 then lost s
      else s.compAdd x pa j.pts
/-- One mapped scratch word that the job has written is written back, as a store of the submitting context. -/
def State.jobFlushWord (j : Job) (s : State) (core off : Nat) : Job × State :=
  match mget (s.core core).scratch.words (off / 4), s.backing core off with
  | some w, .mem va false =>
    if w.st ≠ .dirty then (j, s)
    else
      match s.jobTranslate j va true [0, 1] with
      | (.error _, s) => (j, s)
      | (.ok (e, pa), s) =>
        let k := (s.core core).scratch
        let m := placeBytes (pa % 64) (Bytes.read k.bytes off 4)
        let bad := mgetD k.poison (off / 4) false
        let s := s.agentStore j.who.ctx (lineAddr pa) (pteClass e) m.1 m.2 (if bad then BitVec.allOnes 16 else 0) j.pts
        let l := pteClass e = 1
        (if l then { j with pts := max j.pts (s.sline (lineAddr pa)).wts } else j,
         (s.bump core .swbw).setWord core off
           { st := .clean, share := if l then none else some pa, lcl := decide l, va := if l then va else 0 })
  | _, _ => (j, s)
/-- The writes of a job to mapped scratch are performed at scope 5 before it completes (R256, R406). -/
def State.jobFlush (s : State) (j : Job) : Job × State :=
  ((j.writes.filter fun r => r.scr).flatMap fun r => wordsFrom r.base r.len).foldl
    (fun (q : Job × State) a => let p := scrPlace j.cluster a; State.jobFlushWord q.1 q.2 p.1 p.2) (j, s)
/-- The three acts of completion, in their order; the card leaves the scheduler and its edges go. -/
def State.endJob (s : State) (id : Nat) (j : Job) (status word1 : Nat) : State :=
  let q := if status = 0 then s.jobFlush j else (j, s)
  let j := q.1
  let s := (q.2.raiseFloor j.who.ctx j.pts).jobArrive j
  let s := if status = 0 then s else s.postEvent j.who.ctx 7 status 0 j.tag
  let s := if j.cq then s.modCluster j.cluster fun k => { k with comps := k.comps ++
      [⟨j.who.ctx, j.who.core, j.who.slot, j.caraway, toD (2 ^ 32 * word1 + 2 ^ 16 * j.tag + status), j.pts⟩] } else s
  { s with fly := { s.fly with jobs := mall (mdel s.fly.jobs id) fun _ k => { k with edges := k.edges.filter fun e => e ≠ id } } }

/-! ### The events of the scheduler (R401, R402, R405) -/

def State.setJob (s : State) (id : Nat) (j : Job) : State := { s with fly := { s.fly with jobs := mset s.fly.jobs id j } }
/-- A later card has an edge to an earlier one. -/
def Job.edgeTo (j i : Job) : Bool :=
  (i.writes.any fun w => j.reads.any fun r => w.meets r) || (i.reads.any fun r => j.writes.any fun w => r.meets w) ||
    i.writes.any fun w => j.writes.any fun v => w.meets v
/-- ENGINE_CARD_ENTRY: a pushed card enters its cluster's scheduler; a malformed one completes at once. -/
def execEngineCardEntry (id : Nat) (s : State) : Out :=
  match mget s.fly.jobs id with
  | none => .refused .eventNotDue
  | some j =>
    if j.st ≠ .entering ∨ (s.fly.jobs.any fun p => decide (p.1 < id ∧ p.2.cluster = j.cluster ∧ p.2.st = .entering)) = true then
      .refused .eventNotDue
    else
      let s := s.bumpK j.cluster .engjob
      if j.malformed then .next (s.endJob id j 3 0)
      else
        let es := (s.fly.jobs.filter fun p => decide (p.2.cluster = j.cluster ∧ p.2.who.ctx = j.who.ctx ∧ p.2.st ≠ .entering) &&
          j.edgeTo p.2).map Prod.fst
        .next ((s.bumpK j.cluster .engedge es.length).fresh.setJob id { j with st := .queued, edges := es, order := s.nextId })
/-- The scratch words that a job reads are filled, while the cores have room (R177, R179). -/
def State.jobFills (s : State) (j : Job) : State :=
  j.reads.foldl (fun s r =>
    if !r.scr || (s.jobRange j r).isSome then s
    else
      (wordsFrom r.base r.len).foldl (fun s a =>
        let p := scrPlace j.cluster a
        s.touchWord none [] p.1 p.2) s) s
/-- The jobs that an engine runs at once. -/
def engineRoom (caraway : Bool) : Nat := if caraway then 1 else 8
/-- A running job asks for the fills of its scratch words and for the rows that have not served it. -/
def State.jobAsks (s : State) (id : Nat) (j : Job) : State :=
  let j := { j with st := .running, wants := (s.jobRows j).filter (· ∉ j.seen) }
  (s.setJob id j).jobFills j
/-- ENGINE_JOB_START: the engine takes its first ready job, or asks again for what the job needs. -/
def execEngineJobStart (id : Nat) (s : State) : Out :=
  match mget s.fly.jobs id with
  | none => .refused .eventNotDue
  | some j =>
    let mine := fun (p : Nat × Job) => decide (p.2.cluster = j.cluster ∧ p.2.caraway = j.caraway)
    if j.st = .running then
      let t := s.jobAsks id j
      if t.fly.fills.length = s.fly.fills.length ∧ mget t.fly.jobs id = some j then .refused .eventNotDue else .next t
    else if j.st ≠ .queued ∨ j.edges ≠ [] ∨ (s.fly.jobs.filter fun p => mine p && p.2.st == .running).length ≥ engineRoom j.caraway ∨
        (s.fly.jobs.any fun p => mine p && p.2.st == .queued && p.2.edges == [] && decide (p.2.order < j.order)) = true then
      .refused .eventNotDue
    else .next (s.jobAsks id j)
/-- Keys that the passes of a SORT moved; how many a SORT that ended early moved is not stated (R417). -/
def State.keysMoved (s : State) (j : Job) (status : Nat) : State :=
  if !j.caraway then s
  else if status = 0 then s.bumpK j.cluster .carkeyp (j.nk * j.np)
  else let f := s.free; f.2.bumpK j.cluster .carkeyp (f.1.toNat % (j.nk * j.np + 1))
/-- ENGINE_JOB_COMPLETE: a running job is carried out and completes, or parks for the host. -/
def execEngineJobComplete (id : Nat) (s : State) : Out :=
  match mget s.fly.jobs id with
  | none => .refused .eventNotDue
  | some j =>
    if j.st ≠ .running ∨ (s.jobRows j).any (· ∉ j.seen) = true then .refused .eventNotDue
    else
      match s.runJob j with
      | .wait => .refused .eventNotDue
      | .park va c w s =>
        let f : FaultRec := ⟨toD va, toD j.tag, c, 2, w, 24 * j.cluster, 0, s.token j.who.ctx⟩
        .next ((s.setJob id { j with st := .parked f.token, wants := [] }).fresh.postFault j.who.ctx f (.job id))
      | .done st w1 k s => .next ((s.keysMoved j st).endJob id k st w1)

/-! ### QPUSH and QPOP (R396, R397, R409) -/

/-- A queue operation that cannot proceed: cd := 0, or a wait (R64). -/
def queueStuck (s : State) (x : Ex) (nb : Bool) (cd : BitVec 3) (w : Wait) : Out :=
  if nb then .next (s.done x 4 fun g => g.modUni fun u => u.setC cd false) else waitOn s x w
/-- One that proceeds: cd := 1 under nb. -/
def queueDone (s : State) (x : Ex) (nb : Bool) (cd : BitVec 3) (f : Uniform → Uniform) : Out :=
  .next (s.done x 4 fun g => g.modUni fun u => if nb then (f u).setC cd true else f u)
/-- Records of a group in a completion register. -/
def State.recordsOf (s : State) (x : Ex) (caraway : Bool) : List CompRec :=
  (s.cluster (clusterOf x.core)).comps.filter fun r =>
    decide (r.ctx = x.gr.ctx ∧ r.core = x.core ∧ r.slot = x.slot ∧ r.caraway = caraway)
/-- The group's cards with CQ = 1 whose records it has not popped. -/
def State.unpopped (s : State) (x : Ex) (caraway : Bool) : Nat :=
  (s.fly.jobs.filter fun p => p.2.cq && decide (p.2.who.ctx = x.gr.ctx ∧ p.2.who.core = x.core ∧ p.2.who.slot = x.slot ∧
    p.2.caraway = caraway)).length + (s.recordsOf x caraway).length
/-- The scheduler of a cluster has a free entry. -/
def State.engineFree (s : State) (cluster : Nat) : Bool :=
  decide ((s.fly.jobs.filter fun p => decide (p.2.cluster = cluster)).length < 128)
/-- A scratch access of the group is not performed. -/
def State.scratchOut (s : State) (uid : Nat) : Bool := s.fly.touches.any fun t => decide (t.2.who.uid = uid)
/-- QPUSH of a job card. -/
def pushesCard : Instr → Bool
  | .qpush o => decide (o.q.toNat < 12)
  | _ => false
/-- A QPUSH of a card that the group issued earlier has not entered its card: cards of one group enter in issue order (R401). -/
def State.cardBefore (s : State) (x : Ex) : Bool :=
  x.gr.splits.any fun e => (e.2.going || e.2.st.waits) &&
    (match e.2.latch with | some l => decide (l.seq < x.seq s.nextId) && pushesCard l.instr | none => false)
/-- A card is pushed after the release over its footprint (R266). -/
def pushCard (s : State) (x : Ex) (caraway nb : Bool) (cd : BitVec 3) (a : Nat) : Out :=
  let j : Job := { cluster := clusterOf x.core, caraway := caraway, card := (List.range 16).map fun i => x.uni.sr (a + i),
                   who := x.owner s.nextId, st := .entering }
  if s.cardBefore x then queueStuck s x nb cd .poll
  else if !s.engineFree j.cluster then queueStuck s x nb cd .pollEng
  else if j.cq ∧ s.unpopped x caraway ≥ 16 then queueStuck s x nb cd .poll
  else if (j.sscr || j.dscr) && s.scratchOut x.gr.uid then hold s
  else
    released s x 4 { ranges := some (((j.reads ++ j.writes).filter fun r => !r.scr).map fun r => (r.base, r.len))
                     scr := ((j.reads ++ j.writes).filter fun r => r.scr).map fun r =>
                       let p := scrPlace j.cluster r.base; (p.1, p.2, r.len) } fun s =>
      queueDone (s.fresh.setJob s.nextId { j with pts := s.pts x.core x.gr.ctx }) x nb cd fun u => u
/-- What a group that acquires from another takes over: the time, and the mapped words to be fetched anew (R182, R246). -/
def State.acquired (s : State) (x : Ex) (pts : Nat) : State :=
  (s.raisePts x.core x.gr.ctx pts).acquireWords x.core x.gr.blk Cover.all
/-- The oldest record of a completion register is popped. -/
def popRecord (s : State) (x : Ex) (caraway : Bool) (o : QpoO) : Out :=
  match s.recordsOf x caraway with
  | [] => queueStuck s x o.nb o.cd .poll
  | r :: _ =>
    let s := s.modCluster (clusterOf x.core) fun k => { k with comps := k.comps.erase r }
    queueDone (s.acquired x r.pts) x o.nb o.cd fun u => u.setPair o.a.toNat r.val
/-- The log2 of the entries of a mailbox, 0 for size 0, and the mailbox. -/
def State.mailLog (s : State) (x : Ex) (m : Nat) : Nat := (mgetD (s.ctx x.gr.ctx).mbx (4 * clusterOf x.core + m) {}).log
def State.mailBase (s : State) (x : Ex) (m : Nat) : Nat := (mgetD (s.ctx x.gr.ctx).mbx (4 * clusterOf x.core + m) {}).base
def State.mail (s : State) (x : Ex) (m : Nat) : List Mail := mgetD (s.cluster (clusterOf x.core)).mail (4 * x.gr.ctx + m) []
def State.setMail (s : State) (x : Ex) (m : Nat) (l : List Mail) : State :=
  (s.bumpK (clusterOf x.core) .mbxop).modCluster (clusterOf x.core) fun k => { k with mail := mput [] k.mail (4 * x.gr.ctx + m) l }
/-- A value put at the tail of a mailbox, in the entry of its ring in memory too (R409). -/
def State.postMail (s : State) (x : Ex) (m : Nat) (v : DWord) : State :=
  let k := 4 * x.gr.ctx + m
  let n := mgetD (s.cluster (clusterOf x.core)).mailed k 0
  let s := (s.agentWrite x.gr.ctx { priv := true } [0] (s.mailBase x m + 8 * (n % 2 ^ s.mailLog x m)) (leBytes 8 v.toNat)).2
  let s := s.modCluster (clusterOf x.core) fun u => { u with mailed := mset u.mailed k (n + 1) }
  s.setMail x m (s.mail x m ++ [⟨v, s.pts x.core x.gr.ctx⟩])
/-- What both mailbox forms do first: cause 0x0F at size 0, and the wait for earlier synchronisation accesses (R241). -/
def mailbox (s : State) (x : Ex) (m : Nat) (k : Out) : Out :=
  if s.mailLog x m = 0 then trapAt s x 0x0F x.sp.mask 0 4
  else if s.acqBusy x || s.syncBusy x then hold s
  else k
def pushMail (s : State) (x : Ex) (m : Nat) (o : QpuO) : Out :=
  mailbox s x m (
    if (s.mail x m).length ≥ 2 ^ s.mailLog x m then queueStuck s x o.nb o.cd .poll
    else
      released s x 4 Cover.all fun s =>
        queueDone (s.postMail x m (x.uni.pair o.a.toNat)) x o.nb o.cd fun u => u)
def popMail (s : State) (x : Ex) (m : Nat) (o : QpoO) : Out :=
  mailbox s x m (
    match s.mail x m with
    | [] => queueStuck s x o.nb o.cd .poll
    | v :: t => queueDone ((s.setMail x m t).acquired x v.pts) x o.nb o.cd fun u => u.setPair o.a.toNat v.val)
def execQpush (o : QpuO) (s : State) : Out :=
  onSplit s fun x =>
    if o.q = 8 then pushCard s x false o.nb o.cd o.a.toNat
    else if o.q = 10 then pushCard s x true o.nb o.cd o.a.toNat
    else pushMail s x (o.q.toNat - 12) o
def execQpop (o : QpoO) (s : State) : Out :=
  onSplit s fun x =>
    if o.q = 9 then popRecord s x false o
    else if o.q = 11 then popRecord s x true o
    else popMail s x (o.q.toNat - 12) o

end Sys2Proof.Machine
end

