-- ==== Sys2Proof/Machine/Messages.lean ====
section
/-! DEFINITION. Messages: SEND and MCAST, their arrival at cores, and posted receives (spec 14 R410 to R416). -/
namespace Sys2Proof.Machine

/-! ### Destinations (R410, R414) -/

/-- The core at a snake position: the map is its own inverse. -/
def snakeCore (p : Nat) : Nat := snakePos p
/-- The destination words of a multicast word, in snake order. -/
def mcastDests (w : Nat) : List Nat :=
  ((List.range 24).map snakeCore).filterMap fun c =>
    if w.testBit c then some (256 * bits w 27 1 + 24 * bits w 24 3 + c) else none
/-- A destination word names a core of a package that is there. -/
def State.destOk (s : State) (w : Nat) : Bool :=
  decide (w < 512 ∧ bits w 0 8 < 192) && (!bitN w 8 || decide (s.dev.pair ≠ 0))
def State.mcastOk (s : State) (w : Nat) : Bool := decide (w < 2 ^ 28) && (!bitN w 27 || decide (s.dev.pair ≠ 0))
/-- A destination lies on the other package. -/
def State.destAway (s : State) (d : Nat) : Bool := decide (d / 256 ≠ s.dev.pkg)
/-- A destination lies on the lost side (R435, R452). -/
def State.destLost (s : State) (ctx d : Nat) : Bool := s.destAway d && (s.dev.pair == 3 || (s.ctx ctx).peerLost)

/-! ### The payload -/

/-- The words of the source span are checked as a load's would be (R176); a fault, a wait, or every word is there. -/
def State.spanChecks (s : State) (x : Ex) (core : Nat) : List Nat → ScrChk × State
  | [] => (.ok core 0, s)
  | o :: t =>
    match s.backCheck x.gr.ctx x.waiter o false 3 core o with
    | (.ok _ _, s) => State.spanChecks s x core t
    | r => r
/-- A word of a payload is poisoned when a word of its source is. -/
def spanPoison (p : Poison) (off n : Nat) : List Bool :=
  (List.range (n / 4)).map fun i => (wordOffs (off + 4 * i) 4).any fun o => mgetD p (o / 4) false
/-- A payload read from scratch once every word of it is there. -/
def readSpan (s : State) (x : Ex) (core off n : Nat) (k : List Byte → List Bool → State → Out) : Out :=
  match s.spanChecks x core (wordOffs off n) with
  | (.bad c h a b, s) => scrFault s x c h false x.sp.mask a b
  | (.hold, s) => hold s
  | (.away, s) => waitOn s x .poll
  | (.ok _ _, s) =>
    if s.validRange core off n then
      let m := (s.core core).scratch
      k (Bytes.read m.bytes off n) (spanPoison m.poison off n) s
    else if s.fillsFull core n [⟨0, off, 0, 0⟩] then hold s
    else hold (s.touchRange none [] core off n)

/-! ### SEND and MCAST (R412, R413) -/

/-- SEND or MCAST with the destinations that it names. -/
def opSend (mc : Bool) (o : SendO) (s : State) : Out :=
  onSplit s fun x =>
    let u := x.uni
    let w := (u.sr o.a.toNat).toNat
    let v := (u.sr (o.a.toNat + 1)).toNat
    let n := bits v 0 16
    let src := (u.sr o.b.toNat).toNat
    let dests := if mc then mcastDests w else [w]
    let ok := fun (s : State) => if mc then s.mcastOk w else s.destOk w
    if !ok s then trapAt s x 0x0F x.sp.mask 0 1
    else if n < 4 ∨ n > 256 ∨ n % 4 ≠ 0 then trapAt s x 0x0F x.sp.mask (toW n) 2
    else
      match s.scrAddr x.scr src n with
      | .bad r => trapAt s x 9 x.sp.mask (toW src) (toW r)
      | .away => waitOn s x .poll
      | .at_ core off =>
        if dests = [] then queueDone s x o.nb o.cd fun u => u
        else if dests.any fun d => s.destLost x.gr.ctx d then trapAt s x 0x0F x.sp.mask 0 5
        else if s.acqBusy x then hold s
        else
          readSpan s x core off n fun _ _ s =>
            released s x 6 Cover.all fun s =>
              readSpan s x core off n fun bs ps s =>
                let msg : Msg := { port := o.q.toNat, tag := bits v 16 16, payload := bs, poison := ps, ctx := x.gr.ctx,
                                   src := 256 * s.dev.pkg + x.core, pts := s.pts x.core x.gr.ctx }
                let id := s.nextId
                let f : MsgFlight := { who := x.owner id, msg := msg, dests := dests, nb := o.nb, cd := o.cd.toNat }
                waitOn { s.fresh with fly := { s.fly with sends := mset s.fly.sends id f } } x (.msg id)
def execSend (o : SendO) (s : State) : Out := opSend false o s
def execMcast (o : SendO) (s : State) : Out := opSend true o s

/-! ### Receives (R411, R415) -/

/-- A message matches a receive. -/
def Recv.matches_ (r : Recv) (m : Msg) : Bool :=
  decide (r.ctx = m.ctx ∧ r.port = m.port) && (r.rtag ^^^ m.tag) &&& r.rmask == 0 && r.matched.isNone &&
    (r.filter.getLsbD 31 || decide (r.filter.toNat % 512 = m.src))
/-- A receive may write a word of its buffer: plain scratch, or a word of a read-write mapping. -/
def State.bufferWord (s : State) (core off ctx : Nat) : Bool :=
  (s.windowAt core off 1 ctx).isSome && (match s.backing core off with | .plain => true | .mem _ ro => !ro | _ => false)
/-- A payload put into a buffer, as SST writes it, with its poison. -/
def State.putPayload (s : State) (ctx core off : Nat) (bs : List Byte) (ps : List Bool) : State :=
  let n := bs.length
  let s := (wordOffs off n).foldl (fun s o =>
    if s.bufferWord core o ctx then
      let lo := max off o
      s.storeScr core lo ((bs.drop (lo - off)).take (min (off + n) (o + 4) - lo))
    else s) s
  let s := ((List.range (n / 4)).filter fun i => ps.getD i false).foldl (fun s i =>
    (wordOffs (off + 4 * i) 4).foldl (fun s o => if s.bufferWord core o ctx then s.setScrPoison core o true else s) s) s
  s.finishTouches core
def State.modMsgs (s : State) (core : Nat) (f : MsgCore → MsgCore) : State := s.modCore core fun k => { k with msgs := f k.msgs }
/-- A message is written into the buffer of a receive. -/
def State.receive (s : State) (core n : Nat) (r : Recv) (m : Msg) : State :=
  let p := scrPlace (clusterOf core) r.buf
  let k := min r.cap m.payload.length
  let s := s.putPayload r.ctx p.1 p.2 (m.payload.take k) (m.poison.take (k / 4))
  let s := if m.payload.length > r.cap then s.bump core .msgtrunc else s
  s.modMsgs core fun t => { t with recvs := mset t.recvs n { r with matched := some m } }
/-- The buffer of a receive lies in a window whose block is switched out: the write waits for it, as an SST would (R172, R411). -/
def State.bufferAway (s : State) (core : Nat) (r : Recv) : Bool :=
  s.scrAddr ⟨core, r.blk, r.ctx⟩ r.buf r.cap == .away
/-- The oldest receive of a core that a message matches. -/
def MsgCore.first (t : MsgCore) (m : Msg) : Option (Nat × Recv) :=
  (t.recvs.filter fun r => r.2.matches_ m).foldl (fun b r =>
    match b with
    | none => some r
    | some q => if r.2.order < q.2.order then some r else some q) none
/-- A message arrives at a core of this package: accepted or refused. -/
def State.arrive (s : State) (core : Nat) (m : Msg) : Bool × State :=
  if mget (s.core core).res m.ctx ≠ some .active then (false, s.bump core .msgref)
  else
    match (s.core core).msgs.first m with
    | some (n, r) => (true, (s.bump core .msgacc).receive core n r m)
    | none =>
      if (s.core core).msgs.overflow.length ≥ 64 then (false, s.bump core .msgref)
      else (true, ((s.bump core .msgacc).bump core .msgovf).modMsgs core fun t => { t with overflow := t.overflow ++ [m] })

/-! ### The way of a message (R413) -/

def State.dropSend (s : State) (id : Nat) : State := { s with fly := { s.fly with sends := mdel s.fly.sends id } }
/-- SEND or MCAST completes, with what cd becomes. -/
def State.endSend (s : State) (id : Nat) (f : MsgFlight) (ok : Bool) : State :=
  let s := s.dropSend id
  match s.exAt f.who.core f.who.slot f.who.entry with
  | none => s
  | some x =>
    if x.gr.uid ≠ f.who.uid then s
    else s.done x 4 fun g => (g.ready x.entry).modUni fun u => if f.nb then u.setC (BitVec.ofNat 3 f.cd) ok else u
/-- The answer of the present destination: the message goes on, completes, is sent again, or ends. -/
def State.answered (s : State) (id : Nat) (f : MsgFlight) (ok : Bool) : State :=
  if ok then
    match f.dests.drop 1 with
    | [] => s.endSend id f true
    | t => { s with fly := { s.fly with sends := mset s.fly.sends id { f with dests := t } } }
  else if f.nb then s.endSend id f false
  else { s with fly := { s.fly with sends := mset s.fly.sends id { f with refused := true } } }
/-- The destinations of a SEND or MCAST that has issued. -/
def Latch.dests (l : Latch) : List Nat :=
  match l.instr with
  | .send o => [(l.uni.sr o.a.toNat).toNat]
  | .mcast o => mcastDests (l.uni.sr o.a.toNat).toNat
  | _ => []
/-- A message of the group that was issued earlier has still to reach the core: it is on its way, or waits for its release
(R411). -/
def State.sentBefore (s : State) (f : MsgFlight) (d : Nat) : Bool :=
  (s.fly.sends.any fun p => decide (p.2.who.uid = f.who.uid ∧ p.2.who.seq < f.who.seq) && p.2.dests.contains d) ||
  (match s.exAt f.who.core f.who.slot f.who.entry with
   | some x => x.gr.uid == f.who.uid && x.gr.splits.any fun e => match e.2.latch with
     | some l => (match e.2.st with | .wait (.msg _) => false | _ => true) && decide (l.seq < f.who.seq) && l.dests.contains d
     | none => false
   | none => false)
/-- The message would be written into a buffer that is switched out. -/
def State.bufferWaits (s : State) (m : Msg) (d : Nat) : Bool :=
  let c := d % 256
  !s.destAway d && mget (s.core c).res m.ctx == some .active &&
    (match (s.core c).msgs.first m with | some (_, r) => s.bufferAway c r | none => false)
/-- MESSAGE_ARRIVAL: a message reaches its next destination, after the group's earlier ones to that core; whether a core of
the other package accepts it is not stated. -/
def execMessageArrival (id : Nat) (s : State) : Out :=
  match mget s.fly.sends id with
  | none => .refused .eventNotDue
  | some f =>
    let d := f.dests.headD 0
    if f.refused || s.sentBefore f d || s.bufferWaits f.msg d then .refused .eventNotDue
    else
      let r := if s.destAway d then let b := s.free; (b.1.getLsbD 0, b.2) else s.arrive (d % 256) f.msg
      .next (r.2.answered id f r.1)
/-- MESSAGE_RESEND: a refused message is sent again. -/
def execMessageResend (id : Nat) (s : State) : Out :=
  match mget s.fly.sends id with
  | none => .refused .eventNotDue
  | some f =>
    if f.refused then .next { s with fly := { s.fly with sends := mset s.fly.sends id { f with refused := false } } }
    else .refused .eventNotDue

/-! ### RECV (R415, R416) -/

/-- A malformed descriptor. -/
def recvBad (w2 w3 : Nat) : Bool :=
  let cap := bits w2 16 16
  decide (cap < 4 ∨ cap > 256 ∨ cap % 4 ≠ 0 ∨ bits w2 3 13 ≠ 0 ∨ bits w3 9 22 ≠ 0)
/-- The first overflow message that a receive matches. -/
def firstMatch (r : Recv) : List Msg → Option (Msg × List Msg)
  | [] => none
  | m :: t =>
    if r.matches_ m then some (m, t) else (firstMatch r t).map fun p => (p.1, m :: p.2)
/-- RECV.POST sets sd. -/
def setOne (s : State) (x : Ex) (d v : Nat) : Out := .next (s.done x 4 fun g => g.modUni fun u => u.setS d (toW v))
def execRecvPost (o : U2) (s : State) : Out :=
  onSplit s fun x =>
    let u := x.uni
    let a := o.a.toNat
    let e := (u.sr a).toNat
    let w1 := (u.sr (a + 1)).toNat
    let w2 := (u.sr (a + 2)).toNat
    let w3 := u.sr (a + 3)
    let cap := bits w2 16 16
    match s.scrAddr x.scr e cap with
    | .bad r => trapAt s x 9 x.sp.mask (toW e) (toW r)
    | .away => waitOn s x .poll
    | .at_ core off =>
      if recvBad w2 w3.toNat then setOne s x o.d.toNat 0x101
      else
        let t := (s.core x.core).msgs
        match freeKeys t.recvs 0 64 with
        | [] => setOne s x o.d.toNat 0x100
        | n :: _ =>
          let r : Recv := { ctx := x.gr.ctx, uid := x.gr.uid, slot := x.slot, blk := x.gr.blk, buf := scratchAddr core off,
                            rtag := bits w1 16 16, rmask := bits w1 0 16, cap := cap, port := bits w2 0 3, filter := w3,
                            matched := none, order := s.nextId }
          let s := s.fresh
          match firstMatch r t.overflow with
          | some (m, rest) => setOne ((s.modMsgs x.core fun t => { t with overflow := rest }).receive x.core n r m) x o.d.toNat n
          | none => setOne (s.modMsgs x.core fun t => { t with recvs := mset t.recvs n r }) x o.d.toNat n
/-- The entry that a handle names, posted by the group. -/
def State.recvOf (s : State) (x : Ex) (h : Nat) : Option Recv :=
  match mget (s.core x.core).msgs.recvs h with
  | some r => if r.uid = x.gr.uid then some r else none
  | none => none
/-- A matched entry is taken: cause 0x0F once for a truncated message, else the result, and the entry is free. -/
def takeRecv (s : State) (x : Ex) (o : U2) (h : Nat) (r : Recv) (m : Msg) : Out :=
  let n := m.payload.length
  if n > r.cap ∧ r.told = false then
    trapAt (s.modMsgs x.core fun t => { t with recvs := mset t.recvs h { r with told := true } }) x 0x0F x.sp.mask (toW n) 3
  else
    let s := s.modMsgs x.core fun t => { t with recvs := mdel t.recvs h }
    .next ((s.acquired x m.pts).done x 4 fun g => g.modUni fun u =>
      (u.setS o.d.toNat (toW (m.tag * 65536 + n))).setS (o.d.toNat + 1) (toW m.src))
/-- The handle of RECV.WAIT, TEST and CANCEL. -/
def handleOf (x : Ex) (o : U2) : Nat := (x.uni.sr o.a.toNat).toNat
def execRecvWait (o : U2) (s : State) : Out :=
  onSplit s fun x =>
    match s.recvOf x (handleOf x o) with
    | none => setOne s x o.d.toNat 0xFFFFFFFE
    | some r =>
      match r.matched with
      | none => waitOn s x .poll
      | some m => takeRecv s x o (handleOf x o) r m
def execRecvTest (o : U2) (s : State) : Out :=
  onSplit s fun x =>
    match s.recvOf x (handleOf x o) with
    | none => setOne s x o.d.toNat 0xFFFFFFFE
    | some r =>
      match r.matched with
      | none => .next (s.done x 4 fun g => g.modUni fun u => (u.setS o.d.toNat 0xFFFFFFFF).setS (o.d.toNat + 1) 0)
      | some m => takeRecv s x o (handleOf x o) r m
def execRecvCancel (o : U2) (s : State) : Out :=
  onSplit s fun x =>
    match s.recvOf x (handleOf x o) with
    | none => setOne s x o.d.toNat 2
    | some r =>
      if r.matched.isSome then setOne s x o.d.toNat 1
      else setOne (s.modMsgs x.core fun t => { t with recvs := mdel t.recvs (handleOf x o) }) x o.d.toNat 0

end Sys2Proof.Machine
end

