-- ==== Sys2Proof/Machine/Preempt.lean ====
section
/-! DEFINITION. Switches, drains and loads, and the end of a context by a kill or a context fault (spec 15 R433 to R441, 07
R189, R190, 09 R267, 10 R280, R281, 11 R306, R309, R310, 12 R359, 13 R392, 14 R408, R413). -/
namespace Sys2Proof.Machine

/-! ### The states of contexts on a core (R436) -/

/-- The context that stands in a state on a core. -/
def State.standing (s : State) (core : Nat) (r : Residence) : Option Nat := ((s.core core).res.find? fun p => p.2 == r).map Prod.fst
/-- The context in the shadow position. -/
def State.shadowPos (s : State) (core : Nat) : Option (Nat × Residence) :=
  (s.core core).res.find? fun p => p.2 == .shadow || p.2 == .draining || p.2 == .loading
def State.setRes (s : State) (core ctx : Nat) (r : Residence) : State := s.modCore core fun k => { k with res := mset k.res ctx r }
/-- Some core holds the context (R446). -/
def State.heldBy (s : State) (ctx : Nat) : Bool := s.cores.any fun c => (mget c.2.res ctx).isSome
/-- The context whose tiles and plane a core holds: the one that drains, else the active one. -/
def State.mxOwner (s : State) (core : Nat) : Option Nat :=
  match s.standing core .draining with
  | some x => some x
  | none => s.standing core .active

/-! ### Switch (R437, R438, R280) -/

/-- The slots of a context as a switch records them; one whose holder has ended is not recorded. -/
def State.recordOf (s : State) (core ctx : Nat) : List SavedSlot :=
  let k := s.rows core
  k.reopen ++ k.slots.filterMap fun p =>
    if p.2.ctx ≠ ctx ∨ s.holderGone p.2 = true ∨ (k.reopen.any fun v => v.slot == p.1) = true then none else p.2.record p.1
/-- A group of the outgoing context: its blocking waits are withdrawn. -/
def Group.switched (g : Group) : Group := { g with splits := mall g.splits fun _ sp => sp.withdraw, holder := none }
/-- The active context of a core goes out: its waits are withdrawn, its slots and its pair binding recorded, its slots closed. -/
def State.switchOut (s : State) (core ctx : Nat) (bound : Option Nat) : State :=
  let uids := ((s.core core).groups.filter fun g => g.2.ctx = ctx).map fun g => g.2.uid
  let s := uids.foldl (fun s u => s.withdrawWaits u) s
  let rec_ := s.recordOf core ctx
  let fresh := rec_.filter fun v => v.st != .expired true && ((s.rows core).reopen.all fun u => u.slot != v.slot)
  let s := (s.bump core .rowswcl fresh.length).modCore core fun k => { k with
    groups := mall k.groups fun _ g => if g.ctx = ctx then g.switched else g
    saved := mset k.saved ctx { slots := rec_, bound := bound }
    drained := 0, left := 0 }
  (s.modRows core fun k => { k with
    slots := mall k.slots fun _ r => if r.ctx = ctx ∧ (r.st = .opening ∨ r.st.isOpen = true) then { r with close := true } else r
    reopen := [] }).setRes core ctx .draining
/-- What an image keeps once the core has its tiles and plane: a pair binding that both cores have still to take up. -/
def keepBound (m : Map Saved) (ctx : Nat) : Map Saved :=
  match (mgetD m ctx {}).bound with
  | some b => mset m ctx { bound := some b }
  | none => mdel m ctx
/-- The tiles and the plane of the active context are those of its save image, or empty (R300, R309). -/
def State.restoreMx (s : State) (core ctx : Nat) : State :=
  let v := mgetD (s.core core).saved ctx {}
  (s.modMx core fun m => { m with
    tiles := v.tiles, ctls := v.ctls, copies := v.ctls, plane := v.plane, planePoison := v.planePoison, regions := v.regions
    lost := v.lost }).modCore core fun k => { k with saved := keepBound k.saved ctx }
/-- The shadow context of a core becomes active; its slots are to be opened again. -/
def State.switchIn (s : State) (core ctx : Nat) : State :=
  let v := mgetD (s.core core).saved ctx {}
  let s := (s.setRes core ctx .active).modRows core fun k => { k with reopen := v.slots }
  if (s.standing core .draining).isSome then s else s.restoreMx core ctx
/-- The binding that a context's images on both cores of a pair record. -/
def State.savedBound (s : State) (lead : Nat) (r : Residence) : Option (Nat × Nat) :=
  match s.standing lead r with
  | none => none
  | some y =>
    let b := fun (c : Nat) => (mgetD (s.core c).saved y {}).bound
    if s.standing (lead + 1) r = some y ∧ b lead = b (lead + 1) then (b lead).map fun v => (y, v) else none
/-- A binding resumes once its context is active on both cores (R306). -/
def State.rebind (s : State) (lead : Nat) : State :=
  match s.savedBound lead .active with
  | none => s
  | some (y, b) =>
    [lead, lead + 1].foldl (fun s c => s.modCore c fun k =>
      let v := { mgetD k.saved y {} with bound := none }
      { k with saved := if v = {} then mdel k.saved y else mset k.saved y v })
      (s.modMx lead fun m => { m with bound := some b })
/-- The cores that switch together: of a binding in force, and of one that the contexts in the shadow positions resume (R306). -/
def State.switchCores (s : State) (core : Nat) : List Nat :=
  let lead := core / 2 * 2
  if (s.mx lead).bound.isSome ∨ (s.savedBound lead .shadow).isSome then [lead, lead + 1] else [core]
/-- The switch on one core. -/
def State.switchOne (s : State) (bound : Option Nat) (core : Nat) : State :=
  let y := s.standing core .shadow
  let s := match s.standing core .active with | some x => s.switchOut core x bound | none => s
  let s := match y with | some y => s.switchIn core y | none => s
  (s.bump core .swn).modCore core fun k => { k with quietUntil := s.now + 96, switch := false }
/-- SWITCH_TAKEN: a requested switch, once every shadow position is ready. -/
def execSwitchTaken (core : Nat) (s : State) : Out :=
  let lead := core / 2 * 2
  let cs := s.switchCores core
  let ready := cs.all fun c => match s.shadowPos c with | some (_, r) => r == .shadow | none => true
  if (s.core core).switch = false ∨ ready = false then .refused .eventNotDue
  else
    let s' := cs.foldl (fun t c => t.switchOne (s.mx lead).bound c) s
    let s' := (if cs.contains lead then s'.modMx lead fun m => { m with bound := none } else s').rebind lead
    let asked := match s.dev.pending with | some c => cs.contains c | none => false
    .next (if asked then { s' with dev := { s'.dev with pending := none, busy := false } } else s')

/-! ### Drain (R439, R189) -/

/-- The first phase of a drain has ended: nothing that the context issued on the core is in flight, but ordered reductions, which
are complete at issue and which their slices hold (R259, R261). -/
def State.drainEnded (s : State) (core ctx : Nat) : Bool :=
  let k := s.core core
  (k.groups.all fun g => g.2.ctx != ctx || (g.2.quiet && g.2.trapping.isNone)) &&
  (s.fly.reqs.all fun r => !decide (r.2.who.core = core ∧ r.2.who.ctx = ctx) || (match r.2.op with | .redOrd .. => true | _ => false)) &&
  (s.fly.fills.all fun f => !decide (f.2.core = core ∧ f.2.ctx = ctx)) &&
  (s.fly.touches.all fun t => !(decide (t.2.who.ctx = ctx) && (t.2.who.core == core || t.2.at_ == core))) &&
  (s.fly.pushes.all fun p => !decide (p.2.who.core = core ∧ p.2.who.ctx = ctx)) &&
  (s.fly.tests.all fun t => !decide (t.2.who.core = core ∧ t.2.who.ctx = ctx)) &&
  (k.rows.xfers.all fun t => t.2.who.ctx != ctx) && (k.mx.queue.all fun e => e.who.ctx != ctx) &&
  (decide (core % 2 = 0) || (s.mx (core - 1)).queue.all fun e => !(e.pair && e.who.ctx == ctx)) &&
  k.rows.slots.all fun r => r.2.ctx != ctx || r.2.st == .expired true
/-- Pairs put into a map. -/
def mjoin {α : Type} (m l : Map α) : Map α := l.foldl (fun m p => mset m p.1 p.2) m
/-- A word lies in a window of a list. -/
def inWins (ws : Map Window) (off : Nat) : Bool := ws.any fun w => w.2.covers off 1
/-- The words of the windows that a save image keeps: those that are DIRTY, with no registration. -/
def keptWords (ws : Map Window) (words : Map MWord) : Map MWord :=
  (mkeep words fun i w => inWins ws (4 * i) && w.st == .dirty).map fun p => (p.1, { st := .dirty })
/-- The blocks of a context on a core of which no group and no window stays on the core. -/
def State.goneBlocks (s : State) (core ctx : Nat) : List Nat :=
  let k := s.core core
  ((s.blocks.filter fun b => decide (b.2.core = core ∧ b.2.ctx = ctx)).map Prod.fst).filter fun i =>
    (k.groups.all fun g => g.2.blk != i) && k.scratch.wins.all fun w => w.2.blk != i
/-- The image of what has left a core, with the state that leaves last. -/
def State.image (s : State) (core ctx : Nat) : Saved :=
  let k := s.core core
  { mgetD k.saved ctx {} with
    pkg := s.dev.pkg, home := core
    blocks := s.goneBlocks core ctx
    part := k.part, pts := s.pts core ctx
    tiles := k.mx.tiles, ctls := k.mx.ctls, plane := k.mx.plane, planePoison := k.mx.planePoison, regions := k.mx.regions
    lost := k.mx.lost }
/-- Nothing to save. -/
def Saved.empty (v : Saved) : Bool :=
  v.groups.isEmpty && v.blocks.isEmpty && v.wins.isEmpty && v.slots.isEmpty && v.tiles.isEmpty && v.ctls.isEmpty &&
  v.regions.isEmpty && v.bound.isNone
/-- The bytes of a group, of a window and of the rest in a save image. -/
def State.groupBytes (s : State) (g : Group) : Nat := 2048 + 32 * (match mget s.blocks g.blk with | some b => b.stack | none => 0)
def restBytes (blocks part regions : Nat) : Nat := 128 * blocks + 65600 * tilesOf part + 65536 * regions
/-- The bytes of a save image that R439 counts. -/
def State.imageBytes (s : State) (v : Saved) : Nat :=
  (v.groups.map fun g => s.groupBytes g.2).sum + (v.wins.map fun w => w.2.len).sum + restBytes v.blocks.length v.part v.regions.length
/-- The windows of a context that a core holds. -/
def State.winsOf (s : State) (core ctx : Nat) : Map Window := mkeep (s.core core).scratch.wins fun _ w => s.blkIn w.blk ctx
/-- No group and no window of a context is on the core. -/
def State.allLeft (s : State) (core ctx : Nat) : Bool :=
  ((s.core core).groups.all fun g => g.2.ctx != ctx) && (s.winsOf core ctx).isEmpty
/-- The bytes of the last part of an image: barriers, tiles and plane. -/
def State.lastBytes (s : State) (core ctx : Nat) : Nat :=
  let k := s.core core
  restBytes (s.blocks.filter fun b => decide (b.2.core = core ∧ b.2.ctx = ctx)).length k.part k.mx.regions.length
/-- The bytes of an image that are still to leave the core. -/
def State.toLeave (s : State) (core ctx : Nat) : Nat :=
  (((s.core core).groups.filter fun g => g.2.ctx = ctx).map fun g => s.groupBytes g.2).sum +
  ((s.winsOf core ctx).map fun w => w.2.len).sum + s.lastBytes core ctx
def State.modSaved (s : State) (core ctx : Nat) (f : Saved → Saved) : State :=
  s.modCore core fun k => { k with saved := mset k.saved ctx (f (mgetD k.saved ctx {})) }
/-- A group leaves the core: its slot and its granules are free (R114). -/
def State.groupLeaves (s : State) (core ctx slot : Nat) (g : Group) (n : Nat) : State :=
  (s.modSaved core ctx fun v => { v with groups := mset v.groups slot g, tables := mset v.tables slot g.tables }).modCore core fun k => { k with groups := mdel k.groups slot, left := k.left + n }
/-- A window leaves the core with its registrations: its words that are not DIRTY are ABSENT in the image (R189). -/
def State.winLeaves (s : State) (core ctx i : Nat) (w : Window) : State :=
  let k := (s.core core).scratch
  let one : Map Window := [(i, w)]
  let s := s.dropHalo fun h => decide (h.core = core ∧ h.blk = w.blk)
  let s := s.modSaved core ctx fun v => { v with
    wins := mset v.wins i w
    bytes := mjoin v.bytes (mkeep k.bytes fun a _ => inWins one a)
    poison := mjoin v.poison (mkeep k.poison fun a _ => inWins one (4 * a))
    words := mjoin v.words (keptWords one k.words) }
  s.modCore core fun k => { k with
    left := k.left + w.len
    scratch := { k.scratch with
      wins := mdel k.scratch.wins i
      words := mkeep k.scratch.words fun i _ => !inWins one (4 * i)
      halo := mkeep k.scratch.halo fun _ h => !inWins one h.off } }
/-- The groups and then the windows of a context leave the core as far as their bytes are written. -/
def State.leaves (core ctx : Nat) : Nat → State → State
  | 0, s => s
  | n + 1, s =>
    let k := s.core core
    let room := k.drained - k.left
    match k.groups.find? fun g => g.2.ctx = ctx with
    | some (i, g) => if s.groupBytes g ≤ room then State.leaves core ctx n (s.groupLeaves core ctx i g (s.groupBytes g)) else s
    | none =>
      match s.winsOf core ctx with
      | (i, w) :: _ => if w.len ≤ room then State.leaves core ctx n (s.winLeaves core ctx i w) else s
      | [] => s
/-- The place of a save image in memory. -/
def State.imageAt (s : State) (core ctx : Nat) : Nat := (s.ctx ctx).regs.savebase + 7168 * 1024 * core
/-- Bytes of the save image in memory: their layout is not given, and they are free values; a page that cannot be written takes
none. -/
def State.writeImage (s : State) (core ctx from_ n : Nat) : State :=
  (List.range (n / 4)).foldl (fun s i =>
    let f := s.free
    let o := from_ + 4 * i
    match f.2.agentWrite ctx { priv := true } [0] (s.imageAt core ctx + o) (leBytes 4 f.1.toNat) with
    | (_, s) => s.modSaved core ctx fun v => { v with img := Bytes.write v.img o (leBytes 4 f.1.toNat) }) s
/-- The image stands in memory as it was written. -/
def State.imageStands (s : State) (core ctx : Nat) (v : Saved) : Bool :=
  v.img.all fun p => match (s.agentRead ctx { priv := true } [0] [(s.imageAt core ctx + p.1, 1)]).1 with
    | .ok [b] => b.1 == p.2
    | _ => false
/-- The header of an image names this package and core, and its check word is right (R440). -/
def State.imageGood (s : State) (core ctx : Nat) (v : Saved) : Bool :=
  decide (v.pkg = s.dev.pkg ∧ v.home = core) && s.imageStands core ctx v
/-- A clk of the second phase of a drain: 1 KiB of the image is written. -/
def State.drainClk (s : State) (core : Nat) : State :=
  match s.standing core .draining with
  | none => s
  | some x =>
    if s.drainEnded core x = false ∨ (s.image core x).empty && s.allLeft core x then s
    else
      let k := s.core core
      let n := min 1024 (k.left + s.toLeave core x - k.drained)
      State.leaves core x 256 (((s.writeImage core x k.drained n).bump core .drainb n).modCore core fun k => { k with drained := k.drained + n })
/-- The groups and windows of a context leave a core, with every registration of them. -/
def State.vacate (s : State) (core ctx : Nat) : State :=
  let wins := mkeep (s.core core).scratch.wins fun _ w => s.blkIn w.blk ctx
  let s := s.dropHalo fun h => decide (h.core = core ∧ h.ctx = ctx)
  s.modCore core fun k => { k with
    groups := mkeep k.groups fun _ g => g.ctx != ctx
    scratch := { k.scratch with
      wins := mkeep k.scratch.wins fun i _ => (mget wins i).isNone
      words := mkeep k.scratch.words fun i _ => !inWins wins (4 * i)
      halo := mkeep k.scratch.halo fun _ h => !inWins wins h.off }
    rows := { k.rows with slots := mkeep k.rows.slots fun _ r => !(r.ctx == ctx && r.st == .expired true) } }
/-- The active context of a core, if there is one, takes its tiles and its plane. -/
def State.restoreActive (s : State) (core : Nat) : State :=
  match s.standing core .active with
  | some y => s.restoreMx core y
  | none => s.modMx core fun m => { m with tiles := [], ctls := [], copies := [], plane := [], planePoison := [], regions := [], lost := [] }
/-- DRAIN_COMPLETE: every byte of the image is written, and the outgoing context is SAVED, or ABSENT when there was nothing to
save. -/
def execDrainComplete (core : Nat) (s : State) : Out :=
  match s.standing core .draining with
  | none => .refused .eventNotDue
  | some x =>
    let k := s.core core
    let v := s.image core x
    if s.drainEnded core x = false ∨ s.allLeft core x = false ∨ (v.empty = false ∧ k.drained < k.left + s.toLeave core x) then .refused .eventNotDue
    else
      let s := s.vacate core x
      let s := s.modCore core fun k => { k with
        pts := mdel k.pts x
        saved := if v.empty then mdel k.saved x else mset k.saved x v
        res := if v.empty then mdel k.res x else mset k.res x .saved }
      .next (s.restoreActive core)

/-! ### Load (R440, R441) -/

/-- LOAD_START: the oldest entry of the resume queue takes the empty shadow position; an entry whose context is no longer
SAVED goes. A load that waits for room in the queue enters it. -/
def execLoadStart (core : Nat) (s : State) : Out :=
  match (s.core core).resume with
  | [] => .refused .eventNotDue
  | x :: t =>
    if (s.shadowPos core).isSome then .refused .eventNotDue
    else
      let s := if mget (s.core core).res x = some .saved then (s.setRes core x .loading).modCore core fun k => { k with loadAt := s.now } else s
      match s.dev.loads with
      | none => .next (s.modCore core fun k => { k with resume := t })
      | some (y, cs) =>
        if cs.contains core then
          let rest := cs.filter fun c => c ≠ core
          .next { s.modCore core (fun k => { k with resume := t ++ [y] }) with
            dev := if rest = [] then { s.dev with loads := none, busy := false } else { s.dev with loads := some (y, rest) } }
        else .next (s.modCore core fun k => { k with resume := t })
/-- The core has room for what an image holds: the slots of its groups, the places of its windows, granules, and its code. -/
def State.hasRoom (s : State) (core : Nat) (v : Saved) : Bool :=
  let k := s.core core
  (v.groups.all fun g => (mget k.groups g.1).isNone) && decide (k.scratch.wins.length + v.wins.length ≤ 128) &&
  (v.wins.all fun w => k.scratch.wins.all fun u => decide (w.2.off + w.2.len ≤ u.2.off ∨ u.2.off + u.2.len ≤ w.2.off)) &&
  (v.blocks.isEmpty || k.part == v.part || s.openCore core) &&
  decide (s.granulesUsed core + (v.groups.map fun g => s.granules g.2).sum ≤ stackPart v.part)
/-- Windows put into free entries of the window table. -/
def putWins (m : Map Window) : Map Window → Map Window
  | [] => m
  | (_, w) :: t => putWins (mset m ((freeKeys m 0 128).headD 0) w) t
/-- An image read back: its groups and windows return to their places; slots, tiles and plane stay in the image until the
context is active. -/
def State.restore (s : State) (core ctx : Nat) (v : Saved) : State :=
  let s := if v.blocks.isEmpty || (s.core core).part == v.part then s else s.applyPart core v.part
  let s := s.modCore core fun k => { k with
    groups := mjoin k.groups v.groups
    pts := mset k.pts ctx v.pts
    scratch := { k.scratch with
      wins := putWins k.scratch.wins v.wins
      bytes := mjoin (mkeep k.scratch.bytes fun a _ => !inWins v.wins a) v.bytes
      poison := mjoin (mkeep k.scratch.poison fun a _ => !inWins v.wins (4 * a)) v.poison
      words := mjoin k.scratch.words v.words }
    saved := mset k.saved ctx { v with groups := [], tables := [], blocks := [], wins := [], bytes := [], poison := [], words := [], img := [] } }
  s.setRes core ctx .shadow
/-- A clk of a load: 1 KiB of the image is read (R440, R442). -/
def State.loadClk (s : State) (core : Nat) : State :=
  match s.standing core .loading with
  | none => s
  | some x => s.bump core .loadb (min 1024 (s.imageBytes (mgetD (s.core core).saved x {}) - 1024 * (s.now - (s.core core).loadAt)))
/-- LOAD_COMPLETE: the image has been read, and the loading context is in the shadow position; a wrong header or check word is a
context fault. The event names what the check finds, 1 for a good image, which the image alone decides. -/
def execLoadComplete (core ok : Nat) (s : State) : Out :=
  match s.standing core .loading with
  | none => .refused .eventNotDue
  | some x =>
    let v := mgetD (s.core core).saved x {}
    let good := s.imageGood core x v
    if (s.ctx x).faults ≠ [] ∨ s.now < (s.core core).loadAt + ceilDiv (s.imageBytes v) 1024 ∨ (ok == 1) ≠ good then .refused .eventNotDue
    else if good = false then .next (s.contextFault x ⟨0x14, 0, core, 0, 0, 0⟩)
    else if s.hasRoom core v then .next (s.restore core x v) else .refused .eventNotDue

/-! ### Kill (R434) -/

/-- A store or reduction that was sent may land (R267); other requests of the context are dropped, ATOMs that are not performed
among them (R258), but a line's own write-back is not. A write-back of scratch lands as a plain store. -/
def Req.survives (r : Req) : Option Req :=
  match r.op with
  | .wb _ => some r
  | .st .. => some { r with op := .st true false }
  | .swb .. => some { r with op := .st true false }
  | .red .. => some r
  | .redOrd .. => if r.phase = .refused then none else some r
  | _ => none
/-- The requests in flight after a kill: which of those sent land is not stated. -/
def State.cutReqs (s : State) (ctx : Nat) : State :=
  s.fly.reqs.foldl (fun s p =>
    if p.2.who.ctx ≠ ctx then s
    else
      match p.2.survives with
      | none => { s with fly := { s.fly with reqs := mdel s.fly.reqs p.1 } }
      | some r =>
        match r.op with
        | .wb _ => s
        | _ =>
          let f := s.free
          if f.1.getLsbD 0 then { f.2 with fly := { f.2.fly with reqs := mset f.2.fly.reqs p.1 r } }
          else { f.2 with fly := { f.2.fly with reqs := mdel f.2.fly.reqs p.1 } }) s
/-- Jobs that have begun leave some of their lines written (R408). -/
def State.cutJobs (s : State) (ctx : Nat) : State :=
  s.fly.jobs.foldl (fun s p =>
    if p.2.who.ctx = ctx ∧ p.2.st ≠ .entering ∧ p.2.st ≠ .queued then (s.jobPart p.2).2 else s) s
/-- ROWWR transfers that have begun leave some of their lines written (R281). -/
def State.cutXfers (s : State) (core ctx : Nat) : State :=
  (s.rows core).xfers.foldl (fun s p =>
    let t := p.2
    if t.who.ctx ≠ ctx ∨ t.kind ≠ .fromScratch ∨ t.started = none then s
    else
      (List.range (t.len / 64)).foldl (fun s i =>
        let f := s.free
        if f.1.getLsbD 0 && f.2.validRange core (t.to_ + 64 * i) 64 then
          f.2.moveRow core { t with off := t.off + 64 * i, to_ := t.to_ + 64 * i, len := 64 }
        else f.2) s) s
/-- An ACCST in progress leaves some of its lines written (R310). -/
def State.cutAccst (s : State) (core ctx : Nat) : State :=
  (s.mx core).queue.foldl (fun s e =>
    match e.op with
    | .store t fmt sat spans row0 _ =>
      if e.who.ctx ≠ ctx ∨ e.started = none then s
      else
        let cores := if e.pair then [core, core + 1] else [core]
        let lines := spans.flatMap fun p => (List.range (2 * accBytes fmt * cores.length + 1)).map fun i => (p.1, p.2 / 64 + i)
        let kept := lines.foldl (fun (a : List (Nat × Nat) × State) l =>
          let f := a.2.free; (if f.1.getLsbD 0 then l :: a.1 else a.1, f.2)) ([], s)
        kept.2.accStore e cores t fmt sat spans row0 fun c o => kept.1.contains (c, o / 64)
    | _ => s) s
/-- Objects, semaphores and ordered-reduction windows of a context (R267). -/
def State.breakSync (s : State) (ctx : Nat) : State :=
  let s := (s.groupsOf ctx).foldl (fun s g => s.breakHolds ctx g.holds) s
  let s := s.fly.semas.foldl (fun s w => if w.2.who.ctx = ctx then s.semWrite ctx (w.2.pa + 12) 0xFFFFFFFF else s) s
  s.mem.windows.foldl (fun s w => if w.2.ctx = ctx then s.loseWindow w.1 w.2 (s.ctx ctx).floor else s) s
/-- What a core keeps after a kill. -/
def State.cutCore (s : State) (core ctx : Nat) : State :=
  let owner := s.mxOwner core == some ctx
  let active := s.standing core .active == some ctx
  let s := ((s.cutXfers core ctx).cutAccst core ctx).vacate core ctx
  let s := s.modCore core fun k => { k with
    res := mdel k.res ctx, pts := mdel k.pts ctx, tlb := k.tlb.filter fun t => t.ctx ≠ ctx
    saved := mdel k.saved ctx, drained := if owner then 0 else k.drained, left := if owner then 0 else k.left
    resume := k.resume.filter fun c => c ≠ ctx
    rows := { k.rows with
      slots := mall k.rows.slots fun _ r => if r.ctx = ctx then { r with close := r.close || r.st == .opening || r.st.isOpen } else r
      xfers := mkeep k.rows.xfers fun _ t => t.who.ctx != ctx
      reopen := if active then [] else k.rows.reopen }
    mx := { k.mx with
      queue := k.mx.queue.filter fun e => e.who.ctx ≠ ctx
      bound := match k.mx.bound with | some b => if s.blkIn b ctx then none else some b | none => none }
    msgs := { recvs := mkeep k.msgs.recvs fun _ r => r.ctx != ctx, overflow := k.msgs.overflow.filter fun m => m.ctx ≠ ctx } }
  if owner then s.restoreActive core else s
/-- What a cluster keeps after a kill; blk tells whether a block is of the context. -/
def Cluster.cut (k : Cluster) (ctx : Nat) (blk : Nat → Bool) : Cluster :=
  { k with
    l2tlb := k.l2tlb.filter fun t => t.ctx ≠ ctx
    wcache := k.wcache.filter fun w => w.ctx ≠ ctx
    joins := mkeep k.joins fun _ j => !blk j.blk
    rays := { k.rays with
      formed := mkeep k.rays.formed fun _ e => e.ctx != ctx
      cache := k.rays.cache.filter fun t => t.ctx ≠ ctx
      cells := mkeep k.rays.cells fun _ c => c.1 != ctx
      asked := k.rays.asked.filter fun b => b.head? ≠ some ctx
      due := k.rays.due.filter fun b => b.head? ≠ some ctx }
    comps := k.comps.filter fun r => r.ctx ≠ ctx
    mail := mkeep k.mail fun i _ => i / 4 != ctx
    mailed := mkeep k.mailed fun i _ => i / 4 != ctx
    waits := mkeep k.waits fun i _ => i / 64 != ctx }
/-- What stays in flight after a kill, beside the requests. -/
def Flight.cut (f : Flight) (ctx : Nat) (uids : List Nat) : Flight :=
  { f with
    walks := mkeep f.walks fun _ w => w.ctx != ctx
    heldMisses := f.heldMisses.filter fun h => h.ctx ≠ ctx
    misses := f.misses.filter fun m => !uids.contains m.who.uid
    syncs := mkeep f.syncs fun _ w => w.who.ctx != ctx
    semas := mkeep f.semas fun _ w => w.who.ctx != ctx
    fills := mkeep f.fills fun _ w => w.ctx != ctx
    touches := mkeep f.touches fun _ w => w.who.ctx != ctx
    pushes := mkeep f.pushes fun _ w => w.who.ctx != ctx
    tests := mkeep f.tests fun _ w => w.who.ctx != ctx
    jobs := mkeep f.jobs fun _ w => w.who.ctx != ctx
    sends := mkeep f.sends fun _ w => w.who.ctx != ctx }
/-- A kill: every running launch ends with the status, and the context's state goes from every unit. -/
def State.kill (s : State) (ctx status : Nat) : State :=
  let uids := (s.groupsOf ctx).map fun g => g.uid
  let s := (((s.cutJobs ctx).breakSync ctx).cutReqs ctx)
  let s := (s.ctx ctx).launches.foldl (fun s l => s.endLaunch ctx l.1 status l.2) s
  let s := (s.cores.map Prod.fst).foldl (fun s c => s.cutCore c ctx) s
  let blk := fun (b : Nat) => s.blkIn b ctx
  let s := { s with
    clusters := mall s.clusters fun _ k => k.cut ctx blk
    fly := s.fly.cut ctx uids
    blocks := mkeep s.blocks fun _ b => b.ctx != ctx
    rays := mkeep s.rays fun i _ => i / 2 ^ 24 != ctx
    dev := match s.dev.loads with
      | some (x, _) => if x = ctx then { s.dev with loads := none, busy := false } else s.dev
      | none => s.dev }
  ((List.range 8).foldl (fun s k => s.runWalks k) s).modCtx ctx fun x => { x with
    launches := [], queues := [], qd := mall x.qd fun _ q => { q with on := false }, stalled := false, heldHdr := none
    parked := [], faults := [], killing := true }
/-- CONTEXT_FAULT: the oldest fault recorded is posted, and the context is killed with STATUS 2. -/
def execContextFault (ctx : Nat) (s : State) : Out :=
  match (s.ctx ctx).faults with
  | [] => .refused .eventNotDue
  | f :: _ =>
    let s := s.postEvent ctx 8 f.primary f.secondary (f.core * 512 + f.slot) f.pc.toNat f.x.toNat
    .next (s.kill ctx 2)
/-- The background work of a kill has ended: no request of the context is in flight, and no row slot is its own. -/
def State.killEnded (s : State) (ctx : Nat) : Bool :=
  (s.fly.reqs.all fun r => r.2.who.ctx != ctx) && s.cores.all fun c => c.2.rows.slots.all fun r => r.2.ctx != ctx
/-- KILL_DONE: the last record of the kill. -/
def execKillDone (ctx : Nat) (s : State) : Out :=
  if (s.ctx ctx).killing && s.killEnded ctx then
    .next ((s.postEvent ctx 10).modCtx ctx fun x => { x with killing := false })
  else .refused .eventNotDue

end Sys2Proof.Machine
end

