-- ==== Sys2Proof/Machine/HostLink.lean ====
section
/-! DEFINITION. The host's side: commands, doorbells, registers and BAR2, replays, reset and boot, the pair link and power (spec
16, 15 R421, R435, R436, 08 R216, R238). -/
namespace Sys2Proof.Machine

/-! ### Commands (R448) -/

/-- The pages of a range: entries of a context that translate an address in DARG0 … DARG0 + DARG1 − 1, all with DARG1 = 0. -/
def inDropRange (a n page pages : Nat) : Bool :=
  let va := a % 2 ^ 49
  n == 0 || decide (page * 65536 < va + n ∧ va < (page + pages) * 65536)
/-- The 64 KiB pages that an entry of a table of a level covers. -/
def levelPages (level : Nat) : Nat := 2 ^ (27 - 9 * level)
/-- TLB_DROP (R216): TLB and walk-cache entries of the context, and what splits have learnt from walks. -/
def State.dropTlb (s : State) (ctx a n : Nat) : State :=
  let hit := fun (t : TlbEntry) => t.ctx == ctx &&
    (if pteSZ t.pte then inDropRange a n (t.page / 32 * 32) 32 else inDropRange a n t.page 1)
  let uids := (s.groupsOf ctx).map fun g => g.uid
  { s with
    cores := mall s.cores fun _ k => { k with tlb := k.tlb.filter fun t => !hit t }
    clusters := mall s.clusters fun _ k => { k with
      l2tlb := k.l2tlb.filter fun t => !hit t
      wcache := k.wcache.filter fun w => !(w.ctx == ctx && inDropRange a n (w.prefix_ * levelPages w.level) (levelPages w.level)) }
    fly := { s.fly with misses := s.fly.misses.filter fun m => !(uids.contains m.who.uid && inDropRange a n m.page 1) } }
/-- The instruction-cache lines over a range of a context, page by page. -/
def State.rangeLines (s : State) (ctx a n : Nat) : List Nat :=
  (List.range ((a + n + 65535) / 65536 - a / 65536)).flatMap fun i =>
    let page := a / 65536 + i
    let lo := max a (page * 65536)
    let hi := min (a + n) ((page + 1) * 65536)
    match (s.agentTranslate ctx lo { priv := true }).1 with
    | .error _ => []
    | .ok (_, pa) => (List.range ((hi - lo + lo % 64 + 63) / 64)).map fun j => lineAddr pa + 64 * j
/-- ICACHE_INVALIDATE (R238): the lines leave every core's instruction cache. -/
def State.dropCode (s : State) (ctx a n : Nat) : State :=
  let ls := s.rangeLines ctx a n
  { s with cores := mall s.cores fun _ k => { k with
      icache := if n = 0 then [] else mkeep k.icache fun l _ => !ls.contains l } }
/-- Op 1: the context takes the empty shadow position; the pts is the floor (R227). -/
def State.placeShadow (s : State) (ctx core : Nat) : State :=
  (s.setRes core ctx .shadow).modCore core fun k => { k with pts := mset k.pts ctx (s.ctx ctx).floor }
/-- Op 3: a load queued on each core that holds a SAVED image; a full resume queue keeps the command busy. -/
def State.queueLoads (s : State) (ctx : Nat) : State :=
  let cs := (s.cores.filter fun c => mget c.2.res ctx == some .saved).map Prod.fst
  let full := cs.filter fun c => decide ((s.core c).resume.length ≥ 8)
  let s := cs.foldl (fun s c => if full.contains c then s else s.modCore c fun k => { k with resume := k.resume ++ [ctx] }) s
  if full = [] then s else { s with dev := { s.dev with loads := some (ctx, full), busy := true } }
/-- The command cannot be accepted. -/
def State.commandBad (s : State) (op ctx core : Nat) : Bool :=
  decide (op = 0 ∨ op > 6 ∨ ctx ≥ 64) || !(s.ctx ctx).regs.en || (decide (op ≤ 2) && decide (core > 191)) ||
    (op == 1 && ((s.shadowPos core).isSome || (mget (s.core core).res ctx).isSome))
/-- A DCMD write. -/
def State.command (s : State) (op ctx core : Nat) : State :=
  if s.dev.boot = 3 then s
  else if s.dev.busy || s.commandBad op ctx core then { s with dev := { s.dev with refused := true } }
  else
    let s := { s with dev := { s.dev with refused := false } }
    match op with
    | 1 => s.placeShadow ctx core
    | 2 => { s.modCore core (fun k => { k with switch := true }) with dev := { s.dev with busy := true, pending := some core } }
    | 3 => s.queueLoads ctx
    | 4 => s.kill ctx 4
    | 5 => s.dropTlb ctx s.dev.darg0 s.dev.darg1
    | _ => s.dropCode ctx s.dev.darg0 s.dev.darg1
def execPlaceShadow (ctx core : Nat) (s : State) : Out := .next (s.command 1 ctx core)
def execSwitchCore (ctx core : Nat) (s : State) : Out := .next (s.command 2 ctx core)
def execLoadContext (ctx : Nat) (s : State) : Out := .next (s.command 3 ctx 0)
def execKillContext (ctx : Nat) (s : State) : Out := .next (s.command 4 ctx 0)
def execTlbDrop (ctx : Nat) (s : State) : Out := .next (s.command 5 ctx 0)
def execIcacheInvalidate (ctx : Nat) (s : State) : Out := .next (s.command 6 ctx 0)

/-! ### Doorbells and replays (R421, R447, R449) -/

def State.modRings (s : State) (ctx : Nat) (f : CtxRings → CtxRings) : State := s.modCtx ctx fun x => { x with rings := f x.rings }
def State.modRegs (s : State) (ctx : Nat) (f : CtxRegs → CtxRegs) : State := s.modCtx ctx fun x => { x with regs := f x.regs }
/-- LQTAIL: a value that moves forwards by no more than the ring holds; a stalled slot is read again. -/
def State.setLqtail (s : State) (ctx v : Nat) : State :=
  let r := (s.ctx ctx).rings
  let ahead := (v % 2 ^ 32 + 2 ^ 32 - r.lqhead) % 2 ^ 32
  if ahead > 2 ^ r.lqlog ∨ ahead < (r.lqtail + 2 ^ 32 - r.lqhead) % 2 ^ 32 then s
  else s.modCtx ctx fun x => { x with stalled := false, rings := { x.rings with lqtail := v % 2 ^ 32 } }
/-- FQHEAD: records held in the device are tried again. -/
def State.setFqhead (s : State) (ctx v : Nat) : State :=
  let s := s.modRings ctx fun r => { r with fqhead := v % 2 ^ 32 }
  s.drainFaults (s.ctx ctx).held.length ctx
/-- A replayed split, resident or saved, is READY at the instruction. -/
def State.wakeSplit (s : State) (core slot uid token : Nat) : State :=
  let f := fun (_ : Nat) (g : Group) => if g.uid = uid then g.wake (.replay token) else g
  s.modCore core fun k => { k with
    groups := mmod k.groups slot (f slot)
    saved := mall k.saved fun _ v =>
      let gs := mmod v.groups slot (f slot)
      { v with groups := gs, tables := match mget gs slot with | some g => mset v.tables slot g.tables | none => v.tables } }
/-- FQREPLAY: what parked with the token goes on. -/
def State.replay (s : State) (ctx token : Nat) : State :=
  match mget (s.ctx ctx).parked token with
  | none => s
  | some p =>
    let s := s.modCtx ctx fun x => { x with parked := mdel x.parked token }
    match p with
    | .split core slot uid _ => s.wakeSplit core slot uid token
    | .ray id => { s with rays := mmod s.rays (rayKey ctx id) fun r => { r with at_ := .replayed } }
    | .job id => { s with fly := { s.fly with jobs := mmod s.fly.jobs id fun j => { j with st := .queued } } }
/-- A write of a context's register: nothing happens after a failed boot check. -/
def hostWrite (s : State) (t : State) : Out := if s.dev.boot = 3 then .next s else .next t
def execLqtailWrite (ctx v : Nat) (s : State) : Out := hostWrite s (if ctx < 64 then s.setLqtail ctx v else s)
def execFqheadWrite (ctx v : Nat) (s : State) : Out := hostWrite s (if ctx < 64 then s.setFqhead ctx v else s)
def execFqreplayWrite (ctx token : Nat) (s : State) : Out := hostWrite s (if ctx < 64 then s.replay ctx (token % 2 ^ 32) else s)
def execEqheadWrite (ctx v : Nat) (s : State) : Out :=
  hostWrite s (if ctx < 64 then s.modRings ctx fun r => { r with eqhead := v % 2 ^ 32 } else s)

/-! ### Device registers (R445) -/

def State.setPwrcap (s : State) (v : Nat) : State :=
  let p := v % 2 ^ 11
  if 600 ≤ p ∧ p ≤ 1600 then { s with dev := { s.dev with pwrcap := p } } else s
def State.setWeight (s : State) (c v : Nat) : State :=
  if v % 256 = 0 then s else { s with dev := { s.dev with weights := s.dev.weights.mapIdx fun i w => if i = c then v % 256 else w } }
def execPwrcapWrite (v : Nat) (s : State) : Out := hostWrite s (s.setPwrcap v)
def execWeightWrite (c v : Nat) (s : State) : Out := hostWrite s (s.setWeight c v)

/-! ### The register file of BAR0, in 32-bit words (R444 to R448) -/

/-- One half of a 64-bit number. -/
def halfOf (x hi : Nat) : Nat := x / 2 ^ (32 * hi) % 2 ^ 32
/-- A 64-bit number with one half replaced. -/
def putHalf (x hi v : Nat) : Nat := if hi = 0 then x / 2 ^ 32 * 2 ^ 32 + v else v * 2 ^ 32 + x % 2 ^ 32
/-- The weights of four classes from a word. -/
def State.setWeights (s : State) (c v : Nat) : State := (List.range 4).foldl (fun s i => s.setWeight (c + i) (v / 256 ^ i)) s
/-- The word at an offset of the device and command registers. -/
def State.readDev (s : State) (o : Nat) : Nat :=
  let d := s.dev
  let h := o / 4 % 2
  if o = 0 then 0x0828 * 65536 + Config.stepping.toNat
  else if o = 4 then d.pkg * 32 + d.pair * 8 + d.boot
  else if o = 8 then d.pwrcap
  else if o = 0xC then (if s.now = 0 then 0 else (Config.power s.now).toNat)
  else if o = 0x10 then (if s.now = 0 then 0 else (Config.temperature s.now).toNat)
  else if o = 0x18 ∨ o = 0x1C then (if s.now = 0 then 0 else halfOf (Config.energy s.now).toNat h)
  else if o = 0x20 ∨ o = 0x24 then (List.range 4).foldl (fun n i => n + d.weights.getD (4 * h + i) 0 * 256 ^ i) 0
  else if o = 0x30 ∨ o = 0x34 then halfOf d.b2off h
  else if 0x40 ≤ o ∧ o < 0x58 then halfOf (d.errcnt.getD ((o - 0x40) / 8) 0) h
  else if o = 0x1004 then (if d.busy then 1 else 0) + (if d.refused then 2 else 0)
  else if o = 0x1008 ∨ o = 0x100C then halfOf d.darg0 h
  else if o = 0x1010 ∨ o = 0x1014 then halfOf d.darg1 h
  else 0
def State.writeDev (s : State) (o v : Nat) : State :=
  let h := o / 4 % 2
  if o = 8 then s.setPwrcap v
  else if o = 0x20 ∨ o = 0x24 then s.setWeights (4 * h) v
  else if o = 0x30 ∨ o = 0x34 then { s with dev := { s.dev with b2off := putHalf s.dev.b2off h v } }
  else if o = 0x1000 then s.command (bits v 0 8) (bits v 8 6) (bits v 14 8)
  else if o = 0x1008 ∨ o = 0x100C then { s with dev := { s.dev with darg0 := putHalf s.dev.darg0 h v } }
  else if o = 0x1010 ∨ o = 0x1014 then { s with dev := { s.dev with darg1 := putHalf s.dev.darg1 h v } }
  else s
/-- The word at an offset of a context block. -/
def Ctx.read (x : Ctx) (o : Nat) : Nat :=
  let r := x.regs
  let g := x.rings
  let h := o / 4 % 2
  if o < 8 then halfOf (r.root + if r.en then 1 else 0) h
  else if o < 0x10 then halfOf r.ctla h
  else if o < 0x18 then halfOf r.srbase h
  else if o = 0x18 then r.srw
  else if o = 0x20 ∨ o = 0x24 then halfOf r.tfb h
  else if o = 0x28 ∨ o = 0x2C then halfOf r.raybase h
  else if o = 0x30 then r.raycap
  else if o = 0x38 ∨ o = 0x3C then halfOf r.savebase h
  else if o = 0x40 then r.rb * 65536 + r.rc
  else if o = 0x48 ∨ o = 0x4C then halfOf g.lqbase h
  else if o = 0x50 then g.lqlog
  else if o = 0x58 then g.lqtail
  else if o = 0x5C then g.lqhead
  else if o = 0x60 ∨ o = 0x64 then halfOf g.fqbase h
  else if o = 0x68 then g.fqlog
  else if o = 0x6C then g.fqtail
  else if o = 0x70 then g.fqhead
  else if o = 0x78 ∨ o = 0x7C then halfOf g.eqbase h
  else if o = 0x80 then g.eqlog
  else if o = 0x84 then g.eqtail
  else if o = 0x88 then g.eqhead
  else if o = 0x8C then g.eqlost
  else if 0x400 ≤ o ∧ o < 0x800 then
    let q := mgetD x.qd ((o - 0x400) / 16) {}
    if o % 16 < 8 then halfOf q.base h else if o % 16 = 8 then q.log + (if q.on then 2 ^ 31 else 0) else 0
  else if 0x800 ≤ o ∧ o < 0xA00 then
    let q := mgetD x.mbx ((o - 0x800) / 16) {}
    if o % 16 < 8 then halfOf q.base h else if o % 16 = 8 then q.log else 0
  else 0
/-- A write of a field that takes effect only while no core holds the context. -/
def State.writeFree (s : State) (ctx o v : Nat) : State :=
  let h := o / 4 % 2
  if o = 0 then s.modRegs ctx fun r => { r with en := bitN v 0, root := r.root / 2 ^ 32 * 2 ^ 32 + v / 4096 * 4096 }
  else if o = 4 then s.modRegs ctx fun r => { r with root := bits v 0 20 * 2 ^ 32 + r.root % 2 ^ 32 }
  else if o = 8 ∨ o = 0xC then s.modRegs ctx fun r => { r with ctla := putHalf r.ctla h v }
  else if o = 0x10 ∨ o = 0x14 then s.modRegs ctx fun r => { r with srbase := putHalf r.srbase h v }
  else if o = 0x18 then s.modRegs ctx fun r => { r with srw := bits v 0 16 }
  else if o = 0x20 ∨ o = 0x24 then s.modRegs ctx fun r => { r with tfb := putHalf r.tfb h v }
  else if o = 0x28 ∨ o = 0x2C then s.modRegs ctx fun r => { r with raybase := putHalf r.raybase h v }
  else if o = 0x30 then s.modRegs ctx fun r => { r with raycap := bits v 0 24 }
  else if o = 0x38 ∨ o = 0x3C then s.modRegs ctx fun r => { r with savebase := putHalf r.savebase h v }
  else if o = 0x40 then s.modRegs ctx fun r => { r with rb := bits v 16 13, rc := bits v 0 13 }
  else if o = 0x48 ∨ o = 0x4C then s.modRings ctx fun r => { r with lqbase := putHalf r.lqbase h v }
  else if o = 0x50 then
    (if 4 ≤ bits v 0 5 ∧ bits v 0 5 ≤ 16 then s.modRings ctx fun r => { r with lqlog := bits v 0 5 } else s)
  else if o = 0x60 ∨ o = 0x64 then s.modRings ctx fun r => { r with fqbase := putHalf r.fqbase h v }
  else if o = 0x68 then s.modRings ctx fun r => { r with fqlog := bits v 0 5 }
  else if o = 0x78 ∨ o = 0x7C then s.modRings ctx fun r => { r with eqbase := putHalf r.eqbase h v }
  else if o = 0x80 then s.modRings ctx fun r => { r with eqlog := bits v 0 5 }
  else if 0x400 ≤ o ∧ o < 0x800 then
    s.modCtx ctx fun x =>
      let q := mgetD x.qd ((o - 0x400) / 16) {}
      let q := if o % 16 < 8 then { q with base := putHalf q.base h v } else if o % 16 = 8 then { q with log := bits v 0 5 } else q
      { x with qd := mset x.qd ((o - 0x400) / 16) q }
  else if 0x800 ≤ o ∧ o < 0xA00 then
    s.modCtx ctx fun x =>
      let q := mgetD x.mbx ((o - 0x800) / 16) {}
      let n := bits v 0 5
      let q := if o % 16 < 8 then { q with base := putHalf q.base h v }
        else if o % 16 = 8 ∧ (n = 0 ∨ (6 ≤ n ∧ n ≤ 16)) then { q with log := n } else q
      { x with mbx := mset x.mbx ((o - 0x800) / 16) q }
  else s
/-- The state that an event leaves. -/
def outOr (o : Out) (s : State) : State := match o with | .next t => t | _ => s
/-- A write of a context block: doorbells, FQREPLAY and enable bits at any time, the rest while no core holds the context. -/
def State.writeCtx (s : State) (ctx o v : Nat) : State :=
  if o = 0x58 then s.setLqtail ctx v
  else if o = 0x70 then s.setFqhead ctx v
  else if o = 0x74 then s.replay ctx v
  else if o = 0x88 then s.modRings ctx fun r => { r with eqhead := v }
  else
    let s := if s.heldBy ctx then s else s.writeFree ctx o v
    if 0x400 ≤ o ∧ o < 0x800 ∧ o % 16 = 8 then
      let q := (o - 0x400) / 16
      if bitN v 31 = (mgetD (s.ctx ctx).qd q {}).on then s
      else outOr (if bitN v 31 then execQueueEnable ctx q s else execQueueDisable ctx q s) s
    else s
/-- The 32-bit word at a BAR0 offset, a multiple of 4. -/
def State.bar0Read (s : State) (o : Nat) : Nat :=
  if o < 0x1000 then s.readDev o
  else if s.dev.boot = 3 then 0
  else if o < 0x100000 then s.readDev o
  else if o < 0x140000 then (s.ctx ((o - 0x100000) / 4096)).read (o % 4096)
  else 0
def State.bar0Write (s : State) (o v : Nat) : State :=
  if s.dev.boot = 3 then s
  else if o < 0x100000 then s.writeDev o v
  else if o < 0x140000 then s.writeCtx ((o - 0x100000) / 4096) (o % 4096) v
  else s
/-- REGISTER_WRITE: 64 bits, the low word first. -/
def execRegisterWrite (off v : Nat) (s : State) : Out :=
  if off % 8 ≠ 0 then .next s
  else .next ((s.bar0Write off (halfOf v 0)).bar0Write (off + 4) (halfOf v 1))

/-! ### BAR2 (R444) -/

/-- Bytes of the control space read or written, word by word; a word written in part keeps its other bytes. -/
def State.ctlRead (s : State) (o n : Nat) : List Byte :=
  (List.range n).map fun i => BitVec.ofNat 8 (s.bar0Read ((o + i) / 4 * 4) / 256 ^ ((o + i) % 4))
def State.ctlWrite (s : State) (o : Nat) (bs : List Byte) : State :=
  (wordOffs o bs.length).foldl (fun s w =>
    let old := s.bar0Read w
    let b := (List.range 4).map fun i =>
      if o ≤ w + i ∧ w + i < o + bs.length then bs.getD (w + i - o) 0 else BitVec.ofNat 8 (old / 256 ^ i)
    s.bar0Write w (leNat b)) s
/-- The bytes of a line that the host reads; what it reads of a poisoned word is not stated. -/
def State.hostBytes (s : State) (d : Line) (p : BitVec 16) (o n : Nat) : List Byte × State :=
  (List.range n).foldl (fun (r : List Byte × State) i =>
    if p.getLsbD ((o + i) / 4) then let f := r.2.free; (r.1 ++ [f.1.extractLsb' 0 8], f.2)
    else (r.1 ++ [lineByte d (o + i)], r.2)) ([], s)
/-- A bank lets the host at a row: a slot or an internal activation stands open on it (R276). -/
def State.hostRow (s : State) (pa : Nat) : Bool :=
  let k := s.rows (rowCore pa)
  (match mget k.slots (rowBank pa) with | some v => v.st.isOpen && decide (v.row = rowRow pa) | none => false) ||
  (match mget k.internal (rowBank pa) with
   | some a => a.serves && decide (a.row = rowRow pa ∧ a.closing = none ∧ a.start + 20 ≤ s.now)
   | none => false)
/-- A store into the row of an open slot makes it OPEN-DIRTY. -/
def RowSlot.stored (v : RowSlot) (row : Nat) : RowSlot := if v.st.isOpen ∧ v.row = row then { v with st := .dirty } else v
/-- One part of an access, within a line: the bytes read, and the state; none while its bank does not serve it. After a failed
boot check only the device registers can be read (R453), and memory reads 0. -/
def State.bar2Part (s : State) (wr : Bool) (pa o n : Nat) (bs : List Byte) : Option (List Byte × State) :=
  let m := placeBytes o bs
  let shut := s.dev.boot == 3
  match offsetPlace pa with
  | .row =>
    if shut then some (if wr then [] else List.replicate n 0, s)
    else if s.hostRow pa = false then none
    else if wr then
      let s := { s with mem := s.mem.store (lineAddr pa) m.1 m.2 0 }
      some ([], s.modRows (rowCore pa) fun k => { k with slots := mmod k.slots (rowBank pa) fun v => v.stored (rowRow pa) })
    else some <| s.hostBytes (Bytes.line s.mem.bytes (lineAddr pa)) (Poison.line s.mem.poison (lineAddr pa)) o n
  | .gddr =>
    if shut then some (if wr then [] else List.replicate n 0, s)
    else if wr then
      let lcl := (s.sline pa).lclass
      some ([], s.agentStore 0 (lineAddr pa) (if lcl then 1 else 0) m.1 m.2 0 0)
    else
      let r := s.agentLine 0 (lineAddr pa)
      some (r.2.hostBytes r.1.1 r.1.2 o n)
  | .control =>
    let c := pa - 0x4000000000
    some (if wr then ([], s.ctlWrite c bs) else (s.ctlRead c n, s))
  | _ => some (if wr then [] else List.replicate n 0, s)
/-- The parts of an access in turn, as far as their banks serve them; a read that is whole is kept as the host's last read. -/
def State.hostGo : Nat → State → HostAccess → State
  | 0, s, b => { s with dev := { s.dev with bar2 := some b } }
  | n + 1, s, b =>
    match b.parts with
    | [] => { s with dev := { s.dev with bar2 := none, lastRead := if b.wr then s.dev.lastRead else b.got } }
    | (pa, o, k) :: t =>
      match s.bar2Part b.wr pa o k (b.bytes.take k) with
      | none => { s with dev := { s.dev with bar2 := some b } }
      | some (a, s) => State.hostGo n s { b with parts := t, bytes := b.bytes.drop k, got := b.got ++ a }
/-- The host's access that waits for a bank goes on. -/
def State.hostTry (s : State) : State :=
  match s.dev.bar2 with
  | some b => s.hostGo (b.parts.length + 1) b
  | none => s
/-- BAR2_ACCESS: done at once, but for parts in the row stack, which wait for their banks. -/
def execBar2Access (wr off n v : Nat) (s : State) : Out :=
  if off + n > s.dev.b2size ∨ s.dev.bar2.isSome = true then .refused .eventNotDue
  else
    let ps := partsOf (s.dev.b2off / s.dev.b2size * s.dev.b2size + off) n
    .next (s.hostGo (ps.length + 1) ⟨wr == 1, ps, leBytes n v, []⟩)

/-! ### Reset, boot and power (R17, R453) -/

/-- The package as after reset; the host's memory, the counts of the model's own, and the schedule stay. -/
def State.again (s : State) : State :=
  { State.reset with
    mem := { bytes := mkeep s.mem.bytes fun a _ => a.testBit 51 || decide (a ≥ 2 ^ 52)
             poison := mkeep s.mem.poison fun a _ => decide (4 * a ≥ 2 ^ 51) }
    dev := { pkg := s.dev.pkg }
    nextId := s.nextId, freed := s.freed, turns := s.turns }
/-- System software sets the BAR2 size through the Resizable BAR capability: 1 GiB to 256 GiB (R444). -/
def State.sizeBar2 (s : State) (n : Nat) : State := if n ≤ 8 then { s with dev := { s.dev with b2size := 2 ^ (30 + n) } } else s
def execFundamentalReset (s : State) : Out := .next s.again
def execPowerRemoved (s : State) : Out := .next s.again
/-- BOOT_VERIFY_DONE: boot firmware is verified, loads PKG and trains the pair link of a pair, or the check fails. -/
def execBootVerifyDone (ok : Nat) (s : State) : Out :=
  if s.dev.boot > 1 then .refused .eventNotDue
  else if ok = 1 then
    .next { s with dev := { s.dev with boot := 2, pkg := if Config.paired && Config.second then 1 else 0,
                                       pair := if Config.paired then 1 else 0 } }
  else .next { s with dev := { s.dev with boot := 3 } }

/-! ### The pair link (R435, R452) -/

/-- Objects that the context names: those that its splits wait for, hold, or have bound, and the default object. -/
def State.objectsOf (s : State) (ctx : Nat) : List Nat :=
  (0 :: ((s.ctx ctx).binds.map fun b => b.2.obj) ++ ((s.fly.syncs.filter fun w => w.2.who.ctx = ctx).map fun w => w.2.name) ++
    (s.groupsOf ctx).flatMap fun g => g.holds).eraseDups
/-- An object is broken when the lost side holds it. -/
def State.breakAway (s : State) (ctx obj : Nat) : State :=
  let va := if obj = 0 then (s.ctx ctx).regs.ctla else obj
  match (s.agentTranslate ctx va { write := true, priv := obj == 0 }).1 with
  | .error _ => s
  | .ok (_, pa) => if s.heldAway ctx obj (s.lineData ctx (lineAddr pa)).1 then s.breakHolds ctx [obj] else s
/-- Semaphores that splits of the context wait on, where a party lies on the lost side. -/
def State.breakSemas (s : State) (ctx : Nat) : State :=
  s.fly.semas.foldl (fun s w => if w.2.who.ctx = ctx then s.breakSema ctx w.2.pa else s) s
/-- Messages on their way to the lost side end with cause 0x0F. -/
def State.failSends (s : State) (ctx : Nat) : State :=
  s.fly.sends.foldl (fun s p =>
    if p.2.who.ctx ≠ ctx ∨ s.destAway (p.2.dests.headD 0) = false then s
    else
      let s := s.dropSend p.1
      match s.exAt p.2.who.core p.2.who.slot p.2.who.entry with
      | none => s
      | some x =>
        if x.gr.uid ≠ p.2.who.uid then s
        else
          let g := x.gr.modSplit x.entry Split.withdraw
          s.raise x.core x.slot g ⟨0x0F, x.entry, x.sp.mask, x.sp.pc, x.sp.pc, 0, 5⟩) s
/-- What the surviving package does for a context that is lost on the other one. -/
def State.loseContext (s : State) (ctx : Nat) : State :=
  let s := (s.postEvent ctx 9).modCtx ctx fun x => { x with
    peerLost := true, launches := mall x.launches fun _ l => { l with peerLost := true } }
  let s := (s.objectsOf ctx).foldl (fun s o => s.breakAway ctx o) s
  let s := s.breakSemas ctx
  let s := s.mem.windows.foldl (fun s w => if w.2.ctx = ctx then s.loseWindow w.1 w.2 (s.ctx ctx).floor else s) s
  s.failSends ctx
/-- PAIRED_CONTEXT_LOST: the other package killed the context or lost it to a fault. -/
def execPairedContextLost (ctx : Nat) (s : State) : Out :=
  if s.dev.pair = 2 ∧ ctx < 64 then .next (s.loseContext ctx) else .refused .eventNotDue
/-- What the loss of the link does to the package's copies and stores of the other package's lines: no copy stays, and a store
that has been made in a copy, or whose ownership or write-back is on its way, is discarded and reported (R452; log 89). -/
def State.cutLines (s : State) : State :=
  let s := s.cores.foldl (fun s c => (c.2.l1.filter fun l => s.lostLink l.1).foldl (fun s l =>
    (if l.2.st = .modified then s.lostTell none l.1 else s).dropCopy c.1 l.1) s) s
  s.fly.reqs.foldl (fun s p =>
    if s.lostLink p.2.pa = false then s
    else if p.2.lineWb p.2.pa then (s.lostTell none p.2.pa).setReq p.1 { p.2 with phase := .back }
    else match p.2.op with
      | .st false _ => if p.2.cls = 0 ∧ p.2.phase = .back then s.lostStore p.2.who.ctx p.2.pa else s
      | _ => s) s
/-- PAIR_LINK_LOST: PAIR reads 3, and every paired context is lost on the other side; which contexts are paired is not part of
this package's state. -/
def execPairLinkLost (s : State) : Out :=
  if s.dev.pair = 0 ∨ s.dev.pair = 3 then .refused .eventNotDue
  else
    let s := { s with dev := { s.dev with pair := 3 } }.cutLines
    .next ((s.ctxs.filter fun c => c.2.regs.en).foldl (fun s c =>
      let f := s.free; if f.1.getLsbD 0 then f.2.loseContext c.1 else f.2) s)
/-- PAIR_LINK_UP: training ends. -/
def execPairLinkUp (s : State) : Out :=
  if s.dev.pair ≤ 1 then .next { s with dev := { s.dev with pair := 2 } } else .refused .eventNotDue
/-- PAIR_FLIT_REPLAY: a transient error, with no context. -/
def execPairFlitReplay (s : State) : Out := if s.dev.pair = 2 then .next (s.memError none 1 0 0) else .refused .eventNotDue

end Sys2Proof.Machine
end

