-- ==== Sys2Proof/Machine/Issue.lean ====
section
/-! DEFINITION. Issue: which split may issue and what instruction stands at its PC; YIELD, NAP and the events that end them
(spec 03 R50 to R63, 04 R82 to R85, R109). -/
namespace Sys2Proof.Machine

/-! ### The registers that an instruction touches (R60) -/

/-- Registers that a value of 2^z bytes fills. -/
def wide (z : Nat) : Nat := max 1 (2 ^ z / 4)
/-- n registers from r. -/
def rr {w : Nat} (r : BitVec w) (n : Nat) : List Nat := (List.range n).map fun i => r.toNat + i
def rs (b : VSrc) (n : Nat) : List Nat :=
  match b with
  | .reg r => rr r n
  | .lit _ => []
/-- The mask of the lane that an index names. -/
def idxBit (w : Word) : Mask := if w.toNat ≤ 7 then laneBit w.toNat else 0

/-- The lanes and the v registers that an instruction reads or writes. -/
def touched (x : Ex) : Instr → Mask × List Nat
  | .iadd o => (x.active o.g, rr o.d 1 ++ rr o.a 1 ++ rs o.b 1)
  | .isub o => (x.active o.g, rr o.d 1 ++ rr o.a 1 ++ rs o.b 1)
  | .iaddSat o => (x.active o.g, rr o.d 1 ++ rr o.a 1 ++ rs o.b 1)
  | .isubSat o => (x.active o.g, rr o.d 1 ++ rr o.a 1 ++ rs o.b 1)
  | .iminI o => (x.active o.g, rr o.d 1 ++ rr o.a 1 ++ rs o.b 1)
  | .imaxI o => (x.active o.g, rr o.d 1 ++ rr o.a 1 ++ rs o.b 1)
  | .iminN o => (x.active o.g, rr o.d 1 ++ rr o.a 1 ++ rs o.b 1)
  | .imaxN o => (x.active o.g, rr o.d 1 ++ rr o.a 1 ++ rs o.b 1)
  | .iabs o => (x.active o.g, rr o.d 1 ++ rr o.a 1)
  | .ineg o => (x.active o.g, rr o.d 1 ++ rr o.a 1)
  | .idiff o => (x.active o.g, rr o.d 1 ++ rr o.a 1 ++ rs o.b 1)
  | .lea1 o => (x.active o.g, rr o.d 2 ++ rr o.a 2 ++ rs o.b 1)
  | .lea2 o => (x.active o.g, rr o.d 2 ++ rr o.a 2 ++ rs o.b 1)
  | .lea3 o => (x.active o.g, rr o.d 2 ++ rr o.a 2 ++ rs o.b 1)
  | .lea4 o => (x.active o.g, rr o.d 2 ++ rr o.a 2 ++ rs o.b 1)
  | .iaddw o => (x.active o.g, rr o.d 2 ++ rr o.a 2 ++ rs o.b 2)
  | .isubw o => (x.active o.g, rr o.d 2 ++ rr o.a 2 ++ rs o.b 2)
  | .and o => (x.active o.g, rr o.d 1 ++ rr o.a 1 ++ rs o.b 1)
  | .or o => (x.active o.g, rr o.d 1 ++ rr o.a 1 ++ rs o.b 1)
  | .xor o => (x.active o.g, rr o.d 1 ++ rr o.a 1 ++ rs o.b 1)
  | .andn o => (x.active o.g, rr o.d 1 ++ rr o.a 1 ++ rs o.b 1)
  | .orn o => (x.active o.g, rr o.d 1 ++ rr o.a 1 ++ rs o.b 1)
  | .not o => (x.active o.g, rr o.d 1 ++ rr o.a 1)
  | .shl o => (x.active o.g, rr o.d 1 ++ rr o.a 1 ++ rs o.b 1)
  | .shrN o => (x.active o.g, rr o.d 1 ++ rr o.a 1 ++ rs o.b 1)
  | .shrI o => (x.active o.g, rr o.d 1 ++ rr o.a 1 ++ rs o.b 1)
  | .rotl o => (x.active o.g, rr o.d 1 ++ rr o.a 1 ++ rs o.b 1)
  | .popc o => (x.active o.g, rr o.d 1 ++ rr o.a 1)
  | .clz o => (x.active o.g, rr o.d 1 ++ rr o.a 1)
  | .brev o => (x.active o.g, rr o.d 1 ++ rr o.a 1)
  | .bytsel o => (x.active o.g, rr o.d 1 ++ rr o.a 1 ++ rs o.b 1)
  | .imul o => (x.active o.g, rr o.d 1 ++ rr o.a 1 ++ rs o.b 1)
  | .imulhI o => (x.active o.g, rr o.d 1 ++ rr o.a 1 ++ rs o.b 1)
  | .imulhN o => (x.active o.g, rr o.d 1 ++ rr o.a 1 ++ rs o.b 1)
  | .imulwI o => (x.active o.g, rr o.d 2 ++ rr o.a 1 ++ rs o.b 1)
  | .imulwN o => (x.active o.g, rr o.d 2 ++ rr o.a 1 ++ rs o.b 1)
  | .imad o => (x.active o.g, rr o.d 1 ++ rr o.a 1 ++ rr o.b 1 ++ rr o.c 1)
  | .imadW o => (x.active o.g, rr o.d 2 ++ rr o.a 1 ++ rr o.b 1 ++ rr o.c 2)
  | .bfe o => (x.active o.g, rr o.d 1 ++ rr o.a 1 ++ rr o.c 1)
  | .bfi o => (x.active o.g, rr o.d 1 ++ rr o.a 1 ++ rr o.b 1 ++ rr o.c 1)
  | .iset o => (x.active o.g, rr o.a 1 ++ rs o.b 1)
  | .mov o => (x.active o.g, rr o.d 1 ++ rs o.b 1)
  | .sel o => (x.active ⟨7, false⟩, rr o.d 1 ++ rr o.a 1 ++ rs o.b 1)
  | .movu o => (x.active o.g, rr o.d 1)
  | .movs o => (x.active o.g, rr o.d 1)
  | .iaddi o => (x.active ⟨o.p, false⟩, rr o.d 1 ++ rr o.a 1)
  | .andi o => (x.active ⟨o.p, false⟩, rr o.d 1 ++ rr o.a 1)
  | .ori o => (x.active ⟨o.p, false⟩, rr o.d 1 ++ rr o.a 1)
  | .xori o => (x.active ⟨o.p, false⟩, rr o.d 1 ++ rr o.a 1)
  | .shi o => (x.active ⟨o.p, false⟩, rr o.d 1 ++ rr o.a 1)
  | .movi o => (x.active ⟨o.p, false⟩, rr o.d 1)
  | .fadd o => (x.active o.g, rr o.d 1 ++ rr o.a 1 ++ rs o.b 1)
  | .fsub o => (x.active o.g, rr o.d 1 ++ rr o.a 1 ++ rs o.b 1)
  | .fmul o => (x.active o.g, rr o.d 1 ++ rr o.a 1 ++ rs o.b 1)
  | .fmin o => (x.active o.g, rr o.d 1 ++ rr o.a 1 ++ rs o.b 1)
  | .fmax o => (x.active o.g, rr o.d 1 ++ rr o.a 1 ++ rs o.b 1)
  | .fabs o => (x.active o.g, rr o.d 1 ++ rr o.a 1)
  | .fneg o => (x.active o.g, rr o.d 1 ++ rr o.a 1)
  | .fcopysign o => (x.active o.g, rr o.d 1 ++ rr o.a 1 ++ rs o.b 1)
  | .ffrac o => (x.active o.g, rr o.d 1 ++ rr o.a 1)
  | .fclass o => (x.active o.g, rr o.d 1 ++ rr o.a 1)
  | .frintRn o => (x.active o.g, rr o.d 1 ++ rr o.a 1)
  | .frintRz o => (x.active o.g, rr o.d 1 ++ rr o.a 1)
  | .frintRm o => (x.active o.g, rr o.d 1 ++ rr o.a 1)
  | .frintRp o => (x.active o.g, rr o.d 1 ++ rr o.a 1)
  | .faddRz o => (x.active o.g, rr o.d 1 ++ rr o.a 1 ++ rs o.b 1)
  | .faddRm o => (x.active o.g, rr o.d 1 ++ rr o.a 1 ++ rs o.b 1)
  | .faddRp o => (x.active o.g, rr o.d 1 ++ rr o.a 1 ++ rs o.b 1)
  | .fmulRz o => (x.active o.g, rr o.d 1 ++ rr o.a 1 ++ rs o.b 1)
  | .fmulRm o => (x.active o.g, rr o.d 1 ++ rr o.a 1 ++ rs o.b 1)
  | .fmulRp o => (x.active o.g, rr o.d 1 ++ rr o.a 1 ++ rs o.b 1)
  | .ffma o => (x.active o.g, rr o.d 1 ++ rr o.a 1 ++ rr o.b 1 ++ rr o.c 1)
  | .ffms o => (x.active o.g, rr o.d 1 ++ rr o.a 1 ++ rr o.b 1 ++ rr o.c 1)
  | .hfma2F16 o => (x.active o.g, rr o.d 1 ++ rr o.a 1 ++ rr o.b 1 ++ rr o.c 1)
  | .hfma2Bf16 o => (x.active o.g, rr o.d 1 ++ rr o.a 1 ++ rr o.b 1 ++ rr o.c 1)
  | .frcp o => (x.active o.g, rr o.d 1 ++ rr o.a 1)
  | .frsq o => (x.active o.g, rr o.d 1 ++ rr o.a 1)
  | .fsqrt o => (x.active o.g, rr o.d 1 ++ rr o.a 1)
  | .fex2 o => (x.active o.g, rr o.d 1 ++ rr o.a 1)
  | .flg2 o => (x.active o.g, rr o.d 1 ++ rr o.a 1)
  | .fsint o => (x.active o.g, rr o.d 1 ++ rr o.a 1)
  | .fcost o => (x.active o.g, rr o.d 1 ++ rr o.a 1)
  | .ftanh o => (x.active o.g, rr o.d 1 ++ rr o.a 1)
  | .flogi o => (x.active o.g, rr o.d 1 ++ rr o.a 1)
  | .fset o => (x.active o.g, rr o.a 1 ++ rs o.b 1)
  | .cvt o => (x.active o.g, rr o.d (if o.f == 8 || o.f == 9 then 2 else 1) ++ rs o.a (if o.f == 10 || o.f == 11 then 2 else 1))
  | .pk2F16 o => (x.active o.g, rr o.d 1 ++ rr o.a 1 ++ rr o.b 1)
  | .pk2Bf16 o => (x.active o.g, rr o.d 1 ++ rr o.a 1 ++ rr o.b 1)
  | .pk4E4m3 o => (x.active o.g, rr o.d 1 ++ rr o.a 2 ++ rr o.b 2)
  | .pk4E5m2 o => (x.active o.g, rr o.d 1 ++ rr o.a 2 ++ rr o.b 2)
  | .pk8E2m1 o => (x.active o.g, rr o.d 1 ++ rr o.a 4 ++ rr o.b 4)
  | .pk4E4m3Sat o => (x.active o.g, rr o.d 1 ++ rr o.a 2 ++ rr o.b 2)
  | .pk4E5m2Sat o => (x.active o.g, rr o.d 1 ++ rr o.a 2 ++ rr o.b 2)
  | .upk2F16 o => (x.active o.g, rr o.d 2 ++ rr o.a 1)
  | .upk2Bf16 o => (x.active o.g, rr o.d 2 ++ rr o.a 1)
  | .upk4E4m3 o => (x.active o.g, rr o.d 4 ++ rr o.a 1)
  | .upk4E5m2 o => (x.active o.g, rr o.d 4 ++ rr o.a 1)
  | .upk8E2m1 o => (x.active o.g, rr o.d 8 ++ rr o.a 1)
  | .dp4E4m3 o => (x.active o.g, rr o.d 1 ++ rr o.a 1 ++ rr o.b 1 ++ rr o.c 1)
  | .dp4E5m2 o => (x.active o.g, rr o.d 1 ++ rr o.a 1 ++ rr o.b 1 ++ rr o.c 1)
  | .idp4I8 o => (x.active o.g, rr o.d 1 ++ rr o.a 1 ++ rr o.b 1 ++ rr o.c 1)
  | .idp4N8 o => (x.active o.g, rr o.d 1 ++ rr o.a 1 ++ rr o.b 1 ++ rr o.c 1)
  | .pand _ => (0, [])
  | .por _ => (0, [])
  | .pxor _ => (0, [])
  | .pnot _ => (0, [])
  | .ppack o => (x.active o.g, rr o.d 1 ++ rr o.a 1)
  | .punpk o => (x.active o.g, rr o.a 1)
  | .pmov _ => (0, [])
  | .lxcAt o => (x.active o.g, rr o.d 1 ++ rr o.a 1 ++ rs o.b 1)
  | .lxcFlip o => (x.active o.g, rr o.d 1 ++ rr o.a 1 ++ rs o.b 1)
  | .lxcBelow o => (x.active o.g, rr o.d 1 ++ rr o.a 1 ++ rs o.b 1)
  | .lxcAbove o => (x.active o.g, rr o.d 1 ++ rr o.a 1 ++ rs o.b 1)
  | .lany _ => (0, [])
  | .lall _ => (0, [])
  | .lmask o => (x.active o.g, rr o.d 1)
  | .lfirst _ => (0, [])
  | .lsum o => (x.active o.g, rr o.d 1 ++ rr o.a 1)
  | .lminI o => (x.active o.g, rr o.d 1 ++ rr o.a 1)
  | .lmaxI o => (x.active o.g, rr o.d 1 ++ rr o.a 1)
  | .lsame o => (x.active o.g, rr o.d 1 ++ rr o.a 1)
  | .bra _ => (0, [])
  | .brx o => (x.active o.g, rr o.a 2)
  | .brk _ => (0, [])
  | .jset _ => (0, [])
  | .jwait _ => (0, [])
  | .jdrop _ => (0, [])
  | .jget o => (x.active o.g, rr o.d 2)
  | .jput o => (x.active o.g, rr o.a 2)
  | .call _ => (0, [])
  | .callx o => (x.active o.g, rr o.a 2)
  | .ret o => (x.active o.g, [31])
  | .nop _ => (0, [])
  | .exit _ => (0, [])
  | .yield _ => (0, [])
  | .nap o => (x.active o.g, rs o.b 1)
  | .ld o => (x.active o.g, rr o.d (wide o.z.toNat) ++ rr o.a 2)
  | .st o => (x.active o.g, rr o.d (wide o.z.toNat) ++ rr o.a 2)
  | .pref o => (x.active o.g, rr o.a 2)
  | .cline o => (x.active o.g, rr o.a 2)
  | .sld o => (x.active o.g, rr o.d (wide o.z.toNat) ++ rr o.a 1)
  | .sst o => (x.active o.g, rr o.d (wide o.z.toNat) ++ rr o.a 1)
  | .atom o => (x.active o.g, (if o.op == 12 then [] else rr o.d (wide o.size.toNat)) ++ rr o.a 2 ++ (if o.op == 11 then [] else rr o.b (wide o.size.toNat * (if o.op == 9 then 2 else 1))))
  | .red o => (x.active o.g, (if o.op == 16 || o.op == 26 then rr o.d 1 else []) ++ rr o.a 2 ++ rr o.b (wide o.size.toNat))
  | .satom o => (x.active o.g, rr o.d (wide o.size.toNat) ++ rr o.a 1 ++ rr o.b (wide o.size.toNat * (if o.op == 9 then 2 else 1)))
  | .tbox o => (x.active o.g, rr o.d 2 ++ rr o.a 2 ++ rr o.c 8)
  | .ttri o => (x.active o.g, rr o.d 4 ++ rr o.a 2 ++ rr o.c 8)
  | .trace o => (x.active o.g, List.range 16 ++ rr (24 : BitVec 5) 8)
  | .rspawn o => (x.active o.g, rr o.d 1 ++ rs o.b 1 ++ List.range 16 ++ rr (24 : BitVec 5) 8)
  | .nexthit o => (x.active o.g, List.range 16)
  | .rend o => (x.active o.g, List.range 16)
  | .uadd _ => (0, [])
  | .usub _ => (0, [])
  | .umul _ => (0, [])
  | .umulhN _ => (0, [])
  | .uminI _ => (0, [])
  | .umaxI _ => (0, [])
  | .uminN _ => (0, [])
  | .umaxN _ => (0, [])
  | .uand _ => (0, [])
  | .uor _ => (0, [])
  | .uxor _ => (0, [])
  | .ushl _ => (0, [])
  | .ushrN _ => (0, [])
  | .ushrI _ => (0, [])
  | .upopc _ => (0, [])
  | .uclz _ => (0, [])
  | .umov _ => (0, [])
  | .uaddw _ => (0, [])
  | .uaddi _ => (0, [])
  | .uandi _ => (0, [])
  | .uori _ => (0, [])
  | .ushi _ => (0, [])
  | .umovi _ => (0, [])
  | .uset _ => (0, [])
  | .umovs _ => (0, [])
  | .ulaneFirst o => (laneBit (lowest x.sp.mask), rr o.a 1)
  | .ulaneIdx o => (x.sp.mask &&& idxBit (SSrc.val o.b x.uni), rr o.a 1)
  | .cand _ => (0, [])
  | .cor _ => (0, [])
  | .cxor _ => (0, [])
  | .cnot _ => (0, [])
  | .ubra _ => (0, [])
  | .ujmp _ => (0, [])
  | .tfence => (0, [])
  | .trap _ => (0, [])
  | .rtt => (0, [])
  | .bkpt => (0, [])
  | .flgr _ => (0, [])
  | .flgc _ => (0, [])
  | .mode _ => (0, [])
  | .moder _ => (0, [])
  | .mma _ => (0, [])
  | .mmaC _ => (0, [])
  | .mmag _ => (0, [])
  | .mmas _ => (0, [])
  | .accZero _ => (0, [])
  | .accCommit _ => (0, [])
  | .accDrop _ => (0, [])
  | .accMerge _ => (0, [])
  | .accPoison _ => (0, [])
  | .accld _ => (0, [])
  | .accst _ => (0, [])
  | .amap _ => (0, [])
  | .bplLd _ => (0, [])
  | .bplZero _ => (0, [])
  | .pairBind _ => (0, [])
  | .pairFree _ => (0, [])
  | .mwait _ => (0, [])
  | .rowact _ => (0, [])
  | .rowcon _ => (0, [])
  | .rowwr _ => (0, [])
  | .rowpre _ => (0, [])
  | .rowst _ => (0, [])
  | .rowwait _ => (0, [])
  | .smap _ => (0, [])
  | .sunmap _ => (0, [])
  | .sflush _ => (0, [])
  | .sinv _ => (0, [])
  | .spres _ => (0, [])
  | .shpush _ => (0, [])
  | .sgath _ => (0, [])
  | .syncAcqX _ => (0, [])
  | .syncAcqS _ => (0, [])
  | .syncAcqO _ => (0, [])
  | .syncRel _ => (0, [])
  | .sbind _ => (0, [])
  | .sunbind _ => (0, [])
  | .fenceAcq _ => (0, [])
  | .fenceRel _ => (0, [])
  | .fenceFull _ => (0, [])
  | .semaSig _ => (0, [])
  | .semaWait _ => (0, [])
  | .semaTry _ => (0, [])
  | .barArr _ => (0, [])
  | .barWait _ => (0, [])
  | .barSync _ => (0, [])
  | .ordopen _ => (0, [])
  | .qpush _ => (0, [])
  | .qpop _ => (0, [])
  | .cont _ => (0, [])
  | .cfork _ => (0, [])
  | .cjoin _ => (0, [])
  | .launch _ => (0, [])
  | .mcast _ => (0, [])
  | .send _ => (0, [])
  | .recvPost _ => (0, [])
  | .recvWait _ => (0, [])
  | .recvTest _ => (0, [])
  | .recvCancel _ => (0, [])
  | .placeShadow _ _ => (0, [])
  | .switchCore _ _ => (0, [])
  | .loadContext _ => (0, [])
  | .killContext _ => (0, [])
  | .tlbDrop _ => (0, [])
  | .icacheInvalidate _ => (0, [])
  | .lqtailWrite _ _ => (0, [])
  | .fqheadWrite _ _ => (0, [])
  | .fqreplayWrite _ _ => (0, [])
  | .eqheadWrite _ _ => (0, [])
  | .pwrcapWrite _ => (0, [])
  | .weightWrite _ _ => (0, [])
  | .queueEnable _ _ => (0, [])
  | .queueDisable _ _ => (0, [])
  | .registerWrite _ _ => (0, [])
  | .bar2Access _ _ _ _ => (0, [])
  | .fundamentalReset => (0, [])
  | .bootVerifyDone _ => (0, [])
  | .pairLinkLost => (0, [])
  | .trapEntry _ _ => (0, [])
  | .contextFault _ => (0, [])
  | .killDone _ => (0, [])
  | .switchTaken _ => (0, [])
  | .drainComplete _ => (0, [])
  | .loadStart _ => (0, [])
  | .loadComplete _ _ => (0, [])
  | .napExpiry _ _ _ => (0, [])
  | .yieldTimeout _ _ _ => (0, [])
  | .opportunisticMerge _ _ _ _ => (0, [])
  | .launchAccept _ => (0, [])
  | .heldHeaderEnqueue _ => (0, [])
  | .blockAdmit _ _ _ => (0, [])
  | .blockEnd _ => (0, [])
  | .joinBufferRetry _ _ => (0, [])
  | .timeWrap => (0, [])
  | .walkDone _ => (0, [])
  | .sliceRead _ _ => (0, [])
  | .sliceStore _ => (0, [])
  | .l1Reply _ _ => (0, [])
  | .l1Probe _ => (0, [])
  | .storeAck _ => (0, [])
  | .targetAccess _ => (0, [])
  | .rscAccess _ => (0, [])
  | .atomPerform _ => (0, [])
  | .redApply _ => (0, [])
  | .orderedRedArrival _ => (0, [])
  | .ordopenAnswer _ => (0, [])
  | .syncGrant _ => (0, [])
  | .semaCountTaken _ => (0, [])
  | .barPhaseComplete _ _ => (0, [])
  | .scratchRemoteAccess _ => (0, [])
  | .scratchFillLand _ => (0, [])
  | .scratchWbAck _ => (0, [])
  | .scratchProbe _ => (0, [])
  | .haloPushArrival _ _ => (0, [])
  | .haloPushDone _ => (0, [])
  | .rowOpenDone _ _ => (0, [])
  | .rowCloseStart _ _ => (0, [])
  | .rowCloseDone _ _ => (0, [])
  | .rowHoldExpiry _ _ => (0, [])
  | .rowRefresh _ _ => (0, [])
  | .internalActivation _ _ _ => (0, [])
  | .rowTransferStart _ => (0, [])
  | .rowTransferEnd _ => (0, [])
  | .rowReactivation _ _ => (0, [])
  | .matrixOpStart _ => (0, [])
  | .matrixOpComplete _ => (0, [])
  | .engineJobStart _ => (0, [])
  | .engineJobComplete _ => (0, [])
  | .messageArrival _ => (0, [])
  | .messageResend _ => (0, [])
  | .tvuAccept _ _ => (0, [])
  | .traversalDone _ _ _ => (0, [])
  | .treeletFill _ _ _ => (0, [])
  | .treeletPrefetch _ _ _ => (0, [])
  | .rayEnterSaffron _ _ => (0, [])
  | .rayRefill _ _ _ => (0, [])
  | .episodeFormFull _ _ => (0, [])
  | .episodeFormPatience _ _ => (0, [])
  | .episodeFormDrain _ _ => (0, [])
  | .powerRemoved => (0, [])
  | .pairLinkUp => (0, [])
  | .pairFlitReplay => (0, [])
  | .pairedContextLost _ => (0, [])
  | .tvuLaneTestDone _ => (0, [])
  | .orderedRedResend _ => (0, [])
  | .engineCardEntry _ => (0, [])

/-- Some register that the instruction touches is pending. -/
def Ex.touchesPending (x : Ex) (i : Instr) : Bool :=
  let t := touched x i
  x.gr.pend.any fun p =>
    match p.lane, p.reg with
    | some l, .v r => Mask.has t.1 l && decide (r ∈ t.2)
    | _, _ => false
/-- A window of the split has closed and results of its instruction are not written (R60). -/
def Ex.windowShut (x : Ex) : Bool :=
  x.sp.wins.any fun w => w.2 == 0 && x.gr.pend.any fun p =>
    p.iid == w.1 && (match p.lane with | some l => Mask.has x.sp.mask l | none => true)
/-- The windows of the executing split after one more instruction. -/
def Ex.countedWins (x : Ex) : List (Nat × Nat) := Machine.countedWins x.gr x.sp

/-! ### Fetch (R215, R238) -/

/-- What a fetch gives. -/
inductive Fetched where
  | line (d : Line)
  | miss
  | bad (cause : Nat) (host : Bool)
  deriving DecidableEq, Repr

/-- The line that holds a PC, from the core's instruction cache or from its home. -/
def State.fetch (s : State) (core ctx : Nat) (who : Waiter) (pc : Nat) : Fetched × State :=
  match s.translate core ctx who pc { fetch := true } with
  | (.miss, s) => (.miss, s)
  | (.bad c h, s) => (.bad c h, s)
  | (.ok _ pa, s) =>
    match mget (s.core core).icache (lineAddr pa) with
    | some d => (.line d, s)
    | none =>
      let r := s.agentLine ctx (lineAddr pa)
      (.line r.1.1, r.2.modCore core fun k => { k with icache := mset k.icache (lineAddr pa) r.1.1 })
/-- The word at an address of a line. -/
def lineWord (d : Line) (a : Nat) : Word := d.extractLsb' (8 * (a % 64)) 32

/-! ### Eligible splits (R82, R85) -/

/-- A context may issue on a core. -/
def State.ctxIssues (s : State) (core ctx : Nat) : Bool :=
  mget (s.core core).res ctx == some .active && decide ((s.core core).quietUntil ≤ s.now) &&
  (s.ctx ctx).faults == [] && (s.core core).rows.reopen == []
/-- What a split needs before its next instruction is looked at; once its group has raised a cause, only the instructions that
issue in the same clk go on (R420). -/
def Ex.awake (x : Ex) (now : Nat) : Bool :=
  (x.sp.st == .ready || x.sp.st.polls) && (x.gr.trapping == none || x.gr.also.contains x.entry) && !x.gr.ended &&
  decide (x.sp.notBefore ≤ now) && x.sp.yield == none &&
  (x.sp.st.polls || x.gr.holder == none || x.gr.holder == some x.entry)
/-- An instruction that has issued and waits goes on before a trap is entered and while its context drains (R62, R82, R438). -/
def State.goesOn (s : State) (x : Ex) : Bool :=
  let r := mget (s.core x.core).res x.gr.ctx
  x.sp.going && !x.gr.ended && (r == some .active || r == some .draining) && (s.ctx x.gr.ctx).faults == []

/-- What stands at the PC of a split. -/
inductive Look where
  /-- The split is not eligible. -/
  | wait
  /-- It needs a result that a touch of mapped scratch awaits: it parks (R179). -/
  | park (touch : Nat)
  /-- A fault met before the instruction executes: cause, host, the values of s60 and s61. -/
  | fault (cause : Nat) (host : Bool) (w0 w1 : Word)
  | run (i : Instr)
  deriving DecidableEq, Repr

/-- A touch waits for a fill: some word that it reads has no value yet (R179, R192). One that is only on its way to another core
leaves its split READY (R82). -/
def State.waitsFill (s : State) (t : Touch) : Bool :=
  t.op.reads && t.lanes.any fun k => !s.validRange t.at_ k.off t.op.size
/-- The touch that a pending result waits for, where the wait parks; an instruction after a join needs every result of its lanes
(R88). -/
def State.touchOf (s : State) (x : Ex) (t : Mask × List Nat) : Option Nat :=
  let waits := fun (iid : Nat) => s.fly.touches.any fun q => decide (q.2.who.iid = iid) && s.waitsFill q.2
  let hit := x.gr.pend.find? fun p => waits p.iid &&
    match p.lane, p.reg with
    | some l, .v r =>
      (Mask.has t.1 l && decide (r ∈ t.2)) ||
      (Mask.has x.sp.mask l && (x.sp.settle || x.sp.wins.any fun w => w.1 == p.iid && w.2 == 0))
    | _, _ => false
  match hit with
  | some p => (s.fly.touches.find? fun q => decide (q.2.who.iid = p.iid)).map Prod.fst
  | none => none

/-- The instruction decoded from two words at an address, or the fault (R51, R67, R68). -/
noncomputable def lookWord (a : Nat) (w0 w1 : Word) : Look :=
  match decode w0 w1 with
  | .bad e =>
    if e.first then .fault 1 false w0 (if carriesX w0 then w1 else 0)
    else if a % 8 = 4 then .fault 7 false w0 w1
    else .fault 1 false w0 w1
  | .ok i => if i.len = 8 ∧ a % 8 = 4 then .fault 7 false w0 w1 else .run i

/-- The interlocks of a decoded instruction (R60). An instruction that waits counts one violation, whatever the number of open
windows it touches, and none while another instruction's window is shut: the model's choice (log 91). -/
def State.lookInstr (s : State) (x : Ex) (i : Instr) : Look × State :=
  if x.windowShut || x.touchesPending i then
    let viol := x.touchesPending i && !x.windowShut && !x.sp.counted
    let s := if viol then
        (s.bump x.core .laviol).modGroup x.core x.slot fun g => g.modSplit x.entry fun sp => { sp with counted := true }
      else s
    match s.touchOf x (touched x i) with
    | some t => (.park t, s)
    | none => (.wait, s)
  else (.run i, s)

/-- A misplaced 8-byte instruction whose second word stands in the next line: s61 takes that word where it can be fetched
(R68), and else 0, which is the model's choice (log 73). -/
def State.secondWord (s : State) (x : Ex) (a cause : Nat) (w0 : Word) : Look × State :=
  match s.fetch x.core x.gr.ctx x.waiter (a + 4) with
  | (.miss, s) => (.wait, s)
  | (.bad _ _, s) => (.fault cause false w0 0, s)
  | (.line d, s) => (.fault cause false w0 (lineWord d (a + 4)), s)
/-- What stands at the PC of a split that is awake, fetched and decoded. -/
noncomputable def State.lookAt (s : State) (x : Ex) : Look × State :=
    let a := (Pc.addr x.sp.pc).toNat
    match s.fetch x.core x.gr.ctx x.waiter a with
    | (.miss, s) => (.wait, s)
    | (.bad c h, s) => (.fault c h (loOf (Pc.addr x.sp.pc)) (hiOf (Pc.addr x.sp.pc)), s)
    | (.line d, s) =>
      let w0 := lineWord d a
      if x.sp.jumped && decide (a % 8 = 4) && carriesX (lineWord d (a - 4)) then
        (.fault 2 false (lineWord d (a - 4)) w0, s)
      else
        let w1 := if a % 64 = 60 then 0 else lineWord d (a + 4)
        match lookWord a w0 w1 with
        | .run i => s.lookInstr x i
        | .fault c h v0 v1 => if a % 64 = 60 ∧ carriesX w0 = true then s.secondWord x a c v0 else (.fault c h v0 v1, s)
        | l => (l, s)
/-- What a split does next: an instruction that has issued goes on; a split merged at a join waits for the results of its
lanes, and parks where one waits for a touch (R82, R88, R179); any other awake split has its next instruction looked at. -/
noncomputable def State.look (s : State) (x : Ex) : Look × State :=
  if s.goesOn x then (match x.sp.latch with | some l => .run l.instr | none => .wait, s)
  else if x.sp.going || !(s.ctxIssues x.core x.gr.ctx && x.awake s.now) then (.wait, s)
  else if x.sp.settle && x.gr.pending x.sp.mask then
    (match s.touchOf x (0, []) with | some t => .park t | none => .wait, s)
  else
    match x.sp.latch with
    | some l => (.run l.instr, s)
    | none => s.lookAt x

/-! ### What an instruction takes in its clk (R84) -/

def majorOf (w : Word) : Nat := (w.extractLsb' 25 7).toNat
/-- MODE and MODER, whose new mode the other instructions of their clk do not see (R140). -/
def setsMode : Instr → Bool
  | .mode _ => true
  | .moder _ => true
  | _ => false
/-- The place that an instruction takes in its quadrant. -/
def Ex.issued (x : Ex) (i : Instr) : Issued :=
  let mj := majorOf (firstWord i)
  { slot := x.slot, entry := x.entry, uniform := decide (64 ≤ mj), memory := decide (0x30 ≤ mj ∧ mj ≤ 0x3C), mask := x.sp.mask,
    late := setsMode i, matrix := entersMatrix i }

/-- What a fault that stands before the instruction takes in its clk. -/
def Ex.faulting (x : Ex) : Issued := { slot := x.slot, entry := x.entry, uniform := false, memory := false, mask := x.sp.mask }

/-! ### YIELD and NAP (R85, R109) -/

/-- The eligible splits of a quadrant (R82, R85): READY ones whose next instruction has not issued and may issue; each with
what it takes and the clk of its rank (R84). -/
noncomputable def State.eligibleIn (s : State) (core q : Nat) : List (Nat × Issued) :=
  ((s.core core).groups.filter fun g => quadrantOf g.1 = q).flatMap fun g => g.2.splits.filterMap fun e =>
    let x : Ex := ⟨core, g.1, e.1, g.2, e.2⟩
    if e.2.st = .ready ∧ e.2.latch = none then
      match (s.look x).1 with
      | .run i => some (e.2.since, x.issued i)
      | .fault .. => some (e.2.since, x.faulting)
      | _ => none
    else none
/-- The split gives way: until 64 clk have passed or the splits that were eligible have issued; the list of them is made as
the issue of this instruction ends (`State.listRivals`). -/
def State.yields (s : State) (x : Ex) (n : Nat) : State :=
  (s.done x n id).modGroup x.core x.slot fun g => g.modSplit x.entry fun sp => { sp with yield := some (s.now + 64, []) }
/-- The splits that were eligible at a YIELD, put into the entry of the split that has just executed one; with none, the
split is eligible at once. -/
noncomputable def State.listRivals (s before : State) (x : Ex) : State :=
  match s.exAt x.core x.slot x.entry with
  | none => s
  | some y =>
    match y.sp.yield with
    | some (t, []) =>
      let others := ((before.eligibleIn x.core (quadrantOf x.slot)).map fun p => (p.2.slot, p.2.entry)).filter fun p =>
        p ≠ (x.slot, x.entry)
      s.modGroup x.core x.slot fun g => g.modSplit x.entry fun sp =>
        { sp with yield := if others = [] then none else some (t, others) }
    | _ => s

def execYield (o : G0) (s : State) : Out :=
  onSplit s fun x => if x.active o.g = 0 then .next (s.done x 4 id) else .next (s.yields x 4)
def execNap (o : B1) (s : State) : Out :=
  onSplit s fun x =>
    let a := x.active o.g
    let n := VSrc.len o.b
    if a = 0 then .next (s.done x n id)
    else
      let c := (VSrc.val o.b (x.gr.lane (lowest a))).toNat % 2 ^ 16
      if c = 0 then .next (s.yields x n)
      else .next ((s.done x n id).modGroup x.core x.slot fun g =>
        g.modSplit x.entry fun sp => { sp with st := .nap (s.now + c) })
/-- NAP_EXPIRY: the count of a nap has run out. -/
def execNapExpiry (core slot entry : Nat) (s : State) : Out :=
  match s.exAt core slot entry with
  | none => .refused .eventNotDue
  | some x =>
    match x.sp.st with
    | .nap t =>
      if t ≤ s.now then
        .next (s.modGroup core slot fun g => g.modSplit entry fun sp => { sp with st := .ready })
      else .refused .eventNotDue
    | _ => .refused .eventNotDue
/-- YIELD_TIMEOUT: 64 clk have passed since a YIELD. -/
def execYieldTimeout (core slot entry : Nat) (s : State) : Out :=
  match s.exAt core slot entry with
  | none => .refused .eventNotDue
  | some x =>
    match x.sp.yield with
    | some (t, _) =>
      if t ≤ s.now then .next (s.modGroup core slot fun g => g.modSplit entry fun sp => { sp with yield := none })
      else .refused .eventNotDue
    | none => .refused .eventNotDue

/-! ### The limits of one clk (R84) -/

/-- What a quadrant has issued in the present clk. -/
def State.usedNow (s : State) (core q : Nat) : List Issued :=
  match mget (s.core core).issued q with
  | some u => if u.clk = s.now then u.used else []
  | none => []
/-- The limits of R84 allow one more: four in all, one uniform instruction, one of majors 0x30–0x3C, disjoint masks of lane
instructions on one pipe, and one instruction of a split. -/
def fits (used : List Issued) (n : Issued) : Bool :=
  decide (used.length < 4) &&
  used.all fun u =>
    !(u.uniform && n.uniform) && !(u.memory && n.memory) &&
    (((u.uniform || n.uniform) && decide (u.slot ≠ n.slot)) || decide (u.slot % 4 ≠ n.slot % 4) || (u.mask &&& n.mask) == 0)
/-- A split put among others in rank: by the clk of the last issue, the earliest first. -/
def putRank (n : Nat × Issued) : List (Nat × Issued) → List (Nat × Issued)
  | [] => [n]
  | p :: t => if n.1 < p.1 then n :: p :: t else p :: putRank n t
/-- The choice of R84 among ranked splits. -/
def pick (used : List Issued) : List (Nat × Issued) → List Issued
  | [] => []
  | p :: t => if fits used p.2 then p.2 :: pick (used ++ [p.2]) t else pick used t
/-- What a quadrant issues yet in the present clk (R84). -/
noncomputable def State.picks (s : State) (core q : Nat) : List Issued :=
  pick (s.usedNow core q) ((s.eligibleIn core q).foldl (fun l n => putRank n l) [])
/-- The place of an instruction among those of its group in one clk: ascending entries (R239, R420), and a new mode last
(R140). -/
def Issued.place (n : Issued) : Nat := if n.late then 8 else n.entry
/-- A split issues now: R84 chooses it, no other of its group goes before it in this clk, and an instruction for the matrix
queue follows those of lower quadrants (R293). -/
noncomputable def State.mayIssue (s : State) (core : Nat) (n : Issued) : Bool :=
  let l := s.picks core (quadrantOf n.slot)
  decide (n ∈ l) && l.all (fun m => !(decide (m.slot = n.slot) && decide (m.place < n.place))) &&
  (!n.matrix || (List.range (quadrantOf n.slot)).all fun q => (s.picks core q).all fun m => !m.matrix)
/-- The other entries of the group whose instructions R84 gives the present clk, and which issue in it yet (R420). -/
noncomputable def State.alsoNow (s : State) (x : Ex) : List Nat :=
  ((s.picks x.core (quadrantOf x.slot)).filter fun m => m.slot = x.slot ∧ m.entry ≠ x.entry).map Issued.entry
/-- The instructions that act on join registers (R87). -/
def actsOnJoins : Instr → Bool
  | .jset _ => true
  | .jwait _ => true
  | .jdrop _ => true
  | .brk _ => true
  | .jget _ => true
  | .jput _ => true
  | .exit _ => true
  | _ => false
/-- Of two splits of a group that act on joins in one clk the lower entry is first (R87): an EXIT that has waited and goes on is
ordered with those that issue. -/
noncomputable def State.joinTurn (s : State) (x : Ex) (i : Instr) : Bool :=
  !actsOnJoins i ||
  ((x.gr.splits.all fun e => !(decide (e.1 < x.entry) && e.2.going && match e.2.latch with
    | some l => (match l.instr with
      | .exit o => !x.gr.pending ((⟨x.core, x.slot, e.1, x.gr, e.2⟩ : Ex).active o.g)
      | _ => false)
    | none => false)) &&
  (!x.sp.going || (s.picks x.core (quadrantOf x.slot)).all fun m => !(decide (m.slot = x.slot) && decide (m.place < x.entry))))
/-- An instruction issues: the quadrant's record, and the splits that yielded to this one. -/
def State.noteIssue (s : State) (x : Ex) (n : Issued) : State :=
  let q := quadrantOf x.slot
  let used := s.usedNow x.core q ++ [n]
  let gaveWay := fun (sp : Split) =>
    match sp.yield with
    | some (t, l) =>
      let l := l.filter fun p => p ≠ (x.slot, x.entry)
      { sp with yield := if l = [] then none else some (t, l) }
    | none => sp
  s.modCore x.core fun k => { k with
    issued := mset k.issued q ⟨s.now, used⟩
    groups := mall k.groups fun g (gr : Group) =>
      if quadrantOf g = q then { gr with splits := mall gr.splits fun _ sp => gaveWay sp } else gr }

end Sys2Proof.Machine
end

