-- ==== Sys2Proof/Machine/LaneFloat.lean ====
section
/-! DEFINITION. FP32 arithmetic, fused and packed multiply-add, special functions, FP32 compares and dot products of lanes
(spec 06 R152 to R164). -/
namespace Sys2Proof.Machine

/-- d := f(a, b) with flags. -/
def opFloat3 (o : R3) (s : State) (f : Bool → Nat → Nat → Nat × Flags) : Out :=
  laneOpU s (VSrc.len o.b) o.g fun u _ ln =>
    let y := f (ftz32 u) (ln.v o.a.toNat).toNat (VSrc.val o.b ln).toNat
    (ln.setV o.d.toNat (toW y.1)).raise y.2
/-- d := f(a) with flags. -/
def opFloat2 (o : R2) (s : State) (f : Bool → Nat → Nat × Flags) : Out :=
  laneOpU s 4 o.g fun u _ ln =>
    let y := f (ftz32 u) (ln.v o.a.toNat).toNat
    (ln.setV o.d.toNat (toW y.1)).raise y.2
/-- d := f(a, b, c) with flags. -/
def opFloat4 (o : F4) (s : State) (f : Uniform → Nat → Nat → Nat → Nat × Flags) : Out :=
  laneOpU s 4 o.g fun u _ ln =>
    let y := f u (ln.v o.a.toNat).toNat (ln.v o.b.toNat).toNat (ln.v o.c.toNat).toNat
    (ln.setV o.d.toNat (toW y.1)).raise y.2

def execFadd (o : R3) (s : State) : Out := opFloat3 o s (fAdd fF32 .rn)
def execFsub (o : R3) (s : State) : Out := opFloat3 o s (fSub fF32 .rn)
def execFmul (o : R3) (s : State) : Out := opFloat3 o s (fMul fF32 .rn)
def execFmin (o : R3) (s : State) : Out := opFloat3 o s (fMinMax false)
def execFmax (o : R3) (s : State) : Out := opFloat3 o s (fMinMax true)
def execFabs (o : R2) (s : State) : Out := opR2 o s fun a => a &&& 0x7FFFFFFF
def execFneg (o : R2) (s : State) : Out := opR2 o s fun a => a ^^^ 0x80000000
def execFcopysign (o : R3) (s : State) : Out := opR3 o s fun a b => (a &&& 0x7FFFFFFF) ||| (b &&& 0x80000000)
def execFfrac (o : R2) (s : State) : Out := opFloat2 o s fFrac
def execFclass (o : R2) (s : State) : Out := opR2 o s fun a => toW (fClass a.toNat)
def execFrintRn (o : R2) (s : State) : Out := opFloat2 o s (fRint .rn)
def execFrintRz (o : R2) (s : State) : Out := opFloat2 o s (fRint .rz)
def execFrintRm (o : R2) (s : State) : Out := opFloat2 o s (fRint .rm)
def execFrintRp (o : R2) (s : State) : Out := opFloat2 o s (fRint .rp)
def execFaddRz (o : R3) (s : State) : Out := opFloat3 o s (fAdd fF32 .rz)
def execFaddRm (o : R3) (s : State) : Out := opFloat3 o s (fAdd fF32 .rm)
def execFaddRp (o : R3) (s : State) : Out := opFloat3 o s (fAdd fF32 .rp)
def execFmulRz (o : R3) (s : State) : Out := opFloat3 o s (fMul fF32 .rz)
def execFmulRm (o : R3) (s : State) : Out := opFloat3 o s (fMul fF32 .rm)
def execFmulRp (o : R3) (s : State) : Out := opFloat3 o s (fMul fF32 .rp)

def execFfma (o : F4) (s : State) : Out := opFloat4 o s fun u => fFma fF32 (ftz32 u) false
def execFfms (o : F4) (s : State) : Out := opFloat4 o s fun u => fFma fF32 (ftz32 u) true
/-- Both halves of HFMA2 (R156). -/
def hfma2 (f : Fmt) (ftz : Bool) (a b c : Nat) : Nat × Flags :=
  let h := fun i => fFma f ftz false (bits a (16 * i) 16) (bits b (16 * i) 16) (bits c (16 * i) 16)
  ((h 0).1 + 2 ^ 16 * (h 1).1, (h 0).2 ||| (h 1).2)
def execHfma2F16 (o : F4) (s : State) : Out := opFloat4 o s fun u => hfma2 fF16 (ftz16 u)
def execHfma2Bf16 (o : F4) (s : State) : Out := opFloat4 o s fun u => hfma2 fBf16 (ftz16 u)

def execFrcp (o : R2) (s : State) : Out := opFloat2 o s (special fRcp)
def execFrsq (o : R2) (s : State) : Out := opFloat2 o s (special fRsq)
def execFsqrt (o : R2) (s : State) : Out := opFloat2 o s (special fSqrt)
def execFex2 (o : R2) (s : State) : Out := opFloat2 o s (special fEx2)
def execFlg2 (o : R2) (s : State) : Out := opFloat2 o s (special fLg2)
def execFsint (o : R2) (s : State) : Out := opFloat2 o s (special fSint)
def execFcost (o : R2) (s : State) : Out := opFloat2 o s (special fCost)
def execFtanh (o : R2) (s : State) : Out := opFloat2 o s (special fTanh)
def execFlogi (o : R2) (s : State) : Out := opFloat2 o s (special fLogi)

/-- FSET (R158, R159). -/
def execFset (o : Cmp) (s : State) : Out :=
  laneOpU s (VSrc.len o.b) o.g fun u _ ln =>
    let t := fcond o.f.toNat (ftz32 u) (ln.v o.a.toNat).toNat (VSrc.val o.b ln).toNat
    (ln.setP o.p (combine o.m (ln.p o.p) t.1)).raise t.2

def execDp4E4m3 (o : F4) (s : State) : Out := opFloat4 o s fun u => dp4 fE4m3 (ftz32 u)
def execDp4E5m2 (o : F4) (s : State) : Out := opFloat4 o s fun u => dp4 fE5m2 (ftz32 u)

/-- IDP4 (R164). -/
def idp4 (sx : Bool) (a b c : Word) : Word :=
  let x := fun (w : Word) (i : Nat) => if sx then (w.extractLsb' (8 * i) 8).signExtend 32 else (w.extractLsb' (8 * i) 8).zeroExtend 32
  c + x a 0 * x b 0 + x a 1 * x b 1 + x a 2 * x b 2 + x a 3 * x b 3
def execIdp4I8 (o : F4) (s : State) : Out := opF4 o s (idp4 true)
def execIdp4N8 (o : F4) (s : State) : Out := opF4 o s (idp4 false)

end Sys2Proof.Machine
end

