-- ==== Sys2Proof/Machine/Stack.lean ====
section
/-! DEFINITION. CALL, CALLX and RET: the moving window of the register stack and its spill area (spec 05 R115 to R124). -/
namespace Sys2Proof.Machine

/-- The area of a group (R116), and the address of logical word i of lane l. -/
def State.spillArea (s : State) (ctx core slot : Nat) : Nat :=
  (s.ctx ctx).regs.srbase + 32 * (s.ctx ctx).regs.srw * (512 * core + slot)
def spillAddr (area l i : Nat) : Nat := area + 32 * i + 4 * l

/-- Words to move for lanes: (lane, logical word). -/
abbrev Words := List (Nat × Nat)
/-- A failed access of the PSE: the lane, the address, the cause and whether the host serves it. -/
structure PseFail where
  lane : Nat
  va : Nat
  cause : Nat
  host : Bool
  deriving DecidableEq, Repr

/-- One word of the area translated with the privilege of the PSE; class R is a class violation (R116), and a malformed entry is
reported (R211). -/
def State.pseWord (s : State) (ctx area : Nat) (write : Bool) (p : Nat × Nat) : (PseFail ⊕ (Nat × Nat)) × State :=
  let va := spillAddr area p.1 p.2
  match s.walkAndTell ctx va with
  | (.none_ hs _, s) => (.inl ⟨p.1, va, 4, hs⟩, s)
  | (.leaf e, s) =>
    match s.pteCause e va { write := write, priv := true } with
    | some c => (.inl ⟨p.1, va, c, c == 5 && pteHS e⟩, s)
    | none => if pteClass e = 3 then (.inl ⟨p.1, va, 6, false⟩, s) else (.inr (ptePa e va, pteClass e), s)
/-- Every word translated: the failures, and the physical addresses with their classes. -/
def State.pseWords (s : State) (ctx area : Nat) (write : Bool) : Words → (List PseFail × List (Nat × Nat)) × State
  | [] => (([], []), s)
  | p :: t =>
    let r := s.pseWord ctx area write p
    let q := State.pseWords r.2 ctx area write t
    match r.1 with
    | .inl f => ((f :: q.1.1, q.1.2), q.2)
    | .inr a => ((q.1.1, a :: q.1.2), q.2)
/-- The failure that decides, with the lanes that it covers: a trap gives the address of the group's area (R116, R121, R124),
and the record for the host the address that failed. -/
def pseFault (s : State) (x : Ex) (write : Bool) (f : PseFail) (fs : List PseFail) : Out :=
  accessFault s x f.cause f.host write (maskOf ((fs.filter fun g => g.cause = f.cause).map PseFail.lane))
    (toD (if f.host then f.va else s.spillArea x.gr.ctx x.core x.slot))

/-- The words written. -/
def State.pseStore (s : State) (ctx p : Nat) (g : Group) : Words → List (Nat × Nat) → State
  | (l, i) :: t, (pa, cls) :: r =>
    let (d, m) := placeBytes (pa % 64) (leBytes 4 (mgetD (g.lane l).regs i 0).toNat)
    State.pseStore (s.agentStore ctx (lineAddr pa) cls d m 0 p) ctx p g t r
  | _, _ => s
/-- The words read back. -/
def State.pseLoad (s : State) (ctx : Nat) (g : Group) : Words → List (Nat × Nat) → Group × State
  | (l, i) :: t, (pa, _) :: r =>
    let q := s.agentLine ctx (lineAddr pa)
    let w : Word := q.1.1.extractLsb' (8 * (pa % 64)) 32
    State.pseLoad q.2 ctx (g.modLane l fun ln => { ln with regs := mput 0 ln.regs i w }) t r
  | _, _ => (g, s)

/-- The logical words of a range. -/
def wordRange (l lo hi : Nat) : Words := (List.range (hi - lo)).map fun i => (l, lo + i)

/-- The window of one lane after a call of k (R121). -/
def Lane.called (ln : Lane) (k : Nat) (lo : Nat) (ret : DWord) : Lane :=
  let ln := { ln with stk := lo, wb := ln.wb + k, regs := mkeep ln.regs fun i _ => decide (lo ≤ i) }
  (ln.setVs (32 - k) (List.replicate (k - 1) 0)).setV 31 ((loOf ret &&& 0xFFFFFFFC) + toW (k / 8))
/-- The resident range that a call of k needs: max(%stk, wb + k + 32 − S). -/
def Lane.needs (ln : Lane) (k S : Nat) : Nat := max ln.stk (ln.wb + k + 32 - S)

/-- The effect of CALL and CALLX once every lane has its target (R121). -/
def enterCall (s : State) (x : Ex) (a : Mask) (k : Nat) (t : List (Nat × DWord)) : Out :=
  let ret := Pc.plus x.sp.pc 4
  let far := t.filter fun p => hiOf p.2 != hiOf (Pc.addr ret)
  match s.blockOf x.gr, far with
  | none, _ => hold s
  | some _, p :: _ => trapAt s x 5 (maskOf (far.map Prod.fst)) (loOf p.2) (hiOf p.2)
  | some b, [] =>
    let lo := fun l => (x.gr.lane l).needs k b.stack
    let deep := (lanesOf a).filter fun l => decide (lo l > b.limit)
    if deep ≠ [] then trapAt s x 8 (maskOf deep) (toW ((lanesOf a).foldl (fun m l => max m (lo l)) 0)) (toW b.limit)
    else
      let ws := (lanesOf a).flatMap fun l => wordRange l (x.gr.lane l).stk (lo l)
      let ctx := x.gr.ctx
      match s.pseWords ctx (s.spillArea ctx x.core x.slot) true ws with
      | ((f :: fs, _), s) => pseFault s x true f (f :: fs)
      | (([], pas), s) =>
        let s := (s.pseStore ctx (s.pts x.core ctx) x.gr ws pas).bump x.core .spillw ws.length
        let g := x.gr.modLanes a fun l ln => ln.called k (lo l) (Pc.addr ret)
        .next (s.divide x g (x.targets a t 4))

def execCall (o : CallO) (s : State) : Out :=
  onSplit s fun x =>
    let a := x.active o.g
    if a = 0 then .next (s.done x 4 id)
    else if x.gr.pending a then hold s
    else enterCall s x a (8 * o.k.toNat) ((lanesOf a).map fun l => (l, Pc.addr (Pc.disp x.sp.pc o.d)))
def execCallx (o : CallxO) (s : State) : Out :=
  onSplit s fun x =>
    let a := x.active o.g
    if a = 0 then .next (s.done x 4 id)
    else if x.gr.pending a then hold s
    else
      let t := (lanesOf a).map fun l => (l, (x.gr.lane l).vPair o.a.toNat)
      match targetFault s x (firstWord (.callx o)) t with
      | some r => r
      | none => enterCall s x a (8 * o.k.toNat) t

/-- The cause that a lane raises at RET (R124). -/
def Lane.retCause (ln : Lane) : Nat :=
  let k := (ln.v 31).extractLsb' 0 2
  if k = 0 then 7 else if ln.wb < 8 * k.toNat then 8 else 0
/-- The new window base of a lane at RET. -/
def Lane.retWb (ln : Lane) : Nat := ln.wb - 8 * ((ln.v 31).extractLsb' 0 2).toNat
/-- RET (R124): the words above the returned window are dead and leave the resident range. -/
def Lane.returned (ln : Lane) (wb : Nat) : Lane :=
  { ln with wb := wb, stk := min ln.stk wb, regs := mkeep ln.regs fun i _ => decide (i < wb + 32) }
def execRet (o : G0) (s : State) : Out :=
  onSplit s fun x =>
    let a := x.active o.g
    if a = 0 then .next (s.done x 4 id)
    else if x.gr.pending a then hold s
    else
      let bad := (lanesOf a).filter fun l => (x.gr.lane l).retCause != 0
      match bad with
      | l :: _ =>
        let c := (x.gr.lane l).retCause
        let m := maskOf (bad.filter fun i => (x.gr.lane i).retCause == c)
        let lim := match s.blockOf x.gr with | some b => b.limit | none => 0
        if c = 7 then trapAt s x 7 m ((x.gr.lane l).v 31) 0 else trapAt s x 8 m 0 (toW lim)
      | [] =>
        let ctx := x.gr.ctx
        let ws := (lanesOf a).flatMap fun l => wordRange l (x.gr.lane l).retWb (x.gr.lane l).stk
        match s.pseWords ctx (s.spillArea ctx x.core x.slot) false ws with
        | ((f :: fs, _), s) => pseFault s x false f (f :: fs)
        | (([], pas), s) =>
          let t := (lanesOf a).map fun l =>
            (l, pairOf ((x.gr.lane l).v 31 &&& 0xFFFFFFFC) (hiOf (Pc.addr x.sp.pc)))
          let q := s.pseLoad ctx (x.gr.modLanes a fun l ln => ln.returned (x.gr.lane l).retWb) ws pas
          .next ((q.2.bump x.core .fillw ws.length).divide x q.1 (x.targets a t 4))

end Sys2Proof.Machine
end

