-- ==== Sys2Proof/Machine/UniformArith.lean ====
section
/-! DEFINITION. Uniform arithmetic (spec 06 R165 to R167): each member as its lane member, once for the group. -/
namespace Sys2Proof.Machine

def execUadd (o : U3) (s : State) : Out := opU3 o s fun a b => a + b
def execUsub (o : U3) (s : State) : Out := opU3 o s fun a b => a - b
def execUmul (o : U3) (s : State) : Out := opU3 o s fun a b => a * b
def execUmulhN (o : U3) (s : State) : Out := opU3 o s mulhN
def execUminI (o : U3) (s : State) : Out := opU3 o s minI
def execUmaxI (o : U3) (s : State) : Out := opU3 o s maxI
def execUminN (o : U3) (s : State) : Out := opU3 o s minN
def execUmaxN (o : U3) (s : State) : Out := opU3 o s maxN
def execUand (o : U3) (s : State) : Out := opU3 o s fun a b => a &&& b
def execUor (o : U3) (s : State) : Out := opU3 o s fun a b => a ||| b
def execUxor (o : U3) (s : State) : Out := opU3 o s fun a b => a ^^^ b
def execUshl (o : U3) (s : State) : Out := opU3 o s shl
def execUshrN (o : U3) (s : State) : Out := opU3 o s shrN
def execUshrI (o : U3) (s : State) : Out := opU3 o s shrI
def execUpopc (o : U2) (s : State) : Out := opU2 o s popc
def execUclz (o : U2) (s : State) : Out := opU2 o s clz
def execUmov (o : Udb) (s : State) : Out := uniOp s (SSrc.len o.b) fun u => u.setS o.d.toNat (SSrc.val o.b u)
def execUaddw (o : U3) (s : State) : Out :=
  uniOp s (SSrc.len o.b) fun u => u.setPair o.d.toNat (u.pair o.a.toNat + SSrc.val64 o.b u)
def execUaddi (o : UiO) (s : State) : Out := opUi o s fun a i => a + i
def execUandi (o : UiO) (s : State) : Out := opUi o s fun a i => a &&& i
def execUori (o : UiO) (s : State) : Out := opUi o s fun a i => a ||| i
def execUshi (o : UshO) (s : State) : Out :=
  uniOp s 4 fun u => u.setS o.d.toNat (shiftKind o.k (u.sr o.a.toNat) (o.c.zeroExtend 32))
def execUmovi (o : UmviO) (s : State) : Out := uniOp s 4 fun u => u.setS o.d.toNat (o.i.signExtend 32)
def execUset (o : UsetO) (s : State) : Out :=
  uniOp s (SSrc.len o.b) fun u => u.setC o.c (combine o.m (u.c o.c) (icond o.f (u.sr o.a.toNat) (SSrc.val o.b u)))

end Sys2Proof.Machine
end

