-- ==== Sys2Proof/Machine/Dispatch.lean ====
section
/-! DEFINITION. The one place that gives each instruction and each event its meaning. -/
namespace Sys2Proof.Machine

def exec (i : Instr) (s : State) : Host.Outcome State Fault Refusal :=
  match i with
  | .iadd o => Sys2Proof.Machine.execIadd o s
  | .isub o => Sys2Proof.Machine.execIsub o s
  | .iaddSat o => Sys2Proof.Machine.execIaddSat o s
  | .isubSat o => Sys2Proof.Machine.execIsubSat o s
  | .iminI o => Sys2Proof.Machine.execIminI o s
  | .imaxI o => Sys2Proof.Machine.execImaxI o s
  | .iminN o => Sys2Proof.Machine.execIminN o s
  | .imaxN o => Sys2Proof.Machine.execImaxN o s
  | .iabs o => Sys2Proof.Machine.execIabs o s
  | .ineg o => Sys2Proof.Machine.execIneg o s
  | .idiff o => Sys2Proof.Machine.execIdiff o s
  | .lea1 o => Sys2Proof.Machine.execLea1 o s
  | .lea2 o => Sys2Proof.Machine.execLea2 o s
  | .lea3 o => Sys2Proof.Machine.execLea3 o s
  | .lea4 o => Sys2Proof.Machine.execLea4 o s
  | .iaddw o => Sys2Proof.Machine.execIaddw o s
  | .isubw o => Sys2Proof.Machine.execIsubw o s
  | .and o => Sys2Proof.Machine.execAnd o s
  | .or o => Sys2Proof.Machine.execOr o s
  | .xor o => Sys2Proof.Machine.execXor o s
  | .andn o => Sys2Proof.Machine.execAndn o s
  | .orn o => Sys2Proof.Machine.execOrn o s
  | .not o => Sys2Proof.Machine.execNot o s
  | .shl o => Sys2Proof.Machine.execShl o s
  | .shrN o => Sys2Proof.Machine.execShrN o s
  | .shrI o => Sys2Proof.Machine.execShrI o s
  | .rotl o => Sys2Proof.Machine.execRotl o s
  | .popc o => Sys2Proof.Machine.execPopc o s
  | .clz o => Sys2Proof.Machine.execClz o s
  | .brev o => Sys2Proof.Machine.execBrev o s
  | .bytsel o => Sys2Proof.Machine.execBytsel o s
  | .imul o => Sys2Proof.Machine.execImul o s
  | .imulhI o => Sys2Proof.Machine.execImulhI o s
  | .imulhN o => Sys2Proof.Machine.execImulhN o s
  | .imulwI o => Sys2Proof.Machine.execImulwI o s
  | .imulwN o => Sys2Proof.Machine.execImulwN o s
  | .imad o => Sys2Proof.Machine.execImad o s
  | .imadW o => Sys2Proof.Machine.execImadW o s
  | .bfe o => Sys2Proof.Machine.execBfe o s
  | .bfi o => Sys2Proof.Machine.execBfi o s
  | .iset o => Sys2Proof.Machine.execIset o s
  | .mov o => Sys2Proof.Machine.execMov o s
  | .sel o => Sys2Proof.Machine.execSel o s
  | .movu o => Sys2Proof.Machine.execMovu o s
  | .movs o => Sys2Proof.Machine.execMovs o s
  | .iaddi o => Sys2Proof.Machine.execIaddi o s
  | .andi o => Sys2Proof.Machine.execAndi o s
  | .ori o => Sys2Proof.Machine.execOri o s
  | .xori o => Sys2Proof.Machine.execXori o s
  | .shi o => Sys2Proof.Machine.execShi o s
  | .movi o => Sys2Proof.Machine.execMovi o s
  | .fadd o => Sys2Proof.Machine.execFadd o s
  | .fsub o => Sys2Proof.Machine.execFsub o s
  | .fmul o => Sys2Proof.Machine.execFmul o s
  | .fmin o => Sys2Proof.Machine.execFmin o s
  | .fmax o => Sys2Proof.Machine.execFmax o s
  | .fabs o => Sys2Proof.Machine.execFabs o s
  | .fneg o => Sys2Proof.Machine.execFneg o s
  | .fcopysign o => Sys2Proof.Machine.execFcopysign o s
  | .ffrac o => Sys2Proof.Machine.execFfrac o s
  | .fclass o => Sys2Proof.Machine.execFclass o s
  | .frintRn o => Sys2Proof.Machine.execFrintRn o s
  | .frintRz o => Sys2Proof.Machine.execFrintRz o s
  | .frintRm o => Sys2Proof.Machine.execFrintRm o s
  | .frintRp o => Sys2Proof.Machine.execFrintRp o s
  | .faddRz o => Sys2Proof.Machine.execFaddRz o s
  | .faddRm o => Sys2Proof.Machine.execFaddRm o s
  | .faddRp o => Sys2Proof.Machine.execFaddRp o s
  | .fmulRz o => Sys2Proof.Machine.execFmulRz o s
  | .fmulRm o => Sys2Proof.Machine.execFmulRm o s
  | .fmulRp o => Sys2Proof.Machine.execFmulRp o s
  | .ffma o => Sys2Proof.Machine.execFfma o s
  | .ffms o => Sys2Proof.Machine.execFfms o s
  | .hfma2F16 o => Sys2Proof.Machine.execHfma2F16 o s
  | .hfma2Bf16 o => Sys2Proof.Machine.execHfma2Bf16 o s
  | .frcp o => Sys2Proof.Machine.execFrcp o s
  | .frsq o => Sys2Proof.Machine.execFrsq o s
  | .fsqrt o => Sys2Proof.Machine.execFsqrt o s
  | .fex2 o => Sys2Proof.Machine.execFex2 o s
  | .flg2 o => Sys2Proof.Machine.execFlg2 o s
  | .fsint o => Sys2Proof.Machine.execFsint o s
  | .fcost o => Sys2Proof.Machine.execFcost o s
  | .ftanh o => Sys2Proof.Machine.execFtanh o s
  | .flogi o => Sys2Proof.Machine.execFlogi o s
  | .fset o => Sys2Proof.Machine.execFset o s
  | .cvt o => Sys2Proof.Machine.execCvt o s
  | .pk2F16 o => Sys2Proof.Machine.execPk2F16 o s
  | .pk2Bf16 o => Sys2Proof.Machine.execPk2Bf16 o s
  | .pk4E4m3 o => Sys2Proof.Machine.execPk4E4m3 o s
  | .pk4E5m2 o => Sys2Proof.Machine.execPk4E5m2 o s
  | .pk8E2m1 o => Sys2Proof.Machine.execPk8E2m1 o s
  | .pk4E4m3Sat o => Sys2Proof.Machine.execPk4E4m3Sat o s
  | .pk4E5m2Sat o => Sys2Proof.Machine.execPk4E5m2Sat o s
  | .upk2F16 o => Sys2Proof.Machine.execUpk2F16 o s
  | .upk2Bf16 o => Sys2Proof.Machine.execUpk2Bf16 o s
  | .upk4E4m3 o => Sys2Proof.Machine.execUpk4E4m3 o s
  | .upk4E5m2 o => Sys2Proof.Machine.execUpk4E5m2 o s
  | .upk8E2m1 o => Sys2Proof.Machine.execUpk8E2m1 o s
  | .dp4E4m3 o => Sys2Proof.Machine.execDp4E4m3 o s
  | .dp4E5m2 o => Sys2Proof.Machine.execDp4E5m2 o s
  | .idp4I8 o => Sys2Proof.Machine.execIdp4I8 o s
  | .idp4N8 o => Sys2Proof.Machine.execIdp4N8 o s
  | .pand o => Sys2Proof.Machine.execPand o s
  | .por o => Sys2Proof.Machine.execPor o s
  | .pxor o => Sys2Proof.Machine.execPxor o s
  | .pnot o => Sys2Proof.Machine.execPnot o s
  | .ppack o => Sys2Proof.Machine.execPpack o s
  | .punpk o => Sys2Proof.Machine.execPunpk o s
  | .pmov o => Sys2Proof.Machine.execPmov o s
  | .lxcAt o => Sys2Proof.Machine.execLxcAt o s
  | .lxcFlip o => Sys2Proof.Machine.execLxcFlip o s
  | .lxcBelow o => Sys2Proof.Machine.execLxcBelow o s
  | .lxcAbove o => Sys2Proof.Machine.execLxcAbove o s
  | .lany o => Sys2Proof.Machine.execLany o s
  | .lall o => Sys2Proof.Machine.execLall o s
  | .lmask o => Sys2Proof.Machine.execLmask o s
  | .lfirst o => Sys2Proof.Machine.execLfirst o s
  | .lsum o => Sys2Proof.Machine.execLsum o s
  | .lminI o => Sys2Proof.Machine.execLminI o s
  | .lmaxI o => Sys2Proof.Machine.execLmaxI o s
  | .lsame o => Sys2Proof.Machine.execLsame o s
  | .bra o => Sys2Proof.Machine.execBra o s
  | .brx o => Sys2Proof.Machine.execBrx o s
  | .brk o => Sys2Proof.Machine.execBrk o s
  | .jset o => Sys2Proof.Machine.execJset o s
  | .jwait o => Sys2Proof.Machine.execJwait o s
  | .jdrop o => Sys2Proof.Machine.execJdrop o s
  | .jget o => Sys2Proof.Machine.execJget o s
  | .jput o => Sys2Proof.Machine.execJput o s
  | .call o => Sys2Proof.Machine.execCall o s
  | .callx o => Sys2Proof.Machine.execCallx o s
  | .ret o => Sys2Proof.Machine.execRet o s
  | .nop o => Sys2Proof.Machine.execNop o s
  | .exit o => Sys2Proof.Machine.execExit o s
  | .yield o => Sys2Proof.Machine.execYield o s
  | .nap o => Sys2Proof.Machine.execNap o s
  | .ld o => Sys2Proof.Machine.execLd o s
  | .st o => Sys2Proof.Machine.execSt o s
  | .pref o => Sys2Proof.Machine.execPref o s
  | .cline o => Sys2Proof.Machine.execCline o s
  | .sld o => Sys2Proof.Machine.execSld o s
  | .sst o => Sys2Proof.Machine.execSst o s
  | .atom o => Sys2Proof.Machine.execAtom o s
  | .red o => Sys2Proof.Machine.execRed o s
  | .satom o => Sys2Proof.Machine.execSatom o s
  | .tbox o => Sys2Proof.Machine.execTbox o s
  | .ttri o => Sys2Proof.Machine.execTtri o s
  | .trace o => Sys2Proof.Machine.execTrace o s
  | .rspawn o => Sys2Proof.Machine.execRspawn o s
  | .nexthit o => Sys2Proof.Machine.execNexthit o s
  | .rend o => Sys2Proof.Machine.execRend o s
  | .uadd o => Sys2Proof.Machine.execUadd o s
  | .usub o => Sys2Proof.Machine.execUsub o s
  | .umul o => Sys2Proof.Machine.execUmul o s
  | .umulhN o => Sys2Proof.Machine.execUmulhN o s
  | .uminI o => Sys2Proof.Machine.execUminI o s
  | .umaxI o => Sys2Proof.Machine.execUmaxI o s
  | .uminN o => Sys2Proof.Machine.execUminN o s
  | .umaxN o => Sys2Proof.Machine.execUmaxN o s
  | .uand o => Sys2Proof.Machine.execUand o s
  | .uor o => Sys2Proof.Machine.execUor o s
  | .uxor o => Sys2Proof.Machine.execUxor o s
  | .ushl o => Sys2Proof.Machine.execUshl o s
  | .ushrN o => Sys2Proof.Machine.execUshrN o s
  | .ushrI o => Sys2Proof.Machine.execUshrI o s
  | .upopc o => Sys2Proof.Machine.execUpopc o s
  | .uclz o => Sys2Proof.Machine.execUclz o s
  | .umov o => Sys2Proof.Machine.execUmov o s
  | .uaddw o => Sys2Proof.Machine.execUaddw o s
  | .uaddi o => Sys2Proof.Machine.execUaddi o s
  | .uandi o => Sys2Proof.Machine.execUandi o s
  | .uori o => Sys2Proof.Machine.execUori o s
  | .ushi o => Sys2Proof.Machine.execUshi o s
  | .umovi o => Sys2Proof.Machine.execUmovi o s
  | .uset o => Sys2Proof.Machine.execUset o s
  | .umovs o => Sys2Proof.Machine.execUmovs o s
  | .ulaneFirst o => Sys2Proof.Machine.execUlaneFirst o s
  | .ulaneIdx o => Sys2Proof.Machine.execUlaneIdx o s
  | .cand o => Sys2Proof.Machine.execCand o s
  | .cor o => Sys2Proof.Machine.execCor o s
  | .cxor o => Sys2Proof.Machine.execCxor o s
  | .cnot o => Sys2Proof.Machine.execCnot o s
  | .ubra o => Sys2Proof.Machine.execUbra o s
  | .ujmp o => Sys2Proof.Machine.execUjmp o s
  | .tfence => Sys2Proof.Machine.execTfence s
  | .trap o => Sys2Proof.Machine.execTrap o s
  | .rtt => Sys2Proof.Machine.execRtt s
  | .bkpt => Sys2Proof.Machine.execBkpt s
  | .flgr o => Sys2Proof.Machine.execFlgr o s
  | .flgc o => Sys2Proof.Machine.execFlgc o s
  | .mode o => Sys2Proof.Machine.execMode o s
  | .moder o => Sys2Proof.Machine.execModer o s
  | .mma o => Sys2Proof.Machine.execMma o s
  | .mmaC o => Sys2Proof.Machine.execMmaC o s
  | .mmag o => Sys2Proof.Machine.execMmag o s
  | .mmas o => Sys2Proof.Machine.execMmas o s
  | .accZero o => Sys2Proof.Machine.execAccZero o s
  | .accCommit o => Sys2Proof.Machine.execAccCommit o s
  | .accDrop o => Sys2Proof.Machine.execAccDrop o s
  | .accMerge o => Sys2Proof.Machine.execAccMerge o s
  | .accPoison o => Sys2Proof.Machine.execAccPoison o s
  | .accld o => Sys2Proof.Machine.execAccld o s
  | .accst o => Sys2Proof.Machine.execAccst o s
  | .amap o => Sys2Proof.Machine.execAmap o s
  | .bplLd o => Sys2Proof.Machine.execBplLd o s
  | .bplZero o => Sys2Proof.Machine.execBplZero o s
  | .pairBind o => Sys2Proof.Machine.execPairBind o s
  | .pairFree o => Sys2Proof.Machine.execPairFree o s
  | .mwait o => Sys2Proof.Machine.execMwait o s
  | .rowact o => Sys2Proof.Machine.execRowact o s
  | .rowcon o => Sys2Proof.Machine.execRowcon o s
  | .rowwr o => Sys2Proof.Machine.execRowwr o s
  | .rowpre o => Sys2Proof.Machine.execRowpre o s
  | .rowst o => Sys2Proof.Machine.execRowst o s
  | .rowwait o => Sys2Proof.Machine.execRowwait o s
  | .smap o => Sys2Proof.Machine.execSmap o s
  | .sunmap o => Sys2Proof.Machine.execSunmap o s
  | .sflush o => Sys2Proof.Machine.execSflush o s
  | .sinv o => Sys2Proof.Machine.execSinv o s
  | .spres o => Sys2Proof.Machine.execSpres o s
  | .shpush o => Sys2Proof.Machine.execShpush o s
  | .sgath o => Sys2Proof.Machine.execSgath o s
  | .syncAcqX o => Sys2Proof.Machine.execSyncAcqX o s
  | .syncAcqS o => Sys2Proof.Machine.execSyncAcqS o s
  | .syncAcqO o => Sys2Proof.Machine.execSyncAcqO o s
  | .syncRel o => Sys2Proof.Machine.execSyncRel o s
  | .sbind o => Sys2Proof.Machine.execSbind o s
  | .sunbind o => Sys2Proof.Machine.execSunbind o s
  | .fenceAcq o => Sys2Proof.Machine.execFenceAcq o s
  | .fenceRel o => Sys2Proof.Machine.execFenceRel o s
  | .fenceFull o => Sys2Proof.Machine.execFenceFull o s
  | .semaSig o => Sys2Proof.Machine.execSemaSig o s
  | .semaWait o => Sys2Proof.Machine.execSemaWait o s
  | .semaTry o => Sys2Proof.Machine.execSemaTry o s
  | .barArr o => Sys2Proof.Machine.execBarArr o s
  | .barWait o => Sys2Proof.Machine.execBarWait o s
  | .barSync o => Sys2Proof.Machine.execBarSync o s
  | .ordopen o => Sys2Proof.Machine.execOrdopen o s
  | .qpush o => Sys2Proof.Machine.execQpush o s
  | .qpop o => Sys2Proof.Machine.execQpop o s
  | .cont o => Sys2Proof.Machine.execCont o s
  | .cfork o => Sys2Proof.Machine.execCfork o s
  | .cjoin o => Sys2Proof.Machine.execCjoin o s
  | .launch o => Sys2Proof.Machine.execLaunch o s
  | .mcast o => Sys2Proof.Machine.execMcast o s
  | .send o => Sys2Proof.Machine.execSend o s
  | .recvPost o => Sys2Proof.Machine.execRecvPost o s
  | .recvWait o => Sys2Proof.Machine.execRecvWait o s
  | .recvTest o => Sys2Proof.Machine.execRecvTest o s
  | .recvCancel o => Sys2Proof.Machine.execRecvCancel o s
  | .placeShadow ctx core => Sys2Proof.Machine.execPlaceShadow ctx core s
  | .switchCore ctx core => Sys2Proof.Machine.execSwitchCore ctx core s
  | .loadContext ctx => Sys2Proof.Machine.execLoadContext ctx s
  | .killContext ctx => Sys2Proof.Machine.execKillContext ctx s
  | .tlbDrop ctx => Sys2Proof.Machine.execTlbDrop ctx s
  | .icacheInvalidate ctx => Sys2Proof.Machine.execIcacheInvalidate ctx s
  | .lqtailWrite ctx v => Sys2Proof.Machine.execLqtailWrite ctx v s
  | .fqheadWrite ctx v => Sys2Proof.Machine.execFqheadWrite ctx v s
  | .fqreplayWrite ctx token => Sys2Proof.Machine.execFqreplayWrite ctx token s
  | .eqheadWrite ctx v => Sys2Proof.Machine.execEqheadWrite ctx v s
  | .pwrcapWrite v => Sys2Proof.Machine.execPwrcapWrite v s
  | .weightWrite c v => Sys2Proof.Machine.execWeightWrite c v s
  | .queueEnable ctx q => Sys2Proof.Machine.execQueueEnable ctx q s
  | .queueDisable ctx q => Sys2Proof.Machine.execQueueDisable ctx q s
  | .registerWrite off v => Sys2Proof.Machine.execRegisterWrite off v s
  | .bar2Access wr off n v => Sys2Proof.Machine.execBar2Access wr off n v s
  | .fundamentalReset => Sys2Proof.Machine.execFundamentalReset s
  | .bootVerifyDone ok => Sys2Proof.Machine.execBootVerifyDone ok s
  | .pairLinkLost => Sys2Proof.Machine.execPairLinkLost s
  | .trapEntry core slot => Sys2Proof.Machine.execTrapEntry core slot s
  | .contextFault ctx => Sys2Proof.Machine.execContextFault ctx s
  | .killDone ctx => Sys2Proof.Machine.execKillDone ctx s
  | .switchTaken core => Sys2Proof.Machine.execSwitchTaken core s
  | .drainComplete core => Sys2Proof.Machine.execDrainComplete core s
  | .loadStart core => Sys2Proof.Machine.execLoadStart core s
  | .loadComplete core ok => Sys2Proof.Machine.execLoadComplete core ok s
  | .napExpiry core slot entry => Sys2Proof.Machine.execNapExpiry core slot entry s
  | .yieldTimeout core slot entry => Sys2Proof.Machine.execYieldTimeout core slot entry s
  | .opportunisticMerge core slot e1 e2 => Sys2Proof.Machine.execOpportunisticMerge core slot e1 e2 s
  | .launchAccept ctx => Sys2Proof.Machine.execLaunchAccept ctx s
  | .heldHeaderEnqueue ctx => Sys2Proof.Machine.execHeldHeaderEnqueue ctx s
  | .blockAdmit core slot epi => Sys2Proof.Machine.execBlockAdmit core slot epi s
  | .blockEnd blk => Sys2Proof.Machine.execBlockEnd blk s
  | .joinBufferRetry cluster k => Sys2Proof.Machine.execJoinBufferRetry cluster k s
  | .timeWrap => Sys2Proof.Machine.execTimeWrap s
  | .walkDone id => Sys2Proof.Machine.execWalkDone id s
  | .sliceRead id vict => Sys2Proof.Machine.execSliceRead id vict s
  | .sliceStore id => Sys2Proof.Machine.execSliceStore id s
  | .l1Reply id vict => Sys2Proof.Machine.execL1Reply id vict s
  | .l1Probe id => Sys2Proof.Machine.execL1Probe id s
  | .storeAck id => Sys2Proof.Machine.execStoreAck id s
  | .targetAccess id => Sys2Proof.Machine.execTargetAccess id s
  | .rscAccess id => Sys2Proof.Machine.execRscAccess id s
  | .atomPerform id => Sys2Proof.Machine.execAtomPerform id s
  | .redApply id => Sys2Proof.Machine.execRedApply id s
  | .orderedRedArrival id => Sys2Proof.Machine.execOrderedRedArrival id s
  | .ordopenAnswer id => Sys2Proof.Machine.execOrdopenAnswer id s
  | .syncGrant id => Sys2Proof.Machine.execSyncGrant id s
  | .semaCountTaken id => Sys2Proof.Machine.execSemaCountTaken id s
  | .barPhaseComplete blk n => Sys2Proof.Machine.execBarPhaseComplete blk n s
  | .scratchRemoteAccess id => Sys2Proof.Machine.execScratchRemoteAccess id s
  | .scratchFillLand id => Sys2Proof.Machine.execScratchFillLand id s
  | .scratchWbAck id => Sys2Proof.Machine.execScratchWbAck id s
  | .scratchProbe id => Sys2Proof.Machine.execScratchProbe id s
  | .haloPushArrival id late => Sys2Proof.Machine.execHaloPushArrival id late s
  | .haloPushDone id => Sys2Proof.Machine.execHaloPushDone id s
  | .rowOpenDone core n => Sys2Proof.Machine.execRowOpenDone core n s
  | .rowCloseStart core n => Sys2Proof.Machine.execRowCloseStart core n s
  | .rowCloseDone core n => Sys2Proof.Machine.execRowCloseDone core n s
  | .rowHoldExpiry core n => Sys2Proof.Machine.execRowHoldExpiry core n s
  | .rowRefresh core n => Sys2Proof.Machine.execRowRefresh core n s
  | .internalActivation core n row => Sys2Proof.Machine.execInternalActivation core n row s
  | .rowTransferStart id => Sys2Proof.Machine.execRowTransferStart id s
  | .rowTransferEnd id => Sys2Proof.Machine.execRowTransferEnd id s
  | .rowReactivation core n => Sys2Proof.Machine.execRowReactivation core n s
  | .matrixOpStart core => Sys2Proof.Machine.execMatrixOpStart core s
  | .matrixOpComplete core => Sys2Proof.Machine.execMatrixOpComplete core s
  | .engineJobStart id => Sys2Proof.Machine.execEngineJobStart id s
  | .engineJobComplete id => Sys2Proof.Machine.execEngineJobComplete id s
  | .messageArrival id => Sys2Proof.Machine.execMessageArrival id s
  | .messageResend id => Sys2Proof.Machine.execMessageResend id s
  | .tvuAccept ctx ray => Sys2Proof.Machine.execTvuAccept ctx ray s
  | .traversalDone ctx ray pick => Sys2Proof.Machine.execTraversalDone ctx ray pick s
  | .treeletFill cluster ctx line => Sys2Proof.Machine.execTreeletFill cluster ctx line s
  | .treeletPrefetch cluster ctx ray => Sys2Proof.Machine.execTreeletPrefetch cluster ctx ray s
  | .rayEnterSaffron ctx ray => Sys2Proof.Machine.execRayEnterSaffron ctx ray s
  | .rayRefill cluster ctx ray => Sys2Proof.Machine.execRayRefill cluster ctx ray s
  | .episodeFormFull ctx ray => Sys2Proof.Machine.execEpisodeFormFull ctx ray s
  | .episodeFormPatience ctx ray => Sys2Proof.Machine.execEpisodeFormPatience ctx ray s
  | .episodeFormDrain ctx ray => Sys2Proof.Machine.execEpisodeFormDrain ctx ray s
  | .powerRemoved => Sys2Proof.Machine.execPowerRemoved s
  | .pairLinkUp => Sys2Proof.Machine.execPairLinkUp s
  | .pairFlitReplay => Sys2Proof.Machine.execPairFlitReplay s
  | .pairedContextLost ctx => Sys2Proof.Machine.execPairedContextLost ctx s
  | .tvuLaneTestDone id => Sys2Proof.Machine.execTvuLaneTestDone id s
  | .orderedRedResend id => Sys2Proof.Machine.execOrderedRedResend id s
  | .engineCardEntry id => Sys2Proof.Machine.execEngineCardEntry id s

end Sys2Proof.Machine
end

