-- ==== Sys2Proof/Machine/Errors.lean ====
section
/-! DEFINITION. Errors of stored data: what a corrected, a transient and a lasting one leave in each unit, and how they are
counted and posted (spec 10 R278, 07 R184, 11 R301, R311, 12 R357, 16 R451). Which errors are met, and when, is the
environment's: they stand in the schedule. -/
namespace Sys2Proof.Machine

/-- The context whose scratch, plane, tile, ray or treelet it is, or that read the address. -/
def State.flawCtx (s : State) (f : Flaw) : Option Nat :=
  match f.at_ with
  | .pool c off => (((s.core c).scratch.wins.find? fun w => w.2.covers off 1).bind fun w => mget s.blocks w.2.blk).map Block.ctx
  | .plane c _ => s.mxOwner c
  | .tile c _ _ => s.mxOwner c
  | .ray x _ _ => some x
  | .treelet _ x _ _ => some x
  | _ => match f.ctx with | some x => if (s.ctx x).regs.en then some x else none | none => none
/-- Unit B of event 11. -/
def FlawAt.unit : FlawAt → Nat
  | .pool .. => 1
  | .plane .. => 2
  | .llc _ => 3
  | .row _ => 4
  | .gddr _ => 5
  | .ray .. => 6
  | .treelet .. => 6
  | .tile .. => 7
/-- The physical address that the event gives; of a unit without one it is not stated. -/
def State.flawAddr (s : State) : FlawAt → Nat × State
  | .llc pa => (pa, s)
  | .row pa => (pa, s)
  | .gddr pa => (pa, s)
  | .treelet _ _ _ pa => (pa, s)
  | _ => let f := s.free; let g := f.2.free; ((pairOf f.1 g.1).toNat, g.2)
/-- The unit holds what is named: the scratch word has a value, the address is of this package and of the unit, the ray lives and
its record stands in Saffron or in a TVU, the line of the treelet has come. -/
def State.flawHere (s : State) : FlawAt → Bool
  | .pool c off => decide (c < 192 ∧ off < 2 ^ 20) && s.validWord c off
  | .plane c off => decide (c < 192 ∧ off < 2 ^ 22)
  | .llc pa => !s.otherPkg pa && (s.place pa == .gddr || s.place pa == .row)
  | .row pa => !s.otherPkg pa && s.place pa == .row
  | .gddr pa => !s.otherPkg pa && s.place pa == .gddr
  | .ray x id _ => match s.ray? x id with
    | some r => match r.at_ with
      | .handed => true | .tvu _ => true | .parked _ => true | .replayed => true | .arriving => true | .bin _ => true
      | .formed _ => true | _ => false
    | none => false
  | .treelet k x n pa => (s.cluster k).rays.cache.any fun t => t.tagged ⟨x, n, k⟩ pa && (mget t.lines (pa % 4096 / 64)).isSome
  | .tile c t key => decide (c < 192 ∧ t < tilesOf (s.core c).part ∧ key < 2 ^ 14)
/-- The words of an 8-byte unit poisoned. -/
def poisonUnit (p : Poison) (a : Nat) : Poison := Poison.put p (a / 8 * 8) [true, true]
/-- A record with a lasting error (R357): its poisoned payload words read as 0; of other words of the unit the value is not
stated. In traversal it ends with code 3; in Saffron the ray is delivered with code 3 anew, and leaves an
episode that waits for admission. -/
def State.rayFlaw (s : State) (ctx id unit_ : Nat) : State :=
  match s.ray? ctx id with
  | none => s
  | some r =>
    let f := s.free; let g := f.2.free
    let put := fun (l : List Word) (i : Nat) (w : Word) => l.set i w
    let rec_ := if unit_ < 8 then { r.rec_ with payload := put (put r.rec_.payload (2 * unit_) 0) (2 * unit_ + 1) 0 }
      else if unit_ < 12 then { r.rec_ with geo := put (put r.rec_.geo (2 * unit_ - 16) f.1) (2 * unit_ - 15) g.1 } else r.rec_
    let anew := fun (s : State) => ((s.postEvent ctx 4 3 0 id).bump r.core .tverr).setRay ctx id
        { r with rec_ := { rec_.noHit 5 r.chain.end_ 0 0 with prim := 3 }, at_ := .arriving }
    match r.at_ with
    | .arriving | .bin _ => anew g.2
    | .formed e =>
      let left := fun (m : Map Episode) => mkeep (mmod m e fun v => { v with rays := v.rays.filter fun i => i ≠ id }) fun _ v => !v.rays.isEmpty
      anew (g.2.modCluster r.cluster fun k => { k with rays := { k.rays with formed := left k.rays.formed } })
    | _ => g.2.setRay ctx id { r with rec_ := rec_, bad := true }
/-- What a lasting error leaves. -/
def State.flawLasts (s : State) : FlawAt → State
  | .pool c off => s.setScrPoison c off true
  | .plane c off => s.modMx c fun k => { k with planePoison := poisonUnit k.planePoison off }
  | .llc pa => { s with mem := { s.mem with poison := poisonUnit s.mem.poison pa } }
  | .row pa => { s with mem := { s.mem with poison := poisonUnit s.mem.poison pa } }
  | .gddr pa => { s with mem := { s.mem with poison := poisonUnit s.mem.poison pa } }
  | .ray x id u => s.rayFlaw x id u
  | .treelet k x n pa =>
    let bad := fun (l : TreeLine) => { l with poison := l.poison ||| BitVec.ofNat 16 (3 * 2 ^ (pa % 64 / 8 * 2)) }
    let hit := fun (t : Treelet) => if t.tagged ⟨x, n, k⟩ pa then { t with lines := mmod t.lines (pa % 4096 / 64) bad } else t
    s.modCluster k fun u => { u with rays := { u.rays with cache := u.rays.cache.map hit } }
  | .tile c t key =>
    let old := (s.mx c).tile t
    let new : Tile := { old with poison := old.poison ||| poisonBit key }
    (s.bump c .mxpois (if new.poison = old.poison then 0 else 1)).modMx c fun k =>
      { k.setTile t new with lost := if t ∈ k.lost then k.lost else t :: k.lost }
/-- The counter of the row stack for an error of a row (R282). -/
def FlawKind.rowCtr : FlawKind → Ctr
  | .corrected => .rowcorr
  | .transient => .rowtrans
  | .lasting => .rowlast
/-- A corrected error is counted in ERRCNT alone (R445). -/
def State.errCorrected (s : State) : State :=
  { s with dev := { s.dev with errcnt := s.dev.errcnt.mapIdx fun i n => if i = 0 then (n + 1) % 2 ^ 64 else n } }
/-- An error met by a read: one that the unit cannot have met does nothing. -/
def State.meetFlaw (s : State) (f : Flaw) : State :=
  if s.flawHere f.at_ = false then s
  else
    let ctx := s.flawCtx f
    let s := match f.at_ with | .row pa => s.bump (rowCore pa) f.kind.rowCtr | _ => s
    match f.kind with
    | .corrected => s.errCorrected
    | .transient => let a := s.flawAddr f.at_; a.2.memError ctx 1 f.at_.unit a.1
    | .lasting => let a := s.flawAddr f.at_; (a.2.flawLasts f.at_).memError ctx 2 f.at_.unit a.1

end Sys2Proof.Machine
end

