-- ==== Sys2Proof/Machine/Schedule.lean ====
section
/-! DEFINITION. How a step runs: the issue of one split, an event, a clk that passes, and the choice that is made when the
schedule names nothing (spec 03 R60, 04 R82 to R85, R94). The choice among what may happen is the model's own. -/
namespace Sys2Proof.Machine

/-! ### The issue of one instruction -/

/-- The instruction of a split has issued before, and only goes on. -/
def Ex.again (x : Ex) : Bool := x.sp.going || x.sp.st.polls
/-- The state in which an instruction executes: the split is READY, has issued now, and counts in its windows; with the other
entries of its group that issue in the clk. -/
def State.started (s : State) (x : Ex) (also : List Nat := []) : State :=
  { s.modGroup x.core x.slot fun g => { g.modSplit x.entry fun sp =>
      { sp with st := .ready, settle := false, since := if x.again then sp.since else s.now,
                wins := if x.sp.st.polls then sp.wins else x.countedWins } with also := also } with
    run := some ⟨x.core, x.slot, x.entry⟩, held := false }
/-- What an instruction that waits keeps of its issue (R82). -/
def State.latched (s : State) (x : Ex) (i : Instr) : Latch := x.sp.latch.getD ⟨i, x.gr.uni, s.nextId, (s.ctx x.gr.ctx).binds⟩
/-- The place that an instruction takes in the clk of its issue (R84), with the splits that it gives way to (R85). -/
noncomputable def State.takePlace (s before : State) (x : Ex) (i : Instr) : State :=
  if x.again then s else (s.listRivals before x).noteIssue x (x.issued i)
/-- The split of an instruction that has issued and waits READY (R82). -/
noncomputable def State.goingOn (s before : State) (x : Ex) (i : Instr) : State :=
  let s := if x.again then s else (s.takePlace before x i).countIssue x.core x.slot
  s.fresh.modGroup x.core x.slot fun g => g.modSplit x.entry fun sp =>
    { sp with st := x.sp.st, wins := x.sp.wins, latch := some (s.latched x i) }
/-- The split waits for a host replay. -/
def State.replays (s : State) (x : Ex) : Bool :=
  match s.exAt x.core x.slot x.entry with
  | some y => match y.sp.st with | .wait (.replay _) => true | _ => false
  | none => false
/-- The instruction has raised a cause: it has no effect on visible state (R68), and does not count as issued (R94). Of a group
that enters a trap already, no other cause is taken (R420): the split stays at the instruction. -/
def State.raisedBy (s before : State) (x : Ex) : Bool :=
  decide ((before.ctx x.gr.ctx).faults.length < (s.ctx x.gr.ctx).faults.length) ||
    (match s.group x.core x.slot with
     | some g =>
       if x.gr.trapping.isSome then
         (match mget g.splits x.entry with | some sp => sp.st == .ready && sp.pc == x.sp.pc | none => false)
       else g.trapping.isSome || (g.handler.isSome && x.gr.handler.isNone)
     | none => false)
/-- What the issue leaves beside the instruction's own effect. -/
noncomputable def State.finished (s before : State) (x : Ex) (i : Instr) : State :=
  let s := { s with run := none }
  if s.held then { s.goingOn before x i with held := false }
  else
    let polls := match s.exAt x.core x.slot x.entry with | some y => y.sp.st.polls | none => false
    let s := if polls then s else s.forget x.waiter
    let s := s.modGroup x.core x.slot fun g => g.modSplit x.entry fun sp =>
      { sp with latch := if sp.st.waits then some (s.latched x i) else none }
    if x.sp.st.polls || s.raisedBy before x then s
    else if s.replays x then
      s.modGroup x.core x.slot fun g => g.modSplit x.entry fun sp => { sp with wins := x.sp.wins }
    else if x.again then s
    else (s.takePlace before x i).countIssue x.core x.slot
/-- The group after the issue of one of its splits: of the others that issue in the clk only a raised cause keeps the note, and
a wait that an instruction enters while its context drains is withdrawn (R82, R438). -/
def State.afterIssue (s : State) (x : Ex) : State :=
  let late := mget (s.core x.core).res x.gr.ctx == some .draining &&
    (match s.exAt x.core x.slot x.entry with | some y => y.gr.uid == x.gr.uid && y.sp.st.waits | none => false)
  (if late then s.withdrawWaits x.gr.uid else s).modGroup x.core x.slot fun g =>
    let g := if g.uid = x.gr.uid then { g with also := if g.trapping.isSome then g.also.filter fun e => e ≠ x.entry else [] } else g
    if late then g.withdrawLate x.entry else g

/-- A fault that stands before the instruction (R53, R67, R215). -/
def State.lookFault (s : State) (x : Ex) (cause : Nat) (host : Bool) (w0 w1 : Word) : Out :=
  let r := accessFault s x cause host false x.sp.mask (pairOf w0 w1)
  match r with
  | .next s => .next (s.forget x.waiter)
  | o => o

/-- R84 and R87 let the instruction issue, or go on, now. -/
noncomputable def State.turnNow (s : State) (x : Ex) (i : Instr) : Bool :=
  (x.again || s.mayIssue x.core (x.issued i)) && s.joinTurn x i
/-- One split issues, parks, faults, or stays where it is. -/
noncomputable def State.issue (s : State) (core slot entry : Nat) : Out :=
  match s.exAt core slot entry with
  | none => .next s
  | some x =>
    match s.look x with
    | (.wait, s) => .next s
    | (.park t, s) => .next ((s.bump core .spark).modGroup core slot fun g => g.modSplit entry fun sp => { sp with st := .wait (.touch t) })
    | (.fault c h w0 w1, s) =>
      if s.mayIssue core x.faulting then
        match s.lookFault { x with gr := { x.gr with also := s.alsoNow x } } c h w0 w1 with
        | .next t => .next (t.afterIssue x)
        | o => o
      else .next s
    | (.run i, s) =>
      if s.turnNow x i then
        match exec i (s.started x (s.alsoNow x)) with
        | .next t => .next ((t.finished s x i).afterIssue x)
        | o => o
      else .next s

/-! ### Time -/

/-- The events of one split whose clk may have come. -/
noncomputable def clockEvents (c g e : Nat) : List Instr := [.napExpiry c g e, .yieldTimeout c g e]
/-- The events of one row slot. -/
noncomputable def slotEvents (c n : Nat) : List Instr :=
  [.rowOpenDone c n, .rowCloseStart c n, .rowCloseDone c n, .rowHoldExpiry c n, .rowReactivation c n]
/-- The banks of a core with a slot or an internal activation, and those that are to be opened again. -/
def Rows.banks (k : Rows) : List Nat :=
  (k.slots.map Prod.fst ++ k.internal.map Prod.fst ++ k.reopen.map SavedSlot.slot).eraseDups
/-- The events of the row controller of one core. -/
noncomputable def Rows.events (c : Nat) (k : Rows) : List Instr :=
  (List.range 16).map (fun n => .rowRefresh c n) ++ k.banks.flatMap fun n => slotEvents c n
/-- The events that no clk may pass when they are due. -/
noncomputable def State.timely (s : State) : List Instr :=
  (s.cores.flatMap fun c => (c.2.groups.flatMap fun g => g.2.splits.flatMap fun e => clockEvents c.1 g.1 e.1) ++
    c.2.rows.events c.1 ++ (if c.2.mx.queue.isEmpty then [] else [.matrixOpStart c.1, .matrixOpComplete c.1])) ++
    [.timeWrap]
/-- The counters that a clk raises on a core (R94, R268). A frozen table adds nothing to JWAITCLK, which is the model's choice
(log 75). -/
def Core.passClk (k : Core) : Core :=
  let n := fun (f : SplitSt → Bool) =>
    (k.groups.map fun g => (g.2.splits.filter fun e => f e.2.st).length).sum
  let waits := fun (f : Instr → Bool) =>
    (k.groups.map fun g => (g.2.splits.filter fun e => match e.2.latch with | some l => f l.instr | none => false).length).sum
  let c := bumpCtrs k.ctr .jwaitclk (n fun st => match st with | .join _ => true | _ => false)
  let c := bumpCtrs c .syncwclk (waits fun i => match i with
    | .syncAcqX _ => true | .syncAcqS _ => true | .syncAcqO _ => true | .syncRel _ => true | _ => false)
  let c := bumpCtrs c .semawclk (waits fun i => match i with | .semaWait _ => true | _ => false)
  let c := bumpCtrs c .barwclk (waits fun i => match i with | .barArr _ => true | .barWait _ => true | .barSync _ => true | _ => false)
  { k with ctr := c, groups := mall k.groups fun _ g => { g with also := [] } }
/-- The package leaves reset: boot firmware is being verified (R445, R453). -/
def Dev.passClk (d : Dev) : Dev := if d.boot = 0 then { d with boot := 1 } else d
/-- A clk passes. -/
def State.tick (s : State) : State :=
  let s := s.cores.foldl (fun s c => ((((s.countActs c.1).bump c.1 .mxqwait c.2.mxHeld).mxClk c.1).loadClk c.1).drainClk c.1) s
  (State.clusterWaits { s with now := s.now + 1, dev := s.dev.passClk, cores := mall s.cores fun _ k => k.passClk }).hostTry

/-! ### The choice where the schedule is empty -/

/-- The events of one memory request. -/
noncomputable def reqEvents (r : Nat) : List Instr :=
  [.sliceRead r 0, .sliceStore r, .l1Reply r 0, .storeAck r, .targetAccess r, .rscAccess r, .atomPerform r, .redApply r,
   .orderedRedArrival r, .orderedRedResend r, .ordopenAnswer r, .scratchWbAck r]
/-- The internal activation that a request, or the host, waits for. -/
noncomputable def rowAsked (r : Req) : List Instr :=
  if 2 ≤ r.cls then [.internalActivation (rowCore r.pa) (rowBank r.pa) (rowRow r.pa)] else []
noncomputable def jobAsked (j : Job) : List Instr := j.wants.map fun r => .internalActivation (rowCore r.1) (rowBank r.1) (rowRow r.1)
noncomputable def hostAsked (d : Dev) : List Instr :=
  match d.bar2 with
  | some b => b.parts.map fun p => .internalActivation (rowCore p.1) (rowBank p.1) (rowRow p.1)
  | none => []
/-- The events of one core, beside those of its slots and row slots. -/
noncomputable def coreEvents (c : Nat) : List Instr :=
  [.switchTaken c, .drainComplete c, .loadStart c, .loadComplete c 1, .loadComplete c 0, .matrixOpStart c, .matrixOpComplete c]
/-- The events of one context. -/
noncomputable def ctxEvents (x : Nat) : List Instr := [.contextFault x, .killDone x, .launchAccept x, .heldHeaderEnqueue x]
/-- The events of one ray. -/
noncomputable def rayEvents (x r : Nat) : List Instr :=
  [.tvuAccept x r, .traversalDone x r 0, .rayEnterSaffron x r, .episodeFormFull x r, .episodeFormPatience x r,
   .episodeFormDrain x r]
/-- The events of one engine job. -/
noncomputable def jobEvents (j : Nat) : List Instr := [.engineCardEntry j, .engineJobStart j, .engineJobComplete j, .rscAccess j]
/-- The events of one scratch push. -/
noncomputable def pushEvents (p : Nat) : List Instr := [.haloPushArrival p 0, .haloPushDone p]
/-- The events of one row transfer. -/
noncomputable def xferEvents (x : Nat) : List Instr := [.rowTransferStart x, .rowTransferEnd x]
/-- The events that one core may make. -/
noncomputable def Core.events (c : Nat) (k : Core) : List Instr :=
  List.flatten [coreEvents c, k.groups.map fun g => .trapEntry c g.1, k.rows.events c,
    k.rows.xfers.flatMap fun x => xferEvents x.1]
/-- The events that the things in flight may make. -/
noncomputable def Flight.events (f : Flight) : List Instr :=
  List.flatten [f.reqs.flatMap fun r => reqEvents r.1 ++ rowAsked r.2, f.probes.map fun p => .l1Probe p.1, f.walks.map fun p => .walkDone p.1,
    f.syncs.map fun p => .syncGrant p.1, f.semas.map fun p => .semaCountTaken p.1, f.fills.map fun p => .scratchFillLand p.1,
    f.touches.map fun p => .scratchRemoteAccess p.1, f.scrProbes.map fun p => .scratchProbe p.1,
    f.pushes.flatMap fun p => pushEvents p.1, f.tests.map fun p => .tvuLaneTestDone p.1, f.jobs.flatMap fun p => jobEvents p.1 ++ jobAsked p.2,
    f.sends.map fun p => .messageArrival p.1, f.sends.map fun p => .messageResend p.1]
/-- The admissions that one core may make. -/
noncomputable def State.admissions (s : State) (c : Nat) : List Instr :=
  .blockAdmit c 0 0 :: (s.cluster (clusterOf c)).rays.formed.map fun e => .blockAdmit c 0 (e.1 + 1)
/-- The treelet lines asked for in one cluster. -/
noncomputable def treeletEvents (c : Nat) (k : Cluster) : List Instr :=
  k.rays.cache.flatMap fun t => t.wanted.map fun l => .treeletFill c t.ctx (t.pa + 64 * l)
/-- The events that the things in flight may make. -/
noncomputable def State.candidates (s : State) : List Instr :=
  List.flatten [s.fly.events, hostAsked s.dev, s.ctxs.flatMap fun c => ctxEvents c.1, s.cores.flatMap fun c => c.2.events c.1,
    s.blocks.flatMap fun b => .blockEnd b.1 :: b.2.bars.map fun n => .barPhaseComplete b.1 n.1,
    s.clusters.flatMap fun k => k.2.joins.map fun j => .joinBufferRetry k.1 j.1,
    s.clusters.flatMap fun k => treeletEvents k.1 k.2, s.cores.flatMap fun c => s.admissions c.1,
    s.rays.flatMap fun r => rayEvents (r.1 / 2 ^ 24) (r.1 % 2 ^ 24),
    s.rays.map fun r => .rayRefill r.2.cluster (r.1 / 2 ^ 24) (r.1 % 2 ^ 24)]
/-- The first of some events that is due, taken. -/
noncomputable def State.firstDue (s : State) : List Instr → Option State
  | [] => none
  | i :: t =>
    match exec i s with
    | .next s' => some s'
    | _ => State.firstDue s t

/-- The splits that may be looked at: when each last issued, its core, slot and entry, and whether it waits. -/
def State.splitsOf (s : State) : List (Nat × (Nat × Nat × Nat)) :=
  s.cores.flatMap fun c => c.2.groups.flatMap fun g => g.2.splits.map fun e => (e.2.since, (c.1, g.1, e.1))
/-- A split is as it was, and nothing was sent for it. -/
def State.unmoved (s t : State) (x : Ex) : Bool :=
  decide (t.fly = s.fly) && (match t.exAt x.core x.slot x.entry with | some y => y.gr.pend == x.gr.pend && y.sp == x.sp && y.gr.trapping == x.gr.trapping | none => false) &&
  (t.ctx x.gr.ctx).faults == (s.ctx x.gr.ctx).faults
/-- The issue of a split moves it: it is not only looked at again. -/
noncomputable def State.movesOf (s : State) (core slot entry : Nat) : Option Out :=
  match s.exAt core slot entry with
  | none => none
  | some x =>
    let l := s.look x
    match l.1 with
    | .wait => if s.unmoved l.2 x then none else some (.next l.2)
    | .park _ => some (s.issue core slot entry)
    | _ =>
      match s.issue core slot entry with
      | .next t => if s.unmoved t x then none else some (.next t)
      | o => some o
/-- The split that issued longest ago among those that move (R84). -/
noncomputable def State.firstMove (s : State) : Option Out :=
  let l := s.splitsOf.filterMap fun p => (s.movesOf p.2.1 p.2.2.1 p.2.2.2).map fun o => (p.1, o)
  match l with
  | [] => none
  | p :: t => some (t.foldl (fun (b : Nat × Out) q => if q.1 < b.1 then q else b) p).2

/-- A split that issues in this clk (R84): no clk passes before it. -/
noncomputable def State.mustIssue (s : State) : Option (Nat × Issued) :=
  (s.cores.flatMap fun c => (List.range 4).flatMap fun q => (s.picks c.1 q).map fun n => (c.1, n)).find? fun p =>
    s.mayIssue p.1 p.2
/-- An instruction that has issued and waits goes on, where what it waits for is there. -/
noncomputable def State.mustGo (s : State) : Option Out :=
  s.splitsOf.findSome? fun p =>
    match s.exAt p.2.1 p.2.2.1 p.2.2.2 with
    | some x => if x.again then s.movesOf x.core x.slot x.entry else none
    | none => none
/-- A clk passes; an event that it may not pass happens first, then the instructions that wait no longer, and then the issues that
R84 gives the clk. -/
noncomputable def State.passTime (s : State) : Out :=
  match s.firstDue s.timely with
  | some t => .next t
  | none =>
    match s.mustGo with
    | some o => o
    | none =>
      match s.mustIssue with
      | some (c, n) => s.issue c n.slot n.entry
      | none => .next s.tick
/-- The choice that the model makes where the schedule is empty: an event in flight, a split, or a clk. -/
noncomputable def State.choose (s : State) : Out :=
  match s.firstDue s.candidates with
  | some t => .next t
  | none =>
    match s.firstMove with
    | some o => o
    | none => s.passTime

/-- One turn of the schedule. An event that is not due does not happen. -/
noncomputable def State.turn (s : State) : Turn → Out
  | .issue c g e => s.issue c g e
  | .event i =>
    match exec i s with
    | .refused .eventNotDue => .next s
    | o => o
  | .flaw f => .next (s.meetFlaw f)
  | .bar2Size n => .next (s.sizeBar2 n)
  | .tick => s.passTime

end Sys2Proof.Machine
end

