-- ==== Sys2Proof/Machine/Place.lean ====
section
/-! DEFINITION. Placing one instruction as the next to run: the model's stand-in for a launch and the admission of its block
(spec 13). -/
namespace Sys2Proof.Machine

/-- The physical address of the placed instruction, in GDDR 7, and the leaf of its page: valid, class D, writable,
executable. -/
def placePa : Nat := 0x2000000000
def placePte : DWord := toD (placePa + 0x19)

/-- The group that runs it: all eight lanes in one split at PC 0. -/
def placeGroup (g : Option Group) (uid : Nat) : Group :=
  let g : Group := g.getD { uid := uid, ctx := 0, blk := 0, idx := 0, live := 0xFF, splits := [] }
  { g with ctx := 0, live := 0xFF, splits := [(0, { mask := 0xFF, st := .ready, pc := 0 })], pend := [], trapping := none,
           holder := none, ended := false }
/-- The core that runs it: the context ACTIVE, the page in the TLB, the line not in the instruction cache. -/
def placeCore (k : Core) (uid : Nat) : Core :=
  { k with groups := mset k.groups 0 (placeGroup (mget k.groups 0) uid)
           res := mset k.res 0 .active
           tlb := ⟨0, 0, placePte⟩ :: k.tlb.filter fun t => !t.serves 0 0
           icache := mdel k.icache placePa
           quietUntil := 0
           rows := { k.rows with reopen := [] }
           issued := mdel k.issued 0 }
/-- The state with an instruction placed. -/
def State.placeWord (s : State) (nbits w : Nat) : State :=
  let s := s.reclaim placePa
  let s := (s.modCore 0 fun k => placeCore k s.nextId).modCtx 0 fun x => { x with regs := { x.regs with en := true }, faults := [] }
  { s.fresh with
    mem := { s.mem with bytes := Bytes.write s.mem.bytes placePa (leBytes 8 (w % 2 ^ nbits)) }
    turns := [.issue 0 0 0] }

end Sys2Proof.Machine
end

