-- ==== Sys2Proof/Machine/Step.lean ====
section
/-! DEFINITION. The step function, and the state in which the next instruction is a given one. -/
namespace Sys2Proof.Machine

/-- One step: the next turn of the schedule, or the model's own choice. -/
noncomputable def step (s : State) : Host.Outcome State Fault Refusal :=
  match s.turns with
  | t :: rest => State.turn { s with turns := rest } t
  | [] => s.choose

/-- The state with an instruction stored where the split of core 0, slot 0, entry 0 fetches next, that split READY on a
context that runs, and its issue as the next turn. -/
def State.withFetchWord (s : State) (nbits w : Nat) : State := s.placeWord nbits w

end Sys2Proof.Machine
end

