-- ==== Sys2Proof/Certificates/Slice0/Obligations.lean ====
section
/-! DEFINITION. The statements for the provers: what the rules of the spec say of the machine, each a closed proposition. -/
namespace Sys2Proof.Claims
open Sys2Proof.Machine

/-! ### What changes, and what does not -/

/-- The group of the executing split is g after the step, and nothing else of the machine has changed: no other group, no
other part of a core, no byte of memory, no context, no device register. -/
structure OnlyGroup (s t : State) (x : Ex) (g : Group) : Prop where
  group : t.group x.core x.slot = some g
  others : ∀ c k, ¬(c = x.core ∧ k = x.slot) → t.group c k = s.group c k
  cores : ∀ c, { t.core c with groups := [] } = { s.core c with groups := [] }
  memory : ∀ a, Bytes.at_ t.mem.bytes a = Bytes.at_ s.mem.bytes a
  rest : { t with cores := [] } = { s with cores := [] }

/-- A split n bytes further (R54), with nothing of the instruction it has done left over. -/
def moved (n : Nat) (sp : Split) : Split :=
  { sp with pc := Pc.plus sp.pc n, jumped := false, counted := false, half := 0, latch := none }
/-- The executing split goes on n bytes further, and the other splits stand where they stood (R54). -/
structure Advances (g g' : Group) (e n : Nat) : Prop where
  self : mget g'.splits e = (mget g.splits e).map (moved n)
  others : ∀ k, k ≠ e → mget g'.splits k = mget g.splits k

/-- A lane instruction of n bytes: every active lane changes as r says, every other lane stays as it was, and so does all
else of the group but the program counter of the split (R5, R137). -/
structure LaneStep (g g' : Group) (e n : Nat) (act : Mask) (r : Nat → Lane → Lane → Prop) : Prop where
  active : ∀ l, Mask.has act l = true → r l (g.lane l) (g'.lane l)
  idle : ∀ l, Mask.has act l = false → g'.lane l = g.lane l
  pc : Advances g g' e n
  rest : { g' with lanes := [], splits := [] } = { g with lanes := [], splits := [] }

/-- A lane instruction completes, and does what r says in every active lane and nothing else. -/
def LaneDoes (i : Instr) (n : Nat) (gd : Guard) (r : Ex → Nat → Lane → Lane → Prop) : Prop :=
  ∀ s x, s.running = some x → ∃ t g, exec i s = .next t ∧ OnlyGroup s t x g ∧
    LaneStep x.gr g x.entry n (x.active gd) (r x)

/-- Register r of the lane's window holds w; every other register, the predicates, the flag word and the window are as they
were. -/
structure SetsReg (a b : Lane) (r : Nat) (w : Word) : Prop where
  value : b.v r = w
  others : ∀ k, k ≠ a.wb + r → mgetD b.regs k 0 = mgetD a.regs k 0
  rest : { b with regs := [] } = { a with regs := [] }
/-- Registers r and r + 1 hold the low and the high word of w. -/
structure SetsPair (a b : Lane) (r : Nat) (w : DWord) : Prop where
  low : b.v r = loOf w
  high : b.v (r + 1) = hiOf w
  others : ∀ k, k ≠ a.wb + r → k ≠ a.wb + r + 1 → mgetD b.regs k 0 = mgetD a.regs k 0
  rest : { b with regs := [] } = { a with regs := [] }
/-- Register r holds w, and the flags f have been raised in the lane flag word, which keeps those it had (R36). -/
structure SetsRegFlags (a b : Lane) (r : Nat) (w : Word) (f : BitVec 6) : Prop where
  value : b.v r = w
  flags : b.flags = a.flags ||| f
  others : ∀ k, k ≠ a.wb + r → mgetD b.regs k 0 = mgetD a.regs k 0
  rest : { b with regs := [], flags := 0 } = { a with regs := [], flags := 0 }
/-- Predicate p of the lane is v, where p is not p7, and no other predicate changes; p7 reads 1 and keeps doing so (R113). -/
structure SetsPred (a b : Lane) (p : BitVec 3) (v : Bool) : Prop where
  value : p ≠ 7 → b.p p = v
  others : ∀ q, q ≠ p → b.p q = a.p q
  one : b.p 7 = true
  rest : { b with preds := 0 } = { a with preds := 0 }

/-- d := f(a, b), where b is a register or the literal. -/
def Sets3 (i : Instr) (o : R3) (f : Word → Word → Word) : Prop :=
  LaneDoes i (VSrc.len o.b) o.g fun _ _ a b => SetsReg a b o.d.toNat (f (a.v o.a.toNat) (VSrc.val o.b a))
/-- d := f(a). -/
def Sets2 (i : Instr) (o : R2) (f : Word → Word) : Prop :=
  LaneDoes i 4 o.g fun _ _ a b => SetsReg a b o.d.toNat (f (a.v o.a.toNat))
/-- d := f(a, b, c). -/
def Sets4 (i : Instr) (o : F4) (f : Word → Word → Word → Word) : Prop :=
  LaneDoes i 4 o.g fun _ _ a b => SetsReg a b o.d.toNat (f (a.v o.a.toNat) (a.v o.b.toNat) (a.v o.c.toNat))
/-- d := f(a, sign-extended immediate), under the guard p, which cannot be negated (R150). -/
def SetsI (i : Instr) (o : I12) (f : Word → Word → Word) : Prop :=
  LaneDoes i 4 ⟨o.p, false⟩ fun _ _ a b => SetsReg a b o.d.toNat (f (a.v o.a.toNat) (BitVec.ofInt 32 o.i.toInt))
/-- d:d+1 := f(a:a+1, b). -/
def SetsLea (i : Instr) (o : R3) (f : DWord → Word → DWord) : Prop :=
  LaneDoes i (VSrc.len o.b) o.g fun _ _ a b => SetsPair a b o.d.toNat (f (a.vPair o.a.toNat) (VSrc.val o.b a))
/-- d:d+1 := f(a:a+1, W), with W the pair b:b+1 or the literal, sign-extended. -/
def SetsWide (i : Instr) (o : R3) (f : DWord → DWord → DWord) : Prop :=
  LaneDoes i (VSrc.len o.b) o.g fun _ _ a b => SetsPair a b o.d.toNat
    (f (a.vPair o.a.toNat) (match o.b with | .reg r => a.vPair r.toNat | .lit w => BitVec.ofInt 64 w.toInt))
/-- d := r, with the flags that r raises, from a, b and the group's FTZ32 bit. -/
def SetsF3 (i : Instr) (o : R3) (f : Bool → Nat → Nat → Nat × Flags) : Prop :=
  LaneDoes i (VSrc.len o.b) o.g fun x _ a b =>
    let y := f (x.gr.uni.mode.getLsbD 0) (a.v o.a.toNat).toNat (VSrc.val o.b a).toNat
    SetsRegFlags a b o.d.toNat (BitVec.ofNat 32 y.1) y.2
def SetsF2 (i : Instr) (o : R2) (f : Bool → Nat → Nat × Flags) : Prop :=
  LaneDoes i 4 o.g fun x _ a b =>
    let y := f (x.gr.uni.mode.getLsbD 0) (a.v o.a.toNat).toNat
    SetsRegFlags a b o.d.toNat (BitVec.ofNat 32 y.1) y.2
def SetsF4 (i : Instr) (o : F4) (f : Uniform → Nat → Nat → Nat → Nat × Flags) : Prop :=
  LaneDoes i 4 o.g fun x _ a b =>
    let y := f x.gr.uni (a.v o.a.toNat).toNat (a.v o.b.toNat).toNat (a.v o.c.toNat).toNat
    SetsRegFlags a b o.d.toNat (BitVec.ofNat 32 y.1) y.2

/-- PK: the elements of register d, of w bits each, are the n words from a and the n words from b, converted in turn, and the
flags of all are raised (R160, R161). -/
def Packs (u : Uniform) (f : Fmt) (sat : Bool) (n : Nat) (o : R3n) (a b : Lane) : Prop :=
  let src := fun i => (a.v (if i < n then o.a.toNat + i else o.b.toNat + (i - n))).toNat
  let y := fun i => cvtFloat u f fF32 .rn sat (src i)
  let w := f.w + f.m + 1
  (∀ i, i < 2 * n → bits (b.v o.d.toNat).toNat (w * i) w = (y i).1) ∧
  b.flags = (List.range (2 * n)).foldl (fun f i => f ||| (y i).2) a.flags ∧
  (∀ k, k ≠ a.wb + o.d.toNat → mgetD b.regs k 0 = mgetD a.regs k 0) ∧
  { b with regs := [], flags := 0 } = { a with regs := [], flags := 0 }
/-- UPK: registers d to d + n − 1 are the n elements of a, converted, and the flags of all are raised (R160, R161). -/
def Unpacks (u : Uniform) (f : Fmt) (n : Nat) (o : R2) (a b : Lane) : Prop :=
  let w := f.w + f.m + 1
  let y := fun i => cvtFloat u fF32 f .rn false (bits (a.v o.a.toNat).toNat (w * i) w)
  (∀ i, i < n → b.v (o.d.toNat + i) = BitVec.ofNat 32 (y i).1) ∧
  b.flags = (List.range n).foldl (fun f i => f ||| (y i).2) a.flags ∧
  (∀ k, k < a.wb + o.d.toNat ∨ a.wb + o.d.toNat + n ≤ k → mgetD b.regs k 0 = mgetD a.regs k 0) ∧
  { b with regs := [], flags := 0 } = { a with regs := [], flags := 0 }

/-- A uniform instruction of n bytes: the uniform state changes as r says, once for the group, and nothing else but the
program counter of the split. -/
structure UniStep (g g' : Group) (e n : Nat) (r : Uniform → Uniform → Prop) : Prop where
  uni : r g.uni g'.uni
  pc : Advances g g' e n
  rest : { g' with uni := {}, splits := [] } = { g with uni := {}, splits := [] }
/-- A uniform instruction completes, and does what r says and nothing else. -/
def UniDoes (i : Instr) (n : Nat) (r : Ex → Uniform → Uniform → Prop) : Prop :=
  ∀ s x, s.running = some x → ∃ t g, exec i s = .next t ∧ OnlyGroup s t x g ∧ UniStep x.gr g x.entry n (r x)
/-- Register s[r] holds w, and nothing else of the uniform state changes. -/
structure SetsS (a b : Uniform) (r : Nat) (w : Word) : Prop where
  value : b.sr r = w
  others : ∀ k, k ≠ r → b.sr k = a.sr k
  rest : { b with s := [] } = { a with s := [] }
structure SetsSPair (a b : Uniform) (r : Nat) (w : DWord) : Prop where
  low : b.sr r = loOf w
  high : b.sr (r + 1) = hiOf w
  others : ∀ k, k ≠ r → k ≠ r + 1 → b.sr k = a.sr k
  rest : { b with s := [] } = { a with s := [] }
/-- Condition c is v, where c is not c7, and no other condition changes. -/
structure SetsCond (a b : Uniform) (c : BitVec 3) (v : Bool) : Prop where
  value : c ≠ 7 → b.c c = v
  others : ∀ q, q ≠ c → b.c q = a.c q
  one : b.c 7 = true
  rest : { b with conds := 0 } = { a with conds := 0 }
/-- sd := f(sa, sb), where sb is a register or the literal. -/
def SetsU3 (i : Instr) (o : U3) (f : Word → Word → Word) : Prop :=
  UniDoes i (SSrc.len o.b) fun _ a b => SetsS a b o.d.toNat (f (a.sr o.a.toNat) (SSrc.val o.b a))
def SetsU2 (i : Instr) (o : U2) (f : Word → Word) : Prop :=
  UniDoes i 4 fun _ a b => SetsS a b o.d.toNat (f (a.sr o.a.toNat))
def SetsUi (i : Instr) (o : UiO) (f : Word → Word → Word) : Prop :=
  UniDoes i 4 fun _ a b => SetsS a b o.d.toNat (f (a.sr o.a.toNat) (BitVec.ofInt 32 o.i.toInt))

/-! ### Splits and joins -/

/-- As `OnlyGroup`, but that event counters of the executing core may count (R94). -/
structure GroupAndCounters (s t : State) (x : Ex) (g : Group) : Prop where
  group : t.group x.core x.slot = some g
  others : ∀ c k, ¬(c = x.core ∧ k = x.slot) → t.group c k = s.group c k
  here : { t.core x.core with groups := [], ctr := [] } = { s.core x.core with groups := [], ctr := [] }
  cores : ∀ c, c ≠ x.core → t.core c = s.core c
  memory : ∀ a, Bytes.at_ t.mem.bytes a = Bytes.at_ s.mem.bytes a
  rest : { t with cores := [] } = { s with cores := [] }
/-- The split tables of the machine list their entries in order, below 8, and no lane stands in two entries of a table (R81). -/
def TablesInOrder (m : Map Split) : Prop :=
  Map.sorted m = true ∧ (∀ p ∈ m, p.1 < 8) ∧ m.Pairwise fun a b => a.2.mask &&& b.2.mask = 0
/-- The splits of the group stand in the 8 entries of its table, every one has a lane, and no lane is in two (R80, R81). -/
def Apart (x : Ex) : Prop := TablesInOrder x.gr.splits ∧ ∀ p ∈ x.gr.splits, p.2.mask ≠ 0
/-- The lanes of a split go where `to_` says, each with its PC and its state; lanes that go to one place stand in one entry, the
lowest lane keeps the entry of the split, and nothing else of the group changes (R83, R98). -/
structure Divides (g g' : Group) (sp : Split) (e : Nat) (to_ : Nat → Pc × SplitSt) : Prop where
  lanes : ∀ l, Mask.has sp.mask l = true →
    ∃ k q, mget g'.splits k = some q ∧ Mask.has q.mask l = true ∧ q.pc = (to_ l).1 ∧ q.st = (to_ l).2
  together : ∀ l m, Mask.has sp.mask l = true → Mask.has sp.mask m = true → to_ l = to_ m →
    ∃ k q, mget g'.splits k = some q ∧ Mask.has q.mask l = true ∧ Mask.has q.mask m = true
  first : ∀ l, Mask.has sp.mask l = true → (∀ m, m < l → Mask.has sp.mask m = false) →
    ∃ q, mget g'.splits e = some q ∧ Mask.has q.mask l = true
  only : ∀ k q, mget g'.splits k = some q → (k ≠ e ∧ mget g.splits k = some q) ∨
    ∀ l, Mask.has q.mask l = true → Mask.has sp.mask l = true ∧ q.pc = (to_ l).1 ∧ q.st = (to_ l).2
  kept : ∀ k q, k ≠ e → mget g.splits k = some q → mget g'.splits k = some q
  rest : { g' with splits := [] } = { g with splits := [] }
/-- Of the group only the split table has changed. -/
def SameButSplits (x : Ex) (g : Group) : Prop := { g with splits := [] } = { x.gr with splits := [] }
/-- A join register after lanes leave it (R86, R87): free when those that are left have all arrived. -/
def leftJoin (j : Join) (a : Mask) : Join :=
  let arm := j.arm &&& ~~~ a
  let arv := j.arv &&& ~~~ a
  if arm ≠ 0 ∧ arv = arm then ⟨0, 0, 0⟩ else ⟨arm, arv, j.rpc⟩
/-- The split goes on n bytes further; every other split stays where it was and issues in a later clk (R140). -/
def NewMode (s : State) (x : Ex) (g : Group) (n : Nat) : Prop :=
  mget g.splits x.entry = (mget x.gr.splits x.entry).map (moved n) ∧
  ∀ k, k ≠ x.entry → mget g.splits k =
    (mget x.gr.splits k).map fun sp => { sp with notBefore := max sp.notBefore (s.now + 1) }

/-- A call of k registers by the active lanes completes when nothing is pending for them, the target lies in the region of the
next instruction, no lane needs more than the spill limit, and every word to spill can be written (R121): what it leaves. -/
def CallRuns (s : State) (x : Ex) (b : Block) (i : Instr) (act : Mask) (k : Nat) (tgt : Nat → DWord) : Prop :=
  let lo := fun l => max (x.gr.lane l).stk ((x.gr.lane l).wb + k + 32 - b.stack)
  act ≠ 0 → x.gr.pending act = false → 8 ≤ k → k ≤ 24 →
  (∀ l, Mask.has act l = true → hiOf (tgt l) = hiOf (Pc.addr (Pc.plus x.sp.pc 4)) ∧ lo l ≤ b.limit) →
  (s.pseWords x.gr.ctx (s.spillArea x.gr.ctx x.core x.slot) true
    ((lanesOf act).flatMap fun l => wordRange l (x.gr.lane l).stk (lo l))).1.1 = [] →
  ∃ t g, exec i s = .next t ∧ t.group x.core x.slot = some g ∧
    ((∀ l, Mask.has act l = true → lo l = (x.gr.lane l).stk) → GroupAndCounters s t x g) ∧
    (∀ l, Mask.has act l = true →
      (g.lane l).wb = (x.gr.lane l).wb + k ∧ (g.lane l).stk = lo l ∧
      (g.lane l).v 31 = (loOf (Pc.addr (Pc.plus x.sp.pc 4)) &&& 0xFFFFFFFC) + BitVec.ofNat 32 (k / 8) ∧
      (∀ r, r < 32 - k → lo l ≤ (x.gr.lane l).wb + k + r → (g.lane l).v r = (x.gr.lane l).v (k + r)) ∧
      (∀ r, 32 - k ≤ r → r < 31 → (g.lane l).v r = 0) ∧
      (∀ r, r < 32 → lo l ≤ (x.gr.lane l).wb + r →
        mgetD (g.lane l).regs ((x.gr.lane l).wb + r) 0 = (x.gr.lane l).v r) ∧
      (g.lane l).preds = (x.gr.lane l).preds ∧ (g.lane l).flags = (x.gr.lane l).flags) ∧
    (∀ l, Mask.has act l = false → g.lane l = x.gr.lane l) ∧
    (Apart x → ∀ l, Mask.has x.sp.mask l = true → ∃ e q, mget g.splits e = some q ∧ Mask.has q.mask l = true ∧ q.st = .ready ∧
      q.pc = if Mask.has act l then Pc.of (tgt l) else Pc.plus x.sp.pc 4) ∧
    { g with splits := [], lanes := [] } = { x.gr with splits := [], lanes := [] }

/-- With no active lane the instruction has no effect but to go on, n bytes further (R5). -/
def IdleGoesOn (i : Instr) (gd : Guard) (n : Nat) : Prop :=
  ∀ s x, s.running = some x → x.active gd = 0 →
    ∃ t g, exec i s = .next t ∧ OnlyGroup s t x g ∧ Advances x.gr g x.entry n ∧ SameButSplits x g

/-! ### Accesses -/

/-- Every request in flight has an id that was given out before. -/
def FreshIds (s : State) : Prop := ∀ p ∈ s.fly.reqs, p.1 < s.nextId
/-- An access of the executing split passes the checks of R215 and R232: canonical, aligned to z bytes, translated by an entry
of the core's TLB whose leaf is e, allowed, and of an allowed class. -/
structure Lands (s : State) (x : Ex) (a : Access) (classes : List Nat) (z : Nat) (va : DWord) (e : DWord) : Prop where
  canonical : Machine.canonical va = true
  aligned : va.toNat % z = 0
  translated : ((s.core x.core).tlb.find? fun t => t.serves x.gr.ctx va.toNat).map TlbEntry.pte = some e
  allowed : s.pteCause e va.toNat a = none
  cls : pteClass e ∈ classes
/-- What an access that is sent at issue leaves alone: every other group, every other core, and all of the machine but the
executing core's L1, times and counters, the requests in flight and the ids. -/
structure SentBy (s t : State) (x : Ex) : Prop where
  others : ∀ c k, ¬(c = x.core ∧ k = x.slot) → t.group c k = s.group c k
  here : { t.core x.core with groups := [], l1 := [], pts := [], ctr := [] } =
    { s.core x.core with groups := [], l1 := [], pts := [], ctr := [] }
  cores : ∀ c, c ≠ x.core → t.core c = s.core c
  rest : { t with cores := [], nextId := 0, fly := { t.fly with reqs := [] } } =
    { s with cores := [], nextId := 0, fly := { s.fly with reqs := [] } }
/-- The split goes on n bytes further, perhaps with a lookahead window more; lanes, pending results and splits apart, the group
is as it was. -/
structure MovedOn (x : Ex) (g : Group) (n : Nat) : Prop where
  self : ∃ w, mget g.splits x.entry = (mget x.gr.splits x.entry).map fun sp => { moved n sp with wins := w }
  others : ∀ k, k ≠ x.entry → mget g.splits k = mget x.gr.splits k
  rest : { g with lanes := [], pend := [], splits := [] } = { x.gr with lanes := [], pend := [], splits := [] }

/-! ### The arithmetic of the rules, in whole numbers -/

/-- clamp(y) = min(max(y, −2^31), 2^31 − 1) (R142). -/
def clampInt (y : Int) : Word := BitVec.ofInt 32 (min (max y (-(2 ^ 31))) (2 ^ 31 - 1))
/-- R144, fn 6 to 9. -/
def shlN (a n : Nat) : Word := BitVec.ofNat 32 (if n < 32 then a * 2 ^ n else 0)
def shrNat (a n : Nat) : Word := BitVec.ofNat 32 (if n < 32 then a / 2 ^ n else 0)
def shrInt (a : Int) (n : Nat) : Word := BitVec.ofInt 32 (a / 2 ^ min n 31)
def rotN (a n : Nat) : Word := BitVec.ofNat 32 (a * 2 ^ (n % 32) + a / 2 ^ (32 - n % 32))
/-- The shift of a kind: SHL, SHR.n, SHR.i or ROTL. -/
def shiftOf (k : BitVec 2) (a : Word) (n : Nat) : Word :=
  match k.toNat with
  | 0 => shlN a.toNat n
  | 1 => shrNat a.toNat n
  | 2 => shrInt a.toInt n
  | _ => rotN a.toNat n
/-- The conditions of ISET and USET (R149). -/
def condOf (f : BitVec 5) (a b : Word) : Prop :=
  match f.toNat with
  | 0 => a = b
  | 1 => a ≠ b
  | 2 => a.toInt < b.toInt
  | 3 => a.toInt ≤ b.toInt
  | 4 => a.toInt > b.toInt
  | 5 => a.toInt ≥ b.toInt
  | 6 => a.toNat < b.toNat
  | 7 => a.toNat ≤ b.toNat
  | 8 => a.toNat > b.toNat
  | 9 => a.toNat ≥ b.toNat
  | _ => False
/-- Combine code m (R56): t alone, old and t, old or t. -/
def combined (m : BitVec 2) (old t : Bool) : Bool :=
  match m.toNat with
  | 0 => t
  | 1 => old && t
  | 2 => old || t
  | _ => t
/-- A code without its sign, as a number (R23): k × 2^(1 − bias − m) below the normal codes, else 1.fraction × 2^(exponent − bias). -/
def magOf (f : Fmt) (k : Nat) : ℚ :=
  if k < 2 ^ f.m then (k : ℚ) * (2 : ℚ) ^ (1 - (f.bias : Int) - f.m)
  else ((2 ^ f.m + k % 2 ^ f.m : Nat) : ℚ) * (2 : ℚ) ^ (((k / 2 ^ f.m : Nat) : Int) - f.bias - f.m)
/-- The number a finite code stands for. -/
def valOf (f : Fmt) (c : Nat) : ℚ :=
  if 2 ^ (f.w + f.m) ≤ c then -magOf f (c % 2 ^ (f.w + f.m)) else magOf f c
/-- A code of a finite value. -/
def FiniteCode (f : Fmt) (c : Nat) : Prop := c < 2 ^ (f.w + f.m + 1) ∧ c % 2 ^ (f.w + f.m) ≤ f.maxFin
/-- A code as it is read: a subnormal one as a zero of its sign while the flush is on (R31). -/
def readAs (f : Fmt) (ftz : Bool) (c : Nat) : Nat :=
  if ftz = true ∧ c % 2 ^ (f.w + f.m) < 2 ^ f.m then c / 2 ^ (f.w + f.m) * 2 ^ (f.w + f.m) else c
/-- Of the two neighbours k and k + 1 of a magnitude, the one that a rounding mode takes (R28). -/
def neighbour (f : Fmt) (r : Rnd) (x : ℚ) (k : Nat) : Nat :=
  match r with
  | .rz => k
  | .rm => if x < 0 then k + 1 else k
  | .rp => if x < 0 then k else k + 1
  | .rn => if |x| - magOf f k < magOf f (k + 1) - |x| ∨ (|x| - magOf f k = magOf f (k + 1) - |x| ∧ k % 2 = 0) then k else k + 1
/-- y is the code and the flags of the number x, which is not 0, rounded once (R28, R31, R36): x itself where it is a value of
the format; else its neighbour by the mode, with IX, and UF where it is tiny; beyond the largest value OF and IX; and a
subnormal result is a zero while the flush is on. -/
def RoundsTo (f : Fmt) (r : Rnd) (ftz : Bool) (x : ℚ) (y : Nat × Flags) : Prop :=
  let s := if x < 0 then 2 ^ (f.w + f.m) else 0
  (∀ k, k < f.maxFin → (ftz = false ∨ 2 ^ f.m ≤ k) → magOf f k ≤ |x| → |x| < magOf f (k + 1) →
    y.1 = s + (if |x| = magOf f k then k else neighbour f r x k) ∧
    (|x| = magOf f k → y.2 = 0) ∧ (|x| ≠ magOf f k → 2 ^ f.m ≤ k → y.2 = flIX) ∧
    (|x| ≠ magOf f k → k + 1 < 2 ^ f.m → y.2 = flIX ||| flUF)) ∧
  (ftz = true → |x| ≤ magOf f (2 ^ f.m - 1) → y = (s, flUF ||| flIX)) ∧
  (∀ i, f.inf = some i → magOf f (f.maxFin + 1) ≤ |x| →
    y = (s + (if r = .rn ∨ (r = .rm ∧ x < 0) ∨ (r = .rp ∧ 0 < x) then i else f.maxFin), flOF ||| flIX))
/-- k is the number x rounded to an integer. -/
def IntRounds (r : Rnd) (x : ℚ) (k : Int) : Prop :=
  match r with
  | .rz => |(k : ℚ)| ≤ |x| ∧ |x| < |(k : ℚ)| + 1 ∧ 0 ≤ x * k
  | .rm => (k : ℚ) ≤ x ∧ x < k + 1
  | .rp => x ≤ k ∧ (k : ℚ) < x + 1
  | .rn => 2 * |x - k| < 1 ∨ (2 * |x - k| = 1 ∧ k % 2 = 0)

/-- The order of the numbers among the codes of .f32: −0 and +0 are equal. -/
def keyOf (c : Nat) : Int := if 2 ^ 31 ≤ c then -((c % 2 ^ 31 : Nat) : Int) else c
/-- A NaN code of .f32, and one whose top fraction bit is 0 (R24). -/
def IsNan (c : Nat) : Prop := c % 2 ^ 31 > 0x7F800000
def Signals (c : Nat) : Prop := c % 2 ^ 31 > 0x7F800000 ∧ c % 2 ^ 23 < 2 ^ 22
/-- The conditions of FSET, by fn (R159). -/
def fsetHolds (fn a b : Nat) : Prop :=
  let un := IsNan a ∨ IsNan b
  match fn with
  | 0 => ¬un ∧ keyOf a = keyOf b
  | 1 => ¬un ∧ keyOf a ≠ keyOf b
  | 2 => ¬un ∧ keyOf a < keyOf b
  | 3 => ¬un ∧ keyOf a ≤ keyOf b
  | 4 => ¬un ∧ keyOf b < keyOf a
  | 5 => ¬un ∧ keyOf b ≤ keyOf a
  | 6 => un ∨ keyOf a = keyOf b
  | 7 => un ∨ keyOf a ≠ keyOf b
  | 8 => un ∨ keyOf a < keyOf b
  | 9 => un ∨ keyOf a ≤ keyOf b
  | 10 => un ∨ keyOf b < keyOf a
  | 11 => un ∨ keyOf b ≤ keyOf a
  | 12 => ¬un
  | _ => un
/-- The mode word bit that flushes the subnormal codes of a format (R31). -/
def flushBit (u : Uniform) (f : Fmt) : Bool :=
  if f = fF32 then u.mode.getLsbD 0 else if f = fF16 ∨ f = fBf16 then u.mode.getLsbD 1 else false
/-- The word w is what selector k reads for lane l (R128), for the selectors whose value the state holds as it stands. -/
def Reads (s : State) (x : Ex) (act : Mask) (fl : BitVec 6) (l k : Nat) (w : Word) : Prop :=
  let ln := x.gr.lane l
  match k with
  | 0 => w.toNat = l
  | 1 => w = BitVec.ofNat 32 x.slot
  | 2 => w = loOf ln.wid
  | 3 => w = hiOf ln.wid
  | 10 => w = BitVec.ofNat 32 (x.core % 24)
  | 11 => w = BitVec.ofNat 32 (x.core / 24)
  | 12 => w = BitVec.ofNat 32 s.dev.pkg
  | 13 => w = loOf (s.clk x.core)
  | 14 => ∀ h, x.gr.uni.clkHi = some h → w = h
  | 15 => w = x.sp.mask.zeroExtend 32
  | 16 => w = act.zeroExtend 32
  | 17 => w = BitVec.ofNat 32 x.gr.ctx
  | 18 => w = BitVec.ofNat 32 (s.core x.core).part
  | 19 => w = BitVec.ofNat 32 ln.stk
  | 20 => w = BitVec.ofNat 32 ln.wb
  | 21 => w = fl.zeroExtend 32
  | 22 => w = x.gr.uni.mode
  | 23 => w = ln.ray
  | 24 => w = ln.shader
  | 25 => w = ln.episode
  | 32 => w = BitVec.ofNat 32 (s.pts x.core x.gr.ctx)
  | 33 => ∀ h, x.gr.uni.ptsHi = some h → w = h
  | _ => True

end Sys2Proof.Claims

open Sys2Proof Sys2Proof.Machine Sys2Proof.Claims

/-! ### Lane integer instructions -/

/-- R142: IADD to IDIFF, LEA1 to LEA4, IADDW and ISUBW, in whole numbers. -/
def Sys2Proof.Claims.LaneIntegerArithmetic : Prop :=
  (∀ o, Sets3 (.iadd o) o fun a b => BitVec.ofNat 32 (a.toNat + b.toNat)) ∧
  (∀ o, Sets3 (.isub o) o fun a b => BitVec.ofInt 32 ((a.toNat : Int) - b.toNat)) ∧
  (∀ o, Sets3 (.iaddSat o) o fun a b => clampInt (a.toInt + b.toInt)) ∧
  (∀ o, Sets3 (.isubSat o) o fun a b => clampInt (a.toInt - b.toInt)) ∧
  (∀ o, Sets3 (.iminI o) o fun a b => BitVec.ofInt 32 (min a.toInt b.toInt)) ∧
  (∀ o, Sets3 (.imaxI o) o fun a b => BitVec.ofInt 32 (max a.toInt b.toInt)) ∧
  (∀ o, Sets3 (.iminN o) o fun a b => BitVec.ofNat 32 (min a.toNat b.toNat)) ∧
  (∀ o, Sets3 (.imaxN o) o fun a b => BitVec.ofNat 32 (max a.toNat b.toNat)) ∧
  (∀ o, Sets2 (.iabs o) o fun a => BitVec.ofNat 32 a.toInt.natAbs) ∧
  (∀ o, Sets2 (.ineg o) o fun a => BitVec.ofInt 32 (-a.toInt)) ∧
  (∀ o, Sets3 (.idiff o) o fun a b => BitVec.ofNat 32 (max a.toNat b.toNat - min a.toNat b.toNat)) ∧
  (∀ o, SetsLea (.lea1 o) o fun a b => BitVec.ofInt 64 (a.toNat + b.toInt * 2)) ∧
  (∀ o, SetsLea (.lea2 o) o fun a b => BitVec.ofInt 64 (a.toNat + b.toInt * 4)) ∧
  (∀ o, SetsLea (.lea3 o) o fun a b => BitVec.ofInt 64 (a.toNat + b.toInt * 8)) ∧
  (∀ o, SetsLea (.lea4 o) o fun a b => BitVec.ofInt 64 (a.toNat + b.toInt * 16)) ∧
  (∀ o, SetsWide (.iaddw o) o fun a b => BitVec.ofNat 64 (a.toNat + b.toNat)) ∧
  (∀ o, SetsWide (.isubw o) o fun a b => BitVec.ofInt 64 ((a.toNat : Int) - b.toNat))

/-- R144: logic, shifts, bit counts and BYTSEL. -/
def Sys2Proof.Claims.LaneLogicAndShifts : Prop :=
  (∀ o, Sets3 (.and o) o fun a b => a &&& b) ∧
  (∀ o, Sets3 (.or o) o fun a b => a ||| b) ∧
  (∀ o, Sets3 (.xor o) o fun a b => a ^^^ b) ∧
  (∀ o, Sets3 (.andn o) o fun a b => a &&& ~~~ b) ∧
  (∀ o, Sets3 (.orn o) o fun a b => a ||| ~~~ b) ∧
  (∀ o, Sets2 (.not o) o fun a => ~~~ a) ∧
  (∀ o, Sets3 (.shl o) o fun a b => shlN a.toNat b.toNat) ∧
  (∀ o, Sets3 (.shrN o) o fun a b => shrNat a.toNat b.toNat) ∧
  (∀ o, Sets3 (.shrI o) o fun a b => shrInt a.toInt b.toNat) ∧
  (∀ o, Sets3 (.rotl o) o fun a b => rotN a.toNat b.toNat) ∧
  (∀ o, Sets2 (.popc o) o fun a => BitVec.ofNat 32 ((List.range 32).countP fun i => a.getLsbD i)) ∧
  (∀ o, Sets2 (.clz o) o fun a => BitVec.ofNat 32 (if a = 0 then 32 else 31 - a.toNat.log2)) ∧
  (∀ o : R2, LaneDoes (.brev o) 4 o.g fun _ _ a b =>
    ∃ w : Word, SetsReg a b o.d.toNat w ∧ ∀ i, i < 32 → w.getLsbD i = (a.v o.a.toNat).getLsbD (31 - i)) ∧
  (∀ o : R3, LaneDoes (.bytsel o) (VSrc.len o.b) o.g fun _ _ a b =>
    ∃ w : Word, SetsReg a b o.d.toNat w ∧ ∀ i, i < 4 →
      let A := a.v o.a.toNat
      let k := ((VSrc.val o.b a).extractLsb' (4 * i) 4).toNat
      w.extractLsb' (8 * i) 8 =
        if k ≤ 3 then A.extractLsb' (8 * k) 8
        else if k ≤ 7 ∧ A.getLsbD (8 * (k - 4) + 7) = true then 0xFF else 0x00)

/-- R145, R146, R148 and R164: products, multiply-add, bit fields and integer dot products. -/
def Sys2Proof.Claims.LaneMultiplyAndFields : Prop :=
  (∀ o, Sets3 (.imul o) o fun a b => BitVec.ofNat 32 (a.toNat * b.toNat)) ∧
  (∀ o, Sets3 (.imulhI o) o fun a b => BitVec.ofInt 32 (a.toInt * b.toInt / 2 ^ 32)) ∧
  (∀ o, Sets3 (.imulhN o) o fun a b => BitVec.ofNat 32 (a.toNat * b.toNat / 2 ^ 32)) ∧
  (∀ o, LaneDoes (.imulwI o) (VSrc.len o.b) o.g fun _ _ a b =>
    SetsPair a b o.d.toNat (BitVec.ofInt 64 ((a.v o.a.toNat).toInt * (VSrc.val o.b a).toInt))) ∧
  (∀ o, LaneDoes (.imulwN o) (VSrc.len o.b) o.g fun _ _ a b =>
    SetsPair a b o.d.toNat (BitVec.ofNat 64 ((a.v o.a.toNat).toNat * (VSrc.val o.b a).toNat))) ∧
  (∀ o, Sets4 (.imad o) o fun a b c => BitVec.ofNat 32 (a.toNat * b.toNat + c.toNat)) ∧
  (∀ o : F4, LaneDoes (.imadW o) 4 o.g fun _ _ a b =>
    SetsPair a b o.d.toNat
      (BitVec.ofNat 64 ((a.v o.a.toNat).toNat * (a.v o.b.toNat).toNat + (a.vPair o.c.toNat).toNat))) ∧
  (∀ o : F3, LaneDoes (.bfe o) 4 o.g fun _ _ a b =>
    let c := (a.v o.c.toNat).toNat
    let pos := c % 256
    let len := min (c / 256 % 256) 32
    let f := if len = 0 ∨ 32 ≤ pos then 0 else (a.v o.a.toNat).toNat / 2 ^ pos % 2 ^ len
    SetsReg a b o.d.toNat
      (BitVec.ofInt 32 (if (a.v o.c.toNat).getLsbD 16 = true ∧ 0 < len ∧ 2 ^ (len - 1) ≤ f then (f : Int) - 2 ^ len else f))) ∧
  (∀ o, Sets4 (.bfi o) o fun a b c =>
    let pos := c.toNat % 256
    let len := min (c.toNat / 256 % 256) 32
    let m := BitVec.ofNat 32 ((2 ^ len - 1) * 2 ^ pos)
    (a &&& ~~~ m) ||| (BitVec.ofNat 32 (b.toNat * 2 ^ pos) &&& m)) ∧
  (∀ o, Sets4 (.idp4I8 o) o fun a b c => BitVec.ofInt 32 (c.toNat +
    ((List.range 4).map fun i => (a.extractLsb' (8 * i) 8).toInt * (b.extractLsb' (8 * i) 8).toInt).sum)) ∧
  (∀ o, Sets4 (.idp4N8 o) o fun a b c => BitVec.ofNat 32 (c.toNat +
    ((List.range 4).map fun i => (a.extractLsb' (8 * i) 8).toNat * (b.extractLsb' (8 * i) 8).toNat).sum))

/-- LaneLogicAndShifts; LaneMultiplyAndFields: all of these hold. -/
def Obligations.LaneLogicShiftsAndProducts : Prop :=
  Sys2Proof.Claims.LaneLogicAndShifts ∧ Sys2Proof.Claims.LaneMultiplyAndFields

/-- R150: the immediate forms. -/
def Sys2Proof.Claims.LaneImmediates : Prop :=
  (∀ o, SetsI (.iaddi o) o fun a i => a + i) ∧
  (∀ o, SetsI (.andi o) o fun a i => a &&& i) ∧
  (∀ o, SetsI (.ori o) o fun a i => a ||| i) ∧
  (∀ o, SetsI (.xori o) o fun a i => a ^^^ i) ∧
  (∀ o : Sh5, LaneDoes (.shi o) 4 ⟨o.p, false⟩ fun _ _ a b =>
    SetsReg a b o.d.toNat (shiftOf o.k (a.v o.a.toNat) o.c.toNat)) ∧
  (∀ o : I17, LaneDoes (.movi o) 4 ⟨o.p, false⟩ fun _ _ a b =>
    SetsReg a b o.d.toNat (BitVec.ofInt 32 o.i.toInt))

/-- LaneIntegerArithmetic; LaneImmediates: all of these hold. -/
def Obligations.LaneIntegersAndImmediates : Prop :=
  Sys2Proof.Claims.LaneIntegerArithmetic ∧ Sys2Proof.Claims.LaneImmediates

/-! ### Lane floating point -/

/-- R153: FADD, FSUB, FMUL, FMIN, FMAX, FFRAC and FRINT write the result of the operation and raise its flags; FABS, FNEG,
FCOPYSIGN and FCLASS work on the bits and raise none. The operations on values (`fAdd` and the others) are the model's;
`FloatsRoundOnce` and `InfiniteOperands` say what they give. -/
def Sys2Proof.Claims.LaneFloatArithmetic : Prop :=
  (∀ o, SetsF3 (.fadd o) o (fAdd fF32 .rn)) ∧ (∀ o, SetsF3 (.faddRz o) o (fAdd fF32 .rz)) ∧
  (∀ o, SetsF3 (.faddRm o) o (fAdd fF32 .rm)) ∧ (∀ o, SetsF3 (.faddRp o) o (fAdd fF32 .rp)) ∧
  (∀ o, SetsF3 (.fsub o) o (fSub fF32 .rn)) ∧
  (∀ o, SetsF3 (.fmul o) o (fMul fF32 .rn)) ∧ (∀ o, SetsF3 (.fmulRz o) o (fMul fF32 .rz)) ∧
  (∀ o, SetsF3 (.fmulRm o) o (fMul fF32 .rm)) ∧ (∀ o, SetsF3 (.fmulRp o) o (fMul fF32 .rp)) ∧
  (∀ o, SetsF3 (.fmin o) o (fMinMax false)) ∧ (∀ o, SetsF3 (.fmax o) o (fMinMax true)) ∧
  (∀ o, SetsF2 (.ffrac o) o fFrac) ∧
  (∀ o, SetsF2 (.frintRn o) o (fRint .rn)) ∧ (∀ o, SetsF2 (.frintRz o) o (fRint .rz)) ∧
  (∀ o, SetsF2 (.frintRm o) o (fRint .rm)) ∧ (∀ o, SetsF2 (.frintRp o) o (fRint .rp)) ∧
  (∀ o : R2, LaneDoes (.fabs o) 4 o.g fun _ _ a b => ∃ w : Word, SetsReg a b o.d.toNat w ∧
    w.msb = false ∧ ∀ i, i < 31 → w.getLsbD i = (a.v o.a.toNat).getLsbD i) ∧
  (∀ o : R2, LaneDoes (.fneg o) 4 o.g fun _ _ a b => ∃ w : Word, SetsReg a b o.d.toNat w ∧
    w.msb = !(a.v o.a.toNat).msb ∧ ∀ i, i < 31 → w.getLsbD i = (a.v o.a.toNat).getLsbD i) ∧
  (∀ o : R3, LaneDoes (.fcopysign o) (VSrc.len o.b) o.g fun _ _ a b => ∃ w : Word, SetsReg a b o.d.toNat w ∧
    w.msb = (VSrc.val o.b a).msb ∧ ∀ i, i < 31 → w.getLsbD i = (a.v o.a.toNat).getLsbD i) ∧
  (∀ o, Sets2 (.fclass o) o fun a =>
    let e := a.toNat / 2 ^ 23 % 256
    let f := a.toNat % 2 ^ 23
    if e = 255 ∧ f ≠ 0 then (if f < 2 ^ 22 then 1#32 <<< 8 else 1#32 <<< 9)
    else if e = 255 then (if a.msb then 1#32 <<< 0 else 1#32 <<< 7)
    else if e = 0 ∧ f = 0 then (if a.msb then 1#32 <<< 3 else 1#32 <<< 4)
    else if e = 0 then (if a.msb then 1#32 <<< 2 else 1#32 <<< 5)
    else (if a.msb then 1#32 <<< 1 else 1#32 <<< 6))

/-- R155 to R157 and R163: fused and packed multiply-add, the special functions and DP4 write the result of the model's
operation and raise its flags. -/
def Sys2Proof.Claims.LaneFusedAndSpecialFloat : Prop :=
  (∀ o, SetsF4 (.ffma o) o fun u => fFma fF32 (u.mode.getLsbD 0) false) ∧
  (∀ o, SetsF4 (.ffms o) o fun u => fFma fF32 (u.mode.getLsbD 0) true) ∧
  (∀ o, SetsF4 (.hfma2F16 o) o fun u => hfma2 fF16 (u.mode.getLsbD 1)) ∧
  (∀ o, SetsF4 (.hfma2Bf16 o) o fun u => hfma2 fBf16 (u.mode.getLsbD 1)) ∧
  (∀ o, SetsF4 (.dp4E4m3 o) o fun u => dp4 fE4m3 (u.mode.getLsbD 0)) ∧
  (∀ o, SetsF4 (.dp4E5m2 o) o fun u => dp4 fE5m2 (u.mode.getLsbD 0)) ∧
  (∀ o, SetsF2 (.frcp o) o (special fRcp)) ∧ (∀ o, SetsF2 (.frsq o) o (special fRsq)) ∧
  (∀ o, SetsF2 (.fsqrt o) o (special fSqrt)) ∧ (∀ o, SetsF2 (.fex2 o) o (special fEx2)) ∧
  (∀ o, SetsF2 (.flg2 o) o (special fLg2)) ∧ (∀ o, SetsF2 (.fsint o) o (special fSint)) ∧
  (∀ o, SetsF2 (.fcost o) o (special fCost)) ∧ (∀ o, SetsF2 (.ftanh o) o (special fTanh)) ∧
  (∀ o, SetsF2 (.flogi o) o (special fLogi))

/-- R28, R29, R153 and R155: for finite operands FADD, FSUB, FMUL, FFMA and FFMS round the exact sum, difference, product or
sum with the exact product once; a result of exactly 0 has the sign of R29. FRINT rounds to an integer and FFRAC leaves the
fraction, both exact and with the sign of the operand, and neither raises a flag; HFMA2 is FFMA on the halves. -/
def Sys2Proof.Claims.FloatsRoundOnce : Prop :=
  ∀ (f : Fmt) (r : Rnd) (ftz : Bool) (a b c : Nat), f ∈ [fF32, fF16, fBf16] → FiniteCode f a → FiniteCode f b → FiniteCode f c →
    let ng := fun (c : Nat) => decide (2 ^ (f.w + f.m) ≤ c)
    let zero := fun (n : Bool) => ((if n then 2 ^ (f.w + f.m) else 0, 0) : Nat × Flags)
    let x := valOf f (readAs f ftz a)
    let y := valOf f (readAs f ftz b)
    let z := valOf f (readAs f ftz c)
    (x + y ≠ 0 → RoundsTo f r ftz (x + y) (fAdd f r ftz a b)) ∧
    (x + y = 0 → fAdd f r ftz a b = zero (if x = 0 ∧ ng a = ng b then ng a else decide (r = .rm))) ∧
    (x - y ≠ 0 → RoundsTo f r ftz (x - y) (fSub f r ftz a b)) ∧
    (x - y = 0 → fSub f r ftz a b = zero (if x = 0 ∧ ng a ≠ ng b then ng a else decide (r = .rm))) ∧
    (x * y ≠ 0 → RoundsTo f r ftz (x * y) (fMul f r ftz a b)) ∧
    (x * y = 0 → fMul f r ftz a b = zero (ng a != ng b)) ∧
    (∀ sub : Bool,
      let t := if sub then x * y - z else x * y + z
      (t ≠ 0 → RoundsTo f .rn ftz t (fFma f ftz sub a b c)) ∧
      (t = 0 → fFma f ftz sub a b c = zero (x * y = 0 ∧ (ng a != ng b) = true ∧ (ng c != sub) = true))) ∧
    (f = fF32 → (∀ k, IntRounds r x k → FiniteCode f (fRint r ftz a).1 ∧ valOf f (fRint r ftz a).1 = k ∧
      ng (fRint r ftz a).1 = ng a ∧ (fRint r ftz a).2 = 0) ∧
      (∀ k, IntRounds .rz x k → FiniteCode f (fFrac ftz a).1 ∧ valOf f (fFrac ftz a).1 = x - k ∧
        ng (fFrac ftz a).1 = ng a ∧ (fFrac ftz a).2 = 0)) ∧
    ∀ a b c : Word, f ≠ fF32 → ∀ i, i < 2 → bits (hfma2 f ftz a.toNat b.toNat c.toNat).1 (16 * i) 16 =
      (fFma f ftz false (bits a.toNat (16 * i) 16) (bits b.toNat (16 * i) 16) (bits c.toNat (16 * i) 16)).1

/-- R153 and R155: an infinity stands against every finite operand; infinities of opposite sign in a sum and 0 × ∞ give the
canonical NaN and raise IV, in FFMA and FFMS whatever the third operand holds. -/
def Sys2Proof.Claims.InfiniteOperands : Prop :=
  ∀ (r : Rnd) (ftz s t : Bool) (b : Nat), FiniteCode fF32 b →
    let inf := fun (n : Bool) => 0x7F800000 + if n then 2 ^ 31 else 0
    let is := fun (n : Bool) => ((inf n, 0) : Nat × Flags)
    let none := ((0x7FC00000, flIV) : Nat × Flags)
    let zero := valOf fF32 (readAs fF32 ftz b) = 0
    fAdd fF32 r ftz (inf s) b = is s ∧ fAdd fF32 r ftz b (inf s) = is s ∧
    fAdd fF32 r ftz (inf s) (inf t) = (if s = t then is s else none) ∧
    fSub fF32 r ftz (inf s) b = is s ∧ fSub fF32 r ftz b (inf s) = is (!s) ∧
    fSub fF32 r ftz (inf s) (inf t) = (if s = t then none else is s) ∧
    fMul fF32 r ftz (inf s) (inf t) = is (s != t) ∧
    (zero → fMul fF32 r ftz (inf s) b = none ∧ fMul fF32 r ftz b (inf s) = none ∧
      ∀ (sub : Bool) (c : Word), fFma fF32 ftz sub (inf s) b c.toNat = none ∧ fFma fF32 ftz sub b (inf s) c.toNat = none) ∧
    (¬zero → fMul fF32 r ftz (inf s) b = is (s != decide (2 ^ 31 ≤ b)) ∧ fMul fF32 r ftz b (inf s) = is (s != decide (2 ^ 31 ≤ b)) ∧
      ∀ (sub : Bool) (c : Nat), FiniteCode fF32 c → fFma fF32 ftz sub (inf s) b c = is (s != decide (2 ^ 31 ≤ b)) ∧
        fFma fF32 ftz sub (inf s) b (inf t) =
          if (s != decide (2 ^ 31 ≤ b)) = (t != sub) then is (t != sub) else none)

/-- LaneFloatArithmetic; LaneFusedAndSpecialFloat; FloatsRoundOnce; InfiniteOperands: all of these hold. -/
def Obligations.LaneFloatOperations : Prop :=
  Sys2Proof.Claims.LaneFloatArithmetic ∧ Sys2Proof.Claims.LaneFusedAndSpecialFloat ∧
  Sys2Proof.Claims.FloatsRoundOnce ∧ Sys2Proof.Claims.InfiniteOperands

/-- R32 for FADD, FSUB, FMUL, FFMA, FFMS, FRINT and FFRAC: the canonical NaN for a NaN operand, with IV, alone, when an operand
signals; a quiet NaN raises nothing. A NaN that FFMA adds gives the NaN where the product is valid (R155). -/
def Sys2Proof.Claims.NanOperandsGiveTheCanonicalNan : Prop :=
  let nan := fun (c : Nat) => c % 2 ^ 31 > 0x7F800000
  let sig := fun (c : Nat) => c % 2 ^ 31 > 0x7F800000 ∧ c % 2 ^ 23 < 2 ^ 22
  ∀ (a b : Word) (ftz : Bool), (nan a.toNat ∨ nan b.toNat) →
    (∀ r, (fAdd fF32 r ftz a.toNat b.toNat).1 = 0x7FC00000 ∧ (fMul fF32 r ftz a.toNat b.toNat).1 = 0x7FC00000 ∧
      (fSub fF32 r ftz a.toNat b.toNat).1 = 0x7FC00000 ∧
      ((fAdd fF32 r ftz a.toNat b.toNat).2 = flIV ↔ sig a.toNat ∨ sig b.toNat) ∧
      ((fMul fF32 r ftz a.toNat b.toNat).2 = flIV ↔ sig a.toNat ∨ sig b.toNat) ∧
      ((fSub fF32 r ftz a.toNat b.toNat).2 = flIV ↔ sig a.toNat ∨ sig b.toNat) ∧
      (¬(sig a.toNat ∨ sig b.toNat) → (fAdd fF32 r ftz a.toNat b.toNat).2 = 0 ∧
        (fMul fF32 r ftz a.toNat b.toNat).2 = 0 ∧ (fSub fF32 r ftz a.toNat b.toNat).2 = 0)) ∧
    (∀ (sub : Bool) (c : Word), let iv := sig a.toNat ∨ sig b.toNat ∨ sig c.toNat
      (fFma fF32 ftz sub a.toNat b.toNat c.toNat).1 = 0x7FC00000 ∧
      (iv → (fFma fF32 ftz sub a.toNat b.toNat c.toNat).2 = flIV) ∧
      (¬iv → (fFma fF32 ftz sub a.toNat b.toNat c.toNat).2 = 0)) ∧
    (∀ (sub : Bool) (c : Word), FiniteCode fF32 c.toNat → nan a.toNat →
      (fFma fF32 ftz sub c.toNat c.toNat a.toNat).1 = 0x7FC00000 ∧
      (sig a.toNat → (fFma fF32 ftz sub c.toNat c.toNat a.toNat).2 = flIV) ∧
      (¬sig a.toNat → (fFma fF32 ftz sub c.toNat c.toNat a.toNat).2 = 0)) ∧
    (nan a.toNat → ∀ r, (fRint r ftz a.toNat).1 = 0x7FC00000 ∧ (fFrac ftz a.toNat).1 = 0x7FC00000 ∧
      (sig a.toNat → (fRint r ftz a.toNat).2 = flIV ∧ (fFrac ftz a.toNat).2 = flIV) ∧
      (¬sig a.toNat → (fRint r ftz a.toNat).2 = 0 ∧ (fFrac ftz a.toNat).2 = 0))

/-- R33: FMIN and FMAX return the lesser and the greater of two numbers, −0 below +0; the operand that is a number when the other
is a NaN, and the canonical NaN for two NaNs. They raise IV, alone, when an operand is a signalling NaN, and else nothing. A
subnormal operand is read as a zero, and returned as one, while FTZ32 is 1 (R31). -/
def Sys2Proof.Claims.FminAndFmaxChoose : Prop :=
  ∀ (a b : Word) (mx ftz : Bool),
    let x := readAs fF32 ftz a.toNat
    let y := readAs fF32 ftz b.toNat
    let m := fMinMax mx ftz a.toNat b.toNat
    (IsNan x ∧ IsNan y → m.1 = 0x7FC00000) ∧
    (IsNan x ∧ ¬IsNan y → m.1 = y) ∧
    (¬IsNan x ∧ IsNan y → m.1 = x) ∧
    (¬IsNan x ∧ ¬IsNan y → keyOf x < keyOf y → m.1 = if mx then y else x) ∧
    (¬IsNan x ∧ ¬IsNan y → keyOf y < keyOf x → m.1 = if mx then x else y) ∧
    (¬IsNan x ∧ x = y → m.1 = x) ∧
    (keyOf x = 0 ∧ keyOf y = 0 ∧ x ≠ y → m.1 = if mx then 0 else 2 ^ 31) ∧
    (Signals x ∨ Signals y → m.2 = flIV) ∧ (¬(Signals x ∨ Signals y) → m.2 = 0)

/-- NanOperandsGiveTheCanonicalNan; FminAndFmaxChoose: all of these hold. -/
def Obligations.NansMinimaAndMaxima : Prop :=
  Sys2Proof.Claims.NanOperandsGiveTheCanonicalNan ∧ Sys2Proof.Claims.FminAndFmaxChoose

/-- R159: the truth of each condition of FSET, and when it raises IV: for a signalling NaN, and, for lt, le, gt and ge, for any
NaN. A subnormal operand is read as a zero while FTZ32 is 1. -/
def Sys2Proof.Claims.FsetTruthTable : Prop :=
  ∀ (a b : Word) (ftz : Bool) (fn : Nat), fn ≤ 13 →
    let x := readAs fF32 ftz a.toNat
    let y := readAs fF32 ftz b.toNat
    ((fcond fn ftz a.toNat b.toNat).1 = true ↔ fsetHolds fn x y) ∧
    ((Signals x ∨ Signals y ∨ (2 ≤ fn ∧ fn ≤ 5 ∧ (IsNan x ∨ IsNan y))) → (fcond fn ftz a.toNat b.toNat).2 = flIV) ∧
    (¬(Signals x ∨ Signals y ∨ (2 ≤ fn ∧ fn ≤ 5 ∧ (IsNan x ∨ IsNan y))) → (fcond fn ftz a.toNat b.toNat).2 = 0)

/-- R35 and R39: a conversion between floating formats, of CVT, PK and UPK alike, rounds a finite number once and keeps the sign
of a zero; a NaN becomes the canonical NaN, or 0 with PZ in .e2m1, with IV where it signals; an infinity stays one, or becomes
the largest value where the conversion saturates. -/
def Sys2Proof.Claims.FormatsConvert : Prop :=
  ∀ (u : Uniform) (dst src : Fmt) (r : Rnd) (sat : Bool) (c : Nat),
    dst ∈ [fF32, fF16, fBf16, fE4m3, fE5m2, fE2m1] → src ∈ [fF32, fF16, fBf16, fE4m3, fE5m2, fE2m1] →
    c < 2 ^ (src.w + src.m + 1) →
    let s := c / 2 ^ (src.w + src.m) * 2 ^ (dst.w + dst.m)
    let k := c % 2 ^ (src.w + src.m)
    let x := valOf src (readAs src (flushBit u src) c)
    let y := cvtFloat u dst src r sat c
    (k ≤ src.maxFin → x = 0 → y = (s, 0)) ∧
    (k ≤ src.maxFin → x ≠ 0 → sat = false → RoundsTo dst r (flushBit u dst) x y) ∧
    (k ≤ src.maxFin → x ≠ 0 → sat = true ∨ dst = fE2m1 → (|x| < magOf dst dst.maxFin → RoundsTo dst r (flushBit u dst) x y) ∧
      (magOf dst (dst.maxFin + 1) ≤ |x| → y = (s + dst.maxFin, flOF ||| flIX))) ∧
    (src.inf = some k → y = if sat = true ∨ dst = fE2m1 then (s + dst.maxFin, 0)
      else match dst.inf with | some i => (s + i, 0) | none => (0x7F, flIV)) ∧
    (src.maxFin < k → src.inf ≠ some k →
      let iv := if src.signals = true ∧ k % 2 ^ src.m < 2 ^ (src.m - 1) then flIV else 0
      y = match dst.nan with | some q => (q, iv) | none => (0, flPZ ||| iv))
/-- R39: CVT to an integer type rounds by its mode and clamps: IX for a result in range that differs, IV alone at a bound and
for a NaN, which gives 0; CVT from an integer type rounds the integer once. Fn 22 gives the exponent of the magnitude. -/
def Sys2Proof.Claims.IntegersConvert : Prop :=
  ∀ (u : Uniform) (r : Rnd) (sat : Bool) (w : DWord),
    let c := w.toNat % 2 ^ 32
    let x := valOf fF32 (readAs fF32 (u.mode.getLsbD 0) c)
    (∀ q ∈ [(4, 32, -(2 ^ 31 : Int), (2 ^ 31 - 1 : Int)), (5, 32, 0, 2 ^ 32 - 1), (8, 64, -(2 ^ 63), 2 ^ 63 - 1),
        (9, 64, 0, 2 ^ 64 - 1)],
      let is := fun (v : Int) (fl : Flags) => (cvt u q.1 r sat w).1.toNat % 2 ^ q.2.1 = (v % 2 ^ q.2.1).toNat ∧ (cvt u q.1 r sat w).2 = fl
      (IsNan c → is 0 flIV) ∧
      (c = 0x7F800000 → is q.2.2.2 flIV) ∧ (c = 0xFF800000 → is q.2.2.1 flIV) ∧
      (FiniteCode fF32 c → ∀ k, IntRounds r x k →
        if k < q.2.2.1 then is q.2.2.1 flIV else if q.2.2.2 < k then is q.2.2.2 flIV
        else is k (if (k : ℚ) = x then 0 else flIX))) ∧
    (∀ q ∈ [(6, (w.extractLsb' 0 32).toInt), (7, (c : Int)), (10, w.toInt), (11, (w.toNat : Int))],
      let y := cvt u q.1 r sat w
      (q.2 = 0 → y = (0, 0)) ∧ (q.2 ≠ 0 → RoundsTo fF32 r false q.2 (y.1.toNat, y.2))) ∧
    (∀ k : Int, FiniteCode fF32 c → x ≠ 0 → (2 : ℚ) ^ k ≤ |x| → |x| < (2 : ℚ) ^ (k + 1) →
      cvt u 22 r sat w = (BitVec.ofInt 64 (min (max (k + 127) 0) 254), 0)) ∧
    (∀ k, w.toNat % 2 ^ 8 = k → 0 < k → k < 255 → cvt u 23 r sat w = (BitVec.ofNat 64 (k * 2 ^ 23), 0))

/-- R158, R159, R37 to R39, R160 and R161: FSET combines its condition into a predicate; CVT, PK and UPK write the converted
value or the packed or unpacked elements; all raise the flags of the model's operation. The condition, the values and the flags are those of `FsetTruthTable`,
`FormatsConvert` and `IntegersConvert`. -/
def Obligations.LaneComparesAndConversions : Prop :=
  Sys2Proof.Claims.FsetTruthTable ∧ Sys2Proof.Claims.FormatsConvert ∧ Sys2Proof.Claims.IntegersConvert ∧
  (∀ o : Cmp, LaneDoes (.iset o) (VSrc.len o.b) o.g fun _ _ a b =>
    ∀ t : Bool, (t = true ↔ condOf o.f (a.v o.a.toNat) (VSrc.val o.b a)) → SetsPred a b o.p (combined o.m (a.p o.p) t)) ∧
  (∀ o : Cmp, LaneDoes (.fset o) (VSrc.len o.b) o.g fun x _ a b =>
    let t := fcond o.f.toNat (x.gr.uni.mode.getLsbD 0) (a.v o.a.toNat).toNat (VSrc.val o.b a).toNat
    (o.p ≠ 7 → b.p o.p = combined o.m (a.p o.p) t.1) ∧ (∀ q, q ≠ o.p → b.p q = a.p q) ∧
      b.flags = a.flags ||| t.2 ∧ { b with preds := 0, flags := 0 } = { a with preds := 0, flags := 0 }) ∧
  (∀ o : CvtO, LaneDoes (.cvt o) (VSrc.len o.a) o.g fun x _ a b =>
    let fn := o.f.toNat
    let w : DWord := match o.a with
      | .lit w => w.zeroExtend 64
      | .reg r => if fn = 10 ∨ fn = 11 then a.vPair r.toNat else (a.v r.toNat).zeroExtend 64
    let y := cvt x.gr.uni fn (Rnd.of o.r.toNat) o.s w
    b.flags = a.flags ||| y.2 ∧
    SetsPair a { b with flags := a.flags } o.d.toNat (pairOf (loOf y.1)
      (if fn = 8 ∨ fn = 9 then hiOf y.1 else a.v (o.d.toNat + 1)))) ∧
  (∀ o : R3n, (LaneDoes (.pk2F16 o) 4 o.g fun x _ a b => Packs x.gr.uni fF16 false 1 o a b) ∧
    (LaneDoes (.pk2Bf16 o) 4 o.g fun x _ a b => Packs x.gr.uni fBf16 false 1 o a b) ∧
    (LaneDoes (.pk4E4m3 o) 4 o.g fun x _ a b => Packs x.gr.uni fE4m3 false 2 o a b) ∧
    (LaneDoes (.pk4E5m2 o) 4 o.g fun x _ a b => Packs x.gr.uni fE5m2 false 2 o a b) ∧
    (LaneDoes (.pk4E4m3Sat o) 4 o.g fun x _ a b => Packs x.gr.uni fE4m3 true 2 o a b) ∧
    (LaneDoes (.pk4E5m2Sat o) 4 o.g fun x _ a b => Packs x.gr.uni fE5m2 true 2 o a b) ∧
    (LaneDoes (.pk8E2m1 o) 4 o.g fun x _ a b => Packs x.gr.uni fE2m1 false 4 o a b)) ∧
  (∀ o : R2, (LaneDoes (.upk2F16 o) 4 o.g fun x _ a b => Unpacks x.gr.uni fF16 2 o a b) ∧
    (LaneDoes (.upk2Bf16 o) 4 o.g fun x _ a b => Unpacks x.gr.uni fBf16 2 o a b) ∧
    (LaneDoes (.upk4E4m3 o) 4 o.g fun x _ a b => Unpacks x.gr.uni fE4m3 4 o a b) ∧
    (LaneDoes (.upk4E5m2 o) 4 o.g fun x _ a b => Unpacks x.gr.uni fE5m2 4 o a b) ∧
    (LaneDoes (.upk8E2m1 o) 4 o.g fun x _ a b => Unpacks x.gr.uni fE2m1 8 o a b))

/-! ### Guards, moves, predicates, lane exchange -/

/-- R5 and R56: a lane is active when it belongs to the split and its guard predicate, negated on request, is 1; p7 is 1. -/
def Sys2Proof.Claims.GuardSelectsActiveLanes : Prop :=
  ∀ (x : Ex) (g : Guard) (l : Nat),
    Mask.has (x.active g) l = true ↔
      Mask.has x.sp.mask l = true ∧ ((g.p = 7 ∨ (x.gr.lane l).preds.getLsbD g.p.toNat = true) ↔ g.n = false)

/-- R125, R126, R132 and R133: moves, SEL and the predicate instructions. SEL writes every lane of the split and reads its
guard field as its selector. -/
def Sys2Proof.Claims.LaneMovesAndPredicates : Prop :=
  (∀ o : MovO, LaneDoes (.mov o) (VSrc.len o.b) o.g fun _ _ a b => SetsReg a b o.d.toNat (VSrc.val o.b a)) ∧
  (∀ o : R3, LaneDoes (.sel o) (VSrc.len o.b) ⟨7, false⟩ fun _ _ a b =>
    SetsReg a b o.d.toNat (if (a.p o.g.p != o.g.n) = true then a.v o.a.toNat else VSrc.val o.b a)) ∧
  (∀ o : MovuO, LaneDoes (.movu o) 4 o.g fun x _ a b => SetsReg a b o.d.toNat (x.gr.uni.sr o.s.toNat)) ∧
  (∀ o : P3, LaneDoes (.pand o) 4 o.g fun _ _ a b => SetsPred a b o.p ((a.p o.a != o.m) && (a.p o.b != o.k))) ∧
  (∀ o : P3, LaneDoes (.por o) 4 o.g fun _ _ a b => SetsPred a b o.p ((a.p o.a != o.m) || (a.p o.b != o.k))) ∧
  (∀ o : P3, LaneDoes (.pxor o) 4 o.g fun _ _ a b => SetsPred a b o.p ((a.p o.a != o.m) != (a.p o.b != o.k))) ∧
  (∀ o : P2, LaneDoes (.pnot o) 4 o.g fun _ _ a b => SetsPred a b o.p (!(a.p o.a != o.m))) ∧
  (∀ o : P2, LaneDoes (.pmov o) 4 o.g fun _ _ a b => SetsPred a b o.p (a.p o.a != o.m)) ∧
  (∀ o : PkO, LaneDoes (.ppack o) 4 o.g fun _ _ a b => ∃ w : Word, SetsReg a b o.d.toNat w ∧
    ∀ i, i < 32 → w.getLsbD i =
      if i / 8 = o.k.toNat then (i % 8 == 7 || a.preds.getLsbD (i % 8)) else (a.v o.a.toNat).getLsbD i) ∧
  (∀ o : UpkO, LaneDoes (.punpk o) 4 o.g fun _ _ a b =>
    (∀ i, i < 7 → b.preds.getLsbD i = (a.v o.a.toNat).getLsbD (8 * o.k.toNat + i)) ∧
    { b with preds := 0 } = { a with preds := 0 })

/-- GuardSelectsActiveLanes; LaneMovesAndPredicates: all of these hold. -/
def Obligations.ActiveLanesAndMoves : Prop :=
  Sys2Proof.Claims.GuardSelectsActiveLanes ∧ Sys2Proof.Claims.LaneMovesAndPredicates

/-- R106 and R107: the active lanes exchange values: each reads the group as it stood before the instruction, from active
lanes only. -/
def Obligations.LaneExchange : Prop :=
  let lxc := fun (x : Ex) (gd : Guard) (r l : Nat) (src : Int) =>
    if 0 ≤ src ∧ src ≤ 7 ∧ Mask.has (x.active gd) src.toNat = true then (x.gr.lane src.toNat).v r else (x.gr.lane l).v r
  let val := fun (x : Ex) (o : R3) (l : Nat) => (VSrc.val o.b (x.gr.lane l)).toNat
  (∀ o : R3, LaneDoes (.lxcAt o) (VSrc.len o.b) o.g fun x l a b =>
    SetsReg a b o.d.toNat (lxc x o.g o.a.toNat l (val x o l))) ∧
  (∀ o : R3, LaneDoes (.lxcFlip o) (VSrc.len o.b) o.g fun x l a b =>
    SetsReg a b o.d.toNat (lxc x o.g o.a.toNat l ((l ^^^ val x o l % 8 : Nat) : Int))) ∧
  (∀ o : R3, LaneDoes (.lxcBelow o) (VSrc.len o.b) o.g fun x l a b =>
    SetsReg a b o.d.toNat (lxc x o.g o.a.toNat l ((l : Int) - val x o l))) ∧
  (∀ o : R3, LaneDoes (.lxcAbove o) (VSrc.len o.b) o.g fun x l a b =>
    SetsReg a b o.d.toNat (lxc x o.g o.a.toNat l ((l : Int) + val x o l))) ∧
  (∀ o : P2, LaneDoes (.lany o) 4 o.g fun x _ a b => ∀ v : Bool,
    (v = true ↔ ∃ m, Mask.has (x.active o.g) m = true ∧ ((x.gr.lane m).p o.a != o.m) = true) → SetsPred a b o.p v) ∧
  (∀ o : P2, LaneDoes (.lall o) 4 o.g fun x _ a b => ∀ v : Bool,
    (v = true ↔ ∀ m, Mask.has (x.active o.g) m = true → ((x.gr.lane m).p o.a != o.m) = true) → SetsPred a b o.p v) ∧
  (∀ o : LmaskO, LaneDoes (.lmask o) 4 o.g fun x _ a b => ∃ w : Word, SetsReg a b o.d.toNat w ∧
    ∀ m, m < 32 → w.getLsbD m = (Mask.has (x.active o.g) m && ((x.gr.lane m).p o.a != o.m))) ∧
  (∀ o : LfirstO, LaneDoes (.lfirst o) 4 o.g fun x l a b => ∀ v : Bool,
    (v = true ↔ ∀ m, m < l → Mask.has (x.active o.g) m = false) → SetsPred a b o.p v) ∧
  (∀ o : R2, LaneDoes (.lsum o) 4 o.g fun x _ a b => SetsReg a b o.d.toNat
    (BitVec.ofNat 32 ((List.range 8).map fun m => if Mask.has (x.active o.g) m = true then ((x.gr.lane m).v o.a.toNat).toNat else 0).sum)) ∧
  (∀ o : R2, LaneDoes (.lminI o) 4 o.g fun x _ a b => ∃ w : Word, SetsReg a b o.d.toNat w ∧
    (∀ m, Mask.has (x.active o.g) m = true → w.toInt ≤ ((x.gr.lane m).v o.a.toNat).toInt) ∧
    ∃ m, Mask.has (x.active o.g) m = true ∧ w = (x.gr.lane m).v o.a.toNat) ∧
  (∀ o : R2, LaneDoes (.lmaxI o) 4 o.g fun x _ a b => ∃ w : Word, SetsReg a b o.d.toNat w ∧
    (∀ m, Mask.has (x.active o.g) m = true → ((x.gr.lane m).v o.a.toNat).toInt ≤ w.toInt) ∧
    ∃ m, Mask.has (x.active o.g) m = true ∧ w = (x.gr.lane m).v o.a.toNat) ∧
  (∀ o : R2, LaneDoes (.lsame o) 4 o.g fun x l a b => ∃ w : Word, SetsReg a b o.d.toNat w ∧
    ∀ m, m < 32 → w.getLsbD m =
      (Mask.has (x.active o.g) m && ((x.gr.lane m).v o.a.toNat == (x.gr.lane l).v o.a.toNat)))

/-! ### Uniform instructions -/

/-- R165 and R166: each uniform member computes as the lane member named beside it, on s registers. -/
def Sys2Proof.Claims.UniformArithmetic : Prop :=
  (∀ o, SetsU3 (.uadd o) o fun a b => BitVec.ofNat 32 (a.toNat + b.toNat)) ∧
  (∀ o, SetsU3 (.usub o) o fun a b => BitVec.ofInt 32 ((a.toNat : Int) - b.toNat)) ∧
  (∀ o, SetsU3 (.umul o) o fun a b => BitVec.ofNat 32 (a.toNat * b.toNat)) ∧
  (∀ o, SetsU3 (.umulhN o) o fun a b => BitVec.ofNat 32 (a.toNat * b.toNat / 2 ^ 32)) ∧
  (∀ o, SetsU3 (.uminI o) o fun a b => BitVec.ofInt 32 (min a.toInt b.toInt)) ∧
  (∀ o, SetsU3 (.umaxI o) o fun a b => BitVec.ofInt 32 (max a.toInt b.toInt)) ∧
  (∀ o, SetsU3 (.uminN o) o fun a b => BitVec.ofNat 32 (min a.toNat b.toNat)) ∧
  (∀ o, SetsU3 (.umaxN o) o fun a b => BitVec.ofNat 32 (max a.toNat b.toNat)) ∧
  (∀ o, SetsU3 (.uand o) o fun a b => a &&& b) ∧
  (∀ o, SetsU3 (.uor o) o fun a b => a ||| b) ∧
  (∀ o, SetsU3 (.uxor o) o fun a b => a ^^^ b) ∧
  (∀ o, SetsU3 (.ushl o) o fun a b => shlN a.toNat b.toNat) ∧
  (∀ o, SetsU3 (.ushrN o) o fun a b => shrNat a.toNat b.toNat) ∧
  (∀ o, SetsU3 (.ushrI o) o fun a b => shrInt a.toInt b.toNat) ∧
  (∀ o, SetsU2 (.upopc o) o fun a => BitVec.ofNat 32 ((List.range 32).countP fun i => a.getLsbD i)) ∧
  (∀ o, SetsU2 (.uclz o) o fun a => BitVec.ofNat 32 (if a = 0 then 32 else 31 - a.toNat.log2)) ∧
  (∀ o : U3, UniDoes (.uaddw o) (SSrc.len o.b) fun _ a b => SetsSPair a b o.d.toNat (BitVec.ofNat 64
    ((a.pair o.a.toNat).toNat + (match o.b with | .reg r => a.pair r.toNat | .lit w => BitVec.ofInt 64 w.toInt).toNat))) ∧
  (∀ o, SetsUi (.uaddi o) o fun a i => a + i) ∧
  (∀ o, SetsUi (.uandi o) o fun a i => a &&& i) ∧
  (∀ o, SetsUi (.uori o) o fun a i => a ||| i) ∧
  (∀ o : UshO, UniDoes (.ushi o) 4 fun _ a b =>
    SetsS a b o.d.toNat (shiftOf o.k (a.sr o.a.toNat) o.c.toNat))

/-- R134, R135, R125, R130, R131, R166 and R167: uniform moves, compares, conditions and reads of one lane. -/
def Sys2Proof.Claims.UniformMovesAndConditions : Prop :=
  (∀ o : Udb, UniDoes (.umov o) (SSrc.len o.b) fun _ a b => SetsS a b o.d.toNat (SSrc.val o.b a)) ∧
  (∀ o : UmviO, UniDoes (.umovi o) 4 fun _ a b => SetsS a b o.d.toNat (BitVec.ofInt 32 o.i.toInt)) ∧
  (∀ o : UsetO, UniDoes (.uset o) (SSrc.len o.b) fun _ a b =>
    ∀ t : Bool, (t = true ↔ condOf o.f (a.sr o.a.toNat) (SSrc.val o.b a)) → SetsCond a b o.c (combined o.m (a.c o.c) t)) ∧
  (∀ o : C3, UniDoes (.cand o) 4 fun _ a b => SetsCond a b o.c ((a.c o.a != o.m) && (a.c o.b != o.k))) ∧
  (∀ o : C3, UniDoes (.cor o) 4 fun _ a b => SetsCond a b o.c ((a.c o.a != o.m) || (a.c o.b != o.k))) ∧
  (∀ o : C3, UniDoes (.cxor o) 4 fun _ a b => SetsCond a b o.c ((a.c o.a != o.m) != (a.c o.b != o.k))) ∧
  (∀ o : C2, UniDoes (.cnot o) 4 fun _ a b => SetsCond a b o.c (!(a.c o.a != o.m))) ∧
  (∀ o : UlfO, UniDoes (.ulaneFirst o) 4 fun x a b =>
    ∀ l, Mask.has x.sp.mask l = true → (∀ m, m < l → Mask.has x.sp.mask m = false) →
      SetsS a b o.d.toNat ((x.gr.lane l).v o.a.toNat)) ∧
  (∀ o : UliO, UniDoes (.ulaneIdx o) (SSrc.len o.b) fun x a b =>
    let n := (SSrc.val o.b a).toNat
    SetsS a b o.d.toNat (if n ≤ 7 ∧ Mask.has x.sp.mask n = true then (x.gr.lane n).v o.a.toNat else 0))

/-- UniformArithmetic; UniformMovesAndConditions: all of these hold. -/
def Obligations.UniformInstructions : Prop :=
  Sys2Proof.Claims.UniformArithmetic ∧ Sys2Proof.Claims.UniformMovesAndConditions

/-- R127 to R129: MOVS and UMOVS read special values; a read of %clk or %pts latches the high half for the group. The values
that R128 names: lane, slot, identifier, core, cluster, package, masks, context, partition code, window, flags, mode and the
ray registers. -/
def Obligations.SpecialValueReads : Prop :=
  ∀ s x, s.running = some x →
    (∀ o : MovsO, ∃ t g, exec (.movs o) s = .next t ∧ OnlyGroup s t x g ∧ Advances x.gr g x.entry 4 ∧
      (∀ l, Mask.has (x.active o.g) l = false → g.lane l = x.gr.lane l) ∧
      (∀ l, Mask.has (x.active o.g) l = true → ∃ w, SetsReg (x.gr.lane l) (g.lane l) o.d.toNat w ∧
        Reads s x (x.active o.g) (x.gr.lane l).flags l o.s.toNat w) ∧
      { g with lanes := [], splits := [], uni := { g.uni with clkHi := none, ptsHi := none } } =
        { x.gr with lanes := [], splits := [], uni := { x.gr.uni with clkHi := none, ptsHi := none } } ∧
      (o.s.toNat = 13 → x.active o.g ≠ 0 → g.uni.clkHi = some (hiOf (s.clk x.core))) ∧
      (o.s.toNat ≠ 13 → g.uni.clkHi = x.gr.uni.clkHi) ∧ (o.s.toNat ≠ 32 → g.uni.ptsHi = x.gr.uni.ptsHi)) ∧
    (∀ o : U2, ∃ t g, exec (.umovs o) s = .next t ∧ OnlyGroup s t x g ∧ Advances x.gr g x.entry 4 ∧
      (∃ w, SetsS { x.gr.uni with clkHi := none, ptsHi := none } { g.uni with clkHi := none, ptsHi := none } o.d.toNat w ∧
        ∀ l, Mask.has x.sp.mask l = true → (∀ m, m < l → Mask.has x.sp.mask m = false) →
          Reads s x x.sp.mask x.gr.uni.flags l o.a.toNat w) ∧
      { g with splits := [], uni := {} } = { x.gr with splits := [], uni := {} } ∧
      (o.a.toNat = 13 → g.uni.clkHi = some (hiOf (s.clk x.core))) ∧ (o.a.toNat ≠ 13 → g.uni.clkHi = x.gr.uni.clkHi) ∧
      (o.a.toNat ≠ 32 → g.uni.ptsHi = x.gr.uni.ptsHi) ∧
      (o.a.toNat = 32 → g.uni.ptsHi = some (BitVec.ofNat 32 (s.pts x.core x.gr.ctx / 2 ^ 32))))

/-! ### Branches and joins -/

/-- R83, R96, R97 and R90: BRA and BRX send each active lane to its target and the others on; UBRA and UJMP send the whole
split, UBRA when its condition holds. They complete in every state, BRX and UJMP where their targets pass the checks of R98. A
division takes free entries of the split table for the parts after the first, and touches no other split (R80, R81). -/
def Sys2Proof.Claims.BranchesDivideTheSplit : Prop :=
  ∀ s x, s.running = some x →
    (∀ o : BraO, ∃ t g, exec (.bra o) s = .next t ∧ GroupAndCounters s t x g ∧ SameButSplits x g ∧
      (Apart x → Divides x.gr g x.sp x.entry fun l =>
        (if Mask.has (x.active o.g) l then x.sp.pc + o.d.signExtend 47 else Pc.plus x.sp.pc 4, .ready))) ∧
    (∀ o : A1, (∀ l, Mask.has (x.active o.g) l = true →
        ((x.gr.lane l).vPair o.a.toNat).toNat % 4 = 0 ∧ canonical ((x.gr.lane l).vPair o.a.toNat) = true) →
      ∃ t g, exec (.brx o) s = .next t ∧ GroupAndCounters s t x g ∧ SameButSplits x g ∧
        (Apart x → Divides x.gr g x.sp x.entry fun l =>
          (if Mask.has (x.active o.g) l then Pc.of ((x.gr.lane l).vPair o.a.toNat) else Pc.plus x.sp.pc 4, .ready))) ∧
    (∀ o : UbraO, ∃ t g, exec (.ubra o) s = .next t ∧ GroupAndCounters s t x g ∧ SameButSplits x g ∧
      ((x.uni.c o.c.p != o.c.n) = true → Apart x →
        Divides x.gr g x.sp x.entry fun _ => (x.sp.pc + o.d.signExtend 47, .ready)) ∧
      ((x.uni.c o.c.p != o.c.n) = false → Advances x.gr g x.entry 4)) ∧
    (∀ o : Ua, (x.uni.pair o.a.toNat).toNat % 4 = 0 → canonical (x.uni.pair o.a.toNat) = true →
      ∃ t g, exec (.ujmp o) s = .next t ∧ GroupAndCounters s t x g ∧ SameButSplits x g ∧
        (Apart x → Divides x.gr g x.sp x.entry fun _ => (Pc.of (x.uni.pair o.a.toNat), .ready)))

/-- R98: a per-lane target that is not a multiple of 4 raises cause 0x07 with the active lanes whose targets are so, and
otherwise a target that is not canonical raises cause 0x05 with the target of the lowest such lane. -/
def Sys2Proof.Claims.BadBranchTargetsTrap : Prop :=
  ∀ s x (o : A1), s.running = some x →
    let a := x.active o.g
    let tgt := fun l => (x.gr.lane l).vPair o.a.toNat
    (∀ m : Mask, m ≠ 0 → (∀ l, Mask.has m l = true ↔ Mask.has a l = true ∧ (tgt l).toNat % 4 ≠ 0) →
      exec (.brx o) s = trapAt s x 7 m (firstWord (.brx o)) 0) ∧
    (∀ (m : Mask) (l : Nat), (∀ k, Mask.has a k = true → (tgt k).toNat % 4 = 0) → Mask.has m l = true →
      (∀ k, k < l → Mask.has m k = false) → (∀ k, Mask.has m k = true ↔ Mask.has a k = true ∧ canonical (tgt k) = false) →
      exec (.brx o) s = trapAt s x 5 m (loOf (tgt l)) (hiOf (tgt l)))

/-- BranchesDivideTheSplit; BadBranchTargetsTrap: all of these hold. -/
def Obligations.BranchesDivideSplits : Prop :=
  Sys2Proof.Claims.BranchesDivideTheSplit ∧ Sys2Proof.Claims.BadBranchTargetsTrap

/-- R99 to R105: JSET arms, JWAIT waits or completes its join, BRK and JDROP leave joins, JGET reads and JPUT writes one. All
complete in every state; where the lanes stand afterwards is said of a READY split in a table of disjoint splits (R80, R81). -/
def Obligations.JoinInstructions : Prop :=
  ∀ s x, s.running = some x →
    (∀ o : JsetO, ∃ t g, exec (.jset o) s = .next t ∧ OnlyGroup s t x g ∧ Advances x.gr g x.entry 4 ∧
      (let j := x.gr.joinAt o.j.toNat
       let tgt := x.sp.pc + o.d.signExtend 47
       g.joinAt o.j.toNat =
         if j.arm = 0 ∨ j.rpc ≠ tgt then ⟨x.sp.mask, 0, tgt⟩ else ⟨j.arm ||| x.sp.mask, j.arv, j.rpc⟩) ∧
      (∀ n, n ≠ o.j.toNat → g.joinAt n = x.gr.joinAt n) ∧
      { g with splits := [], joins := [] } = { x.gr with splits := [], joins := [] }) ∧
    (∀ o : JwaitO,
      let j := x.gr.joinAt o.j.toNat
      let w := x.active o.g &&& j.arm
      ∃ t g, exec (.jwait o) s = .next t ∧ GroupAndCounters s t x g ∧
        (w = 0 → Advances x.gr g x.entry 4 ∧ g.joins = x.gr.joins) ∧
        (w ≠ 0 → g.joinAt o.j.toNat = if j.arv ||| w = j.arm then ⟨0, 0, 0⟩ else ⟨j.arm, j.arv ||| w, j.rpc⟩) ∧
        (x.sp.st = .ready → Apart x → w ≠ 0 → j.arv ||| w ≠ j.arm →
          Divides x.gr { g with joins := x.gr.joins } x.sp x.entry fun l =>
            if Mask.has w l then (x.sp.pc, .join o.j.toNat) else (Pc.plus x.sp.pc 4, .ready)) ∧
        (x.sp.st = .ready → Apart x → w ≠ 0 → j.arv ||| w = j.arm →
          ∀ l, Mask.has w l = true → ∃ k q, mget g.splits k = some q ∧ Mask.has q.mask l = true ∧ q.pc = j.rpc ∧
            q.st = .ready) ∧
        (∀ n, n ≠ o.j.toNat → g.joinAt n = x.gr.joinAt n) ∧
        { g with splits := [], joins := [] } = { x.gr with splits := [], joins := [] }) ∧
    (∀ o : BrkO, ∃ t g, exec (.brk o) s = .next t ∧ GroupAndCounters s t x g ∧
      (∀ n, g.joinAt n = if o.m.getLsbD n then leftJoin (x.gr.joinAt n) (x.active o.g) else x.gr.joinAt n) ∧
      (x.sp.st = .ready → Apart x →
        ∀ l, Mask.has x.sp.mask l = true → ∃ k q, mget g.splits k = some q ∧ Mask.has q.mask l = true ∧ q.st = .ready ∧
          q.pc = if Mask.has (x.active o.g) l then x.sp.pc + o.d.signExtend 47 else Pc.plus x.sp.pc 4) ∧
      { g with splits := [], joins := [] } = { x.gr with splits := [], joins := [] }) ∧
    (∀ o : JdropO, ∃ t g, exec (.jdrop o) s = .next t ∧ GroupAndCounters s t x g ∧
      (∀ n, g.joinAt n = if o.m.getLsbD n then leftJoin (x.gr.joinAt n) (x.active o.g) else x.gr.joinAt n) ∧
      (x.sp.st = .ready → Apart x → mget g.splits x.entry = (mget x.gr.splits x.entry).map (moved 4)) ∧
      { g with splits := [], joins := [] } = { x.gr with splits := [], joins := [] }) ∧
    (∀ o : JgetO, LaneDoes (.jget o) 4 o.g fun y _ a b => ∃ w : DWord, SetsPair a b o.d.toNat w ∧
      w.extractLsb' 56 8 = (y.gr.joinAt o.j.toNat).arm ∧ w.extractLsb' 48 8 = (y.gr.joinAt o.j.toNat).arv ∧
      w.extractLsb' 0 48 = (y.gr.joinAt o.j.toNat).rpc.zeroExtend 48) ∧
    (∀ o : JputO, x.active o.g = 0 → ∃ t g, exec (.jput o) s = .next t ∧ OnlyGroup s t x g ∧ Advances x.gr g x.entry 4 ∧
      SameButSplits x g) ∧
    (∀ (o : JputO) (l : Nat), Mask.has (x.active o.g) l = true → (∀ k, k < l → Mask.has (x.active o.g) k = false) →
      ∃ t g, exec (.jput o) s = .next t ∧ GroupAndCounters s t x g ∧
        (let v := (x.gr.lane l).vPair o.a.toNat
         let arm := v.extractLsb' 56 8 &&& x.gr.live
         let arv := v.extractLsb' 48 8 &&& arm &&& x.gr.waitingAt o.j.toNat
         g.joinAt o.j.toNat = if arm ≠ 0 ∧ arv = arm then ⟨0, 0, 0⟩ else ⟨arm, arv, v.extractLsb' 0 47⟩) ∧
        (∀ n, n ≠ o.j.toNat → g.joinAt n = x.gr.joinAt n) ∧
        (x.sp.st = .ready → Apart x → mget g.splits x.entry = (mget x.gr.splits x.entry).map (moved 4)) ∧
        { g with splits := [], joins := [] } = { x.gr with splits := [], joins := [] })

/-- R109, R36, R140, R422 and R432: NOP, FLGR, FLGC, MODE and MODER, and TFENCE where no enabled flag is set. -/
def Obligations.FlagAndModeInstructions : Prop :=
  ∀ s x, s.running = some x →
    (∀ o : G0, ∃ t g, exec (.nop o) s = .next t ∧ OnlyGroup s t x g ∧ Advances x.gr g x.entry 4 ∧
      { g with splits := [] } = { x.gr with splits := [] }) ∧
    ((∀ l, Mask.has x.gr.live l = true → (x.gr.lane l).flags &&& x.gr.uni.mode.extractLsb' 8 6 = 0) →
      x.gr.uni.flags &&& x.gr.uni.mode.extractLsb' 8 6 = 0 →
      ∃ t g, exec .tfence s = .next t ∧ OnlyGroup s t x g ∧ Advances x.gr g x.entry 4 ∧
        { g with splits := [] } = { x.gr with splits := [] }) ∧
    (∀ o : Ud, UniDoes (.flgr o) 4 fun y a b =>
      SetsSPair a b o.d.toNat (pairOf (a.flags.zeroExtend 32)
        ((List.range 8).foldl (fun f l => if Mask.has y.sp.mask l then f ||| (y.gr.lane l).flags else f) (0 : BitVec 6)
          |>.zeroExtend 32))) ∧
    (∀ o : Ub, ∃ t g, exec (.flgc o) s = .next t ∧ OnlyGroup s t x g ∧
      (let v := SSrc.val o.b x.uni
       g.uni = { x.gr.uni with flags := x.gr.uni.flags &&& ~~~ (v.extractLsb' 8 6) } ∧
       (∀ l, Mask.has x.sp.mask l = true →
         g.lane l = { x.gr.lane l with flags := (x.gr.lane l).flags &&& ~~~ (v.extractLsb' 0 6) }) ∧
       ∀ l, Mask.has x.sp.mask l = false → g.lane l = x.gr.lane l) ∧
      Advances x.gr g x.entry (SSrc.len o.b) ∧
      { g with splits := [], lanes := [], uni := {} } = { x.gr with splits := [], lanes := [], uni := {} }) ∧
    (∀ o : Ub, ∃ t g, exec (.mode o) s = .next t ∧ OnlyGroup s t x g ∧
      g.uni = { x.gr.uni with mode := SSrc.val o.b x.uni &&& 0x3F03 } ∧
      { g with splits := [], uni := {} } = { x.gr with splits := [], uni := {} } ∧
      NewMode s x g (SSrc.len o.b)) ∧
    (∀ o : U3, ∃ t g, exec (.moder o) s = .next t ∧ OnlyGroup s t x g ∧
      (let a := x.gr.uni.sr o.a.toNat
       let m := ((x.gr.uni.mode &&& ~~~ a) ||| (SSrc.val o.b x.gr.uni &&& a)) &&& 0x3F03
       SetsS { x.gr.uni with mode := m } g.uni o.d.toNat x.gr.uni.mode) ∧
      { g with splits := [], uni := {} } = { x.gr with splits := [], uni := {} } ∧
      NewMode s x g (SSrc.len o.b))

/-! ### Traps, handlers, and the return from one -/

/-- R418, R420 and R425: taking a trap. Once no result of the group is pending and no issued instruction waits, a cause raised outside a handler, whose
vector entry is not 0 and whose frame can be written, freezes the group and starts its handler: all live lanes in one split
at the entry's address, the join registers free, s56 to s63 holding the lanes, the cause, the PC, the two words and the
frame's address. Every lane register, predicate, condition and flag keeps its value, and memory is what the writing of the
frame leaves. -/
def Sys2Proof.Claims.TakingATrap : Prop :=
  ∀ (s s1 s2 : State) (core slot : Nat) (g : Group) (r : Raised) (b : Block) (w : Nat),
    s.group core slot = some g → g.trapping = none → g.quiet = true → g.handler = none → r.cause ≠ 8 →
    let s0 := s.modGroup core slot fun _ => { g with trapping := some r, holder := none }
    let F := s1.frameAddr g.ctx core slot
    let trapped : Group := ({ g with trapping := some r, holder := none } : Group).modSplit r.entry fun sp => { sp with pc := r.resume }
    mget s.blocks g.blk = some b →
    s0.trapEntryWord g.ctx b.trapb r.cause = (.ok w, s1) → w ≠ 0 →
    s1.agentWrite g.ctx { priv := true } [0] F (trapped.frame r) (s1.pts core g.ctx) = (none, s2) →
    s2.group core slot = s1.group core slot → s1.group core slot = s0.group core slot →
    ∃ h g', (s.raise core slot g r).group core slot = some g' ∧ g'.handler = some h ∧ g'.trapping = none ∧
      (∃ q, mget g'.splits 0 = some q ∧ q.mask = g.live ∧ q.st = .ready ∧ q.pc = Pc.of (BitVec.ofNat 64 (b.trapb + 8 * r.cause))) ∧
      (∀ e, e ≠ 0 → mget g'.splits e = none) ∧ g'.joins = [] ∧
      g'.uni.sr 56 = r.lanes.zeroExtend 32 ∧ g'.uni.sr 57 = BitVec.ofNat 32 r.cause ∧
      g'.uni.pair 58 = Pc.addr r.pc ∧ g'.uni.sr 60 = r.x60 ∧ g'.uni.sr 61 = r.x61 ∧
      g'.uni.pair 62 = BitVec.ofNat 64 F ∧ (∀ k, k < 56 ∨ 64 ≤ k → g'.uni.sr k = g.uni.sr k) ∧
      { g'.uni with s := [] } = { g.uni with s := [] } ∧ g'.lanes = g.lanes ∧ g'.live = g.live ∧
      h.joins = g.joins ∧ h.live = g.live ∧
      (∀ e sp, mget g.splits e = some sp → ∃ q, mget h.splits e = some q ∧ q.mask = sp.mask ∧
        q.pc = if e = r.entry then r.resume else sp.pc) ∧
      (∀ a, Bytes.at_ (s.raise core slot g r).mem.bytes a = Bytes.at_ s2.mem.bytes a)

/-- R425, R82: a cause raised while a result of the group is pending, or an issued instruction of it waits, waits itself: the group
keeps it, and TRAP_ENTRY, due when neither is so, takes the trap; until then nothing of the group's registers or splits changes. -/
def Sys2Proof.Claims.ATrapWaitsForPendingResults : Prop :=
  ∀ (s : State) (core slot : Nat) (g : Group) (r : Raised), s.group core slot = some g → g.trapping = none → r.cause ≠ 8 →
    (g.quiet = false → (s.raise core slot g r).group core slot = some { g with trapping := some r, holder := none } ∧
      (s.raise core slot g r).mem = s.mem ∧
      exec (.trapEntry core slot) (s.raise core slot g r) = .refused .eventNotDue) ∧
    (∀ q, g.quiet = true → exec (.trapEntry core slot)
        (s.modGroup core slot fun _ => { g with trapping := some q }) =
      .next ((s.modGroup core slot fun _ => { g with trapping := some q }).takeTrap core slot { g with trapping := some q } q))

/-- R432: TRAP raises cause 0x11 with its operand in s60, to resume at the next instruction; BKPT raises cause 0x12, to resume
at itself. TFENCE raises cause 0x10 where a flag whose enable bit is set is set in a live lane or in the group flag word
(R422). -/
def Sys2Proof.Claims.TrapInstructionsRaise : Prop :=
  ∀ s x, s.running = some x →
    (∀ o : Ub, exec (.trap o) s = .next (s.raise x.core x.slot x.gr
      ⟨0x11, x.entry, x.sp.mask, x.sp.pc, Pc.plus x.sp.pc (SSrc.len o.b), SSrc.val o.b x.uni, 0⟩)) ∧
    (exec .bkpt s = .next (s.raise x.core x.slot x.gr ⟨0x12, x.entry, x.sp.mask, x.sp.pc, x.sp.pc, 0, 0⟩)) ∧
    (∀ m : Mask, (∀ l, Mask.has m l = true ↔ Mask.has x.gr.live l = true ∧
        (x.gr.lane l).flags &&& x.gr.uni.mode.extractLsb' 8 6 ≠ 0) →
      (m ≠ 0 ∨ x.gr.uni.flags &&& x.gr.uni.mode.extractLsb' 8 6 ≠ 0) →
      ∃ fl : BitVec 6, (∀ i, fl.getLsbD i = true ↔ ∃ l, Mask.has m l = true ∧
          ((x.gr.lane l).flags &&& x.gr.uni.mode.extractLsb' 8 6).getLsbD i = true) ∧
        exec .tfence s = .next (s.raise x.core x.slot x.gr ⟨0x10, x.entry, m, x.sp.pc, x.sp.pc, fl.zeroExtend 32,
          (x.gr.uni.flags &&& x.gr.uni.mode.extractLsb' 8 6).zeroExtend 32⟩))

/-- TakingATrap; ATrapWaitsForPendingResults; TrapInstructionsRaise: all of these hold. -/
def Obligations.TrapsAreTaken : Prop :=
  Sys2Proof.Claims.TakingATrap ∧ Sys2Proof.Claims.ATrapWaitsForPendingResults ∧
  Sys2Proof.Claims.TrapInstructionsRaise

/-- R429 and R430: RTT outside a handler raises cause 0x01. That an entry which is READY only because a lane left a join during the
handler continues at the frame's PC too is the model's reading (log 19). In a handler of one split, with the windows as at entry, no result
pending and no store outstanding, it reads the frame and leaves the handler: s56 to s63, the conditions, and p0 to p6 and v0
to v3 of each live lane come from the frame, every READY split continues at the PC that the frame holds for it, and nothing
else of the lanes, of the other s registers, of the flags and of the mode changes. -/
def Sys2Proof.Claims.ReturnFromTrap : Prop :=
  ∀ s x, s.running = some x →
    (x.gr.handler = none → exec .rtt s = trapAt s x 1 x.sp.mask (firstWord .rtt) 0) ∧
    (∀ h s1 (fr : List (Byte × Bool)), x.gr.handler = some h → x.gr.splits.length ≤ 1 →
      (∀ l, Mask.has x.gr.live l = true → (x.gr.lane l).wb = h.wbs.getD l 0) → x.gr.pend = [] →
      s.storesOut x.gr.uid = false →
      s.agentRead x.gr.ctx { priv := true } [0] (partsOf (s.frameAddr x.gr.ctx x.core x.slot) 320) = (.ok fr, s1) →
      s1.group x.core x.slot = some x.gr →
      let word := fun (o n : Nat) => leNat (((fr.map Prod.fst).drop o).take n)
      ∃ t g, exec .rtt s = .next t ∧ t.group x.core x.slot = some g ∧ g.handler = none ∧ t.mem = s1.mem ∧
        (∀ i, i < 8 → g.uni.sr (56 + i) = BitVec.ofNat 32 (word (4 * i) 4)) ∧
        (∀ k, k < 56 ∨ 64 ≤ k → g.uni.sr k = x.gr.uni.sr k) ∧
        g.uni.conds = BitVec.ofNat 7 (word 168 1) ∧
        { g.uni with s := [], conds := 0 } = { x.gr.uni with s := [], conds := 0 } ∧
        (∀ l, Mask.has x.gr.live l = true →
          (g.lane l).preds = BitVec.ofNat 7 (word (160 + l) 1) ∧
          (∀ i, i < 4 → (g.lane l).v i = BitVec.ofNat 32 (word (192 + 32 * i + 4 * l) 4)) ∧
          (∀ k, k < (x.gr.lane l).wb ∨ (x.gr.lane l).wb + 4 ≤ k → mgetD (g.lane l).regs k 0 = mgetD (x.gr.lane l).regs k 0) ∧
          { g.lane l with regs := [], preds := 0 } = { x.gr.lane l with regs := [], preds := 0 }) ∧
        (∀ l, Mask.has x.gr.live l = false → g.lane l = x.gr.lane l) ∧
        ∀ e q, mget g.splits e = some q → q.st = .ready → q.pc = BitVec.ofNat 47 (word (32 + 8 * e) 8))

/-- R430: RTT in a handler of more than one split, or with a window moved, is a double fault: a context fault 0x14 with
secondary cause 0x13, recorded for the context, and nothing of the group changes. -/
def Sys2Proof.Claims.BadReturnIsAContextFault : Prop :=
  ∀ s x h, s.running = some x → x.gr.handler = some h →
    (x.gr.splits.length > 1 ∨ ∃ l, Mask.has x.gr.live l = true ∧ (x.gr.lane l).wb ≠ h.wbs.getD l 0) →
    ∃ t, exec .rtt s = .next t ∧ t.group x.core x.slot = s.group x.core x.slot ∧ t.mem = s.mem ∧
      (t.ctx x.gr.ctx).faults = (s.ctx x.gr.ctx).faults ++ [⟨0x14, 0x13, x.core, x.slot, Pc.addr x.sp.pc, 0⟩]

/-- ReturnFromTrap; BadReturnIsAContextFault: all of these hold. -/
def Obligations.TrapsReturn : Prop :=
  Sys2Proof.Claims.ReturnFromTrap ∧ Sys2Proof.Claims.BadReturnIsAContextFault

/-! ### Calls, returns, the end of lanes, YIELD and NAP -/

/-- R121 and R124: CALL and CALLX move the window of each active lane up by k registers, spill the words that the pool cannot
keep, zero the new registers, put the return address into v31 of the new window (with k / 8 in its low bits), and go to the
target. RET moves the window back by what v31 says, fills the words that the pool does not hold, and goes where v31 says. The
words that stay resident keep their values. With no active lane they only go on. -/
def Sys2Proof.Claims.CallsAndReturnsMoveTheWindow : Prop :=
  ∀ s x b, s.running = some x → mget s.blocks x.gr.blk = some b →
    (∀ (o : CallO) (tgt : Nat → DWord), (∀ l, tgt l = Pc.addr (x.sp.pc + o.d.signExtend 47)) →
      CallRuns s x b (.call o) (x.active o.g) (8 * o.k.toNat) tgt) ∧
    (∀ (o : CallxO) (tgt : Nat → DWord), (∀ l, tgt l = (x.gr.lane l).vPair o.a.toNat) →
      (∀ l, Mask.has (x.active o.g) l = true → (tgt l).toNat % 4 = 0 ∧ canonical (tgt l) = true) →
      CallRuns s x b (.callx o) (x.active o.g) (8 * o.k.toNat) tgt) ∧
    (∀ o : G0, let wb := fun l => (x.gr.lane l).wb - 8 * ((x.gr.lane l).v 31 &&& 3).toNat
      x.active o.g ≠ 0 → x.gr.pending (x.active o.g) = false →
      (∀ l, Mask.has (x.active o.g) l = true →
        (x.gr.lane l).v 31 &&& 3 ≠ 0 ∧ 8 * ((x.gr.lane l).v 31 &&& 3).toNat ≤ (x.gr.lane l).wb) →
      (s.pseWords x.gr.ctx (s.spillArea x.gr.ctx x.core x.slot) false
        ((lanesOf (x.active o.g)).flatMap fun l => wordRange l (wb l) (x.gr.lane l).stk)).1.1 = [] →
      ∃ t g, exec (.ret o) s = .next t ∧ t.group x.core x.slot = some g ∧
        ((∀ l, Mask.has (x.active o.g) l = true → (x.gr.lane l).stk ≤ wb l) → GroupAndCounters s t x g) ∧
        (∀ l, Mask.has (x.active o.g) l = true →
          (g.lane l).wb = wb l ∧ (g.lane l).stk = min (x.gr.lane l).stk (wb l) ∧
          (∀ r, r < 32 → (x.gr.lane l).stk ≤ wb l + r → (g.lane l).v r = mgetD (x.gr.lane l).regs (wb l + r) 0) ∧
          (g.lane l).preds = (x.gr.lane l).preds ∧ (g.lane l).flags = (x.gr.lane l).flags) ∧
        (∀ l, Mask.has (x.active o.g) l = false → g.lane l = x.gr.lane l) ∧
        (Apart x → ∀ l, Mask.has x.sp.mask l = true → ∃ k q, mget g.splits k = some q ∧ Mask.has q.mask l = true ∧ q.st = .ready ∧
          q.pc = if Mask.has (x.active o.g) l then
              Pc.of (pairOf ((x.gr.lane l).v 31 &&& 0xFFFFFFFC) (hiOf (Pc.addr x.sp.pc))) else Pc.plus x.sp.pc 4) ∧
        { g with splits := [], lanes := [] } = { x.gr with splits := [], lanes := [] }) ∧
    (∀ o : CallO, IdleGoesOn (.call o) o.g 4) ∧ (∀ o : CallxO, IdleGoesOn (.callx o) o.g 4) ∧ ∀ o : G0, IdleGoesOn (.ret o) o.g 4

/-- R121: the checks of a call of k registers whose targets are aligned and canonical: a target outside the region of the next
instruction raises cause 0x05 in the lanes whose targets are so, with that of the lowest (the value in s60:s61: log 17); else
a lane whose resident range would have to begin above the spill limit raises cause 0x08 in all such lanes, with the largest need
of an active lane in s60 and the limit in s61. -/
def Sys2Proof.Claims.CallFaults (i : Instr) (gd : Guard) (k : Nat) (tgt : Ex → Nat → DWord) : Prop :=
  ∀ s x b (m : Mask), s.running = some x → mget s.blocks x.gr.blk = some b → x.gr.pending (x.active gd) = false → m ≠ 0 →
    let a := x.active gd
    let need := fun l => max (x.gr.lane l).stk ((x.gr.lane l).wb + k + 32 - b.stack)
    let far := fun l => hiOf (tgt x l) ≠ hiOf (Pc.addr (Pc.plus x.sp.pc 4))
    (∀ l, Mask.has a l = true → (tgt x l).toNat % 4 = 0 ∧ canonical (tgt x l) = true) →
    (∀ l, Mask.has m l = true → (∀ j, j < l → Mask.has m j = false) →
      (∀ j, Mask.has m j = true ↔ Mask.has a j = true ∧ far j) →
      exec i s = trapAt s x 5 m (loOf (tgt x l)) (hiOf (tgt x l))) ∧
    (∀ l, (∀ j, Mask.has a j = true → ¬far j) → (∀ j, Mask.has m j = true ↔ Mask.has a j = true ∧ b.limit < need j) →
      Mask.has a l = true → (∀ j, Mask.has a j = true → need j ≤ need l) →
      exec i s = trapAt s x 8 m (BitVec.ofNat 32 (need l)) (BitVec.ofNat 32 b.limit))

/-- R121, R123 and R124: the faults of CALL, CALLX and RET. A target of CALLX that is not a multiple of 4 raises cause 0x07, and else one
that is not canonical cause 0x05 (R98). RET: the first active lane whose v31 holds a frame of size 0 (cause 0x07), or one below
the bottom of the stack (cause 0x08), decides the cause, and the active lanes that fail its check are named. -/
def Sys2Proof.Claims.StackFaults : Prop :=
  (∀ o : CallO, Sys2Proof.Claims.CallFaults (.call o) o.g (8 * o.k.toNat) fun x _ => Pc.addr (x.sp.pc + o.d.signExtend 47)) ∧
  (∀ o : CallxO, Sys2Proof.Claims.CallFaults (.callx o) o.g (8 * o.k.toNat) fun x l => (x.gr.lane l).vPair o.a.toNat) ∧
  ∀ s x b, s.running = some x → mget s.blocks x.gr.blk = some b →
    (∀ (o : CallxO) (m : Mask) (l : Nat), x.gr.pending (x.active o.g) = false → Mask.has m l = true →
      (∀ k, k < l → Mask.has m k = false) →
      let tgt := fun k => (x.gr.lane k).vPair o.a.toNat
      ((∀ k, Mask.has m k = true ↔ Mask.has (x.active o.g) k = true ∧ (tgt k).toNat % 4 ≠ 0) →
        exec (.callx o) s = trapAt s x 7 m (firstWord (.callx o)) 0) ∧
      ((∀ k, Mask.has (x.active o.g) k = true → (tgt k).toNat % 4 = 0) →
        (∀ k, Mask.has m k = true ↔ Mask.has (x.active o.g) k = true ∧ canonical (tgt k) = false) →
        exec (.callx o) s = trapAt s x 5 m (loOf (tgt l)) (hiOf (tgt l)))) ∧
    (∀ (o : G0) (m : Mask) (l : Nat), x.gr.pending (x.active o.g) = false → Mask.has (x.active o.g) l = true →
      let cause := fun k => if (x.gr.lane k).v 31 &&& 3 = 0 then 7
        else if (x.gr.lane k).wb < 8 * ((x.gr.lane k).v 31 &&& 3).toNat then 8 else 0
      cause l ≠ 0 → (∀ k, k < l → Mask.has (x.active o.g) k = true → cause k = 0) →
      (∀ k, Mask.has m k = true ↔ Mask.has (x.active o.g) k = true ∧ cause k = cause l) →
      exec (.ret o) s = if cause l = 7 then trapAt s x 7 m ((x.gr.lane l).v 31) 0
        else trapAt s x 8 m 0 (BitVec.ofNat 32 b.limit))

/-- CallsAndReturnsMoveTheWindow; StackFaults: all of these hold. -/
def Obligations.CallsReturnsAndStackFaults : Prop :=
  Sys2Proof.Claims.CallsAndReturnsMoveTheWindow ∧ Sys2Proof.Claims.StackFaults

/-- R109 and R85: EXIT of some lanes takes them out of the group and of every join, and the others go on; in an episode their
rays end (R329); YIELD and NAP, and
the events that end a nap and a yield. -/
def Sys2Proof.Claims.ExitYieldAndNap : Prop :=
  ∀ s x, s.running = some x → x.sp.st = .ready → Map.sorted x.gr.splits = true →
    (∀ o : G0, x.active o.g ≠ 0 → x.active o.g ≠ x.gr.live → x.gr.pending (x.active o.g) = false →
      (∀ b n, mget s.blocks x.gr.blk = some b → b.kind ≠ .episode n) →
      ∃ t g, exec (.exit o) s = .next t ∧ GroupAndCounters s t x g ∧ g.live = x.gr.live &&& ~~~ (x.active o.g) ∧
        (∀ n, n < 8 → g.joinAt n = leftJoin (x.gr.joinAt n) (x.active o.g)) ∧
        mget g.splits x.entry = (if x.sp.mask &&& ~~~ (x.active o.g) = 0 then none else
          (mget x.gr.splits x.entry).map (fun sp => { moved 4 sp with mask := x.sp.mask &&& ~~~ (x.active o.g) })) ∧
        { g with splits := [], joins := [], live := 0 } = { x.gr with splits := [], joins := [], live := 0 }) ∧
    (∀ (o : G0) (b : Block) n, x.active o.g ≠ 0 → x.active o.g ≠ x.gr.live → x.gr.pending (x.active o.g) = false →
      mget s.blocks x.gr.blk = some b → b.kind = .episode n →
      ∃ t g, exec (.exit o) s = .next t ∧ t.group x.core x.slot = some g ∧ g.live = x.gr.live &&& ~~~ (x.active o.g) ∧
        t.mem = s.mem ∧ (∀ c k, ¬(c = x.core ∧ k = x.slot) → t.group c k = s.group c k) ∧
        ∀ l, Mask.has (x.active o.g) l = true → mget t.rays (x.gr.ctx * 2 ^ 24 + (x.gr.lane l).ray.toNat) = none) ∧
    (∀ (o : G0) (b : Block), x.active o.g = x.gr.live → x.gr.live ≠ 0 → x.gr.pending x.gr.live = false →
      mget s.blocks x.gr.blk = some b → (∃ n, b.kind = .launch n) → b.ended.length + 1 < b.groups → x.gr.holds = [] →
      ∃ t b', exec (.exit o) s = .next t ∧ t.group x.core x.slot = none ∧ mget t.blocks x.gr.blk = some b' ∧
        b'.ended = b.ended ++ [x.gr.idx] ∧ { b' with ended := [] } = { b with ended := [] } ∧ t.mem = s.mem ∧
        (∀ c k, ¬(c = x.core ∧ k = x.slot) → t.group c k = s.group c k)) ∧
    (∀ o : G0, x.active o.g ≠ 0 → ∃ t g, exec (.yield o) s = .next t ∧ OnlyGroup s t x g ∧
      mget g.splits x.entry = (mget x.gr.splits x.entry).map (fun sp => { moved 4 sp with yield := some (s.now + 64, []) }) ∧
      (∀ k, k ≠ x.entry → mget g.splits k = mget x.gr.splits k) ∧ { g with splits := [] } = { x.gr with splits := [] }) ∧
    (∀ (o : B1) (l : Nat), Mask.has (x.active o.g) l = true → (∀ k, k < l → Mask.has (x.active o.g) k = false) →
      (VSrc.val o.b (x.gr.lane l)).toNat % 65536 ≠ 0 → ∃ t g, exec (.nap o) s = .next t ∧ OnlyGroup s t x g ∧
      mget g.splits x.entry = (mget x.gr.splits x.entry).map (fun sp =>
        { moved (VSrc.len o.b) sp with st := .nap (s.now + (VSrc.val o.b (x.gr.lane l)).toNat % 65536) }) ∧
      (∀ k, k ≠ x.entry → mget g.splits k = mget x.gr.splits k) ∧ { g with splits := [] } = { x.gr with splits := [] })

/-- R85: a nap whose count has run out ends, and the split is READY; a yield that has lasted 64 clk ends. Neither is due
before. -/
def Sys2Proof.Claims.NapsAndYieldsEnd : Prop :=
  ∀ (s : State) (core slot entry : Nat) (x : Ex), s.exAt core slot entry = some x →
    (∀ u, x.sp.st = .nap u → u ≤ s.now → ∃ t g, exec (.napExpiry core slot entry) s = .next t ∧ OnlyGroup s t x g ∧
      mget g.splits entry = (mget x.gr.splits entry).map (fun sp => { sp with st := .ready }) ∧
      (∀ k, k ≠ entry → mget g.splits k = mget x.gr.splits k) ∧ { g with splits := [] } = { x.gr with splits := [] }) ∧
    (∀ u, x.sp.st = .nap u → s.now < u → exec (.napExpiry core slot entry) s = .refused .eventNotDue) ∧
    (∀ u l, x.sp.yield = some (u, l) → u ≤ s.now → ∃ t g, exec (.yieldTimeout core slot entry) s = .next t ∧
      OnlyGroup s t x g ∧
      mget g.splits entry = (mget x.gr.splits entry).map (fun sp => { sp with yield := none }) ∧
      (∀ k, k ≠ entry → mget g.splits k = mget x.gr.splits k) ∧ { g with splits := [] } = { x.gr with splits := [] }) ∧
    (∀ u l, x.sp.yield = some (u, l) → s.now < u → exec (.yieldTimeout core slot entry) s = .refused .eventNotDue)

/-- R90: two READY splits at one PC, whose lanes belong to the same joins and neither of which has an instruction issued, merge without a join. -/
def Sys2Proof.Claims.OpportunisticMergeJoinsTwoSplits : Prop :=
  ∀ (s : State) (core slot e f : Nat) (g : Group) (a b : Split), s.group core slot = some g → mget g.splits e = some a →
    mget g.splits f = some b → e < f → a.st = .ready → b.st = .ready → a.pc = b.pc →
    (∀ l m n, Mask.has (a.mask ||| b.mask) l = true → Mask.has (a.mask ||| b.mask) m = true →
      Mask.has (g.joinAt n).arm l = Mask.has (g.joinAt n).arm m) →
    g.pending (a.mask ||| b.mask) = false → g.trapping = none → a.half = 0 → b.half = 0 →
    a.latch = none → b.latch = none → g.holder ≠ some e → g.holder ≠ some f →
    ∃ t g', exec (.opportunisticMerge core slot e f) s = .next t ∧ t.group core slot = some g' ∧
      mget g'.splits f = none ∧
      (∃ q, mget g'.splits e = some q ∧ q.mask = a.mask ||| b.mask ∧ q.pc = a.pc ∧ q.st = .ready) ∧
      (∀ k, k ≠ e → k ≠ f → mget g'.splits k = mget g.splits k) ∧
      { g' with splits := [] } = { g with splits := [] } ∧ t.mem = s.mem ∧
      (∀ c k, ¬(c = core ∧ k = slot) → t.group c k = s.group c k) ∧ { t with cores := [] } = { s with cores := [] }

/-- ExitYieldAndNap; NapsAndYieldsEnd; OpportunisticMergeJoinsTwoSplits: all of these hold. -/
def Obligations.ExitsNapsYieldsAndMerges : Prop :=
  Sys2Proof.Claims.ExitYieldAndNap ∧ Sys2Proof.Claims.NapsAndYieldsEnd ∧
  Sys2Proof.Claims.OpportunisticMergeJoinsTwoSplits

/-! ### Global memory -/

/-- R232, R60, R229: a load whose lanes all pass their checks completes at issue when no earlier acquire and no access of the core to
its lines is in flight and the core's 256 line misses allow it: a lane whose line is in the L1 has its value at
once, and the registers of every other lane are pending, with a request for its line in flight that names the lane. Without .cb
a D-class copy is a hit, and an L-class copy whose lease has not run out (R219, R224). Memory, the other lanes and the other groups
keep their values. -/
def Sys2Proof.Claims.LoadsDeliverOrRequest : Prop :=
  ∀ s x (o : LmO) (pte : Nat → DWord), s.running = some x → IdleGoesOn (.ld o) o.g (offLen o.off) ∧
    let z := 2 ^ o.z.toNat
    let va := fun l => laneAddr (x.gr.lane l) o.a (offWord o.off)
    let pa := fun l => ptePa (pte l) (va l).toNat
    let us := lineUses ((lanesOf (x.active o.g)).map fun l => ⟨l, (va l).toNat, pte l, pa l⟩)
    (o.z.toNat ≤ 4 → x.active o.g ≠ 0 → FreshIds s → s.acqBusy x = false →
    s.missCount x.core + s.loadMisses x o.s us ≤ 256 →
    (∀ l, Mask.has (x.active o.g) l = true → Lands s x {} [0, 1, 2, 3] z (va l) (pte l)) →
    (∀ l, Mask.has (x.active o.g) l = true → s.lineBusy x (lineAddr (pa l)) = false) →
    ∃ t g, exec (.ld o) s = .next t ∧ t.group x.core x.slot = some g ∧ t.mem = s.mem ∧
      SentBy s t x ∧ MovedOn x g (offLen o.off) ∧
      (∀ l, Mask.has (x.active o.g) l = false → g.lane l = x.gr.lane l) ∧
      (∀ l, Mask.has (x.active o.g) l = true →
        (∃ ln, mget (s.core x.core).l1 (lineAddr (pa l)) = some ln ∧
          g.lane l = (x.gr.lane l).load o.d.toNat z (o.k == 1) (lineValue ln.data ln.poison (pa l % 64) z)) ∨
        (g.lane l = x.gr.lane l ∧
          (∀ i, i < max 1 (z / 4) → (⟨s.nextId, some l, .v (o.d.toNat + i)⟩ : Pend) ∈ g.pend) ∧
          ∃ id r k, mget t.fly.reqs id = some r ∧ r.pa = lineAddr (pa l) ∧ r.who.iid = s.nextId ∧ r.who.uid = x.gr.uid ∧
            k ∈ r.lanes ∧ k.lane = l ∧ k.off = pa l % 64)) ∧
      ∀ l ln, Mask.has (x.active o.g) l = true → o.s = false → mget (s.core x.core).l1 (lineAddr (pa l)) = some ln →
        (pteClass (pte l) = 0 ∧ ln.st ≠ .lease) ∨ (pteClass (pte l) = 1 ∧ ln.st = .lease ∧ s.pts x.core x.gr.ctx ≤ ln.rts ∧
          ∀ m, Mask.has (x.active o.g) m = true → lineAddr (pa m) = lineAddr (pa l)) →
        g.lane l = (x.gr.lane l).load o.d.toNat z (o.k == 1) (lineValue ln.data ln.poison (pa l % 64) z))

/-- R232: a loaded value of 1, 2, 4, 8 or 16 bytes from an aligned offset of a line, lowest byte first: a poisoned word reads as 0,
and one that is met raises PZ; 8- and 16-bit values are zero- or sign-extended into one register; wider values fill consecutive
registers. No other register, and nothing else of the lane, changes. -/
def Sys2Proof.Claims.LoadedValueOfALine : Prop :=
  ∀ (ln : Lane) (d : Nat) (data : Line) (p : BitVec 16) (o z : Nat) (sx : Bool), z ∈ [1, 2, 4, 8, 16] → o % z = 0 → o + z ≤ 64 →
    let r := ln.load d z sx (lineValue data p o z)
    let bad := fun i => p.getLsbD ((o + i) / 4)
    (4 ≤ z → ∀ i, i < z / 4 → r.v (d + i) = if bad (4 * i) then 0 else data.extractLsb' (8 * (o + 4 * i)) 32) ∧
    (z = 1 → let b : Byte := if bad 0 then 0 else data.extractLsb' (8 * o) 8
      r.v d = if sx then b.signExtend 32 else b.zeroExtend 32) ∧
    (z = 2 → let h : BitVec 16 := if bad 0 then 0 else data.extractLsb' (8 * o) 16
      r.v d = if sx then h.signExtend 32 else h.zeroExtend 32) ∧
    ((∃ i, i < z ∧ bad i = true) → r.flags = ln.flags ||| 0x20) ∧ ((∀ i, i < z → bad i = false) → r.flags = ln.flags) ∧
    (∀ k, k < ln.wb + d ∨ ln.wb + d + max 1 (z / 4) ≤ k → mgetD r.regs k 0 = mgetD ln.regs k 0) ∧
    { r with regs := [], flags := 0 } = { ln with regs := [], flags := 0 }

/-- LoadsDeliverOrRequest; LoadedValueOfALine: all of these hold. -/
def Obligations.LoadsAndLoadedValues : Prop :=
  Sys2Proof.Claims.LoadsDeliverOrRequest ∧ Sys2Proof.Claims.LoadedValueOfALine

/-- R233, R234, R229: a store whose lanes all pass their checks completes at issue when no earlier acquire and no access of the core
to its lines is in flight and the core's 64 line stores allow it. No byte of memory changes yet (the home slice
takes it, SLICE_STORE; of a group that has passed a FENCE.rel the slices list the lines that its L1 holds modified, which they do of
every line in an L1, R222): each byte that a lane stores, and that no higher active lane stores too, stands in a copy that the L1
holds modified or in a request in flight to its line. No register changes. -/
def Obligations.StoresGoToTheL1OrToTheSlice : Prop :=
  ∀ s x (o : StO) (pte : Nat → DWord), s.running = some x →
    let z := 2 ^ o.z.toNat
    let va := fun l => laneAddr (x.gr.lane l) o.a (offWord o.off)
    let pa := fun l => ptePa (pte l) (va l).toNat
    let us := lineUses ((lanesOf (x.active o.g)).map fun l => ⟨l, (va l).toNat, pte l, pa l⟩)
    IdleGoesOn (.st o) o.g (offLen o.off) ∧
    (o.z.toNat ≤ 4 → x.active o.g ≠ 0 → FreshIds s → s.acqBusy x = false →
    s.storeCount x.core + s.storesSent x o.d.toNat z us ≤ 64 →
    (∀ l, Mask.has (x.active o.g) l = true → Lands s x { write := true } [0, 1, 2, 3] z (va l) (pte l)) →
    (∀ l, Mask.has (x.active o.g) l = true → s.lineBusy x (lineAddr (pa l)) = false) →
    (∀ l m, Mask.has (x.active o.g) l = true → Mask.has (x.active o.g) m = true →
      lineAddr (pa l) = lineAddr (pa m) → pteClass (pte l) = pteClass (pte m)) →
    (x.gr.fenced = true → ∀ l, Mask.has (x.active o.g) l = true → ∀ ln, mget (s.core x.core).l1 (lineAddr (pa l)) = some ln →
      ln.st = .modified → (mget s.mem.lines (lineAddr (pa l))).isSome = true) →
    ∃ t g, exec (.st o) s = .next t ∧ t.group x.core x.slot = some g ∧ (∀ a, Bytes.at_ t.mem.bytes a = Bytes.at_ s.mem.bytes a) ∧
      SentBy s { t with mem := s.mem } x ∧ Advances x.gr g x.entry (offLen o.off) ∧ SameButSplits x g ∧
      ∀ l j, Mask.has (x.active o.g) l = true → j < z →
        (∀ m, l < m → Mask.has (x.active o.g) m = true → ¬(pa m ≤ pa l + j ∧ pa l + j < pa m + z)) →
        let byte := ((x.gr.lane l).storeBytes o.d.toNat z).getD j 0
        (∃ ln, mget (t.core x.core).l1 (lineAddr (pa l)) = some ln ∧ ln.st = .modified ∧ lineByte ln.data (pa l % 64 + j) = byte) ∨
        ∃ id r, mget t.fly.reqs id = some r ∧ s.nextId ≤ id ∧ r.pa = lineAddr (pa l) ∧ r.mask.getLsbD (pa l % 64 + j) = true ∧
          lineByte r.data (pa l % 64 + j) = byte)

/-- R232, R233, R257 to R259, R418: an access of a lane whose address is not canonical raises cause 0x05, and one that is not aligned to
its size raises cause 0x07 with the address of the lowest lane that fails (log 17), naming every lane that fails so (log 18). The
other lanes' accesses pass their checks; the lowest active lane is one that fails. -/
def Sys2Proof.Claims.BadGlobal (i : Instr) (gd : Guard) (acc : Access) (classes : List Nat) (z : Nat) (addr : Lane → DWord) : Prop :=
  ∀ s x (l : Nat) (m : Mask), s.running = some x →
    let va := fun k => addr (x.gr.lane k)
    Mask.has m l = true → (∀ k, k < l → Mask.has (x.active gd) k = false) → Mask.has (x.active gd) l = true →
    (∀ k, Mask.has (x.active gd) k = true →
      (canonical (va k) = true → (va k).toNat % z = 0 → ∃ e, Lands s x acc classes z (va k) e)) →
    ((∀ k, Mask.has m k = true ↔ Mask.has (x.active gd) k = true ∧ canonical (va k) = true ∧ (va k).toNat % z ≠ 0) →
      exec i s = trapAt s x 7 m (loOf (va l)) (hiOf (va l))) ∧
    ((∀ k, Mask.has m k = true ↔ Mask.has (x.active gd) k = true ∧ canonical (va k) = false) →
      exec i s = trapAt s x 5 m (loOf (va l)) (hiOf (va l)))
/-- The accesses of LD, ST, ATOM and RED. -/
def Sys2Proof.Claims.BadGlobalAddressesTrap : Prop :=
  (∀ o : LmO, Sys2Proof.Claims.BadGlobal (.ld o) o.g {} [0, 1, 2, 3] (2 ^ o.z.toNat) fun ln => laneAddr ln o.a (offWord o.off)) ∧
  (∀ o : StO, Sys2Proof.Claims.BadGlobal (.st o) o.g { write := true } [0, 1, 2, 3] (2 ^ o.z.toNat) fun ln =>
    laneAddr ln o.a (offWord o.off)) ∧
  (∀ o : LaO, Sys2Proof.Claims.BadGlobal (.atom o) o.g { write := o.op.toNat != 11 } [0, 1] (2 ^ o.size.toNat) fun ln =>
    ln.vPair o.a.toNat + o.off.signExtend 64) ∧
  (∀ o : LaO, Sys2Proof.Claims.BadGlobal (.red o) o.g { write := true } [0, 1] (2 ^ o.size.toNat) fun ln =>
    ln.vPair o.a.toNat + o.off.signExtend 64)

/-- R235, R236, R237, R238: PREF never faults and writes no register; CLINE.iinv drops its lines from the instruction cache;
CLINE.clean and CLINE.inv of lines that the L1 does not hold modified complete at once, .inv with the copies gone; where they have
sent write-backs they complete once these are performed. -/
def Obligations.PrefetchAndCacheLineOperations : Prop :=
  ∀ s x (o : PfO), s.running = some x →
    let va := fun l => laneAddr (x.gr.lane l) o.a (offWord o.off)
    ((∀ l, Mask.has (x.active o.g) l = true → canonical (va l) = false ∨
        ((s.core x.core).tlb.find? fun t => t.serves x.gr.ctx (va l).toNat).isSome = true) →
      ∃ t g, exec (.pref o) s = .next t ∧ t.group x.core x.slot = some g ∧ Advances x.gr g x.entry (offLen o.off) ∧
        { g with splits := [] } = { x.gr with splits := [] } ∧ t.mem = s.mem ∧ SentBy s t x) ∧
    IdleGoesOn (.cline o) o.g (offLen o.off) ∧
    (∀ pte : Nat → DWord, x.active o.g ≠ 0 → o.k ≠ 3 → x.sp.half ≠ 1 →
      (∀ l, Mask.has (x.active o.g) l = true →
        Lands s x { write := o.k.toNat == 1 } (if o.k.toNat = 2 then [0, 1] else [0, 1, 2, 3]) 1 (va l) (pte l) ∧
        s.lineBusy x (lineAddr (ptePa (pte l) (va l).toNat)) = false ∧
        ∀ ln, mget (s.core x.core).l1 (lineAddr (ptePa (pte l) (va l).toNat)) = some ln → ln.st ≠ .modified) →
      s.clineBusy x = false →
      ∃ t g, exec (.cline o) s = .next t ∧ t.group x.core x.slot = some g ∧ Advances x.gr g x.entry (offLen o.off) ∧
        { g with splits := [] } = { x.gr with splits := [] } ∧ t.mem = s.mem ∧
        (∀ l, Mask.has (x.active o.g) l = true → pteClass (pte l) ≤ 1 →
          (o.k.toNat = 2 → mget (t.core x.core).icache (lineAddr (ptePa (pte l) (va l).toNat)) = none) ∧
          (o.k.toNat = 1 → mget (t.core x.core).l1 (lineAddr (ptePa (pte l) (va l).toNat)) = none))) ∧
    (∀ pte : Nat → DWord, x.active o.g ≠ 0 → x.sp.half = 1 → s.clineBusy x = false →
      (∀ l, Mask.has (x.active o.g) l = true →
        Lands s x { write := o.k.toNat == 1 } (if o.k.toNat = 2 then [0, 1] else [0, 1, 2, 3]) 1 (va l) (pte l)) →
      ∃ t g, exec (.cline o) s = .next t ∧ OnlyGroup s t x g ∧ Advances x.gr g x.entry (offLen o.off) ∧ SameButSplits x g)

/-- A line has a place in its home slice: it is held there, or the slice is not full (R16). -/
def Sys2Proof.Claims.SliceRoom (s : State) (pa : Nat) : Prop :=
  (mget s.mem.lines pa).isSome = true ∨ (s.mem.lines.filter fun p => s.slice p.1 = s.slice pa).length < sliceLines

/-- R219, R221, R223: a read of class D or L whose line its slice does not hold goes on toward memory; SLICE_READ serves a read of a
line that is held, or whose data has come, with the line as it stands. SLICE_STORE takes a store: an L-class store, a store past
the L1, a write-back and a scratch write-back change exactly the bytes of their mask. A request that needs probes sends them
first. -/
def Sys2Proof.Claims.HomeSliceServesReadsAndStores : Prop :=
  ∀ (s : State) (id : Nat) (r : Req), mget s.fly.reqs id = some r → r.phase = .out ∨ r.phase = .pending → s.sliceBusy id r = false →
    r.pa % 64 = 0 → r.cls ≤ 1 →
    (r.op.reads = true → r.phase = .out → mget s.mem.lines r.pa = none → ∃ t, exec (.sliceRead id 0) s = .next t ∧
      mget t.fly.reqs id = some { r with phase := .pending } ∧ (∀ k, k ≠ id → mget t.fly.reqs k = mget s.fly.reqs k) ∧
      t.mem = s.mem ∧ ∀ c k, t.group c k = s.group c k) ∧
    ((r.cls = 1 → s.timesFull = false) → r.probed = false → s.needed r ≠ [] → r.op.reads = true →
      r.phase = .pending ∨ (mget s.mem.lines r.pa).isSome = true → ∃ t, exec (.sliceRead id 0) s = .next t ∧
        mget t.fly.reqs id = some { r with probed := true } ∧ t.mem = s.mem ∧
        ∀ p ∈ s.needed r, ∃ k q, mget t.fly.probes k = some q ∧ q.core = p.1 ∧ q.pa = r.pa ∧ q.write = p.2 ∧ q.req = id) ∧
    ((r.cls = 1 → s.timesFull = false) → r.probed = true ∨ s.needed r = [] → s.lostLink r.pa = false →
      Sys2Proof.Claims.SliceRoom s r.pa →
      (r.op.reads = true → r.phase = .pending ∨ (mget s.mem.lines r.pa).isSome = true → r.op ≠ .prefLlc →
        ∃ t q, exec (.sliceRead id 0) s = .next t ∧ mget t.fly.reqs id = some q ∧
          q.phase = .back ∧ q.data = (s.lineData r.who.ctx r.pa).1 ∧ q.poison = (s.lineData r.who.ctx r.pa).2 ∧
          q.wts = (s.sline r.pa).wts ∧ (∀ a, Bytes.at_ t.mem.bytes a = Bytes.at_ s.mem.bytes a) ∧ t.cores = s.cores ∧
          (∀ k, k ≠ id → mget t.fly.reqs k = mget s.fly.reqs k) ∧
          (r.cls = 1 → r.op.leases = true → (t.sline r.pa).rts =
            max (s.sline r.pa).rts (max ((s.sline r.pa).wts + r.lease) (r.pts + r.lease)))) ∧
      (r.op = .prefLlc → r.phase = .pending ∨ (mget s.mem.lines r.pa).isSome = true →
        ∃ t, exec (.sliceRead id 0) s = .next t ∧ mget t.fly.reqs id = none ∧ (mget t.mem.lines r.pa).isSome = true ∧
          (∀ a, Bytes.at_ t.mem.bytes a = Bytes.at_ s.mem.bytes a)) ∧
      (∀ lu inL1 core off, (r.op = .st lu inL1 ∧ (r.cls = 1 ∨ lu = true)) ∨ r.op = .swb core off →
        ∃ t q, exec (.sliceStore id) s = .next t ∧ mget t.fly.reqs id = some q ∧ q.phase = .back ∧
          (∀ a, Bytes.at_ t.mem.bytes a = if r.pa ≤ a ∧ a < r.pa + 64 ∧ r.mask.getLsbD (a - r.pa) = true then lineByte r.data (a - r.pa)
            else Bytes.at_ s.mem.bytes a) ∧
          (r.cls = 1 → (t.sline r.pa).wts = max r.pts ((s.sline r.pa).rts + 1) ∧ (t.sline r.pa).rts = (t.sline r.pa).wts ∧
            q.wts = (t.sline r.pa).wts)) ∧
      (∀ lu inL1, r.op = .st lu inL1 → r.cls = 0 → lu = false → ∃ t q, exec (.sliceStore id) s = .next t ∧
        mget t.fly.reqs id = some q ∧ q.phase = .back ∧ (t.sline r.pa).holders = [r.who.core] ∧
        (∀ a, Bytes.at_ t.mem.bytes a = Bytes.at_ s.mem.bytes a))) ∧
    (∀ c, r.op = .wb c → r.phase = .out → (s.fly.reqs.find? fun q => q.2.lineWb r.pa) = some (id, r) →
      ∃ t, exec (.sliceStore id) s = .next t ∧ mget t.fly.reqs id = some { r with phase := .back } ∧
        ∀ a, Bytes.at_ t.mem.bytes a = if r.pa ≤ a ∧ a < r.pa + 64 then lineByte r.data (a - r.pa) else Bytes.at_ s.mem.bytes a)

/-- R219, R224, R217: L1_REPLY writes the registers that wait for the reply and keeps the line, except for .cb and for classes N
and R; STORE_ACK of a D-class store that no scratch word shares leaves the line modified in the L1, and of an L-class store raises
pts to its time; L1_PROBE takes a copy away or makes it shared, and a modified one goes to memory. -/
def Sys2Proof.Claims.RepliesAcknowledgementsAndProbes : Prop :=
  (∀ (s : State) (id : Nat) (r : Req) z d sx cb lu ex, mget s.fly.reqs id = some r → id < s.nextId → r.phase = .back →
    r.op = .ld z d sx cb lu ex → ∃ t, exec (.l1Reply id 0) s = .next t ∧ mget t.fly.reqs id = none ∧ t.mem = s.mem ∧
      (∀ g, s.group r.who.core r.who.slot = some g → t.group r.who.core r.who.slot = some (g.loadReply r z d sx)) ∧
      (∀ c k, ¬(c = r.who.core ∧ k = r.who.slot) → t.group c k = s.group c k) ∧
      (cb = false → r.cls = 0 → r.stale = false → s.lostLink r.pa = false → (∀ l, mget (s.core r.who.core).l1 r.pa = some l → l.st = .lease) →
        ∃ l, mget (t.core r.who.core).l1 r.pa = some l ∧ l.data = r.data ∧
          l.poison = r.poison ∧ l.st = if ex then .modified else .shared) ∧
      (r.cls = 1 → r.wts ≤ t.pts r.who.core r.who.ctx) ∧ (cb = true → r.sts ≤ t.pts r.who.core r.who.ctx)) ∧
  (∀ (s : State) (id : Nat) (r : Req), mget s.fly.reqs id = some r → id < s.nextId → r.phase = .back →
    (r.op = .pref ∨ r.op = .prefEx) →
    ∃ t, exec (.l1Reply id 0) s = .next t ∧ mget t.fly.reqs id = none ∧ t.mem = s.mem ∧
      (∀ c k, t.group c k = s.group c k) ∧
      (r.cls = 0 → r.stale = false → s.lostLink r.pa = false → (∀ l, mget (s.core r.who.core).l1 r.pa = some l → l.st = .lease) →
        ∃ l, mget (t.core r.who.core).l1 r.pa = some l ∧ l.data = r.data ∧ l.pref = !r.used ∧
          l.st = if r.op = .prefEx then .modified else .shared)) ∧
  (∀ (s : State) (id : Nat) (r : Req) lu inL1, mget s.fly.reqs id = some r → id < s.nextId → r.phase = .back → r.op = .st lu inL1 →
    r.pa % 64 = 0 → (∀ p ∈ s.fly.scrProbes, p.2.req ≠ id) →
    (r.cls = 0 → lu = false → s.lostLink r.pa = false → s.sharers r.pa (wordsTouched r.mask) = []) →
    ∃ t, exec (.storeAck id) s = .next t ∧ mget t.fly.reqs id = none ∧
      (∀ c k, t.group c k = s.group c k) ∧
      (r.cls = 1 → r.wts ≤ t.pts r.who.core r.who.ctx ∧ t.mem = s.mem) ∧
      (r.cls = 0 → lu = false → s.lostLink r.pa = false →
        ∃ l, mget (t.core r.who.core).l1 r.pa = some l ∧ l.st = .modified ∧
          ∀ i, i < 64 → r.mask.getLsbD i = true → lineByte l.data i = lineByte r.data i)) ∧
  (∀ (s : State) (id : Nat) (r : Req) c, mget s.fly.reqs id = some r → r.phase = .back → r.op = .wb c →
    (∀ p ∈ s.fly.scrProbes, p.2.req ≠ id) → exec (.storeAck id) s = .next (s.dropReq id)) ∧
  (∀ (s : State) (id : Nat) (p : Probe), mget s.fly.probes id = some p → s.fillOut p.core p.pa = false →
    (∀ l, mget (s.core p.core).l1 p.pa = some l → l.st = .lease) →
    exec (.l1Probe id) s = .next { s with fly := { s.fly with probes := mdel s.fly.probes id } }) ∧
  (∀ (s : State) (id : Nat) (p : Probe) (l : L1Line), mget s.fly.probes id = some p → s.fillOut p.core p.pa = false →
    mget (s.core p.core).l1 p.pa = some l → l.st ≠ .lease →
    ∃ t, exec (.l1Probe id) s = .next t ∧ mget t.fly.probes id = none ∧ (∀ c k, t.group c k = s.group c k) ∧
      (p.write = true → mget (t.core p.core).l1 p.pa = none) ∧
      (p.write = false → ∃ m, mget (t.core p.core).l1 p.pa = some m ∧ m.st = .shared ∧ m.data = l.data) ∧
      (l.st = .modified → ∀ a, Bytes.at_ t.mem.bytes a = if p.pa ≤ a ∧ a < p.pa + 64 then lineByte l.data (a - p.pa)
        else Bytes.at_ s.mem.bytes a) ∧
      (l.st ≠ .modified → ∀ a, Bytes.at_ t.mem.bytes a = Bytes.at_ s.mem.bytes a))

/-- HomeSliceServesReadsAndStores; RepliesAcknowledgementsAndProbes: all of these hold. -/
def Obligations.SlicesRepliesAndProbes : Prop :=
  Sys2Proof.Claims.HomeSliceServesReadsAndStores ∧ Sys2Proof.Claims.RepliesAcknowledgementsAndProbes

/-- R210, R211, R214: a walk that runs and finds a leaf fills the cluster's TLB and those of the cores that wait; one that finds
none tells the splits that wait, and a malformed entry posts event 12 with its address. A walk that does not run yet does not end. -/
def Obligations.WalksFillTheTlbs : Prop :=
  ∀ (s s1 : State) (id : Nat) (w : Walk), mget s.fly.walks id = some w →
    (w.running = false → exec (.walkDone id) s = .refused .eventNotDue) ∧
    (w.running = true →
      let s0 := ({ s with fly := { s.fly with walks := mdel s.fly.walks id } } : State)
      (∀ e, s0.walkFast w.cluster w.ctx (w.page * 2 ^ 16) = (.leaf e, s1) → ∃ t, exec (.walkDone id) s = .next t ∧
        (∀ c, c ∈ w.cores → ((t.core c).tlb.head?.map TlbEntry.pte) = some e) ∧
        ((t.cluster w.cluster).l2tlb.head?.map TlbEntry.pte) = some e ∧ t.fly = (s1.nextWalks w.cluster).fly ∧ t.mem = s1.mem) ∧
      (∀ hs mal, s0.walkFast w.cluster w.ctx (w.page * 2 ^ 16) = (.none_ hs mal, s1) →
        let s2 := match mal with | some a => s1.postEvent w.ctx 12 0 0 0 a | none => s1
        ∃ t, exec (.walkDone id) s = .next t ∧
          (∀ u ∈ w.waiters, (⟨u, w.page, hs⟩ : WalkMiss) ∈ t.fly.misses) ∧ t.mem = s2.mem ∧ t.cores = s2.cores))


namespace Sys2Proof.Claims
open Sys2Proof.Machine

/-! ### Synchronisation -/

/-- Nothing of the executing group is in flight or queued, no earlier instruction of it waits, its instruction has not begun its release, and its core's scratch
holds no mapped word and no marked halo entry: every release point of it is reached (R182, R183, R243, R256). -/
structure Idle (s : State) (x : Ex) : Prop where
  reqs : ∀ p ∈ s.fly.reqs, p.2.who.uid ≠ x.gr.uid
  touches : ∀ p ∈ s.fly.touches, p.2.who.uid ≠ x.gr.uid
  tests : ∀ p ∈ s.fly.tests, p.2.who.uid ≠ x.gr.uid
  pushes : ∀ p ∈ s.fly.pushes, p.2.who.uid ≠ x.gr.uid
  rows : ∀ m ∈ (s.core x.core).rows.xfers, m.2.who.uid ≠ x.gr.uid
  matrix : ∀ m ∈ (s.core x.core).mx.queue, m.who.uid ≠ x.gr.uid
  words : (s.core x.core).scratch.words = []
  halo : ∀ h ∈ (s.core x.core).scratch.halo, h.2.m = false
  half : x.sp.half = 0
  earlier : ∀ p ∈ x.gr.splits, p.2 = x.sp ∨ p.2.going = false
/-- A line stands in memory: no L1 holds it modified, no write-back of it is on its way, it can be reached (R217), and memory has
its canonical form. -/
structure AtHome (s : State) (pa : Nat) : Prop where
  owner : s.ownerOf pa = none
  back : ∀ p ∈ s.fly.reqs, p.2.lineWb pa = false
  link : s.lostLink pa = false
  wf : s.mem.wf = true
/-- The n bytes of memory at byte `off` of a line, as a number. -/
def lineNum (s : State) (ctx pa off n : Nat) : Nat := leNat (Bytes.read s.mem.bytes (memKey ctx pa + off) n)
/-- Memory changes in at most n bytes from byte `off` of a line. -/
def OnlyBytes (s t : State) (ctx pa off n : Nat) : Prop :=
  ∀ a, a < memKey ctx pa + off ∨ memKey ctx pa + off + n ≤ a → Bytes.at_ t.mem.bytes a = Bytes.at_ s.mem.bytes a
/-- Every group but the executing one is as it was. -/
def OtherGroups (s t : State) (x : Ex) : Prop := ∀ c k, ¬(c = x.core ∧ k = x.slot) → t.group c k = s.group c k
/-- The group after an instruction of n bytes that held it (R463): READY behind the instruction. -/
def passed (x : Ex) (n : Nat) : Group :=
  { x.gr with holder := none, splits := mmod x.gr.splits x.entry fun sp => { moved n sp with st := .ready } }
/-- The group while an instruction that holds it waits (R463). -/
def waiting (x : Ex) (w : Wait) : Group :=
  { x.gr with holder := some x.entry, splits := mmod x.gr.splits x.entry fun sp => { sp with st := .wait w } }
/-- The group behind an instruction of n bytes that completes. -/
def after (x : Ex) (n : Nat) : Group := { x.gr with splits := mmod x.gr.splits x.entry (moved n) }
/-- One more arrival at a barrier of a block (R265). -/
def arrived (n : Nat) (b : Block) : Block :=
  { b with bars := mset b.bars n ⟨(mgetD b.bars n {}).phase, (mgetD b.bars n {}).count + 1⟩ }
/-- The record of an object stands at pa (R249): object 0 at CTLA, as a privileged access. -/
def ObjAt (s : State) (x : Ex) (obj : DWord) (pa : Nat) : Prop :=
  let va := if obj = 0 then BitVec.ofNat 64 (s.ctx x.gr.ctx).regs.ctla else obj
  ∃ e, Lands s x { write := true, priv := obj == 0 } [0] 64 va e ∧ pa = ptePa e va.toNat
/-- A record that is not broken (R248), with its MODE, its count of holders and its RPTS. -/
structure RecordOk (s : State) (ctx pa mode shared rpts : Nat) : Prop where
  lock : lineNum s ctx pa 0 8 / 2 ^ 58 % 4 = mode
  count : lineNum s ctx pa 0 8 / 2 ^ 48 % 2 ^ 10 = shared
  time : lineNum s ctx pa 8 6 = rpts
  legal : mode ≠ 3
  brk : lineNum s ctx pa 0 8 / 2 ^ 60 = 0
  zeros : lineNum s ctx pa 4 2 = 0 ∧ lineNum s ctx pa 14 2 = 0 ∧ ∀ i, 24 ≤ i → i < 64 →
    Bytes.at_ s.mem.bytes (memKey ctx pa + i) = 0
/-- The status register of SYNC, where the form has one (R252). -/
def withStatus (u : Uniform) (o : SyncO) (n : Nat) : Uniform := if o.t then u.setS o.d.toNat (BitVec.ofNat 32 n) else u
/-- What a granted acquire of a kind leaves in the record (R250, R251). -/
def Granted (s t : State) (x : Ex) (kind pa : Nat) (shared : Nat) : Prop :=
  (kind = 0 → lineNum t x.gr.ctx pa 0 8 = 2 ^ 58 + shared * 2 ^ 48 +
    (x.gr.ctx * 2 ^ 26 + s.dev.pkg * 2 ^ 25 + x.core * 2 ^ 17 + x.slot * 2 ^ 8) ∧ OnlyBytes s t x.gr.ctx pa 0 8) ∧
  (kind = 1 → lineNum t x.gr.ctx pa 0 8 = 2 * 2 ^ 58 + (shared + 1) * 2 ^ 48 + lineNum s x.gr.ctx pa 0 4 ∧
    OnlyBytes s t x.gr.ctx pa 0 8) ∧
  (kind = 2 → ∀ a, Bytes.at_ t.mem.bytes a = Bytes.at_ s.mem.bytes a)
/-- The record admits a request of a kind and nobody waits for the object ahead of it (R250). -/
def Admitted (s : State) (kind pa mode shared id : Nat) : Prop :=
  (kind = 0 → mode = 0 ∧ ∀ w ∈ s.fly.syncs, w.1 < id → w.2.kind ≤ 1 → w.2.obj ≠ pa) ∧
  (kind = 1 → mode ≠ 1 ∧ shared < 1023 ∧ ∀ w ∈ s.fly.syncs, w.1 < id → w.2.kind = 0 → w.2.obj ≠ pa) ∧ (kind = 2 → mode ≠ 1)
/-- SYNC.ACQ of a kind completes at once where the record admits it (R250), of a context that has not lost its other package (R435);
where the record does not, the split waits in the order of the object's home slice. -/
def Acquires (i : SyncO → Instr) (kind : Nat) : Prop :=
  ∀ s x o pa mode shared rpts, s.running = some x → Idle s x → ObjAt s x (x.uni.pair o.a.toNat) pa → AtHome s pa →
    x.gr.ctx < 64 → x.core < 256 → x.slot < 512 → s.dev.pkg < 2 → (s.ctx x.gr.ctx).peerLost = false →
    RecordOk s x.gr.ctx pa mode shared rpts → (x.uni.pair o.a.toNat).toNat ∉ x.gr.holds → x.gr.holds.length < 8 →
    (Admitted s kind pa mode shared s.nextId →
      ∃ t, exec (i o) s = .next t ∧ OtherGroups s t x ∧ Granted s t x kind pa shared ∧ rpts ≤ t.pts x.core x.gr.ctx ∧
        t.group x.core x.slot = some { passed x 4 with
          holds := if kind = 2 then x.gr.holds else x.gr.holds ++ [(x.uni.pair o.a.toNat).toNat],
          uni := withStatus x.gr.uni o 0 }) ∧
    (¬Admitted s kind pa mode shared s.nextId →
      ∃ t w, exec (i o) s = .next t ∧ OtherGroups s t x ∧
        (∀ a, Bytes.at_ t.mem.bytes a = Bytes.at_ s.mem.bytes a) ∧
        t.group x.core x.slot = some (waiting x (.sync s.nextId)) ∧
        mget t.fly.syncs s.nextId = some w ∧ w.obj = pa ∧ w.kind = kind ∧ w.broken = false ∧ w.who.uid = x.gr.uid)
/-- The semaphore at pa passes the address checks of R262, and its context has not lost its other package (R435). -/
structure SemaAt (s : State) (x : Ex) (a : BitVec 6) (pa : Nat) : Prop where
  lands : ∃ e, Lands s x { write := true } [0] 16 (x.uni.pair a.toNat) e ∧ pa = ptePa e (x.uni.pair a.toNat).toNat
  home : AtHome s (pa / 64 * 64)
  paired : (s.ctx x.gr.ctx).peerLost = false
/-- It can be used: its generation is the one given and not that of a broken one, and word t holds the tag given. -/
structure SemaOk (s : State) (x : Ex) (a b : BitVec 6) (t pa : Nat) : Prop extends SemaAt s x a pa where
  gen : lineNum s x.gr.ctx (pa / 64 * 64) (pa % 64 + 12) 4 = (x.uni.sr (b.toNat + 1)).toNat
  alive : (x.uni.sr (b.toNat + 1)).toNat ≠ 0xFFFFFFFF
  tag : lineNum s x.gr.ctx (pa / 64 * 64) (pa % 64 + 4 * t) 4 = (x.uni.sr b.toNat).toNat
/-- The count of the semaphore at pa. -/
def semaCount (s : State) (ctx pa : Nat) : Nat := lineNum s ctx (pa / 64 * 64) (pa % 64) 4

end Sys2Proof.Claims

/-! ### Synchronisation objects, fences, semaphores and barriers -/

/-- R250, R251, R252: SYNC.ACQ.X, SYNC.ACQ.S and SYNC.ACQ.O are granted at once where the record admits them and no request waits
ahead: the record names the holder or counts it, the group holds the object (but after ACQ.O), its program time reaches that of
the last release, and the status is 0; else they wait. A group that holds the object already gets status 2 and nothing changes.
R435: in a context that has lost its other package, an object that a group there holds exclusively is broken, and gives status
1; the record tells it (log 86). -/
def Sys2Proof.Claims.AcquiresAreGranted : Prop :=
  Acquires .syncAcqX 0 ∧ Acquires .syncAcqS 1 ∧ Acquires .syncAcqO 2 ∧
  ∀ s x o pa mode shared rpts, s.running = some x → Idle s x → ObjAt s x (x.uni.pair o.a.toNat) pa → AtHome s pa →
    RecordOk s x.gr.ctx pa mode shared rpts → o.t = true →
    ∀ i ∈ [Instr.syncAcqX o, .syncAcqS o, .syncAcqO o],
      ((s.ctx x.gr.ctx).peerLost = false → (x.uni.pair o.a.toNat).toNat ∈ x.gr.holds → ∃ t, exec i s = .next t ∧ OtherGroups s t x ∧
        (∀ a, Bytes.at_ t.mem.bytes a = Bytes.at_ s.mem.bytes a) ∧
        t.group x.core x.slot = some { passed x 4 with uni := withStatus x.gr.uni o 2 }) ∧
      ((s.ctx x.gr.ctx).peerLost = true → mode = 1 → lineNum s x.gr.ctx pa 0 4 / 2 ^ 26 = x.gr.ctx →
        lineNum s x.gr.ctx pa 0 4 / 2 ^ 25 % 2 ≠ s.dev.pkg → ∃ t, exec i s = .next t ∧ OtherGroups s t x ∧
        t.group x.core x.slot = some { passed x 4 with uni := withStatus x.gr.uni o 1 })

/-- R250, R251: SYNC.REL of an object that the group holds frees a record of MODE 1, takes one holder from a record of MODE 2,
and leaves RPTS at least the group's program time; the group holds the object no more. -/
def Sys2Proof.Claims.ReleaseFreesTheObject : Prop :=
  ∀ s x (o : SyncO) pa mode shared rpts, s.running = some x → Idle s x → ObjAt s x (x.uni.pair o.a.toNat) pa → AtHome s pa →
    RecordOk s x.gr.ctx pa mode shared rpts → (x.uni.pair o.a.toNat).toNat ∈ x.gr.holds →
    rpts < 2 ^ 48 → s.pts x.core x.gr.ctx < 2 ^ 48 → SliceRoom s pa →
    ∃ t, exec (.syncRel o) s = .next t ∧ OtherGroups s t x ∧ OnlyBytes s t x.gr.ctx pa 0 14 ∧
      lineNum t x.gr.ctx pa 8 6 = max rpts (s.pts x.core x.gr.ctx) ∧
      (mode = 0 → lineNum t x.gr.ctx pa 0 8 = lineNum s x.gr.ctx pa 0 8) ∧
      (mode = 1 → lineNum t x.gr.ctx pa 0 8 = shared * 2 ^ 48) ∧
      (mode = 2 → lineNum t x.gr.ctx pa 0 8 / 2 ^ 58 = (if shared ≤ 1 then 0 else 2) ∧
        lineNum t x.gr.ctx pa 0 8 / 2 ^ 48 % 2 ^ 10 = shared - 1) ∧
      s.pts x.core x.gr.ctx ≤ (t.ctx x.gr.ctx).floor ∧
      t.group x.core x.slot = some { passed x 4 with
        holds := x.gr.holds.filter fun h => h ≠ (x.uni.pair o.a.toNat).toNat, uni := withStatus x.gr.uni o 0 }

/-- R250, R252: a waiting acquire is granted once its record admits it and no acquire that goes ahead of it waits for the object; one
whose record is broken ends with status 1; one that the record does not admit, or that waits behind another, stays. -/
def Sys2Proof.Claims.WaitingAcquiresAreGranted : Prop :=
  ∀ (s : State) (id : Nat) (w : SyncWait) (x : Ex) mode shared rpts, mget s.fly.syncs id = some w →
    s.exAt w.who.core w.who.slot w.who.entry = some x → x.gr.uid = w.who.uid → w.kind ≤ 2 → AtHome s w.obj →
    x.gr.ctx < 64 → x.core < 256 → x.slot < 512 → s.dev.pkg < 2 → w.obj % 64 = 0 →
    (s.core x.core).scratch.words = [] → RecordOk s x.gr.ctx w.obj mode shared rpts →
    (w.broken = false → Admitted s w.kind w.obj mode shared id →
      ∃ t, exec (.syncGrant id) s = .next t ∧ OtherGroups s t x ∧ Granted s t x w.kind w.obj shared ∧
        mget t.fly.syncs id = none ∧ rpts ≤ t.pts x.core x.gr.ctx ∧
        t.group x.core x.slot = some { passed x 4 with
          holds := if w.kind = 2 then x.gr.holds else x.gr.holds ++ [w.name],
          uni := if w.st then x.gr.uni.setS w.d 0 else x.gr.uni }) ∧
    (w.broken = true → w.st = true → ∃ t, exec (.syncGrant id) s = .next t ∧ OtherGroups s t x ∧
      mget t.fly.syncs id = none ∧ (∀ a, Bytes.at_ t.mem.bytes a = Bytes.at_ s.mem.bytes a) ∧
      t.group x.core x.slot = some { passed x 4 with uni := x.gr.uni.setS w.d 1 }) ∧
    (w.broken = false → ¬Admitted s w.kind w.obj mode shared id → exec (.syncGrant id) s = .refused .eventNotDue)

/-- AcquiresAreGranted; ReleaseFreesTheObject; WaitingAcquiresAreGranted: all of these hold. -/
def Obligations.SynchronisationObjects : Prop :=
  Sys2Proof.Claims.AcquiresAreGranted ∧ Sys2Proof.Claims.ReleaseFreesTheObject ∧
  Sys2Proof.Claims.WaitingAcquiresAreGranted

/-- R253, R254: SBIND takes the lowest free entry of the binding table for a range that is aligned to 64 and overlaps no entry,
answers its index and notes it in the object's record; an overlap answers 0x101 and a bad range 0x103, with nothing bound.
SUNBIND frees the entry of a base and answers 0, and answers 0x104 where no entry has that base. -/
def Obligations.BindingTableInstructions : Prop :=
  ∀ s x, s.running = some x →
    (∀ (o : U3n) pa i, ObjAt s x (x.uni.pair o.a.toNat) pa →
      let base := (x.uni.pair o.b.toNat).toNat
      let len := (x.uni.sr (o.b.toNat + 2)).toNat
      let b := (s.ctx x.gr.ctx).binds
      (base % 64 = 0 → len % 64 = 0 → len ≠ 0 → base + len ≤ 2 ^ 48 → i < 256 → mget b i = none →
        (∀ k, k < i → mget b k ≠ none) → (∀ p ∈ b, ¬(p.2.base < base + len ∧ base < p.2.base + p.2.len)) → AtHome s pa →
        ∃ t, exec (.sbind o) s = .next t ∧ OtherGroups s t x ∧ OnlyBytes s t x.gr.ctx pa 20 4 ∧
          mget (t.ctx x.gr.ctx).binds i = some ⟨base, len, (x.uni.pair o.a.toNat).toNat⟩ ∧
          (∀ k, k ≠ i → mget (t.ctx x.gr.ctx).binds k = mget b k) ∧
          t.group x.core x.slot = some { after x 4 with uni := x.gr.uni.setS o.d.toNat (BitVec.ofNat 32 i) }) ∧
      ((base % 64 ≠ 0 ∨ len % 64 ≠ 0 ∨ len = 0) → ∃ t g, exec (.sbind o) s = .next t ∧ OnlyGroup s t x g ∧
        g = { after x 4 with uni := x.gr.uni.setS o.d.toNat 0x103 }) ∧
      (base % 64 = 0 → len % 64 = 0 → len ≠ 0 → base + len ≤ 2 ^ 48 →
        (∃ p ∈ b, p.2.base < base + len ∧ base < p.2.base + p.2.len) →
        ∃ t g, exec (.sbind o) s = .next t ∧ OnlyGroup s t x g ∧
          g = { after x 4 with uni := x.gr.uni.setS o.d.toNat 0x101 })) ∧
    (∀ o : U2,
      let base := (x.uni.pair o.a.toNat).toNat
      ((∀ p ∈ (s.ctx x.gr.ctx).binds, p.2.base ≠ base) → ∃ t g, exec (.sunbind o) s = .next t ∧ OnlyGroup s t x g ∧
        g = { after x 4 with uni := x.gr.uni.setS o.d.toNat 0x104 }) ∧
      (∀ i p, mget (s.ctx x.gr.ctx).binds i = some p → p.base = base →
        (∀ q ∈ (s.ctx x.gr.ctx).binds, q.2.base = base → q.1 = i) →
        ∃ t, exec (.sunbind o) s = .next t ∧ OtherGroups s t x ∧ mget (t.ctx x.gr.ctx).binds i = none ∧
          (∀ k, k ≠ i → mget (t.ctx x.gr.ctx).binds k = mget (s.ctx x.gr.ctx).binds k) ∧
          t.group x.core x.slot = some { after x 4 with uni := x.gr.uni.setS o.d.toNat 0 }))

/-- R255, R256: a FENCE of any kind and scope completes where no access of the group is in flight and nothing is to be written back;
it changes nothing but that the stores behind a FENCE.rel or FENCE.full are release points from then on (R243). -/
def Sys2Proof.Claims.FencesComplete : Prop :=
  ∀ s x (o : FenO), s.running = some x → Idle s x →
    ∀ p ∈ [(Instr.fenceAcq o, false), (.fenceRel o, true), (.fenceFull o, true)],
      ∃ t, exec p.1 s = .next t ∧ OtherGroups s t x ∧ t.mem = s.mem ∧ t.fly = s.fly ∧ t.blocks = s.blocks ∧ t.dev = s.dev ∧
        t.group x.core x.slot = some { after x 4 with holder := none, fenced := x.gr.fenced || p.2 }

/-- R262, R263: SEMA.SIG adds 1 to the count; SEMA.WAIT and SEMA.TRY take 1 from a count that is not 0; SEMA.TRY of a count of
0 answers 0 and SEMA.WAIT waits. A broken semaphore raises cause 0x15 with s61 = 1; another generation than the one given raises
cause 0x16 with s61 = 2, and else another tag with s61 = 1; a SEMA.SIG of a full count raises it with s61 = 3, and a SEMA.WAIT behind one
that waits with s61 = 4. A count given later is taken by the split that waits. -/
def Sys2Proof.Claims.SemaphoreInstructions : Prop :=
  (∀ s x, s.running = some x → Idle s x →
    (∀ (i : Instr) (a b : BitVec 6) (w pa : Nat), SemaAt s x a pa →
      (∃ o : Uabn, (i = .semaSig o ∧ w = 1 ∨ i = .semaWait o ∧ w = 2 ∧ x.sp.half = 0) ∧ a = o.a ∧ b = o.b) ∨
        (∃ o : U3n, i = .semaTry o ∧ w = 2 ∧ a = o.a ∧ b = o.b) →
      let gen := lineNum s x.gr.ctx (pa / 64 * 64) (pa % 64 + 12) 4
      let tag := lineNum s x.gr.ctx (pa / 64 * 64) (pa % 64 + 4 * w) 4
      (gen = 0xFFFFFFFF → exec i s = trapAt s x 0x15 x.sp.mask 0 1) ∧
      (gen ≠ 0xFFFFFFFF → gen ≠ (x.uni.sr (b.toNat + 1)).toNat → exec i s = trapAt s x 0x16 x.sp.mask 0 2) ∧
      (gen ≠ 0xFFFFFFFF → gen = (x.uni.sr (b.toNat + 1)).toNat → tag ≠ (x.uni.sr b.toNat).toNat →
        exec i s = trapAt s x 0x16 x.sp.mask 0 1)) ∧
    (∀ (o : Uabn) pa, SemaOk s x o.a o.b 1 pa → semaCount s x.gr.ctx pa = 0xFFFFFFFF →
      ∃ t, exec (.semaSig o) s = trapAt t x 0x16 x.sp.mask 0 3 ∧ OtherGroups s t x ∧ t.mem = s.mem) ∧
    (∀ (o : Uabn) pa, SemaOk s x o.a o.b 2 pa → (∃ w ∈ s.fly.semas, w.2.pa = pa) →
      exec (.semaWait o) s = trapAt s x 0x16 x.sp.mask 0 4) ∧
    (∀ (o : Uabn) pa, SemaOk s x o.a o.b 1 pa → semaCount s x.gr.ctx pa ≠ 0xFFFFFFFF → SliceRoom s (pa / 64 * 64) →
      ∃ t, exec (.semaSig o) s = .next t ∧ OtherGroups s t x ∧ semaCount t x.gr.ctx pa = semaCount s x.gr.ctx pa + 1 ∧
        OnlyBytes s t x.gr.ctx (pa / 64 * 64) (pa % 64) 4 ∧
        t.group x.core x.slot = some { after x 4 with holder := none }) ∧
    (∀ (o : Uabn) pa, SemaOk s x o.a o.b 2 pa → (∀ w ∈ s.fly.semas, w.2.pa ≠ pa) →
      (semaCount s x.gr.ctx pa ≠ 0 → ∃ t, exec (.semaWait o) s = .next t ∧ OtherGroups s t x ∧
        semaCount t x.gr.ctx pa = semaCount s x.gr.ctx pa - 1 ∧ OnlyBytes s t x.gr.ctx (pa / 64 * 64) (pa % 64) 4 ∧
        t.group x.core x.slot = some { after x 4 with holder := none }) ∧
      (semaCount s x.gr.ctx pa = 0 → ∃ t, exec (.semaWait o) s = .next t ∧ OtherGroups s t x ∧
        (∀ a, Bytes.at_ t.mem.bytes a = Bytes.at_ s.mem.bytes a) ∧
        t.group x.core x.slot = some (waiting x (.sema s.nextId)) ∧
        ∃ w, mget t.fly.semas s.nextId = some w ∧ w.pa = pa ∧ w.who.uid = x.gr.uid)) ∧
    (∀ (o : U3n) pa, SemaOk s x o.a o.b 2 pa → semaCount s x.gr.ctx pa = 0 ∨ (∀ w ∈ s.fly.semas, w.2.pa ≠ pa) →
      ∃ t, exec (.semaTry o) s = .next t ∧ OtherGroups s t x ∧
      semaCount t x.gr.ctx pa = semaCount s x.gr.ctx pa - 1 ∧ OnlyBytes s t x.gr.ctx (pa / 64 * 64) (pa % 64) 4 ∧
      t.group x.core x.slot = some { after x 4 with holder := none, uni := x.gr.uni.setS o.d.toNat (if semaCount s x.gr.ctx pa = 0 then 0 else 1) })) ∧
  ∀ (s : State) (id : Nat) (w : SemaWait) (x : Ex), mget s.fly.semas id = some w →
    s.exAt w.who.core w.who.slot w.who.entry = some x → x.gr.uid = w.who.uid → AtHome s (w.pa / 64 * 64) → w.pa % 16 = 0 →
    (s.core x.core).scratch.words = [] → x.sp.latch ≠ none → s.loadsDone x = true →
    lineNum s x.gr.ctx (w.pa / 64 * 64) (w.pa % 64 + 12) 4 = w.gen.toNat → w.gen.toNat ≠ 0xFFFFFFFF →
    lineNum s x.gr.ctx (w.pa / 64 * 64) (w.pa % 64 + 8) 4 = w.tag.toNat →
    (semaCount s x.gr.ctx w.pa ≠ 0 → ∃ t, exec (.semaCountTaken id) s = .next t ∧ OtherGroups s t x ∧
      mget t.fly.semas id = none ∧ semaCount t x.gr.ctx w.pa = semaCount s x.gr.ctx w.pa - 1 ∧
      OnlyBytes s t x.gr.ctx (w.pa / 64 * 64) (w.pa % 64) 4 ∧ t.group x.core x.slot = some (passed x 4)) ∧
    (semaCount s x.gr.ctx w.pa = 0 → exec (.semaCountTaken id) s = .refused .eventNotDue)

/-- FencesComplete; SemaphoreInstructions: all of these hold. -/
def Obligations.FencesAndSemaphores : Prop :=
  Sys2Proof.Claims.FencesComplete ∧ Sys2Proof.Claims.SemaphoreInstructions

/-- R264, R265: BAR.ARR counts the group in the current phase and goes on; BAR.SYNC counts it and waits; BAR.WAIT of a phase that
has passed, or without an arrival, goes on, and of one that has not waits; so does a BAR.SYNC that has arrived. Once every group of the block that has not ended has arrived, the phase
passes, and each split that waits for it goes on at its next instruction. An arrival of a group that has ended since is still counted
(log 43). -/
def Obligations.BarrierInstructions : Prop :=
  (∀ s x b, s.running = some x → Idle s x → mget s.blocks x.gr.blk = some b →
    (∀ o : BarO, (mgetD x.gr.bars o.n.toNat {}).arrived = false →
      (∃ t, exec (.barArr o) s = .next t ∧ OtherGroups s t x ∧ t.mem = s.mem ∧
        t.blocks = mmod s.blocks x.gr.blk (arrived o.n.toNat) ∧
        t.group x.core x.slot = some { after x 4 with holder := none, bars := mset x.gr.bars o.n.toNat ⟨true, some (mgetD b.bars o.n.toNat {}).phase⟩ }) ∧
      (∃ t, exec (.barSync o) s = .next t ∧ OtherGroups s t x ∧ t.mem = s.mem ∧
        t.blocks = mmod s.blocks x.gr.blk (arrived o.n.toNat) ∧
        t.group x.core x.slot = some { waiting x (.bar o.n.toNat) with
          splits := mmod x.gr.splits x.entry (fun sp => { sp with half := 2, st := .wait (.bar o.n.toNat) }),
          bars := mset x.gr.bars o.n.toNat ⟨true, some (mgetD b.bars o.n.toNat {}).phase⟩ })) ∧
    (∀ (o : BarO) p, (mgetD x.gr.bars o.n.toNat {}).last = some p →
      (p < (mgetD b.bars o.n.toNat {}).phase → ∃ t, exec (.barWait o) s = .next t ∧ OtherGroups s t x ∧ t.mem = s.mem ∧
        t.blocks = s.blocks ∧
        t.group x.core x.slot = some { after x 4 with holder := none, bars := mset x.gr.bars o.n.toNat { mgetD x.gr.bars o.n.toNat {} with last := none } }) ∧
      ((mgetD b.bars o.n.toNat {}).phase ≤ p → ∃ t, exec (.barWait o) s = .next t ∧ OtherGroups s t x ∧ t.mem = s.mem ∧
        t.blocks = s.blocks ∧
        t.group x.core x.slot = some (waiting x (.bar o.n.toNat)))) ∧
    (∀ o : BarO, (mgetD x.gr.bars o.n.toNat {}).last = none → ∃ t, exec (.barWait o) s = .next t ∧ OtherGroups s t x ∧
      t.mem = s.mem ∧ t.blocks = s.blocks ∧ t.group x.core x.slot = some { after x 4 with holder := none })) ∧
  (∀ s x b (o : BarO) p, s.running = some x → mget s.blocks x.gr.blk = some b → s.acqBusy x = false → s.syncBusy x = false →
    x.sp.half = 2 → (mgetD x.gr.bars o.n.toNat {}).last = some p → p < (mgetD b.bars o.n.toNat {}).phase →
    ∃ t, exec (.barSync o) s = .next t ∧ OtherGroups s t x ∧ t.mem = s.mem ∧ t.blocks = s.blocks ∧
      t.group x.core x.slot = some { after x 4 with holder := none, bars := mset x.gr.bars o.n.toNat { mgetD x.gr.bars o.n.toNat {} with last := none } }) ∧
  ∀ (s : State) (blk n core : Nat) (b : Block), mget s.blocks blk = some b → b.ended.length < b.groups →
    (∀ c k g, s.group c k = some g → g.blk = blk → c = core) →
    ((mgetD b.bars n {}).count + b.ended.length < b.groups → exec (.barPhaseComplete blk n) s = .refused .eventNotDue) ∧
    (b.groups ≤ (mgetD b.bars n {}).count + b.ended.length → (∃ k g, s.group core k = some g ∧ g.blk = blk) →
      s.blockSaved b.core blk = false → Map.sorted s.cores = true → (∀ c, Map.sorted (s.core c).groups = true) →
      ∃ t b', exec (.barPhaseComplete blk n) s = .next t ∧ t.mem = s.mem ∧ t.fly = s.fly ∧ mget t.blocks blk = some b' ∧
        (mgetD b'.bars n {}).phase = (mgetD b.bars n {}).phase + 1 ∧ (∀ m, m ≠ n → mget b'.bars m = mget b.bars m) ∧
        (∀ k, k ≠ blk → mget t.blocks k = mget s.blocks k) ∧
        (∀ c k g, s.group c k = some g → g.blk ≠ blk → t.group c k = some g) ∧
        ∀ k g e sp, s.group core k = some g → g.blk = blk → mget g.splits e = some sp → sp.st = .wait (.bar n) →
          Map.sorted g.splits = true →
          (∀ f q, f ≠ e → mget g.splits f = some q → ∀ w, q.st ≠ .wait w) →
          ∃ g' q, t.group core k = some g' ∧ mget g'.splits e = some q ∧ q.st = .ready ∧ q.pc = Pc.plus sp.pc 4 ∧
            (mgetD g'.bars n {}).arrived = false ∧ g'.lanes = g.lanes ∧ g'.uni = g.uni)

namespace Sys2Proof.Claims
open Sys2Proof.Machine

/-! ### Scratch and atomics -/

/-- The n bytes of a core's scratch at an offset, as a number. -/
def scrNum (s : State) (core off n : Nat) : Nat := leNat (Bytes.read (s.core core).scratch.bytes off n)
/-- The lanes' scratch addresses lie in the block's own window w (field 31, R168), aligned, with no mapping in the core, and
nothing poisoned. -/
structure OwnScratch (s : State) (x : Ex) (act : Mask) (w : Window) (z : Nat) (ea : Nat → Nat) : Prop where
  win : s.blockWin x.core x.gr.blk = some w
  plain : ∀ p ∈ (s.core x.core).scratch.wins, p.2.maps = []
  lanes : ∀ l, Mask.has act l = true → ea l / 2 ^ 20 = 31 ∧ ea l % z = 0 ∧ ea l % 2 ^ 20 + z ≤ w.len
  clean : (s.core x.core).scratch.poison = []
/-- Everything outside the executing core's groups, scratch and counters, and outside ids, times and floors, is as it was. -/
structure InScratch (s t : State) (x : Ex) : Prop where
  groups : OtherGroups s t x
  memory : t.mem = s.mem
  fly : t.fly = s.fly
  cores : ∀ c, c ≠ x.core → t.core c = s.core c
  blocks : t.blocks = s.blocks
  dev : t.dev = s.dev
/-- New value of an atomic operation on z bytes (R195, R257), from the old one, b, and the second operand of cas. -/
def updated (op z old b c : Nat) : Nat :=
  let i := fun (n : Nat) => (BitVec.ofNat (8 * z) n).toInt
  match op with
  | 0 => (old + b) % 2 ^ (8 * z)
  | 1 => if i old ≤ i b then old else b
  | 2 => if i old ≥ i b then old else b
  | 3 => min old b
  | 4 => max old b
  | 5 => old &&& b
  | 6 => old ||| b
  | 7 => old ^^^ b
  | 8 => b
  | 9 => if old = b then c else old
  | 10 => (fAdd fF32 .rn false old b).1
  | 11 => old
  | _ => b
/-- The operand and the second operand of cas, in the registers of a lane from b on. -/
def operandOf (ln : Lane) (b z : Nat) : Nat := if z = 8 then (ln.vPair b).toNat else (ln.v b).toNat
def secondOf (ln : Lane) (b z : Nat) : Nat := if z = 8 then (ln.vPair (b + 2)).toNat else (ln.v (b + 1)).toNat
/-- A request at its home slice that can be served now, for a line that stands in memory unpoisoned. -/
structure Served (s : State) (id : Nat) (r : Req) : Prop where
  here : mget s.fly.reqs id = some r
  out : r.phase = .out
  free : s.sliceBusy id r = false
  probes : r.probed = true ∨ s.needed r = []
  home : AtHome s r.pa
  clean : Poison.line s.mem.poison (memKey r.who.ctx r.pa) = 0
  cls : r.cls ≤ 1
  line : r.pa % 64 = 0
  times : r.cls = 1 → s.timesFull = false
  room : SliceRoom s r.pa
/-- What the step of one lane's atomic operation does to memory. -/
def Updates (s t : State) (r : Req) (k : LaneAcc) (op z : Nat) : Prop :=
  OnlyBytes s t r.who.ctx r.pa k.off z ∧
  lineNum t r.who.ctx r.pa k.off z = updated op z (lineNum s r.who.ctx r.pa k.off z) (k.val.toNat % 2 ^ (8 * z))
    (k.val.toNat / 2 ^ (8 * z) % 2 ^ (8 * z)) % 2 ^ (8 * z)

end Sys2Proof.Claims

/-! ### Scratch -/

/-- R171, R193, R194, R195, R196: SLD, SST and SATOM of plain scratch of the own window complete at once. SLD fills the
registers with the bytes from the lane's place; SST stores each lane's bytes, those of a higher lane over those of a lower one;
SATOM of lanes with different places gives each lane the old value and stores the new one. No byte of memory changes. -/
def Sys2Proof.Claims.ScratchAccesses : Prop :=
  ∀ s x w, s.running = some x → Idle s x →
    (∀ o : LmO,
      let z := 2 ^ o.z.toNat
      let ea := fun l => scrEa (x.gr.lane l) l o.a o.off o.s z
      o.z.toNat ≤ 4 → x.active o.g ≠ 0 → OwnScratch s x (x.active o.g) w z ea →
      ∃ t g, exec (.sld o) s = .next t ∧ t.group x.core x.slot = some g ∧ InScratch s t x ∧ MovedOn x g (offLen o.off) ∧
        (t.core x.core).scratch = (s.core x.core).scratch ∧
        (∀ l, Mask.has (x.active o.g) l = true → g.lane l =
          (x.gr.lane l).load o.d.toNat z (o.k == 1) (scrNum s x.core (w.off + ea l % 2 ^ 20) z, false)) ∧
        ∀ l, Mask.has (x.active o.g) l = false → g.lane l = x.gr.lane l) ∧
    (∀ o : SstO,
      let z := 2 ^ o.z.toNat
      let ea := fun l => scrEa (x.gr.lane l) l o.a o.off o.s z
      let at_ := fun l => w.off + ea l % 2 ^ 20
      o.z.toNat ≤ 4 → x.active o.g ≠ 0 → OwnScratch s x (x.active o.g) w z ea →
      ∃ t g, exec (.sst o) s = .next t ∧ t.group x.core x.slot = some g ∧ InScratch s t x ∧ MovedOn x g (offLen o.off) ∧
        g.lanes = x.gr.lanes ∧ g.pend = x.gr.pend ∧
        (∀ l j, Mask.has (x.active o.g) l = true → j < z →
          (∀ m, l < m → Mask.has (x.active o.g) m = true → ¬(at_ m ≤ at_ l + j ∧ at_ l + j < at_ m + z)) →
          Bytes.at_ (t.core x.core).scratch.bytes (at_ l + j) = ((x.gr.lane l).storeBytes o.d.toNat z).getD j 0) ∧
        ∀ a, (∀ l, Mask.has (x.active o.g) l = true → ¬(at_ l ≤ a ∧ a < at_ l + z)) →
          Bytes.at_ (t.core x.core).scratch.bytes a = Bytes.at_ (s.core x.core).scratch.bytes a) ∧
    (∀ o : LaO,
      let z := 2 ^ o.size.toNat
      let ea := fun l => ((x.gr.lane l).v o.a.toNat + o.off.signExtend 32).toNat
      let at_ := fun l => w.off + ea l % 2 ^ 20
      o.size.toNat = 2 ∨ o.size.toNat = 3 → o.op.toNat ≤ 10 → x.active o.g ≠ 0 → OwnScratch s x (x.active o.g) w z ea →
      (∀ l m, Mask.has (x.active o.g) l = true → Mask.has (x.active o.g) m = true → l ≠ m → at_ l ≠ at_ m) → w.off % 8 = 0 →
      ∃ t g, exec (.satom o) s = .next t ∧ t.group x.core x.slot = some g ∧ InScratch s t x ∧ MovedOn x g 8 ∧
        (∀ l, Mask.has (x.active o.g) l = true →
          g.lane l = (x.gr.lane l).load o.d.toNat z false (scrNum s x.core (at_ l) z, false) ∧
          scrNum t x.core (at_ l) z = updated o.op.toNat z (scrNum s x.core (at_ l) z) (operandOf (x.gr.lane l) o.b.toNat z)
            (secondOf (x.gr.lane l) o.b.toNat z) % 2 ^ (8 * z)) ∧
        (∀ l, Mask.has (x.active o.g) l = false → g.lane l = x.gr.lane l) ∧
        ∀ a, (∀ l, Mask.has (x.active o.g) l = true → ¬(at_ l ≤ a ∧ a < at_ l + z)) →
          Bytes.at_ (t.core x.core).scratch.bytes a = Bytes.at_ (s.core x.core).scratch.bytes a)

/-- R172, R173, R60: an access of plain scratch of another core of the cluster completes at issue: it is on its way to that core with
each lane's place, the registers that it will write are pending, and no scratch has changed yet. -/
def Sys2Proof.Claims.RemoteScratchAccesses : Prop :=
  (∀ o : LmO, IdleGoesOn (.sld o) o.g (offLen o.off)) ∧ (∀ o : SstO, IdleGoesOn (.sst o) o.g (offLen o.off)) ∧
  (∀ o : LaO, IdleGoesOn (.satom o) o.g 8) ∧
  ∀ s x c, s.running = some x → Idle s x → c ≠ x.core →
    let there := fun (act : Mask) (z : Nat) (ea : Nat → Nat) (off : Nat → Nat) => act ≠ 0 ∧ ∀ l, Mask.has act l = true →
      s.scrAddr x.scr (ea l) z = .at_ c (off l) ∧ ea l % z = 0 ∧ s.mapAt c (off l) = none
    let sent := fun (i : Instr) (n : Nat) (act : Mask) (op : ScrOp) (off : Nat → Nat) => ∃ t g, exec i s = .next t ∧
      t.group x.core x.slot = some g ∧ OtherGroups s t x ∧ MovedOn x g n ∧ g.lanes = x.gr.lanes ∧ t.mem = s.mem ∧
      (∀ k, (t.core k).scratch = (s.core k).scratch) ∧
      (∃ id u, mget t.fly.touches id = some u ∧ u.at_ = c ∧ u.op = op ∧ u.remote = true ∧ u.who.uid = x.gr.uid ∧
        u.who.iid = s.nextId ∧ u.lanes.map (fun k => (k.lane, k.off)) = (lanesOf act).map fun l => (l, off l)) ∧
      ∀ d l j, op.dest = some d → Mask.has act l = true → j < max 1 (op.size / 4) →
        (⟨s.nextId, some l, .v (d + j)⟩ : Pend) ∈ g.pend
    (∀ (o : LmO) off, let z := 2 ^ o.z.toNat
      there (x.active o.g) z (fun l => scrEa (x.gr.lane l) l o.a o.off o.s z) off →
      sent (.sld o) (offLen o.off) (x.active o.g) (.sld z o.d.toNat (o.k == 1)) off) ∧
    (∀ (o : SstO) off, let z := 2 ^ o.z.toNat
      there (x.active o.g) z (fun l => scrEa (x.gr.lane l) l o.a o.off o.s z) off →
      sent (.sst o) (offLen o.off) (x.active o.g) (.sst z) off) ∧
    (∀ (o : LaO) off, let z := 2 ^ o.size.toNat
      there (x.active o.g) z (fun l => ((x.gr.lane l).v o.a.toNat + o.off.signExtend 32).toNat) off →
      sent (.satom o) 8 (x.active o.g) (.satom o.op.toNat z o.d.toNat o.order.toNat o.scope.toNat) off)

/-- R171, R194: a scratch address outside every window raises cause 0x09 with the address and the reason: 1 for a field from 24 to 30
or an address from 2^25 on, 2 for an offset past the own window. One of the own window that is not aligned to the access's size raises
cause 0x07 with the address in s60 and 0 in s61 (log 17). -/
def Sys2Proof.Claims.BadScratch (i : Instr) (gd : Guard) (z : Nat) (ea : Lane → Nat → Nat) : Prop :=
  ∀ s x (l : Nat), s.running = some x → (∀ k, Mask.has (x.active gd) k = true ↔ k = l) →
    let e := ea (x.gr.lane l) l
    ((24 ≤ e / 2 ^ 20 ∧ e / 2 ^ 20 ≤ 30 ∨ 32 ≤ e / 2 ^ 20) →
      exec i s = trapAt s x 9 (x.active gd) (BitVec.ofNat 32 e) 1) ∧
    ∀ w, s.blockWin x.core x.gr.blk = some w → e / 2 ^ 20 = 31 →
      (w.len < e % 2 ^ 20 + z → exec i s = trapAt s x 9 (x.active gd) (BitVec.ofNat 32 e) 2) ∧
      (e % 2 ^ 20 + z ≤ w.len → e % z ≠ 0 → exec i s = trapAt s x 7 (x.active gd) (BitVec.ofNat 32 e) 0)
/-- The accesses of SLD, SST and SATOM. -/
def Sys2Proof.Claims.BadScratchAddressesTrap : Prop :=
  (∀ o : LmO, Sys2Proof.Claims.BadScratch (.sld o) o.g (2 ^ o.z.toNat) fun ln l => scrEa ln l o.a o.off o.s (2 ^ o.z.toNat)) ∧
  (∀ o : SstO, Sys2Proof.Claims.BadScratch (.sst o) o.g (2 ^ o.z.toNat) fun ln l => scrEa ln l o.a o.off o.s (2 ^ o.z.toNat)) ∧
  (∀ o : LaO, Sys2Proof.Claims.BadScratch (.satom o) o.g (2 ^ o.size.toNat) fun ln _ =>
    (ln.v o.a.toNat + o.off.signExtend 32).toNat)

/-- BadGlobalAddressesTrap; BadScratchAddressesTrap: all of these hold. -/
def Obligations.BadAddressesTrap : Prop :=
  Sys2Proof.Claims.BadGlobalAddressesTrap ∧ Sys2Proof.Claims.BadScratchAddressesTrap

/-- R172, R178, R180, R181, R186, R414: what becomes of scratch accesses, fills, write-backs, probes and halo pushes in flight. That a
word changed since its write-back was sent stays DIRTY is log 26; pushes of one range reach its replicas in snake order. -/
def Sys2Proof.Claims.ScratchEventsTakeEffect : Prop :=
  ∀ (s : State) (id : Nat),
    (∀ (u : Touch) (k : LaneAcc) g, s.fly.touches = [(id, u)] → u.remote = true → u.lanes = [k] →
      mget (s.core u.at_).saved u.who.ctx = none → (s.windowAt u.at_ k.off u.op.size u.who.ctx).isSome = true →
      (∀ p ∈ (s.core u.at_).scratch.wins, p.2.maps = []) → (s.core u.at_).scratch.poison = [] →
      s.group u.who.core u.who.slot = some g → g.uid = u.who.uid →
      (∀ z d sx, u.op = .sld z d sx → ∃ t, exec (.scratchRemoteAccess id) s = .next t ∧ t.fly.touches = [] ∧ t.mem = s.mem ∧
        (t.core u.at_).scratch = (s.core u.at_).scratch ∧ t.group u.who.core u.who.slot =
          some ((g.deliver u.who.iid k.lane fun ln => ln.load d z sx (scrNum s u.at_ k.off z, false)).wake (.touch id))) ∧
      (∀ z, u.op = .sst z → ∃ t, exec (.scratchRemoteAccess id) s = .next t ∧ t.fly.touches = [] ∧ t.mem = s.mem ∧
        (∀ a, Bytes.at_ (t.core u.at_).scratch.bytes a = if k.off ≤ a ∧ a < k.off + z
          then BitVec.ofNat 8 (k.val.toNat / 256 ^ (a - k.off)) else Bytes.at_ (s.core u.at_).scratch.bytes a) ∧
        t.group u.who.core u.who.slot = some (g.wake (.touch id)))) ∧
    (∀ (f : Fill) (r : Req) i v, mget s.fly.fills id = some f → f.owner = none → f.index = none →
      (∀ q ∈ s.fly.fills, q.2.owner = none) → mget s.fly.reqs id = some r →
      r.phase = .back → s.fly.touches = [] → (∀ p ∈ s.fly.scrProbes, p.2.core ≠ f.core ∨ p.2.req ≠ 0) → s.fillAlive f = true → i < 16 → f.dropped.getLsbD i = false →
      s.mapAt f.core (f.off + 4 * i) = some v →
      (∀ w, mget (s.core f.core).scratch.words ((f.off + 4 * i) / 4) = some w → w.st = .pending) →
      ∃ t, exec (.scratchFillLand id) s = .next t ∧ mget t.fly.fills id = none ∧ mget t.fly.reqs id = none ∧ t.mem = s.mem ∧
        (∀ c k, t.group c k = s.group c k) ∧
        (mget (t.core f.core).scratch.words ((f.off + 4 * i) / 4)).map MWord.st = some .clean ∧
        ∀ b, b < 4 → Bytes.at_ (t.core f.core).scratch.bytes (f.off + 4 * i + b) = lineByte r.data (4 * i + b)) ∧
    (∀ (r : Req) core off i w, mget s.fly.reqs id = some r → r.op = .swb core off → r.phase = .back →
      (∀ p ∈ s.fly.scrProbes, p.2.req ≠ id ∧ p.2.core ≠ core) → i < 16 → r.mask.getLsbD (4 * i) = true → off % 4 = 0 →
      mget (s.core core).scratch.words (off / 4 + i) = some w → w.st = .dirty →
      ∃ t v, exec (.scratchWbAck id) s = .next t ∧ mget t.fly.reqs id = none ∧ t.mem = s.mem ∧
        (∀ c k, t.group c k = s.group c k) ∧ (t.core core).scratch.bytes = (s.core core).scratch.bytes ∧
        mget (t.core core).scratch.words (off / 4 + i) = some v ∧
        ((∀ b, b < 4 → Bytes.at_ (s.core core).scratch.bytes (off + 4 * i + b) = lineByte r.data (4 * i + b)) →
          v.st = .clean) ∧
        ((∃ b, b < 4 ∧ Bytes.at_ (s.core core).scratch.bytes (off + 4 * i + b) ≠ lineByte r.data (4 * i + b)) →
          v.st = .dirty)) ∧
    (∀ p : ScrProbe, mget s.fly.scrProbes id = some p → (∀ w, s.fillFor p.core w = false) →
      ∃ t, exec (.scratchProbe id) s = .next t ∧ mget t.fly.scrProbes id = none ∧ t.mem = s.mem ∧
        (∀ c k, t.group c k = s.group c k) ∧
        ∀ n w a, mget (s.core p.core).scratch.words n = some w → w.st = .clean → w.share = some a → p.pa ≤ a → a < p.pa + 64 →
          p.words.getLsbD ((a - p.pa) / 4) = true → mget (t.core p.core).scratch.words n = none) ∧
    (∀ (p : Push) w i v g, mget s.fly.pushes id = some p → p.arrived = false → s.blockWin p.core p.blk = some w →
      s.fly.touches = [] → p.data.length = p.len → i < p.len / 4 → s.mapAt p.core (p.dst + 4 * i) = some (v, g) →
      v.blk = p.blk → g.2.kind = .replica →
      (∀ q ∈ s.fly.pushes, q.2.arrived = false → (q.2.owner, q.2.off, q.2.len) = (p.owner, p.off, p.len) →
        p.path < q.2.path ∨ (q.2.path = p.path ∧ snakePos (p.core % 24) ≤ snakePos (q.2.core % 24)) ∨
        (q.2.path < p.path ∧ (q.2.core, q.2.dst) ≠ (p.core, p.dst))) →
      ∃ t, exec (.haloPushArrival id 0) s = .next t ∧ mget t.fly.pushes id = some { p with taken := true, arrived := true } ∧
        t.mem = s.mem ∧
        (∀ c k, t.group c k = s.group c k) ∧
        (mget (t.core p.core).scratch.words ((p.dst + 4 * i) / 4)).map MWord.st = some .clean ∧
        ∀ b, b < 4 → Bytes.at_ (t.core p.core).scratch.bytes (p.dst + 4 * i + b) = p.data.getD (4 * i + b) 0) ∧
    (∀ (p q : Push) k late, mget s.fly.pushes id = some p → mget s.fly.pushes k = some q → q.arrived = false →
      (q.owner, q.off, q.len) = (p.owner, p.off, p.len) → q.path = p.path → snakePos (q.core % 24) < snakePos (p.core % 24) →
      exec (.haloPushArrival id late) s = .refused .eventNotDue) ∧
    (∀ p : Push, mget s.fly.pushes id = some p → p.arrived = true →
      exec (.haloPushDone id) s = .next { s with fly := { s.fly with pushes := mdel s.fly.pushes id } })

/-- ScratchAccesses; RemoteScratchAccesses; ScratchEventsTakeEffect: all of these hold. -/
def Obligations.ScratchAccessesAndEvents : Prop :=
  Sys2Proof.Claims.ScratchAccesses ∧ Sys2Proof.Claims.RemoteScratchAccesses ∧ Sys2Proof.Claims.ScratchEventsTakeEffect

/-! ### Atomics and ordered reductions -/

/-- R257, R258, R259, R82: ATOM and RED of lanes whose addresses pass their checks complete at issue, once earlier accesses of the
group are performed: a request with each lane's operand goes to the home slice, ATOM's registers are pending, and no byte of
memory and no register changes yet. A lane of RED.ord carries its ticket. -/
def Sys2Proof.Claims.AtomicsAreSent : Prop :=
  (∀ o : LaO, IdleGoesOn (.atom o) o.g 8 ∧ IdleGoesOn (.red o) o.g 8) ∧
  ∀ s x (o : LaO) (pte : Nat → DWord), s.running = some x → Idle s x → FreshIds s → x.active o.g ≠ 0 →
    let z := 2 ^ o.size.toNat
    let va := fun l => (x.gr.lane l).vPair o.a.toNat + o.off.signExtend 64
    let pa := fun l => ptePa (pte l) (va l).toNat
    o.size.toNat = 2 ∨ o.size.toNat = 3 →
    (∀ l, Mask.has (x.active o.g) l = true → s.lineBusy x (lineAddr (pa l)) = false) →
    ((∀ l, Mask.has (x.active o.g) l = true → Lands s x { write := o.op != 11 } [0, 1] z (va l) (pte l)) →
      ∃ t g, exec (.atom o) s = .next t ∧ t.group x.core x.slot = some g ∧ OtherGroups s t x ∧ t.mem = s.mem ∧
        MovedOn x g 8 ∧ g.lanes = x.gr.lanes ∧ ∀ l, Mask.has (x.active o.g) l = true →
          (o.op.toNat ≠ 12 → ∀ i, i < z / 4 → (⟨s.nextId, some l, .v (o.d.toNat + i)⟩ : Pend) ∈ g.pend) ∧
          ∃ id r k, mget t.fly.reqs id = some r ∧ r.pa = lineAddr (pa l) ∧ r.who.uid = x.gr.uid ∧ r.who.iid = s.nextId ∧
            r.op = .atom o.op.toNat z o.d.toNat o.order.toNat o.scope.toNat ∧ k ∈ r.lanes ∧ k.lane = l ∧ k.off = pa l % 64 ∧
            k.val = (x.gr.lane l).atomVal o.b.toNat z o.op.toNat) ∧
    ((∀ l, Mask.has (x.active o.g) l = true → Lands s x { write := true } [0, 1] z (va l) (pte l)) →
      ∃ t g, exec (.red o) s = .next t ∧ t.group x.core x.slot = some g ∧ OtherGroups s t x ∧ t.mem = s.mem ∧
        Advances x.gr g x.entry 8 ∧ { g with splits := [] } = { x.gr with splits := [] } ∧
        ∀ l, Mask.has (x.active o.g) l = true →
          ∃ id r k, mget t.fly.reqs id = some r ∧ r.pa = lineAddr (pa l) ∧ r.who.uid = x.gr.uid ∧
            r.op = (if o.op.toNat < 16 then .red o.op.toNat z o.order.toNat else .redOrd o.op.toNat z o.order.toNat) ∧
            k ∈ r.lanes ∧ k.lane = l ∧ k.off = pa l % 64 ∧ k.val = (x.gr.lane l).atomVal o.b.toNat z o.op.toNat ∧
            k.ticket = (x.gr.lane l).v o.d.toNat)

/-- R258, R259: at the home slice the lowest lane of an ATOM or a RED that has not taken its step takes it: the word is read,
changed by the operation and, for ATOM, its old value written to the lane's registers. No other byte of memory changes. An
acquire of scope 4 or wider also fetches the core's mapped words anew; its effects are stated where there are none. -/
def Sys2Proof.Claims.AtomicsArePerformedAtTheSlice : Prop :=
  ∀ (s : State) (id : Nat) (r : Req) (k : LaneAcc) (rest : List LaneAcc) (z : Nat), Served s id r → r.lanes = k :: rest →
    s.laneTurn id r = true → z = 4 ∨ z = 8 → k.off + z ≤ 64 →
    (∀ op d order scope, r.op = .atom op z d order scope → op ≤ 12 → ∃ t, exec (.atomPerform id) s = .next t ∧
      ((order % 2 = 1 → 4 ≤ scope → (s.core r.who.core).scratch.words = []) →
      Updates s t r k op z ∧ (∀ q, mget t.fly.reqs id = some q → q.lanes = rest) ∧
      (rest = [] → mget t.fly.reqs id = none) ∧
      (∀ c n, ¬(c = r.who.core ∧ n = r.who.slot) → t.group c n = s.group c n) ∧
      ∀ g, s.group r.who.core r.who.slot = some g → g.uid = r.who.uid →
        t.group r.who.core r.who.slot = some (if op = 12 then g else
          g.deliver r.who.iid k.lane fun ln => ln.load d z false (lineNum s r.who.ctx r.pa k.off z, false)))) ∧
    (∀ op order, r.op = .red op z order → op ≤ 10 → ∃ t, exec (.redApply id) s = .next t ∧
      Updates s t r k op z ∧ (∀ q, mget t.fly.reqs id = some q → q.lanes = rest) ∧
      (rest = [] → mget t.fly.reqs id = none) ∧ ∀ c n, t.group c n = s.group c n)

/-- AtomicsAreSent; AtomicsArePerformedAtTheSlice: all of these hold. -/
def Obligations.AtomicOperations : Prop :=
  Sys2Proof.Claims.AtomicsAreSent ∧ Sys2Proof.Claims.AtomicsArePerformedAtTheSlice

/-- R260: ORDOPEN sends its request and stays at its instruction; the answer opens a window whose next ticket is t0 and whose
last is t0 + n − 1, and the split goes on. A line that has a window already, a count of 0 or above 2^24, a slice without a free
entry, or tickets past 2^32 − 1 open none. -/
def Sys2Proof.Claims.OrderedWindowsOpen : Prop :=
  (∀ s x (o : Uabn) e f, s.running = some x → s.opening x = false →
    Lands s x { write := true } [0, 1] 64 (x.uni.pair o.a.toNat) e →
    Lands s x { write := true } [0, 1] 4 (x.uni.pair o.b.toNat) f →
    ∃ t r, exec (.ordopen o) s = .next t ∧ t.mem = s.mem ∧ OtherGroups s t x ∧ mget t.fly.reqs s.nextId = some r ∧
      r.pa = lineAddr (ptePa e (x.uni.pair o.a.toNat).toNat) ∧
      r.op = .ordopen (ptePa f (x.uni.pair o.b.toNat).toNat) (pteClass f == 1) (x.uni.sr (o.b.toNat + 2)).toNat
        (x.uni.sr (o.b.toNat + 3)).toNat ∧
      t.group x.core x.slot = some x.gr ∧ t.held = true) ∧
  ∀ (s : State) (id : Nat) (r : Req) (x : Ex) done doneL n t0, mget s.fly.reqs id = some r → r.op = .ordopen done doneL n t0 →
    s.exAt r.who.core r.who.slot r.who.entry = some x → x.gr.uid = r.who.uid →
    (mget s.mem.windows r.pa = none → n ≠ 0 → n ≤ 2 ^ 24 → s.ordEntries r.pa < 256 → t0 + n ≤ 2 ^ 32 →
      ∃ t, exec (.ordopenAnswer id) s = .next t ∧ mget t.fly.reqs id = none ∧ t.mem.bytes = s.mem.bytes ∧ OtherGroups s t x ∧
        mget t.mem.windows r.pa = some ⟨r.who.ctx, done, doneL, n, t0, t0 + n - 1, 0⟩ ∧
        t.group x.core x.slot = some { x.gr with splits := mmod x.gr.splits x.entry fun sp =>
          { moved 4 sp with wins := countedWins x.gr sp } }) ∧
    (mget s.mem.windows r.pa ≠ none ∨ n = 0 ∨ 2 ^ 24 < n ∨ 256 ≤ s.ordEntries r.pa ∨ 2 ^ 32 < t0 + n → ∃ t,
      exec (.ordopenAnswer id) s = .next t ∧ mget t.fly.reqs id = none ∧ t.mem.windows = s.mem.windows)

/-- R261: a contribution whose ticket is next is applied and moves the window on; one whose ticket comes later is held while an
entry is free, and otherwise refused, and is sent again; one that finds no window is discarded. The window ends with its last
contribution, and with one whose ticket is not in it. -/
def Sys2Proof.Claims.OrderedContributions : Prop :=
  ∀ (s : State) (id : Nat) (r : Req) (k : LaneAcc) op z order, Served s id r → r.lanes = [k] → r.op = .redOrd op z order →
    op = 16 ∨ op = 26 ∧ z = 4 → z = 4 ∨ z = 8 → k.off + z ≤ 64 → (∀ p ∈ s.fly.reqs, p.2.phase ≠ .held) →
    (∀ w, mget s.mem.windows r.pa = some w → k.ticket.toNat = w.next → w.next ≤ w.last → w.applied + 1 < w.n →
      ∃ t, exec (.orderedRedArrival id) s = .next t ∧ mget t.fly.reqs id = none ∧
        Updates s t r k (if op = 16 then 0 else 10) z ∧ (∀ c n, t.group c n = s.group c n) ∧
        mget t.mem.windows r.pa = some { w with next := w.next + 1, applied := w.applied + 1 }) ∧
    (∀ w, mget s.mem.windows r.pa = some w → (k.ticket.toNat = w.next ∧ w.next ≤ w.last ∧ w.applied + 1 = w.n) ∨
        k.ticket.toNat < w.next ∨ w.last < k.ticket.toNat →
      ∃ t, exec (.orderedRedArrival id) s = .next t ∧ mget t.fly.reqs id = none ∧ mget t.mem.windows r.pa = none) ∧
    (∀ w, mget s.mem.windows r.pa = some w → w.next < k.ticket.toNat → k.ticket.toNat ≤ w.last →
      ∃ t, exec (.orderedRedArrival id) s = .next t ∧ t.mem = s.mem ∧ t.cores = s.cores ∧
        mget t.fly.reqs id = some { r with phase := if s.ordEntries r.pa < 256 then .held else .refused }) ∧
    (mget s.mem.windows r.pa = none → ∃ t, exec (.orderedRedArrival id) s = .next t ∧ mget t.fly.reqs id = none ∧
      t.mem.windows = s.mem.windows) ∧
    (∀ q : Req, exec (.orderedRedResend id) (s.setReq id { q with phase := .refused }) = .next
      (((s.setReq id { q with phase := .refused }).bump q.who.core .ordrsnd).setReq id { q with phase := .out }))

/-- OrderedWindowsOpen; OrderedContributions: all of these hold. -/
def Obligations.OrderedReductions : Prop :=
  Sys2Proof.Claims.OrderedWindowsOpen ∧ Sys2Proof.Claims.OrderedContributions

namespace Sys2Proof.Claims
open Sys2Proof.Machine

/-! ### Rays -/

/-- The lanes a, some but not all live lanes, have left the group and its joins, and the split's other lanes are behind an
instruction of n bytes (R80, R109, R362). -/
structure Left (x : Ex) (g : Group) (a : Mask) (n : Nat) : Prop where
  live : g.live = x.gr.live &&& ~~~ a
  joins : ∀ k, k < 8 → g.joinAt k = leftJoin (x.gr.joinAt k) a
  split : mget g.splits x.entry = if x.sp.mask &&& ~~~ a = 0 then none
    else (mget x.gr.splits x.entry).map fun sp => { moved n sp with mask := x.sp.mask &&& ~~~ a }
  rest : { g with splits := [], joins := [], live := 0 } = { x.gr with splits := [], joins := [], live := 0 }
/-- The active lanes of an episode hold rays of their own. -/
def RaysOf (s : State) (x : Ex) (act : Mask) (ray : Nat → Ray) : Prop :=
  (∀ l, Mask.has act l = true → mget s.rays (x.gr.ctx * 2 ^ 24 + (x.gr.lane l).ray.toNat) = some (ray l)) ∧
  ∀ l m, Mask.has act l = true → Mask.has act m = true → (x.gr.lane l).ray = (x.gr.lane m).ray → l = m
/-- Registers v0 to v15 and v24 to v31 of a lane. -/
def payloadOf (ln : Lane) : List Word := (List.range 16).map fun i => ln.v i
def geometryOf (ln : Lane) : List Word := (List.range 8).map fun i => ln.v (24 + i)
/-- An episode of the first rays of a bin has been formed, oldest first. -/
def Forms (i : Instr) (s : State) (ctx : Nat) (r : Ray) : Prop :=
  ∃ t e ep, exec i s = .next t ∧ mget (t.cluster r.cluster).rays.formed e = some ep ∧ ep.ctx = ctx ∧ ep.launch = r.launch ∧
    ep.shader = r.rec_.shader ∧ ep.rays = ((s.binned r.cluster).take 8).map Binned.id ∧ t.mem = s.mem ∧
    (∀ c k, t.group c k = s.group c k) ∧
    (∀ n ∈ ep.rays, ∃ q, mget t.rays (ctx * 2 ^ 24 + n) = some q ∧ q.at_ = .formed e)
/-- An item of n bytes at va, with the leaf e for its page and f for the page behind it: its lines, each with its leaf. -/
def itemLines (va n : Nat) (e f : DWord) : List (Nat × DWord) :=
  (partsOf va n).map fun p =>
    if p.1 / 65536 = va / 65536 then (lineAddr (ptePa e va + (p.1 - va)), e)
    else (lineAddr (ptePa f ((va / 65536 + 1) * 65536 % 2 ^ 64) + (p.1 - (va / 65536 + 1) * 65536)), f)
/-- The page behind that of va. -/
def nextPage (va : DWord) : DWord := BitVec.ofNat 64 ((va.toNat / 65536 + 1) * 65536)
/-- A read of a lane test. -/
def IsTest (id : Nat) (r : Req) : Bool := match r.op with | .test i _ => i == id | _ => false

end Sys2Proof.Claims

/-! ### Rays -/

/-- R361, R362, R329, R336: TRACE of some lanes of a group of a ray launch takes them out of the group, where the traversal unit has
an entry for each and the launch's quota allows their rays. In an episode the lane's own ray is handed over with v0 to v15 as its
payload, v24 to v31 as its geometry, the handle and the end shader. TRACE of the last lanes of a group that is not the last of its
block ends the group. Outside a ray launch it raises cause 0x01; a handle that is not a multiple of 128 raises cause 0x07, where
s60:s61 hold the handle and s56 the active lanes: the model's choices (logs 17, 18). -/
def Sys2Proof.Claims.TraceHandsRaysOver : Prop :=
  ∀ s x (o : TraceO), s.running = some x → x.sp.st = .ready → Map.sorted x.gr.splits = true →
    let a := x.active o.g
    let h := x.uni.pair o.n.toNat
    (∀ n l, s.rayLaunch x.gr = some (n, l) → a = 0 →
      ∃ t g, exec (.trace o) s = .next t ∧ OnlyGroup s t x g ∧ Advances x.gr g x.entry 8 ∧ SameButSplits x g) ∧
    (∀ n l, s.rayLaunch x.gr = some (n, l) → Idle s x → a ≠ 0 → x.gr.pending a = false →
      h.toNat % 128 = 0 → canonical h = true → s.tvuCount x.core + (lanesOf a).length ≤ 512 →
      (s.isEpisode x.gr = false → a ≠ x.gr.live → (s.raysOf x.gr.ctx n).length + (lanesOf a).length ≤ l.hdr.quota →
        ∃ t g, exec (.trace o) s = .next t ∧ t.group x.core x.slot = some g ∧ Left x g a 8 ∧ OtherGroups s t x ∧ t.mem = s.mem) ∧
      (∀ ray, s.isEpisode x.gr = true → a ≠ x.gr.live → RaysOf s x a ray →
        ∃ t g, exec (.trace o) s = .next t ∧ t.group x.core x.slot = some g ∧ Left x g a 8 ∧ OtherGroups s t x ∧ t.mem = s.mem ∧
          ∀ k, Mask.has a k = true → ∃ r, mget t.rays (x.gr.ctx * 2 ^ 24 + (x.gr.lane k).ray.toNat) = some r ∧ r.at_ = .handed ∧
            r.core = x.core ∧ r.handle = h ∧ r.launch = (ray k).launch ∧ r.rec_.payload = payloadOf (x.gr.lane k) ∧
            r.rec_.geo = geometryOf (x.gr.lane k) ∧ r.chain.end_ = (x.uni.sr (o.n.toNat + 2)).toNat % 2 ^ 16) ∧
      (s.isEpisode x.gr = true ∨ (s.raysOf x.gr.ctx n).length + (lanesOf a).length ≤ l.hdr.quota → a = x.gr.live →
        s.lastGroup x.gr = false → s.keepsSlot x.gr = false → ∃ t, exec (.trace o) s = .next t ∧ t.group x.core x.slot = none)) ∧
    (s.rayLaunch x.gr = none → ∃ w0 w1, exec (.trace o) s = trapAt s x 1 x.sp.mask w0 w1) ∧
    (∀ n l, s.rayLaunch x.gr = some (n, l) → a ≠ 0 → x.gr.pending a = false → h.toNat % 128 ≠ 0 →
      exec (.trace o) s = trapAt s x 7 a (loOf h) (hiOf h))

/-- R363, R329: RSPAWN gives the lane the identifier of a new ray that goes to Saffron with the lane's payload, geometry and
shader, and 0xFFFFFFFF where the launch has as many rays as its quota. The identifier is one that no ray has. Outside a ray launch
it raises cause 0x01. -/
def Sys2Proof.Claims.RspawnMakesARay : Prop :=
  (∀ s x (o : RspO), s.running = some x → s.rayLaunch x.gr = none → ∃ w0 w1, exec (.rspawn o) s = trapAt s x 1 x.sp.mask w0 w1) ∧
  (∀ s x (o : RspO) n l, s.running = some x → s.rayLaunch x.gr = some (n, l) → x.active o.g = 0 ∨ Idle s x →
    ∃ t g, exec (.rspawn o) s = .next t ∧ t.group x.core x.slot = some g ∧ OtherGroups s t x ∧ t.mem = s.mem ∧
      Advances x.gr g x.entry (VSrc.len o.b) ∧ (∀ m, Mask.has (x.active o.g) m = false → g.lane m = x.gr.lane m)) ∧
  ∀ s x (o : RspO) n l k, s.running = some x → Idle s x → s.rayLaunch x.gr = some (n, l) →
    (∀ m, Mask.has (x.active o.g) m = true ↔ m = k) → 0 < (s.ctx x.gr.ctx).regs.raycap →
    ∃ t g w, exec (.rspawn o) s = .next t ∧ t.group x.core x.slot = some g ∧ OtherGroups s t x ∧ t.mem = s.mem ∧
      SetsReg (x.gr.lane k) (g.lane k) o.d.toNat w ∧ (∀ m, m ≠ k → g.lane m = x.gr.lane m) ∧
      Advances x.gr g x.entry (VSrc.len o.b) ∧
      (l.hdr.quota ≤ (s.raysOf x.gr.ctx n).length → w = 0xFFFFFFFF ∧ t.rays = s.rays) ∧
      ((s.raysOf x.gr.ctx n).length < l.hdr.quota → ∃ r, mget t.rays (x.gr.ctx * 2 ^ 24 + w.toNat) = some r ∧
        r.at_ = .arriving ∧ r.launch = n ∧ r.cluster = x.core / 24 ∧ r.rec_.payload = payloadOf (x.gr.lane k) ∧
        r.rec_.geo = geometryOf (x.gr.lane k) ∧ r.rec_.shader = (VSrc.val o.b (x.gr.lane k)).toNat % 2 ^ 16 ∧ r.rec_.kind = 4 ∧
        (s.rays.length < min (s.ctx x.gr.ctx).regs.raycap (2 ^ 24) → mget s.rays (x.gr.ctx * 2 ^ 24 + w.toNat) = none) ∧
        ∀ i, i ≠ x.gr.ctx * 2 ^ 24 + w.toNat → mget t.rays i = mget s.rays i)

/-- R352, R364, R365: NEXTHIT and REND in some lanes of an episode take their payload into the ray and send it to Saffron:
NEXTHIT with the next hit of its chain, or, past the last one, with the end of the chain, as REND does. In the last lanes of a
group that is not the last of its block they end the group. Outside an episode they raise cause 0x01. -/
def Sys2Proof.Claims.ChainsOfHits : Prop :=
  ∀ s x (o : G0), s.running = some x → x.sp.st = .ready → Map.sorted x.gr.splits = true →
    let a := x.active o.g
    (∀ i, i = Instr.nexthit o ∨ i = Instr.rend o → s.isEpisode x.gr = true →
      (a = 0 → ∃ t g, exec i s = .next t ∧ OnlyGroup s t x g ∧ Advances x.gr g x.entry 4 ∧ SameButSplits x g) ∧
      (Idle s x → a ≠ 0 → a = x.gr.live → x.gr.pending a = false → s.lastGroup x.gr = false → s.keepsSlot x.gr = false →
        ∃ t, exec i s = .next t ∧ t.group x.core x.slot = none)) ∧
    (∀ ray, s.isEpisode x.gr = true → Idle s x → a ≠ 0 → a ≠ x.gr.live → x.gr.pending a = false → RaysOf s x a ray →
      (∃ t g, exec (.nexthit o) s = .next t ∧ t.group x.core x.slot = some g ∧ Left x g a 4 ∧ OtherGroups s t x ∧
        ∀ k, Mask.has a k = true → ∃ r, mget t.rays (x.gr.ctx * 2 ^ 24 + (x.gr.lane k).ray.toNat) = some r ∧
          r.at_ = .arriving ∧ r.rec_.payload = payloadOf (x.gr.lane k) ∧
          (∀ h, (ray k).chain.next ≠ (ray k).chain.n → (ray k).chain.hits[(ray k).chain.next]? = some h →
            r.rec_.thit = h.t ∧ r.rec_.prim = h.prim ∧ r.rec_.inst = h.inst ∧ r.rec_.bu = h.u ∧ r.rec_.bv = h.v ∧
            r.rec_.shader = h.shader ∧ r.rec_.kind = (if h.back then 2 else 1) ∧ r.rec_.j = (ray k).chain.next ∧
            r.chain = { (ray k).chain with next := (ray k).chain.next + 1 }) ∧
          ((ray k).chain.next = (ray k).chain.n → r.rec_.thit = 0x7F800000 ∧ r.rec_.kind = 3 ∧
            r.rec_.shader = (ray k).chain.end_)) ∧
      (∃ t g, exec (.rend o) s = .next t ∧ t.group x.core x.slot = some g ∧ Left x g a 4 ∧ OtherGroups s t x ∧
        ∀ k, Mask.has a k = true → ∃ r, mget t.rays (x.gr.ctx * 2 ^ 24 + (x.gr.lane k).ray.toNat) = some r ∧
          r.at_ = .arriving ∧ r.rec_.payload = payloadOf (x.gr.lane k) ∧ r.rec_.thit = 0x7F800000 ∧ r.rec_.kind = 3 ∧
          r.rec_.prim = 0xFFFFFFFF ∧ r.rec_.shader = (ray k).chain.end_ ∧ r.chain.hits = [])) ∧
    (s.isEpisode x.gr = false → exec (.nexthit o) s = trapAt s x 1 x.sp.mask (firstWord (.nexthit o)) 0 ∧
      exec (.rend o) s = trapAt s x 1 x.sp.mask (firstWord (.rend o)) 0)

/-- TraceHandsRaysOver; RspawnMakesARay; ChainsOfHits: all of these hold. -/
def Obligations.RaysInPrograms : Prop :=
  Sys2Proof.Claims.TraceHandsRaysOver ∧ Sys2Proof.Claims.RspawnMakesARay ∧ Sys2Proof.Claims.ChainsOfHits

/-- R366, R368, R369: TBOX and TTRI of lanes whose items pass their checks, on their last page too, complete at issue with their
result registers pending, where the core may have the misses that they make outstanding (R229), and their test in the traversal
unit holds each lane's ray; a line that arrives goes into the test at once; once every line of the
items has come, and not before, the test ends and its results and flags are written. -/
def Sys2Proof.Claims.LaneTests : Prop :=
  (∀ o : TboxO, IdleGoesOn (.tbox o) o.g 8) ∧ (∀ o : TtriO, IdleGoesOn (.ttri o) o.g 8) ∧
  (∀ s x (e f : Nat → DWord), s.running = some x → s.acqBusy x = false → FreshIds s →
    let tested := fun (i : Instr) (al size d res : Nat) (a c : BitVec 5) (act : Mask) =>
      let va := fun l => (x.gr.lane l).vPair a.toNat
      let lines := ((lanesOf act).flatMap fun l => itemLines (va l).toNat size (e l) (f l)).eraseDups
      act ≠ 0 → (∀ l, Mask.has act l = true → Lands s x {} [0, 1, 2] al (va l) (e l) ∧
        (65536 < (va l).toNat % 65536 + size → Lands s x {} [0, 1, 2] 1 (nextPage (va l)) (f l))) →
      (∀ p ∈ lines, s.lineBusy x p.1 = false) →
      s.missCount x.core + s.loadMisses x false (lines.map fun p => ⟨p.1, pteClass p.2, pteLease p.2, []⟩) ≤ 256 →
      ∃ t g b, exec i s = .next t ∧ t.group x.core x.slot = some g ∧ OtherGroups s t x ∧ t.mem = s.mem ∧ MovedOn x g 8 ∧
        g.lanes = x.gr.lanes ∧ mget t.fly.tests s.nextId = some b ∧ b.who.uid = x.gr.uid ∧ b.d = d ∧
        ∀ l, Mask.has act l = true → (∀ r, r < res → (⟨s.nextId, some l, .v (d + r)⟩ : Pend) ∈ g.pend) ∧
          ∃ parts, (l, parts, (List.range 8).map fun r => (x.gr.lane l).v (c.toNat + r)) ∈ b.lanes
    (∀ o : TboxO, tested (.tbox o) 128 128 o.d.toNat 2 o.a o.c (x.active o.g)) ∧
    (∀ o : TtriO, tested (.ttri o) 16 48 o.d.toNat 4 o.a o.c (x.active o.g))) ∧
  ∀ (s : State) (id : Nat) (b : LaneTest) g, mget s.fly.tests id = some b →
    s.group b.who.core b.who.slot = some g → g.uid = b.who.uid →
    ((∀ p ∈ s.fly.reqs, IsTest id p.2 = false) → ∃ t, exec (.tvuLaneTestDone id) s = .next t ∧
      mget t.fly.tests id = none ∧ t.mem = s.mem ∧
      (∀ c k, ¬(c = b.who.core ∧ k = b.who.slot) → t.group c k = s.group c k) ∧
      t.group b.who.core b.who.slot = some (b.lanes.foldl (fun g l => g.deliver b.who.iid l.1 fun ln =>
        (ln.setVs b.d (b.result l.2.1 l.2.2).1).raise (b.result l.2.1 l.2.2).2) g)) ∧
    ((∃ p ∈ s.fly.reqs, IsTest id p.2 = true) → exec (.tvuLaneTestDone id) s = .refused .eventNotDue) ∧
    ∀ k v r w, mget s.fly.reqs k = some r → r.op = .test id w → r.phase = .back →
      ∃ t, exec (.l1Reply k v) s = .next t ∧ mget t.fly.tests id = some { b with got := mset b.got r.pa ⟨r.data, r.poison⟩ } ∧
        (2 ≤ r.cls → mget t.fly.reqs k = none ∧ t.mem = s.mem)

/-- R336, R345 to R357: a ray handed over is accepted; its traversal ends with no hit for a ray that is not valid, with the hit
found, or with an error code, and the ray goes to Saffron; a record with a lasting error ends with code 3; a line that the treelet
cache lacks stops it, and the treelet is asked for; an address that the host serves parks it, in one of 64 places, with a fault
record; one whose fault the host has served goes on once its unit has an entry free; a treelet's line that arrives is kept. -/
def Sys2Proof.Claims.TraversalEvents : Prop :=
  (∀ (s : State) (ctx id pick : Nat) (r : Ray), mget s.rays (ctx * 2 ^ 24 + id) = some r →
    (r.at_ = .handed → ∃ t, exec (.tvuAccept ctx id) s = .next t ∧ t.mem = s.mem ∧
      mget t.rays (ctx * 2 ^ 24 + id) = some { r with at_ := .tvu none } ∧ (∀ c k, t.group c k = s.group c k) ∧
      ∀ i, i ≠ ctx * 2 ^ 24 + id → mget t.rays i = mget s.rays i) ∧
    (r.at_ = .replayed → (s.tvuCount r.core < 512 → ∃ t, exec (.tvuAccept ctx id) s = .next t ∧
        mget t.rays (ctx * 2 ^ 24 + id) = some { r with at_ := .tvu none }) ∧
      (512 ≤ s.tvuCount r.core → exec (.tvuAccept ctx id) s = .refused .eventNotDue)) ∧
    (r.at_ = .tvu none → r.bad = true → ∃ t q, exec (.traversalDone ctx id pick) s = .next t ∧
      mget t.rays (ctx * 2 ^ 24 + id) = some q ∧ q.at_ = .arriving ∧ q.rec_.kind = 5 ∧ q.rec_.prim = 3 ∧
      q.rec_.shader = r.chain.end_) ∧
    (r.at_ = .tvu none → r.bad = false →
      (geoRay r.rec_.geo = none → r.trav = none → r.chain.hits = [] →
        ∃ t q, exec (.traversalDone ctx id pick) s = .next t ∧ t.mem = s.mem ∧
          mget t.rays (ctx * 2 ^ 24 + id) = some q ∧ q.at_ = .arriving ∧ q.rec_.thit = 0x7F800000 ∧ q.rec_.kind = 0 ∧
          q.rec_.shader = r.chain.end_ ∧ q.rec_.payload = r.rec_.payload) ∧
      (let fl := r.rec_.flags
       let from_ : Trav := r.trav.getD { todo := match geoRay r.rec_.geo with
         | none => []
         | some g => [.ref { ray := some g, base := r.handle } 0] }
       let run := s.traverse ⟨ctx, r.launch, r.cluster⟩ ⟨fl.toNat / 2 ^ 24 % 256, fl.getLsbD 16, fl.getLsbD 17⟩ (2 ^ 28)
         { from_ with reads := [] }
       (∀ h, run.2 = none → run.1.hits = [h] → ∃ t q, exec (.traversalDone ctx id pick) s = .next t ∧
          mget t.rays (ctx * 2 ^ 24 + id) = some q ∧ q.at_ = .arriving ∧ q.rec_.thit = h.t ∧ q.rec_.prim = h.prim ∧
          q.rec_.inst = h.inst ∧ q.rec_.bu = h.u ∧ q.rec_.bv = h.v ∧ q.rec_.shader = h.shader) ∧
       (∀ c, run.2 = some (.code c) → ∃ t q, exec (.traversalDone ctx id pick) s = .next t ∧
          mget t.rays (ctx * 2 ^ 24 + id) = some q ∧ q.at_ = .arriving ∧ q.rec_.kind = 5 ∧ q.rec_.prim = BitVec.ofNat 32 c ∧
          q.rec_.shader = r.chain.end_) ∧
       (∀ va pa cls, run.2 = some (.need va pa cls) → (s.cluster r.cluster).rays.cache.length < 16 →
          ∃ t q, exec (.traversalDone ctx id pick) s = .next t ∧ t.mem = s.mem ∧
            mget t.rays (ctx * 2 ^ 24 + id) = some q ∧ q.at_ = .tvu (some pa) ∧ q.rec_ = r.rec_) ∧
       (∀ va c, run.2 = some (.park va c) → ∃ t q, exec (.traversalDone ctx id pick) s = .next t ∧
          mget t.rays (ctx * 2 ^ 24 + id) = some q ∧ q.rec_ = r.rec_ ∧
          q.at_ = .parked (if s.parkedRays r.core < 64 then some (s.token ctx) else none))))) ∧
  ∀ (s : State) (cluster ctx line : Nat) (b : Treelet), (s.cluster cluster).rays.cache = [b] → b.ctx = ctx →
    b.pa = line / 4096 * 4096 → line % 4096 / 64 ∈ b.wanted → AtHome s (line / 64 * 64) →
    ∃ t u, exec (.treeletFill cluster ctx line) s = .next t ∧ t.mem = s.mem ∧ t.cores = s.cores ∧
      (t.cluster cluster).rays.cache = [u] ∧ line % 4096 / 64 ∉ u.wanted ∧
      (mget u.lines (line % 4096 / 64)).map TreeLine.data = some (Bytes.line s.mem.bytes (memKey ctx (line / 64 * 64))) ∧
      ∀ i, i ≠ line % 4096 / 64 → mget u.lines i = mget b.lines i

/-- LaneTests; TraversalEvents: all of these hold. -/
def Obligations.LaneTestsAndTraversal : Prop :=
  Sys2Proof.Claims.LaneTests ∧ Sys2Proof.Claims.TraversalEvents

/-- R337, R338, R339, R355: Saffron: a ray that arrives takes a record, or is spilled when 65,536 are in use, its record written
to its region of memory, and a spilled one comes back when there is room; a bin with 8 rays, one whose oldest ray has waited as
long as the launch's patience, and one of a launch with nothing else left in the cluster form an episode of their oldest rays, at
most one in a clk; a bin with 4 rays asks, once, for the treelets of its entry of the cell table: those that are not in the cache
get a place there and all their lines are wanted. That the spill copy is written as a privileged access is the model's choice
(log 33). -/
def Obligations.SaffronFormsEpisodes : Prop :=
  ∀ (s : State) (ctx id : Nat) (r : Ray), mget s.rays (ctx * 2 ^ 24 + id) = some r → ctx < 64 → id < 2 ^ 24 →
    (r.at_ = .arriving → s.onDie r.cluster < 65536 → s.spilledRays r.cluster = [] →
      ∃ t, exec (.rayEnterSaffron ctx id) s = .next t ∧ t.mem = s.mem ∧
        mget t.rays (ctx * 2 ^ 24 + id) = some { r with at_ := .bin s.now }) ∧
    (r.at_ = .arriving → 65536 ≤ s.onDie r.cluster →
      let out : Ray := { r with at_ := .spilled s.nextId }
      ∃ t, exec (.rayEnterSaffron ctx id) s = .next t ∧ mget t.rays (ctx * 2 ^ 24 + id) = some out ∧
        t.mem = ((s.fresh.setRay ctx id out).agentWrite ctx { priv := true } [0] ((s.ctx ctx).regs.raybase + 640 * id)
          (r.rec_.bytes id)).2.mem) ∧
    (∀ o k, r.at_ = .spilled o → s.spilledRays r.cluster = [k] → s.onDie r.cluster < 65536 →
      ∃ t, exec (.rayRefill r.cluster ctx id) s = .next t ∧ t.mem = s.mem ∧
        mget t.rays (ctx * 2 ^ 24 + id) = some { r with at_ := .bin s.now }) ∧
    (∀ since, r.at_ = .bin since → Map.sorted s.rays = true → (∀ b ∈ s.binned r.cluster, b.key = s.rayBin ctx r) →
      ((s.cluster r.cluster).rays.formedAt ≠ some s.now →
        (8 ≤ (s.binned r.cluster).length → Forms (.episodeFormFull ctx id) s ctx r) ∧
        (∀ l b, (s.binned r.cluster).length < 8 → mget (s.ctx ctx).launches r.launch = some l →
          (s.binned r.cluster).head? = some b → b.since + l.hdr.patience ≤ s.now → Forms (.episodeFormPatience ctx id) s ctx r) ∧
        (s.drained r.cluster ctx r.launch = true → Forms (.episodeFormDrain ctx id) s ctx r)) ∧
      ((s.cluster r.cluster).rays.formedAt = some s.now → ∀ i ∈ [Instr.episodeFormFull ctx id, .episodeFormPatience ctx id,
        .episodeFormDrain ctx id], exec i s = .refused .eventNotDue) ∧
      (s.rayBin ctx r ∈ (s.cluster r.cluster).rays.asked → exec (.treeletPrefetch r.cluster ctx id) s = .refused .eventNotDue) ∧
      (∀ va e s1, 4 ≤ (s.binned r.cluster).length → s.rayBin ctx r ∉ (s.cluster r.cluster).rays.asked →
        mget (s.cluster r.cluster).rays.cells (s.cellOf ctx r) = some (ctx, [va]) → (s.cluster r.cluster).rays.cache = [] →
        (s.modCluster r.cluster fun k => { k with rays := { k.rays with asked := s.rayBin ctx r :: k.rays.asked } }).agentTranslate
          ctx va {} = (.ok e, s1) → pteClass e.1 ≤ 1 → (s1.cluster r.cluster).rays.cache = [] →
        ∃ t u, exec (.treeletPrefetch r.cluster ctx id) s = .next t ∧ (t.cluster r.cluster).rays.cache = [u] ∧ u.ctx = ctx ∧
          u.launch = r.launch ∧ u.pa = e.2 / 4096 * 4096 ∧ u.pref = true ∧ u.lines = [] ∧ u.wanted = List.range 64) ∧
      (4 ≤ (s.binned r.cluster).length → s.rayBin ctx r ∉ (s.cluster r.cluster).rays.asked →
        ∃ t, exec (.treeletPrefetch r.cluster ctx id) s = .next t ∧
          s.rayBin ctx r ∈ (t.cluster r.cluster).rays.asked ∧
          ((∀ l, mget (s.cluster r.cluster).rays.cells (s.cellOf ctx r) ≠ some (ctx, l)) → t.mem = s.mem ∧ t.cores = s.cores)))

namespace Sys2Proof.Claims
open Sys2Proof.Machine

/-! ### Work -/

/-- The four 64-bit words of a record in eight s registers (R387). -/
def recordAt (u : Uniform) (a : Nat) : DWord × DWord × DWord × DWord := (u.pair a, u.pair (a + 2), u.pair (a + 4), u.pair (a + 6))
/-- A record that is well formed: bits 2–0 and bit 51 of its first word 0, and AFF not 3 (R377). -/
def GoodRecord (w0 : DWord) : Prop := w0.toNat % 8 = 0 ∧ w0.toNat / 2 ^ 51 % 2 = 0 ∧ w0.toNat / 2 ^ 49 % 4 ≠ 3
/-- The continuations in a list of queued records: their words and their launch. -/
def contsOf (l : List QRec) : List (DWord × DWord × DWord × DWord × Nat) :=
  l.filterMap fun r => match r with | .cont w0 f j w n _ _ _ => some (w0, f, j, w, n) | .launch _ => none
/-- A uniform instruction of n bytes that ends with a status: the status stands in register d, and the split goes on. -/
def Status (s t : State) (x : Ex) (n d v : Nat) : Prop :=
  OtherGroups s t x ∧ t.group x.core x.slot = some { after x n with uni := x.gr.uni.setS d (BitVec.ofNat 32 v) }
/-- The 64 bytes of a line of memory. -/
def lineBytes (s : State) (ctx pa : Nat) : List Byte := Bytes.read s.mem.bytes (memKey ctx pa) 64
/-- The count of a join written at its home slice, with the time of the release (R385). -/
def countStore (s : State) (ctx pa v : Nat) : State :=
  s.agentStore ctx pa 0 (placeBytes 0 (leBytes 4 v)).1 (placeBytes 0 (leBytes 4 v)).2 0 0
def stamped (s : State) (pa p : Nat) : State := s.takeSline pa fun l => { l with sts := max l.sts p }
/-- No join of a block is in a cluster's join buffer. -/
def unheld (s : State) (k blk : Nat) : State :=
  s.modCluster k fun c => { c with joins := mkeep c.joins fun _ h => h.blk != blk }
/-- A line named by a uniform register pair, in memory: its physical address. -/
def LineAt (s : State) (x : Ex) (classes : List Nat) (va : DWord) (pa : Nat) : Prop :=
  (∃ e, Lands s x { write := true } classes 64 va e ∧ pa = ptePa e va.toNat) ∧ AtHome s pa
/-- A group has started in a slot: at its entry, with its preloads and its lanes (R80, R113, R381). -/
structure Started (s t : State) (core slot blk ctx : Nat) (code s0 s2 s4 : DWord) (wids : List DWord) : Prop where
  ex : ∃ g, t.group core slot = some g ∧ g.blk = blk ∧ g.ctx = ctx ∧ g.uni.pair 0 = s0 ∧ g.uni.pair 2 = s2 ∧ g.uni.pair 4 = s4 ∧
    g.uni.mode = 0 ∧ g.uni.conds = 0 ∧ g.live.toNat = 2 ^ wids.length - 1 ∧ g.joins = [] ∧ g.pend = [] ∧
    (∃ sp, g.splits = [(0, sp)] ∧ sp.pc = Pc.of code ∧ sp.st = .ready ∧ sp.mask = g.live) ∧
    ∀ l, l < wids.length → (g.lane l).wid = wids.getD l 0 ∧ (∀ r, r < 32 → (g.lane l).v r = 0) ∧ (g.lane l).preds = 0 ∧
      (g.lane l).flags = 0 ∧ (g.lane l).wb = 0

end Sys2Proof.Claims

/-! ### Continuations, launches, joins and blocks -/

/-- R377, R378, R213, R385: what the KZ8's own agents write within one line of a context's memory, in a page of class D that can be
written, stands where the address translates to, and no other byte of memory changes. A record of a queue stands at the tail:
its bytes at the queue's base + 64 × (pushes so far mod the size), written as a privileged access, and the rest of the slot is not
stated (logs 33, 36). A join's count is the first four bytes of its line. -/
def Sys2Proof.Claims.AgentWritesLand : Prop :=
  (∀ (s : State) ctx q c r, mget (s.ctx ctx).queues q = some c →
    let at_ := c.base + 64 * (c.tail % 2 ^ c.log)
    let w := (s.agentWrite ctx { priv := true } [0] at_ r.bytes).2
    (s.enqueue ctx q r).mem = (w.storeFree ctx { priv := true } (at_ + r.bytes.length) ((64 - r.bytes.length) / 4)).mem ∧
      mget ((s.enqueue ctx q r).ctx ctx).queues q = some { c with recs := c.recs ++ [r], tail := c.tail + 1 }) ∧
  (∀ (s : State) ctx pa v p, AtHome s pa → pa % 64 = 0 → v < 2 ^ 32 → SliceRoom (countStore s ctx pa v) pa →
    let t := stamped (countStore s ctx pa v) pa p
    lineNum t ctx pa 0 4 = v ∧ OnlyBytes s t ctx pa 0 4 ∧ t.ctxs = s.ctxs) ∧
  ∀ (s s1 : State) ctx (a : Access) va (bs : List Byte) e pa, bs ≠ [] → va % 64 + bs.length ≤ 64 →
    canonical (BitVec.ofNat 64 va) = true → s.agentTranslate ctx va { a with write := true } = (.ok (e, pa), s1) → pteClass e = 0 → pa % 64 = va % 64 →
    AtHome s1 (lineAddr pa) →
    let t := (s.agentWrite ctx a [0] va bs).2
    Bytes.read t.mem.bytes (memKey ctx (lineAddr pa) + pa % 64) bs.length = bs ∧
      OnlyBytes s1 t ctx (lineAddr pa) (pa % 64) bs.length
/-- R387, R388, R389, R390, R391, R378: CONT and CFORK push their records at the tail of the queue of QID, each into its slot of
the ring in memory, and answer 0; a malformed record answers 5, a queue that is OFF 2, and one without room 1, with nothing pushed.
Record i of CFORK has i added to field 1 of its WID, and its join's count grows by the records before they are pushed; a count of
records above 65,536 or past the field answers 4, a join count past 2^32 − 1 answers 3, and a CFORK of 0 records 0. CJOIN takes 1
from a count above 1 and answers 0; at 1 the count becomes 0 and the record of its line is pushed, and it answers 3 for a count
of 0. The slots of the rings, and that they are written as privileged accesses, are the model's choices (logs 36, 33). -/
def Sys2Proof.Claims.RecordsArePushed : Prop :=
  ∀ s x b, s.running = some x → Idle s x → mget s.blocks x.gr.blk = some b →
    let s0 := s.raiseFloor x.gr.ctx (s.pts x.core x.gr.ctx)
    (∀ o : U2,
      let r := recordAt x.uni o.a.toNat
      let q := r.1.toNat / 2 ^ 58
      (∀ c, GoodRecord r.1 → mget (s.ctx b.ctx).queues q = some c → c.recs.length < 2 ^ c.log →
        ∃ t c', exec (.cont o) s = .next t ∧ Status s t x 4 o.d.toNat 0 ∧
          t.mem = (s0.pushRec (s0.pusherOf x) (x.uni.record o.a.toNat) (s0.pts x.core x.gr.ctx)).mem ∧
          mget (t.ctx b.ctx).queues q = some c' ∧ contsOf c'.recs = contsOf c.recs ++ [(r.1, r.2.1, r.2.2.1, r.2.2.2, b.launch)] ∧
          c'.recs.length = c.recs.length + 1 ∧ c'.tail = c.tail + 1 ∧
          (∀ k, k ≠ q → mget (t.ctx b.ctx).queues k = mget (s.ctx b.ctx).queues k)) ∧
      (∀ st, (¬GoodRecord r.1 ∧ st = 5) ∨ (GoodRecord r.1 ∧ mget (s.ctx b.ctx).queues q = none ∧ st = 2) ∨
          (GoodRecord r.1 ∧ (∃ c, mget (s.ctx b.ctx).queues q = some c ∧ 2 ^ c.log ≤ c.recs.length) ∧ st = 1) →
        ∃ t, exec (.cont o) s = .next t ∧ Status s t x 4 o.d.toNat st ∧ t.mem = s.mem ∧
          (t.ctx b.ctx).queues = (s.ctx b.ctx).queues)) ∧
    (∀ o : U3,
      let r := recordAt x.uni o.a.toNat
      let q := r.1.toNat / 2 ^ 58
      let n := (SSrc.val o.b x.uni).toNat
      let fits := n ≤ 65536 ∧ r.2.2.2.toNat / 8 % 2 ^ s.width1 x.gr + n ≤ 2 ^ s.width1 x.gr
      (n = 0 → ∃ t, exec (.cfork o) s = .next t ∧ Status s t x (SSrc.len o.b) o.d.toNat 0 ∧ t.mem = s.mem ∧
        (t.ctx b.ctx).queues = (s.ctx b.ctx).queues) ∧
      (∀ c, n ≠ 0 → fits → GoodRecord r.1 → mget (s.ctx b.ctx).queues q = some c → c.recs.length + n ≤ 2 ^ c.log →
        (r.2.2.1 = 0 → ∃ t c', exec (.cfork o) s = .next t ∧ Status s t x (SSrc.len o.b) o.d.toNat 0 ∧
          t.mem = (s0.pushFork (s0.pusherOf x) (x.uni.record o.a.toNat) (s0.pts x.core x.gr.ctx) n 0).mem ∧
          mget (t.ctx b.ctx).queues q = some c' ∧ c'.recs.length = c.recs.length + n ∧
          contsOf c'.recs = contsOf c.recs ++ (List.range n).map fun i =>
            (r.1, r.2.1, r.2.2.1, r.2.2.2 + BitVec.ofNat 64 (8 * i), b.launch)) ∧
        (∀ pa, r.2.2.1 ≠ 0 → LineAt s x [0] r.2.2.1 pa → b.ctx = x.gr.ctx →
          (lineNum s x.gr.ctx pa 0 4 + n < 2 ^ 32 → ∃ t c', exec (.cfork o) s = .next t ∧
            Status s t x (SSrc.len o.b) o.d.toNat 0 ∧ mget (t.ctx b.ctx).queues q = some c' ∧
            (let u := countStore s0 b.ctx pa (lineNum s x.gr.ctx pa 0 4 + n)
             t.mem = ((stamped u pa (u.pts x.core x.gr.ctx)).pushFork (s0.pusherOf x) (x.uni.record o.a.toNat)
               (s0.pts x.core x.gr.ctx) n 0).mem) ∧
            c'.recs.length = c.recs.length + n ∧ contsOf c'.recs = contsOf c.recs ++ (List.range n).map fun i =>
              (r.1, r.2.1, r.2.2.1, r.2.2.2 + BitVec.ofNat 64 (8 * i), b.launch)) ∧
          (2 ^ 32 ≤ lineNum s x.gr.ctx pa 0 4 + n → ∃ t, exec (.cfork o) s = .next t ∧
            Status s t x (SSrc.len o.b) o.d.toNat 3 ∧ t.mem.bytes = s.mem.bytes ∧
            (t.ctx b.ctx).queues = (s.ctx b.ctx).queues))) ∧
      (∀ st, n ≠ 0 → (¬GoodRecord r.1 ∧ st = 5) ∨ (GoodRecord r.1 ∧ mget (s.ctx b.ctx).queues q = none ∧ st = 2) ∨
          (GoodRecord r.1 ∧ (∃ c, mget (s.ctx b.ctx).queues q = some c) ∧ ¬fits ∧ st = 4) ∨
          (GoodRecord r.1 ∧ fits ∧ (∃ c, mget (s.ctx b.ctx).queues q = some c ∧ 2 ^ c.log < c.recs.length + n) ∧ st = 1) →
        ∃ t, exec (.cfork o) s = .next t ∧ Status s t x (SSrc.len o.b) o.d.toNat st ∧ t.mem = s.mem ∧
          (t.ctx b.ctx).queues = (s.ctx b.ctx).queues)) ∧
    (∀ (o : U2) pa, LineAt s x [0] (x.uni.pair o.a.toNat) pa → b.ctx = x.gr.ctx →
      let line := Bytes.line s.mem.bytes (memKey x.gr.ctx pa)
      let w := fun i => line.extractLsb' (256 + 64 * i) 64
      (1 < lineNum s x.gr.ctx pa 0 4 → SliceRoom (countStore s0 b.ctx pa (lineNum s x.gr.ctx pa 0 4 - 1)) pa →
        ∃ t, exec (.cjoin o) s = .next t ∧ Status s t x 4 o.d.toNat 0 ∧
        lineNum t x.gr.ctx pa 0 4 = lineNum s x.gr.ctx pa 0 4 - 1 ∧ OnlyBytes s t x.gr.ctx pa 0 4) ∧
      (∀ c, lineNum s x.gr.ctx pa 0 4 = 1 → GoodRecord (w 0) → mget (s.ctx b.ctx).queues ((w 0).toNat / 2 ^ 58) = some c →
        c.recs.length < 2 ^ c.log → ∃ t c', exec (.cjoin o) s = .next t ∧ Status s t x 4 o.d.toNat 0 ∧
          (let u := stamped (countStore s0 b.ctx pa 0) pa (s0.pts x.core x.gr.ctx)
           t.mem = (u.pushRec (s0.pusherOf x) ⟨w 0, w 1, w 2, w 3⟩ (u.sline pa).sts).mem) ∧
          mget (t.ctx b.ctx).queues ((w 0).toNat / 2 ^ 58) = some c' ∧
          contsOf c'.recs = contsOf c.recs ++ [(w 0, w 1, w 2, w 3, b.launch)]) ∧
      (lineNum s x.gr.ctx pa 0 4 = 1 → ¬GoodRecord (w 0) → ∃ t, exec (.cjoin o) s = .next t ∧ Status s t x 4 o.d.toNat 5 ∧
        t.mem.bytes = s.mem.bytes) ∧
      (lineNum s x.gr.ctx pa 0 4 = 0 → ∃ t, exec (.cjoin o) s = .next t ∧ Status s t x 4 o.d.toNat 3 ∧ t.mem.bytes = s.mem.bytes))

/-- AgentWritesLand; RecordsArePushed: all of these hold. -/
def Obligations.ContinuationsArePushed : Prop :=
  Sys2Proof.Claims.AgentWritesLand ∧ Sys2Proof.Claims.RecordsArePushed

namespace Sys2Proof.Claims
open Sys2Proof.Machine

/-- A header h is accepted at s with a program time: it takes a free number, with all its blocks to admit, and a launch entry
stands at the tail of its queue, with its slot of the ring written (R372, R373, R378; log 36). -/
structure Accepted (s t : State) (ctx : Nat) (h : Header) (c : CQueue) (pts : Nat) : Prop where
  free : (s.freeLaunch ctx).1 < 64 ∧ mget (s.ctx ctx).launches (s.freeLaunch ctx).1 = none
  launch : ∃ l, mget (t.ctx ctx).launches (s.freeLaunch ctx).1 = some l ∧ l.hdr = h ∧ l.next = 0 ∧ l.ahead = [] ∧ l.count = 0 ∧
    l.alive = 0 ∧ l.pts = pts ∧ l.target = (h.total + h.groups - 1) / h.groups ∧
    t.mem = (((s.freeLaunch ctx).2.modCtx ctx fun v => { v with launches := mset v.launches (s.freeLaunch ctx).1 l }).enqueue ctx
      h.queue (.launch (s.freeLaunch ctx).1)).mem
  others : ∀ n, n ≠ (s.freeLaunch ctx).1 → mget (t.ctx ctx).launches n = mget (s.ctx ctx).launches n
  entry : mget (t.ctx ctx).queues h.queue =
    some { c with recs := c.recs ++ [.launch (s.freeLaunch ctx).1], tail := c.tail + 1 }
/-- A header that passes every check, with no completion object and no template, for a queue that is on. -/
structure Offered (s : State) (ctx : Nat) (hb : List Byte) (c : CQueue) : Prop where
  reason : s.headerReason ctx hb = 0
  rays : s.rayRefused ctx (headerOf hb) = false
  comp : (headerOf hb).comp = 0
  mapt : (headerOf hb).mapt = 0
  number : (s.ctx ctx).launches.length < 64
  queue : mget (s.ctx ctx).queues (headerOf hb).queue = some c
/-- The launch ring of a context offers its next header: its bytes, read from the slot of LQHEAD (R447). -/
structure RingOffers (s s1 : State) (ctx : Nat) (bs : List (Byte × Bool)) : Prop where
  on : (s.ctx ctx).regs.en = true ∧ (s.ctx ctx).rings.lqhead ≠ (s.ctx ctx).rings.lqtail ∧ (s.ctx ctx).stalled = false ∧
    (s.ctx ctx).heldHdr = none
  read : s.agentRead ctx { priv := true } [0, 1] (partsOf ((s.ctx ctx).rings.lqbase + 64 * ((s.ctx ctx).rings.lqhead %
    2 ^ (s.ctx ctx).rings.lqlog)) 64) = (.ok bs, s1)
  same : s1.ctxs = s.ctxs

end Sys2Proof.Claims

/-- R372, R373, R391, R447, R378: LAUNCH and the launch ring offer the header's 64 bytes. A header with a code address that is not a
multiple of 8 is refused: LAUNCH answers status 6 with reason 1, and the ring moves on. One that passes every check, with no
completion object and no template, is accepted where its queue has room, at LAUNCH, at LAUNCH_ACCEPT and, held, at
HELD_HEADER_ENQUEUE, and the ring moves on: a free launch number has it, with all its blocks to admit, and a launch entry stands at
the tail of its queue, its slot of the ring written. Where the queue has no room, LAUNCH answers 1, and the ring's header is held
and offered again. A slot that cannot be read stalls the ring and is reported. The bytes of a launch entry are free (log 36). -/
def Obligations.LaunchesAreAccepted : Prop :=
  (∀ s x (o : U2) pa, s.running = some x → Idle s x → LineAt s x [0, 1] (x.uni.pair o.a.toNat) pa →
    let hb := lineBytes s x.gr.ctx pa
    let h := headerOf hb
    let s0 := s.raiseFloor x.gr.ctx (s.pts x.core x.gr.ctx)
    (h.code.toNat % 8 ≠ 0 → h.comp = 0 → ∃ t, exec (.launch o) s = .next t ∧ Status s t x 4 o.d.toNat (6 + 256 * 1) ∧
      t.mem.bytes = s.mem.bytes) ∧
    (∀ c, Offered s x.gr.ctx hb c →
      (c.recs.length < 2 ^ c.log → ∃ t, exec (.launch o) s = .next t ∧ Status s t x 4 o.d.toNat 0 ∧
        Accepted s0 t x.gr.ctx h c (s0.pts x.core x.gr.ctx)) ∧
      (2 ^ c.log ≤ c.recs.length → ∃ t, exec (.launch o) s = .next t ∧ Status s t x 4 o.d.toNat 1 ∧
        t.mem.bytes = s.mem.bytes ∧ (t.ctx x.gr.ctx).launches = (s.ctx x.gr.ctx).launches))) ∧
  (∀ (s s1 : State) ctx bs, RingOffers s s1 ctx bs →
    let hb := bs.map Prod.fst
    ((headerOf hb).code.toNat % 8 ≠ 0 → (headerOf hb).comp = 0 →
      ∃ t, exec (.launchAccept ctx) s = .next t ∧ t.mem = s1.mem ∧ (∀ c k, t.group c k = s1.group c k) ∧
        (t.ctx ctx).rings.lqhead = ((s.ctx ctx).rings.lqhead + 1) % 2 ^ 32 ∧ (t.ctx ctx).launches = (s.ctx ctx).launches) ∧
    (∀ c, Offered s1 ctx hb c →
      (c.recs.length < 2 ^ c.log → ∃ t, exec (.launchAccept ctx) s = .next t ∧ Accepted s1 t ctx (headerOf hb) c 0 ∧
        (t.ctx ctx).heldHdr = none ∧ (t.ctx ctx).rings.lqhead = ((s.ctx ctx).rings.lqhead + 1) % 2 ^ 32) ∧
      (2 ^ c.log ≤ c.recs.length → exec (.launchAccept ctx) s = .next (s1.modCtx ctx fun v => { v with heldHdr := some hb })))) ∧
  (∀ (s s1 : State) ctx c va, (s.ctx ctx).regs.en = true → (s.ctx ctx).rings.lqhead ≠ (s.ctx ctx).rings.lqtail →
    (s.ctx ctx).stalled = false → (s.ctx ctx).heldHdr = none →
    let at_ := (s.ctx ctx).rings.lqbase + 64 * ((s.ctx ctx).rings.lqhead % 2 ^ (s.ctx ctx).rings.lqlog)
    s.agentRead ctx { priv := true } [0, 1] (partsOf at_ 64) = (.error (c, va), s1) →
    exec (.launchAccept ctx) s = .next ((s1.modCtx ctx fun v => { v with stalled := true }).postEvent ctx 13 c 0
      (s.ctx ctx).rings.lqhead at_)) ∧
  ∀ (s : State) ctx hb c, (s.ctx ctx).heldHdr = some hb → Offered s ctx hb c →
    (c.recs.length < 2 ^ c.log → ∃ t, exec (.heldHeaderEnqueue ctx) s = .next t ∧ Accepted s t ctx (headerOf hb) c 0 ∧
      (t.ctx ctx).heldHdr = none ∧ (t.ctx ctx).rings.lqhead = ((s.ctx ctx).rings.lqhead + 1) % 2 ^ 32) ∧
    (2 ^ c.log ≤ c.recs.length → exec (.heldHeaderEnqueue ctx) s = .refused .eventNotDue)

/-- R379, R380, R381, R113: the block at the head of a cluster starts on a core that admits it: its groups stand in the slots, at
the entry, with the preloads of a launch block or of a continuation, every register else 0. A cluster admits at most one block
in a clk, and none before the boot is verified. The block that a launch offers a cluster is one not admitted, no other cluster's
claim, and the lowest of the launch where none is admitted ahead and no cluster has a claim: which block a cluster claims, and when,
is the model's choice (log 88). -/
def Sys2Proof.Claims.BlocksAreAdmitted : Prop :=
  (∀ (s : State) cluster ctx n l, (∀ b, s.offerBlock cluster ctx n l = some b → l.unadmitted b = true ∧
      ∀ c ∈ s.clusters, c.1 ≠ cluster → c.2.claim ≠ some (64 * ctx + n, b)) ∧
    (l.ahead = [] → l.next < l.hdr.blocks → (∀ c ∈ s.clusters, c.2.claim = none) →
      s.offerBlock cluster ctx n l = some l.next)) ∧
  ∀ (s : State) core slot hd l place, topHead (s.heads (core / 24)) = some hd →
    (s.dev.boot = 2 → (s.cluster (core / 24)).admitted ≠ some s.now → l.hdr.count 0 ≤ 8 →
      (∀ n k, hd.rec_ = .launch n → mget (s.ctx hd.ctx).launches n = some l → s.offerBlock (core / 24) hd.ctx n l = some k →
        k < l.w0 + 256 →
        s.admits core slot l.hdr ⟨hd.ctx, n, .launch k, l.hdr.groupsOf k, tplWindow l.template, l.hdr.eclass⟩ = some place →
        ∃ t blk b v, exec (.blockAdmit core slot 0) s = .next t ∧ mget t.blocks blk = some b ∧ b.kind = .launch k ∧
          b.launch = n ∧ b.core = core ∧ b.ctx = hd.ctx ∧ b.slots = place.1 ∧ t.mem = s.mem ∧
          (t.cluster (core / 24)).admitted = some s.now ∧
          mget (t.ctx hd.ctx).launches n = some v ∧ v.hdr = l.hdr ∧ v.alive = l.alive + 1 ∧ v.unadmitted k = false ∧
          (∀ c, c ≠ k → v.unadmitted c = l.unadmitted c) ∧
          ∀ i, i < place.1.length → Started s t core (place.1.getD i 0) blk hd.ctx l.hdr.code (BitVec.ofNat 64 k) l.hdr.arg 0
            ((List.range (l.hdr.count 0)).map fun j => l.hdr.wid (k * l.hdr.groups + i) j)) ∧
      (∀ w0 frame join wid n tree pushed pts, hd.rec_ = .cont w0 frame join wid n tree pushed pts →
        mget (s.ctx hd.ctx).launches n = some l → affOk (w0.toNat / 2 ^ 49 % 4) pushed core = true →
        s.admits core slot l.hdr ⟨hd.ctx, n, .cont tree join.toNat, 1, tplWindow l.template, w0.toNat / 2 ^ 52 % 8⟩ = some place →
        ∃ t blk b, exec (.blockAdmit core slot 0) s = .next t ∧ mget t.blocks blk = some b ∧ b.kind = .cont tree join.toNat ∧
          b.launch = n ∧ t.mem = s.mem ∧
          Started s t core (place.1.getD 0 0) blk hd.ctx ((w0.extractLsb' 0 49).signExtend 64)
            (match tree with | some k => BitVec.ofNat 64 k | none => BitVec.allOnes 64) frame join
            ((List.range (wid.toNat % 8 + 1)).map fun j => (wid &&& 0xFFFFFFFFFFFFFFF8#64) ||| BitVec.ofNat 64 j))) ∧
    (s.dev.boot ≠ 2 ∨ (s.cluster (core / 24)).admitted = some s.now →
      exec (.blockAdmit core slot 0) s = .refused .eventNotDue)

/-- R333, R334, R335: a formed episode starts on a core that admits it, where its shader's record can be used: its rays stand in the
lanes from 0 up, with payload, hit, handles and geometry in v0 to v31, at the shader's entry, with DATA in s0:s1. Where the record
cannot be used its rays end. -/
def Sys2Proof.Claims.EpisodesAreAdmitted : Prop :=
  ∀ (s s1 : State) core slot e (ep : Episode) l place, s.dev.boot = 2 → (s.cluster (core / 24)).admitted ≠ some s.now →
    mget (s.cluster (core / 24)).rays.formed e = some ep → mget (s.ctx ep.ctx).launches ep.launch = some l →
    s.admits core slot l.hdr ⟨ep.ctx, ep.launch, .episode e, 1, 0, l.hdr.eclass⟩ = some place →
    (∀ code data (rays : Nat → Ray), s.shaderRec ep.ctx l ep.shader = (some (code, data), s1) → ep.rays.length ≤ 8 →
      (∀ i, i < ep.rays.length → mget s1.rays (ep.ctx * 2 ^ 24 + ep.rays.getD i 0) = some (rays i) ∧
        (rays i).rec_.payload.length = 16 ∧ (rays i).rec_.geo.length = 8) →
      ∃ t blk g sp, exec (.blockAdmit core slot (e + 1)) s = .next t ∧ (mget t.blocks blk).map Block.kind = some (.episode e) ∧
        mget (t.cluster (core / 24)).rays.formed e = none ∧ t.group core (place.1.getD 0 0) = some g ∧ g.blk = blk ∧
        g.live.toNat = 2 ^ ep.rays.length - 1 ∧ g.splits = [(0, sp)] ∧ sp.pc = Pc.of code ∧ sp.st = .ready ∧ sp.mask = g.live ∧
        g.uni.pair 0 = data ∧ ∀ i, i < ep.rays.length →
          let r := (rays i).rec_
          let ln := g.lane i
          (∀ j, j < 16 → ln.v j = r.payload.getD j 0) ∧ ln.v 16 = r.thit ∧ ln.v 17 = r.prim ∧ ln.v 18 = r.inst ∧
          ln.v 19 = r.bu ∧ ln.v 20 = r.bv ∧ ln.v 21 = BitVec.ofNat 32 (r.n * 2 ^ 16 + r.j * 2 ^ 8 + r.kind) ∧
          ln.v 22 = BitVec.ofNat 32 (ep.rays.getD i 0) ∧ ln.v 23 = (r.flags ||| BitVec.ofNat 32 r.shader) ∧ (∀ j, j < 8 → ln.v (24 + j) = r.geo.getD j 0) ∧
          ln.ray = BitVec.ofNat 32 (ep.rays.getD i 0)) ∧
    (s.shaderRec ep.ctx l ep.shader = (none, s1) → ∃ t, exec (.blockAdmit core slot (e + 1)) s = .next t ∧
      mget (t.cluster (core / 24)).rays.formed e = none ∧ ∀ i ∈ ep.rays, mget t.rays (ep.ctx * 2 ^ 24 + i) = none)

/-- R374, R378, R385, R453: a block whose groups have all ended, with nothing of it in flight and no join, is gone at BLOCK_END; one
with a join whose count is above 1 takes 1 from the count and is gone; a join held in the buffer is tried again in the same way.
QUEUE_ENABLE makes a queue that was OFF an empty one and QUEUE_DISABLE makes it OFF, unless the boot check has failed. -/
def Sys2Proof.Claims.BlocksEndAndQueuesChange : Prop :=
  (∀ (s : State) blk b, mget s.blocks blk = some b → b.groups ≤ b.ended.length → b.joinHeld = false → s.blockBusy blk b = false →
    (b.joins = none → ∃ t, exec (.blockEnd blk) s = .next t ∧ mget t.blocks blk = none ∧
      (∀ k, k ≠ blk → mget t.blocks k = mget s.blocks k) ∧
      (∀ c k g, s.group c k = some g → c ≠ b.core → t.group c k = some g) ∧
      ∀ k g, t.group b.core k = some g → g.blk ≠ blk) ∧
    (∀ j e pa s1, b.joins = some j → j % 64 = 0 → canonical (BitVec.ofNat 64 j) = true →
      ((s.raiseFloor b.ctx (s.pts b.core b.ctx)).dropHolder b.core blk).agentTranslate b.ctx j { write := true } = (.ok (e, pa), s1) →
      pteClass e = 0 → AtHome s1 pa → pa % 64 = 0 → 1 < lineNum s1 b.ctx pa 0 4 → s1.blocks = s.blocks →
      let u := stamped (countStore s1 b.ctx pa (lineNum s1 b.ctx pa 0 4 - 1)) pa (s1.pts b.core b.ctx)
      ∃ t, exec (.blockEnd blk) s = .next t ∧ t = (unheld u (b.core / 24) blk).dropBlock blk b ∧ mget t.blocks blk = none ∧
        (SliceRoom (countStore s1 b.ctx pa (lineNum s1 b.ctx pa 0 4 - 1)) pa →
          lineNum u b.ctx pa 0 4 = lineNum s1 b.ctx pa 0 4 - 1 ∧ OnlyBytes s1 u b.ctx pa 0 4))) ∧
  (∀ (s s1 : State) k i h b e pa, mget (s.cluster k).joins i = some h → mget s.blocks h.blk = some b → b.core / 24 = k →
    h.counter % 64 = 0 → canonical (BitVec.ofNat 64 h.counter) = true →
    s.agentTranslate b.ctx h.counter { write := true } = (.ok (e, pa), s1) → pteClass e = 0 → AtHome s1 pa → pa % 64 = 0 →
    s1.blocks = s.blocks →
    let u := stamped (countStore s1 b.ctx pa (lineNum s1 b.ctx pa 0 4 - 1)) pa (s1.pts b.core b.ctx)
    (1 < lineNum s1 b.ctx pa 0 4 → ∃ t, exec (.joinBufferRetry k i) s = .next t ∧ t = (unheld u k h.blk).dropBlock h.blk b ∧
      mget t.blocks h.blk = none ∧ (∀ j g, mget (t.cluster k).joins j = some g → g.blk ≠ h.blk) ∧
      (SliceRoom (countStore s1 b.ctx pa (lineNum s1 b.ctx pa 0 4 - 1)) pa →
        lineNum u b.ctx pa 0 4 = lineNum s1 b.ctx pa 0 4 - 1 ∧ OnlyBytes s1 u b.ctx pa 0 4))) ∧
  (∀ (s : State) ctx q, s.dev.boot = 3 → exec (.queueEnable ctx q) s = .next s ∧ exec (.queueDisable ctx q) s = .next s) ∧
  ∀ (s : State) ctx q, q < 64 → s.dev.boot ≠ 3 →
    (mget (s.ctx ctx).queues q = none → ∃ t c, exec (.queueEnable ctx q) s = .next t ∧ t.mem = s.mem ∧
      mget (t.ctx ctx).queues q = some c ∧ c.recs = [] ∧ c.log = (mgetD (s.ctx ctx).qd q {}).log ∧
      (∀ c k, t.group c k = s.group c k) ∧ ∀ k, k ≠ q → mget (t.ctx ctx).queues k = mget (s.ctx ctx).queues k) ∧
    (∀ c, mget (s.ctx ctx).queues q = some c → ∃ t, exec (.queueEnable ctx q) s = .next t ∧ t.mem = s.mem ∧
      (t.ctx ctx).queues = (s.ctx ctx).queues) ∧
    ∃ t, exec (.queueDisable ctx q) s = .next t ∧ mget (t.ctx ctx).queues q = none ∧
      ∀ k, k ≠ q → mget (t.ctx ctx).queues k = mget (s.ctx ctx).queues k

/-- BlocksAreAdmitted; EpisodesAreAdmitted; BlocksEndAndQueuesChange: all of these hold. -/
def Obligations.BlocksStartAndEnd : Prop :=
  Sys2Proof.Claims.BlocksAreAdmitted ∧ Sys2Proof.Claims.EpisodesAreAdmitted ∧ Sys2Proof.Claims.BlocksEndAndQueuesChange

namespace Sys2Proof.Claims
open Sys2Proof.Machine

/-! ### Matrix arrays -/

/-- The cores that a matrix instruction acts on: its own and, in pair form, the follower. -/
def coresOf (x : Ex) (pair : Bool) : List Nat := if pair then [x.core, x.core + 1] else [x.core]
/-- A matrix instruction may enter the queue: no drain runs on its cores, no earlier matrix instruction of the core is held, no
acquire of the group is without its result, the queue has room, and a pair form has its follower (R239, R293, R304, R309). -/
structure MatrixTurn (s : State) (x : Ex) (pair : Bool) : Prop where
  drain : ∀ c ∈ coresOf x pair, ∀ r ∈ (s.core c).res, r.2 ≠ .draining
  turn : s.mxTurn x = true
  acquire : s.acqBusy x = false
  room : (s.core x.core).mx.queue.length < 16
  bound : pair = true → x.core % 2 = 0 ∧ (s.core x.core).mx.bound = some x.gr.blk
/-- A matrix instruction that names the tiles passes reasons 1 to 3 (R307). -/
structure MatrixReady (s : State) (x : Ex) (pair : Bool) (tiles : List Nat) : Prop extends MatrixTurn s x pair where
  allotted : ∀ c ∈ coresOf x pair, ∀ t ∈ tiles, t < [4, 8, 0, 4, 12, 0, 6, 4].getD (s.core c).part 0
  alone : pair = false → x.core % 2 = 1 → (s.core (x.core - 1)).mx.bound = none
/-- The control word of a tile as the operations in the queue will leave it (R307). -/
def issueCtl (s : State) (c t : Nat) : TileCtl := mgetD (s.core c).mx.copies t {}
/-- The operation stands at the end of the core's queue, not started, and the split goes on; no tile, no memory and no other
group has changed. -/
def Enqueues (s : State) (x : Ex) (i : Instr) (n : Nat) (op : MxOp) (pair : Bool) : Prop :=
  ∃ t e, exec i s = .next t ∧ (t.core x.core).mx.queue = (s.core x.core).mx.queue ++ [e] ∧ e.op = op ∧ e.pair = pair ∧
    e.started = none ∧ e.who.uid = x.gr.uid ∧ t.mem = s.mem ∧ OtherGroups s t x ∧ t.group x.core x.slot = some (after x n) ∧
    ∀ c, (t.core c).mx.tiles = (s.core c).mx.tiles ∧ (t.core c).mx.plane = (s.core c).mx.plane
/-- Spans of n bytes at scratch addresses that lie in the own window, with no mapping in the core. -/
structure Spans (s : State) (x : Ex) (w : Window) (l : List Nat) (n : Nat) : Prop where
  win : s.blockWin x.core x.gr.blk = some w
  plain : ∀ p ∈ (s.core x.core).scratch.wins, p.2.maps = []
  inside : ∀ a ∈ l, a / 2 ^ 20 = 31 ∧ a % 2 ^ 20 + n ≤ w.len
/-- The place in the core's scratch of a scratch address in the own window. -/
def ownPlace (x : Ex) (w : Window) (a : Nat) : Nat × Nat := (x.core, w.off + a % 2 ^ 20)
/-- The scratch addresses of the rows of A of an operation (R302, R314). -/
def rowAddrs (ma : BitVec 128) (ka : Nat) (rows : List (Nat × Nat)) : List Nat :=
  rows.map fun r => (mapBase ma + r.1 * mapStride ma + byteOf (mapFmt ma) ka) % 2 ^ 32
/-- The scratch addresses of the scales of those rows. -/
def scaleAddrs (ma : BitVec 128) (ka : Nat) (rows : List (Nat × Nat)) : List Nat :=
  if mapMx ma then rows.map fun r => (mapScale ma + r.1 * mapSstride ma + ka / 32) % 2 ^ 32 else []
/-- The maps of a multiply are valid, of one format class, A in scratch or in rows and B in the plane, and its offsets suit
them. -/
structure Maps (x : Ex) (c : MmaC) (ma mb : BitVec 128) (kk : Nat) : Prop where
  a : mget x.uni.maps c.ma.toNat = some ma
  b : mget x.uni.maps c.mb.toNat = some mb
  srcA : mapSrc ma ≠ 2
  srcB : mapSrc mb = 2
  class_ : fmtClass (mapFmt ma) = fmtClass (mapFmt mb)
  steps : kk % 65536 % 4 = 0 ∧ kk / 65536 % 4 = 0
  depth : mapBase mb + byteOf (mapFmt mb) (kk / 65536) + bytesOf (mapFmt mb) (kk / 65536) (c.kl.toNat + 1) ≤ 32768
  scales : mapMx mb = true → mapScale mb + kk / 65536 / 32 + scalesOf (kk / 65536) (c.kl.toNat + 1) ≤ 32768
/-- The rows of A and their scales stand in the own window, or in the slots of a chain of rows that the block holds open (R294,
R302). -/
structure OperandA (s : State) (x : Ex) (w : Window) (ma : BitVec 128) (ka kl : Nat) (rows chain : List (Nat × Nat)) : Prop where
  scratch : mapSrc ma = 0 → chain = [] ∧ Spans s x w (rowAddrs ma ka rows) (bytesOf (mapFmt ma) ka kl) ∧
    Spans s x w (scaleAddrs ma ka rows) (scalesOf ka kl)
  slots : mapSrc ma ≠ 0 → mapSlot ma + chainTop ma ka kl (rows.map Prod.fst) ≤ 15 ∧
    chain.map Prod.fst = (if rows = [] then [] else
      (List.range (chainTop ma ka kl (rows.map Prod.fst) + 1)).map fun i => mapSlot ma + i) ∧
    ∀ c ∈ chain, ∃ r, mget (s.core x.core).rows.slots c.1 = some r ∧ r.blk = x.gr.blk ∧ r.row = c.2 ∧
      (r.st = .opening ∨ r.st = .open_ ∨ r.st = .dirty)
/-- A multiply as it stands in the queue (R293). -/
def mulOp (x : Ex) (w : Window) (t : Nat) (kind : MulKind) (ma mb : BitVec 128) (kk kl cols : Nat) (rows chain : List (Nat × Nat)) :
    MxOp :=
  let scr := fun (l : List Nat) => if mapSrc ma = 0 then l.map (ownPlace x w) else []
  .mul t kind ma mb (kk % 65536) (kk / 65536) kl rows cols chain (scr (rowAddrs ma (kk % 65536) rows))
    (scr (scaleAddrs ma (kk % 65536) rows))
/-- Two tiles form a link of speculation as the queue will leave them. -/
def Linked (s : State) (c t u : Nat) : Prop :=
  (issueCtl s c t).spec = 1 ∧ (issueCtl s c t).link = u ∧ (issueCtl s c u).spec = 2 ∧ (issueCtl s c u).link = t

end Sys2Proof.Claims

/-! ### Matrix arrays -/

/-- R293, R307, R313, R314, R315, R316: MMA, MMA.C, MMAS and MMAG that pass their checks enter the core's queue and complete, with the
tile, the maps, the offsets of s[a], the rows and the columns of their control word; MMAG reads its rows from its two lists at
issue, what a poisoned entry of them reads as being free (entry 93), and leaves out those whose entry is 0xFF. -/
def Sys2Proof.Claims.MultipliesEnterTheQueue : Prop :=
  ∀ s x (w : Window) (ma mb : BitVec 128) chain, s.running = some x →
    let plain := fun (c : MmaC) => (List.range (8 * (c.m.toNat + 1))).map fun i => (i, i)
    let kk := fun (a : BitVec 6) => (x.uni.sr a.toNat).toNat
    let op := fun (t : Nat) (kind : MulKind) (a : BitVec 6) (c : MmaC) (rs : List (Nat × Nat)) =>
      mulOp x w t kind ma mb (kk a) (c.kl.toNat + 1) (8 * (c.n.toNat + 1)) rs chain
    (∀ o : MmaO, Maps x o.c ma mb (kk o.a) → OperandA s x w ma (kk o.a % 65536) (o.c.kl.toNat + 1) (plain o.c) chain →
      (MatrixReady s x o.c.p [o.t.toNat] →
        (∀ c ∈ coresOf x o.c.p, (issueCtl s c o.t.toNat).spec = 0 ∧ (issueCtl s c o.t.toNat).lvl = false ∧
          (issueCtl s c o.t.toNat).cl = 0) →
        Enqueues s x (.mma o) 8 (op o.t.toNat .plain o.a o.c (plain o.c)) o.c.p) ∧
      (MatrixReady s x o.c.p ((List.range (o.u.toNat + 1)).map (o.t.toNat + ·)) →
        (∀ c ∈ coresOf x o.c.p, (issueCtl s c o.t.toNat).spec = 0 ∧ (issueCtl s c o.t.toNat).lvl = false ∧
          (issueCtl s c o.t.toNat).cl = o.u.toNat) →
        Enqueues s x (.mmaC o) 8 (op o.t.toNat .canonical o.a o.c (plain o.c)) o.c.p) ∧
      (MatrixReady s x o.c.p [o.t.toNat, o.u.toNat] →
        (∀ c ∈ coresOf x o.c.p, (o.t ≠ o.u ∧ (issueCtl s c o.t.toNat).spec = 0 ∧ (issueCtl s c o.u.toNat).spec = 0 ∨
            Linked s c o.t.toNat o.u.toNat) ∧
          ∀ v ∈ [o.t.toNat, o.u.toNat], (issueCtl s c v).lvl = false ∧ (issueCtl s c v).cl = 0) →
        Enqueues s x (.mmas o) 8 (op o.t.toNat (.spec o.u.toNat) o.a o.c (plain o.c)) o.c.p)) ∧
    (∀ (o : MmagO) (idx sc : Nat → Nat),
      let m := 8 * (o.c.m.toNat + 1)
      let ia := (x.uni.sr (o.a.toNat + 1)).toNat
      let ca := (x.uni.sr o.b.toNat).toNat
      let rs := ((List.range m).map fun i => (idx i, sc i)).filter fun r => r.2 ≠ 255
      Maps x o.c ma mb (kk o.a) → ia % 2 = 0 → Spans s x w [ia] (2 * m) → Spans s x w [ca] m →
      (∀ i, i < m → idx i = (s.core x.core).scratch.entry (w.off + ia % 2 ^ 20 + 2 * i) 2 ∧
        sc i = (s.core x.core).scratch.entry (w.off + ca % 2 ^ 20 + i) 1 ∧ (sc i < 128 ∨ sc i = 255) ∧
        ∀ j, j < i → sc i = sc j → sc i = 255) →
      OperandA s x w ma (kk o.a % 65536) (o.c.kl.toNat + 1) rs chain → MatrixReady s x o.c.p [o.t.toNat] →
      (∀ c ∈ coresOf x o.c.p, (issueCtl s c o.t.toNat).spec = 0 ∧ (issueCtl s c o.t.toNat).lvl = false ∧
        (issueCtl s c o.t.toNat).cl = 0) →
      Enqueues s x (.mmag o) 8 (op o.t.toNat .plain o.a o.c rs) o.c.p)

/-- R307, R317, R318, R319, R320: ACC.ZERO, ACC.COMMIT, ACC.DROP, ACC.MERGE, ACCLD and ACCST that pass their checks enter the queue;
ACC.POISON waits until the operations that entered before it have left and reads the poison maps of the tile, those of the follower
behind the leader's in pair form, clearing them in its .clr form. -/
def Sys2Proof.Claims.TileInstructionsEnterTheQueue : Prop :=
  ∀ s x, s.running = some x →
    (∀ o : AccZ, MatrixReady s x o.p ((List.range (o.n.toNat + 1)).map (o.t.toNat + ·)) →
      (∀ c ∈ coresOf x o.p, ∀ i, i ≤ o.n.toNat → (issueCtl s c (o.t.toNat + i)).spec = 0) →
      Enqueues s x (.accZero o) 4 (.zero o.t.toNat o.n.toNat) o.p) ∧
    (∀ o : AccC, MatrixReady s x o.p [o.t.toNat, o.u.toNat] →
      (∀ c ∈ coresOf x o.p, Linked s c o.t.toNat o.u.toNat) →
      Enqueues s x (.accCommit o) 4 (.commit o.t.toNat o.u.toNat (x.uni.c o.c.p != o.c.n)) o.p) ∧
    (∀ o : AccZ, MatrixReady s x o.p [o.t.toNat, o.n.toNat] →
      ((∀ c ∈ coresOf x o.p, Linked s c o.t.toNat o.n.toNat) →
        Enqueues s x (.accDrop o) 4 (.drop o.t.toNat o.n.toNat) o.p) ∧
      ((∀ c ∈ coresOf x o.p, (∀ v ∈ [o.t.toNat, o.n.toNat], (issueCtl s c v).spec = 0 ∧ (issueCtl s c v).lvl = false ∧
          (issueCtl s c v).cl ≠ 0) ∧ (o.t.toNat + (issueCtl s c o.t.toNat).cl < o.n.toNat ∨
          o.n.toNat + (issueCtl s c o.n.toNat).cl < o.t.toNat)) →
        Enqueues s x (.accMerge o) 4 (.merge o.t.toNat o.n.toNat) o.p)) ∧
    (∀ (o : AccIo) w,
      let z := if o.fmt.toNat = 0 then 4 else if o.fmt.toNat < 3 then 2 else 1
      let a := (x.uni.sr o.a.toNat).toNat
      let rows := 8 * (o.rows.toNat + 1)
      let l := (List.range rows).map fun i => (a + i * o.stride.toNat) % 2 ^ 32
      MatrixReady s x o.p [o.t.toNat] → a % z = 0 → o.stride.toNat % z = 0 →
      Spans s x w l (128 * z * (coresOf x o.p).length) →
      ((∀ c ∈ coresOf x o.p, (issueCtl s c o.t.toNat).spec = 0 ∧ (issueCtl s c o.t.toNat).lvl = false ∧
          (issueCtl s c o.t.toNat).cl = 0) →
        Enqueues s x (.accld o) 8 (.load o.t.toNat o.fmt.toNat (l.map (ownPlace x w)) (8 * o.row0.toNat) rows) o.p) ∧
      Enqueues s x (.accst o) 8 (.store o.t.toNat o.fmt.toNat o.sat (l.map (ownPlace x w)) (8 * o.row0.toNat) rows) o.p) ∧
    (∀ o : AccP, MatrixReady s x o.p [o.t.toNat] → (∀ e ∈ (s.core x.core).mx.queue, x.seq s.nextId ≤ e.id) →
      let m := fun c => (mgetD (s.core c).mx.tiles o.t.toNat {}).poison
      ∃ t g, exec (.accPoison o) s = .next t ∧ t.mem = s.mem ∧ OtherGroups s t x ∧
        t.group x.core x.slot = some g ∧ Advances x.gr g x.entry 4 ∧
        (∀ i, i < 8 → g.uni.sr (o.d.toNat + i) = (m x.core).extractLsb' (32 * i) 32 ∧
          (o.p = true → g.uni.sr (o.d.toNat + 8 + i) = (m (x.core + 1)).extractLsb' (32 * i) 32)) ∧
        (∀ r, r < o.d.toNat ∨ o.d.toNat + 8 * (coresOf x o.p).length ≤ r → g.uni.sr r = x.gr.uni.sr r) ∧
        ∀ c ∈ coresOf x o.p, (mgetD (t.core c).mx.tiles o.t.toNat {}).poison = (if o.clr then 0 else m c) ∧
          (mgetD (t.core c).mx.tiles o.t.toNat {}).elems = (mgetD (s.core c).mx.tiles o.t.toNat {}).elems)

/-- MultipliesEnterTheQueue; TileInstructionsEnterTheQueue: all of these hold. -/
def Obligations.MatrixInstructionsEnterTheQueue : Prop :=
  Sys2Proof.Claims.MultipliesEnterTheQueue ∧ Sys2Proof.Claims.TileInstructionsEnterTheQueue

/-- R302, R321 to R327, R304: AMAP loads a valid image into an operand map, and raises reason 4 for one that is not valid. BPL.LD and
BPL.ZERO enter the queue. PAIR.BIND answers 1 on an odd core, 3 where another block is bound, 2 where the follower is not the
context's, 4 where it has another code and a block, and else 0, and binds; PAIR.FREE ends the binding and answers 0, or 1 where
there is none; MWAIT goes on when no earlier operation of the group is in the queue, MWAIT.rd when none has operands to read, and
else waits. -/
def Obligations.MapsPlanesAndPairs : Prop :=
  ∀ s x, s.running = some x →
    (∀ o : AmapO,
      let m := x.uni.sr (o.a.toNat + 3) ++ x.uni.sr (o.a.toNat + 2) ++ x.uni.sr (o.a.toNat + 1) ++ x.uni.sr o.a.toNat
      (mapOk m = true → ∃ t g, exec (.amap o) s = .next t ∧ OnlyGroup s t x g ∧
        g = { after x 4 with uni := { x.gr.uni with maps := mset x.gr.uni.maps o.n.toNat m } }) ∧
      (mapOk m = false → exec (.amap o) s = trapAt s x 0xE x.sp.mask (o.n.zeroExtend 32) 4)) ∧
    (∀ (o : BplO) w,
      let sb := (x.uni.sr o.b.toNat).toNat
      let sa := (x.uni.sr o.a.toNat).toNat
      let n := 32 * (o.len.toNat + 1)
      let l := (List.range (o.cols.toNat + 1)).map fun c => (sa + c * (32 * o.ss.toNat)) % 2 ^ 32
      MatrixTurn s x o.f → sb < 2 ^ 22 → sb % 32 = 0 → sa % 32 = 0 → sb % 32768 + n ≤ 32768 → sb / 32768 + o.cols.toNat < 128 →
      Spans s x w l n → Enqueues s x (.bplLd o) 8 (.planeLd sb n (o.cols.toNat + 1) (l.map (ownPlace x w))) o.f) ∧
    (∀ o : BpzO,
      let sb := (x.uni.sr o.b.toNat).toNat
      let n := 32 * (o.len.toNat + 1)
      MatrixTurn s x o.f → sb < 2 ^ 22 → sb % 32 = 0 → sb % 32768 + n ≤ 32768 → sb / 32768 + o.cols.toNat < 128 →
      Enqueues s x (.bplZero o) 8 (.planeZero sb n (o.cols.toNat + 1)) o.f) ∧
    (∀ o : Ud,
      let k := (s.core x.core).mx
      let f := s.core (x.core + 1)
      let mine := mget f.res x.gr.ctx = some .active
      (∀ st, (x.core % 2 = 1 ∧ st = 1) ∨ (x.core % 2 = 0 ∧ f.mx.queue = [] ∧
          ((k.bound = some x.gr.blk ∧ st = 0) ∨ ((∃ b, k.bound = some b ∧ b ≠ x.gr.blk) ∧ st = 3) ∨
          (k.bound = none ∧ ¬mine ∧ st = 2) ∨
          (k.bound = none ∧ mine ∧ f.part ≠ (s.core x.core).part ∧ s.openCore (x.core + 1) = false ∧ st = 4))) →
        ∃ t g, exec (.pairBind o) s = .next t ∧ OnlyGroup s t x g ∧
          g = { after x 4 with uni := x.gr.uni.setS o.d.toNat (BitVec.ofNat 32 st) }) ∧
      (x.core % 2 = 0 → f.mx.queue = [] → k.bound = none → mine →
        f.part = (s.core x.core).part ∨ s.openCore (x.core + 1) = true →
        ∃ t, exec (.pairBind o) s = .next t ∧ t.mem = s.mem ∧ OtherGroups s t x ∧
          (t.core x.core).mx.bound = some x.gr.blk ∧ (t.core (x.core + 1)).part = (s.core x.core).part ∧
          t.group x.core x.slot = some { after x 4 with uni := x.gr.uni.setS o.d.toNat 0 }) ∧
      (x.core % 2 = 0 → k.bound = some x.gr.blk → (∀ e ∈ k.queue, e.pair = true → e.who.blk ≠ x.gr.blk) →
        ∃ t, exec (.pairFree o) s = .next t ∧ t.mem = s.mem ∧ OtherGroups s t x ∧ (t.core x.core).mx.bound = none ∧
          t.group x.core x.slot = some { after x 4 with uni := x.gr.uni.setS o.d.toNat 0 }) ∧
      (x.core % 2 = 1 ∨ k.bound ≠ some x.gr.blk → ∃ t g, exec (.pairFree o) s = .next t ∧ OnlyGroup s t x g ∧
        g = { after x 4 with uni := x.gr.uni.setS o.d.toNat 1 })) ∧
    (∀ o : MwaitO,
      let earlier := fun (e : MxEntry) => e ∈ (s.core x.core).mx.queue ∧ e.who.uid = x.gr.uid ∧ e.who.seq < x.seq s.nextId
      ((∀ e, earlier e → o.r = true ∧ e.reading = false) → ∃ t g, exec (.mwait o) s = .next t ∧ OnlyGroup s t x g ∧
        g = after x 4) ∧
      ((∃ e, earlier e ∧ (o.r = true → e.reading = true)) → ∃ t g, exec (.mwait o) s = .next t ∧ OnlyGroup s t x g ∧
        mget g.splits x.entry = (mget x.gr.splits x.entry).map fun sp => { sp with st := .wait .poll }))

namespace Sys2Proof.Claims
open Sys2Proof.Machine

/-! ### The array at work -/

def tileOf (s : State) (c v : Nat) : Tile := mgetD (s.core c).mx.tiles v {}
def ctlOf (s : State) (c v : Nat) : TileCtl := mgetD (s.core c).mx.ctls v {}
/-- The cores that an operation acts on. -/
def opCores (core : Nat) (e : MxEntry) : List Nat := if e.pair then [core, core + 1] else [core]
/-- The clks from its stream's end, or from its start, to the landing of an operation's results (R292). -/
def landTime (s : State) (core : Nat) (e : MxEntry) : Nat :=
  let moved := fun (fmt n : Nat) => 8 + (n * (128 * (if fmt = 0 then 4 else if fmt < 3 then 2 else 1) * (opCores core e).length) + 511) / 512
  match e.op with
  | .mul _ .canonical .. => 32
  | .mul .. => 24
  | .zero _ n => 8 * (n + 1)
  | .commit .. => 1
  | .drop .. => 1
  | .merge _ u => 8 * ((List.range (ctlOf s core u).cl).filter fun i => (ctlOf s core (u + 1 + i)).occ).length
  | .load _ fmt spans _ _ => moved fmt spans.length
  | .store _ fmt _ spans _ _ => moved fmt spans.length
  | .planeLd _ n cols _ => 8 + (n * cols + 255) / 256
  | .planeZero _ n cols => 8 + (n * cols + 2047) / 2048
/-- The head of the queue, whose results land now: a multiply whose stream has ended that long ago, another operation that has
started that long ago. -/
structure LandsNow (s : State) (core : Nat) (e : MxEntry) (rest : List MxEntry) : Prop where
  head : (s.core core).mx.queue = e :: rest
  alone : ∀ u ∈ rest, u.id ≠ e.id
  time : ∃ b, (match e.op with | .mul .. => e.read | _ => e.started) = some b ∧ b + landTime s core e ≤ s.now
/-- An operation has left the queue; memory, the groups but its own, and the tiles of other cores are as they were. -/
structure Landed (s t : State) (core : Nat) (e : MxEntry) (rest : List MxEntry) : Prop where
  queue : (t.core core).mx.queue = rest
  memory : t.mem = s.mem
  groups : ∀ c k, ¬(c = e.who.core ∧ k = e.who.slot) → t.group c k = s.group c k
  others : ∀ c, c ∉ opCores core e → ∀ v, tileOf t c v = tileOf s c v ∧ ctlOf t c v = ctlOf s c v
/-- The tiles of a core but some, and their control words. -/
def TilesBut (s t : State) (c : Nat) (l : List Nat) : Prop := ∀ v, v ∉ l → tileOf t c v = tileOf s c v ∧ ctlOf t c v = ctlOf s c v
/-- The values of the levels of the counter headed at t: of those that are occupied (R46, R297). -/
def levelsOf (s : State) (c t : Nat) : Nat → Option Tile :=
  fun i => if (ctlOf s c (t + 1 + i)).occ = true then some (tileOf s c (t + 1 + i)) else none
/-- A value arrives at a level of a counter of L levels (R46): below the top, what is occupied is added to it, is emptied and hands
the sum on. -/
def arriveAt (L : Nat) : Nat → (Nat → Option Tile) → Tile → Nat → Nat → Option Tile
  | 0, lv, x, i => fun j => if j = i then some (match lv i with | some y => (y.add true x).1 | none => x) else lv j
  | n + 1, lv, x, i =>
    match lv i with
    | none => fun j => if j = i then some x else lv j
    | some y =>
      if i < L - 1 then arriveAt L n (fun j => if j = i then none else lv j) (y.add true x).1 (i + 1)
      else fun j => if j = i then some (y.add true x).1 else lv j
/-- The head of a counter: the occupied levels added from the lowest up. -/
def foldOf (L : Nat) (lv : Nat → Option Tile) : Tile :=
  match (List.range L).filterMap lv with
  | [] => {}
  | y :: l => l.foldl (fun y c => (c.add true y).1) y
/-- A counter of a core holds these levels, and its head their sum. -/
def Counts (t : State) (c v L : Nat) (lv : Nat → Option Tile) : Prop :=
  (∀ i, i < L → levelsOf t c v i = lv i) ∧ tileOf t c v = foldOf L lv
/-- The element that ACCLD takes from a code, and whether it is poisoned (R44, R320). -/
def Loaded (fmt c : Nat) (bad : Bool) (w : Word) (p : Bool) : Prop :=
  let f := if fmt = 0 then fF32 else if fmt = 1 then fBf16 else fF16
  let k := c % 2 ^ (f.w + f.m)
  ((bad = true ∨ (f.maxFin < k ∧ f.inf ≠ some k)) → w = 0 ∧ p = true) ∧
  (bad = false → f.inf = some k → w.toNat = c / 2 ^ (f.w + f.m) * 2 ^ 31 + 0x7F7FFFFF ∧ p = true) ∧
  (bad = false → k ≤ f.maxFin → FiniteCode fF32 w.toNat ∧ valOf fF32 w.toNat = valOf f c ∧
    w.toNat / 2 ^ 31 = c / 2 ^ (f.w + f.m) ∧ p = false)
/-- Spans of n bytes that stand in windows of the context, in parts of scratch without mappings, at words. -/
structure SpansHere (s : State) (ctx : Nat) (l : List (Nat × Nat)) (n : Nat) : Prop where
  there : ∀ p ∈ l, s.spanThere ctx (p.1, p.2, n) = true
  plain : ∀ p ∈ l, ∀ w ∈ (s.core p.1).scratch.wins, w.2.maps = []
  words : ∀ p ∈ l, p.2 % 4 = 0

end Sys2Proof.Claims

/-- R292, R293, R309: the operation at the head of the queue starts; before the time of R292 is over, or before it has started, or,
for a multiply, before its stream has ended, no operation of the queue completes. A stream's end and the times are as logs 29 and
32 take them. -/
def Sys2Proof.Claims.OperationsTakeTheirTime : Prop :=
  ∀ (s : State) core e rest, (s.core core).mx.queue = e :: rest → (∀ u ∈ rest, u.id ≠ e.id) →
    (e.started = none → ∃ t, exec (.matrixOpStart core) s = .next t ∧
      (t.core core).mx.queue = { e with started := some s.now } :: rest ∧ (t.core core).mx.tiles = (s.core core).mx.tiles ∧
      (∀ c k, t.group c k = s.group c k) ∧ (e.reads = [] → t.mem = s.mem)) ∧
    ((∀ u ∈ rest, s.mxDone core u = false) →
      (∀ b, (match e.op with | .mul .. => e.read | _ => e.started) = some b → s.now < b + landTime s core e) →
      exec (.matrixOpComplete core) s = .refused .eventNotDue)

/-- R314, R316, R46, R297, R298: a multiply whose stream has ended 24 clk ago, 32 for MMA.C, adds its step: to its tile; for MMAS to
the shadow, which the first MMAS of a link copies and links; for MMA.C it arrives in the counter, its levels and its head as R46
has them, and COUNT grows. Operands are read at the stream's end: the model's reading (log 29). -/
def Sys2Proof.Claims.MultipliesLand : Prop :=
  ∀ (s : State) core e rest t kind ma mb ka kb kl rows n ch sp sc, LandsNow s core e rest →
    e.op = .mul t kind ma mb ka kb kl rows n ch sp sc → e.steps.length = (opCores core e).length →
    (∀ u, kind = .spec u → u ≠ t) →
    ∃ u, exec (.matrixOpComplete core) s = .next u ∧ Landed s u core e rest ∧ ∀ i c, (opCores core e)[i]? = some c →
      let st := (e.steps.getD i ({}, false)).1
      (kind = .plain → tileOf u c t = ((tileOf s c t).add false st).1 ∧ ctlOf u c t = ctlOf s c t ∧ TilesBut s u c [t]) ∧
      (∀ v, kind = .spec v → TilesBut s u c [t, v] ∧ tileOf u c t = tileOf s c t ∧
        ((ctlOf s c t).spec = 0 → tileOf u c v = ((tileOf s c t).add false st).1 ∧
          ctlOf u c t = { ctlOf s c t with spec := 1, link := v } ∧ ctlOf u c v = { ctlOf s c v with spec := 2, link := t }) ∧
        ((ctlOf s c t).spec ≠ 0 → tileOf u c v = ((tileOf s c v).add false st).1 ∧ ctlOf u c t = ctlOf s c t ∧
          ctlOf u c v = ctlOf s c v)) ∧
      (kind = .canonical → 0 < (ctlOf s c t).cl →
        let L := (ctlOf s c t).cl
        Counts u c t L (arriveAt L L (levelsOf s c t) st.clean 0) ∧
          ctlOf u c t = { ctlOf s c t with count := min ((ctlOf s c t).count + 1) 0xFFFFF } ∧
          TilesBut s u c ((List.range (L + 1)).map (t + ·)))

/-- R318, R47: ACC.ZERO makes its tiles +0 without poison, and a counter of them; ACC.COMMIT of a condition that held exchanges the
two tiles, and ACC.DROP leaves them, and both end the link; ACC.MERGE lets the occupied levels of a counter arrive in another from
the highest down, and adds its step count. -/
def Sys2Proof.Claims.TilesChange : Prop :=
  ∀ (s : State) core e rest, LandsNow s core e rest →
    let runs := fun (P : State → Nat → Prop) => ∃ u, exec (.matrixOpComplete core) s = .next u ∧ Landed s u core e rest ∧
      ∀ c ∈ opCores core e, P u c
    let unlinked := fun (u : State) c v => ctlOf u c v = { ctlOf s c v with spec := 0, link := 0 }
    (∀ t n, e.op = .zero t n → runs fun u c => (∀ i, i ≤ n → tileOf u c (t + i) = {}) ∧
      (ctlOf u c t).cl = n ∧ (ctlOf u c t).count = 0 ∧ (ctlOf u c t).lvl = false ∧
      (∀ i, 0 < i → i ≤ n → (ctlOf u c (t + i)).lvl = true ∧ (ctlOf u c (t + i)).occ = false ∧ (ctlOf u c (t + i)).cl = 0) ∧
      TilesBut s u c ((List.range (n + 1)).map (t + ·))) ∧
    (∀ t v cond, e.op = .commit t v cond → t ≠ v → runs fun u c =>
      tileOf u c t = tileOf s c (if cond then v else t) ∧ tileOf u c v = tileOf s c (if cond then t else v) ∧
      unlinked u c t ∧ unlinked u c v ∧ TilesBut s u c [t, v]) ∧
    (∀ t v, e.op = .drop t v → t ≠ v → runs fun u c => tileOf u c t = tileOf s c t ∧ tileOf u c v = tileOf s c v ∧
      unlinked u c t ∧ unlinked u c v ∧ TilesBut s u c [t, v]) ∧
    (∀ t v, e.op = .merge t v →
      (∀ c ∈ opCores core e, 0 < (ctlOf s c t).cl ∧ (t + (ctlOf s c t).cl < v ∨ v + (ctlOf s c v).cl < t)) → runs fun u c =>
        let L := (ctlOf s c t).cl
        let up := ((List.range (ctlOf s c v).cl).reverse.filterMap fun i => (levelsOf s c v i).map fun x => (i, x))
        let lv := up.foldl (fun lv p => arriveAt L L lv (p.2.clean) (min p.1 (L - 1))) (levelsOf s c t)
        (∀ i, i < L → levelsOf u c t i = lv i) ∧ (tileOf u c t = if up = [] then tileOf s c t else foldOf L lv) ∧
          ctlOf u c t = { ctlOf s c t with count := min ((ctlOf s c t).count + (ctlOf s c v).count) 0xFFFFF } ∧
          TilesBut s u c ((List.range (L + 1)).map (t + ·)))

/-- R319, R320, R301, R323: ACCLD replaces the rows of its tiles by the elements of its spans and sets the poison bits of their
blocks; ACCST writes the elements of its rows, converted as CVT does without a flush, into its spans, with the poison of their
blocks, and changes no tile; BPL.LD writes its runs of the plane with the bytes of its spans and their poison, and BPL.ZERO makes
its runs 0. They read and write their spans when they complete: the model's reading (log 29). -/
def Sys2Proof.Claims.SpansMove : Prop :=
  ∀ (s : State) core e rest, LandsNow s core e rest →
    let z := fun (fmt : Nat) => if fmt = 0 then 4 else if fmt < 3 then 2 else 1
    let width := fun fmt => 128 * z fmt * (opCores core e).length
    let plane := if e.pair then core + 1 else core
    (∀ t fmt spans row0 rows, e.op = .load t fmt spans row0 rows → fmt < 3 → spans.length = rows → row0 % 8 = 0 → rows % 8 = 0 →
      row0 + rows ≤ 128 → SpansHere s e.who.ctx spans (width fmt) →
      ∃ u, exec (.matrixOpComplete core) s = .next u ∧ Landed s u core e rest ∧ ∀ ci c, (opCores core e)[ci]? = some c →
        let at_ := fun r j => (s.core (spans.getD r (0, 0)).1).scratch.value ((spans.getD r (0, 0)).2 + (128 * ci + j) * z fmt) (z fmt)
        ∃ bad : Nat → Nat → Bool,
          (∀ r j, r < rows → j < 128 → Loaded fmt (at_ r j).1 (at_ r j).2
            (mgetD (tileOf u c t).elems (128 * (row0 + r) + j) 0) (bad r j)) ∧
          (∀ r j, r < row0 ∨ row0 + rows ≤ r → j < 128 →
            mgetD (tileOf u c t).elems (128 * r + j) 0 = mgetD (tileOf s c t).elems (128 * r + j) 0) ∧
          (∀ R C, R < 16 → C < 16 → ((tileOf u c t).poison.getLsbD (16 * R + C) = true ↔
            if row0 ≤ 8 * R ∧ 8 * R < row0 + rows then ∃ r j, r < rows ∧ (row0 + r) / 8 = R ∧ j / 8 = C ∧ j < 128 ∧ bad r j = true
            else (tileOf s c t).poison.getLsbD (16 * R + C) = true)) ∧
          ctlOf u c t = ctlOf s c t ∧ TilesBut s u c [t]) ∧
    (∀ t fmt sat spans row0 rows, e.op = .store t fmt sat spans row0 rows → fmt < 5 → SpansHere s e.who.ctx spans (width fmt) →
      (∀ i j, i < j → j < spans.length → (spans.getD i (0, 0)).1 ≠ (spans.getD j (0, 0)).1 ∨
        (spans.getD i (0, 0)).2 + width fmt ≤ (spans.getD j (0, 0)).2 ∨ (spans.getD j (0, 0)).2 + width fmt ≤ (spans.getD i (0, 0)).2) →
      ∃ u, exec (.matrixOpComplete core) s = .next u ∧ Landed s u core e rest ∧
        (∀ c v, tileOf u c v = tileOf s c v ∧ ctlOf u c v = ctlOf s c v) ∧
        ∀ r ci c j, r < spans.length → (opCores core e)[ci]? = some c → j < 128 →
          let p := spans.getD r (0, 0)
          let o := p.2 + (128 * ci + j) * z fmt
          let w := mgetD (tileOf s c t).elems (128 * (row0 + r) + j) 0
          let k := (u.core p.1).scratch
          let bad := (tileOf s c t).poison.getLsbD (16 * ((row0 + r) / 8) + j / 8)
          leNat (Bytes.read k.bytes o (z fmt)) = (if fmt = 0 then w.toNat else
            (cvtFloat {} (if fmt = 1 then fBf16 else if fmt = 2 then fF16 else if fmt = 3 then fE4m3 else fE5m2) fF32 .rn sat
              w.toNat).1) ∧
          (bad = true → mgetD k.poison (o / 4) false = true) ∧ (fmt = 0 → mgetD k.poison (o / 4) false = bad)) ∧
    (∀ a n cols spans, e.op = .planeLd a n cols spans → spans.length = cols → 0 < n → n % 4 = 0 → a % 4 = 0 → a % 32768 + n ≤ 32768 →
      SpansHere s e.who.ctx spans n →
      ∃ u, exec (.matrixOpComplete core) s = .next u ∧ Landed s u core e rest ∧
        (∀ c v, tileOf u c v = tileOf s c v ∧ ctlOf u c v = ctlOf s c v) ∧
        (∀ c i, c < cols → i < n →
          let k := (s.core (spans.getD c (0, 0)).1).scratch
          Bytes.at_ (u.core plane).mx.plane (a + 32768 * c + i) = Bytes.at_ k.bytes ((spans.getD c (0, 0)).2 + i) ∧
          mgetD (u.core plane).mx.planePoison ((a + 32768 * c + i) / 4) false =
            mgetD k.poison (((spans.getD c (0, 0)).2 + i) / 4) false) ∧
        ∀ p, (∀ c, c < cols → p < a + 32768 * c ∨ a + 32768 * c + n ≤ p) →
          Bytes.at_ (u.core plane).mx.plane p = Bytes.at_ (s.core plane).mx.plane p) ∧
    (∀ a n cols, e.op = .planeZero a n cols →
      ∃ u, exec (.matrixOpComplete core) s = .next u ∧ Landed s u core e rest ∧
        (∀ c v, tileOf u c v = tileOf s c v ∧ ctlOf u c v = ctlOf s c v) ∧
        ∀ p, Bytes.at_ (u.core plane).mx.plane p =
          if ∃ c, c < cols ∧ a + 32768 * c ≤ p ∧ p < a + 32768 * c + n then 0 else Bytes.at_ (s.core plane).mx.plane p)

/-- OperationsTakeTheirTime; MultipliesLand; TilesChange; SpansMove: all of these hold. -/
def Obligations.MatrixOperationsRun : Prop :=
  Sys2Proof.Claims.OperationsTakeTheirTime ∧ Sys2Proof.Claims.MultipliesLand ∧ Sys2Proof.Claims.TilesChange ∧
    Sys2Proof.Claims.SpansMove

namespace Sys2Proof.Claims
open Sys2Proof.Machine

/-! ### Row slots -/

/-- The row controller of the core is k, and apart from it, its counters and its groups, nothing of the machine but the ids has
changed. -/
structure OnlyRows (s t : State) (core : Nat) (k : Rows) : Prop where
  rows : (t.core core).rows = k
  groups : ∀ c n, t.group c n = s.group c n
  here : { t.core core with rows := {}, ctr := [] } = { s.core core with rows := {}, ctr := [] }
  others : ∀ c, c ≠ core → t.core c = s.core c
  rest : { t with cores := [] } = { s with cores := [] }
/-- As `OnlyRows`, for an instruction of the executing group: the group is g after it. -/
structure RowsAndGroup (s t : State) (x : Ex) (g : Group) (k : Rows) : Prop where
  rows : (t.core x.core).rows = k
  group : t.group x.core x.slot = some g
  groups : OtherGroups s t x
  memory : t.mem = s.mem
  fly : t.fly = s.fly
  others : ∀ c, c ≠ x.core → t.core c = s.core c
/-- No slot of the core is held by another context (R280). -/
def SlotsOwn (s : State) (x : Ex) : Prop := ∀ p ∈ (s.core x.core).rows.slots, p.2.ctx = x.gr.ctx
/-- A slot that the executing block holds and has open, or dirty. -/
def OpenSlot (s : State) (x : Ex) (n : Nat) (r : RowSlot) : Prop :=
  SlotsOwn s x ∧ mget (s.core x.core).rows.slots n = some r ∧ r.blk = x.gr.blk ∧ (r.st = .open_ ∨ r.st = .dirty)
/-- The bank of a row-stack address, and the byte of memory of a row (R205). -/
def rowByte (core bank row off : Nat) : Nat := core * 2 ^ 29 + bank * 2 ^ 25 + row * 2 ^ 13 + off
/-- A bank can be activated now: nothing keeps it open, no refresh is owed or runs, and the rate window allows it (R273). -/
def CanActivate (s : State) (core n : Nat) : Prop :=
  let k := (s.core core).rows
  mget k.internal n = none ∧
  (∀ made, mget k.refreshed n = some made → s.now / 4096 ≤ made ∧ ∀ t, mget k.refreshing n = some t → t ≤ s.now) ∧
  (mget k.refreshed n = none → s.now < 4096 ∨ 30 ≤ s.now % 4096) ∧
  (k.acts.filter fun a => s.now < a + 24).length < 4 ∧ ∀ a ∈ k.acts, a ≠ s.now

end Sys2Proof.Claims

/-! ### The row stack -/

/-- R273, R283, R284: ROWACT of a row below RC in a closed bank starts the activation and goes on, with the block as holder of an
OPENING slot of row RB + i. A row index from RC on raises cause 0x0D with s61 = 1, and a slot that the block holds already cause
0x0A with s61 = 1. A ROWACT that goes on in a drain opens a slot that closes at once (R280). -/
def Sys2Proof.Claims.RowactOpensASlot : Prop :=
  ∀ s x (o : RowaO) i n, s.running = some x → SlotsOwn s x →
    i = (match o.i with | .reg r => (x.uni.sr r.toNat).toNat | .lit w => w.toNat) →
    n = (match o.i with | .reg _ => 4 | .lit _ => 8) →
    (mget (s.core x.core).rows.slots o.n.toNat = none → i < (s.ctx x.gr.ctx).regs.rc → CanActivate s x.core o.n.toNat →
      s.bankAsked x.core o.n.toNat = false →
      ∃ t k, exec (.rowact o) s = .next t ∧ RowsAndGroup s t x (after x n) k ∧
        mget k.slots o.n.toNat = some { st := .opening, blk := x.gr.blk, ctx := x.gr.ctx, index := i,
                                        row := (s.ctx x.gr.ctx).regs.rb + i, since := s.now,
                                        close := decide (mget (s.core x.core).res x.gr.ctx = some .draining) } ∧
        (∀ m, m ≠ o.n.toNat → mget k.slots m = mget (s.core x.core).rows.slots m) ∧ k.acts.head? = some s.now ∧
        k.xfers = (s.core x.core).rows.xfers) ∧
    (mget (s.core x.core).rows.slots o.n.toNat = none → (s.ctx x.gr.ctx).regs.rc ≤ i →
      exec (.rowact o) s = trapAt s x 0xD x.sp.mask (o.n.zeroExtend 32) 1) ∧
    (∀ r, OpenSlot s x o.n.toNat r → exec (.rowact o) s = trapAt s x 0xA x.sp.mask (o.n.zeroExtend 32) 1)

/-- R285, R286, R294: ROWCON and ROWWR of an open slot, with a row offset and a scratch span that suit them, queue a transfer of the
row and go on, while fewer than 16 transfers and operand reads of the core are in flight; ROWWR makes the slot dirty. A CLOSED slot raises cause 0x0B; a row offset that is not a multiple of 64 cause 0x07
with the offset, a misaligned scratch address the same with the slot number; a transfer past the end of the row cause 0x0D with
s61 = 2. What s60:s61 hold for a misaligned scratch address is the model's choice (log 17). -/
def Sys2Proof.Claims.RowTransfersAreQueued : Prop :=
  ∀ s x (o : RowtO) r w, s.running = some x →
    let n := o.n.toNat
    let sa := (x.uni.sr o.a.toNat).toNat
    let off := 64 * o.off.toNat + (match o.b with | some r => (x.uni.sr r.toNat).toNat | none => 0)
    let len := 64 * (o.len.toNat + 1)
    let queued := fun (i : Instr) (kind : XferKind) (to_ : Nat) (slot : RowSlot) =>
      ∃ t k u, exec i s = .next t ∧ RowsAndGroup s t x (after x 8) k ∧ mget k.xfers s.nextId = some u ∧ u.kind = kind ∧
        u.slot = n ∧ u.row = r.row ∧ u.off = off ∧ u.to_ = to_ ∧ u.len = len ∧ u.started = none ∧ mget k.slots n = some slot ∧
        ∀ m, m ≠ n → mget k.slots m = mget (s.core x.core).rows.slots m
    (OpenSlot s x n r → off % 64 = 0 → off + len ≤ 8192 → s.moveCount x.core < 16 → s.acqBusy x = false →
      (o.bpl = true → sa % 64 = 0 → sa + len ≤ 2 ^ 22 → queued (.rowcon o) .toPlane sa r) ∧
      (sa % 64 = 0 → Spans s x w [sa] len → s.spanBusy x x.core (w.off + sa % 2 ^ 20) len = false →
        (o.bpl = false → queued (.rowcon o) .toScratch (w.off + sa % 2 ^ 20) r) ∧
        queued (.rowwr o) .fromScratch (w.off + sa % 2 ^ 20) { r with st := .dirty })) ∧
    (∀ i ∈ [Instr.rowcon o, .rowwr o],
      (SlotsOwn s x → mget (s.core x.core).rows.slots n = none →
        exec i s = trapAt s x 0xB x.sp.mask (BitVec.ofNat 32 n) 0) ∧
      (OpenSlot s x n r → off % 64 ≠ 0 → exec i s = trapAt s x 7 x.sp.mask (BitVec.ofNat 32 off) 0) ∧
      (OpenSlot s x n r → off % 64 = 0 → 8192 < off + len → exec i s = trapAt s x 0xD x.sp.mask (BitVec.ofNat 32 n) 2) ∧
      (OpenSlot s x n r → off % 64 = 0 → off + len ≤ 8192 → sa % 64 ≠ 0 →
        (sa / 2 ^ 20 = 31 ∧ ∃ v, s.blockWin x.core x.gr.blk = some v ∧ sa % 2 ^ 20 + len ≤ v.len) ∨ (o.bpl = true ∧ i = .rowcon o) →
        exec i s = trapAt s x 7 x.sp.mask (BitVec.ofNat 32 (if o.bpl = true ∧ i = .rowcon o then sa else n)) 0))

/-- R287 to R290: ROWPRE marks an open slot to be closed and goes on, ROWPRE.wait stays until the slot is closed; ROWST reads the
states of the 16 slots, three bits each; ROWWAIT goes on when no slot of its mask opens, closes or transfers for the group, and
else waits. ROWACT, ROWCON, ROWWR and ROWPRE raise cause 0x0C at an EXPIRED slot, with the slot and its row index, and it becomes
CLOSED, unless the group has raised another cause before (R275, R420). -/
def Sys2Proof.Claims.RowSlotInstructions : Prop :=
  ∀ s x, s.running = some x →
    (∀ n r c, SlotsOwn s x → mget (s.core x.core).rows.slots n = some r → r.blk = x.gr.blk → r.st = .expired c →
      ∀ i, (∃ o : RowaO, i = .rowact o ∧ o.n.toNat = n) ∨ (∃ o : RowtO, (i = .rowcon o ∨ i = .rowwr o) ∧ o.n.toNat = n) ∨
          (∃ o : RowpO, i = .rowpre o ∧ o.n.toNat = n ∧ x.sp.half ≠ 1) →
        ∃ t, exec i s = trapAt t x 0x0C x.sp.mask (BitVec.ofNat 32 n) (BitVec.ofNat 32 r.index) ∧ t.mem = s.mem ∧
          OtherGroups s t x ∧ t.group x.core x.slot = s.group x.core x.slot ∧
          mget (t.core x.core).rows.slots n = if x.gr.trapping.isSome then some r else none) ∧
    (∀ (o : RowpO) r, x.sp.half ≠ 1 → OpenSlot s x o.n.toNat r →
      let closing : RowSlot := { r with close := true, closeId := if r.close then r.closeId else x.seq s.nextId }
      (o.w = false → ∃ t k, exec (.rowpre o) s = .next t ∧ RowsAndGroup s t x (after x 4) k ∧
        mget k.slots o.n.toNat = some closing ∧
        ∀ m, m ≠ o.n.toNat → mget k.slots m = mget (s.core x.core).rows.slots m) ∧
      (o.w = true → ∃ t k g, exec (.rowpre o) s = .next t ∧ RowsAndGroup s t x g k ∧
        mget k.slots o.n.toNat = some closing ∧
        mget g.splits x.entry = (mget x.gr.splits x.entry).map fun sp => { sp with half := 1 })) ∧
    (∀ o : RowpO, (mget (s.core x.core).rows.slots o.n.toNat = none ∧ SlotsOwn s x) ∨
        (x.sp.half = 1 ∧ ∀ r, mget (s.core x.core).rows.slots o.n.toNat = some r → r.blk ≠ x.gr.blk ∨
          (r.close = false ∧ r.st ≠ .closing ∧ ∀ c, r.st ≠ .expired c)) →
      ∃ t g, exec (.rowpre o) s = .next t ∧ RowsAndGroup s t x g (s.core x.core).rows ∧ Advances x.gr g x.entry 4) ∧
    (∀ o : Ud, SlotsOwn s x → ∃ t g w, exec (.rowst o) s = .next t ∧ OnlyGroup s t x g ∧ Advances x.gr g x.entry 4 ∧
      SetsSPair x.gr.uni g.uni o.d.toNat w ∧ ∀ n, n < 16 → w.toNat / 8 ^ n % 8 =
        (match mget (s.core x.core).rows.slots n with
         | none => 0
         | some r => if r.blk ≠ x.gr.blk then 6 else match r.st with
           | .opening => 1 | .open_ => 2 | .dirty => 3 | .closing => 4 | .expired _ => 5)) ∧
    (∀ o : Ub, SlotsOwn s x →
      let mine := fun n => ∃ u ∈ (s.core x.core).rows.xfers, u.2.slot = n ∧ u.2.who.uid = x.gr.uid ∧ u.2.who.seq < x.seq s.nextId
      let busy := fun n => (mget (s.core x.core).rows.slots n = none ∧ mine n) ∨
        ∃ r, mget (s.core x.core).rows.slots n = some r ∧ r.blk = x.gr.blk ∧ (r.st = .opening ∨ r.st = .closing ∨ mine n)
      ((∀ n, n < 16 → (SSrc.val o.b x.uni).getLsbD n = true → ¬busy n) → ∃ t g, exec (.rowwait o) s = .next t ∧
        OnlyGroup s t x g ∧ g = after x (SSrc.len o.b)) ∧
      ((∃ n, n < 16 ∧ (SSrc.val o.b x.uni).getLsbD n = true ∧ busy n) → ∃ t g, exec (.rowwait o) s = .next t ∧
        OnlyGroup s t x g ∧ mget g.splits x.entry = (mget x.gr.splits x.entry).map fun sp => { sp with st := .wait .poll }))

/-- RowactOpensASlot; RowSlotInstructions: all of these hold. -/
def Obligations.RowSlotsOpenAndClose : Prop :=
  Sys2Proof.Claims.RowactOpensASlot ∧ Sys2Proof.Claims.RowSlotInstructions

/-- R272, R273, R275, R276, R280: the events of a slot and of a bank: an OPENING slot is open after 20 clk, or returns to the state
that a resume recorded; a slot to be closed starts to close 40 clk after it opened, and is CLOSED 20 clk later; one open for
8,192 clk is EXPIRED; a closed bank with a refresh owed is refreshed for 30 clk; a closed bank opens a row that an access waits
for, and a slot that a resume brings back. The close of an EXPIRED slot runs on, and leaves it EXPIRED while its block lives. -/
def Obligations.RowSlotsInTime : Prop :=
  ∀ (s : State) core n,
    let k := (s.core core).rows
    let made := mgetD k.refreshed n (s.now / 4096)
    (∀ r, mget k.slots n = some r →
      (r.st = .opening →
        (r.since + 20 ≤ s.now → ∃ t, exec (.rowOpenDone core n) s = .next t ∧
          OnlyRows s t core { k with
            slots := mset k.slots n { r with st := r.back.getD .open_, since := s.now, back := none }
            reopen := if r.back.isSome then k.reopen.filter fun v => !(v.slot == n && v.blk == r.blk)
              else k.reopen }) ∧
        (s.now < r.since + 20 → exec (.rowOpenDone core n) s = .refused .eventNotDue)) ∧
      (r.st = .open_ ∨ r.st = .dirty → r.close = true → s.moving core n = false → s.beforeClose core n r = false →
        (r.since + 40 ≤ s.now → ∃ t, exec (.rowCloseStart core n) s = .next t ∧
          OnlyRows s t core { k with slots := mset k.slots n { r with st := .closing, since := s.now, close := false } }) ∧
        (s.now < r.since + 40 → mget k.internal n = none → exec (.rowCloseStart core n) s = .refused .eventNotDue)) ∧
      (r.st = .closing → r.close = false → r.since + 20 ≤ s.now → ∃ t, exec (.rowCloseDone core n) s = .next t ∧
        OnlyRows s t core { k with slots := mdel k.slots n }) ∧
      (r.st = .expired false → (r.close = true → s.moving core n = false → ∃ t, exec (.rowCloseStart core n) s = .next t ∧
          OnlyRows s t core { k with slots := mset k.slots n { r with since := s.now, close := false } }) ∧
        (r.close = false → r.since + 20 ≤ s.now →
          (∀ b, mget s.blocks r.blk = some b → b.joinHeld = false → ∃ t, exec (.rowCloseDone core n) s = .next t ∧
            OnlyRows s t core { k with slots := mset k.slots n { r with st := .expired true } }) ∧
          ((∀ b, mget s.blocks r.blk = some b → b.joinHeld = true) → ∃ t, exec (.rowCloseDone core n) s = .next t ∧
            OnlyRows s t core { k with slots := mdel k.slots n }))) ∧
      (r.st = .open_ ∨ r.st = .dirty →
        (r.since + 8192 ≤ s.now → ∃ t, exec (.rowHoldExpiry core n) s = .next t ∧
          OnlyRows s t core { k with slots := mset k.slots n { r with st := .expired false, since := s.now, close := true } }) ∧
        (s.now < r.since + 8192 → exec (.rowHoldExpiry core n) s = .refused .eventNotDue))) ∧
    (mget k.slots n = none → mget k.internal n = none →
      (mget k.refreshed n = some made → made < s.now / 4096 → (∀ t, mget k.refreshing n = some t → t ≤ s.now) →
        ∃ t, exec (.rowRefresh core n) s = .next t ∧ OnlyRows s t core { k with
          refreshed := mset k.refreshed n (made + 1), refreshing := mset k.refreshing n (s.now + 30) }) ∧
      (s.now / 4096 ≤ made → exec (.rowRefresh core n) s = .refused .eventNotDue) ∧
      (CanActivate s core n →
        (∀ row id r, mget s.fly.reqs id = some r → s.toBank core n r = true → rowRow r.pa = row →
          (r.who.core = core → ∀ q ∈ s.fly.reqs, s.toBank core n q.2 = true → q.2.who.core = core → q.1 < id →
            rowRow q.2.pa = row) → ∃ t, exec (.internalActivation core n row) s = .next t ∧
            OnlyRows s t core { k with acts := (s.now :: k.acts).take 4, refreshed := mset k.refreshed n made,
                                       internal := mset k.internal n ⟨row, s.now, none, true⟩ }) ∧
        (∀ v b, k.reopen = [v] → v.slot = n → (v.st = .open_ ∨ v.st = .dirty) → mget s.blocks v.blk = some b → k.slots = [] →
          ∃ t, exec (.rowReactivation core n) s = .next t ∧ OnlyRows s t core { k with
            acts := (s.now :: k.acts).take 4, refreshed := mset k.refreshed n made
            slots := [(n, { st := .opening, blk := v.blk, ctx := b.ctx, index := v.index, row := v.row, since := s.now
                            close := v.close, back := some v.st })] })) ∧
      (∀ v b c, k.reopen = [v] → v.slot = n → v.st = .expired c → mget s.blocks v.blk = some b → k.slots = [] →
        ∃ t, exec (.rowReactivation core n) s = .next t ∧ OnlyRows s t core { k with
          reopen := []
          slots := [(n, { st := .expired true, blk := v.blk, ctx := b.ctx, index := v.index, row := v.row, since := s.now
                          close := v.close })] }))

/-- R286, R292, R228, R276, R277: a row transfer starts when the earlier ones of its slot have started, and once its time has passed
moves its bytes: ROWWR's from scratch into the row, and no other byte of memory changes; ROWCON's from the row into scratch or,
8 clk after the last of its beats of the vertical bus (R13), into the plane. It moves its bytes when it ends: the model's reading
(log 29). A request of class N is served by its target, and one to the row stack of this package by the open row of its
bank, in a slot or in an internal activation: a store writes the bytes of its mask, a load takes the line. That an access of the
own core goes before an older one to another row, and that an EXPIRED slot still serves those that come before a transfer of it,
are the model's readings (logs 79, 85). -/
def Sys2Proof.Claims.RowTransfersAndTargets : Prop :=
  (∀ (s : State) core id u, mget (s.core core).rows.xfers id = some u → Map.sorted s.cores = true →
    (∀ c, c ≠ core → mget (s.core c).rows.xfers id = none) → (∀ p ∈ (s.core core).rows.xfers, p.1 < id → p.2.slot ≠ u.slot) →
    (u.started = none → s.mxBefore core u.slot id = false →
      ∃ t, exec (.rowTransferStart id) s = .next t ∧
        mget (t.core core).rows.xfers id = some { u with started := some s.now } ∧
        (u.kind ≠ .fromScratch → OnlyRows s t core { (s.core core).rows with
          xfers := mset (s.core core).rows.xfers id { u with started := some s.now } })) ∧
    (∀ b, u.started = some b → u.len % 4 = 0 → u.to_ % 4 = 0 → (∀ p ∈ (s.core core).scratch.wins, p.2.maps = []) →
      s.rowAsked core id u = false →
      let pa := rowByte core u.slot u.row u.off
      (u.kind = .fromScratch → b + 8 + (u.len + 255) / 256 ≤ s.now → ∃ t, exec (.rowTransferEnd id) s = .next t ∧
        (∀ c k, t.group c k = s.group c k) ∧ mget (t.core core).rows.xfers id = none ∧
        ∀ a, Bytes.at_ t.mem.bytes a = if pa ≤ a ∧ a < pa + u.len then Bytes.at_ (s.core core).scratch.bytes (u.to_ + (a - pa))
          else Bytes.at_ s.mem.bytes a) ∧
      (u.kind = .toScratch → b + 8 + (u.len + 255) / 256 ≤ s.now → ∃ t, exec (.rowTransferEnd id) s = .next t ∧
        t.mem = s.mem ∧ (∀ c k, t.group c k = s.group c k) ∧ mget (t.core core).rows.xfers id = none ∧
        ∀ i, i < u.len → Bytes.at_ (t.core core).scratch.bytes (u.to_ + i) = Bytes.at_ s.mem.bytes (pa + i)) ∧
      (∀ d, u.kind = .toPlane → u.doneAt = some d → d + 8 ≤ s.now → ∃ t, exec (.rowTransferEnd id) s = .next t ∧
        t.mem = s.mem ∧ (∀ c k, t.group c k = s.group c k) ∧ mget (t.core core).rows.xfers id = none ∧
        ∀ a, Bytes.at_ (t.core core).mx.plane a = if u.to_ ≤ a ∧ a < u.to_ + u.len then Bytes.at_ s.mem.bytes (pa + (a - u.to_))
          else Bytes.at_ (s.core core).mx.plane a) ∧
      (u.kind ≠ .toPlane → s.now < b + 8 + (u.len + 255) / 256 → exec (.rowTransferEnd id) s = .refused .eventNotDue) ∧
      (u.kind = .toPlane → (∀ d, u.doneAt = some d → s.now < d + 8) → exec (.rowTransferEnd id) s = .refused .eventNotDue))) ∧
  ∀ (s : State) id (r : Req), mget s.fly.reqs id = some r → r.phase = .out → s.lostLink r.pa = false →
    let k := (s.core (rowCore r.pa)).rows
    let served := fun (t : State) => (∃ q, mget t.fly.reqs id = some q ∧ q.phase = .back ∧
        (∀ z d sx cb lu ex, r.op = .ld z d sx cb lu ex → q.data = Bytes.line s.mem.bytes (memKey r.who.ctx r.pa) ∧
          q.poison = Poison.line s.mem.poison (memKey r.who.ctx r.pa))) ∧
      (∀ c k, t.group c k = s.group c k) ∧
      ∀ a, Bytes.at_ t.mem.bytes a = if (∃ lu inL1, r.op = .st lu inL1) ∧ memKey r.who.ctx r.pa ≤ a ∧
        a < memKey r.who.ctx r.pa + 64 ∧ r.mask.getLsbD (a - memKey r.who.ctx r.pa) = true
        then lineByte r.data (a - memKey r.who.ctx r.pa) else Bytes.at_ s.mem.bytes a
    (r.cls = 2 → s.toRow r = false → ∃ t, exec (.targetAccess id) s = .next t ∧ served t) ∧
    (r.cls = 3 → s.toRow r = false → ∃ t, exec (.rscAccess id) s = .next t ∧ served t) ∧
    (s.toRow r = true → s.lineMoving id r = false →
      (∀ v, mget k.slots (rowBank r.pa) = some v → (v.st = .open_ ∨ v.st = .dirty) → v.row = rowRow r.pa →
        (v.close = true → r.who.core = rowCore r.pa → v.closeId = 0 ∨ id ≤ v.closeId) → s.rowTurn id r true = true →
        ∃ t, exec (.rscAccess id) s = .next t ∧ served t ∧
          ∀ lu inL1, r.op = .st lu inL1 → (mget (t.core (rowCore r.pa)).rows.slots (rowBank r.pa)).map RowSlot.st = some .dirty) ∧
      (∀ v, mget k.slots (rowBank r.pa) = some v → v.st = .expired false → v.close = true → v.row = rowRow r.pa →
        s.beforeMove id r = true → s.rowTurn id r true = true → ∃ t, exec (.rscAccess id) s = .next t ∧ served t) ∧
      (∀ b, mget k.slots (rowBank r.pa) = none → mget k.internal (rowBank r.pa) = some ⟨rowRow r.pa, b, none, true⟩ →
        b + 20 ≤ s.now → s.rowTurn id r false = true → ∃ t, exec (.rscAccess id) s = .next t ∧ served t) ∧
      (mget k.slots (rowBank r.pa) = none → mget k.internal (rowBank r.pa) = none →
        exec (.rscAccess id) s = .refused .eventNotDue))

/-- RowTransfersAreQueued; RowTransfersAndTargets: all of these hold. -/
def Obligations.RowTransfers : Prop :=
  Sys2Proof.Claims.RowTransfersAreQueued ∧ Sys2Proof.Claims.RowTransfersAndTargets

namespace Sys2Proof.Claims
open Sys2Proof.Machine

/-! ### Mappings -/

/-- The executing block's only window is w, at index i of its core's table; its core has no access, no fill and no halo entry. -/
structure OwnWindow (s : State) (x : Ex) (i : Nat) (w : Window) : Prop where
  wins : (s.core x.core).scratch.wins = [(i, w)]
  blk : w.blk = x.gr.blk
  touches : s.fly.touches = []
  fills : s.fly.fills = []
  halo : (s.core x.core).scratch.halo = []
/-- After a mapping instruction of n bytes the window's entries are m, the group is behind it, and memory, the registers and the
other groups are as they were. -/
def Mapped (s t : State) (x : Ex) (n i : Nat) (w : Window) (m : Map SMapping) : Prop :=
  t.mem = s.mem ∧ OtherGroups s t x ∧ t.group x.core x.slot = some (after x n) ∧
  (t.core x.core).scratch.wins = [(i, { w with maps := m })]
/-- No word of the core is DIRTY, and the group has no write-back and no push in flight. -/
structure Flushed (s : State) (x : Ex) : Prop where
  words : ∀ p ∈ (s.core x.core).scratch.words, p.2.st ≠ .dirty
  reqs : ∀ p ∈ s.fly.reqs, p.2.who.uid ≠ x.gr.uid
  pushes : ∀ p ∈ s.fly.pushes, p.2.who.uid ≠ x.gr.uid
  half : x.sp.half = 0
/-- The scratch address e, and the n bytes from it, lie in the window at offset st of it. -/
def InOwn (e n st : Nat) (w : Window) : Prop := e / 2 ^ 20 = 31 ∧ e % 2 ^ 20 = st ∧ st + n ≤ w.len

end Sys2Proof.Claims

/-! ### Scratch mappings -/

/-- R174, R176, R185, R197, R198, R199: SMAP of a free entry, over a range of the window that is a multiple of 64 and overlaps no entry,
installs it with every word ABSENT: read-write or read-only over global memory, or a replica of an owner range, which registers a
halo entry at the owner. An entry in use raises cause 0x09 with reason 5, and a range not aligned reason 4. SUNMAP.discard, and
SUNMAP with no dirty word to write back, removes an entry, and SUNMAP of a register with no entry does nothing. -/
def Sys2Proof.Claims.MappingsAreMadeAndRemoved : Prop :=
  ∀ s x i w, s.running = some x → OwnWindow s x i w →
    (∀ (o : SmapO) st,
      let e := (x.uni.sr o.a.toNat).toNat
      let n := o.len.toNat
      let b := x.uni.pair o.b.toNat
      InOwn e 1 st w →
      (mget w.maps o.n.toNat = none → st % 64 = 0 → n % 64 = 0 → 64 ≤ n → st + n ≤ w.len →
        (∀ m ∈ w.maps, ¬(m.2.s < st + n ∧ st < m.2.s + m.2.n)) →
        (o.k.toNat < 2 → b.toNat % 64 = 0 → canonical b = true → ∃ t, exec (.smap o) s = .next t ∧
          Mapped s t x 8 i w (mset w.maps o.n.toNat ⟨if o.k = 1 then .ro else .rw, st, n, b.toNat⟩) ∧
          ∀ a, w.off + st ≤ 4 * a → 4 * a + 4 ≤ w.off + st + n → mget (t.core x.core).scratch.words a = none) ∧
        (o.k.toNat = 2 → (x.uni.sr o.b.toNat).toNat / 2 ^ 20 = 31 →
          (x.uni.sr o.b.toNat).toNat % 2 ^ 20 + n ≤ w.len → (w.off + (x.uni.sr o.b.toNat).toNat) % 64 = 0 →
          let ow := w.off + (x.uni.sr o.b.toNat).toNat % 2 ^ 20
          ∃ t, exec (.smap o) s = .next t ∧
            Mapped s t x 8 i w (mset w.maps o.n.toNat ⟨.replica, st, n, 512 * ow + x.core⟩) ∧
            (t.core x.core).scratch.halo = [(0, { off := ow, len := n, ctx := x.gr.ctx, core := x.core, blk := x.gr.blk,
                                                  g := o.n.toNat, dst := w.off + st })])) ∧
      (mget w.maps o.n.toNat ≠ none → exec (.smap o) s = trapAt s x 9 x.sp.mask (x.uni.sr o.a.toNat) 5) ∧
      (mget w.maps o.n.toNat = none → st % 64 ≠ 0 → exec (.smap o) s = trapAt s x 9 x.sp.mask (x.uni.sr o.a.toNat) 4)) ∧
    (∀ (o : SunO) m, mget w.maps o.n.toNat = some m → o.k = true ∨ (Flushed s x ∧ s.acqBusy x = false) → ∃ t, exec (.sunmap o) s = .next t ∧
      Mapped s t x 4 i w (mdel w.maps o.n.toNat) ∧
      ∀ a, w.off + m.s ≤ 4 * a → 4 * a + 4 ≤ w.off + m.s + m.n → mget (t.core x.core).scratch.words a = none) ∧
    (∀ o : SunO, mget w.maps o.n.toNat = none → ∃ t g, exec (.sunmap o) s = .next t ∧ OnlyGroup s t x g ∧ g = after x 4)

/-- R200, R201, R202: SFLUSH, SINV, SPRES and SHPUSH of a range of length 0 do nothing; SFLUSH where no word is dirty, SHPUSH where no
halo entry is marked, and SPRES complete at once where no acquire of the group is without its result (R239); SINV makes every mapped word of its range that is
not DIRTY absent. SGATH gives a read-only or a gathered entry the index list, the count, the row length and the stride, and makes its words
absent. -/
def Sys2Proof.Claims.MappedRangesAreMaintained : Prop :=
  ∀ s x i w, s.running = some x → OwnWindow s x i w →
    (∀ o : Uab, SSrc.val o.b x.uni = 0 → ∀ k ∈ [Instr.sflush o, .sinv o, .spres o, .shpush o],
      ∃ t g, exec k s = .next t ∧ OnlyGroup s t x g ∧ g = after x (SSrc.len o.b)) ∧
    (∀ (o : Uab) st,
      let n := (SSrc.val o.b x.uni).toNat
      InOwn (x.uni.sr o.a.toNat).toNat n st w → n ≠ 0 →
      (Flushed s x → s.acqBusy x = false → ∀ k ∈ [Instr.sflush o, .shpush o],
        ∃ t g, exec k s = .next t ∧ OnlyGroup s t x g ∧ g = after x (SSrc.len o.b)) ∧
      (s.acqBusy x = false → ∃ t, exec (.spres o) s = .next t ∧ OtherGroups s t x ∧
        t.group x.core x.slot = some (after x (SSrc.len o.b))) ∧
      (w.maps = [] → s.acqBusy x = false → ∃ t, exec (.spres o) s = .next t ∧ t.mem = s.mem ∧
        (t.core x.core).scratch = (s.core x.core).scratch)) ∧
    (∀ (o : Uab) st,
      let n := (SSrc.val o.b x.uni).toNat
      InOwn (x.uni.sr o.a.toNat).toNat n st w → n ≠ 0 → ∃ t, exec (.sinv o) s = .next t ∧ t.mem = s.mem ∧
        Mapped s t x (SSrc.len o.b) i w w.maps ∧ (t.core x.core).scratch.bytes = (s.core x.core).scratch.bytes ∧
        ∀ a v, w.off + st ≤ 4 * a → 4 * a + 4 ≤ w.off + st + n → mget (s.core x.core).scratch.words a = some v →
          (s.mapAt x.core (4 * a)).isSome = true →
          (v.st = .clean → mget (t.core x.core).scratch.words a = none) ∧
          (v.st = .dirty → (∀ m ∈ w.maps, m.2.kind ≠ .replica) → mget (t.core x.core).scratch.words a = some v)) ∧
    (∀ (o : SgaO) m,
      let e := (x.uni.sr o.a.toNat).toNat
      let c := (x.uni.sr o.b.toNat).toNat
      let rb := 64 * o.rb.toNat
      mget w.maps o.n.toNat = some m → m.kind = .ro ∨ (∃ a b c d, m.kind = .gathered a b c d) → e % 4 = 0 → c * rb ≤ m.n →
      (s.acqBusy x = false → ∃ t, exec (.sgath o) s = .next t ∧ OtherGroups s t x ∧ t.group x.core x.slot = some (after x 8)) ∧
      (o.now = false → ∃ t, exec (.sgath o) s = .next t ∧
        Mapped s t x 8 i w (mset w.maps o.n.toNat { m with kind := .gathered e c rb (64 * o.st.toNat) }) ∧
        (∀ a, w.off + m.s ≤ 4 * a → 4 * a + 4 ≤ w.off + m.s + c * rb → (w.off + m.s) % 4 = 0 → mget (t.core x.core).scratch.words a = none) ∧
        (∀ a, w.off + m.s + c * rb ≤ 4 * a → 4 * a + 4 ≤ w.off + m.s + m.n → (w.off + m.s) % 4 = 0 → m.n % 4 = 0 →
          (mget (t.core x.core).scratch.words a).map MWord.st = some .clean ∧
          ∀ b, b < 4 → Bytes.at_ (t.core x.core).scratch.bytes (4 * a + b) = 0)))

/-- MappingsAreMadeAndRemoved; MappedRangesAreMaintained: all of these hold. -/
def Obligations.ScratchMappings : Prop :=
  Sys2Proof.Claims.MappingsAreMadeAndRemoved ∧ Sys2Proof.Claims.MappedRangesAreMaintained

namespace Sys2Proof.Claims
open Sys2Proof.Machine

/-! ### Engines, queues and messages -/

/-- The group behind a queue instruction: condition cd holds v under nb (R64), and the uniform state is else u. -/
def queued (x : Ex) (nb : Bool) (cd : BitVec 3) (v : Bool) (u : Uniform) : Group :=
  { after x 4 with uni := if nb then u.setC cd v else u }
/-- A queue instruction that cannot proceed: condition cd is 0 under nb; otherwise the split waits and looks again (R64). -/
def Stuck (s : State) (x : Ex) (i : Instr) (nb : Bool) (cd : BitVec 3) (w : Wait) : Prop :=
  ∃ t g, exec i s = .next t ∧ OnlyGroup s t x g ∧
    g = if nb then queued x nb cd false x.gr.uni
        else { x.gr with splits := mmod x.gr.splits x.entry fun sp => { sp with st := .wait w } }
/-- The job that QPUSH of a card makes of 16 registers. -/
structure JobOf (s : State) (x : Ex) (caraway : Bool) (a : Nat) (j : Job) : Prop where
  card : j.card = (List.range 16).map fun i => x.uni.sr (a + i)
  cluster : j.cluster = x.core / 24
  engine : j.caraway = caraway
  group : j.who.uid = x.gr.uid ∧ j.who.ctx = x.gr.ctx
  time : j.pts = s.pts x.core x.gr.ctx
  new : j.st = .entering ∧ j.edges = []
/-- Word i of a card, and the 64-bit field in words i and i + 1. -/
def cardWord (j : Job) (i : Nat) : Nat := (j.card.getD i 0).toNat
def cardPair (j : Job) (i : Nat) : Nat := cardWord j i + 2 ^ 32 * cardWord j (i + 1)
/-- A receive may take a message (R411, R414, R415). -/
def Matches (r : Recv) (m : Msg) : Prop :=
  r.ctx = m.ctx ∧ r.port = m.port ∧ (r.rtag ^^^ m.tag) &&& r.rmask = 0 ∧ r.matched = none ∧
    (r.filter.getLsbD 31 = true ∨ r.filter.toNat % 512 = m.src)
/-- The split that sent a message, and its group. -/
def SentFrom (s : State) (f : MsgFlight) (y : Ex) : Prop :=
  s.exAt f.who.core f.who.slot f.who.entry = some y ∧ y.gr.uid = f.who.uid
/-- No SEND or MCAST to destination d that the group issued before the message waits to be sent yet (R411). -/
def NoneUnsent (y : Ex) (f : MsgFlight) (d : Nat) : Prop :=
  ∀ e ∈ y.gr.splits, ∀ l, e.2.latch = some l → l.seq < f.who.seq → (∃ i, e.2.st = .wait (.msg i)) ∨ d ∉ l.dests
/-- The sender's group when SEND or MCAST completes: READY behind the instruction, with cd at v under nb (R413). -/
def answeredTo (y : Ex) (f : MsgFlight) (v : Bool) : Group :=
  { y.gr with splits := mmod y.gr.splits y.entry fun sp => { moved 4 sp with st := .ready },
              uni := if f.nb then y.gr.uni.setC (BitVec.ofNat 3 f.cd) v else y.gr.uni }
/-- A message that stands first before its destination d on this package, with the destinations that follow (R413). -/
structure Arriving (s : State) (id : Nat) (f : MsgFlight) (d : Nat) (rest : List Nat) : Prop where
  flight : mget s.fly.sends id = some f
  sorted : Map.sorted s.fly.sends = true
  notRefused : f.refused = false
  dests : f.dests = d :: rest
  here : d / 256 = s.dev.pkg
  first : ∀ p ∈ s.fly.sends, p.2.who.uid = f.who.uid → p.2.who.seq < f.who.seq → d ∉ p.2.dests
/-- After the message has been taken: it goes on to the other destinations, or its sender completes. -/
def GoesOn (s t : State) (id : Nat) (f : MsgFlight) (y : Ex) (rest : List Nat) : Prop :=
  (rest = [] → mget t.fly.sends id = none ∧ t.group y.core y.slot = some (answeredTo y f true)) ∧
  (rest ≠ [] → mget t.fly.sends id = some { f with dests := rest } ∧ ∀ c k, t.group c k = s.group c k)
/-- The receive that RECV.POST makes of the four registers (R415): the buffer in the own window w. -/
def posted (s : State) (x : Ex) (o : U2) (w : Window) : Recv :=
  let r := fun i => (x.uni.sr (o.a.toNat + i)).toNat
  { ctx := x.gr.ctx, uid := x.gr.uid, slot := x.slot, blk := x.gr.blk, buf := x.core % 24 * 2 ^ 20 + (w.off + r 0 % 2 ^ 20),
    rtag := r 1 / 2 ^ 16, rmask := r 1 % 2 ^ 16, cap := r 2 / 2 ^ 16, port := r 2 % 8, filter := x.uni.sr (o.a.toNat + 3),
    order := s.nextId }
/-- The span that a SEND or MCAST reads (R412). -/
def payloadOf_ (s : State) (x : Ex) (w : Window) (src n : Nat) : List Byte :=
  Bytes.read (s.core x.core).scratch.bytes (w.off + src % 2 ^ 20) n

end Sys2Proof.Claims

/-! ### Engines, queues and messages -/

/-- R64, R396, R409: QPUSH of queues 12 to 15 puts the pair and the pts at the end of mailbox 0 to 3 of the cluster, and the pair into
the next entry of its ring in memory (a privileged write, log entry 33); QPOP takes the oldest value and raises the pts to that of its push. A full mailbox holds QPUSH, and an empty one QPOP: under nb the condition
is 0, without it the split waits. A mailbox of size 0 raises cause 0x0F with s61 = 4. -/
def Sys2Proof.Claims.MailboxesPassValues : Prop :=
  ∀ s x m, s.running = some x → Idle s x → m < 4 →
    (∀ o : QpuO, o.q.toNat = 12 + m →
      (s.mailLog x m = 0 → exec (.qpush o) s = trapAt s x 0x0F x.sp.mask 0 4) ∧
      (s.mailLog x m ≠ 0 → (s.mail x m).length < 2 ^ s.mailLog x m → ∃ t, exec (.qpush o) s = .next t ∧
        t.mail x m = s.mail x m ++ [⟨x.uni.pair o.a.toNat, s.pts x.core x.gr.ctx⟩] ∧ OtherGroups s t x ∧
        t.mem = (s.agentWrite x.gr.ctx { priv := true } [0] (s.mailBase x m + 8 * (mgetD (s.cluster (x.core / 24)).mailed
          (4 * x.gr.ctx + m) 0 % 2 ^ s.mailLog x m)) (leBytes 8 (x.uni.pair o.a.toNat).toNat)).2.mem ∧
        mgetD (t.cluster (x.core / 24)).mailed (4 * x.gr.ctx + m) 0 =
          mgetD (s.cluster (x.core / 24)).mailed (4 * x.gr.ctx + m) 0 + 1 ∧
        t.group x.core x.slot = some (queued x o.nb o.cd true x.gr.uni)) ∧
      (s.mailLog x m ≠ 0 → 2 ^ s.mailLog x m ≤ (s.mail x m).length → Stuck s x (.qpush o) o.nb o.cd .poll)) ∧
    (∀ o : QpoO, o.q.toNat = 12 + m →
      (s.mailLog x m = 0 → exec (.qpop o) s = trapAt s x 0x0F x.sp.mask 0 4) ∧
      (∀ v l, s.mailLog x m ≠ 0 → s.mail x m = v :: l → ∃ t, exec (.qpop o) s = .next t ∧ t.mail x m = l ∧ OtherGroups s t x ∧
        t.mem = s.mem ∧ v.pts ≤ t.pts x.core x.gr.ctx ∧
        t.group x.core x.slot = some (queued x o.nb o.cd true (x.gr.uni.setPair o.a.toNat v.val))) ∧
      (s.mailLog x m ≠ 0 → s.mail x m = [] → Stuck s x (.qpop o) o.nb o.cd .poll))

/-- R396, R397, R407: QPUSH of queue 8 gives the 16 words of a card to the CGE of the cluster, of queue 10 to Caraway, while the
scheduler has an entry free and, for a card with CQ, fewer than 16 of the group's records are not popped, and no QPUSH of a card that
the group issued earlier has still to give its card (log entry 45: cards of one group enter in their order of issue); else it does
not proceed. QPOP of queues 9 and 11 takes the group's oldest completion record of the engine. -/
def Sys2Proof.Claims.CardsAndCompletionRecords : Prop :=
  ∀ s x caraway, s.running = some x → Idle s x →
    (∀ o : QpuO, o.q.toNat = (if caraway then 10 else 8) →
      let cq := (x.uni.sr o.a.toNat).getLsbD 8
      let entries := (s.fly.jobs.filter fun p => decide (p.2.cluster = x.core / 24)).length
      let before := ∃ e ∈ x.gr.splits, ∃ l p, e.2.latch = some l ∧ l.instr = .qpush p ∧ p.q.toNat < 12 ∧
        (e.2.going = true ∨ e.2.st.waits = true) ∧ l.seq < (match x.sp.latch with | some n => n.seq | none => s.nextId)
      (before → Stuck s x (.qpush o) o.nb o.cd .poll) ∧
      (¬before → entries < 128 → (cq = true → s.unpopped x caraway < 16) →
        ∃ t j, exec (.qpush o) s = .next t ∧ JobOf s x caraway o.a.toNat j ∧ t.fly.jobs = mset s.fly.jobs s.nextId j ∧
          OtherGroups s t x ∧ t.mem = s.mem ∧ t.group x.core x.slot = some (queued x o.nb o.cd true x.gr.uni)) ∧
      (¬before → 128 ≤ entries → Stuck s x (.qpush o) o.nb o.cd .pollEng) ∧
      (¬before → entries < 128 → cq = true → 16 ≤ s.unpopped x caraway → Stuck s x (.qpush o) o.nb o.cd .poll)) ∧
    (∀ o : QpoO, o.q.toNat = (if caraway then 11 else 9) →
      (∀ r l, s.recordsOf x caraway = r :: l → ∃ t, exec (.qpop o) s = .next t ∧ t.recordsOf x caraway = l ∧ OtherGroups s t x ∧
        t.mem = s.mem ∧ r.pts ≤ t.pts x.core x.gr.ctx ∧
        t.group x.core x.slot = some (queued x o.nb o.cd true (x.gr.uni.setPair o.a.toNat r.val))) ∧
      (s.recordsOf x caraway = [] → Stuck s x (.qpop o) o.nb o.cd .poll))

/-- MailboxesPassValues; CardsAndCompletionRecords: all of these hold. -/
def Obligations.QueueInstructions : Prop :=
  Sys2Proof.Claims.MailboxesPassValues ∧ Sys2Proof.Claims.CardsAndCompletionRecords

/-- R400, R401, R402, R406: a card enters its scheduler with an edge to each earlier card of its context that conflicts with it; a
malformed card completes with status 3 instead. An engine starts the first queued card with no edges while it has room, in the order
of entry (log entry 45); a card asks the row controllers for the rows of class N and R that have not served it yet, and one that
reads scratch asks for the words that have no value. -/
def Sys2Proof.Claims.CardsWaitForTheirEdges : Prop :=
  ∀ s id j, mget s.fly.jobs id = some j → Map.sorted s.fly.jobs = true →
    (j.st = .entering → (∀ p ∈ s.fly.jobs, p.1 < id → p.2.cluster = j.cluster → p.2.st ≠ .entering) →
      (j.malformed = false → ∃ t k, exec (.engineCardEntry id) s = .next t ∧ mget t.fly.jobs id = some k ∧ k.st = .queued ∧
        k.card = j.card ∧ (∀ e, e ∈ k.edges ↔ ∃ i, mget s.fly.jobs e = some i ∧ i.cluster = j.cluster ∧
          i.who.ctx = j.who.ctx ∧ i.st ≠ .entering ∧ j.edgeTo i = true) ∧
        (∀ e, e ≠ id → mget t.fly.jobs e = mget s.fly.jobs e) ∧ t.mem = s.mem ∧ ∀ c n, t.group c n = s.group c n) ∧
      (j.malformed = true → (cardWord j 0).testBit 9 = false → ∃ t, exec (.engineCardEntry id) s = .next t ∧
        mget t.fly.jobs id = none ∧
        ((cardWord j 0).testBit 8 = true → (t.cluster j.cluster).comps = (s.cluster j.cluster).comps ++
          [⟨j.who.ctx, j.who.core, j.who.slot, j.caraway, toD (2 ^ 16 * (cardWord j 0 / 2 ^ 16) + 3), j.pts⟩]))) ∧
    (j.st = .queued → j.edges = [] →
      (s.fly.jobs.filter fun p => decide (p.2.cluster = j.cluster ∧ p.2.caraway = j.caraway) && p.2.st == .running).length <
        (if j.caraway then 1 else 8) →
      (∀ p ∈ s.fly.jobs, p.2.cluster = j.cluster → p.2.caraway = j.caraway → p.2.st = .queued → p.2.edges = [] →
        j.order ≤ p.2.order) →
      let k := { j with st := .running, wants := (s.jobRows j).filter fun r => r ∉ j.seen }
      ∃ t, exec (.engineJobStart id) s = .next t ∧ t.fly.jobs = mset s.fly.jobs id k ∧ t.mem = s.mem ∧
        (∀ c n, t.group c n = s.group c n) ∧ ((cardWord j 0).testBit 10 = false →
          t = { s with fly := { s.fly with jobs := mset s.fly.jobs id k } })) ∧
    (j.st = .running → (∃ r ∈ s.jobRows j, r ∉ j.seen) → exec (.engineJobComplete id) s = .refused .eventNotDue)

/-- R402, R403, R406: a FILL over global memory of class D, at pages that the L2 TLB of the cluster translates, puts SLEN into every
word of its rows, pushes its record with status 0 and the number of rows, and removes the edges to it. -/
def Sys2Proof.Claims.FillJobsComplete : Prop :=
  ∀ s id j (pa : Nat → Nat), mget s.fly.jobs id = some j → Map.sorted s.fly.jobs = true → j.st = .running → j.caraway = false →
    j.malformed = false → cardWord j 0 % 2 ^ 8 = 3 → (cardWord j 0).testBit 9 = false → (cardWord j 0).testBit 11 = false →
    (∀ r i, r < cardWord j 9 → i < cardWord j 8 / 4 →
      let a := cardPair j 6 + r * cardWord j 11 + 4 * i
      ∃ e, ((s.cluster j.cluster).l2tlb.find? fun t => t.serves j.who.ctx a).map TlbEntry.pte = some e ∧
        s.pteCause e a { write := true } = none ∧ pteClass e = 0 ∧ pa a = ptePa e a ∧ AtHome s (lineAddr (pa a))) →
    (∀ c ∈ s.cores, ∀ p ∈ c.2.scratch.wins, p.2.maps = []) →
    ∃ t, exec (.engineJobComplete id) s = .next t ∧ mget t.fly.jobs id = none ∧
      (∀ k e, k ≠ id → mget s.fly.jobs k = some e →
        mget t.fly.jobs k = some { e with edges := e.edges.filter fun n => n ≠ id }) ∧
      (∀ r i, r < cardWord j 9 → i < cardWord j 8 / 4 →
        let a := cardPair j 6 + r * cardWord j 11 + 4 * i
        lineNum t j.who.ctx (lineAddr (pa a)) (pa a % 64) 4 = cardWord j 12) ∧
      (∀ b, (∀ r i, r < cardWord j 9 → i < cardWord j 8 / 4 →
        let k := pa (cardPair j 6 + r * cardWord j 11 + 4 * i)
        b < memKey j.who.ctx (lineAddr k) + k % 64 ∨ memKey j.who.ctx (lineAddr k) + k % 64 + 4 ≤ b) →
        Bytes.at_ t.mem.bytes b = Bytes.at_ s.mem.bytes b) ∧
      ((cardWord j 0).testBit 8 = true → (t.cluster j.cluster).comps = (s.cluster j.cluster).comps ++
        [⟨j.who.ctx, j.who.core, j.who.slot, false, toD (2 ^ 32 * cardWord j 9 + 2 ^ 16 * (cardWord j 0 / 2 ^ 16)), j.pts⟩])

/-- R404: the order of SORT is a stable order of the elements by their sort fields, ascending, or descending under DESC. -/
def Sys2Proof.Claims.SortsAreStable : Prop :=
  ∀ (j : Job) (keys : List Nat),
    (j.order_ keys).Perm (List.range keys.length) ∧
    (j.order_ keys).Pairwise fun a b =>
      let fa := j.field (keys.getD a 0)
      let fb := j.field (keys.getD b 0)
      (if j.desc then fb < fa else fa < fb) ∨ (fa = fb ∧ a < b)

/-- CardsWaitForTheirEdges; FillJobsComplete; SortsAreStable: all of these hold. -/
def Obligations.EngineJobs : Prop :=
  Sys2Proof.Claims.CardsWaitForTheirEdges ∧ Sys2Proof.Claims.FillJobsComplete ∧ Sys2Proof.Claims.SortsAreStable

/-- R412, R413, R414: SEND sends the n bytes at its source to one core, and MCAST to each core of its mask once, in snake order; the
split waits until it is answered. MCAST with an empty mask completes at once. A destination that is not there raises cause 0x0F
with s61 = 1, and a length that is not 4 to 256 in steps of 4 with s61 = 2. -/
def Sys2Proof.Claims.MessagesAreSent : Prop :=
  ∀ s x (o : SendO) w, s.running = some x → Idle s x →
    let m := (x.uni.sr o.a.toNat).toNat
    let v := (x.uni.sr (o.a.toNat + 1)).toNat
    let n := v % 2 ^ 16
    let src := (x.uni.sr o.b.toNat).toNat
    let sent := fun (t : State) (f : MsgFlight) => OtherGroups s t x ∧ t.mem = s.mem ∧ mget t.fly.sends s.nextId = some f ∧
      t.group x.core x.slot = some { x.gr with splits := mmod x.gr.splits x.entry fun sp => { sp with st := .wait (.msg s.nextId) } } ∧
      f.msg.port = o.q.toNat ∧ f.msg.tag = v / 2 ^ 16 ∧ f.msg.payload = payloadOf_ s x w src n ∧ f.msg.ctx = x.gr.ctx ∧
      f.msg.src = 256 * s.dev.pkg + x.core ∧ f.msg.pts = s.pts x.core x.gr.ctx ∧ f.nb = o.nb ∧ f.cd = o.cd.toNat ∧
      f.who.uid = x.gr.uid ∧ f.refused = false
    (4 ≤ n → n ≤ 256 → n % 4 = 0 → Spans s x w [src] n →
      (m < 512 → m % 256 < 192 → (m / 256 = 1 → s.dev.pair ≠ 0) →
        (m / 256 ≠ s.dev.pkg → s.dev.pair ≠ 3 ∧ (s.ctx x.gr.ctx).peerLost = false) →
        ∃ t f, exec (.send o) s = .next t ∧ sent t f ∧ f.dests = [m]) ∧
      (m < 2 ^ 28 → (m / 2 ^ 27 = 1 → s.dev.pair ≠ 0) →
        (m / 2 ^ 27 ≠ s.dev.pkg → s.dev.pair ≠ 3 ∧ (s.ctx x.gr.ctx).peerLost = false) →
        (m % 2 ^ 24 = 0 → ∃ t g, exec (.mcast o) s = .next t ∧ OnlyGroup s t x g ∧ g = queued x o.nb o.cd true x.gr.uni) ∧
        (m % 2 ^ 24 ≠ 0 → ∃ t f, exec (.mcast o) s = .next t ∧ sent t f ∧
          (∀ d, d ∈ f.dests ↔ ∃ c, c < 24 ∧ m.testBit c = true ∧ d = 256 * (m / 2 ^ 27) + 24 * (m / 2 ^ 24 % 8) + c) ∧
          f.dests.Pairwise fun a b => snakePos (a % 256 % 24) < snakePos (b % 256 % 24)))) ∧
    (512 ≤ m ∨ 192 ≤ m % 256 ∨ (m / 256 = 1 ∧ s.dev.pair = 0) → exec (.send o) s = trapAt s x 0x0F x.sp.mask 0 1) ∧
    (2 ^ 28 ≤ m ∨ (m / 2 ^ 27 = 1 ∧ s.dev.pair = 0) → exec (.mcast o) s = trapAt s x 0x0F x.sp.mask 0 1) ∧
    (m < 512 → m % 256 < 192 → m / 256 = 0 → n < 4 ∨ 256 < n ∨ n % 4 ≠ 0 →
      exec (.send o) s = trapAt s x 0x0F x.sp.mask (BitVec.ofNat 32 n) 2)

/-- R411, R413, R415: a message that reaches an ACTIVE core of its context is taken by the oldest receive that matches it, whose buffer
then holds it up to its capacity, or else by a free place of the overflow; it goes on to the next destination, or SEND and MCAST
complete with condition 1. A message that is not taken is refused: under nb they complete with condition 0, otherwise it is sent
again. -/
def Sys2Proof.Claims.MessagesArrive : Prop :=
  ∀ s id f y d rest, Arriving s id f d rest → SentFrom s f y → NoneUnsent y f d →
    let c := d % 256
    let k := (s.core c).msgs
    (mget (s.core c).res f.msg.ctx = some .active → (∀ r ∈ k.recvs, ¬Matches r.2 f.msg) → k.overflow.length < 64 →
      ∃ t, exec (.messageArrival id) s = .next t ∧ (t.core c).msgs = { k with overflow := k.overflow ++ [f.msg] } ∧
        t.mem = s.mem ∧ GoesOn s t id f y rest) ∧
    (∀ n r, mget (s.core c).res f.msg.ctx = some .active → Map.sorted k.recvs = true → mget k.recvs n = some r → Matches r f.msg →
      (∀ p ∈ k.recvs, Matches p.2 f.msg → p.1 ≠ n → r.order < p.2.order) → s.fly.touches = [] → (s.core c).scratch.halo = [] →
      r.buf / 2 ^ 20 = c % 24 →
      (∃ p ∈ (s.core c).scratch.wins, p.2.off % 4 = 0 ∧ p.2.off ≤ r.buf % 2 ^ 20 ∧ r.buf % 2 ^ 20 + r.cap ≤ p.2.off + p.2.len) →
      (∀ p ∈ (s.core c).scratch.wins, p.2.maps = [] ∧ s.blkIn p.2.blk r.ctx = true) →
      ∃ t, exec (.messageArrival id) s = .next t ∧
        (t.core c).msgs = { k with recvs := mset k.recvs n { r with matched := some f.msg } } ∧ t.mem = s.mem ∧
        (∀ i, i < min r.cap f.msg.payload.length →
          Bytes.at_ (t.core c).scratch.bytes (r.buf % 2 ^ 20 + i) = f.msg.payload.getD i 0) ∧
        (∀ a, a < r.buf % 2 ^ 20 ∨ r.buf % 2 ^ 20 + min r.cap f.msg.payload.length ≤ a →
          Bytes.at_ (t.core c).scratch.bytes a = Bytes.at_ (s.core c).scratch.bytes a) ∧ GoesOn s t id f y rest) ∧
    (mget (s.core c).res f.msg.ctx ≠ some .active ∨ (64 ≤ k.overflow.length ∧ ∀ r ∈ k.recvs, ¬Matches r.2 f.msg) →
      ∃ t, exec (.messageArrival id) s = .next t ∧ (t.core c).msgs = k ∧ t.mem = s.mem ∧
        (f.nb = true → mget t.fly.sends id = none ∧ t.group y.core y.slot = some (answeredTo y f false)) ∧
        (f.nb = false → mget t.fly.sends id = some { f with refused := true } ∧ ∀ c n, t.group c n = s.group c n)) ∧
    exec (.messageResend id) { s with fly := { s.fly with sends := mset s.fly.sends id { f with refused := true } } } =
      .next { s with fly := { s.fly with sends := mset s.fly.sends id f } }

/-- MessagesAreSent; MessagesArrive: all of these hold. -/
def Obligations.MessagesAreSentAndArrive : Prop :=
  Sys2Proof.Claims.MessagesAreSent ∧ Sys2Proof.Claims.MessagesArrive

/-- R415, R416: RECV.POST takes the lowest free entry and answers its number, taking an overflow message that matches at once; a bad
descriptor answers 0x101 and a full table 0x100. RECV.WAIT and RECV.TEST take a matched message: its tag and length, its source,
its pts, and the entry is free; not matched, TEST answers 0xFFFFFFFF and WAIT waits. A truncated message raises cause 0x0F with
s61 = 3 once. RECV.CANCEL frees an entry that is not matched and answers 0, 1 for a matched one. A handle that the group has not
posted answers 0xFFFFFFFE, and 2 to RECV.CANCEL. -/
def Obligations.PostedReceives : Prop :=
  ∀ s x (o : U2), s.running = some x → Map.sorted (s.core x.core).msgs.recvs = true →
    let k := (s.core x.core).msgs
    let u := x.uni
    let h := (u.sr o.a.toNat).toNat
    let answers := fun (i : Instr) (v : Nat) => ∃ t g, exec i s = .next t ∧ OnlyGroup s t x g ∧
      g = { after x 4 with uni := x.gr.uni.setS o.d.toNat (BitVec.ofNat 32 v) }
    (∀ w, Spans s x w [h] ((u.sr (o.a.toNat + 2)).toNat / 2 ^ 16) →
      let w2 := (u.sr (o.a.toNat + 2)).toNat
      let w3 := (u.sr (o.a.toNat + 3)).toNat
      let good := 4 ≤ w2 / 2 ^ 16 ∧ w2 / 2 ^ 16 ≤ 256 ∧ w2 / 2 ^ 16 % 4 = 0 ∧ w2 / 8 % 2 ^ 13 = 0 ∧ w3 / 2 ^ 9 % 2 ^ 22 = 0
      (¬good → answers (.recvPost o) 0x101) ∧
      (good → (∀ n, n < 64 → (mget k.recvs n).isSome = true) → answers (.recvPost o) 0x100) ∧
      (∀ n, good → n < 64 → mget k.recvs n = none → (∀ i, i < n → (mget k.recvs i).isSome = true) →
        ((∀ m ∈ k.overflow, ¬Matches (posted s x o w) m) →
          ∃ t, exec (.recvPost o) s = .next t ∧ Status s t x 4 o.d.toNat n ∧ t.mem = s.mem ∧
            (t.core x.core).msgs = { k with recvs := mset k.recvs n (posted s x o w) }) ∧
        (∀ l m r, k.overflow = l ++ m :: r → (∀ p ∈ l, ¬Matches (posted s x o w) p) → Matches (posted s x o w) m →
          s.fly.touches = [] →
          ∃ t, exec (.recvPost o) s = .next t ∧ Status s t x 4 o.d.toNat n ∧ t.mem = s.mem ∧
            (t.core x.core).msgs = { recvs := mset k.recvs n { posted s x o w with matched := some m }, overflow := l ++ r }))) ∧
    ((∀ r, mget k.recvs h = some r → r.uid ≠ x.gr.uid) →
      answers (.recvWait o) 0xFFFFFFFE ∧ answers (.recvTest o) 0xFFFFFFFE ∧ answers (.recvCancel o) 2) ∧
    (∀ r, mget k.recvs h = some r → r.uid = x.gr.uid →
      (r.matched = none → exec (.recvWait o) s = waitOn s x .poll ∧
        (∃ t g, exec (.recvTest o) s = .next t ∧ OnlyGroup s t x g ∧
          g = { after x 4 with uni := (x.gr.uni.setS o.d.toNat 0xFFFFFFFF).setS (o.d.toNat + 1) 0 }) ∧
        ∃ t, exec (.recvCancel o) s = .next t ∧ Status s t x 4 o.d.toNat 0 ∧ t.mem = s.mem ∧
          (t.core x.core).msgs = { k with recvs := mdel k.recvs h }) ∧
      (∀ m, r.matched = some m → answers (.recvCancel o) 1 ∧
        ((m.payload.length ≤ r.cap ∨ r.told = true) → (s.core x.core).scratch.words = [] →
          ∀ i ∈ [Instr.recvWait o, .recvTest o], ∃ t, exec i s = .next t ∧ OtherGroups s t x ∧ t.mem = s.mem ∧
            (t.core x.core).msgs = { k with recvs := mdel k.recvs h } ∧ m.pts ≤ t.pts x.core x.gr.ctx ∧
            t.group x.core x.slot = some { after x 4 with
              uni := (x.gr.uni.setS o.d.toNat (BitVec.ofNat 32 (m.tag * 65536 + m.payload.length))).setS (o.d.toNat + 1)
                (BitVec.ofNat 32 m.src) }) ∧
        (r.cap < m.payload.length → r.told = false → ∀ i ∈ [Instr.recvWait o, .recvTest o],
          exec i s = trapAt (s.modMsgs x.core fun t => { t with recvs := mset t.recvs h { r with told := true } }) x 0x0F x.sp.mask
            (BitVec.ofNat 32 m.payload.length) 3)))

namespace Sys2Proof.Claims
open Sys2Proof.Machine

/-! ### Contexts on cores -/

/-- The command registers take a command for the context: boot has not failed, none runs, and the context is enabled (R448). -/
structure Commands (s : State) (ctx : Nat) : Prop where
  boot : s.dev.boot ≠ 3
  free : s.dev.busy = false
  index : ctx < 64
  enabled : (s.ctx ctx).regs.en = true
/-- The shadow position of a core is empty (R436). -/
def NoShadow (s : State) (core : Nat) : Prop := ∀ p ∈ (s.core core).res, p.2 ≠ .shadow ∧ p.2 ≠ .draining ∧ p.2 ≠ .loading
/-- A context stands alone in a state on a core. -/
def Stands (s : State) (core ctx : Nat) (r : Residence) : Prop :=
  mget (s.core core).res ctx = some r ∧ Map.sorted (s.core core).res = true ∧
    ∀ p ∈ (s.core core).res, p.2 = r → p.1 = ctx
/-- No group has changed. -/
def SameGroups (s t : State) : Prop := ∀ c k, t.group c k = s.group c k
/-- What a kill leaves of a context (R434): no launch, no queue, no fault, no group, no place on a core, no translation, no
message, no job. -/
structure Killed (s t : State) (ctx : Nat) : Prop where
  launches : (t.ctx ctx).launches = [] ∧ (t.ctx ctx).queues = [] ∧ (t.ctx ctx).parked = [] ∧ (t.ctx ctx).faults = []
  killing : (t.ctx ctx).killing = true
  groups : ∀ c k g, t.group c k = some g → g.ctx ≠ ctx
  places : ∀ c, mget (t.core c).res ctx = none ∧ ctx ∉ (t.core c).resume
  tlbs : ∀ c, ∀ e ∈ (t.core c).tlb, e.ctx ≠ ctx
  jobs : ∀ p ∈ t.fly.jobs, p.2.who.ctx ≠ ctx
  sends : ∀ p ∈ t.fly.sends, p.2.who.ctx ≠ ctx
  blocks : ∀ p ∈ t.blocks, p.2.ctx ≠ ctx
  windows : ∀ c, ∀ p ∈ (t.core c).scratch.wins, s.blkIn p.2.blk ctx = false
  rows : ∀ c, ∀ p ∈ (t.core c).rows.xfers, p.2.who.ctx ≠ ctx
  matrix : ∀ c, ∀ e ∈ (t.core c).mx.queue, e.who.ctx ≠ ctx
  receives : ∀ c, (∀ p ∈ (t.core c).msgs.recvs, p.2.ctx ≠ ctx) ∧ ∀ m ∈ (t.core c).msgs.overflow, m.ctx ≠ ctx
/-- A TLB entry translates an address of the n bytes from a; n = 0 names every address (R216, R448). -/
def Translates (e : TlbEntry) (a n : Nat) : Prop :=
  let lo := if pteSZ e.pte then e.page / 32 * 32 else e.page
  let hi := if pteSZ e.pte then e.page / 32 * 32 + 32 else e.page + 1
  n = 0 ∨ (lo * 2 ^ 16 < a % 2 ^ 49 + n ∧ a % 2 ^ 49 < hi * 2 ^ 16)
/-- A context's group as it stands outside a core: its waits withdrawn (R437, R438). -/
def outside (g : Group) : Group := { g with splits := mall g.splits fun _ sp => sp.withdraw, holder := none }
end Sys2Proof.Claims

/-! ### Commands, switches, drains, loads, kills -/

/-- R436, R448: PLACE_SHADOW puts a context that a core does not hold into its empty shadow position, with the pts at the floor;
SWITCH_CORE asks for a switch and is busy until it is taken; LOAD_CONTEXT queues a load on every core that holds the context
SAVED; KILL_CONTEXT kills it; TLB_DROP removes its translations of the range; ICACHE_INVALIDATE with DARG1 = 0 empties every
instruction cache. A command while one runs, or for a context that is not enabled, is refused and does nothing else. -/
def Obligations.CommandsActOnContexts : Prop :=
  ∀ s ctx core,
    (Commands s ctx → core ≤ 191 → NoShadow s core → mget (s.core core).res ctx = none →
      ∃ t, exec (.placeShadow ctx core) s = .next t ∧ mget (t.core core).res ctx = some .shadow ∧
        t.pts core ctx = (s.ctx ctx).floor ∧ t.dev = { s.dev with refused := false } ∧ t.mem = s.mem ∧ SameGroups s t ∧
        ∀ c, c ≠ core → t.core c = s.core c) ∧
    (Commands s ctx → core ≤ 191 →
      ∃ t, exec (.switchCore ctx core) s = .next t ∧ t.core core = { s.core core with switch := true } ∧
        t.dev = { s.dev with refused := false, busy := true, pending := some core } ∧ t.mem = s.mem ∧
        ∀ c, c ≠ core → t.core c = s.core c) ∧
    (Commands s ctx → Map.sorted s.cores = true →
      (∀ c, mget (s.core c).res ctx = some .saved → (s.core c).resume.length < 8) →
      ∃ t, exec (.loadContext ctx) s = .next t ∧ t.dev = { s.dev with refused := false } ∧ t.mem = s.mem ∧
        ∀ c, t.core c = if mget (s.core c).res ctx = some .saved then { s.core c with resume := (s.core c).resume ++ [ctx] }
          else s.core c) ∧
    (Commands s ctx → ∃ t, exec (.killContext ctx) s = .next t ∧ Killed s t ctx) ∧
    (Commands s ctx → ∃ t, exec (.tlbDrop ctx) s = .next t ∧ t.mem = s.mem ∧ SameGroups s t ∧
      (∀ c e, e ∈ (t.core c).tlb ↔ e ∈ (s.core c).tlb ∧ ¬(e.ctx = ctx ∧ Translates e s.dev.darg0 s.dev.darg1)) ∧
      (∀ c e, e ∈ (t.cluster c).l2tlb ↔ e ∈ (s.cluster c).l2tlb ∧ ¬(e.ctx = ctx ∧ Translates e s.dev.darg0 s.dev.darg1))) ∧
    (Commands s ctx → s.dev.darg1 = 0 → ∃ t, exec (.icacheInvalidate ctx) s = .next t ∧ t.mem = s.mem ∧ SameGroups s t ∧
      ∀ c, (t.core c).icache = []) ∧
    (s.dev.boot ≠ 3 → s.dev.busy = true ∨ (s.ctx ctx).regs.en = false →
      ∀ i ∈ [Instr.placeShadow ctx core, .switchCore ctx core, .loadContext ctx, .killContext ctx, .tlbDrop ctx,
        .icacheInvalidate ctx], exec i s = .next { s with dev := { s.dev with refused := true } })

/-- R437, R438: a requested switch makes the SHADOW context of a core ACTIVE and the ACTIVE one DRAINING, whose groups have their waits
withdrawn; no instruction issues on the core for 96 clk, and the command is not busy any more. -/
def Sys2Proof.Claims.SwitchesAreTaken : Prop :=
  ∀ s core x y, (s.core core).switch = true → Stands s core x .active → Stands s core y .shadow →
    (∀ p ∈ (s.core core).res, p.2 ≠ .draining ∧ p.2 ≠ .loading) → (s.core (core / 2 * 2)).mx.bound = none →
    s.savedBound (core / 2 * 2) .shadow = none → s.dev.pending = some core →
    ∃ t, exec (.switchTaken core) s = .next t ∧ mget (t.core core).res x = some .draining ∧
      mget (t.core core).res y = some .active ∧ (t.core core).quietUntil = s.now + 96 ∧ (t.core core).switch = false ∧
      t.dev = { s.dev with pending := none, busy := false } ∧ t.mem = s.mem ∧
      (∀ k g, s.group core k = some g → t.group core k = some (if g.ctx = x then outside g else g)) ∧
      (∀ c k, c ≠ core → t.group c k = s.group c k) ∧
      (∀ w ∈ t.fly.syncs, ∀ k g, s.group core k = some g → g.ctx = x → w.2.who.uid ≠ g.uid)

/-- R114, R439: while a drain whose accesses have ended writes its image, each group of the context stays on the core or goes, whole,
into the save image, and no other group changes. When the last byte is written the context is SAVED, with its time, or ABSENT
when there is nothing to save. -/
def Sys2Proof.Claims.DrainsSaveContexts : Prop :=
  ∀ s core x, Stands s core x .draining → s.drainEnded core x = true → Map.sorted (s.core core).groups = true →
    (∀ k g, s.group core k = some g →
      let t := s.drainClk core
      t.group core k = some g ∨ (g.ctx = x ∧ t.group core k = none ∧ mget (mgetD (t.core core).saved x {}).groups k = some g)) ∧
    (∀ c k, c ≠ core → (s.drainClk core).group c k = s.group c k) ∧
    (∀ n, (s.image core x).empty = false ∨ s.allLeft core x = false →
      n = min 1024 ((s.core core).left + s.toLeave core x - (s.core core).drained) →
      ((s.drainClk core).core core).drained = (s.core core).drained + n) ∧
    ((∀ k g, s.group core k = some g → g.ctx ≠ x) → s.winsOf core x = [] →
      (s.core core).left + s.toLeave core x ≤ (s.core core).drained →
      ∃ t, exec (.drainComplete core) s = .next t ∧ t.mem = s.mem ∧ SameGroups s t ∧
        ((s.image core x).empty = true → mget (t.core core).res x = none) ∧
        ((s.image core x).empty = false → mget (t.core core).res x = some .saved ∧
          ∃ v, mget (t.core core).saved x = some v ∧ v.pts = s.pts core x ∧ v.part = (s.core core).part ∧
            v.groups = (mgetD (s.core core).saved x {}).groups ∧ v.wins = (mgetD (s.core core).saved x {}).wins))

/-- R440, R441: the oldest entry of the resume queue whose context is SAVED starts to load in the empty shadow position; when its image
fits and its bytes are read, at 1 KiB in a clk, its groups return to their slots and it is SHADOW. An image that is of another package
or core, or that does not stand in memory as it was written (which is what the check word tells, log entry 98), records a context
fault with primary cause 0x14. -/
def Sys2Proof.Claims.LoadsReturnContexts : Prop :=
  ∀ s core x,
    (∀ l, (s.core core).resume = x :: l → NoShadow s core → mget (s.core core).res x = some .saved → s.dev.loads = none →
      ∃ t, exec (.loadStart core) s = .next t ∧ mget (t.core core).res x = some .loading ∧ (t.core core).resume = l ∧
        t.mem = s.mem ∧ SameGroups s t ∧ ∀ c, c ≠ core → t.core c = s.core c) ∧
    (∀ v, Stands s core x .loading → (s.ctx x).faults = [] → mget (s.core core).saved x = some v →
      let due := (s.core core).loadAt + (s.imageBytes v + 1023) / 1024
      let good := v.pkg = s.dev.pkg ∧ v.home = core ∧ s.imageStands core x v = true
      (∀ ok, s.now < due ∨ (ok = 1 ↔ ¬good) → exec (.loadComplete core ok) s = .refused .eventNotDue) ∧
      (due ≤ s.now → good → s.hasRoom core v = true → Map.sorted v.groups = true → v.part = (s.core core).part →
        ∃ t, exec (.loadComplete core 1) s = .next t ∧ mget (t.core core).res x = some .shadow ∧ t.pts core x = v.pts ∧
          t.mem = s.mem ∧ (∀ k g, mget v.groups k = some g → t.group core k = some g) ∧
          (∀ k, mget v.groups k = none → t.group core k = s.group core k) ∧ ∀ c, c ≠ core → t.core c = s.core c) ∧
      (∀ ok, due ≤ s.now → ¬good → ok ≠ 1 → ∃ t, exec (.loadComplete core ok) s = .next t ∧
        (t.ctx x).faults = [⟨0x14, 0, core, 0, 0, 0⟩] ∧ t.mem = s.mem ∧ SameGroups s t))

/-- SwitchesAreTaken; DrainsSaveContexts; LoadsReturnContexts: all of these hold. -/
def Obligations.SwitchesDrainsAndLoads : Prop :=
  Sys2Proof.Claims.SwitchesAreTaken ∧ Sys2Proof.Claims.DrainsSaveContexts ∧ Sys2Proof.Claims.LoadsReturnContexts

/-- R433, R434: a context fault that is recorded kills the context: its launches end, and its groups, windows, translations, messages and
jobs go; of its stores, jobs, row transfers and matrix stores that have begun, free bits say which lines are written (log entry 51). "Kill
done" (event 10) is posted when no request of it is in flight and no row slot is its own. -/
def Obligations.FaultedContextsAreKilled : Prop :=
  ∀ s ctx,
    (∀ f l, (s.ctx ctx).faults = f :: l → ∃ t, exec (.contextFault ctx) s = .next t ∧ Killed s t ctx) ∧
    ((s.ctx ctx).faults = [] → exec (.contextFault ctx) s = .refused .eventNotDue) ∧
    ((s.ctx ctx).killing = true → (∀ r ∈ s.fly.reqs, r.2.who.ctx ≠ ctx) →
      (∀ c ∈ s.cores, ∀ r ∈ c.2.rows.slots, r.2.ctx ≠ ctx) →
      exec (.killDone ctx) s = .next ((s.postEvent ctx 10).modCtx ctx fun x => { x with killing := false })) ∧
    ((s.ctx ctx).killing = true → ((∃ r ∈ s.fly.reqs, r.2.who.ctx = ctx) ∨ ∃ c ∈ s.cores, ∃ r ∈ c.2.rows.slots, r.2.ctx = ctx) →
      exec (.killDone ctx) s = .refused .eventNotDue)

namespace Sys2Proof.Claims
open Sys2Proof.Machine

/-! ### The host's side -/

/-- An access by the host through BAR2 of n bytes that lie in one line of GDDR: its physical address. -/
structure GddrAt (s : State) (off n pa : Nat) : Prop where
  boot : s.dev.boot ≠ 3
  idle : s.dev.bar2 = none
  inside : off + n ≤ s.dev.b2size
  place : pa = s.dev.b2off / s.dev.b2size * s.dev.b2size + off
  gddr : 0x2000000000 ≤ pa ∧ pa < 0x3800000000
  line : 1 ≤ n ∧ pa % 64 + n ≤ 64
  home : AtHome s (lineAddr pa)
/-- The registers and rings of a context block are these, and nothing else of the machine has changed. -/
def OnlyRegs (s t : State) (ctx : Nat) (r : CtxRegs) : Prop := t = s.modCtx ctx fun x => { x with regs := r }
def OnlyRings (s t : State) (ctx : Nat) (r : CtxRings) : Prop := t = s.modCtx ctx fun x => { x with rings := r }
/-- The package after fundamental reset (R17, R453), whatever stood before: its host keeps its memory. -/
structure ResetTo (s t : State) : Prop where
  cores : t.cores = [] ∧ t.clusters = [] ∧ t.blocks = [] ∧ t.ctxs = [] ∧ t.rays = []
  flight : t.fly = {}
  now : t.now = 0
  run : t.run = none
  dev : t.dev = { pkg := s.dev.pkg }
  times : t.mem.lines = [] ∧ t.mem.slices = [] ∧ t.mem.windows = []
  package : ∀ a, a.testBit 51 = false → a < 2 ^ 52 → Bytes.at_ t.mem.bytes a = 0
  host : ∀ a, a.testBit 51 = true ∨ 2 ^ 52 ≤ a → Bytes.at_ t.mem.bytes a = Bytes.at_ s.mem.bytes a

end Sys2Proof.Claims

/-! ### Registers, doorbells, BAR2, reset and the pair -/

/-- R445, R447, R449: LQTAIL moves forwards by no more than the ring holds, and lets a stalled slot be read again; EQHEAD and FQHEAD move
the heads of their rings; FQREPLAY of a token lets what parked with it go on (a job is queued again, log entry 45), and of any other
number does nothing. PWRCAP takes 600 to 1600, and a weight 1 to 255. After a failed boot check none of them has an effect (log entry
52). -/
def Sys2Proof.Claims.DoorbellsTakeEffect : Prop :=
  ∀ s ctx v, ctx < 64 →
    let r := (s.ctx ctx).rings
    (s.dev.boot = 3 → ∀ i ∈ [Instr.lqtailWrite ctx v, .fqheadWrite ctx v, .fqreplayWrite ctx v, .eqheadWrite ctx v, .pwrcapWrite v,
      .weightWrite ctx v], exec i s = .next s) ∧
    (s.dev.boot ≠ 3 → v < 2 ^ 32 → r.lqhead < 2 ^ 32 → r.lqtail < 2 ^ 32 →
      let ahead := fun t => (t + 2 ^ 32 - r.lqhead) % 2 ^ 32
      (ahead r.lqtail ≤ ahead v → ahead v ≤ 2 ^ r.lqlog → exec (.lqtailWrite ctx v) s =
        .next (s.modCtx ctx fun x => { x with stalled := false, rings := { r with lqtail := v } })) ∧
      (ahead v < ahead r.lqtail ∨ 2 ^ r.lqlog < ahead v → exec (.lqtailWrite ctx v) s = .next s) ∧
      (∃ t, exec (.eqheadWrite ctx v) s = .next t ∧ OnlyRings s t ctx { r with eqhead := v }) ∧
      ((s.ctx ctx).held = [] → ∃ t, exec (.fqheadWrite ctx v) s = .next t ∧ OnlyRings s t ctx { r with fqhead := v }) ∧
      (mget (s.ctx ctx).parked v = none → exec (.fqreplayWrite ctx v) s = .next s) ∧
      (∀ core slot e g, mget (s.ctx ctx).parked v = some (.split core slot g.uid e) → s.group core slot = some g →
        ∃ t, exec (.fqreplayWrite ctx v) s = .next t ∧ t.group core slot = some (g.wake (.replay v)) ∧
          mget (t.ctx ctx).parked v = none ∧ t.mem = s.mem) ∧
      (∀ k q, mget (s.ctx ctx).parked v = some (.ray k) → mget s.rays (rayKey ctx k) = some q →
        ∃ t, exec (.fqreplayWrite ctx v) s = .next t ∧ mget t.rays (rayKey ctx k) = some { q with at_ := .replayed }) ∧
      (∀ k j, mget (s.ctx ctx).parked v = some (.job k) → mget s.fly.jobs k = some j →
        ∃ t, exec (.fqreplayWrite ctx v) s = .next t ∧ mget t.fly.jobs k = some { j with st := .queued })) ∧
    (s.dev.boot ≠ 3 → v < 2 ^ 11 → exec (.pwrcapWrite v) s =
      .next { s with dev := { s.dev with pwrcap := if 600 ≤ v ∧ v ≤ 1600 then v else s.dev.pwrcap } }) ∧
    (∀ c, s.dev.boot ≠ 3 → v < 2 ^ 8 → exec (.weightWrite c v) s =
      .next { s with dev := { s.dev with weights := if v = 0 then s.dev.weights else s.dev.weights.set c v } })

/-- R444, R445, R446, R448: REGISTER_WRITE puts 64 bits into the register at its offset: B2OFF, DARG0 and DARG1 of the device, and of a
context block CTLA, SRBASE, TFB, RAYBASE and SAVEBASE whole and ROOT with EN; while a core holds the context those do not change.
An offset that is not a multiple of 8, and any write after a failed boot check (log entry 52), does nothing. -/
def Sys2Proof.Claims.RegisterWrites : Prop :=
  ∀ s off v, v < 2 ^ 64 →
    (off % 8 ≠ 0 ∨ s.dev.boot = 3 → exec (.registerWrite off v) s = .next s) ∧
    (s.dev.boot ≠ 3 →
      (off = 0x30 → exec (.registerWrite off v) s = .next { s with dev := { s.dev with b2off := v } }) ∧
      (off = 0x1008 → exec (.registerWrite off v) s = .next { s with dev := { s.dev with darg0 := v } }) ∧
      (off = 0x1010 → exec (.registerWrite off v) s = .next { s with dev := { s.dev with darg1 := v } }) ∧
      ∀ ctx o, ctx < 64 → off = 0x100000 + 0x1000 * ctx + o →
        (s.heldBy ctx = true → o ∈ [0, 8, 0x10, 0x20, 0x28, 0x38] → exec (.registerWrite off v) s = .next s) ∧
        (s.heldBy ctx = false → ∃ t, exec (.registerWrite off v) s = .next t ∧
          let r := (s.ctx ctx).regs
          (o = 0 → ((t.ctx ctx).regs = { r with en := v.testBit 0, root := v % 2 ^ 52 / 2 ^ 12 * 2 ^ 12 })) ∧
          (o = 8 → (t.ctx ctx).regs = { r with ctla := v }) ∧ (o = 0x10 → (t.ctx ctx).regs = { r with srbase := v }) ∧
          (o = 0x20 → (t.ctx ctx).regs = { r with tfb := v }) ∧ (o = 0x28 → (t.ctx ctx).regs = { r with raybase := v }) ∧
          (o = 0x38 → (t.ctx ctx).regs = { r with savebase := v }) ∧
          (o ∈ [0, 8, 0x10, 0x20, 0x28, 0x38] → t.cores = s.cores ∧ t.mem = s.mem ∧ t.dev = s.dev ∧
            ∀ c, c ≠ ctx → t.ctx c = s.ctx c)))

/-- DoorbellsTakeEffect; RegisterWrites: all of these hold. -/
def Obligations.DoorbellsAndRegisters : Prop :=
  Sys2Proof.Claims.DoorbellsTakeEffect ∧ Sys2Proof.Claims.RegisterWrites

/-- R444, R453: BAR2 shows physical memory from B2OFF, aligned to its size: a write to GDDR stores its bytes and no others, and a read
returns the bytes. A word of the control space is the BAR0 register at the same offset. After a failed boot check a read of memory
returns zeros, a write does nothing, and of the registers only those of the device read as they are (log entry 52). -/
def Obligations.Bar2AccessesMemory : Prop :=
  ∀ s off n v pa,
    (GddrAt s off n pa → ∃ t, exec (.bar2Access 1 off n v) s = .next t ∧
      (∀ i, i < n → Bytes.at_ t.mem.bytes (pa + i) = BitVec.ofNat 8 (v / 256 ^ i)) ∧
      ∀ a, a < pa ∨ pa + n ≤ a → Bytes.at_ t.mem.bytes a = Bytes.at_ s.mem.bytes a) ∧
    (GddrAt s off n pa → (∀ i, i < n → mgetD s.mem.poison ((pa + i) / 4) false = false) →
      ∃ t, exec (.bar2Access 0 off n v) s = .next t ∧ t.dev.lastRead = Bytes.read s.mem.bytes pa n ∧
        ∀ a, Bytes.at_ t.mem.bytes a = Bytes.at_ s.mem.bytes a) ∧
    (s.dev.bar2 = none → off + n ≤ s.dev.b2size →
      let at_ := s.dev.b2off / s.dev.b2size * s.dev.b2size + off
      (s.dev.boot = 3 → at_ + n ≤ 0x4000000000 → exec (.bar2Access 1 off n v) s = .next s ∧
        exec (.bar2Access 0 off n v) s = .next { s with dev := { s.dev with lastRead := List.replicate n 0 } }) ∧
      (∀ o, o % 4 = 0 → o < 0x400000 → at_ = 0x4000000000 + o → n = 4 →
        exec (.bar2Access 0 off 4 v) s = .next { s with dev := { s.dev with lastRead := leBytes 4 (s.bar0Read o) } } ∧
        (s.dev.boot = 3 → 0x1000 ≤ o → s.bar0Read o = 0) ∧
        (s.dev.boot ≠ 3 → v < 2 ^ 32 → let t := s.bar0Write o v
          exec (.bar2Access 1 off 4 v) s = .next { t with dev := { t.dev with bar2 := none } })))

/-- R17, R435, R452, R453: fundamental reset and the removal of power leave the package as the reset column of each table says, with memory
of the package read as 0 (the model's choice, log entry 4), the host's memory as it was, and PKG (log entry 54) until the boot
firmware is verified: then PKG and PAIR are those of the package (log entry 68), and a pair's link trains. Otherwise boot fails. The
pair link comes up (while PAIR is 0 or 1, log entry 55), counts a replayed flit as a transient error, and when lost reads 3, and no
copy of a line of the other package stays (log entry 89); a context lost on the other package is marked. -/
def Obligations.ResetBootAndPair : Prop :=
  ∀ s,
    (∃ t, exec .fundamentalReset s = .next t ∧ ResetTo s t) ∧ (∃ t, exec .powerRemoved s = .next t ∧ ResetTo s t) ∧
    (∀ ok, s.dev.boot ≤ 1 → exec (.bootVerifyDone ok) s = .next { s with dev := if ok = 1 then
        { s.dev with boot := 2, pkg := if Config.paired = true ∧ Config.second = true then 1 else 0,
                     pair := if Config.paired = true then 1 else 0 }
      else { s.dev with boot := 3 } }) ∧
    (s.dev.pair ≤ 1 → exec .pairLinkUp s = .next { s with dev := { s.dev with pair := 2 } }) ∧
    (∀ a b c, s.dev.pair = 2 → s.dev.errcnt = [a, b, c] → exec .pairFlitReplay s =
      .next { s with dev := { s.dev with errcnt := [a, (b + 1) % 2 ^ 64, c] } }) ∧
    (s.dev.pair = 1 ∨ s.dev.pair = 2 → (∀ c ∈ s.ctxs, c.2.regs.en = false) →
      (∀ c ∈ s.cores, ∀ l ∈ c.2.l1, s.otherPkg l.1 = false) → (∀ r ∈ s.fly.reqs, s.otherPkg r.2.pa = false) →
      exec .pairLinkLost s = .next { s with dev := { s.dev with pair := 3 } }) ∧
    (s.dev.pair = 1 ∨ s.dev.pair = 2 → ∃ t, exec .pairLinkLost s = .next t ∧ t.dev.pair = 3 ∧
      ∀ c, ∀ l ∈ (t.core c).l1, s.otherPkg l.1 = false) ∧
    (∀ ctx, s.dev.pair = 2 → ctx < 64 → ∃ t, exec (.pairedContextLost ctx) s = .next t ∧ (t.ctx ctx).peerLost = true ∧
      ∀ n l, mget (s.ctx ctx).launches n = some l → mget (t.ctx ctx).launches n = some { l with peerLost := true })

/-- R226: when a time of a slice would pass 2^48 − 2^20 (a lease or a write at the limit, a write that waits to pass it), every program
time, bound and slice time of the package becomes 0, every leased line leaves the L1s, no byte of memory changes, and every core
counts it; until then the event does not happen. -/
def Sys2Proof.Claims.TimesWrap : Prop :=
  ∀ s,
    ((∃ l ∈ s.mem.lines, 2 ^ 48 - 2 ^ 20 ≤ l.2.rts) ∨ (∃ l ∈ s.mem.slices, 2 ^ 48 - 2 ^ 20 ≤ l.2.mts) ∨
        (∃ r ∈ s.fly.reqs, r.2.cls = 1 ∧ r.2.phase = .out ∧ r.2.op.reads = false ∧
          2 ^ 48 - 2 ^ 20 < max r.2.pts ((s.sline r.2.pa).rts + 1)) →
      s.fly.touches = [] → ∃ t, exec .timeWrap s = .next t ∧ t.mem.bytes = s.mem.bytes ∧ t.mem.slices = [] ∧
        (∀ l ∈ t.mem.lines, l.2.wts = 0 ∧ l.2.rts = 0) ∧ (∀ c x, t.pts c x = 0) ∧ (∀ x, (t.ctx x).floor = 0) ∧
        t.mem.tsync = [] ∧ (∀ id r, mget s.fly.reqs id = some r → id < s.nextId → ∃ q, mget t.fly.reqs id = some q ∧
          q.pts = 0 ∧ q.wts = 0 ∧ q.rts = 0 ∧ q.sts = 0) ∧
        (∀ c, ∀ l ∈ (t.core c).l1, l.2.st ≠ .lease) ∧ (∀ c k, t.group c k = s.group c k) ∧
        ∀ c, c < 192 → ctrGet (t.core c).ctr .ltwrap = ctrGet (s.core c).ctr .ltwrap + 1) ∧
    (s.timesFull = false → exec .timeWrap s = .refused .eventNotDue)

/-- R184, R278, R445, R451: an error that a unit meets is counted in ERRCNT by its kind; one that the unit cannot have met does nothing.
A lasting error poisons a scratch word, and leaves its bytes. Which errors are met, and when, is not stated: they stand in the
schedule (log entry 62). -/
def Sys2Proof.Claims.ErrorsAreCounted : Prop :=
  ∀ s f rest a b c, s.turns = .flaw f :: rest → s.dev.errcnt = [a, b, c] →
    (s.flawHere f.at_ = false → step s = .next { s with turns := rest }) ∧
    (s.flawHere f.at_ = true → ∃ t, step s = .next t ∧ (s.fly.touches = [] → ∀ c k, t.group c k = s.group c k) ∧
      t.dev.errcnt = (match f.kind with
        | .corrected => [(a + 1) % 2 ^ 64, b, c]
        | .transient => [a, (b + 1) % 2 ^ 64, c]
        | .lasting => [a, b, (c + 1) % 2 ^ 64]) ∧
      (∀ core off, f.at_ = .pool core off → f.kind = .lasting → (s.core core).scratch.words = [] → s.fly.touches = [] →
        mgetD (t.core core).scratch.poison (off / 4) false = true ∧ (t.core core).scratch.bytes = (s.core core).scratch.bytes) ∧
      (f.kind = .corrected → t.mem = s.mem ∧ ∀ c, (t.core c).scratch = (s.core c).scratch))

/-- TimesWrap; ErrorsAreCounted: all of these hold. -/
def Obligations.TimesWrapAndErrors : Prop := Sys2Proof.Claims.TimesWrap ∧ Sys2Proof.Claims.ErrorsAreCounted

namespace Sys2Proof.Claims
open Sys2Proof.Machine

/-! ### Steps -/

/-- The next turn is the issue of a split that may issue, on a page that its core's TLB translates, from a line that the instruction
cache holds; the words at its PC are w0 and w1 (0 where w1 stands in the next line), and no branch has led into the second word
of an instruction. -/
structure Fetches (s : State) (x : Ex) (rest : List Turn) (w0 w1 : Word) : Prop where
  turn : s.turns = .issue x.core x.slot x.entry :: rest
  split : s.exAt x.core x.slot x.entry = some x
  context : s.ctxIssues x.core x.gr.ctx = true
  awake : x.awake s.now = true
  fresh : x.sp.latch = none
  settled : x.sp.settle = false ∨ x.gr.pending x.sp.mask = false
  words : ∃ e d, let a := Pc.addr x.sp.pc
    ((s.core x.core).tlb.find? fun t => t.serves x.gr.ctx a.toNat).map TlbEntry.pte = some e ∧
    s.pteCause e a.toNat { fetch := true } = none ∧ mget (s.core x.core).icache (lineAddr (ptePa e a.toNat)) = some d ∧
    w0 = d.extractLsb' (8 * (a.toNat % 64)) 32 ∧
    w1 = (if a.toNat % 64 = 60 then 0 else d.extractLsb' (8 * ((a.toNat + 4) % 64)) 32) ∧
    (x.sp.jumped = true → a.toNat % 8 = 4 → carriesX (d.extractLsb' (8 * ((a.toNat - 4) % 64)) 32) = false)
/-- The issue of i is not held back by a pending result, its quadrant gives it a place in this clk, and no lower entry of the group has
to act on a join first (R60, R84, R87). -/
def MayIssue (s : State) (x : Ex) (i : Instr) : Prop :=
  x.windowShut = false ∧ x.touchesPending i = false ∧ s.mayIssue x.core (x.issued i) = true ∧
    s.joinTurn x i = true
/-- The tables of a group are in order of a group: the live one, and in a handler the frozen one (R425). -/
def GroupInOrder (g : Group) : Prop := TablesInOrder g.splits ∧ ∀ h, g.handler = some h → TablesInOrder h.splits
/-- So do those of every group, on a core or in a save image. -/
def SplitsInOrder (s : State) : Prop :=
  ∀ c ∈ s.cores, (∀ g ∈ c.2.groups, GroupInOrder g.2) ∧ ∀ v ∈ c.2.saved, ∀ g ∈ v.2.groups, GroupInOrder g.2

end Sys2Proof.Claims

/-! ### Encoding, steps, reset, invariants -/

/-- R52, R55, R56, R67: words that the manual writes out, and the instructions that it says they are: IADD of registers and with a literal,
a guarded BRA, NOP, EXIT, ISUB and a 64-bit ST with an offset; a word whose major is not listed, and the reserved guard pair, are
refused by name. -/
def Obligations.SomeWordsDecode : Prop :=
  decode 0x00110C0E 0xFFFFFFFF = .ok (.iadd ⟨1, 2, .reg 3, ⟨7, false⟩⟩) ∧
  decode 0x0010801E 0x000186A0 = .ok (.iadd ⟨1, 1, .lit 100000, ⟨7, false⟩⟩) ∧
  decode 0x40400004 0xFFFFFFFF = .ok (.bra ⟨⟨1, false⟩, 4⟩) ∧
  decode 0x5000000E 0xFFFFFFFF = .ok (.nop ⟨⟨7, false⟩⟩) ∧
  decode 0x5000002E 0xFFFFFFFF = .ok (.exit ⟨⟨7, false⟩⟩) ∧
  decode 0x0010802E 0xFFFFFFFF = .ok (.isub ⟨1, 1, .reg 0, ⟨7, false⟩⟩) ∧
  decode 0x6262303C 0x00000040 = .ok (.st ⟨6, 4, 3, 0, some 0x40, ⟨7, false⟩⟩) ∧
  decode 0x1C00000E 0xFFFFFFFF = .bad .unlistedMajor ∧
  decode 0x00110C0F 0xFFFFFFFF = .bad .firstWordLimit

/-- R51, R52, R55 to R59, R67: decoding is the inverse of encoding. An instruction that keeps the limits of R67 and has words decodes from
them, whatever follows an instruction of one word; and words that decode to an instruction are its encoding, up to what
follows it, and the instruction keeps the limits. -/
def Obligations.DecodingInvertsEncoding : Prop :=
  (∀ i w0 w1, i.wf = true → (encode i = [w0] ∨ encode i = [w0, w1]) → decode w0 w1 = .ok i) ∧
  (∀ i w0 w1, decode w0 w1 = .ok i → i.wf = true ∧ (encode i = [w0] ∨ encode i = [w0, w1]))

/-- R51, R54, R60, R82: a step whose turn is the issue of a split executes the instruction that the words at its PC are, with a note of the
other entries of its group that issue in the clk (R420): where its execution answers t, the step answers t with the issue noted, and
where it stops, the step stops in the same way. -/
def Obligations.AStepRunsTheInstruction : Prop :=
  ∀ s x rest w0 w1 i, Fetches s x rest w0 w1 → decode w0 w1 = .ok i → (i.len = 8 → (Pc.addr x.sp.pc).toNat % 8 = 0) →
    let s0 := { s with turns := rest }
    MayIssue s0 x i →
    let s1 := s0.started x (s0.alsoNow x)
    (∀ t, exec i s1 = .next t → step s = .next ((t.finished s0 x i).afterIssue x)) ∧
    (∀ r, exec i s1 = .fault r → step s = .fault r) ∧ (∀ r, exec i s1 = .refused r → step s = .refused r)

/-- R17, R36, R113, R436, R445, R446, R453: after reset no context stands on any core, no group is resident, no launch, ray, request or
message exists, the device registers read as their tables say, and every context register is 0. That memory reads as 0, and that what
no table gives a reset value is empty, are the model's choices (log entries 4 and 5). -/
def Obligations.ResetLeavesTheMachineEmpty : Prop :=
  let s := State.reset
  (∀ c, (s.core c).res = [] ∧ (s.core c).groups = [] ∧ (s.core c).part = 0 ∧ (s.core c).scratch.wins = [] ∧ (s.core c).rows.slots = [] ∧
    (s.core c).mx.queue = [] ∧ (s.core c).mx.bound = none ∧ (s.core c).msgs.recvs = [] ∧ (s.core c).resume = []) ∧
  (∀ x, (s.ctx x).regs = {} ∧ (s.ctx x).rings = {} ∧ (s.ctx x).launches = [] ∧ (s.ctx x).queues = [] ∧ (s.ctx x).floor = 0) ∧
  s.fly = {} ∧ s.rays = [] ∧ s.blocks = [] ∧ s.dev.pair = 0 ∧ s.dev.boot = 0 ∧ s.dev.pwrcap = 1500 ∧
  s.dev.weights = [2, 4, 6, 8, 12, 16, 24, 32] ∧ s.dev.errcnt = [0, 0, 0] ∧ s.dev.b2off = 0 ∧ s.dev.busy = false ∧
  (∀ c n, ctrGet (s.core c).ctr n = 0) ∧ s.mem.wf = true ∧ ∀ a, Bytes.at_ s.mem.bytes a = 0

/-- R204, R234: memory keeps its canonical form in every step: its bytes and its poison marks are listed once each, in order of address,
and none that is as an unlisted one is. -/
def Obligations.StepsKeepMemoryCanonical : Prop := ∀ s t, s.mem.wf = true → step s = .next t → t.mem.wf = true

/-- R81, R83: the split tables keep their form in every step: entries in order, numbers below 8, and no lane in two entries of a table. -/
def Obligations.StepsKeepSplitsApart : Prop := ∀ s t, SplitsInOrder s → step s = .next t → SplitsInOrder t

/-- R2, R204: memory holds what was last written: a byte written reads back, and every other byte reads as before; the same holds of the
bytes of a line under a mask and of a list of bytes. -/
def Obligations.MemoryReadsWhatWasWritten : Prop :=
  ∀ b : Bytes,
    (∀ a x k, Bytes.at_ (Bytes.put b a x) k = if k = a then x else Bytes.at_ b k) ∧
    (∀ a l k, Bytes.at_ (Bytes.write b a l) k = if a ≤ k ∧ k < a + l.length then l.getD (k - a) 0 else Bytes.at_ b k) ∧
    (∀ a d (m : BitVec 64) k, Bytes.at_ (Bytes.writeLine b a d m) k =
      if a ≤ k ∧ k < a + 64 ∧ m.getLsbD (k - a) = true then d.extractLsb' (8 * (k - a)) 8 else Bytes.at_ b k) ∧
    ∀ n a l, b.wf = true → Bytes.read (Bytes.write b a l) a n =
      (List.range n).map fun i => if i < l.length then l.getD i 0 else Bytes.at_ b (a + i)
end

