-- ==== Sys2Proof/Laws/Maps.lean ====
section
/-! SUPPORT. What the operations over sparse maps do, and that each keeps the rising order of keys. -/
namespace Sys2Proof.Machine

/-! ### Reading after a change -/

@[simp] theorem mget_nil {α : Type} (n : Nat) : mget ([] : Map α) n = none := rfl
@[simp] theorem mgetD_nil {α : Type} (n : Nat) (d : α) : mgetD ([] : Map α) n d = d := rfl

/-- Reading a map in which one key was set. -/
theorem mget_mset {α : Type} (m : Map α) (n k : Nat) (x : α) : mget (mset m n x) k = if k = n then some x else mget m k := by
  induction m with
  | nil => simp only [mset, mget]
  | cons p t ih =>
    obtain ⟨a, v⟩ := p
    simp only [mset]
    split
    · next h => subst h; simp only [mget]; split <;> simp_all
    · split
      · simp only [mget]
      · next h1 _ =>
        simp only [mget, ih]
        by_cases hk : k = n
        · subst hk; simp [h1]
        · simp [hk]
@[simp] theorem mget_mset_same {α : Type} (m : Map α) (n : Nat) (x : α) : mget (mset m n x) n = some x := by
  simp [mget_mset]
theorem mget_mset_ne {α : Type} (m : Map α) {n k : Nat} (x : α) (h : k ≠ n) : mget (mset m n x) k = mget m k := by
  simp [mget_mset, h]
@[simp] theorem mgetD_mset_same {α : Type} (m : Map α) (n : Nat) (x d : α) : mgetD (mset m n x) n d = x := by
  simp [mgetD]
theorem mgetD_mset {α : Type} (m : Map α) (n k : Nat) (x d : α) :
    mgetD (mset m n x) k d = if k = n then x else mgetD m k d := by
  simp only [mgetD, mget_mset]; split <;> rfl

/-- Reading a map in which one listed key was changed. -/
theorem mget_mmod {α : Type} (m : Map α) (n k : Nat) (f : α → α) :
    mget (mmod m n f) k = if k = n then (mget m n).map f else mget m k := by
  induction m with
  | nil => simp [mmod]
  | cons p t ih =>
    obtain ⟨a, v⟩ := p
    simp only [mmod]
    split
    · next h => subst h; simp only [mget]; split <;> simp_all
    · next h =>
      simp only [mget, ih]
      by_cases hk : k = n
      · subst hk; simp [h]
      · simp [hk]
@[simp] theorem mget_mmod_same {α : Type} (m : Map α) (n : Nat) (f : α → α) : mget (mmod m n f) n = (mget m n).map f := by
  simp [mget_mmod]

/-- Reading a map changed at every key. -/
@[simp] theorem mget_mall {α : Type} (m : Map α) (f : Nat → α → α) (k : Nat) : mget (mall m f) k = (mget m k).map (f k) := by
  induction m with
  | nil => rfl
  | cons p t ih =>
    obtain ⟨a, v⟩ := p
    show mget ((a, f a v) :: mall t f) k = _
    simp only [mget, ih]; split
    · next h => subst h; rfl
    · rfl

/-! ### Rising keys -/

/-- Every key of a map is above a bound. -/
def Map.above {α : Type} (b : Nat) (m : Map α) : Prop := ∀ p ∈ m, b < p.1

theorem Map.sorted_cons {α : Type} (a : Nat × α) (t : Map α) : Map.sorted (a :: t) = true ↔ Map.above a.1 t ∧ Map.sorted t = true := by
  induction t generalizing a with
  | nil => simp [Map.sorted, Map.above]
  | cons b t ih =>
    simp only [Map.sorted, Bool.and_eq_true, decide_eq_true_eq]
    constructor
    · rintro ⟨h, hs⟩
      refine ⟨?_, hs⟩
      intro p hp
      rcases List.mem_cons.1 hp with rfl | hp
      · exact h
      · exact lt_trans h (((ih b).1 hs).1 p hp)
    · rintro ⟨h, hs⟩
      exact ⟨h b (List.mem_cons_self ..), hs⟩

/-- Every pair of a map after a set is the new one or was there. -/
theorem mem_mset {α : Type} (m : Map α) (n : Nat) (x : α) (p : Nat × α) (h : p ∈ mset m n x) : p = (n, x) ∨ p ∈ m := by
  induction m with
  | nil => simpa [mset] using h
  | cons q t ih =>
    obtain ⟨a, v⟩ := q
    simp only [mset] at h
    split at h
    · next e => rcases List.mem_cons.1 h with h | h
                · subst e; exact .inl h
                · exact .inr (List.mem_cons_of_mem _ h)
    · split at h
      · rcases List.mem_cons.1 h with h | h
        · exact .inl h
        · exact .inr h
      · rcases List.mem_cons.1 h with h | h
        · exact .inr (h ▸ List.mem_cons_self ..)
        · rcases ih h with h | h
          · exact .inl h
          · exact .inr (List.mem_cons_of_mem _ h)
theorem mem_mdel {α : Type} (m : Map α) (n : Nat) (p : Nat × α) (h : p ∈ mdel m n) : p ∈ m := by
  induction m with
  | nil => simp [mdel] at h
  | cons q t ih =>
    obtain ⟨a, v⟩ := q
    simp only [mdel] at h
    split at h
    · exact List.mem_cons_of_mem _ (ih h)
    · rcases List.mem_cons.1 h with h | h
      · exact h ▸ List.mem_cons_self ..
      · exact List.mem_cons_of_mem _ (ih h)

theorem sorted_mset {α : Type} (m : Map α) (n : Nat) (x : α) (h : Map.sorted m = true) : Map.sorted (mset m n x) = true := by
  induction m with
  | nil => rfl
  | cons q t ih =>
    obtain ⟨a, v⟩ := q
    have hq := (Map.sorted_cons _ _).1 h
    simp only [mset]
    split
    · next e => subst e; exact (Map.sorted_cons _ _).2 hq
    · split
      · next hl =>
        refine (Map.sorted_cons _ _).2 ⟨?_, h⟩
        intro p hp
        rcases List.mem_cons.1 hp with rfl | hp
        · exact hl
        · exact lt_trans hl (hq.1 p hp)
      · next hn hl =>
        refine (Map.sorted_cons _ _).2 ⟨?_, ih hq.2⟩
        intro p hp
        rcases mem_mset t n x p hp with rfl | hp
        · show a < n; omega
        · exact hq.1 p hp
theorem sorted_mdel {α : Type} (m : Map α) (n : Nat) (h : Map.sorted m = true) : Map.sorted (mdel m n) = true := by
  induction m with
  | nil => rfl
  | cons q t ih =>
    have hq := (Map.sorted_cons _ _).1 h
    simp only [mdel]
    split
    · exact ih hq.2
    · exact (Map.sorted_cons _ _).2 ⟨fun p hp => hq.1 p (mem_mdel t n p hp), ih hq.2⟩
theorem sorted_mkeep {α : Type} (m : Map α) (f : Nat → α → Bool) (h : Map.sorted m = true) : Map.sorted (mkeep m f) = true := by
  induction m with
  | nil => rfl
  | cons q t ih =>
    have hq := (Map.sorted_cons _ _).1 h
    simp only [mkeep, List.filter_cons]
    split
    · refine (Map.sorted_cons _ _).2 ⟨fun p hp => hq.1 p ?_, ih hq.2⟩
      exact (List.mem_filter.1 hp).1
    · exact ih hq.2
theorem sorted_mput {α : Type} [DecidableEq α] (d : α) (m : Map α) (n : Nat) (x : α) (h : Map.sorted m = true) :
    Map.sorted (mput d m n x) = true := by
  unfold mput; split
  · exact sorted_mdel m n h
  · exact sorted_mset m n x h

/-- Reading a map from which a key was taken. -/
theorem mget_mdel {α : Type} (m : Map α) (n k : Nat) : mget (mdel m n) k = if k = n then none else mget m k := by
  induction m with
  | nil => simp [mdel]
  | cons q t ih =>
    obtain ⟨a, v⟩ := q
    simp only [mdel]
    by_cases hk : k = n
    · subst hk; split
      · simp [ih]
      · next e => simp [mget, ih, e]
    · split
      · next e => subst e; simp [ih, mget, hk]
      · simp [mget, ih, hk]
/-- Reading after a put: the value put, whether it is listed or is the one that unlisted keys have. -/
theorem mgetD_mput {α : Type} [DecidableEq α] (d : α) (m : Map α) (n k : Nat) (x : α) :
    mgetD (mput d m n x) k d = if k = n then x else mgetD m k d := by
  unfold mput; split
  · next e => simp only [mgetD, mget_mdel]; split
              · simp [e]
              · rfl
  · exact mgetD_mset m n k x d
@[simp] theorem mgetD_mput_same {α : Type} [DecidableEq α] (d : α) (m : Map α) (n : Nat) (x : α) :
    mgetD (mput d m n x) n d = x := by simp [mgetD_mput]

end Sys2Proof.Machine
end

