-- ==== Sys2Proof/Laws/Memory.lean ====
section
/-! SUPPORT. Every operation over memory keeps its canonical form. -/
namespace Sys2Proof.Machine

theorem Bytes.wf_iff (b : Bytes) : b.wf = true ↔ Map.sorted b = true ∧ ∀ p ∈ b, p.2 ≠ 0 := by
  simp [Bytes.wf]
/-- A written byte keeps the form: a byte 0 is not listed. -/
theorem Bytes.put_wf {b : Bytes} (a : Nat) (x : Byte) (h : b.wf = true) : (Bytes.put b a x).wf = true := by
  rw [Bytes.wf_iff] at *
  refine ⟨sorted_mput 0 b a x h.1, fun p hp => ?_⟩
  unfold Bytes.put mput at hp
  split at hp
  · exact h.2 p (mem_mdel b a p hp)
  · next e =>
    rcases mem_mset b a x p hp with rfl | hm
    · exact e
    · exact h.2 p hm
/-- A list of bytes written. -/
theorem Bytes.write_wf {b : Bytes} (a : Nat) (l : List Byte) (h : b.wf = true) : (Bytes.write b a l).wf = true := by
  induction l generalizing b a with
  | nil => exact h
  | cons x t ih => exact ih (a + 1) (Bytes.put_wf a x h)
/-- A fold keeps what each of its steps keeps. -/
theorem foldl_keeps {α β : Type} (p : β → Prop) (f : β → α → β) (l : List α) (h : ∀ b a, p b → p (f b a)) (b : β) (hb : p b) :
    p (l.foldl f b) := by
  induction l generalizing b with
  | nil => exact hb
  | cons a t ih => exact ih (f b a) (h b a hb)
/-- The masked bytes of a line written. -/
theorem Bytes.writeLine_wf {b : Bytes} (pa : Nat) (d : Line) (m : BitVec 64) (h : b.wf = true) :
    (Bytes.writeLine b pa d m).wf = true :=
  foldl_keeps (fun b : Bytes => b.wf = true) _ _ (fun _ _ hb => Bytes.put_wf _ _ hb) b h

/-- Poison marks in the canonical form: in order, and only those that are set. -/
def Poison.ok (p : Poison) : Prop := Map.sorted p = true ∧ ∀ q ∈ p, q.2 = true
theorem Poison.mput_ok {p : Poison} (n : Nat) (x : Bool) (h : p.ok) : Poison.ok (mput false p n x) := by
  refine ⟨sorted_mput false p n x h.1, fun q hq => ?_⟩
  unfold mput at hq
  split at hq
  · exact h.2 q (mem_mdel p n q hq)
  · next e =>
    rcases mem_mset p n x q hq with rfl | hm
    · simpa using e
    · exact h.2 q hm
theorem Poison.write_ok {p : Poison} (pa : Nat) (b m : BitVec 16) (h : p.ok) : (Poison.write p pa b m).ok :=
  foldl_keeps Poison.ok _ _ (fun _ _ hb => Poison.mput_ok _ _ hb) p h
theorem Poison.put_ok {p : Poison} (a : Nat) (l : List Bool) (h : p.ok) : (Poison.put p a l).ok :=
  foldl_keeps Poison.ok _ _ (fun _ _ hb => Poison.mput_ok _ _ hb) p h

theorem Memory.wf_iff (m : Memory) : m.wf = true ↔ m.bytes.wf = true ∧ m.poison.ok := by
  simp [Memory.wf, Poison.ok, Bool.and_eq_true, and_assoc]
/-- A masked line write keeps the form of the package's memory (the home slices, the host, the row stack of class R). -/
theorem Memory.store_wf {m : Memory} (pa : Nat) (d : Line) (k : BitVec 64) (p : BitVec 16) (h : m.wf = true) :
    (m.store pa d k p).wf = true := by
  rw [Memory.wf_iff] at *
  exact ⟨Bytes.writeLine_wf pa d k h.1, Poison.write_ok pa p (wordsWhole k) h.2⟩
/-- A store to scratch leaves the package's memory alone. -/
@[simp] theorem State.storeWord_mem (s : State) (core off lo hi : Nat) : (s.storeWord core off lo hi).mem = s.mem := by
  unfold State.storeWord
  dsimp only
  repeat' split
  all_goals rfl
@[simp] theorem State.storeScr_mem (s : State) (core off : Nat) (bs : List Byte) : (s.storeScr core off bs).mem = s.mem := by
  show ((wordOffs off bs.length).foldl (fun s o => s.storeWord core o off (off + bs.length)) s).mem = s.mem
  exact foldl_keeps (fun t : State => t.mem = s.mem) _ _ (fun _ _ h => by simpa using h) s rfl
@[simp] theorem State.putSpan_mem (s : State) (core off : Nat) (bs : List Byte) (p : List Bool) :
    (s.putSpan core off bs p).mem = s.mem := by
  show (s.storeScr core off bs).mem = s.mem
  simp
@[simp] theorem State.putPlane_mem (s : State) (core a : Nat) (bs : List Byte) (p : List Bool) :
    (s.putPlane core a bs p).mem = s.mem := by
  show (s.bump core .bplline _).mem = s.mem
  unfold State.bump; split <;> rfl
/-- A row written from scratch keeps the form, and a row read leaves memory alone. -/
theorem State.moveRow_wf {s : State} (core : Nat) (t : Xfer) (h : s.mem.wf = true) : (s.moveRow core t).mem.wf = true := by
  unfold State.moveRow
  cases t.kind
  · simpa using h
  · simpa using h
  · rw [Memory.wf_iff] at *
    exact ⟨Bytes.write_wf (rowAddr core t.slot t.row t.off) _ h.1, Poison.put_ok (rowAddr core t.slot t.row t.off) _ h.2⟩
/-- The memory that a fundamental reset leaves. -/
theorem State.again_wf {s : State} (h : s.mem.wf = true) : s.again.mem.wf = true := by
  rw [Memory.wf_iff] at *
  unfold State.again
  refine ⟨(Bytes.wf_iff _).2 ⟨sorted_mkeep s.mem.bytes (fun a _ => a.testBit 51 || decide (a ≥ 2 ^ 52)) ((Bytes.wf_iff _).1 h.1).1, fun p hp => ?_⟩,
    sorted_mkeep s.mem.poison (fun a _ => decide (4 * a ≥ 2 ^ 51)) h.2.1, fun q hq => ?_⟩
  · exact ((Bytes.wf_iff _).1 h.1).2 p (List.mem_of_mem_filter hp)
  · exact h.2.2 q (List.mem_of_mem_filter hq)
/-- Memory after reset has the form. -/
theorem State.reset_wf : State.reset.mem.wf = true := rfl

end Sys2Proof.Machine
end

