-- ==== Sys2Proof/Laws/State.lean ====
section
/-! SUPPORT. What each update of the state, of a group, of a lane and of the uniform state leaves of each field. -/
namespace Sys2Proof.Machine

/-! ### The whole machine -/

@[simp] theorem State.modCore_now (s : State) (c : Nat) (f : Core → Core) : (s.modCore c f).now = s.now := rfl
@[simp] theorem State.modCore_clusters (s : State) (c : Nat) (f : Core → Core) : (s.modCore c f).clusters = s.clusters := rfl
@[simp] theorem State.modCore_mem (s : State) (c : Nat) (f : Core → Core) : (s.modCore c f).mem = s.mem := rfl
@[simp] theorem State.modCore_fly (s : State) (c : Nat) (f : Core → Core) : (s.modCore c f).fly = s.fly := rfl
@[simp] theorem State.modCore_blocks (s : State) (c : Nat) (f : Core → Core) : (s.modCore c f).blocks = s.blocks := rfl
@[simp] theorem State.modCore_ctxs (s : State) (c : Nat) (f : Core → Core) : (s.modCore c f).ctxs = s.ctxs := rfl
@[simp] theorem State.modCore_rays (s : State) (c : Nat) (f : Core → Core) : (s.modCore c f).rays = s.rays := rfl
@[simp] theorem State.modCore_dev (s : State) (c : Nat) (f : Core → Core) : (s.modCore c f).dev = s.dev := rfl
@[simp] theorem State.modCore_nextId (s : State) (c : Nat) (f : Core → Core) : (s.modCore c f).nextId = s.nextId := rfl
@[simp] theorem State.modCore_freed (s : State) (c : Nat) (f : Core → Core) : (s.modCore c f).freed = s.freed := rfl
@[simp] theorem State.modCore_run (s : State) (c : Nat) (f : Core → Core) : (s.modCore c f).run = s.run := rfl
@[simp] theorem State.modCore_held (s : State) (c : Nat) (f : Core → Core) : (s.modCore c f).held = s.held := rfl
@[simp] theorem State.modCore_turns (s : State) (c : Nat) (f : Core → Core) : (s.modCore c f).turns = s.turns := rfl
@[simp] theorem State.modGroup_now (s : State) (c k : Nat) (f : Group → Group) : (s.modGroup c k f).now = s.now := rfl
@[simp] theorem State.modGroup_clusters (s : State) (c k : Nat) (f : Group → Group) : (s.modGroup c k f).clusters = s.clusters := rfl
@[simp] theorem State.modGroup_mem (s : State) (c k : Nat) (f : Group → Group) : (s.modGroup c k f).mem = s.mem := rfl
@[simp] theorem State.modGroup_fly (s : State) (c k : Nat) (f : Group → Group) : (s.modGroup c k f).fly = s.fly := rfl
@[simp] theorem State.modGroup_blocks (s : State) (c k : Nat) (f : Group → Group) : (s.modGroup c k f).blocks = s.blocks := rfl
@[simp] theorem State.modGroup_ctxs (s : State) (c k : Nat) (f : Group → Group) : (s.modGroup c k f).ctxs = s.ctxs := rfl
@[simp] theorem State.modGroup_rays (s : State) (c k : Nat) (f : Group → Group) : (s.modGroup c k f).rays = s.rays := rfl
@[simp] theorem State.modGroup_dev (s : State) (c k : Nat) (f : Group → Group) : (s.modGroup c k f).dev = s.dev := rfl
@[simp] theorem State.modGroup_nextId (s : State) (c k : Nat) (f : Group → Group) : (s.modGroup c k f).nextId = s.nextId := rfl
@[simp] theorem State.modGroup_freed (s : State) (c k : Nat) (f : Group → Group) : (s.modGroup c k f).freed = s.freed := rfl
@[simp] theorem State.modGroup_run (s : State) (c k : Nat) (f : Group → Group) : (s.modGroup c k f).run = s.run := rfl
@[simp] theorem State.modGroup_held (s : State) (c k : Nat) (f : Group → Group) : (s.modGroup c k f).held = s.held := rfl
@[simp] theorem State.modGroup_turns (s : State) (c k : Nat) (f : Group → Group) : (s.modGroup c k f).turns = s.turns := rfl
@[simp] theorem State.modCluster_now (s : State) (c : Nat) (f : Cluster → Cluster) : (s.modCluster c f).now = s.now := rfl
@[simp] theorem State.modCluster_cores (s : State) (c : Nat) (f : Cluster → Cluster) : (s.modCluster c f).cores = s.cores := rfl
@[simp] theorem State.modCluster_mem (s : State) (c : Nat) (f : Cluster → Cluster) : (s.modCluster c f).mem = s.mem := rfl
@[simp] theorem State.modCluster_fly (s : State) (c : Nat) (f : Cluster → Cluster) : (s.modCluster c f).fly = s.fly := rfl
@[simp] theorem State.modCluster_blocks (s : State) (c : Nat) (f : Cluster → Cluster) : (s.modCluster c f).blocks = s.blocks := rfl
@[simp] theorem State.modCluster_ctxs (s : State) (c : Nat) (f : Cluster → Cluster) : (s.modCluster c f).ctxs = s.ctxs := rfl
@[simp] theorem State.modCluster_rays (s : State) (c : Nat) (f : Cluster → Cluster) : (s.modCluster c f).rays = s.rays := rfl
@[simp] theorem State.modCluster_dev (s : State) (c : Nat) (f : Cluster → Cluster) : (s.modCluster c f).dev = s.dev := rfl
@[simp] theorem State.modCluster_nextId (s : State) (c : Nat) (f : Cluster → Cluster) : (s.modCluster c f).nextId = s.nextId := rfl
@[simp] theorem State.modCluster_freed (s : State) (c : Nat) (f : Cluster → Cluster) : (s.modCluster c f).freed = s.freed := rfl
@[simp] theorem State.modCluster_run (s : State) (c : Nat) (f : Cluster → Cluster) : (s.modCluster c f).run = s.run := rfl
@[simp] theorem State.modCluster_held (s : State) (c : Nat) (f : Cluster → Cluster) : (s.modCluster c f).held = s.held := rfl
@[simp] theorem State.modCluster_turns (s : State) (c : Nat) (f : Cluster → Cluster) : (s.modCluster c f).turns = s.turns := rfl
@[simp] theorem State.modCtx_now (s : State) (c : Nat) (f : Ctx → Ctx) : (s.modCtx c f).now = s.now := rfl
@[simp] theorem State.modCtx_cores (s : State) (c : Nat) (f : Ctx → Ctx) : (s.modCtx c f).cores = s.cores := rfl
@[simp] theorem State.modCtx_clusters (s : State) (c : Nat) (f : Ctx → Ctx) : (s.modCtx c f).clusters = s.clusters := rfl
@[simp] theorem State.modCtx_mem (s : State) (c : Nat) (f : Ctx → Ctx) : (s.modCtx c f).mem = s.mem := rfl
@[simp] theorem State.modCtx_fly (s : State) (c : Nat) (f : Ctx → Ctx) : (s.modCtx c f).fly = s.fly := rfl
@[simp] theorem State.modCtx_blocks (s : State) (c : Nat) (f : Ctx → Ctx) : (s.modCtx c f).blocks = s.blocks := rfl
@[simp] theorem State.modCtx_rays (s : State) (c : Nat) (f : Ctx → Ctx) : (s.modCtx c f).rays = s.rays := rfl
@[simp] theorem State.modCtx_dev (s : State) (c : Nat) (f : Ctx → Ctx) : (s.modCtx c f).dev = s.dev := rfl
@[simp] theorem State.modCtx_nextId (s : State) (c : Nat) (f : Ctx → Ctx) : (s.modCtx c f).nextId = s.nextId := rfl
@[simp] theorem State.modCtx_freed (s : State) (c : Nat) (f : Ctx → Ctx) : (s.modCtx c f).freed = s.freed := rfl
@[simp] theorem State.modCtx_run (s : State) (c : Nat) (f : Ctx → Ctx) : (s.modCtx c f).run = s.run := rfl
@[simp] theorem State.modCtx_held (s : State) (c : Nat) (f : Ctx → Ctx) : (s.modCtx c f).held = s.held := rfl
@[simp] theorem State.modCtx_turns (s : State) (c : Nat) (f : Ctx → Ctx) : (s.modCtx c f).turns = s.turns := rfl
@[simp] theorem State.modBlock_now (s : State) (c : Nat) (f : Block → Block) : (s.modBlock c f).now = s.now := rfl
@[simp] theorem State.modBlock_cores (s : State) (c : Nat) (f : Block → Block) : (s.modBlock c f).cores = s.cores := rfl
@[simp] theorem State.modBlock_clusters (s : State) (c : Nat) (f : Block → Block) : (s.modBlock c f).clusters = s.clusters := rfl
@[simp] theorem State.modBlock_mem (s : State) (c : Nat) (f : Block → Block) : (s.modBlock c f).mem = s.mem := rfl
@[simp] theorem State.modBlock_fly (s : State) (c : Nat) (f : Block → Block) : (s.modBlock c f).fly = s.fly := rfl
@[simp] theorem State.modBlock_ctxs (s : State) (c : Nat) (f : Block → Block) : (s.modBlock c f).ctxs = s.ctxs := rfl
@[simp] theorem State.modBlock_rays (s : State) (c : Nat) (f : Block → Block) : (s.modBlock c f).rays = s.rays := rfl
@[simp] theorem State.modBlock_dev (s : State) (c : Nat) (f : Block → Block) : (s.modBlock c f).dev = s.dev := rfl
@[simp] theorem State.modBlock_nextId (s : State) (c : Nat) (f : Block → Block) : (s.modBlock c f).nextId = s.nextId := rfl
@[simp] theorem State.modBlock_freed (s : State) (c : Nat) (f : Block → Block) : (s.modBlock c f).freed = s.freed := rfl
@[simp] theorem State.modBlock_run (s : State) (c : Nat) (f : Block → Block) : (s.modBlock c f).run = s.run := rfl
@[simp] theorem State.modBlock_held (s : State) (c : Nat) (f : Block → Block) : (s.modBlock c f).held = s.held := rfl
@[simp] theorem State.modBlock_turns (s : State) (c : Nat) (f : Block → Block) : (s.modBlock c f).turns = s.turns := rfl
@[simp] theorem State.fresh_now (s : State)  : (s.fresh ).now = s.now := rfl
@[simp] theorem State.fresh_cores (s : State)  : (s.fresh ).cores = s.cores := rfl
@[simp] theorem State.fresh_clusters (s : State)  : (s.fresh ).clusters = s.clusters := rfl
@[simp] theorem State.fresh_mem (s : State)  : (s.fresh ).mem = s.mem := rfl
@[simp] theorem State.fresh_fly (s : State)  : (s.fresh ).fly = s.fly := rfl
@[simp] theorem State.fresh_blocks (s : State)  : (s.fresh ).blocks = s.blocks := rfl
@[simp] theorem State.fresh_ctxs (s : State)  : (s.fresh ).ctxs = s.ctxs := rfl
@[simp] theorem State.fresh_rays (s : State)  : (s.fresh ).rays = s.rays := rfl
@[simp] theorem State.fresh_dev (s : State)  : (s.fresh ).dev = s.dev := rfl
@[simp] theorem State.fresh_freed (s : State)  : (s.fresh ).freed = s.freed := rfl
@[simp] theorem State.fresh_run (s : State)  : (s.fresh ).run = s.run := rfl
@[simp] theorem State.fresh_held (s : State)  : (s.fresh ).held = s.held := rfl
@[simp] theorem State.fresh_turns (s : State)  : (s.fresh ).turns = s.turns := rfl
@[simp] theorem State.modMsgs_now (s : State) (c : Nat) (f : MsgCore → MsgCore) : (s.modMsgs c f).now = s.now := rfl
@[simp] theorem State.modMsgs_clusters (s : State) (c : Nat) (f : MsgCore → MsgCore) : (s.modMsgs c f).clusters = s.clusters := rfl
@[simp] theorem State.modMsgs_mem (s : State) (c : Nat) (f : MsgCore → MsgCore) : (s.modMsgs c f).mem = s.mem := rfl
@[simp] theorem State.modMsgs_fly (s : State) (c : Nat) (f : MsgCore → MsgCore) : (s.modMsgs c f).fly = s.fly := rfl
@[simp] theorem State.modMsgs_blocks (s : State) (c : Nat) (f : MsgCore → MsgCore) : (s.modMsgs c f).blocks = s.blocks := rfl
@[simp] theorem State.modMsgs_ctxs (s : State) (c : Nat) (f : MsgCore → MsgCore) : (s.modMsgs c f).ctxs = s.ctxs := rfl
@[simp] theorem State.modMsgs_rays (s : State) (c : Nat) (f : MsgCore → MsgCore) : (s.modMsgs c f).rays = s.rays := rfl
@[simp] theorem State.modMsgs_dev (s : State) (c : Nat) (f : MsgCore → MsgCore) : (s.modMsgs c f).dev = s.dev := rfl
@[simp] theorem State.modMsgs_nextId (s : State) (c : Nat) (f : MsgCore → MsgCore) : (s.modMsgs c f).nextId = s.nextId := rfl
@[simp] theorem State.modMsgs_freed (s : State) (c : Nat) (f : MsgCore → MsgCore) : (s.modMsgs c f).freed = s.freed := rfl
@[simp] theorem State.modMsgs_run (s : State) (c : Nat) (f : MsgCore → MsgCore) : (s.modMsgs c f).run = s.run := rfl
@[simp] theorem State.modMsgs_held (s : State) (c : Nat) (f : MsgCore → MsgCore) : (s.modMsgs c f).held = s.held := rfl
@[simp] theorem State.modMsgs_turns (s : State) (c : Nat) (f : MsgCore → MsgCore) : (s.modMsgs c f).turns = s.turns := rfl
@[simp] theorem State.setGroup_now (s : State) (x : Ex) (g : Group) : (s.setGroup x g).now = s.now := rfl
@[simp] theorem State.setGroup_clusters (s : State) (x : Ex) (g : Group) : (s.setGroup x g).clusters = s.clusters := rfl
@[simp] theorem State.setGroup_mem (s : State) (x : Ex) (g : Group) : (s.setGroup x g).mem = s.mem := rfl
@[simp] theorem State.setGroup_fly (s : State) (x : Ex) (g : Group) : (s.setGroup x g).fly = s.fly := rfl
@[simp] theorem State.setGroup_blocks (s : State) (x : Ex) (g : Group) : (s.setGroup x g).blocks = s.blocks := rfl
@[simp] theorem State.setGroup_ctxs (s : State) (x : Ex) (g : Group) : (s.setGroup x g).ctxs = s.ctxs := rfl
@[simp] theorem State.setGroup_rays (s : State) (x : Ex) (g : Group) : (s.setGroup x g).rays = s.rays := rfl
@[simp] theorem State.setGroup_dev (s : State) (x : Ex) (g : Group) : (s.setGroup x g).dev = s.dev := rfl
@[simp] theorem State.setGroup_nextId (s : State) (x : Ex) (g : Group) : (s.setGroup x g).nextId = s.nextId := rfl
@[simp] theorem State.setGroup_freed (s : State) (x : Ex) (g : Group) : (s.setGroup x g).freed = s.freed := rfl
@[simp] theorem State.setGroup_run (s : State) (x : Ex) (g : Group) : (s.setGroup x g).run = s.run := rfl
@[simp] theorem State.setGroup_held (s : State) (x : Ex) (g : Group) : (s.setGroup x g).held = s.held := rfl
@[simp] theorem State.setGroup_turns (s : State) (x : Ex) (g : Group) : (s.setGroup x g).turns = s.turns := rfl
@[simp] theorem State.done_now (s : State) (x : Ex) (n : Nat) (f : Group → Group) : (s.done x n f).now = s.now := rfl
@[simp] theorem State.done_clusters (s : State) (x : Ex) (n : Nat) (f : Group → Group) : (s.done x n f).clusters = s.clusters := rfl
@[simp] theorem State.done_mem (s : State) (x : Ex) (n : Nat) (f : Group → Group) : (s.done x n f).mem = s.mem := rfl
@[simp] theorem State.done_fly (s : State) (x : Ex) (n : Nat) (f : Group → Group) : (s.done x n f).fly = s.fly := rfl
@[simp] theorem State.done_blocks (s : State) (x : Ex) (n : Nat) (f : Group → Group) : (s.done x n f).blocks = s.blocks := rfl
@[simp] theorem State.done_ctxs (s : State) (x : Ex) (n : Nat) (f : Group → Group) : (s.done x n f).ctxs = s.ctxs := rfl
@[simp] theorem State.done_rays (s : State) (x : Ex) (n : Nat) (f : Group → Group) : (s.done x n f).rays = s.rays := rfl
@[simp] theorem State.done_dev (s : State) (x : Ex) (n : Nat) (f : Group → Group) : (s.done x n f).dev = s.dev := rfl
@[simp] theorem State.done_nextId (s : State) (x : Ex) (n : Nat) (f : Group → Group) : (s.done x n f).nextId = s.nextId := rfl
@[simp] theorem State.done_freed (s : State) (x : Ex) (n : Nat) (f : Group → Group) : (s.done x n f).freed = s.freed := rfl
@[simp] theorem State.done_run (s : State) (x : Ex) (n : Nat) (f : Group → Group) : (s.done x n f).run = s.run := rfl
@[simp] theorem State.done_held (s : State) (x : Ex) (n : Nat) (f : Group → Group) : (s.done x n f).held = s.held := rfl
@[simp] theorem State.done_turns (s : State) (x : Ex) (n : Nat) (f : Group → Group) : (s.done x n f).turns = s.turns := rfl
@[simp] theorem State.bump_now (s : State) (k : Nat) (c : Ctr) (n : Nat) : (s.bump k c n).now = s.now := by unfold State.bump; split <;> rfl
@[simp] theorem State.bump_clusters (s : State) (k : Nat) (c : Ctr) (n : Nat) : (s.bump k c n).clusters = s.clusters := by unfold State.bump; split <;> rfl
@[simp] theorem State.bump_mem (s : State) (k : Nat) (c : Ctr) (n : Nat) : (s.bump k c n).mem = s.mem := by unfold State.bump; split <;> rfl
@[simp] theorem State.bump_fly (s : State) (k : Nat) (c : Ctr) (n : Nat) : (s.bump k c n).fly = s.fly := by unfold State.bump; split <;> rfl
@[simp] theorem State.bump_blocks (s : State) (k : Nat) (c : Ctr) (n : Nat) : (s.bump k c n).blocks = s.blocks := by unfold State.bump; split <;> rfl
@[simp] theorem State.bump_ctxs (s : State) (k : Nat) (c : Ctr) (n : Nat) : (s.bump k c n).ctxs = s.ctxs := by unfold State.bump; split <;> rfl
@[simp] theorem State.bump_rays (s : State) (k : Nat) (c : Ctr) (n : Nat) : (s.bump k c n).rays = s.rays := by unfold State.bump; split <;> rfl
@[simp] theorem State.bump_dev (s : State) (k : Nat) (c : Ctr) (n : Nat) : (s.bump k c n).dev = s.dev := by unfold State.bump; split <;> rfl
@[simp] theorem State.bump_nextId (s : State) (k : Nat) (c : Ctr) (n : Nat) : (s.bump k c n).nextId = s.nextId := by unfold State.bump; split <;> rfl
@[simp] theorem State.bump_freed (s : State) (k : Nat) (c : Ctr) (n : Nat) : (s.bump k c n).freed = s.freed := by unfold State.bump; split <;> rfl
@[simp] theorem State.bump_run (s : State) (k : Nat) (c : Ctr) (n : Nat) : (s.bump k c n).run = s.run := by unfold State.bump; split <;> rfl
@[simp] theorem State.bump_held (s : State) (k : Nat) (c : Ctr) (n : Nat) : (s.bump k c n).held = s.held := by unfold State.bump; split <;> rfl
@[simp] theorem State.bump_turns (s : State) (k : Nat) (c : Ctr) (n : Nat) : (s.bump k c n).turns = s.turns := by unfold State.bump; split <;> rfl
@[simp] theorem State.bumpK_now (s : State) (k : Nat) (c : Ctr) (n : Nat) : (s.bumpK k c n).now = s.now := by unfold State.bumpK; split <;> rfl
@[simp] theorem State.bumpK_cores (s : State) (k : Nat) (c : Ctr) (n : Nat) : (s.bumpK k c n).cores = s.cores := by unfold State.bumpK; split <;> rfl
@[simp] theorem State.bumpK_mem (s : State) (k : Nat) (c : Ctr) (n : Nat) : (s.bumpK k c n).mem = s.mem := by unfold State.bumpK; split <;> rfl
@[simp] theorem State.bumpK_fly (s : State) (k : Nat) (c : Ctr) (n : Nat) : (s.bumpK k c n).fly = s.fly := by unfold State.bumpK; split <;> rfl
@[simp] theorem State.bumpK_blocks (s : State) (k : Nat) (c : Ctr) (n : Nat) : (s.bumpK k c n).blocks = s.blocks := by unfold State.bumpK; split <;> rfl
@[simp] theorem State.bumpK_ctxs (s : State) (k : Nat) (c : Ctr) (n : Nat) : (s.bumpK k c n).ctxs = s.ctxs := by unfold State.bumpK; split <;> rfl
@[simp] theorem State.bumpK_rays (s : State) (k : Nat) (c : Ctr) (n : Nat) : (s.bumpK k c n).rays = s.rays := by unfold State.bumpK; split <;> rfl
@[simp] theorem State.bumpK_dev (s : State) (k : Nat) (c : Ctr) (n : Nat) : (s.bumpK k c n).dev = s.dev := by unfold State.bumpK; split <;> rfl
@[simp] theorem State.bumpK_nextId (s : State) (k : Nat) (c : Ctr) (n : Nat) : (s.bumpK k c n).nextId = s.nextId := by unfold State.bumpK; split <;> rfl
@[simp] theorem State.bumpK_freed (s : State) (k : Nat) (c : Ctr) (n : Nat) : (s.bumpK k c n).freed = s.freed := by unfold State.bumpK; split <;> rfl
@[simp] theorem State.bumpK_run (s : State) (k : Nat) (c : Ctr) (n : Nat) : (s.bumpK k c n).run = s.run := by unfold State.bumpK; split <;> rfl
@[simp] theorem State.bumpK_held (s : State) (k : Nat) (c : Ctr) (n : Nat) : (s.bumpK k c n).held = s.held := by unfold State.bumpK; split <;> rfl
@[simp] theorem State.bumpK_turns (s : State) (k : Nat) (c : Ctr) (n : Nat) : (s.bumpK k c n).turns = s.turns := by unfold State.bumpK; split <;> rfl

/-! ### A group -/

@[simp] theorem Group.modSplit_uid (g : Group) (e : Nat) (f : Split → Split) : (g.modSplit e f).uid = g.uid := rfl
@[simp] theorem Group.modSplit_ctx (g : Group) (e : Nat) (f : Split → Split) : (g.modSplit e f).ctx = g.ctx := rfl
@[simp] theorem Group.modSplit_blk (g : Group) (e : Nat) (f : Split → Split) : (g.modSplit e f).blk = g.blk := rfl
@[simp] theorem Group.modSplit_idx (g : Group) (e : Nat) (f : Split → Split) : (g.modSplit e f).idx = g.idx := rfl
@[simp] theorem Group.modSplit_live (g : Group) (e : Nat) (f : Split → Split) : (g.modSplit e f).live = g.live := rfl
@[simp] theorem Group.modSplit_joins (g : Group) (e : Nat) (f : Split → Split) : (g.modSplit e f).joins = g.joins := rfl
@[simp] theorem Group.modSplit_lanes (g : Group) (e : Nat) (f : Split → Split) : (g.modSplit e f).lanes = g.lanes := rfl
@[simp] theorem Group.modSplit_uni (g : Group) (e : Nat) (f : Split → Split) : (g.modSplit e f).uni = g.uni := rfl
@[simp] theorem Group.modSplit_pend (g : Group) (e : Nat) (f : Split → Split) : (g.modSplit e f).pend = g.pend := rfl
@[simp] theorem Group.modSplit_holds (g : Group) (e : Nat) (f : Split → Split) : (g.modSplit e f).holds = g.holds := rfl
@[simp] theorem Group.modSplit_bars (g : Group) (e : Nat) (f : Split → Split) : (g.modSplit e f).bars = g.bars := rfl
@[simp] theorem Group.modSplit_trapping (g : Group) (e : Nat) (f : Split → Split) : (g.modSplit e f).trapping = g.trapping := rfl
@[simp] theorem Group.modSplit_handler (g : Group) (e : Nat) (f : Split → Split) : (g.modSplit e f).handler = g.handler := rfl
@[simp] theorem Group.modSplit_holder (g : Group) (e : Nat) (f : Split → Split) : (g.modSplit e f).holder = g.holder := rfl
@[simp] theorem Group.modSplit_fenced (g : Group) (e : Nat) (f : Split → Split) : (g.modSplit e f).fenced = g.fenced := rfl
@[simp] theorem Group.modSplit_units (g : Group) (e : Nat) (f : Split → Split) : (g.modSplit e f).units = g.units := rfl
@[simp] theorem Group.modSplit_ended (g : Group) (e : Nat) (f : Split → Split) : (g.modSplit e f).ended = g.ended := rfl
@[simp] theorem Group.advance_uid (g : Group) (e n : Nat) : (g.advance e n).uid = g.uid := rfl
@[simp] theorem Group.advance_ctx (g : Group) (e n : Nat) : (g.advance e n).ctx = g.ctx := rfl
@[simp] theorem Group.advance_blk (g : Group) (e n : Nat) : (g.advance e n).blk = g.blk := rfl
@[simp] theorem Group.advance_idx (g : Group) (e n : Nat) : (g.advance e n).idx = g.idx := rfl
@[simp] theorem Group.advance_live (g : Group) (e n : Nat) : (g.advance e n).live = g.live := rfl
@[simp] theorem Group.advance_joins (g : Group) (e n : Nat) : (g.advance e n).joins = g.joins := rfl
@[simp] theorem Group.advance_lanes (g : Group) (e n : Nat) : (g.advance e n).lanes = g.lanes := rfl
@[simp] theorem Group.advance_uni (g : Group) (e n : Nat) : (g.advance e n).uni = g.uni := rfl
@[simp] theorem Group.advance_pend (g : Group) (e n : Nat) : (g.advance e n).pend = g.pend := rfl
@[simp] theorem Group.advance_holds (g : Group) (e n : Nat) : (g.advance e n).holds = g.holds := rfl
@[simp] theorem Group.advance_bars (g : Group) (e n : Nat) : (g.advance e n).bars = g.bars := rfl
@[simp] theorem Group.advance_trapping (g : Group) (e n : Nat) : (g.advance e n).trapping = g.trapping := rfl
@[simp] theorem Group.advance_handler (g : Group) (e n : Nat) : (g.advance e n).handler = g.handler := rfl
@[simp] theorem Group.advance_holder (g : Group) (e n : Nat) : (g.advance e n).holder = g.holder := rfl
@[simp] theorem Group.advance_fenced (g : Group) (e n : Nat) : (g.advance e n).fenced = g.fenced := rfl
@[simp] theorem Group.advance_units (g : Group) (e n : Nat) : (g.advance e n).units = g.units := rfl
@[simp] theorem Group.advance_ended (g : Group) (e n : Nat) : (g.advance e n).ended = g.ended := rfl
@[simp] theorem Group.modLane_uid (g : Group) (l : Nat) (f : Lane → Lane) : (g.modLane l f).uid = g.uid := rfl
@[simp] theorem Group.modLane_ctx (g : Group) (l : Nat) (f : Lane → Lane) : (g.modLane l f).ctx = g.ctx := rfl
@[simp] theorem Group.modLane_blk (g : Group) (l : Nat) (f : Lane → Lane) : (g.modLane l f).blk = g.blk := rfl
@[simp] theorem Group.modLane_idx (g : Group) (l : Nat) (f : Lane → Lane) : (g.modLane l f).idx = g.idx := rfl
@[simp] theorem Group.modLane_live (g : Group) (l : Nat) (f : Lane → Lane) : (g.modLane l f).live = g.live := rfl
@[simp] theorem Group.modLane_splits (g : Group) (l : Nat) (f : Lane → Lane) : (g.modLane l f).splits = g.splits := rfl
@[simp] theorem Group.modLane_joins (g : Group) (l : Nat) (f : Lane → Lane) : (g.modLane l f).joins = g.joins := rfl
@[simp] theorem Group.modLane_uni (g : Group) (l : Nat) (f : Lane → Lane) : (g.modLane l f).uni = g.uni := rfl
@[simp] theorem Group.modLane_pend (g : Group) (l : Nat) (f : Lane → Lane) : (g.modLane l f).pend = g.pend := rfl
@[simp] theorem Group.modLane_holds (g : Group) (l : Nat) (f : Lane → Lane) : (g.modLane l f).holds = g.holds := rfl
@[simp] theorem Group.modLane_bars (g : Group) (l : Nat) (f : Lane → Lane) : (g.modLane l f).bars = g.bars := rfl
@[simp] theorem Group.modLane_trapping (g : Group) (l : Nat) (f : Lane → Lane) : (g.modLane l f).trapping = g.trapping := rfl
@[simp] theorem Group.modLane_handler (g : Group) (l : Nat) (f : Lane → Lane) : (g.modLane l f).handler = g.handler := rfl
@[simp] theorem Group.modLane_holder (g : Group) (l : Nat) (f : Lane → Lane) : (g.modLane l f).holder = g.holder := rfl
@[simp] theorem Group.modLane_fenced (g : Group) (l : Nat) (f : Lane → Lane) : (g.modLane l f).fenced = g.fenced := rfl
@[simp] theorem Group.modLane_units (g : Group) (l : Nat) (f : Lane → Lane) : (g.modLane l f).units = g.units := rfl
@[simp] theorem Group.modLane_ended (g : Group) (l : Nat) (f : Lane → Lane) : (g.modLane l f).ended = g.ended := rfl
@[simp] theorem Group.modUni_uid (g : Group) (f : Uniform → Uniform) : (g.modUni f).uid = g.uid := rfl
@[simp] theorem Group.modUni_ctx (g : Group) (f : Uniform → Uniform) : (g.modUni f).ctx = g.ctx := rfl
@[simp] theorem Group.modUni_blk (g : Group) (f : Uniform → Uniform) : (g.modUni f).blk = g.blk := rfl
@[simp] theorem Group.modUni_idx (g : Group) (f : Uniform → Uniform) : (g.modUni f).idx = g.idx := rfl
@[simp] theorem Group.modUni_live (g : Group) (f : Uniform → Uniform) : (g.modUni f).live = g.live := rfl
@[simp] theorem Group.modUni_splits (g : Group) (f : Uniform → Uniform) : (g.modUni f).splits = g.splits := rfl
@[simp] theorem Group.modUni_joins (g : Group) (f : Uniform → Uniform) : (g.modUni f).joins = g.joins := rfl
@[simp] theorem Group.modUni_lanes (g : Group) (f : Uniform → Uniform) : (g.modUni f).lanes = g.lanes := rfl
@[simp] theorem Group.modUni_pend (g : Group) (f : Uniform → Uniform) : (g.modUni f).pend = g.pend := rfl
@[simp] theorem Group.modUni_holds (g : Group) (f : Uniform → Uniform) : (g.modUni f).holds = g.holds := rfl
@[simp] theorem Group.modUni_bars (g : Group) (f : Uniform → Uniform) : (g.modUni f).bars = g.bars := rfl
@[simp] theorem Group.modUni_trapping (g : Group) (f : Uniform → Uniform) : (g.modUni f).trapping = g.trapping := rfl
@[simp] theorem Group.modUni_handler (g : Group) (f : Uniform → Uniform) : (g.modUni f).handler = g.handler := rfl
@[simp] theorem Group.modUni_holder (g : Group) (f : Uniform → Uniform) : (g.modUni f).holder = g.holder := rfl
@[simp] theorem Group.modUni_fenced (g : Group) (f : Uniform → Uniform) : (g.modUni f).fenced = g.fenced := rfl
@[simp] theorem Group.modUni_units (g : Group) (f : Uniform → Uniform) : (g.modUni f).units = g.units := rfl
@[simp] theorem Group.modUni_ended (g : Group) (f : Uniform → Uniform) : (g.modUni f).ended = g.ended := rfl
@[simp] theorem Group.setJoin_uid (g : Group) (n : Nat) (j : Join) : (g.setJoin n j).uid = g.uid := rfl
@[simp] theorem Group.setJoin_ctx (g : Group) (n : Nat) (j : Join) : (g.setJoin n j).ctx = g.ctx := rfl
@[simp] theorem Group.setJoin_blk (g : Group) (n : Nat) (j : Join) : (g.setJoin n j).blk = g.blk := rfl
@[simp] theorem Group.setJoin_idx (g : Group) (n : Nat) (j : Join) : (g.setJoin n j).idx = g.idx := rfl
@[simp] theorem Group.setJoin_live (g : Group) (n : Nat) (j : Join) : (g.setJoin n j).live = g.live := rfl
@[simp] theorem Group.setJoin_splits (g : Group) (n : Nat) (j : Join) : (g.setJoin n j).splits = g.splits := rfl
@[simp] theorem Group.setJoin_lanes (g : Group) (n : Nat) (j : Join) : (g.setJoin n j).lanes = g.lanes := rfl
@[simp] theorem Group.setJoin_uni (g : Group) (n : Nat) (j : Join) : (g.setJoin n j).uni = g.uni := rfl
@[simp] theorem Group.setJoin_pend (g : Group) (n : Nat) (j : Join) : (g.setJoin n j).pend = g.pend := rfl
@[simp] theorem Group.setJoin_holds (g : Group) (n : Nat) (j : Join) : (g.setJoin n j).holds = g.holds := rfl
@[simp] theorem Group.setJoin_bars (g : Group) (n : Nat) (j : Join) : (g.setJoin n j).bars = g.bars := rfl
@[simp] theorem Group.setJoin_trapping (g : Group) (n : Nat) (j : Join) : (g.setJoin n j).trapping = g.trapping := rfl
@[simp] theorem Group.setJoin_handler (g : Group) (n : Nat) (j : Join) : (g.setJoin n j).handler = g.handler := rfl
@[simp] theorem Group.setJoin_holder (g : Group) (n : Nat) (j : Join) : (g.setJoin n j).holder = g.holder := rfl
@[simp] theorem Group.setJoin_fenced (g : Group) (n : Nat) (j : Join) : (g.setJoin n j).fenced = g.fenced := rfl
@[simp] theorem Group.setJoin_units (g : Group) (n : Nat) (j : Join) : (g.setJoin n j).units = g.units := rfl
@[simp] theorem Group.setJoin_ended (g : Group) (n : Nat) (j : Join) : (g.setJoin n j).ended = g.ended := rfl
@[simp] theorem Group.ready_uid (g : Group) (e : Nat) : (g.ready e).uid = g.uid := rfl
@[simp] theorem Group.ready_ctx (g : Group) (e : Nat) : (g.ready e).ctx = g.ctx := rfl
@[simp] theorem Group.ready_blk (g : Group) (e : Nat) : (g.ready e).blk = g.blk := rfl
@[simp] theorem Group.ready_idx (g : Group) (e : Nat) : (g.ready e).idx = g.idx := rfl
@[simp] theorem Group.ready_live (g : Group) (e : Nat) : (g.ready e).live = g.live := rfl
@[simp] theorem Group.ready_joins (g : Group) (e : Nat) : (g.ready e).joins = g.joins := rfl
@[simp] theorem Group.ready_lanes (g : Group) (e : Nat) : (g.ready e).lanes = g.lanes := rfl
@[simp] theorem Group.ready_uni (g : Group) (e : Nat) : (g.ready e).uni = g.uni := rfl
@[simp] theorem Group.ready_pend (g : Group) (e : Nat) : (g.ready e).pend = g.pend := rfl
@[simp] theorem Group.ready_holds (g : Group) (e : Nat) : (g.ready e).holds = g.holds := rfl
@[simp] theorem Group.ready_bars (g : Group) (e : Nat) : (g.ready e).bars = g.bars := rfl
@[simp] theorem Group.ready_trapping (g : Group) (e : Nat) : (g.ready e).trapping = g.trapping := rfl
@[simp] theorem Group.ready_handler (g : Group) (e : Nat) : (g.ready e).handler = g.handler := rfl
@[simp] theorem Group.ready_holder (g : Group) (e : Nat) : (g.ready e).holder = g.holder := rfl
@[simp] theorem Group.ready_fenced (g : Group) (e : Nat) : (g.ready e).fenced = g.fenced := rfl
@[simp] theorem Group.ready_units (g : Group) (e : Nat) : (g.ready e).units = g.units := rfl
@[simp] theorem Group.ready_ended (g : Group) (e : Nat) : (g.ready e).ended = g.ended := rfl

/-! ### A lane and the uniform state -/

@[simp] theorem Lane.setV_wb (ln : Lane) (r : Nat) (w : Word) : (ln.setV r w).wb = ln.wb := rfl
@[simp] theorem Lane.setV_stk (ln : Lane) (r : Nat) (w : Word) : (ln.setV r w).stk = ln.stk := rfl
@[simp] theorem Lane.setV_preds (ln : Lane) (r : Nat) (w : Word) : (ln.setV r w).preds = ln.preds := rfl
@[simp] theorem Lane.setV_flags (ln : Lane) (r : Nat) (w : Word) : (ln.setV r w).flags = ln.flags := rfl
@[simp] theorem Lane.setV_wid (ln : Lane) (r : Nat) (w : Word) : (ln.setV r w).wid = ln.wid := rfl
@[simp] theorem Lane.setV_ray (ln : Lane) (r : Nat) (w : Word) : (ln.setV r w).ray = ln.ray := rfl
@[simp] theorem Lane.setV_shader (ln : Lane) (r : Nat) (w : Word) : (ln.setV r w).shader = ln.shader := rfl
@[simp] theorem Lane.setV_episode (ln : Lane) (r : Nat) (w : Word) : (ln.setV r w).episode = ln.episode := rfl
@[simp] theorem Lane.setPair_wb (ln : Lane) (r : Nat) (w : DWord) : (ln.setPair r w).wb = ln.wb := rfl
@[simp] theorem Lane.setPair_stk (ln : Lane) (r : Nat) (w : DWord) : (ln.setPair r w).stk = ln.stk := rfl
@[simp] theorem Lane.setPair_preds (ln : Lane) (r : Nat) (w : DWord) : (ln.setPair r w).preds = ln.preds := rfl
@[simp] theorem Lane.setPair_flags (ln : Lane) (r : Nat) (w : DWord) : (ln.setPair r w).flags = ln.flags := rfl
@[simp] theorem Lane.setPair_wid (ln : Lane) (r : Nat) (w : DWord) : (ln.setPair r w).wid = ln.wid := rfl
@[simp] theorem Lane.setPair_ray (ln : Lane) (r : Nat) (w : DWord) : (ln.setPair r w).ray = ln.ray := rfl
@[simp] theorem Lane.setPair_shader (ln : Lane) (r : Nat) (w : DWord) : (ln.setPair r w).shader = ln.shader := rfl
@[simp] theorem Lane.setPair_episode (ln : Lane) (r : Nat) (w : DWord) : (ln.setPair r w).episode = ln.episode := rfl
@[simp] theorem Lane.setP_wb (ln : Lane) (p : BitVec 3) (v : Bool) : (ln.setP p v).wb = ln.wb := by unfold Lane.setP; split <;> rfl
@[simp] theorem Lane.setP_stk (ln : Lane) (p : BitVec 3) (v : Bool) : (ln.setP p v).stk = ln.stk := by unfold Lane.setP; split <;> rfl
@[simp] theorem Lane.setP_regs (ln : Lane) (p : BitVec 3) (v : Bool) : (ln.setP p v).regs = ln.regs := by unfold Lane.setP; split <;> rfl
@[simp] theorem Lane.setP_flags (ln : Lane) (p : BitVec 3) (v : Bool) : (ln.setP p v).flags = ln.flags := by unfold Lane.setP; split <;> rfl
@[simp] theorem Lane.setP_wid (ln : Lane) (p : BitVec 3) (v : Bool) : (ln.setP p v).wid = ln.wid := by unfold Lane.setP; split <;> rfl
@[simp] theorem Lane.setP_ray (ln : Lane) (p : BitVec 3) (v : Bool) : (ln.setP p v).ray = ln.ray := by unfold Lane.setP; split <;> rfl
@[simp] theorem Lane.setP_shader (ln : Lane) (p : BitVec 3) (v : Bool) : (ln.setP p v).shader = ln.shader := by unfold Lane.setP; split <;> rfl
@[simp] theorem Lane.setP_episode (ln : Lane) (p : BitVec 3) (v : Bool) : (ln.setP p v).episode = ln.episode := by unfold Lane.setP; split <;> rfl
@[simp] theorem Lane.raise_wb (ln : Lane) (f : BitVec 6) : (ln.raise f).wb = ln.wb := rfl
@[simp] theorem Lane.raise_stk (ln : Lane) (f : BitVec 6) : (ln.raise f).stk = ln.stk := rfl
@[simp] theorem Lane.raise_regs (ln : Lane) (f : BitVec 6) : (ln.raise f).regs = ln.regs := rfl
@[simp] theorem Lane.raise_preds (ln : Lane) (f : BitVec 6) : (ln.raise f).preds = ln.preds := rfl
@[simp] theorem Lane.raise_wid (ln : Lane) (f : BitVec 6) : (ln.raise f).wid = ln.wid := rfl
@[simp] theorem Lane.raise_ray (ln : Lane) (f : BitVec 6) : (ln.raise f).ray = ln.ray := rfl
@[simp] theorem Lane.raise_shader (ln : Lane) (f : BitVec 6) : (ln.raise f).shader = ln.shader := rfl
@[simp] theorem Lane.raise_episode (ln : Lane) (f : BitVec 6) : (ln.raise f).episode = ln.episode := rfl
@[simp] theorem Uniform.setS_conds (u : Uniform) (r : Nat) (w : Word) : (u.setS r w).conds = u.conds := rfl
@[simp] theorem Uniform.setS_mode (u : Uniform) (r : Nat) (w : Word) : (u.setS r w).mode = u.mode := rfl
@[simp] theorem Uniform.setS_flags (u : Uniform) (r : Nat) (w : Word) : (u.setS r w).flags = u.flags := rfl
@[simp] theorem Uniform.setS_clkHi (u : Uniform) (r : Nat) (w : Word) : (u.setS r w).clkHi = u.clkHi := rfl
@[simp] theorem Uniform.setS_ptsHi (u : Uniform) (r : Nat) (w : Word) : (u.setS r w).ptsHi = u.ptsHi := rfl
@[simp] theorem Uniform.setS_maps (u : Uniform) (r : Nat) (w : Word) : (u.setS r w).maps = u.maps := rfl
@[simp] theorem Uniform.setPair_conds (u : Uniform) (r : Nat) (w : DWord) : (u.setPair r w).conds = u.conds := rfl
@[simp] theorem Uniform.setPair_mode (u : Uniform) (r : Nat) (w : DWord) : (u.setPair r w).mode = u.mode := rfl
@[simp] theorem Uniform.setPair_flags (u : Uniform) (r : Nat) (w : DWord) : (u.setPair r w).flags = u.flags := rfl
@[simp] theorem Uniform.setPair_clkHi (u : Uniform) (r : Nat) (w : DWord) : (u.setPair r w).clkHi = u.clkHi := rfl
@[simp] theorem Uniform.setPair_ptsHi (u : Uniform) (r : Nat) (w : DWord) : (u.setPair r w).ptsHi = u.ptsHi := rfl
@[simp] theorem Uniform.setPair_maps (u : Uniform) (r : Nat) (w : DWord) : (u.setPair r w).maps = u.maps := rfl
@[simp] theorem Uniform.setC_s (u : Uniform) (c : BitVec 3) (v : Bool) : (u.setC c v).s = u.s := by unfold Uniform.setC; split <;> rfl
@[simp] theorem Uniform.setC_mode (u : Uniform) (c : BitVec 3) (v : Bool) : (u.setC c v).mode = u.mode := by unfold Uniform.setC; split <;> rfl
@[simp] theorem Uniform.setC_flags (u : Uniform) (c : BitVec 3) (v : Bool) : (u.setC c v).flags = u.flags := by unfold Uniform.setC; split <;> rfl
@[simp] theorem Uniform.setC_clkHi (u : Uniform) (c : BitVec 3) (v : Bool) : (u.setC c v).clkHi = u.clkHi := by unfold Uniform.setC; split <;> rfl
@[simp] theorem Uniform.setC_ptsHi (u : Uniform) (c : BitVec 3) (v : Bool) : (u.setC c v).ptsHi = u.ptsHi := by unfold Uniform.setC; split <;> rfl
@[simp] theorem Uniform.setC_maps (u : Uniform) (c : BitVec 3) (v : Bool) : (u.setC c v).maps = u.maps := by unfold Uniform.setC; split <;> rfl

/-! ### What the changed part reads -/

@[simp] theorem State.core_modCore_same (s : State) (c : Nat) (f : Core → Core) : (s.modCore c f).core c = f (s.core c) := by
  simp [State.core, State.modCore]
theorem State.core_modCore_ne (s : State) {c k : Nat} (f : Core → Core) (h : k ≠ c) : (s.modCore c f).core k = s.core k := by
  simp [State.core, State.modCore, mgetD_mset, h]
@[simp] theorem State.cluster_modCluster_same (s : State) (c : Nat) (f : Cluster → Cluster) :
    (s.modCluster c f).cluster c = f (s.cluster c) := by simp [State.cluster, State.modCluster]
theorem State.cluster_modCluster_ne (s : State) {c k : Nat} (f : Cluster → Cluster) (h : k ≠ c) :
    (s.modCluster c f).cluster k = s.cluster k := by simp [State.cluster, State.modCluster, mgetD_mset, h]
@[simp] theorem State.ctx_modCtx_same (s : State) (c : Nat) (f : Ctx → Ctx) : (s.modCtx c f).ctx c = f (s.ctx c) := by
  simp [State.ctx, State.modCtx]
theorem State.ctx_modCtx_ne (s : State) {c k : Nat} (f : Ctx → Ctx) (h : k ≠ c) : (s.modCtx c f).ctx k = s.ctx k := by
  simp [State.ctx, State.modCtx, mgetD_mset, h]
/-- A change of one group is seen at its place alone. -/
theorem State.group_modGroup (s : State) (c k c' k' : Nat) (f : Group → Group) :
    (s.modGroup c k f).group c' k' = if c' = c ∧ k' = k then (s.group c k).map f else s.group c' k' := by
  by_cases h : c' = c
  · subst h; simp [State.group, State.modGroup, mget_mmod]
  · simp [State.group, State.modGroup, State.core_modCore_ne _ _ h, h]
/-- A change of one group leaves every core as it was but for its groups. -/
theorem State.core_modGroup (s : State) (c k : Nat) (f : Group → Group) (c' : Nat) :
    { (s.modGroup c k f).core c' with groups := [] } = { s.core c' with groups := [] } := by
  by_cases h : c' = c
  · subst h; simp [State.modGroup]
  · simp [State.modGroup, State.core_modCore_ne _ _ h]

/-- A register reads what was written to it, and every other register as before. -/
theorem Lane.v_setV (ln : Lane) (r k : Nat) (w : Word) : (ln.setV r w).v k = if k = r then w else ln.v k := by
  simp [Lane.v, Lane.setV, mgetD_mput]
theorem Lane.regs_setV (ln : Lane) (r k : Nat) (w : Word) :
    mgetD (ln.setV r w).regs k 0 = if k = ln.wb + r then w else mgetD ln.regs k 0 := by
  simp [Lane.setV, mgetD_mput]
theorem Uniform.sr_setS (u : Uniform) (r k : Nat) (w : Word) : (u.setS r w).sr k = if k = r then w else u.sr k := by
  simp [Uniform.sr, Uniform.setS, mgetD_mput]
@[simp] theorem Lane.p_seven (ln : Lane) : ln.p 7 = true := rfl
@[simp] theorem Uniform.c_seven (u : Uniform) : u.c 7 = true := rfl

end Sys2Proof.Machine
end

