-- ==== Sys2Proof/Laws/Operands.lean ====
section
/-! SUPPORT. What the shared shapes of lane and uniform instructions do: each lemma says the whole effect once. -/
namespace Sys2Proof.Machine

/-- The executing split stands in its group's table, and its group in its slot. -/
theorem State.running_iff (s : State) (x : Ex) : s.running = some x ↔
    s.run = some ⟨x.core, x.slot, x.entry⟩ ∧ s.group x.core x.slot = some x.gr ∧ mget x.gr.splits x.entry = some x.sp := by
  obtain ⟨c, k, e, g, sp⟩ := x
  unfold State.running
  constructor
  · intro h
    split at h
    · cases h
    · next hr =>
      split at h
      · cases h
      · next hg =>
        split at h
        · cases h
        · next hs => cases h; exact ⟨hr, hg, hs⟩
  · rintro ⟨hr, hg, hs⟩
    simp only at hr hg hs
    simp [hr, hg, hs]
/-- What an instruction does where a split executes it. -/
theorem onSplit_running {s : State} {x : Ex} (f : Ex → Out) (h : s.running = some x) : onSplit s f = f x := by
  unfold onSplit; rw [h]
/-- The executing group after an instruction that changes it by f and completes. -/
theorem State.group_done {s : State} {x : Ex} (n : Nat) (f : Group → Group) (h : s.running = some x) :
    (s.done x n f).group x.core x.slot = some ((f x.gr).advance x.entry n) := by
  rw [State.running_iff] at h
  simp [State.done, State.group_modGroup, h.2.1]
/-- Every other group is as it was. -/
theorem State.group_done_ne (s : State) (x : Ex) (n : Nat) (f : Group → Group) {c k : Nat} (h : ¬(c = x.core ∧ k = x.slot)) :
    (s.done x n f).group c k = s.group c k := by
  rw [State.done, State.group_modGroup, if_neg h]
/-- A completing instruction changes nothing of a core but its groups. -/
theorem State.core_done (s : State) (x : Ex) (n : Nat) (f : Group → Group) (c : Nat) :
    { (s.done x n f).core c with groups := [] } = { s.core c with groups := [] } := State.core_modGroup s x.core x.slot _ c

/-- One lane of a group after a change of one lane. -/
theorem Group.lane_modLane (g : Group) (l k : Nat) (f : Lane → Lane) :
    (g.modLane l f).lane k = if k = l then f (g.lane l) else g.lane k := by
  simp [Group.lane, Group.modLane, mgetD_mset]
theorem Group.lane_foldl (ls : List Nat) (f : Nat → Lane → Lane) (g : Group) (k : Nat) (h : ls.Nodup) :
    (ls.foldl (fun g l => g.modLane l (f l)) g).lane k = if k ∈ ls then f k (g.lane k) else g.lane k := by
  induction ls generalizing g with
  | nil => simp
  | cons a t ih =>
    simp only [List.nodup_cons] at h
    rw [List.foldl_cons, ih _ h.2, Group.lane_modLane]
    by_cases e : k = a
    · subst e; simp [h.1]
    · simp [e]
/-- A change of the lanes of a mask: those lanes, and no other, change, each by itself. -/
theorem Group.lane_modLanes (g : Group) (m : Mask) (f : Nat → Lane → Lane) (k : Nat) :
    (g.modLanes m f).lane k = if Mask.has m k then f k (g.lane k) else g.lane k := by
  have hm : k ∈ lanesOf m ↔ Mask.has m k = true := by
    simp only [lanesOf, List.mem_filter, List.mem_range, and_iff_right_iff_imp]
    intro h
    by_contra hk
    simp [Mask.has, BitVec.getLsbD_of_ge m k (by omega)] at h
  unfold Group.modLanes
  rw [Group.lane_foldl (lanesOf m) f g k (List.Nodup.filter _ List.nodup_range)]
  simp only [hm]
/-- It changes nothing else of the group. -/
theorem Group.rest_modLanes (g : Group) (m : Mask) (f : Nat → Lane → Lane) :
    { g.modLanes m f with lanes := [] } = { g with lanes := [] } := by
  unfold Group.modLanes
  generalize lanesOf m = ls
  induction ls generalizing g with
  | nil => rfl
  | cons a t ih => rw [List.foldl_cons, ih]; rfl
@[simp] theorem Group.splits_modLanes (g : Group) (m : Mask) (f : Nat → Lane → Lane) : (g.modLanes m f).splits = g.splits := by
  have h := congrArg Group.splits (Group.rest_modLanes g m f); exact h
@[simp] theorem Group.uni_modLanes (g : Group) (m : Mask) (f : Nat → Lane → Lane) : (g.modLanes m f).uni = g.uni := by
  have h := congrArg Group.uni (Group.rest_modLanes g m f); exact h

/-- The shapes, where a split executes. -/
theorem laneOp_running {s : State} {x : Ex} (n : Nat) (gd : Guard) (f : Lane → Lane) (h : s.running = some x) :
    laneOp s n gd f = .next (s.done x n fun g => g.modLanes (x.active gd) fun _ => f) := onSplit_running _ h
theorem laneOpU_running {s : State} {x : Ex} (n : Nat) (gd : Guard) (f : Uniform → Nat → Lane → Lane) (h : s.running = some x) :
    laneOpU s n gd f = .next (s.done x n fun g => g.modLanes (x.active gd) (f x.gr.uni)) := onSplit_running _ h
theorem uniOp_running {s : State} {x : Ex} (n : Nat) (f : Uniform → Uniform) (h : s.running = some x) :
    uniOp s n f = .next (s.done x n fun g => g.modUni f) := onSplit_running _ h

end Sys2Proof.Machine
end

