-- ==== Sys2Proof/Safety.lean ====
section
/-! DEFINITION. What counts as a safe run: every step answers a next state. -/
namespace Sys2Proof.Machine

/-- A step that neither stops with a fault nor is refused. -/
def Goes (s : State) : Prop := ∃ t, step s = .next t
/-- The state after n steps, as long as each answers a next state. -/
inductive Reaches : State → Nat → State → Prop where
  | here (s : State) : Reaches s 0 s
  | there {s t u : State} {n : Nat} : step s = .next t → Reaches t n u → Reaches s (n + 1) u
/-- Every state that a run reaches goes on. -/
def SafeRun (s : State) : Prop := ∀ n t, Reaches s n t → Goes t
/-- An assertion that every step keeps. -/
def Kept (p : State → Prop) : Prop := ∀ s t, p s → step s = .next t → p t

end Sys2Proof.Machine
end

