-- ==== Sys2Proof/Tests/Slice0.lean ====
section
/-! SUPPORT. The model's own tests: states that meet the hypotheses of the statements, ill-formed instructions that the checks
refuse, words written out from the encodings, and small runs of one instruction. Expected results are the manual's examples,
or worked out by hand from its rules. -/
namespace Sys2Proof.Tests
set_option Elab.async false
set_option maxRecDepth 100000
open Sys2Proof Sys2Proof.Machine Sys2Proof.Claims

/-! ### Small states -/

/-- A split of all eight lanes at PC 0, and a group of it. -/
def sp0 : Split := { mask := 0xFF, st := .ready, pc := 0 }
def g0 : Group := { uid := 1, ctx := 0, blk := 1, idx := 0, live := 0xFF, splits := [(0, sp0)] }
/-- A block of one group on core 0, with 256 words of register stack of which 200 may be spilled. -/
def b0 : Block := { core := 0, ctx := 0, launch := 0, kind := .launch 0, slots := [0], groups := 1, part := 0, stack := 256,
                    limit := 200, trapb := 0, paired := false, eclass := 0 }
/-- Core 0 with the group in slot 0, of a context that is ACTIVE. -/
def k0 (g : Group) : Core := { groups := [(0, g)], res := [(0, .active)] }
/-- The machine with that core and block, the split of entry 0 executing. -/
def st (g : Group) (k : Core → Core := id) (f : State → State := id) : State :=
  f { cores := [(0, k (k0 g))], blocks := [(1, b0)], ctxs := [(0, { regs := { en := true } })], nextId := 2, run := some ⟨0, 0, 0⟩ }
/-- The executing split of such a machine. -/
def ex (g : Group) : Ex := ⟨0, 0, 0, g, (mget g.splits 0).getD sp0⟩
/-- A group with its split, its uniform state or its lanes changed. -/
def withSplit (f : Split → Split) : Group := { g0 with splits := [(0, f sp0)] }
def withUni (f : Uniform → Uniform) : Group := { g0 with uni := f {} }
def withLanes (f : Nat → Lane) : Group := { g0 with lanes := (List.range 8).map fun l => (l, f l) }
/-- What holds of the lanes below 8 holds of every lane of a mask. -/
theorem lanes_of_mask {p : Nat → Prop} (m : Mask) (h : ∀ l, l < 8 → Mask.has m l = true → p l) : ∀ l, Mask.has m l = true → p l := by
  intro l hl
  refine h l ?_ hl
  by_contra hk
  simp [Mask.has, BitVec.getLsbD_of_ge m l (by omega)] at hl

/-! ### Witnesses: lanes, uniform instructions, splits, traps, the register stack -/

/-- A split executes: the hypothesis of every statement about lane and uniform instructions. -/
theorem witness_running : (st g0).running = some (ex g0) := by decide
theorem apart {x : Ex} (h : (Map.sorted x.gr.splits = true ∧ (∀ p ∈ x.gr.splits, p.1 < 8) ∧
    x.gr.splits.Pairwise fun a b => a.2.mask &&& b.2.mask = 0) ∧ ∀ p ∈ x.gr.splits, p.2.mask ≠ 0) : Apart x := h
theorem witness_apart : Apart (ex g0) := apart (by decide)
/-- BRX: targets that are good, one that is not a multiple of 4, one that is not canonical. -/
def gTargets (a b : Word) : Group := withLanes fun l => ({} : Lane).setPair 2 (if l = 3 then pairOf a b else pairOf 0x40 0)
theorem witness_BranchesDivideTheSplit :
    (st (gTargets 0x80 0)).running = some (ex (gTargets 0x80 0)) ∧ Apart (ex (gTargets 0x80 0)) ∧
    (∀ l, Mask.has ((ex (gTargets 0x80 0)).active ⟨7, false⟩) l = true →
      (((ex (gTargets 0x80 0)).gr.lane l).vPair 2).toNat % 4 = 0 ∧ canonical (((ex (gTargets 0x80 0)).gr.lane l).vPair 2) = true) ∧
    ((ex g0).gr.uni.c 7 != false) = true ∧ ((ex g0).gr.uni.c 1 != false) = false ∧
    ((ex g0).gr.uni.pair 4).toNat % 4 = 0 ∧ canonical ((ex g0).gr.uni.pair 4) = true :=
  ⟨by decide, apart (by decide), lanes_of_mask _ (by decide), by decide, by decide, by decide, by decide⟩
theorem lane_iff {m : Mask} {p : Nat → Prop} (h : ∀ l, l < 8 → (Mask.has m l = true ↔ p l)) (k : ∀ l, p l → l < 8) :
    ∀ l, Mask.has m l = true ↔ p l := by
  intro l
  constructor
  · exact lanes_of_mask m (fun l hl => (h l hl).1) l
  · intro hp; exact (h l (k l hp)).2 hp
theorem has_lt {m : Mask} {l : Nat} (h : Mask.has m l = true) : l < 8 := by
  by_contra hk
  simp [Mask.has, BitVec.getLsbD_of_ge m l (by omega)] at h
theorem witness_BadBranchTargetsTrap :
    (8 : Mask) ≠ 0 ∧
    (∀ l, Mask.has (8 : Mask) l = true ↔ Mask.has ((ex (gTargets 0x82 0)).active ⟨7, false⟩) l = true ∧
      (((ex (gTargets 0x82 0)).gr.lane l).vPair 2).toNat % 4 ≠ 0) ∧
    (∀ k, Mask.has ((ex (gTargets 0x80 0x20000)).active ⟨7, false⟩) k = true →
      (((ex (gTargets 0x80 0x20000)).gr.lane k).vPair 2).toNat % 4 = 0) ∧
    (∀ k, k < 3 → Mask.has (8 : Mask) k = false) ∧
    (∀ k, Mask.has (8 : Mask) k = true ↔ Mask.has ((ex (gTargets 0x80 0x20000)).active ⟨7, false⟩) k = true ∧
      canonical (((ex (gTargets 0x80 0x20000)).gr.lane k).vPair 2) = false) :=
  ⟨by decide, lane_iff (by decide) fun _ h => has_lt h.1, lanes_of_mask _ (by decide), by decide,
    lane_iff (by decide) fun _ h => has_lt h.1⟩
/-- JWAIT of lanes that are armed: some, and the last ones; JPUT with no active lane. -/
def gJoin (arv : Mask) : Group := { withSplit (fun sp => { sp with mask := 0x0F }) with joins := [(2, ⟨0xFF, arv, 0x40⟩)] }
theorem witness_JoinInstructions :
    (st (gJoin 0)).running = some (ex (gJoin 0)) ∧ (ex (gJoin 0)).sp.st = .ready ∧ Apart (ex (gJoin 0)) ∧
    (ex (gJoin 0)).active ⟨7, false⟩ &&& ((gJoin 0).joinAt 2).arm ≠ 0 ∧ (0 : Mask) ||| 0x0F ≠ ((gJoin 0).joinAt 2).arm ∧
    ((gJoin 0xF0).joinAt 2).arv ||| 0x0F = ((gJoin 0xF0).joinAt 2).arm ∧ (ex (gJoin 0)).active ⟨1, false⟩ = 0 ∧
    Mask.has ((ex (gJoin 0)).active ⟨7, false⟩) 0 = true := ⟨by decide, by decide, apart (by decide), by decide⟩
theorem witness_FlagAndModeInstructions :
    (∀ l, Mask.has (ex g0).gr.live l = true → ((ex g0).gr.lane l).flags &&& (ex g0).gr.uni.mode.extractLsb' 8 6 = 0) ∧
    (ex g0).gr.uni.flags &&& (ex g0).gr.uni.mode.extractLsb' 8 6 = 0 := ⟨lanes_of_mask _ (by decide), by decide⟩
/-- Memory in which context 0's root, at 0x2000000000, leads to leaves for page 0, at 0x2000010000, and page 1, at 0x2000020000: class
D, writable, executable. -/
def pageTable : Bytes :=
  let b := Bytes.write [] 0x2000000000 (leBytes 8 0x2000001001)
  let b := Bytes.write b 0x2000001000 (leBytes 8 0x2000002001)
  let b := Bytes.write b 0x2000002000 (leBytes 8 0x2000003001)
  let b := Bytes.write b 0x2000003000 (leBytes 8 0x2000010019)
  Bytes.write b 0x2000003008 (leBytes 8 0x2000020019)
/-- The machine with that table, a trap vector at 0x100 whose entry 0x11 is not 0, and the frames on page 1. -/
def stTrap (g : Group) : State := st g id fun s => { s with
  mem := { bytes := Bytes.write pageTable 0x2000010188 [1] }
  blocks := [(1, { b0 with trapb := 0x100 })]
  ctxs := [(0, { regs := { en := true, root := 0x2000000000, tfb := 0x10000 } })] }
def raised : Raised := ⟨0x11, 0, 0xFF, 0, 1, 5, 0⟩
def trapS0 : State := (stTrap g0).modGroup 0 0 fun _ => { g0 with trapping := some raised, holder := none }
def trapS1 : State := (trapS0.trapEntryWord 0 0x100 0x11).2
def trapGroup : Group := ({ g0 with trapping := some raised, holder := none } : Group).modSplit 0 fun sp => { sp with pc := 1 }
def trapWrite : Option (Nat × Nat) × State := trapS1.agentWrite 0 { priv := true } [0] 0x10000 (trapGroup.frame raised) 0
/-- The value of an answer that is one. -/
def okOf {ε α : Type} (d : α) : Except ε α → α | .ok a => a | .error _ => d
def isOk {ε α : Type} : Except ε α → Bool | .ok _ => true | .error _ => false
theorem eq_ok {ε α : Type} (d : α) (e : Except ε α) (h : isOk e = true) : e = .ok (okOf d e) := by cases e with | ok a => rfl | error x => cases h
theorem pair_eq {α β : Type} (p : α × β) (a : α) (h : p.1 = a) : p = (a, p.2) := by cases p; cases h; rfl
theorem witness_TakingATrap :
    (stTrap g0).group 0 0 = some g0 ∧ g0.trapping = none ∧ g0.quiet = true ∧ g0.handler = none ∧ raised.cause ≠ 8 ∧
    mget (stTrap g0).blocks 1 = some { b0 with trapb := 0x100 } ∧ trapS0.trapEntryWord 0 0x100 0x11 = (.ok (okOf 0 (trapS0.trapEntryWord 0 0x100 0x11).1), trapS1) ∧
    okOf 0 (trapS0.trapEntryWord 0 0x100 0x11).1 ≠ 0 ∧
    trapS1.frameAddr 0 0 0 = 0x10000 ∧ trapS1.pts 0 0 = 0 ∧ trapWrite = (none, trapWrite.2) ∧
    trapWrite.2.group 0 0 = trapS1.group 0 0 ∧ trapS1.group 0 0 = trapS0.group 0 0 :=
  ⟨by decide, by decide, by decide, by decide, by decide, by decide, pair_eq _ _ (eq_ok 0 _ (by decide +kernel)),
    by decide +kernel, by decide, by decide, pair_eq _ _ (by decide +kernel), by decide +kernel, by decide +kernel⟩
/-- A group with a result pending. -/
def gPend : Group := { g0 with pend := [⟨9, some 0, .v 4⟩] }
theorem witness_ATrapWaitsForPendingResults :
    (st gPend).group 0 0 = some gPend ∧ gPend.trapping = none ∧ raised.cause ≠ 8 ∧ gPend.quiet = false ∧ g0.quiet = true := by decide
/-- A group whose enabled flag IV is set in lane 2. -/
def gFlag : Group := { withLanes (fun l => if l = 2 then { flags := 0x20 } else {}) with uni := { mode := 0x3F00 } }
theorem witness_TrapInstructionsRaise :
    (∀ l, Mask.has (4 : Mask) l = true ↔ Mask.has gFlag.live l = true ∧ (gFlag.lane l).flags &&& gFlag.uni.mode.extractLsb' 8 6 ≠ 0) ∧
    ((4 : Mask) ≠ 0 ∨ gFlag.uni.flags &&& gFlag.uni.mode.extractLsb' 8 6 ≠ 0) := ⟨lane_iff (by decide) fun _ h => has_lt h.1, by decide⟩
/-- A group in a handler of one split, and one whose lane 0 has moved its window. -/
def frozen : Frozen := ⟨[(0, sp0)], [], [0, 0, 0, 0, 0, 0, 0, 0], 0xFF⟩
def gHandler : Group := { g0 with handler := some frozen }
def gMoved : Group := { withLanes (fun l => if l = 0 then { wb := 8 } else {}) with handler := some frozen }
def frameRead : Except (Nat × Nat) (List (Byte × Bool)) × State :=
  (stTrap gHandler).agentRead 0 { priv := true } [0] (partsOf 0x10000 320)
theorem witness_ReturnFromTrap :
    (st g0).running = some (ex g0) ∧ (ex g0).gr.handler = none ∧
    (stTrap gHandler).running = some (ex gHandler) ∧ gHandler.handler = some frozen ∧ gHandler.splits.length ≤ 1 ∧
    (∀ l, Mask.has gHandler.live l = true → (gHandler.lane l).wb = frozen.wbs.getD l 0) ∧ gHandler.pend = [] ∧
    (stTrap gHandler).storesOut 1 = false ∧ (stTrap gHandler).frameAddr 0 0 0 = 0x10000 ∧
    frameRead = (.ok (okOf [] frameRead.1), frameRead.2) ∧ frameRead.2.group 0 0 = some gHandler :=
  ⟨by decide, by decide, by decide, by decide, by decide, lanes_of_mask _ (by decide), by decide, by decide, by decide,
    pair_eq _ _ (eq_ok [] _ (by decide +kernel)), by decide +kernel⟩
theorem witness_BadReturnIsAContextFault :
    (st gMoved).running = some (ex gMoved) ∧ gMoved.handler = some frozen ∧
    (gMoved.splits.length > 1 ∨ ∃ l, Mask.has gMoved.live l = true ∧ (gMoved.lane l).wb ≠ frozen.wbs.getD l 0) :=
  ⟨by decide, by decide, .inr ⟨0, by decide, by decide⟩⟩
/-- Lanes at window base 8 whose v31 holds a return address with frame size 1. -/
def gCalled (v31 : Word) : Group := withLanes fun _ => ({ wb := 8 } : Lane).setV 31 v31
theorem witness_CallsAndReturnsMoveTheWindow :
    (st (gCalled 0x41)).running = some (ex (gCalled 0x41)) ∧ Apart (ex (gCalled 0x41)) ∧
    mget (st (gCalled 0x41)).blocks (gCalled 0x41).blk = some b0 ∧
    (ex (gCalled 0x41)).active ⟨7, false⟩ ≠ 0 ∧ (gCalled 0x41).pending ((ex (gCalled 0x41)).active ⟨7, false⟩) = false ∧
    (∀ l, Mask.has ((ex (gCalled 0x41)).active ⟨7, false⟩) l = true →
      ((gCalled 0x41).lane l).v 31 &&& 3 ≠ 0 ∧ 8 * (((gCalled 0x41).lane l).v 31 &&& 3).toNat ≤ ((gCalled 0x41).lane l).wb) ∧
    (∀ l, Mask.has ((ex g0).active ⟨7, false⟩) l = true →
      hiOf (Pc.addr ((ex g0).sp.pc + (16 : Pc))) = hiOf (Pc.addr (Pc.plus (ex g0).sp.pc 4)) ∧
      max (g0.lane l).stk ((g0.lane l).wb + 24 + 32 - b0.stack) ≤ b0.limit) :=
  ⟨by decide, apart (by decide), by decide, by decide, by decide, lanes_of_mask _ (by decide), lanes_of_mask _ (by decide)⟩
/-- A lane that a call makes spill one word, and one whose return fills one, in a context whose spill area is on page 1. -/
def gSpill : Group := { withLanes (fun _ => { wb := 201, stk := 0 }) with splits := [(0, { sp0 with mask := 1 })] }
def gFill : Group := { withLanes (fun _ => ({ wb := 8, stk := 1 } : Lane).setV 31 0x41) with splits := [(0, { sp0 with mask := 1 })] }
def stSpill (g : Group) : State := { stTrap g with blocks := [(1, b0)], ctxs := [(0, { regs := { en := true, root := 0x2000000000, srbase := 0x10000, srw := 200 } })] }
theorem witness_CallsSpillAndReturnsFill :
    (stSpill gSpill).running = some (ex gSpill) ∧ mget (stSpill gSpill).blocks gSpill.blk = some b0 ∧ gSpill.pending 1 = false ∧
    max (gSpill.lane 0).stk ((gSpill.lane 0).wb + 24 + 32 - b0.stack) = 1 ∧
    ((stSpill gSpill).pseWords 0 ((stSpill gSpill).spillArea 0 0 0) true
      ((lanesOf ((ex gSpill).active ⟨7, false⟩)).flatMap fun l => wordRange l (gSpill.lane l).stk 1)).1.1 = [] ∧
    (stSpill gFill).running = some (ex gFill) ∧ gFill.pending 1 = false ∧
    ((lanesOf ((ex gFill).active ⟨7, false⟩)).flatMap fun l => wordRange l ((gFill.lane l).wb - 8) (gFill.lane l).stk) = [(0, 0)] ∧
    ((stSpill gFill).pseWords 0 ((stSpill gFill).spillArea 0 0 0) false
      ((lanesOf ((ex gFill).active ⟨7, false⟩)).flatMap fun l => wordRange l ((gFill.lane l).wb - 8) (gFill.lane l).stk)).1.1 = [] := by
  refine ⟨by decide, by decide, by decide, by decide, by decide +kernel, by decide, by decide, by decide, by decide +kernel⟩
/-- One lane at a window base from which a call must spill above the limit; lanes whose v31 names frame sizes 0 and 3. -/
def gDeep : Group := withLanes fun l => { wb := if l = 1 then 440 else 0 }
def gOne (v31 : Word) : Group := { withLanes (fun _ => ({ wb := 8 } : Lane).setV 31 v31) with splits := [(0, { sp0 with mask := 2 })] }
theorem witness_StackFaults :
    gDeep.pending ((ex gDeep).active ⟨7, false⟩) = false ∧ (2 : Mask) ≠ 0 ∧
    (∀ l, Mask.has (2 : Mask) l = true ↔ Mask.has ((ex gDeep).active ⟨7, false⟩) l = true ∧
      b0.limit < max (gDeep.lane l).stk ((gDeep.lane l).wb + 24 + 32 - b0.stack)) ∧
    (∀ k, Mask.has ((ex (gOne 0x40)).active ⟨7, false⟩) k = true ↔ k = 1) ∧ ((gOne 0x40).lane 1).v 31 &&& 3 = 0 ∧
    ((gOne 0x43).lane 1).v 31 &&& 3 ≠ 0 ∧ ((gOne 0x43).lane 1).wb < 8 * (((gOne 0x43).lane 1).v 31 &&& 3).toNat :=
  ⟨by decide, by decide, lane_iff (by decide) fun _ h => has_lt h.1, lane_iff (by decide) (by omega), by decide, by decide, by decide⟩
def exEpisode : State := { st (withSplit fun sp => { sp with mask := 3 }) with blocks := [(1, { b0 with kind := .episode 1 })] }
theorem witness_ExitYieldAndNap :
    (mget exEpisode.blocks 1 = some { b0 with kind := .episode 1 } ∧ exEpisode.running = some (ex (withSplit fun sp => { sp with mask := 3 }))) ∧
    (ex g0).sp.st = .ready ∧ Map.sorted g0.splits = true ∧
    (ex (withSplit fun sp => { sp with mask := 3 })).active ⟨7, false⟩ ≠ 0 ∧
    (ex (withSplit fun sp => { sp with mask := 3 })).active ⟨7, false⟩ ≠ g0.live ∧ (∀ n, b0.kind ≠ .episode n) ∧
    (ex g0).active ⟨7, false⟩ = g0.live ∧ g0.live ≠ 0 ∧ g0.pending g0.live = false ∧ (∃ n, b0.kind = .launch n) ∧
    g0.pending ((ex (withSplit fun sp => { sp with mask := 3 })).active ⟨7, false⟩) = false ∧ ({ b0 with groups := 2 } : Block).ended.length + 1 < ({ b0 with groups := 2 } : Block).groups ∧ g0.holds = [] ∧
    Mask.has ((ex g0).active ⟨7, false⟩) 0 = true ∧ (VSrc.val (.lit 5) (g0.lane 0)).toNat % 65536 ≠ 0 :=
  ⟨⟨by decide, by decide⟩, by decide, by decide, by decide, by decide, by simp [b0], by decide, by decide, by decide, ⟨0, rfl⟩, by decide, by decide,
    by decide, by decide, by decide⟩
def exNap (u now : Nat) : State := { st (withSplit fun sp => { sp with st := .nap u, yield := some (u, [(3, 0)]) }) with now := now }
theorem witness_NapsAndYieldsEnd :
    (exNap 7 7).exAt 0 0 0 = some (ex (withSplit fun sp => { sp with st := .nap 7, yield := some (7, [(3, 0)]) })) ∧
    (exNap 7 6).exAt 0 0 0 = some (ex (withSplit fun sp => { sp with st := .nap 7, yield := some (7, [(3, 0)]) })) ∧
    7 ≤ (exNap 7 7).now ∧ (exNap 7 6).now < 7 := by decide
def gTwo : Group := { g0 with splits := [(0, { sp0 with mask := 0x0F }), (3, { sp0 with mask := 0xF0 })] }
theorem witness_OpportunisticMergeJoinsTwoSplits :
    (st gTwo).group 0 0 = some gTwo ∧ mget gTwo.splits 0 = some { sp0 with mask := 0x0F } ∧
    mget gTwo.splits 3 = some { sp0 with mask := 0xF0 } ∧ (0 : Nat) < 3 ∧ gTwo.joins = [] ∧ sp0.half = 0 ∧ sp0.latch = none ∧
    gTwo.pending ((0x0F : Mask) ||| 0xF0) = false ∧ gTwo.trapping = none ∧ gTwo.holder ≠ some 0 ∧ gTwo.holder ≠ some 3 := by decide

/-! ### Witnesses: global memory -/

/-- Pages 0 and 1 in the TLB of the core: page 0 of class D, page 1 of class L. -/
def pteD : DWord := 0x2000010019
def pteL : DWord := 0x200002001B
def withTlb (k : Core) : Core := { k with tlb := [⟨0, 0, pteD⟩, ⟨0, 1, pteL⟩] }
/-- Lanes whose pair v4:v5 is 64 l, or a given address in lane 0. -/
def gAddr (a : DWord) : Group := withLanes fun l => ({} : Lane).setPair 4 (if l = 0 then a else BitVec.ofNat 64 (64 * l))
theorem lands {s : State} {x : Ex} {a : Access} {cl : List Nat} {z : Nat} {va e : DWord}
    (h : canonical va = true ∧ va.toNat % z = 0 ∧ ((s.core x.core).tlb.find? fun t => t.serves x.gr.ctx va.toNat).map TlbEntry.pte = some e ∧
      s.pteCause e va.toNat a = none ∧ pteClass e ∈ cl) : Lands s x a cl z va e := ⟨h.1, h.2.1, h.2.2.1, h.2.2.2.1, h.2.2.2.2⟩
theorem freshIds_of_none {s : State} (h : s.fly.reqs = []) : FreshIds s := by intro p hp; simp [h] at hp
def stLd : State := st (gAddr 0) withTlb
theorem witness_LoadsAndStores :
    stLd.running = some (ex (gAddr 0)) ∧ (2 : BitVec 3).toNat ≤ 4 ∧ (ex (gAddr 0)).active ⟨7, false⟩ ≠ 0 ∧ FreshIds stLd ∧
    stLd.acqBusy (ex (gAddr 0)) = false ∧
    (let us := lineUses ((lanesOf ((ex (gAddr 0)).active ⟨7, false⟩)).map fun l =>
        ⟨l, (laneAddr ((gAddr 0).lane l) 4 (offWord none)).toNat, pteD, ptePa pteD (laneAddr ((gAddr 0).lane l) 4 (offWord none)).toNat⟩)
     stLd.missCount 0 + stLd.loadMisses (ex (gAddr 0)) false us ≤ 256 ∧ stLd.storeCount 0 + stLd.storesSent (ex (gAddr 0)) 8 4 us ≤ 64) ∧
    (∀ l, Mask.has ((ex (gAddr 0)).active ⟨7, false⟩) l = true →
      Lands stLd (ex (gAddr 0)) {} [0, 1, 2, 3] 4 (laneAddr ((gAddr 0).lane l) 4 (offWord none)) pteD) ∧
    (∀ l, Mask.has ((ex (gAddr 0)).active ⟨7, false⟩) l = true →
      Lands stLd (ex (gAddr 0)) { write := true } [0, 1, 2, 3] 4 (laneAddr ((gAddr 0).lane l) 4 (offWord none)) pteD) ∧
    (∀ l, Mask.has ((ex (gAddr 0)).active ⟨7, false⟩) l = true →
      stLd.lineBusy (ex (gAddr 0)) (lineAddr (ptePa pteD (laneAddr ((gAddr 0).lane l) 4 (offWord none)).toNat)) = false) :=
  ⟨by decide, by decide, by decide, freshIds_of_none rfl, by decide, by decide,
    lanes_of_mask _ fun l h _ => lands (by revert l; decide), lanes_of_mask _ fun l h _ => lands (by revert l; decide),
    lanes_of_mask _ (by decide)⟩
/-- Lane l of those may be loaded. -/
def okLd (a : DWord) (l : Nat) : Bool :=
  let s := st (gAddr a) withTlb
  let va := laneAddr ((gAddr a).lane l) 4 (offWord none)
  canonical va = true ∧ va.toNat % 4 = 0 ∧ ((s.core (ex (gAddr a)).core).tlb.find? fun t => t.serves (ex (gAddr a)).gr.ctx va.toNat).map TlbEntry.pte = some pteD ∧
    s.pteCause pteD va.toNat {} = none ∧ pteClass pteD ∈ [0, 1, 2, 3]
/-- Lane 0 at an address that is not a multiple of 4, and at one that is not canonical. -/
theorem witness_BadAddressesTrap : ∀ a ∈ [(0x41 : DWord), 0x0002000000000000],
    (st (gAddr a) withTlb).running = some (ex (gAddr a)) ∧ Mask.has (1 : Mask) 0 = true ∧
    (∀ k, k < 0 → Mask.has ((ex (gAddr a)).active ⟨7, false⟩) k = false) ∧ Mask.has ((ex (gAddr a)).active ⟨7, false⟩) 0 = true ∧
    (∀ k, Mask.has ((ex (gAddr a)).active ⟨7, false⟩) k = true →
      (canonical (laneAddr ((gAddr a).lane k) 4 (offWord none)) = true → (laneAddr ((gAddr a).lane k) 4 (offWord none)).toNat % 4 = 0 →
        ∃ e, Lands (st (gAddr a) withTlb) (ex (gAddr a)) {} [0, 1, 2, 3] 4 (laneAddr ((gAddr a).lane k) 4 (offWord none)) e)) ∧
    (a = 0x41 → ∀ k, Mask.has (1 : Mask) k = true ↔ Mask.has ((ex (gAddr a)).active ⟨7, false⟩) k = true ∧
      canonical (laneAddr ((gAddr a).lane k) 4 (offWord none)) = true ∧ (laneAddr ((gAddr a).lane k) 4 (offWord none)).toNat % 4 ≠ 0) ∧
    (a ≠ 0x41 → ∀ k, Mask.has (1 : Mask) k = true ↔ Mask.has ((ex (gAddr a)).active ⟨7, false⟩) k = true ∧
      canonical (laneAddr ((gAddr a).lane k) 4 (offWord none)) = false) := by
  intro a ha
  have h : a = 0x41 ∨ a = 0x0002000000000000 := by simpa using ha
  rcases h with rfl | rfl
  · refine ⟨by decide, by decide, by decide, by decide, lanes_of_mask _ fun l h _ h1 h2 => ⟨pteD, lands ?_⟩, fun _ => ?_, fun h => absurd rfl h⟩
    · rcases (by decide : ∀ l, l < 8 → l = 0 ∨ okLd 0x41 l = true) l h with rfl | e
      · exact absurd h2 (by decide)
      · simpa only [okLd, decide_eq_true_eq] using e
    · exact lane_iff (by decide) fun _ h => has_lt h.1
  · refine ⟨by decide, by decide, by decide, by decide, lanes_of_mask _ fun l h _ h1 h2 => ⟨pteD, lands ?_⟩, fun h => absurd h (by decide), fun _ => ?_⟩
    · rcases (by decide : ∀ l, l < 8 → l = 0 ∨ okLd 0x0002000000000000 l = true) l h with rfl | e
      · exact absurd h1 (by decide)
      · simpa only [okLd, decide_eq_true_eq] using e
    · exact lane_iff (by decide) fun _ h => has_lt h.1
theorem witness_PrefetchAndCacheLineOperations :
    (∀ l, Mask.has ((ex (gAddr 0)).active ⟨7, false⟩) l = true → canonical (laneAddr ((gAddr 0).lane l) 4 (offWord none)) = false ∨
      ((stLd.core 0).tlb.find? fun t => t.serves 0 (laneAddr ((gAddr 0).lane l) 4 (offWord none)).toNat).isSome = true) ∧
    (∀ k ∈ [(0 : BitVec 2), 1, 2], k ≠ 3 ∧ ∀ l, Mask.has ((ex (gAddr 0)).active ⟨7, false⟩) l = true →
      Lands stLd (ex (gAddr 0)) { write := k.toNat == 1 } (if k.toNat = 2 then [0, 1] else [0, 1, 2, 3]) 1
        (laneAddr ((gAddr 0).lane l) 4 (offWord none)) pteD ∧
      ∀ ln, mget (stLd.core 0).l1 (lineAddr (ptePa pteD (laneAddr ((gAddr 0).lane l) 4 (offWord none)).toNat)) = some ln → ln.st ≠ .modified) ∧
    stLd.clineBusy (ex (gAddr 0)) = false ∧ (ex (gAddr 0)).sp.half ≠ 1 ∧ (ex (withSplit fun sp => { sp with half := 1 })).sp.half = 1 := by
  refine ⟨lanes_of_mask _ (by decide), fun k hk => ⟨by revert k; decide, lanes_of_mask _ fun l h _ => ⟨lands ?_, ?_⟩⟩, by decide⟩
  · revert k l; decide
  · intro ln hl; simp [stLd, st, withTlb, k0, State.core, mgetD, mget] at hl
/-- Requests in flight: the reads and stores of a line at their slices, with nothing to probe, and their answers. -/
def owner0 : Owner := { core := 0, slot := 0, uid := 1, entry := 0, ctx := 0, blk := 1, iid := 1 }
def req (op : ReqOp) (cls : Nat) (ph : Phase) : Req :=
  { who := owner0, op := op, pa := 0x2000010000, cls := cls, lease := 32, pts := 5, phase := ph, lanes := [⟨2, 4, 0, 0⟩], mask := 0xF0 }
def stReq (r : Req) : State := st { g0 with pend := [⟨1, some 2, .v 8⟩] } withTlb fun s => { s with fly := { s.fly with reqs := [(1, r)] } }
/-- The same with the line listed at its slice, held by core 3. -/
def stHeld (r : Req) : State := { stReq r with mem := { (stReq r).mem with lines := [(0x2000010000, { holders := [3] })] } }
def ldOp (ex : Bool) : ReqOp := .ld 4 8 false false false ex
theorem witness_SlicesServe :
    (∀ ph ∈ [Phase.out, .pending], ∀ p ∈ [(ldOp false, 0), (ldOp false, 1), (.prefLlc, 0), (.st false false, 1), (.st true false, 0),
        (.st false false, 0), (.swb 0 0x100, 0)],
      let r := req p.1 p.2 ph
      mget (stReq r).fly.reqs 1 = some r ∧ r.phase = ph ∧ (stReq r).sliceBusy 1 r = false ∧ (stReq r).needed r = [] ∧
      (stReq r).lostLink r.pa = false ∧ r.pa % 64 = 0 ∧ r.cls ≤ 1 ∧ (stReq r).timesFull = false ∧ mget (stReq r).mem.lines r.pa = none) ∧
    (∀ p ∈ [(ldOp false, 0), (ldOp true, 0), (.prefLlc, 0), (.st false false, 1), (.st false false, 0)],
      let r := req p.1 p.2 .out
      mget (stHeld r).fly.reqs 1 = some r ∧ (stHeld r).sliceBusy 1 r = false ∧ (stHeld r).timesFull = false ∧
      (mget (stHeld r).mem.lines r.pa).isSome = true ∧ (p.1 = ldOp true → (stHeld r).needed r ≠ [])) ∧
    (∀ c, let r := req (.wb c) 0 .out; ((stReq r).fly.reqs.find? fun q => q.2.lineWb r.pa) = some (1, r)) := by decide
theorem witness_SliceRoom : SliceRoom (stReq (req (ldOp false) 0 .pending)) 0x2000010000 ∧
    SliceRoom (stHeld (req (ldOp false) 0 .out)) 0x2000010000 := ⟨.inr (by decide), .inl (by decide)⟩
theorem witness_Replies :
    (∀ p ∈ [(ldOp false, 0), (.ld 4 8 false true false false, 0), (ldOp false, 1), (.pref, 0), (.prefEx, 0), (.st false false, 0), (.st false false, 1), (.wb false, 0)],
      let r := req p.1 p.2 .back
      mget (stReq r).fly.reqs 1 = some r ∧ 1 < (stReq r).nextId ∧ r.phase = .back ∧ r.stale = false ∧ (stReq r).fly.scrProbes = [] ∧
      (stReq r).lostLink r.pa = false ∧ (stReq r).sharers r.pa (wordsTouched r.mask) = []) := by decide
def l1Line (st : L1St) : L1Line := { st := st, data := 7, poison := 0 }
def stProbe (s : L1St) (w : Bool) : State := st g0 (fun k => { k with l1 := [(0x2000010000, l1Line s)] }) fun t =>
  { t with fly := { t.fly with probes := [(1, ⟨0, 0x2000010000, w, 9, false⟩)] } }
theorem witness_Probes : ∀ s ∈ [L1St.shared, .modified], ∀ w,
    mget (stProbe s w).fly.probes 1 = some ⟨0, 0x2000010000, w, 9, false⟩ ∧ (stProbe s w).fillOut 0 0x2000010000 = false ∧
    mget ((stProbe s w).core 0).l1 0x2000010000 = some (l1Line s) ∧ (l1Line s).st ≠ .lease := by decide
/-- A walk of page 0, and one of page 2, which has no leaf. -/
def stWalk (page : Nat) : State := { stTrap g0 with fly := { (stTrap g0).fly with walks := [(1, ⟨0, 0, page, [0], [⟨1, 0⟩], true⟩)] } }
def stWalk0 (page : Nat) : State := ({ stWalk page with fly := { (stWalk page).fly with walks := mdel (stWalk page).fly.walks 1 } } : State).nextWalks 0
def walked (page : Nat) : Walked × State := (stWalk0 page).walkFast 0 0 (page * 2 ^ 16)
theorem witness_WalksFillTheTlbs :
    mget (stWalk 0).fly.walks 1 = some ⟨0, 0, 0, [0], [⟨1, 0⟩], true⟩ ∧ walked 0 = (.leaf pteD, (walked 0).2) ∧
    mget (stWalk 2).fly.walks 1 = some ⟨0, 0, 2, [0], [⟨1, 0⟩], true⟩ ∧ walked 2 = (.none_ false none, (walked 2).2) :=
  ⟨by decide, pair_eq _ _ (by decide +kernel), by decide, pair_eq _ _ (by decide +kernel)⟩

/-! ### Witnesses: synchronisation -/

theorem idle {s : State} {x : Ex} (h : s.fly = {} ∧ (s.core x.core).rows.xfers = [] ∧ (s.core x.core).mx.queue = [] ∧
    (s.core x.core).scratch.words = [] ∧ (s.core x.core).scratch.halo = [] ∧ x.sp.half = 0 ∧
    ∀ p ∈ x.gr.splits, p.2 = x.sp ∨ p.2.going = false) : Idle s x := by
  obtain ⟨h1, h2, h3, h4, h5, h6, h7⟩ := h
  exact ⟨by simp [h1], by simp [h1], by simp [h1], by simp [h1], by simp [h2], by simp [h3], h4, by simp [h5], h6, h7⟩
theorem atHome {s : State} {pa : Nat} (h : s.ownerOf pa = none ∧ s.fly.reqs = [] ∧ s.lostLink pa = false ∧ s.mem.wf = true) : AtHome s pa :=
  ⟨h.1, by simp [h.2.1], h.2.2.1, h.2.2.2⟩
theorem recordOk {s : State} {c pa m n t : Nat} (h : lineNum s c pa 0 8 / 2 ^ 58 % 4 = m ∧ lineNum s c pa 0 8 / 2 ^ 48 % 2 ^ 10 = n ∧
    lineNum s c pa 8 6 = t ∧ m ≠ 3 ∧ lineNum s c pa 0 8 / 2 ^ 60 = 0 ∧ lineNum s c pa 4 2 = 0 ∧ lineNum s c pa 14 2 = 0 ∧
    ∀ i, i < 64 → i < 24 ∨ Bytes.at_ s.mem.bytes (memKey c pa + i) = 0) : RecordOk s c pa m n t :=
  ⟨h.1, h.2.1, h.2.2.1, h.2.2.2.1, h.2.2.2.2.1, h.2.2.2.2.2.1, h.2.2.2.2.2.2.1, fun i a b => by
    rcases h.2.2.2.2.2.2.2 i b with c | c
    · omega
    · exact c⟩
/-- The pair s4:s5 is 0x80, where an object stands; the group holds it or not. -/
def gObj (held : Bool) : Group := { withUni (fun u => (u.setPair 4 0x80).setPair 8 0x80) with holds := if held then [0x80] else [] }
/-- The object's record: MODE m, n shared holders, RPTS 9; or any bytes. -/
def stObj (held : Bool) (m n : Nat) : State :=
  st (gObj held) withTlb fun s => { s with mem := { bytes := Bytes.write (Bytes.write [] 0x2000010080 (leBytes 8 (2 ^ 58 * m + 2 ^ 48 * n))) 0x2000010088 [9] } }
theorem witness_Acquires : ∀ p ∈ [(false, 0, 0), (false, 2, 1022), (false, 2, 3), (true, 1, 0)],
    let s := stObj p.1 p.2.1 p.2.2
    let x := ex (gObj p.1)
    s.running = some x ∧ Idle s x ∧ ObjAt s x (x.gr.uni.pair 4) 0x2000010080 ∧ AtHome s 0x2000010080 ∧
    x.gr.ctx < 64 ∧ x.core < 256 ∧ x.slot < 512 ∧ s.dev.pkg < 2 ∧ RecordOk s 0 0x2000010080 p.2.1 p.2.2 9 ∧
    ((x.gr.uni.pair 4).toNat ∈ x.gr.holds ↔ p.1 = true) ∧ x.gr.holds.length < 8 ∧ s.fly.syncs = [] ∧ s.pts x.core 0 < 2 ^ 48 := by
  intro p hp
  have h : p = (false, 0, 0) ∨ p = (false, 2, 1022) ∨ p = (false, 2, 3) ∨ p = (true, 1, 0) := by simpa using hp
  rcases h with rfl | rfl | rfl | rfl <;>
    exact ⟨by decide +kernel, idle (by decide), ⟨pteD, lands (by decide), by decide⟩, atHome (by decide +kernel), by decide, by decide, by decide,
      by decide, recordOk (by decide +kernel), by decide, by decide, rfl, by decide⟩
/-- A held object of every mode may be released. -/
theorem witness_Releases : ∀ p ∈ [(0, 0), (1, 0), (2, 1), (2, 2)],
    let s := stObj true p.1 p.2
    Idle s (ex (gObj true)) ∧ ObjAt s (ex (gObj true)) ((gObj true).uni.pair 4) 0x2000010080 ∧ AtHome s 0x2000010080 ∧
    RecordOk s 0 0x2000010080 p.1 p.2 9 ∧ (9 : Nat) < 2 ^ 48 := by
  intro p hp
  have h : p = (0, 0) ∨ p = (1, 0) ∨ p = (2, 1) ∨ p = (2, 2) := by simpa using hp
  rcases h with rfl | rfl | rfl | rfl <;>
    exact ⟨idle (by decide), ⟨pteD, lands (by decide), by decide⟩, atHome (by decide +kernel), recordOk (by decide +kernel), by decide⟩
/-- An acquire of a kind that waits. -/
def syncWait (kind : Nat) (broken : Bool) : SyncWait := ⟨owner0, 0x2000010080, 0x80, kind, true, 8, [], broken⟩
def gSync : Group := { withSplit (fun sp => { sp with st := .wait (.sync 1) }) with holder := some 0 }
def stSync (kind : Nat) (broken : Bool) (m n : Nat) : State :=
  { stObj false m n with cores := (st gSync withTlb).cores, fly := { syncs := [(1, syncWait kind broken)] } }
theorem witness_WaitingAcquiresAreGranted : ∀ p ∈ [(0, false, 0, 0), (1, false, 2, 1022), (2, false, 2, 5), (0, true, 1, 0), (0, false, 2, 1)],
    let s := stSync p.1 p.2.1 p.2.2.1 p.2.2.2
    mget s.fly.syncs 1 = some (syncWait p.1 p.2.1) ∧ s.exAt 0 0 0 = some (ex gSync) ∧ gSync.uid = owner0.uid ∧
    AtHome s 0x2000010080 ∧ (s.core 0).scratch.words = [] ∧ RecordOk s 0 0x2000010080 p.2.2.1 p.2.2.2 9 ∧
    (∀ v ∈ s.fly.syncs, v.1 < 1 → v.2.obj ≠ 0x2000010080) := by
  intro p hp
  have h : p = (0, false, 0, 0) ∨ p = (1, false, 2, 1022) ∨ p = (2, false, 2, 5) ∨ p = (0, true, 1, 0) ∨ p = (0, false, 2, 1) := by
    simpa using hp
  rcases h with rfl | rfl | rfl | rfl | rfl <;>
    exact ⟨rfl, by decide, rfl, ⟨by decide +kernel, by decide, by decide +kernel, by decide +kernel⟩, by decide, recordOk (by decide +kernel), by decide⟩
/-- SBIND of a free range, of one that overlaps an entry and of one that is not aligned; SUNBIND of a base. -/
def gBind (base : DWord) (len : Word) : Group := withUni fun u => ((u.setPair 4 0x80).setPair 6 base).setS 8 len
def stBind (base : DWord) (len : Word) : State :=
  st (gBind base len) withTlb fun s => { s with ctxs := [(0, { regs := { en := true }, binds := [(0, ⟨0x1000, 0x40, 0⟩)] })] }
theorem witness_BindingTableInstructions :
    (stBind 0x1040 0x40).running = some (ex (gBind 0x1040 0x40)) ∧
    ObjAt (stBind 0x1040 0x40) (ex (gBind 0x1040 0x40)) ((gBind 0x1040 0x40).uni.pair 4) 0x2000010080 ∧ AtHome (stBind 0x1040 0x40) 0x2000010080 ∧
    ((gBind 0x1040 0x40).uni.pair 6).toNat = 0x1040 ∧ ((gBind 0x1040 0x40).uni.sr 8).toNat = 0x40 ∧
    mget ((stBind 0x1040 0x40).ctx 0).binds 1 = none ∧ (∀ k, k < 1 → mget ((stBind 0x1040 0x40).ctx 0).binds k ≠ none) ∧
    (∀ p ∈ ((stBind 0x1040 0x40).ctx 0).binds, ¬(p.2.base < 0x1040 + 0x40 ∧ 0x1040 < p.2.base + p.2.len)) ∧
    (∃ p ∈ ((stBind 0xFC0 0x80).ctx 0).binds, p.2.base < 0xFC0 + 0x80 ∧ 0xFC0 < p.2.base + p.2.len) ∧
    mget ((stBind 0x1040 0x40).ctx 0).binds 0 = some ⟨0x1000, 0x40, 0⟩ ∧
    (∀ q ∈ ((stBind 0x1040 0x40).ctx 0).binds, q.2.base = 0x1000 → q.1 = 0) :=
  ⟨by decide +kernel, ⟨pteD, lands (by decide), by decide⟩, atHome (by decide +kernel), by decide, by decide, by decide, by decide, by decide, by decide,
    by decide, by decide⟩
theorem witness_FencesComplete : stLd.running = some (ex (gAddr 0)) ∧ Idle stLd (ex (gAddr 0)) := ⟨by decide, idle (by decide)⟩
/-- A semaphore at 0x80 with tags 7 and 8 and generation 3, and a count. -/
def semaBytes (count : Nat) : Bytes :=
  Bytes.write [] 0x2000010080 (leBytes 4 count ++ leBytes 4 7 ++ leBytes 4 8 ++ leBytes 4 3)
def gSema (tag : Word) : Group := withUni fun u => ((u.setPair 4 0x80).setS 6 tag).setS 7 3
def stSema (tag : Word) (count : Nat) : State := st (gSema tag) withTlb fun s => { s with mem := { bytes := semaBytes count } }
def semaWait : SemaWait := ⟨owner0, 0x2000010080, 8, 3⟩
def latch0 : Latch := { instr := .semaWait { a := 4, b := 6 }, uni := {}, seq := 1 }
def gSemaWait : Group := { withSplit (fun sp => { sp with st := .wait (.sema 1), latch := some latch0 }) with holder := some 0 }
def stSemaWait (count : Nat) : State := { st gSemaWait withTlb with mem := { bytes := semaBytes count }, fly := { semas := [(1, semaWait)] } }
theorem witness_SemaphoreInstructions :
    (∀ n ∈ [0, 5, 0xFFFFFFFE], ∀ p ∈ [((7 : Word), 1), (8, 2)], let s := stSema p.1 n
      s.running = some (ex (gSema p.1)) ∧ Idle s (ex (gSema p.1)) ∧ SemaOk s (ex (gSema p.1)) 4 6 p.2 0x2000010080 ∧
      semaCount s 0 0x2000010080 = n ∧ s.fly.semas = []) ∧
    (∀ n ∈ [0, 5], let s := stSemaWait n
      mget s.fly.semas 1 = some semaWait ∧ s.exAt 0 0 0 = some (ex gSemaWait) ∧ AtHome s (semaWait.pa / 64 * 64) ∧
      (s.core 0).scratch.words = [] ∧ (ex gSemaWait).sp.latch ≠ none ∧ s.loadsDone (ex gSemaWait) = true ∧
      lineNum s 0 (semaWait.pa / 64 * 64) (semaWait.pa % 64 + 12) 4 = 3 ∧ lineNum s 0 (semaWait.pa / 64 * 64) (semaWait.pa % 64 + 8) 4 = 8 ∧
      semaCount s 0 semaWait.pa = n) := by
  refine ⟨fun n hn p hp => ?_, fun n hn => ?_⟩
  · have h : n = 0 ∨ n = 5 ∨ n = 0xFFFFFFFE := by simpa using hn
    have k : p = (7, 1) ∨ p = (8, 2) := by simpa using hp
    rcases h with rfl | rfl | rfl <;> rcases k with rfl | rfl <;>
      exact ⟨by decide +kernel, idle (by decide), ⟨⟨⟨pteD, lands (by decide), by decide⟩, atHome (by decide +kernel), by decide⟩, by decide +kernel, by decide +kernel,
        by decide +kernel⟩, by decide +kernel, rfl⟩
  · have h : n = 0 ∨ n = 5 := by simpa using hn
    rcases h with rfl | rfl <;>
      exact ⟨rfl, by decide, ⟨by decide +kernel, by decide, by decide +kernel, by decide +kernel⟩, by decide, by decide, by decide +kernel, by decide +kernel, by decide +kernel,
        by decide +kernel⟩
/-- Two groups of a block, one in BAR.SYNC of barrier 3; barrier 4 is two phases on. -/
def gBar (k : Option Nat) : Group := { g0 with bars := [(4, ⟨false, k⟩)] }
def bBar : Block := { b0 with groups := 2, slots := [0, 1], bars := [(4, ⟨2, 0⟩)] }
def stBar (k : Option Nat) : State := { st (gBar k) with blocks := [(1, bBar)] }
def gBarBack : Group := { withSplit (fun sp => { sp with half := 2 }) with bars := [(4, ⟨true, some 1⟩)] }
def stBarBack : State := { st gBarBack with blocks := [(1, bBar)] }
theorem witness_BarrierInstructions :
    (stBar (some 1)).running = some (ex (gBar (some 1))) ∧ Idle (stBar (some 1)) (ex (gBar (some 1))) ∧ mget (stBar (some 1)).blocks 1 = some bBar ∧
    (mgetD (gBar none).bars 3 {}).arrived = false ∧ (mgetD (gBar none).bars 4 {}).arrived = false ∧
    (mgetD (gBar (some 1)).bars 4 {}).last = some 1 ∧ 1 < (mgetD bBar.bars 4 {}).phase ∧
    (mgetD (gBar (some 2)).bars 4 {}).last = some 2 ∧ (mgetD bBar.bars 4 {}).phase ≤ 2 ∧
    ((stBarBack).running = some (ex gBarBack) ∧ stBarBack.acqBusy (ex gBarBack) = false ∧ stBarBack.syncBusy (ex gBarBack) = false ∧
      mget stBarBack.blocks 1 = some bBar ∧ (ex gBarBack).sp.half = 2 ∧ (mgetD gBarBack.bars 4 {}).last = some 1) := by
  refine ⟨by decide, idle (by decide), ?_⟩; decide
def gArr : Group := { withSplit (fun sp => { sp with st := .wait (.bar 3), half := 2 }) with bars := [(3, ⟨true, some 0⟩)], holder := some 0 }
def bArr (n : Nat) : Block := { b0 with groups := 2, slots := [0, 1], bars := [(3, ⟨0, n⟩)] }
def stArr (n : Nat) : State :=
  { st g0 with blocks := [(1, bArr n)], cores := [(0, { groups := [(0, gArr), (1, { gArr with uid := 9, idx := 1 })], res := [(0, .active)] })] }
theorem witness_BarriersPass :
    (∀ n ∈ [1, 2], mget (stArr n).blocks 1 = some (bArr n) ∧ (bArr n).ended.length < (bArr n).groups ∧ (stArr n).blockSaved (bArr n).core 1 = false ∧
      Map.sorted (stArr n).cores = true ∧ (stArr n).group 0 0 = some gArr ∧ gArr.blk = 1 ∧ mget gArr.splits 0 ≠ none ∧ Map.sorted gArr.splits = true) ∧
    (mgetD (bArr 1).bars 3 {}).count + (bArr 1).ended.length < (bArr 1).groups ∧
    (bArr 2).groups ≤ (mgetD (bArr 2).bars 3 {}).count + (bArr 2).ended.length ∧
    (∀ c, Map.sorted ((stArr 2).core c).groups = true) ∧
    (∀ c k g, (stArr 2).group c k = some g → g.blk = 1 → c = 0) := by
  refine ⟨by decide, by decide, by decide, fun c => ?_, fun c k g h _ => ?_⟩
  · by_cases hc : c = 0
    · subst hc; decide
    · simp [stArr, st, State.core, mgetD, mget, hc, Map.sorted]
  · by_contra hc
    simp [stArr, st, State.group, State.core, mgetD, mget, hc] at h

/-! ### Witnesses: scratch, atomics, ordered reductions -/

/-- Block 1's window of core 0: 0x400 bytes at 0x100. -/
def win0 : Window := ⟨1, 0x100, 0x400, []⟩
/-- Lane l addresses field 31, offset 8 l; v8:v9 hold 3. -/
def gScr (base : Nat) : Group := withLanes fun l => (({} : Lane).setV 4 (BitVec.ofNat 32 (base + 8 * l))).setPair 8 3
def withWin (k : Core) : Core := { k with scratch := { wins := [(0, win0)], bytes := [(0x100, 0x85), (0x101, 7), (0x108, 0xFF)] } }
def stScr (base : Nat) : State := st (gScr base) withWin
theorem ownScratch {s : State} {x : Ex} {m : Mask} {w : Window} {z : Nat} {ea : Nat → Nat}
    (h : s.blockWin x.core x.gr.blk = some w ∧ (∀ p ∈ (s.core x.core).scratch.wins, p.2.maps = []) ∧
      (∀ l, l < 8 → (ea l / 2 ^ 20 = 31 ∧ ea l % z = 0 ∧ ea l % 2 ^ 20 + z ≤ w.len)) ∧ (s.core x.core).scratch.poison = []) :
    OwnScratch s x m w z ea := ⟨h.1, h.2.1, lanes_of_mask _ fun l k _ => h.2.2.1 l k, h.2.2.2⟩
theorem witness_ScratchAccesses :
    (stScr 0x1F00000).running = some (ex (gScr 0x1F00000)) ∧ Idle (stScr 0x1F00000) (ex (gScr 0x1F00000)) ∧
    (ex (gScr 0x1F00000)).active ⟨7, false⟩ ≠ 0 ∧
    OwnScratch (stScr 0x1F00000) (ex (gScr 0x1F00000)) ((ex (gScr 0x1F00000)).active ⟨7, false⟩) win0 4
      (fun l => scrEa ((gScr 0x1F00000).lane l) l 4 none false 4) ∧
    OwnScratch (stScr 0x1F00000) (ex (gScr 0x1F00000)) ((ex (gScr 0x1F00000)).active ⟨7, false⟩) win0 8
      (fun l => (((gScr 0x1F00000).lane l).v 4 + (0 : BitVec 16).signExtend 32).toNat) ∧
    (∀ l, l < 8 → ∀ m, m < 8 → l ≠ m → win0.off + (((gScr 0x1F00000).lane l).v 4 + (0 : BitVec 16).signExtend 32).toNat % 2 ^ 20 ≠
      win0.off + (((gScr 0x1F00000).lane m).v 4 + (0 : BitVec 16).signExtend 32).toNat % 2 ^ 20) ∧ win0.off % 8 = 0 :=
  ⟨by decide +kernel, idle (by decide +kernel), by decide +kernel, ownScratch (by decide +kernel), ownScratch (by decide +kernel), by decide +kernel, by decide +kernel⟩
/-- Lane l addresses field 2, offset 0x100 + 8 l, where core 2 has a window of the same context. -/
def stFar : State := { stScr 0x200100 with
  cores := [(0, withWin (k0 (gScr 0x200100))), (2, { res := [(0, .active)], scratch := { wins := [(0, win0)] } })] }
theorem witness_RemoteScratchAccesses :
    stFar.running = some (ex (gScr 0x200100)) ∧ Idle stFar (ex (gScr 0x200100)) ∧ (2 : Nat) ≠ (ex (gScr 0x200100)).core ∧
    (ex (gScr 0x200100)).active ⟨7, false⟩ ≠ 0 ∧
    (∀ l, Mask.has ((ex (gScr 0x200100)).active ⟨7, false⟩) l = true →
      stFar.scrAddr (ex (gScr 0x200100)).scr (scrEa ((gScr 0x200100).lane l) l 4 none false 4) 4 = .at_ 2 (0x100 + 8 * l) ∧
      scrEa ((gScr 0x200100).lane l) l 4 none false 4 % 4 = 0 ∧ stFar.mapAt 2 (0x100 + 8 * l) = none) ∧
    (ex (gScr 0x200100)).active ⟨1, false⟩ = 0 :=
  ⟨by decide +kernel, idle (by decide +kernel), by decide, by decide +kernel, lanes_of_mask _ (by decide +kernel), by decide +kernel⟩
/-- One lane at field 24, at an address of 2^25, and past the window. -/
def gScr1 (a : Nat) : Group := { gScr a with splits := [(0, { sp0 with mask := 1 })] }
theorem witness_BadScratchAddressesTrap : ∀ a ∈ [0x1800000, 0x1EFFFFC, 0x2000000, 0x1F00400],
    (st (gScr1 a) withWin).running = some (ex (gScr1 a)) ∧ (∀ k, k < 8 → (Mask.has ((ex (gScr1 a)).active ⟨7, false⟩) k = true ↔ k = 0)) ∧
    ((24 ≤ scrEa ((gScr1 a).lane 0) 0 4 none false 4 / 2 ^ 20 ∧ scrEa ((gScr1 a).lane 0) 0 4 none false 4 / 2 ^ 20 ≤ 30 ∨
        32 ≤ scrEa ((gScr1 a).lane 0) 0 4 none false 4 / 2 ^ 20) ∨
      (st (gScr1 a) withWin).blockWin 0 1 = some win0 ∧ scrEa ((gScr1 a).lane 0) 0 4 none false 4 / 2 ^ 20 = 31 ∧
      win0.len < scrEa ((gScr1 a).lane 0) 0 4 none false 4 % 2 ^ 20 + 4) := by decide +kernel
/-- A load and a store that have travelled to core 0's scratch. -/
def touch (op : ScrOp) : Touch := { who := owner0, op := op, at_ := 0, lanes := [⟨2, 0x100, 9, 0⟩], remote := true }
def stTouch (op : ScrOp) : State := { stScr 0x1F00000 with fly := { touches := [(1, touch op)] } }
/-- A window with a read-only mapping of global address 0 over its first 64 bytes, and its fill from line 0x2000010000. -/
def winM (k : MapKind) : Window := ⟨1, 0x100, 0x400, [(0, ⟨k, 0, 64, 0⟩)]⟩
def withMap (kind : MapKind) (words : Map MWord) (k : Core) : Core := { k with scratch := { wins := [(0, winM kind)], words := words, bytes := [(0x104, 5)] } }
def fill0 : Fill := { core := 0, blk := 1, ctx := 0, off := 0x100 }
def stFill : State := st g0 (withMap .ro [(0x41, ⟨.pending, none, false, 0⟩)]) fun s =>
  { s with fly := { s.fly with fills := [(1, fill0)], reqs := [(1, { req .sfill 0 .back with data := 0x1122334455667788 })] } }
def stSwb (d : Line) : State := st g0 (withMap .rw [(0x41, ⟨.dirty, none, false, 0⟩)]) fun s =>
  { s with fly := { s.fly with reqs := [(1, { req (.swb 0 0x100) 0 .back with data := d, mask := 0xF0 })] } }
def stScrProbe : State := st g0 (withMap .rw [(0x41, ⟨.clean, some 0x2000010004, false, 0⟩)]) fun s =>
  { s with fly := { s.fly with scrProbes := [(1, ⟨0, 0x2000010000, 2, 7⟩)] } }
def push0 (arrived : Bool) : Push :=
  { owner := 1, halo := 0, len := 8, off := 0, data := [1, 2, 3, 4, 5, 6, 7, 8], poison := [], core := 0, blk := 1, dst := 0x100, path := 1, arrived := arrived,
    who := owner0 }
def stPush (arrived : Bool) : State := st g0 (withMap .replica []) fun s => { s with fly := { s.fly with pushes := [(1, push0 arrived)] } }
theorem witness_ScratchEventsTakeEffect :
    (∀ op ∈ [ScrOp.sld 4 8 false, .sst 4], let s := stTouch op
      s.fly.touches = [(1, touch op)] ∧ (touch op).lanes = [⟨2, 0x100, 9, 0⟩] ∧ mget (s.core 0).saved 0 = none ∧
      (s.windowAt 0 0x100 op.size 0).isSome = true ∧ (∀ p ∈ (s.core 0).scratch.wins, p.2.maps = []) ∧ (s.core 0).scratch.poison = [] ∧
      s.group 0 0 = some (gScr 0x1F00000) ∧ (gScr 0x1F00000).uid = owner0.uid) ∧
    (mget stFill.fly.fills 1 = some fill0 ∧ stFill.fly.touches = [] ∧ stFill.fillAlive fill0 = true ∧ fill0.dropped.getLsbD 1 = false ∧
      stFill.mapAt 0 0x104 = some (winM .ro, 0, ⟨.ro, 0, 64, 0⟩) ∧ mget (stFill.core 0).scratch.words 0x41 = some ⟨.pending, none, false, 0⟩) ∧
    ((stSwb 0x500000000).fly.scrProbes = [] ∧ mget ((stSwb 0x500000000).core 0).scratch.words 0x41 = some ⟨.dirty, none, false, 0⟩) ∧
    ((stSwb 0x600000000).fly.scrProbes = [] ∧ mget ((stSwb 0x600000000).core 0).scratch.words 0x41 = some ⟨.dirty, none, false, 0⟩) ∧
    ((∀ b, b < 4 → Bytes.at_ ((stSwb 0x500000000).core 0).scratch.bytes (0x104 + b) = lineByte (0x500000000 : Line) (4 + b)) ∧
      (∃ b, b < 4 ∧ Bytes.at_ ((stSwb 0x600000000).core 0).scratch.bytes (0x104 + b) ≠ lineByte (0x600000000 : Line) (4 + b))) ∧
    (mget stScrProbe.fly.scrProbes 1 = some ⟨0, 0x2000010000, 2, 7⟩ ∧ stScrProbe.fly.fills = [] ∧
      mget (stScrProbe.core 0).scratch.words 0x41 = some ⟨.clean, some 0x2000010004, false, 0⟩ ∧ (2 : BitVec 16).getLsbD ((0x2000010004 - 0x2000010000) / 4) = true) ∧
    (∀ a, mget (stPush a).fly.pushes 1 = some (push0 a) ∧ (stPush a).blockWin 0 1 = some (winM .replica) ∧ (push0 a).data.length = (push0 a).len ∧
      (stPush a).mapAt 0 0x104 = some (winM .replica, 0, ⟨.replica, 0, 64, 0⟩)) := by decide +kernel
/-- ATOM and RED of lanes at 64 l. -/
theorem witness_AtomicsAreSent :
    stLd.running = some (ex (gAddr 0)) ∧ Idle stLd (ex (gAddr 0)) ∧ FreshIds stLd ∧
    (∀ l, Mask.has ((ex (gAddr 0)).active ⟨7, false⟩) l = true →
      stLd.lineBusy (ex (gAddr 0)) (lineAddr (ptePa pteD (((gAddr 0).lane l).vPair 4 + (0 : BitVec 16).signExtend 64).toNat)) = false) ∧
    (∀ l, Mask.has ((ex (gAddr 0)).active ⟨7, false⟩) l = true →
      Lands stLd (ex (gAddr 0)) { write := true } [0, 1] 8 (((gAddr 0).lane l).vPair 4 + (0 : BitVec 16).signExtend 64) pteD) ∧
    (∀ l, Mask.has ((ex (gAddr 0)).active ⟨7, false⟩) l = true →
      Lands stLd (ex (gAddr 0)) { write := false } [0, 1] 4 (((gAddr 0).lane l).vPair 4 + (0 : BitVec 16).signExtend 64) pteD) :=
  ⟨by decide +kernel, idle (by decide +kernel), freshIds_of_none rfl, lanes_of_mask _ (by decide +kernel), lanes_of_mask _ fun l h _ => lands (by revert l; decide),
    lanes_of_mask _ fun l h _ => lands (by revert l; decide)⟩
/-- An atomic request of two lanes at its slice. -/
def reqA (op : ReqOp) (lanes : List LaneAcc) : Req := { req op 0 .out with lanes := lanes, mask := 0 }
def stAtom (op : ReqOp) (lanes : List LaneAcc) : State :=
  st { g0 with pend := [⟨1, some 2, .v 8⟩, ⟨1, some 3, .v 8⟩] } withTlb fun s =>
    { s with mem := { bytes := [(0x2000010008, 5)] }, fly := { s.fly with reqs := [(1, reqA op lanes)] } }
def two : List LaneAcc := [⟨2, 8, 3, 0⟩, ⟨3, 8, 4, 0⟩]
theorem served {s : State} {id : Nat} {r : Req} (h : s.fly.reqs = [(id, r)] ∧ r.phase = .out ∧ s.sliceBusy id r = false ∧
    (r.probed = true ∨ s.needed r = []) ∧ (s.ownerOf r.pa = none ∧ r.lineWb r.pa = false ∧ s.lostLink r.pa = false ∧ s.mem.wf = true) ∧
    Poison.line s.mem.poison (memKey r.who.ctx r.pa) = 0 ∧ r.cls ≤ 1 ∧ r.pa % 64 = 0 ∧ s.timesFull = false ∧ s.mem.lines = []) : Served s id r := by
  obtain ⟨h1, h2, h3, h4, ⟨a, b, c, d⟩, h6, h7, h8, h9, h10⟩ := h
  exact ⟨by simp [h1, mget], h2, h3, h4, ⟨a, by simp [h1, b], c, d⟩, h6, h7, h8, fun _ => h9, .inr (by simp [h10, sliceLines])⟩
theorem witness_AtomicsArePerformedAtTheSlice : ∀ op ∈ [ReqOp.atom 0 4 8 3 2, .atom 12 4 8 3 2, .red 0 4 0, .red 10 4 0],
    Served (stAtom op two) 1 (reqA op two) ∧ (reqA op two).lanes = ⟨2, 8, 3, 0⟩ :: [⟨3, 8, 4, 0⟩] ∧ (stAtom op two).laneTurn 1 (reqA op two) = true ∧
    ((stAtom op two).core 0).scratch.words = [] ∧ ((stAtom op two).group 0 0).map Group.uid = some (reqA op two).who.uid := by
  intro op h
  have k : op = .atom 0 4 8 3 2 ∨ op = .atom 12 4 8 3 2 ∨ op = .red 0 4 0 ∨ op = .red 10 4 0 := by simpa using h
  rcases k with rfl | rfl | rfl | rfl <;> exact ⟨served (by decide +kernel), rfl, by decide +kernel, rfl, rfl⟩
/-- ORDOPEN of the line at 0 with completion word at 0x40, and its answer on its way. -/
def gOrd : Group := withUni fun u => (u.setPair 4 0).setPair 6 0x40
def opOrd (n t0 : Nat) : ReqOp := .ordopen 0x2000010040 false n t0
def stOrd (ws : Map OrdWindow) (n t0 : Nat) : State := st gOrd withTlb fun s => { s with mem := { windows := ws }, fly := { reqs := [(1, req (opOrd n t0) 0 .back)] } }
def ordWin : OrdWindow := ⟨0, 0x2000010040, false, 4, 7, 10, 0⟩
theorem witness_OrderedWindowsOpen :
    ((st gOrd withTlb).running = some (ex gOrd) ∧ (st gOrd withTlb).opening (ex gOrd) = false ∧
      Lands (st gOrd withTlb) (ex gOrd) { write := true } [0, 1] 64 (gOrd.uni.pair 4) pteD ∧
      Lands (st gOrd withTlb) (ex gOrd) { write := true } [0, 1] 4 (gOrd.uni.pair 6) pteD) ∧
    (∀ n ∈ [1, 2 ^ 24], mget (stOrd [] n 0).fly.reqs 1 = some (req (opOrd n 0) 0 .back) ∧ (stOrd [] n 0).exAt 0 0 0 = some (ex gOrd) ∧
      mget (stOrd [] n 0).mem.windows 0x2000010000 = none ∧ (stOrd [] n 0).ordEntries 0x2000010000 < 256) ∧
    mget (stOrd [(0x2000010000, ordWin)] 4 0).mem.windows 0x2000010000 ≠ none ∧ (2 : Nat) ^ 24 < 2 ^ 24 + 1 :=
  ⟨⟨by decide +kernel, by decide +kernel, lands (by decide +kernel), lands (by decide +kernel)⟩, by decide +kernel, by decide +kernel, by decide +kernel⟩
def stCon (ws : Map OrdWindow) (op : ReqOp) (t : Word) : State :=
  st g0 withTlb fun s => { s with mem := { windows := ws }, fly := { reqs := [(1, reqA op [⟨2, 8, 3, t⟩])] } }
theorem witness_OrderedContributions : ∀ op ∈ [ReqOp.redOrd 16 4 1, .redOrd 26 4 1, .redOrd 16 8 1], ∀ t ∈ [(7 : Word), 8, 10],
    Served (stCon [(0x2000010000, ordWin)] op t) 1 (reqA op [⟨2, 8, 3, t⟩]) ∧ Served (stCon [] op t) 1 (reqA op [⟨2, 8, 3, t⟩]) ∧
    (∀ p ∈ (stCon [(0x2000010000, ordWin)] op t).fly.reqs, p.2.phase ≠ .held) ∧
    mget (stCon [(0x2000010000, ordWin)] op t).mem.windows 0x2000010000 = some ordWin ∧ mget (stCon [] op t).mem.windows 0x2000010000 = none ∧
    (t = 7 → t.toNat = ordWin.next ∧ ordWin.next ≤ ordWin.last ∧ ordWin.applied + 1 < ordWin.n) ∧
    (t ≠ 7 → ordWin.next < t.toNat ∧ t.toNat ≤ ordWin.last) := by
  intro op h t ht
  have k : op = .redOrd 16 4 1 ∨ op = .redOrd 26 4 1 ∨ op = .redOrd 16 8 1 := by simpa using h
  have j : t = 7 ∨ t = 8 ∨ t = 10 := by simpa using ht
  rcases k with rfl | rfl | rfl <;> rcases j with rfl | rfl | rfl <;>
    exact ⟨served (by decide +kernel), served (by decide +kernel), by decide +kernel, by decide +kernel, by decide +kernel, by decide +kernel, by decide +kernel⟩

/-! ### Witnesses: rays -/

def hdr0 : Header :=
  { code := 0, lim := 0x1000, widths := [1, 1, 1, 1, 1, 1], queue := 0, ray := true, paired := false, prio := 0, eclass := 0, part := 0, groups := 1,
    stack := 256, limit := 200, trapb := 0, comp := 0, mapt := 0, arg := 0, celle := 0, quota := 16, patience := 100 }
def launch0 : Launch := { hdr := hdr0, template := [], gen := 0, target := 1 }
def rec0 : RayRec := { payload := List.replicate 16 0, geo := [0x3F800000, 0x3F800000, 0, 0, 0, 0x3F800000, 0, 0x41000000], flags := 0xFF000000, shader := 3 }
def ray0 (a : RayAt) : Ray := { launch := 0, cluster := 0, core := 0, rec_ := rec0, at_ := a }
/-- Lanes 0 and 1 of the split of all lanes go; lane l holds ray l; the pair s4:s5 is the handle h. -/
def gRay (h : DWord) : Group :=
  { withUni (fun u => u.setPair 4 h) with
    splits := [(0, { sp0 with mask := 3 })]
    lanes := (List.range 8).map fun l => (l, { ray := BitVec.ofNat 32 l }) }
/-- A group of a ray launch (of a launch with no rays), an episode or not; rays in its lanes. -/
def stRay (ray ep : Bool) (h : DWord) (rs : Map Ray) : State :=
  { st (gRay h) withTlb with
    blocks := [(1, { b0 with kind := if ep then .episode 1 else .launch 0 })]
    ctxs := [(0, { regs := { en := true, raycap := 64 }, launches := [(0, { launch0 with hdr := { hdr0 with ray := ray } })] })]
    rays := rs }
def laneRays (c : Chain) : Map Ray := [(0, { ray0 (.lane 0 0 0) with chain := c }), (1, { ray0 (.lane 0 0 1) with chain := c })]
theorem raysOf {s : State} {x : Ex} {act : Mask} {ray : Nat → Ray} (a : ∀ l, l < 8 → Mask.has act l = true →
      mget s.rays (x.gr.ctx * 2 ^ 24 + (x.gr.lane l).ray.toNat) = some (ray l))
    (b : ∀ l, l < 8 → ∀ m, m < 8 → (x.gr.lane l).ray = (x.gr.lane m).ray → l = m) : RaysOf s x act ray :=
  ⟨lanes_of_mask _ a, fun l m h k e => b l (has_lt h) m (has_lt k) e⟩
/-- A group all of whose lanes go, the first of a block of two. -/
def gRayAll : Group := { gRay 0x80 with splits := [(0, { sp0 with mask := 0xFF })] }
def stRayLast : State := { stRay true true 0x80 ((List.range 8).map fun l => (l, ray0 (.lane 0 0 l))) with
  cores := (st gRayAll withTlb).cores
  blocks := [(1, { b0 with kind := .episode 1, groups := 2, slots := [0, 1] })] }
theorem witness_LastLanesLeave : Idle stRayLast (ex gRayAll) := idle (by decide)
theorem witness_TraceHandsRaysOver :
    (∀ ep, let s := stRay true ep 0x80 (laneRays {})
      s.running = some (ex (gRay 0x80)) ∧ (ex (gRay 0x80)).sp.st = .ready ∧ Map.sorted (gRay 0x80).splits = true ∧
      s.rayLaunch (gRay 0x80) = some (0, launch0) ∧ s.isEpisode (gRay 0x80) = ep ∧ (ex (gRay 0x80)).active ⟨7, false⟩ ≠ 0 ∧
      (ex (gRay 0x80)).active ⟨7, false⟩ ≠ (gRay 0x80).live ∧ (gRay 0x80).pending ((ex (gRay 0x80)).active ⟨7, false⟩) = false ∧
      ((gRay 0x80).uni.pair 4).toNat % 128 = 0 ∧ canonical ((gRay 0x80).uni.pair 4) = true ∧ s.tvuCount 0 + 8 ≤ 512 ∧
      (s.raysOf 0 0).length + 8 ≤ hdr0.quota) ∧
    (let s := stRayLast; s.running = some (ex gRayAll) ∧ (ex gRayAll).active ⟨7, false⟩ = gRayAll.live ∧ s.lastGroup gRayAll = false ∧
      s.keepsSlot gRayAll = false ∧ s.isEpisode gRayAll = true ∧ gRayAll.pending gRayAll.live = false) ∧
    (ex (gRay 0x80)).active ⟨1, false⟩ = 0 ∧
    (stRay false false 0x80 []).rayLaunch (gRay 0x80) = none ∧
    (stRay true false 0x81 []).rayLaunch (gRay 0x81) = some (0, launch0) ∧ ((gRay 0x81).uni.pair 4).toNat % 128 ≠ 0 := by decide
theorem witness_TraceInAnEpisode :
    Idle (stRay true true 0x80 (laneRays {})) (ex (gRay 0x80)) ∧
    RaysOf (stRay true true 0x80 (laneRays {})) (ex (gRay 0x80)) ((ex (gRay 0x80)).active ⟨7, false⟩) (fun l => ray0 (.lane 0 0 l)) :=
  ⟨idle (by decide), raysOf (by decide) (by decide)⟩
/-- RSPAWN of one lane, below the quota and at it. -/
def gSpawn : Group := { gRay 0 with splits := [(0, { sp0 with mask := 4 })] }
def stSpawn (n : Nat) : State :=
  { stRay true false 0 ((List.range n).map fun i => (i, ray0 (.bin 0))) with cores := (st gSpawn).cores }
theorem witness_RspawnMakesARay : ∀ n ∈ [0, 15, 16],
    (stSpawn n).running = some (ex gSpawn) ∧ (stSpawn n).rayLaunch gSpawn = some (0, launch0) ∧
    (∀ m, m < 8 → (Mask.has ((ex gSpawn).active ⟨7, false⟩) m = true ↔ m = 2)) ∧ 0 < ((stSpawn n).ctx 0).regs.raycap ∧
    ((stSpawn n).raysOf 0 0).length = n ∧ (stSpawn n).fly = {} := by decide +kernel
/-- Chains with a hit left, and with none. -/
def hit0 : Hit := ⟨0x40800000, 9, 0xFFFFFFFF, 0x3E000000, 0x3E000000, true, 5⟩
theorem witness_ChainsOfHits :
    (∀ c ∈ [({ n := 2, next := 1, end_ := 4, hits := [hit0, hit0] } : Chain), { n := 2, next := 2, end_ := 4, hits := [hit0, hit0] }],
      let s := stRay true true 0x80 (laneRays c)
      s.running = some (ex (gRay 0x80)) ∧ s.isEpisode (gRay 0x80) = true ∧ Idle s (ex (gRay 0x80)) ∧
      RaysOf s (ex (gRay 0x80)) ((ex (gRay 0x80)).active ⟨7, false⟩) (fun l => { ray0 (.lane 0 0 l) with chain := c })) ∧
    (stRay true false 0x80 []).isEpisode (gRay 0x80) = false := by
  refine ⟨fun c h => ?_, by decide⟩
  have k : c = { n := 2, next := 1, end_ := 4, hits := [hit0, hit0] } ∨ c = { n := 2, next := 2, end_ := 4, hits := [hit0, hit0] } := by simpa using h
  rcases k with rfl | rfl <;> exact ⟨by decide, by decide, idle (by decide), raysOf (by decide) (by decide)⟩
/-- Lanes with items at 128 l, and a test whose one line has come. -/
def gTest : Group := withLanes fun l => ({} : Lane).setPair 4 (BitVec.ofNat 64 (128 * l))
def test0 : LaneTest := { who := owner0, box := true, mask := 0xFF, d := 8, lanes := [(2, [(0x2000010000, 0, 64), (0x2000010040, 0, 64)], rec0.geo)] }
def stTest (ph : Phase) : State := st { g0 with pend := [⟨1, some 2, .v 8⟩, ⟨1, some 2, .v 9⟩] } withTlb fun s =>
  { s with fly := { s.fly with tests := [(1, test0)], reqs := [(3, req (.test 1 false) 0 ph)] } }
theorem witness_LaneTests :
    ((st gTest withTlb).running = some (ex gTest) ∧ (st gTest withTlb).acqBusy (ex gTest) = false ∧ FreshIds (st gTest withTlb) ∧
      ∀ n ∈ [48, 128], (st gTest withTlb).missCount 0 + (st gTest withTlb).loadMisses (ex gTest) false ((((lanesOf ((ex gTest).active ⟨7, false⟩)).flatMap
        fun l => itemLines ((gTest.lane l).vPair 4).toNat n pteD pteD).eraseDups).map fun p => ⟨p.1, pteClass p.2, pteLease p.2, []⟩) ≤ 256) ∧
    (∀ al ∈ [16, 128], ∀ l, Mask.has ((ex gTest).active ⟨7, false⟩) l = true →
      Lands (st gTest withTlb) (ex gTest) {} [0, 1, 2] al ((gTest.lane l).vPair 4) pteD ∧ ((gTest.lane l).vPair 4).toNat % 65536 + 128 ≤ 65536) ∧
    (∀ pa, (st gTest withTlb).lineBusy (ex gTest) pa = false) ∧
    (mget (stTest .back).fly.tests 1 = some test0 ∧ (stTest .back).group 0 0 = some { g0 with pend := [⟨1, some 2, .v 8⟩, ⟨1, some 2, .v 9⟩] }) ∧
    mget (stTest .out).fly.reqs 3 = some (req (.test 1 false) 0 .out) := by
  refine ⟨⟨by decide, by decide, freshIds_of_none rfl, by decide +kernel⟩, fun al ha => lanes_of_mask _ fun l h _ => ⟨lands ?_, ?_⟩, fun pa => ?_, by decide, by decide⟩
  · revert al l; decide
  · revert l; decide
  · simp [State.lineBusy, st]
/-- A BVH at 0 (0x2000010000): a node with one child from 0 to 10 in each direction, and its leaf, the triangle (0, 0, 4), (8, 0, 4),
(0, 8, 4); the rays of `rec0` start at (1, 1, 0) in direction (0, 0, 1). -/
def bvh : List Byte :=
  List.replicate 15 0 ++ [1] ++ [0, 0, 0, 10, 10, 10] ++ List.replicate 42 0 ++ leBytes 4 (2 ^ 30 + 128) ++ List.replicate 28 0 ++ leBytes 4 0xFF ++
  List.replicate 28 0 ++
  (leBytes 4 0 ++ leBytes 4 0 ++ leBytes 4 0x40800000 ++ leBytes 4 0x41000000 ++ leBytes 4 0 ++ leBytes 4 0x40800000 ++
    leBytes 4 0 ++ leBytes 4 0x41000000 ++ leBytes 4 0x40800000 ++ leBytes 4 9 ++ [5] ++ List.replicate 7 0)
def stTrav (nodes : List Byte) (cached : Bool) (a : RayAt) (r : RayRec) : State :=
  let m := Bytes.write pageTable 0x2000010000 nodes
  { stTrap g0 with
    mem := { bytes := m }
    ctxs := [(0, { regs := { en := true, root := 0x2000000000 }, launches := [(0, launch0)] })]
    rays := [(5, { ray0 a with rec_ := r })]
    clusters := [(0, { rays := { cache := if cached then
      [{ ctx := 0, launch := 0, pa := 0x2000010000, lines := (List.range 3).map fun i => (i, ⟨Bytes.line m (0x2000010000 + 64 * i), 0⟩), wanted := [] }]
      else [] } })] }
def trav (s : State) : Trav × Option Stop :=
  s.traverse ⟨0, 0, 0⟩ ⟨255, false, false⟩ (2 ^ 28) { todo := [.ref { ray := geoRay rec0.geo, base := 0 } 0] }
theorem witness_TraversalEvents :
    mget (stTrav bvh true .handed rec0).rays 5 = some (ray0 .handed) ∧
    geoRay { rec0 with geo := [] }.geo = none ∧ (geoRay rec0.geo).isSome = true ∧
    (trav (stTrav bvh true (.tvu none) rec0)).2 = none ∧
    (trav (stTrav bvh true (.tvu none) rec0)).1.hits = [⟨0x40800000, 9, 0xFFFFFFFF, 0x3E000000, 0x3E000000, true, 5⟩] ∧
    (trav (stTrav [] true (.tvu none) rec0)).2 = some (.code 1) ∧
    (trav (stTrav bvh false (.tvu none) rec0)).2 = some (.need 0 0x2000010000 0) ∧
    ((stTrav bvh false (.tvu none) rec0).cluster 0).rays.cache.length < 16 ∧ (ray0 (.tvu none)).bad = false ∧ (ray0 (.tvu none)).trav = none ∧
    ({ ray0 (.tvu none) with bad := true } : Ray).bad = true := by decide +kernel
/-- A treelet that lacks line 1, which has been asked for. -/
def tree0 : Treelet := { ctx := 0, launch := 0, pa := 0x2000010000, lines := [(0, ⟨0, 0⟩)], wanted := [1] }
def stTree : State := { stTrav bvh false .handed rec0 with clusters := [(0, { rays := { cache := [tree0] } })] }
theorem witness_TreeletsAreFilled :
    (stTree.cluster 0).rays.cache = [tree0] ∧ tree0.pa = 0x2000010040 / 4096 * 4096 ∧ 0x2000010040 % 4096 / 64 ∈ tree0.wanted ∧
    AtHome stTree (0x2000010040 / 64 * 64) := ⟨by decide, by decide, by decide, atHome (by decide +kernel)⟩
/-- Rays of one bin that have waited since clk 0, at clk 100. -/
def stBins (n : Nat) : State :=
  { stRay true false 0x80 ((List.range n).map fun i => (i, ray0 (.bin 0))) with now := 100, blocks := [] }
theorem witness_SaffronFormsEpisodes :
    (∀ n ∈ [1, 4, 8, 9], mget (stBins n).rays 0 = some (ray0 (.bin 0)) ∧ Map.sorted (stBins n).rays = true ∧
      (∀ b ∈ (stBins n).binned 0, b.key = (stBins n).rayBin 0 (ray0 (.bin 0))) ∧ ((stBins n).binned 0).length = n ∧
      (stBins n).drained 0 0 0 = true ∧ mget ((stBins n).ctx 0).launches 0 = some launch0 ∧
      (((stBins n).binned 0).head?.map fun b => b.since + launch0.hdr.patience) = some (stBins n).now ∧
      (stBins n).rayBin 0 (ray0 (.bin 0)) ∉ ((stBins n).cluster 0).rays.asked ∧ ((stBins n).cluster 0).rays.cells = [] ∧
      ((stBins n).cluster 0).rays.formedAt ≠ some (stBins n).now) ∧
    (let s := stRay true false 0 [(0, ray0 .arriving), (1, ray0 (.spilled 3))];
      mget s.rays 1 = some (ray0 (.spilled 3)) ∧ s.spilledRays 0 = [(1, 0, 3)] ∧ s.onDie 0 < 65536) ∧
    (let s := stRay true false 0 [(0, ray0 .arriving)];
      mget s.rays 0 = some (ray0 .arriving) ∧ s.spilledRays 0 = [] ∧ s.onDie 0 < 65536) := by decide +kernel
/-- All 65,536 records of the cluster in use. -/
theorem witness_SaffronIsFull : ∃ s : State, mget s.rays 0 = some (ray0 .arriving) ∧ 65536 ≤ s.onDie 0 := by
  refine ⟨{ rays := (0, ray0 .arriving) :: List.replicate 65536 (1, ray0 (.bin 0)) }, by decide, ?_⟩
  simp only [State.onDie]
  rw [List.filter_cons_of_neg (by decide), List.filter_replicate_of_pos (by decide), List.length_replicate]

/-! ### Witnesses: continuations, launches, joins and blocks -/

/-- A record in s8 to s15: entry 0x2000, frame 0x3000, no join, WID, for queue 2. -/
def recW0 : DWord := 0x0800000000002000
def gCont (w0 : DWord) : Group := withUni fun u => ((u.setPair 8 w0).setPair 10 0x3000).setPair 14 7
/-- A context whose queue 2 has room for 4 records and holds n. -/
def recC : QRec := .cont recW0 0 0 0 0 none 0 0
def ctxQ (n : Nat) : Ctx := { regs := { en := true }, launches := [(0, launch0)], queues := [(2, ⟨0, 2, List.replicate n recC, 0⟩)] }
def stCont (w0 : DWord) (n : Nat) : State := { st (gCont w0) withTlb with ctxs := [(0, ctxQ n)] }
theorem witness_ContinuationsArePushed :
    (∀ n ∈ [0, 3, 4], (stCont recW0 n).running = some (ex (gCont recW0)) ∧ mget (stCont recW0 n).blocks 1 = some b0 ∧ (stCont recW0 n).fly = {} ∧
      (recordAt (gCont recW0).uni 8).1.toNat / 2 ^ 58 = 2 ∧ mget ((stCont recW0 n).ctx 0).queues 2 = some ⟨0, 2, List.replicate n recC, 0⟩) ∧
    ((recordAt (gCont recW0).uni 8).1.toNat % 8 = 0 ∧ (recordAt (gCont recW0).uni 8).1.toNat / 2 ^ 51 % 2 = 0 ∧
      (recordAt (gCont recW0).uni 8).1.toNat / 2 ^ 49 % 4 ≠ 3) ∧
    (∀ w ∈ [0x0800000000002004, 0x0808000000002000, 0x0806000000002000],
      ¬((recordAt (gCont (toD w)).uni 8).1.toNat % 8 = 0 ∧ (recordAt (gCont (toD w)).uni 8).1.toNat / 2 ^ 51 % 2 = 0 ∧
        (recordAt (gCont (toD w)).uni 8).1.toNat / 2 ^ 49 % 4 ≠ 3)) ∧
    mget ((stCont 0x0C00000000002000 0).ctx 0).queues ((recordAt (gCont 0x0C00000000002000).uni 8).1.toNat / 2 ^ 58) = none ∧
    ((recordAt (gCont recW0).uni 8).2.2.1 = 0 ∧ (SSrc.val (.lit 2) (gCont recW0).uni).toNat = 2 ∧
      (recordAt (gCont recW0).uni 8).2.2.2.toNat / 8 % 2 ^ (stCont recW0 0).width1 (gCont recW0) + 2 ≤ 2 ^ (stCont recW0 0).width1 (gCont recW0)) := by
  decide +kernel
/-- What the KZ8's agents write, at 0x60 of page 0. -/
def landed : Except Nat (DWord × Nat) × State := (stTrap g0).agentTranslate 0 0x60 { write := true }
theorem witness_AgentWritesLand :
    landed = (.ok (pteD, 0x2000010060), landed.2) ∧ pteClass pteD = 0 ∧ 0x2000010060 % 64 = 0x60 % 64 ∧ 0x60 % 64 + ([1, 2, 3] : List Byte).length ≤ 64 ∧
    AtHome landed.2 (lineAddr 0x2000010060) := ⟨pair_eq _ _ (by decide +kernel), by decide, by decide, by decide, atHome (by decide +kernel)⟩
/-- CJOIN of the counter at 0x80. -/
def gCount : Group := withUni fun u => u.setPair 4 0x80
def stCount (n : Nat) : State := { st gCount withTlb with mem := { bytes := Bytes.write [] 0x2000010080 (leBytes 4 n) } }
theorem witness_CjoinCounts : ∀ n ∈ [0, 2, 5], (stCount n).running = some (ex gCount) ∧ LineAt (stCount n) (ex gCount) [0] (gCount.uni.pair 4) 0x2000010080 ∧
    lineNum (stCount n) 0 0x2000010080 0 4 = n := by
  intro n h
  have k : n = 0 ∨ n = 2 ∨ n = 5 := by simpa using h
  rcases k with rfl | rfl | rfl <;> exact ⟨by decide +kernel, ⟨⟨pteD, lands (by decide), by decide⟩, atHome (by decide +kernel)⟩, by decide +kernel⟩
/-- A header at 0x80: one block of one group of 8 lanes for queue 2; with a code address of 0x1000, or of 0x1001. -/
def hdrBytes (code : Nat) : List Byte := leBytes 8 code ++ leBytes 8 7 ++ leBytes 8 (2 ^ 58 + 3) ++ List.replicate 40 0
def stLaunch (code n : Nat) : State := { stCount 0 with mem := { bytes := Bytes.write [] 0x2000010080 (hdrBytes code) }, ctxs := [(0, ctxQ n)] }
theorem witness_LaunchesAreAccepted :
    (∀ c ∈ [0x1000, 0x1001], (stLaunch c 0).running = some (ex gCount) ∧ Idle (stLaunch c 0) (ex gCount) ∧
      LineAt (stLaunch c 0) (ex gCount) [0, 1] (gCount.uni.pair 4) 0x2000010080) ∧
    (headerOf (lineBytes (stLaunch 0x1001 0) 0 0x2000010080)).code.toNat % 8 ≠ 0 ∧ (headerOf (hdrBytes 0x1001)).comp = 0 ∧
    (stLaunch 0x1000 3).headerReason 0 (lineBytes (stLaunch 0x1000 3) 0 0x2000010080) = 0 ∧
    (stLaunch 0x1000 3).rayRefused 0 (headerOf (hdrBytes 0x1000)) = false ∧ (headerOf (hdrBytes 0x1000)).comp = 0 ∧
    (headerOf (hdrBytes 0x1000)).mapt = 0 ∧ ((stLaunch 0x1000 3).ctx 0).launches.length < 64 ∧
    mget ((stLaunch 0x1000 3).ctx 0).queues (headerOf (hdrBytes 0x1000)).queue = some ⟨0, 2, List.replicate 3 recC, 0⟩ := by
  refine ⟨fun c h => ?_, by decide +kernel, by decide +kernel, by decide +kernel, by decide +kernel, by decide +kernel, by decide +kernel, by decide, by decide +kernel⟩
  have k : c = 0x1000 ∨ c = 0x1001 := by simpa using h
  rcases k with rfl | rfl <;> exact ⟨by decide +kernel, idle (by decide), ⟨pteD, lands (by decide), by decide⟩, atHome (by decide +kernel)⟩
/-- The launch ring with one header; and a header held for a queue that is full, or has room. -/
def stRing : State :=
  { stTrap g0 with
    mem := { bytes := Bytes.write pageTable 0x2000010000 (hdrBytes 0x1001) }
    ctxs := [(0, { ctxQ 0 with regs := { en := true, root := 0x2000000000 }, rings := { lqlog := 2, lqhead := 4, lqtail := 5 } })] }
def ringRead : Except (Nat × Nat) (List (Byte × Bool)) × State := stRing.agentRead 0 { priv := true } [0, 1] (partsOf 0 64)
theorem witness_TheRingIsRead :
    (stRing.ctx 0).regs.en = true ∧ (stRing.ctx 0).rings.lqhead ≠ (stRing.ctx 0).rings.lqtail ∧ (stRing.ctx 0).stalled = false ∧
    (stRing.ctx 0).heldHdr = none ∧ (stRing.ctx 0).rings.lqbase + 64 * ((stRing.ctx 0).rings.lqhead % 2 ^ (stRing.ctx 0).rings.lqlog) = 0 ∧
    ringRead = (.ok (okOf [] ringRead.1), ringRead.2) ∧ ringRead.2.ctxs = stRing.ctxs ∧
    (headerOf ((okOf [] ringRead.1).map Prod.fst)).code.toNat % 8 ≠ 0 ∧ (headerOf ((okOf [] ringRead.1).map Prod.fst)).comp = 0 :=
  ⟨by decide, by decide, by decide, by decide, by decide, pair_eq _ _ (eq_ok [] _ (by decide +kernel)), by decide +kernel, by decide +kernel, by decide +kernel⟩
def stHolding (n : Nat) : State := { st g0 with ctxs := [(0, { ctxQ n with heldHdr := some (hdrBytes 0x1000) })] }
theorem witness_HeldHeadersAreOffered : ∀ n ∈ [3, 4], ((stHolding n).ctx 0).heldHdr = some (hdrBytes 0x1000) ∧ (stHolding n).headerReason 0 (hdrBytes 0x1000) = 0 ∧
    (stHolding n).rayRefused 0 (headerOf (hdrBytes 0x1000)) = false ∧ ((stHolding n).ctx 0).launches.length < 64 ∧
    mget ((stHolding n).ctx 0).queues (headerOf (hdrBytes 0x1000)).queue = some ⟨0, 2, List.replicate n recC, 0⟩ := by decide +kernel
/-- Heads: block 0 of a launch of one block, and a continuation; on an idle core. -/
def launchA : Launch := { launch0 with hdr := { headerOf (hdrBytes 0x1000) with } }
def stHead (r : QRec) : State :=
  { dev := { boot := 2 }, cores := [(0, { res := [(0, .active)] })], nextId := 5, now := 9
    ctxs := [(0, { ctxQ 0 with launches := [(0, launchA)], queues := [(2, ⟨0, 2, [r], 0⟩)] })] }
def recCont : QRec := .cont recW0 0x3000 0x40 6 0 none 0 0
theorem witness_BlocksAreAdmitted :
    topHead ((stHead (.launch 0)).heads 0) = some ⟨0, 2, .launch 0, 0, 0, false⟩ ∧ (stHead (.launch 0)).dev.boot = 2 ∧
    ((stHead (.launch 0)).cluster 0).admitted ≠ some (stHead (.launch 0)).now ∧ launchA.template = [] ∧ launchA.hdr.paired = false ∧
    launchA.hdr.count 0 ≤ 8 ∧ mget ((stHead (.launch 0)).ctx 0).launches 0 = some launchA ∧ launchA.next < launchA.w0 + 256 ∧
    (stHead (.launch 0)).admits 0 3 launchA.hdr ⟨0, 0, .launch 0, launchA.hdr.groupsOf 0, 0, 0⟩ = some ([3], 0) ∧ launchA.hdr.eclass = 0 ∧
    topHead ((stHead recCont).heads 0) = some ⟨0, 2, recCont, 0, 0, false⟩ ∧ recW0.toNat / 2 ^ 49 % 4 = 0 ∧
    (stHead recCont).admits 0 3 launchA.hdr ⟨0, 0, .cont none (0x40 : DWord).toNat, 1, 0, recW0.toNat / 2 ^ 52 % 8⟩ = some ([3], 0) ∧
    ({ stHead (.launch 0) with dev := {} } : State).dev.boot ≠ 2 := by decide +kernel
/-- An episode of two rays whose shader's record stands at 0x60, and one whose shader has no record. -/
def launchE : Launch := { launch0 with hdr := { hdr0 with arg := 0 } }
def stEpisode : State :=
  { stTrap g0 with
    mem := { bytes := Bytes.write pageTable 0x2000010060 (leBytes 8 0x4000 ++ leBytes 8 0x77) }
    dev := { boot := 2 }, cores := [(0, { res := [(0, .active)] })], now := 9, run := none, blocks := []
    ctxs := [(0, { regs := { en := true, root := 0x2000000000 }, launches := [(0, launchE)] })]
    rays := [(5, ray0 (.formed 2)), (6, ray0 (.formed 2))]
    clusters := [(0, { rays := { formed := [(2, ⟨0, 0, 3, [5, 6]⟩), (3, ⟨0, 0, 4, [5, 6]⟩)] } })] }
def shader (i : Nat) : Option (DWord × DWord) × State := stEpisode.shaderRec 0 launchE i
theorem witness_EpisodesAreAdmitted :
    stEpisode.dev.boot = 2 ∧ (stEpisode.cluster 0).admitted ≠ some stEpisode.now ∧
    mget (stEpisode.cluster 0).rays.formed 2 = some ⟨0, 0, 3, [5, 6]⟩ ∧ mget (stEpisode.cluster 0).rays.formed 3 = some ⟨0, 0, 4, [5, 6]⟩ ∧
    mget (stEpisode.ctx 0).launches 0 = some launchE ∧
    (∀ e ∈ [2, 3], stEpisode.admits 0 3 launchE.hdr ⟨0, 0, .episode e, 1, 0, launchE.hdr.eclass⟩ = some ([3], 0)) ∧
    shader 3 = (some (0x4000, 0x77), (shader 3).2) ∧ shader 4 = (none, (shader 4).2) ∧
    (∀ i, i < 2 → mget (shader 3).2.rays (0 * 2 ^ 24 + [5, 6].getD i 0) = some (ray0 (.formed 2))) ∧
    (ray0 (.formed 2)).rec_.payload.length = 16 ∧ (ray0 (.formed 2)).rec_.geo.length = 8 :=
  ⟨by decide, by decide, by decide, by decide, by decide, by decide +kernel, pair_eq _ _ (by decide +kernel), pair_eq _ _ (by decide +kernel),
    by decide +kernel, by decide, by decide⟩
/-- A block whose one group has ended, with no join, and with a join whose count is 2. -/
def bEnd (j : Nat) : Block := { b0 with kind := .cont none j, ended := [0] }
def stEnd (j : Nat) : State :=
  { stTrap g0 with
    mem := { bytes := Bytes.write pageTable 0x2000010080 [2] }
    cores := [(0, { res := [(0, .active)] })], run := none
    blocks := [(1, bEnd j)]
    ctxs := [(0, { ctxQ 0 with regs := { en := true, root := 0x2000000000 } })] }
def endRead : Except Nat (DWord × Nat) × State :=
  ((((stEnd 0x80).raiseFloor 0 ((stEnd 0x80).pts 0 0)).dropHolder 0 1).agentTranslate 0 0x80 { write := true })
def stBuf : State :=
  let s := stEnd 0x80
  { s with blocks := [(1, { bEnd 0x80 with joinHeld := true })], clusters := [(0, { joins := [(4, ⟨1, 0x80⟩)] })] }
def bufRead : Except Nat (DWord × Nat) × State := stBuf.agentTranslate 0 0x80 { write := true }
theorem witness_BlocksEndAndQueuesChange :
    (∀ j ∈ [0, 0x80], mget (stEnd j).blocks 1 = some (bEnd j) ∧ (bEnd j).groups ≤ (bEnd j).ended.length ∧ (bEnd j).joinHeld = false ∧
      (stEnd j).blockBusy 1 (bEnd j) = false) ∧
    (bEnd 0).joins = none ∧ (bEnd 0x80).joins = some 0x80 ∧ canonical (BitVec.ofNat 64 0x80) = true ∧
    endRead = (.ok (pteD, 0x2000010080), endRead.2) ∧ pteClass pteD = 0 ∧ endRead.2.ownerOf 0x2000010080 = none ∧ endRead.2.fly.reqs = [] ∧
    endRead.2.lostLink 0x2000010080 = false ∧ endRead.2.mem.wf = true ∧ 1 < lineNum endRead.2 0 0x2000010080 0 4 ∧ endRead.2.blocks = (stEnd 0x80).blocks ∧
    mget (stBuf.cluster 0).joins 4 = some ⟨1, 0x80⟩ ∧ mget stBuf.blocks 1 = some { bEnd 0x80 with joinHeld := true } ∧
    bufRead = (.ok (pteD, 0x2000010080), bufRead.2) ∧ bufRead.2.ownerOf 0x2000010080 = none ∧ bufRead.2.fly.reqs = [] ∧
    bufRead.2.lostLink 0x2000010080 = false ∧ bufRead.2.mem.wf = true ∧ 1 < lineNum bufRead.2 0 0x2000010080 0 4 ∧ bufRead.2.blocks = stBuf.blocks ∧
    (∀ q ∈ [0, 63], mget ((stEnd 0).ctx 0).queues q = none) ∧ mget ((stEnd 0).ctx 0).queues 2 ≠ none :=
  ⟨by decide +kernel, by decide, by decide, by decide, pair_eq _ _ (by decide +kernel), by decide, by decide +kernel, by decide +kernel, by decide +kernel,
    by decide +kernel, by decide +kernel, by decide +kernel, by decide, by decide, pair_eq _ _ (by decide +kernel), by decide +kernel,
    by decide +kernel, by decide +kernel, by decide +kernel, by decide +kernel, by decide +kernel, by decide, by decide⟩

/-! ### Witnesses: matrix arrays -/

/-- Block 1's window for matrix operands, and operand maps: A of 8-bit elements in scratch, 16 bytes a row, and B in the plane. -/
def winX : Window := ⟨1, 0x400, 0x4000, []⟩
def mapA : BitVec 128 := BitVec.ofNat 128 (0x1F00000 + 16 * 2 ^ 32 + 2 * 2 ^ 64)
def mapB : BitVec 128 := BitVec.ofNat 128 (2 * 2 ^ 64 + 2 * 2 ^ 69)
/-- s8 0 (offsets), s9 the index list, s10 the scatter list, s12 the address of tile rows, s16 on an image, s20 a plane offset. -/
def gMx : Group := withUni fun u =>
  { (((((((u.setS 9 0x1F00200).setS 10 0x1F00300).setS 12 0x1F00000).setS 16 0x1F00000).setS 17 16).setS 18 2).setS 20 0x8020) with
    maps := [(1, mapA), (2, mapB)] }
def withMx (m : Matrix) (k : Core) : Core :=
  { k with mx := m, scratch := { wins := [(0, winX)], bytes := (List.range 8).map fun i => (0x400 + 0x300 + i, BitVec.ofNat 8 (if i = 7 then 255 else i + 1)) } }
def stMx (m : Matrix) : State := st gMx (withMx m)
def XM : Ex := ex gMx
theorem mxTurn {s : State} {x : Ex} {p : Bool} (h : (∀ c ∈ coresOf x p, ∀ r ∈ (s.core c).res, r.2 ≠ .draining) ∧ s.mxTurn x = true ∧
    s.acqBusy x = false ∧ (s.core x.core).mx.queue.length < 16 ∧ (p = true → x.core % 2 = 0 ∧ (s.core x.core).mx.bound = some x.gr.blk)) :
    MatrixTurn s x p := ⟨h.1, h.2.1, h.2.2.1, h.2.2.2.1, h.2.2.2.2⟩
theorem mxReady {s : State} {x : Ex} {p : Bool} {l : List Nat} (h : ((∀ c ∈ coresOf x p, ∀ r ∈ (s.core c).res, r.2 ≠ .draining) ∧
    s.mxTurn x = true ∧ s.acqBusy x = false ∧ (s.core x.core).mx.queue.length < 16 ∧
    (p = true → x.core % 2 = 0 ∧ (s.core x.core).mx.bound = some x.gr.blk)) ∧
    (∀ c ∈ coresOf x p, ∀ t ∈ l, t < [4, 8, 0, 4, 12, 0, 6, 4].getD (s.core c).part 0) ∧
    (p = false → x.core % 2 = 1 → (s.core (x.core - 1)).mx.bound = none)) : MatrixReady s x p l :=
  ⟨mxTurn h.1, h.2.1, h.2.2⟩
/-- The pair binding of the block, and control words: 0 and 1 a speculative pair, 0 and 2 canonical tiles of 2. -/
def mxPair : Matrix := { bound := some 1 }
def mxSpec : Matrix := { bound := some 1, copies := [(0, { spec := 1, link := 1 }), (1, { spec := 2, link := 0 })] }
def mxCan : Matrix := { bound := some 1, copies := [(0, { cl := 1 }), (2, { cl := 1 })] }
def ctlC (p : Bool) : MmaC := ⟨p, 0, 0, 15, 2, 1⟩
def rowsC : List (Nat × Nat) := (List.range 8).map fun i => (i, i)
/-- A map of A in a chain of rows from slot 3 on, which the block holds open. -/
def mapR : BitVec 128 := BitVec.ofNat 128 (3 + 16 * 2 ^ 32 + 2 * 2 ^ 64 + 2 ^ 69)
def rowsOf : Rows := { slots := [(3, { st := .open_, blk := 1, ctx := 0, index := 2, row := 7, since := 0 })] }
def stMxRow : State := st { gMx with uni := { gMx.uni with maps := [(1, mapR), (2, mapB)] } } fun k => { withMx mxPair k with rows := rowsOf }
def XR : Ex := ex { gMx with uni := { gMx.uni with maps := [(1, mapR), (2, mapB)] } }
theorem witness_MultipliesEnterTheQueue :
    (stMx mxPair).running = some XM ∧
    (∀ p, Maps XM (ctlC p) mapA mapB 0) ∧ OperandA (stMx mxPair) XM winX mapA 0 16 rowsC [] ∧
    (MatrixReady (stMx mxPair) XM false [0] ∧ MatrixReady (stMx {}) XM false [0, 1, 2, 3] ∧ MatrixReady (stMx mxCan) XM false [0, 1] ∧
      MatrixReady (stMx mxSpec) XM false [0, 1]) ∧
    (∀ c ∈ coresOf XM true, ∀ t, t < 4 → (issueCtl (stMx {}) c t).spec = 0 ∧ (issueCtl (stMx {}) c t).lvl = false ∧ (issueCtl (stMx {}) c t).cl = 0) ∧
    ((issueCtl (stMx mxCan) 0 0).spec = 0 ∧ (issueCtl (stMx mxCan) 0 0).lvl = false ∧ (issueCtl (stMx mxCan) 0 0).cl = 1) ∧
    Linked (stMx mxSpec) 0 0 1 ∧
    ((∀ p, Maps XR (ctlC p) mapR mapB 0) ∧ OperandA stMxRow XR winX mapR 0 16 rowsC [(3, 7)] ∧ MatrixReady stMxRow XR false [0]) := by
  refine ⟨by decide, fun p => ?_, ⟨fun _ => ⟨rfl, ⟨by decide, by decide, by decide +kernel⟩, ⟨by decide, by decide, by decide +kernel⟩⟩, fun h => absurd (by decide) h⟩,
    ⟨mxReady (by decide), mxReady (by decide), mxReady (by decide), mxReady (by decide)⟩, by decide, by decide, by unfold Linked; decide,
    fun p => ?_, ⟨fun h => absurd h (by decide), fun _ => ⟨by decide +kernel, by decide +kernel, fun c hc =>
      ⟨{ st := .open_, blk := 1, ctx := 0, index := 2, row := 7, since := 0 }, ?_⟩⟩⟩, mxReady (by decide)⟩
  · cases p <;> exact ⟨by decide, by decide, by decide, by decide, by decide, by decide, by decide, by decide⟩
  · cases p <;> exact ⟨by decide, by decide, by decide, by decide, by decide, by decide, by decide, by decide⟩
  · obtain rfl : c = (3, 7) := by simpa using hc
    exact ⟨rfl, by decide, by decide, .inr (.inl (by decide))⟩
/-- The pair form: the follower has the same code. -/
theorem witness_PairForm : MatrixReady (stMx mxPair) XM true [0, 3] := mxReady (by decide)
/-- MMAG: the index list reads 0, the scatter list 1 to 7 and 255. -/
theorem witness_Mmag :
    (XM.gr.uni.sr 9).toNat % 2 = 0 ∧ Spans (stMx {}) XM winX [(XM.gr.uni.sr 9).toNat] 16 ∧ Spans (stMx {}) XM winX [(XM.gr.uni.sr 10).toNat] 8 ∧
    (∀ i, i < 8 → (0 : Nat) = (((stMx {}).core 0).scratch.value (0x400 + (XM.gr.uni.sr 9).toNat % 2 ^ 20 + 2 * i) 2).1 ∧
      (if i = 7 then 255 else i + 1) = (((stMx {}).core 0).scratch.value (0x400 + (XM.gr.uni.sr 10).toNat % 2 ^ 20 + i) 1).1) ∧
    (∀ i, i < 8 → ((if i = 7 then 255 else i + 1) < 128 ∨ (if i = 7 then 255 else i + 1) = 255) ∧
      ∀ j, j < i → (if i = 7 then 255 else i + 1) = (if j = 7 then 255 else j + 1) → (if i = 7 then 255 else i + 1) = 255) ∧
    Spans (stMx {}) XM winX (rowAddrs mapA 0 (((List.range 8).map fun i => (0, if i = 7 then 255 else i + 1)).filter fun r => r.2 ≠ 255)) 16 :=
  ⟨by decide, ⟨by decide, by decide, by decide +kernel⟩, ⟨by decide, by decide, by decide +kernel⟩, by decide +kernel, by decide, ⟨by decide, by decide, by decide +kernel⟩⟩
/-- A matrix operation of the group in the queue. -/
def entry0 (op : MxOp) (b : Option Nat) : MxEntry := { id := 1, op := op, pair := false, who := owner0, pc := 0, started := b }
theorem witness_TileInstructionsEnterTheQueue :
    MatrixReady (stMx mxSpec) XM false [0, 1] ∧
    ((issueCtl (stMx mxSpec) 0 0).spec = 1 ∧ (issueCtl (stMx mxSpec) 0 0).link = 1 ∧ (issueCtl (stMx mxSpec) 0 1).spec = 2 ∧
      (issueCtl (stMx mxSpec) 0 1).link = 0) ∧
    MatrixReady (stMx mxCan) XM false [0, 2] ∧
    ((∀ v ∈ [0, 2], (issueCtl (stMx mxCan) 0 v).spec = 0 ∧ (issueCtl (stMx mxCan) 0 v).lvl = false ∧ (issueCtl (stMx mxCan) 0 v).cl ≠ 0) ∧
      0 + (issueCtl (stMx mxCan) 0 0).cl < 2) ∧
    Spans (stMx {}) XM winX ((List.range 8).map fun i => ((XM.gr.uni.sr 12).toNat + i * 512) % 2 ^ 32) 512 ∧ (XM.gr.uni.sr 12).toNat % 4 = 0 ∧
    (∀ e ∈ ((stMx {}).core 0).mx.queue, XM.seq (stMx {}).nextId ≤ e.id) ∧
    (MatrixReady (stMx { queue := [entry0 (.zero 0 0) none] }) XM false [0] ∧
      ¬∀ e ∈ ((stMx { queue := [entry0 (.zero 0 0) none] }).core 0).mx.queue, XM.seq (stMx {}).nextId ≤ e.id) :=
  ⟨mxReady (by decide), by decide, mxReady (by decide), by decide, ⟨by decide, by decide, by decide +kernel⟩, by decide, by decide, mxReady (by decide), by decide⟩
/-- An image in s16 to s19 that is valid, and one that is not; a multiply of the group in the queue that still reads. -/
def mul0 : MxOp := .mul 1 .plain mapA mapB 0 0 16 rowsC 16 [] [] []
theorem witness_MapsPlanesAndPairs :
    mapOk (XM.gr.uni.sr 19 ++ XM.gr.uni.sr 18 ++ XM.gr.uni.sr 17 ++ XM.gr.uni.sr 16) = true ∧
    mapOk (XM.gr.uni.sr 18 ++ XM.gr.uni.sr 17 ++ XM.gr.uni.sr 16 ++ XM.gr.uni.sr 15) = false ∧
    (MatrixTurn (stMx {}) XM false ∧ MatrixTurn (stMx mxPair) XM true) ∧ (XM.gr.uni.sr 20).toNat < 2 ^ 22 ∧ (XM.gr.uni.sr 20).toNat % 32 = 0 ∧
    (XM.gr.uni.sr 12).toNat % 32 = 0 ∧ (XM.gr.uni.sr 20).toNat % 32768 + 64 ≤ 32768 ∧ (XM.gr.uni.sr 20).toNat / 32768 + 3 < 128 ∧
    Spans (stMx {}) XM winX ((List.range 4).map fun c => ((XM.gr.uni.sr 12).toNat + c * (32 * 2)) % 2 ^ 32) 64 ∧
    ({ XM with core := 1 } : Ex).core % 2 = 1 ∧ ((stMx {}).core 0).mx.bound = none ∧ ((stMx {}).core 1).mx.queue = [] ∧
    mget (({ stMx {} with cores := (stMx {}).cores ++ [(1, { res := [(0, .active)] })] } : State).core 1).res 0 = some .active ∧
    ((stMx mxPair).core 0).mx.bound = some XM.gr.blk ∧
    (∀ e ∈ ((stMx mxPair).core 0).mx.queue, e.pair = true → e.who.blk ≠ XM.gr.blk) ∧
    (∀ op ∈ [MxOp.zero 0 0, mul0], ∃ e ∈ ((stMx { queue := [entry0 op none] }).core 0).mx.queue, e.who.uid = XM.gr.uid ∧
      e.who.seq < XM.seq (stMx {}).nextId) ∧
    ((entry0 (.zero 0 0) none).reading = false ∧ (entry0 mul0 none).reading = true) := by
  refine ⟨by decide, by decide, ⟨mxTurn (by decide), mxTurn (by decide)⟩, by decide, by decide, by decide, by decide, by decide,
    ⟨by decide, by decide, by decide +kernel⟩, by decide, by decide, by decide, by decide, by decide, by decide, fun op h => ?_, by decide⟩
  have k : op = .zero 0 0 ∨ op = mul0 := by simpa using h
  rcases k with rfl | rfl <;> exact ⟨_, List.mem_singleton.2 rfl, rfl, by decide⟩
/-- The head of the queue not started; and started at clk 2, at a clk in which its time has just passed and the clk before. -/
def stOp (op : MxOp) (b : Option Nat) (now : Nat) : State :=
  { stMx { queue := [entry0 op b], tiles := [(1, { elems := [(0, 5)] }), (2, { elems := [(3, 6)] })], plane := [(0x8020, 7), (0x8060, 8)] } with now := now }
theorem witness_MatrixOperationsRun :
    (∀ b, ((stOp (.zero 1 1) b 18).core 0).mx.queue = entry0 (.zero 1 1) b :: []) ∧
    ((2 : Nat) + 8 * (1 + 1) ≤ (stOp (.zero 1 1) (some 2) 18).now ∧ (stOp (.zero 1 1) (some 2) 17).now < 2 + 8 * (1 + 1)) ∧
    (((entry0 mul0 (some 2)).pair = false) ∧ ({ entry0 mul0 (some 2) with read := some 20, steps := [({}, false)] } : MxEntry).read = some 20 ∧
      20 + 24 ≤ (stOp mul0 (some 2) 44).now) ∧
    ((2 : Nat) + 1 ≤ (stOp (.commit 1 2 true) (some 2) 3).now ∧ (1 : Nat) ≠ 2) ∧
    (2 : Nat) + 8 + (64 * 2 + 2047) / 2048 ≤ (stOp (.planeZero 0x8020 64 2) (some 2) 11).now :=
  ⟨fun b => rfl, by decide, by decide, by decide, by decide⟩

/-! ### Witnesses: row slots -/

/-- A context with 16 rows from row 5 on; s4 a scratch address, s6 a row offset, s8 a row index. -/
def gRow (off : Word) : Group := withUni fun u => (((u.setS 4 0x1F00100).setS 5 0x40).setS 6 off).setS 8 15
def ctxR : Ctx := { regs := { en := true, rb := 5, rc := 16 } }
def slot0 (st : SlotState) (c : Bool) : RowSlot := { st := st, blk := 1, ctx := 0, index := 2, row := 7, since := 100, close := c }
def rowState (k : Rows) (off : Word) (now : Nat) : State :=
  { st (gRow off) (fun c => { c with rows := k, scratch := { wins := [(0, winX)], bytes := [(0x500, 9)] } }) with ctxs := [(0, ctxR)], now := now }
theorem witness_RowactOpensASlot :
    (∀ k ∈ [({} : Rows), { slots := [(3, slot0 .open_ false)], acts := [10] }], (rowState k 0 50).running = some (ex (gRow 0)) ∧
      (∀ p ∈ ((rowState k 0 50).core 0).rows.slots, p.2.ctx = 0) ∧ mget ((rowState k 0 50).core 0).rows.slots 4 = none ∧
      mget k.internal 4 = none ∧ mget k.refreshing 4 = none ∧ (rowState k 0 50).now / 4096 ≤ mgetD k.refreshed 4 ((rowState k 0 50).now / 4096 - 1) ∧
      (k.acts.filter fun a => 50 < a + 24).length < 4 ∧ (∀ a ∈ k.acts, a ≠ 50) ∧ (rowState k 0 50).bankAsked 0 4 = false) ∧
    ((gRow 0).uni.sr 8).toNat < ctxR.regs.rc ∧ ctxR.regs.rc ≤ (16 : Word).toNat := by decide
theorem witness_OpenSlot : OpenSlot (rowState { slots := [(3, slot0 .open_ false)] } 0 150) (ex (gRow 0)) 3 (slot0 .open_ false) ∧
    OpenSlot (rowState { slots := [(3, slot0 .dirty false)] } 1 150) (ex (gRow 1)) 3 (slot0 .dirty false) :=
  ⟨⟨show ∀ p ∈ _, _ by decide, by decide, by decide, by decide⟩, ⟨show ∀ p ∈ _, _ by decide, by decide, by decide, by decide⟩⟩
theorem witness_RowTransfersAreQueued :
    (64 * 1 + ((gRow 0x40).uni.sr 6).toNat) % 64 = 0 ∧ 64 * 1 + ((gRow 0x40).uni.sr 6).toNat + 256 ≤ 8192 ∧ ((gRow 0x40).uni.sr 4).toNat % 64 = 0 ∧
    Spans (rowState { slots := [(3, slot0 .open_ false)] } 0x40 150) (ex (gRow 0x40)) winX [((gRow 0x40).uni.sr 4).toNat] 256 ∧
    ((rowState { slots := [(3, slot0 .open_ false)] } 0x40 150).moveCount 0 < 16 ∧
      (rowState { slots := [(3, slot0 .open_ false)] } 0x40 150).acqBusy (ex (gRow 0x40)) = false ∧
      (rowState { slots := [(3, slot0 .open_ false)] } 0x40 150).spanBusy (ex (gRow 0x40)) 0 (0x400 + 0x100) 256 = false) ∧
    ((gRow 0x40).uni.sr 5).toNat + 256 ≤ 2 ^ 22 ∧ (64 * 1 + ((gRow 1).uni.sr 6).toNat) % 64 ≠ 0 ∧
    ((64 * 1 + ((gRow 0x1F40).uni.sr 6).toNat) % 64 = 0 ∧ 8192 < 64 * 1 + ((gRow 0x1F40).uni.sr 6).toNat + 256) :=
  ⟨by decide, by decide, by decide, ⟨by decide, by decide, by decide +kernel⟩, by decide +kernel, by decide, by decide, by decide⟩
def xfer0 (kind : XferKind) (b : Option Nat) : Xfer := { kind := kind, slot := 3, row := 7, off := 64, to_ := 0x500, len := 256, who := owner0, pc := 0, started := b }
theorem witness_RowSlotInstructions :
    (∃ r, mget ((rowState { slots := [(3, slot0 .open_ false)], xfers := [(1, xfer0 .toScratch none)] } 0 150).core 0).rows.slots 3 = some r ∧ r.blk = 1 ∧
      (r.st = .opening ∨ r.st = .closing ∨ ∃ u ∈ ((rowState { slots := [(3, slot0 .open_ false)], xfers := [(1, xfer0 .toScratch none)] } 0 150).core 0).rows.xfers,
        u.2.slot = 3 ∧ u.2.who.uid = 1 ∧ u.2.who.seq < (ex (gRow 0)).seq 2)) ∧
    (∃ r, mget ((rowState { slots := [(3, slot0 .opening false)] } 0 150).core 0).rows.slots 3 = some r ∧ r.blk = 1 ∧ r.st = .opening) ∧
    (ex (gRow 0)).sp.half = 0 ∧ (8 : Word).getLsbD 3 = true :=
  ⟨⟨slot0 .open_ false, by decide, by decide, .inr (.inr ⟨(1, xfer0 .toScratch none), by decide, by decide⟩)⟩, ⟨slot0 .opening false, by decide⟩, by decide, by decide⟩
theorem witness_RowSlotsInTime :
    (∀ p ∈ [(SlotState.opening, 120), (.opening, 119)], mget ((rowState { slots := [(3, slot0 p.1 false)] } 0 p.2).core 0).rows.slots 3 = some (slot0 p.1 false) ∧
      ((slot0 p.1 false).since + 20 ≤ p.2 ↔ p.2 = 120)) ∧
    (∀ p ∈ [(SlotState.open_, 140), (.dirty, 139)], (rowState { slots := [(3, slot0 p.1 true)] } 0 p.2).moving 0 3 = false ∧
      (rowState { slots := [(3, slot0 p.1 true)] } 0 p.2).beforeClose 0 3 (slot0 p.1 true) = false ∧
      ((slot0 p.1 true).since + 40 ≤ p.2 ↔ p.2 = 140)) ∧
    (slot0 .closing false).since + 20 ≤ 120 ∧ (slot0 .open_ false).since + 8192 ≤ 8292 ∧ 8291 < (slot0 .dirty false).since + 8192 ∧
    (let k := ((rowState {} 0 8192).core 0).rows;
      mget k.slots 3 = none ∧ mget k.internal 3 = none ∧ mgetD k.refreshed 3 (8192 / 4096 - 1) < 8192 / 4096 ∧ mget k.refreshing 3 = none) ∧
    (let k := ((rowState {} 0 4095).core 0).rows;
      4095 / 4096 ≤ mgetD k.refreshed 3 (4095 / 4096 - 1)) := by decide
/-- A load of class R of core 0, bank 3, row 7, and a store. -/
def reqR (op : ReqOp) (cls : Nat) : Req := { req op cls .out with pa := 3 * 2 ^ 25 + 7 * 2 ^ 13 + 64, data := 0x1122334455 }
def rowReq (op : ReqOp) (cls : Nat) (k : Rows) : State := { rowState k 0 150 with fly := { reqs := [(1, reqR op cls)] } }
theorem witness_RowTargets :
    (∀ op ∈ [ReqOp.ld 4 8 false false false false, .st false false], mget (rowReq op 3 { slots := [(3, slot0 .open_ false)] }).fly.reqs 1 = some (reqR op 3) ∧
      (reqR op 3).phase = .out ∧ rowCore (reqR op 3).pa = 0 ∧ rowBank (reqR op 3).pa = 3 ∧ rowRow (reqR op 3).pa = 7 ∧
      (rowReq op 3 { slots := [(3, slot0 .open_ false)] }).lostLink (reqR op 3).pa = false ∧
      (rowReq op 3 { slots := [(3, slot0 .open_ false)] }).lineMoving 1 (reqR op 3) = false ∧ (slot0 .open_ false).row = 7 ∧
      (rowReq op 3 { slots := [(3, slot0 .open_ false)] }).toRow (reqR op 3) = true ∧
      (∀ b, (rowReq op 3 { slots := [(3, slot0 .open_ false)] }).rowTurn 1 (reqR op 3) b = true) ∧
      (rowReq op 3 {}).toBank 0 3 (reqR op 3) = true ∧
      mget ((rowReq op 3 { internal := [(3, ⟨7, 100, none, true⟩)] }).core 0).rows.internal 3 = some ⟨7, 100, none, true⟩ ∧
      (∀ cls ∈ [2, 3], (rowReq op cls {}).toRow { reqR op cls with pa := 0x2000010000 } = false)) ∧
    (∀ a ∈ ({} : Rows).acts, a ≠ 150) ∧ mget ((rowReq .sfill 3 {}).core 0).rows.internal 3 = none := by decide +kernel
/-- A slot that a resume brings back. -/
def saved0 : SavedSlot := ⟨3, .open_, 1, 2, 7, false⟩
theorem witness_RowReactivation :
    ((rowState { reopen := [saved0] } 0 150).core 0).rows.reopen = [saved0] ∧ saved0.slot = 3 ∧ saved0.st = .open_ ∧
    mget (rowState { reopen := [saved0] } 0 150).blocks saved0.blk = some b0 ∧ ((rowState { reopen := [saved0] } 0 150).core 0).rows.slots = [] := by decide
/-- A transfer not started, and one that has been for 9 clk. -/
def stXfer (kind : XferKind) (b : Option Nat) (now : Nat) : State := rowState { slots := [(3, slot0 .dirty false)], xfers := [(1, xfer0 kind b)] } 0 now
theorem witness_RowTransfers :
    (∀ p ∈ [(XferKind.toPlane, none, 150), (.fromScratch, some 150, 159), (.fromScratch, some 150, 158)],
      mget ((stXfer p.1 p.2.1 p.2.2).core 0).rows.xfers 1 = some (xfer0 p.1 p.2.1) ∧ Map.sorted (stXfer p.1 p.2.1 p.2.2).cores = true ∧
      (∀ q ∈ ((stXfer p.1 p.2.1 p.2.2).core 0).rows.xfers, ¬ q.1 < 1) ∧ (stXfer p.1 p.2.1 p.2.2).mxBefore 0 3 1 = false ∧
      (stXfer p.1 p.2.1 p.2.2).rowAsked 0 1 (xfer0 p.1 p.2.1) = false ∧
      (∀ q ∈ ((stXfer p.1 p.2.1 p.2.2).core 0).scratch.wins, q.2.maps = []) ∧ (stXfer p.1 p.2.1 p.2.2).fly.reqs = []) ∧
    (150 + 8 + (256 + 255) / 256 ≤ 159 ∧ 158 < 150 + 8 + (256 + 255) / 256) ∧
    (∀ c, c ≠ 0 → mget ((stXfer .toPlane none 150).core c).rows.xfers 1 = none) := by
  refine ⟨by decide, by decide, fun c hc => ?_⟩
  simp [stXfer, rowState, st, State.core, mgetD, mget, hc]

/-! ### Witnesses: scratch mappings -/

/-- s4 a scratch address, s6:s7 a global address, s8 an owner range, s10 a count. -/
def gMap (a : Word) : Group := withUni fun u => (((u.setS 4 a).setPair 6 0x40).setS 8 0x1F00100).setS 10 2
def winS (m : Map SMapping) : Window := ⟨1, 0x400, 0x1000, m⟩
def rwMap : SMapping := ⟨.rw, 0x200, 0x80, 0x1000⟩
def roMap : SMapping := ⟨.ro, 0x200, 0x100, 0x1000⟩
def stMap (a : Word) (m : Map SMapping) (words : Map MWord) : State :=
  st (gMap a) fun k => { k with scratch := { wins := [(2, winS m)], words := words, bytes := [(0x600, 7), (0x690, 8)] } }
theorem ownWindow {s : State} {x : Ex} {i : Nat} {w : Window} (h : (s.core x.core).scratch.wins = [(i, w)] ∧ w.blk = x.gr.blk ∧ s.fly.touches = [] ∧
    s.fly.fills = [] ∧ (s.core x.core).scratch.halo = []) : OwnWindow s x i w := ⟨h.1, h.2.1, h.2.2.1, h.2.2.2.1, h.2.2.2.2⟩
theorem witness_MappingsAreMadeAndRemoved :
    ((stMap 0x1F00000 [(3, rwMap)] []).running = some (ex (gMap 0x1F00000)) ∧
      OwnWindow (stMap 0x1F00000 [(3, rwMap)] []) (ex (gMap 0x1F00000)) 2 (winS [(3, rwMap)])) ∧
    (InOwn ((gMap 0x1F00000).uni.sr 4).toNat 1 0 (winS [(3, rwMap)]) ∧ InOwn ((gMap 0x1F00280).uni.sr 4).toNat 1 0x280 (winS [(3, rwMap)]) ∧
      InOwn ((gMap 0x1F00001).uni.sr 4).toNat 1 1 (winS [(3, rwMap)])) ∧
    (mget (winS [(3, rwMap)]).maps 5 = none ∧ 0x280 + 0x40 ≤ (winS []).len ∧
      (∀ m ∈ (winS [(3, rwMap)]).maps, ¬(m.2.s < 0x280 + 0x40 ∧ 0x280 < m.2.s + m.2.n)) ∧
      (∀ m ∈ (winS [(3, rwMap)]).maps, ¬(m.2.s < 0 + 0x200 ∧ 0 < m.2.s + m.2.n))) ∧
    (((gMap 0).uni.pair 6).toNat % 64 = 0 ∧ canonical ((gMap 0).uni.pair 6) = true) ∧
    (((gMap 0).uni.sr 8).toNat / 2 ^ 20 = 31 ∧ ((gMap 0).uni.sr 8).toNat % 2 ^ 20 + 0x200 ≤ (winS []).len ∧
      ((winS []).off + ((gMap 0).uni.sr 8).toNat) % 64 = 0) ∧ mget (winS [(3, rwMap)]).maps 3 = some rwMap := by
  refine ⟨⟨by decide, ownWindow (by decide)⟩, ⟨⟨by decide, by decide, by decide⟩, ⟨by decide, by decide, by decide⟩, ⟨by decide, by decide, by decide⟩⟩, ?_⟩
  decide
theorem witness_MappedRangesAreMaintained :
    (OwnWindow (stMap 0x1F00000 [] []) (ex (gMap 0x1F00000)) 2 (winS []) ∧ Idle (stMap 0x1F00000 [] []) (ex (gMap 0x1F00000)) ∧
      InOwn ((gMap 0x1F00000).uni.sr 4).toNat 0x1000 0 (winS []) ∧ (SSrc.val (.lit 0x1000) (gMap 0).uni).toNat ≠ 0 ∧ SSrc.val (.lit 0) (gMap 0).uni = 0) ∧
    (let s := stMap 0x1F00200 [(3, rwMap)] [(0x180, ⟨.clean, none, false, 0⟩), (0x181, ⟨.dirty, none, false, 0⟩)];
      InOwn ((gMap 0x1F00200).uni.sr 4).toNat 0x80 0x200 (winS [(3, rwMap)]) ∧ mget (s.core 0).scratch.words 0x180 = some ⟨.clean, none, false, 0⟩ ∧
      mget (s.core 0).scratch.words 0x181 = some ⟨.dirty, none, false, 0⟩ ∧ (s.mapAt 0 (4 * 0x180)).isSome = true ∧ (s.mapAt 0 (4 * 0x181)).isSome = true) ∧
    (mget (winS [(3, roMap)]).maps 3 = some roMap ∧ roMap.kind = .ro ∧ ((gMap 0x1F00000).uni.sr 4).toNat % 4 = 0 ∧
      ((gMap 0).uni.sr 10).toNat * (64 * 1) ≤ roMap.n ∧ ((winS []).off + roMap.s) % 4 = 0) :=
  ⟨⟨ownWindow (by decide), idle (by decide), ⟨by decide, by decide, by decide⟩, by decide, by decide⟩,
    ⟨⟨by decide, by decide, by decide⟩, by decide, by decide, by decide, by decide⟩, by decide⟩

/-! ### Witnesses: engines, queues and messages -/

/-- Mailbox 2 of the cluster, of size 2^k, with values in it. -/
def gCard (w0 : Word) : Group := withUni fun u => (u.setS 16 w0).setPair 4 0x1234
def stMail (k : Nat) (l : List Mail) : State :=
  { st (gCard 3) with ctxs := [(0, { regs := { en := true }, mbx := [(2, { log := k })] })], clusters := [(0, { mail := mput [] [] 2 l })] }
theorem witness_MailboxesPassValues :
    (stMail 0 []).running = some (ex (gCard 3)) ∧ (stMail 1 [⟨5, 9⟩]).fly = {} ∧ (stMail 0 []).mailLog (ex (gCard 3)) 2 = 0 ∧
    ((stMail 1 [⟨5, 9⟩]).mailLog (ex (gCard 3)) 2 ≠ 0 ∧ ((stMail 1 [⟨5, 9⟩]).mail (ex (gCard 3)) 2).length < 2 ^ (stMail 1 [⟨5, 9⟩]).mailLog (ex (gCard 3)) 2 ∧
      (stMail 1 [⟨5, 9⟩]).mail (ex (gCard 3)) 2 = ⟨5, 9⟩ :: []) ∧
    2 ^ (stMail 1 [⟨5, 9⟩, ⟨6, 9⟩]).mailLog (ex (gCard 3)) 2 ≤ ((stMail 1 [⟨5, 9⟩, ⟨6, 9⟩]).mail (ex (gCard 3)) 2).length ∧
    (stMail 1 []).mail (ex (gCard 3)) 2 = [] := by decide
/-- A FILL card: rows of 8 bytes at a stride of 16 from address 0x40, with value 0xABCD. -/
def fillCard (w0 rows : Nat) : List Word := [toW w0, 0, 0, 0, 0, 0, 0x40, 0, 8, toW rows, 0, 16, 0xABCD, 0, 0, 0]
def job0 (w0 rows : Nat) (st : JobSt) : Job := { cluster := 0, caraway := false, card := fillCard w0 rows, who := owner0, st := st }
def stJobs (l : Map Job) : State :=
  { st (gCard 0x103) withTlb with clusters := [(0, { l2tlb := [⟨0, 0, pteD⟩] })], fly := { jobs := l } }
theorem witness_CardsAndCompletionRecords :
    (stJobs []).fly = {} ∧ ((gCard 0x103).uni.sr 16).toNat.testBit 8 = true ∧
    (((stJobs []).fly.jobs.filter fun p => decide (p.2.cluster = 0)).length < 128 ∧ (stJobs []).unpopped (ex (gCard 0x103)) false < 16) ∧
    128 ≤ ((stJobs ((List.range 128).map fun i => (i, job0 3 1 .queued))).fly.jobs.filter fun p => decide (p.2.cluster = 0)).length ∧
    (let s := stJobs ((List.range 16).map fun i => (i, job0 0x103 1 .queued));
      16 ≤ s.unpopped (ex (gCard 0x103)) false ∧ (s.fly.jobs.filter fun p => decide (p.2.cluster = 0)).length < 128) ∧
    ({ stJobs [] with clusters := [(0, { comps := [⟨0, 0, 0, false, 77, 9⟩] })] } : State).recordsOf (ex (gCard 0x103)) false = ⟨0, 0, 0, false, 77, 9⟩ :: [] := by
  decide +kernel
theorem idle_jobs {l : Map Job} : Idle (stJobs l) (ex (gCard 0x103)) := by
  refine ⟨?_, ?_, ?_, ?_, ?_, ?_, rfl, ?_, rfl, by decide⟩ <;> simp [stJobs, st, State.core, mgetD, mget, withTlb, k0, ex]
theorem witness_CardsWaitForTheirEdges :
    (∀ w ∈ [0x103, 0x100], mget (stJobs [(1, job0 3 2 .queued), (2, job0 w 2 .entering)]).fly.jobs 2 = some (job0 w 2 .entering) ∧
      Map.sorted (stJobs [(1, job0 3 2 .queued), (2, job0 w 2 .entering)]).fly.jobs = true ∧ (job0 w 2 .entering).malformed = (w == 0x100) ∧
      (cardWord (job0 w 2 .entering) 0).testBit 9 = false) ∧
    (job0 0x103 2 .entering).edgeTo (job0 3 2 .queued) = true ∧
    (∀ p ∈ (stJobs [(1, job0 3 2 .queued), (2, job0 3 2 .entering)]).fly.jobs, p.1 < 2 → p.2.cluster = 0 → p.2.st ≠ .entering) ∧
    ((job0 3 2 .queued).edges = [] ∧ (cardWord (job0 3 2 .queued) 0).testBit 10 = false ∧
      ((stJobs [(1, job0 3 2 .queued)]).fly.jobs.filter fun p => decide (p.2.cluster = 0 ∧ p.2.caraway = false) && p.2.st == .running).length < 8) := by
  decide
theorem witness_FillJobsComplete :
    mget (stJobs [(1, job0 0x103 2 .running)]).fly.jobs 1 = some (job0 0x103 2 .running) ∧ (job0 0x103 2 .running).malformed = false ∧
    cardWord (job0 0x103 2 .running) 0 % 2 ^ 8 = 3 ∧ (cardWord (job0 0x103 2 .running) 0).testBit 9 = false ∧
    (cardWord (job0 0x103 2 .running) 0).testBit 11 = false ∧ (0 < cardWord (job0 0x103 2 .running) 9 ∧ 0 < cardWord (job0 0x103 2 .running) 8 / 4) ∧
    (∀ r, r < 2 → ∀ i, i < 2 →
      (((stJobs [(1, job0 0x103 2 .running)]).cluster 0).l2tlb.find? fun t => t.serves 0 (0x40 + r * 16 + 4 * i)).map TlbEntry.pte = some pteD ∧
      (stJobs [(1, job0 0x103 2 .running)]).pteCause pteD (0x40 + r * 16 + 4 * i) { write := true } = none ∧ pteClass pteD = 0) ∧
    AtHome (stJobs [(1, job0 0x103 2 .running)]) 0x2000010040 ∧
    (∀ c ∈ (stJobs [(1, job0 0x103 2 .running)]).cores, ∀ p ∈ c.2.scratch.wins, p.2.maps = []) :=
  ⟨by decide, by decide, by decide, by decide, by decide, by decide, by decide +kernel, atHome (by decide +kernel), by decide⟩
/-- s4 a destination or a mask, s5 a tag and a length, s8 the source. -/
def gSend (dest len : Nat) : Group := withUni fun u => ((u.setS 4 (toW dest)).setS 5 (toW (0x70000 + len))).setS 8 0x1F00100
def stSend (dest len : Nat) : State := st (gSend dest len) (withMx {})
theorem witness_MessagesAreSent :
    (stSend 5 4).running = some (ex (gSend 5 4)) ∧ Idle (stSend 5 4) (ex (gSend 5 4)) ∧
    (∀ n ∈ [4, 256], ((gSend 5 n).uni.sr 5).toNat % 2 ^ 16 = n ∧ Spans (stSend 5 n) (ex (gSend 5 n)) winX [((gSend 5 n).uni.sr 8).toNat] n) ∧
    (∀ m ∈ [0, 191], m < 512 ∧ m % 256 < 192 ∧ m / 256 ≠ 1 ∧ m / 256 = (stSend m 4).dev.pkg) ∧
    (∀ m ∈ [0x3000000, 0x3000001, 0x3FFFFFF], m < 2 ^ 28 ∧ m / 2 ^ 27 ≠ 1 ∧ m / 2 ^ 27 = (stSend m 4).dev.pkg) ∧
    (512 ≤ 512 ∧ 192 ≤ 448 % 256 ∧ 256 / 256 = 1 ∧ (stSend 256 4).dev.pair = 0 ∧ 2 ^ 28 ≤ 0x10000000 ∧ 0x8000000 / 2 ^ 27 = 1) ∧
    ((0 : Nat) < 4 ∧ 256 < 260 ∧ 6 % 4 ≠ 0) := by
  refine ⟨by decide, idle (by decide), fun n hn => ?_, by decide, by decide, by decide, by decide⟩
  have k : n = 4 ∨ n = 256 := by simpa using hn
  rcases k with rfl | rfl <;> exact ⟨by decide, by decide, by decide, by decide +kernel⟩
/-- A message of 8 bytes on port 1 with tag 7, on its way to core 0; receives that match it and that do not. -/
def msg0 (p : Nat) : Msg := { port := p, tag := 7, payload := [1, 2, 3, 4, 5, 6, 7, 8], poison := List.replicate 2 false, ctx := 0, src := 3, pts := 20 }
def flight0 (nb : Bool) (rest : List Nat) : MsgFlight := { who := owner0, msg := msg0 1, dests := 0 :: rest, nb := nb, cd := 2 }
def recv0 (port cap : Nat) (m : Option Msg) : Recv :=
  { ctx := 0, uid := 1, slot := 0, blk := 1, buf := 0x600, rtag := 7, rmask := 0xFFFF, cap := cap, port := port, filter := 0x80000000, matched := m, order := 1 }
def gWaits : Group := withSplit fun sp => { sp with st := .wait (.msg 1) }
def stMsg (nb : Bool) (rest : List Nat) (rs : Map Recv) (n : Nat) : State :=
  { st gWaits (fun k => { withMx {} k with msgs := { recvs := rs, overflow := List.replicate n (msg0 2) } }) with fly := { sends := [(1, flight0 nb rest)] } }
theorem witness_MessagesArrive :
    (∀ nb, ∀ rest ∈ [[], [5]], mget (stMsg nb rest [] 0).fly.sends 1 = some (flight0 nb rest) ∧ Map.sorted (stMsg nb rest [] 0).fly.sends = true ∧
      (flight0 nb rest).dests = 0 :: rest ∧ (0 : Nat) / 256 = (stMsg nb rest [] 0).dev.pkg ∧
      (∀ p ∈ (stMsg nb rest [] 0).fly.sends, p.2.who.uid = 1 → p.2.who.seq < owner0.seq → 0 ∉ p.2.dests) ∧
      (stMsg nb rest [] 0).exAt 0 0 0 = some (ex gWaits) ∧ (∀ e ∈ gWaits.splits, e.2.latch = none)) ∧
    Matches (recv0 1 4 none) (msg0 1) ∧ ¬Matches (recv0 2 4 none) (msg0 1) ∧
    (let s := stMsg false [] [(0, recv0 2 4 none), (9, recv0 1 4 none)] 64;
      mget (s.core 0).res 0 = some .active ∧ Map.sorted (s.core 0).msgs.recvs = true ∧ mget (s.core 0).msgs.recvs 9 = some (recv0 1 4 none) ∧
      s.fly.touches = [] ∧ (s.core 0).scratch.halo = [] ∧ (recv0 1 4 none).buf / 2 ^ 20 = 0 ∧
      (∃ p ∈ (s.core 0).scratch.wins, p.2.off % 4 = 0 ∧ p.2.off ≤ (recv0 1 4 none).buf % 2 ^ 20 ∧
        (recv0 1 4 none).buf % 2 ^ 20 + (recv0 1 4 none).cap ≤ p.2.off + p.2.len) ∧
      (∀ p ∈ (s.core 0).scratch.wins, p.2.maps = [] ∧ s.blkIn p.2.blk 0 = true)) ∧
    (((stMsg true [] [] 63).core 0).msgs.overflow.length < 64 ∧ 64 ≤ ((stMsg true [] [] 64).core 0).msgs.overflow.length) := by
  refine ⟨by decide, by unfold Matches; decide, by unfold Matches; decide, ?_, by decide⟩
  decide +kernel
/-- s4 to s7 a descriptor: buffer, tag and mask, capacity and port, filter; or a handle. -/
def gRecv (w2 w3 : Nat) : Group := withUni fun u => (((u.setS 4 0x1F00200).setS 5 0x7FFFF).setS 6 (toW w2)).setS 7 (toW w3)
def stRecv (rs : Map Recv) (ov : List Msg) (w2 w3 : Nat) : State :=
  st (gRecv w2 w3) fun k => { withMx {} k with msgs := { recvs := rs, overflow := ov } }
theorem witness_PostedReceives :
    ((stRecv [] [] 0x100001 0x80000000).running = some (ex (gRecv 0x100001 0x80000000)) ∧
      Spans (stRecv [] [] 0x100001 0x80000000) (ex (gRecv 0x100001 0x80000000)) winX [((gRecv 0 0).uni.sr 4).toNat] 16) ∧
    (∀ p ∈ [(0x40001, 0x80000000), (0x1000007, 0x1FF)], 4 ≤ p.1 / 2 ^ 16 ∧ p.1 / 2 ^ 16 ≤ 256 ∧ p.1 / 2 ^ 16 % 4 = 0 ∧ p.1 / 8 % 2 ^ 13 = 0 ∧ p.2 / 2 ^ 9 % 2 ^ 22 = 0) ∧
    (∀ p ∈ [(0x1, 0), (0x1040000, 0), (0x50001, 0), (0x40008, 0), (0x40001, 0x200)],
      ¬(4 ≤ p.1 / 2 ^ 16 ∧ p.1 / 2 ^ 16 ≤ 256 ∧ p.1 / 2 ^ 16 % 4 = 0 ∧ p.1 / 8 % 2 ^ 13 = 0 ∧ p.2 / 2 ^ 9 % 2 ^ 22 = 0)) ∧
    (∀ n, n < 64 → (mget ((List.range 64).map fun i => (i, recv0 1 4 none)) n).isSome = true) ∧
    (mget [(0, recv0 1 4 none)] 1 = none ∧ ∀ i, i < 1 → (mget [(0, recv0 1 4 none)] i).isSome = true) ∧
    (let s := stRecv [] [msg0 2, msg0 1] 0x100001 0x80000000;
      (¬Matches (posted s (ex (gRecv 0x100001 0x80000000)) ⟨16, 4⟩ winX) (msg0 2)) ∧ Matches (posted s (ex (gRecv 0x100001 0x80000000)) ⟨16, 4⟩ winX) (msg0 1) ∧
      (s.core 0).msgs.overflow = [msg0 2] ++ msg0 1 :: [] ∧ s.fly.touches = []) ∧
    ((recv0 1 8 (some (msg0 1))).uid = g0.uid ∧ (msg0 1).payload.length ≤ (recv0 1 8 (some (msg0 1))).cap ∧
      (recv0 1 4 (some (msg0 1))).cap < (msg0 1).payload.length ∧ (recv0 1 4 (some (msg0 1))).told = false ∧ (recv0 1 4 none).matched = none) :=
  ⟨⟨by decide, by decide, by decide, by decide +kernel⟩, by decide, by decide, by decide +kernel, by decide, by unfold Matches; decide +kernel, by decide⟩

/-! ### Witnesses: contexts on cores, and the host -/

/-- Context 0 stands on core 0 in a state; the device registers and the core are changed further. -/
def stRes (l : Map Residence) (k : Core → Core := id) (f : State → State := id) : State := st g0 (fun c => k { c with res := l }) f
theorem witness_CommandsActOnContexts :
    (let s := stRes [(3, .active)];
      (s.dev.boot ≠ 3 ∧ s.dev.busy = false ∧ (s.ctx 0).regs.en = true) ∧ (∀ p ∈ (s.core 0).res, p.2 ≠ .shadow ∧ p.2 ≠ .draining ∧ p.2 ≠ .loading) ∧
      mget (s.core 0).res 0 = none ∧ Map.sorted s.cores = true ∧ s.dev.darg1 = 0 ∧ (s.ctx 9).regs.en = false) ∧
    (let s := stRes [(0, .saved)] (fun k => { k with resume := [1, 2, 3, 4, 5, 6, 7] }); mget (s.core 0).res 0 = some .saved ∧ (s.core 0).resume.length < 8) := by
  decide
theorem witness_Resumes : ∀ c, mget ((stRes [(0, .saved)]).core c).res 0 = some .saved → ((stRes [(0, .saved)]).core c).resume.length < 8 := by
  intro c _
  by_cases hc : c = 0 <;> simp [stRes, st, State.core, mgetD, mget, hc, k0]
theorem witness_SwitchesAreTaken :
    let s := stRes [(0, .active), (1, .shadow)] (fun k => { k with switch := true }) fun s => { s with dev := { s.dev with busy := true, pending := some 0 } }
    (s.core 0).switch = true ∧ Map.sorted (s.core 0).res = true ∧ (∀ p ∈ (s.core 0).res, (p.2 = .active → p.1 = 0) ∧ (p.2 = .shadow → p.1 = 1)) ∧
    (∀ p ∈ (s.core 0).res, p.2 ≠ .draining ∧ p.2 ≠ .loading) ∧ (s.core (0 / 2 * 2)).mx.bound = none ∧
    s.savedBound (0 / 2 * 2) .shadow = none ∧ s.dev.pending = some 0 := by decide
def stDrain : State := stRes [(0, .draining)] (fun k => { withMx {} k with res := [(0, .draining)] }) fun s => { s with run := none }
theorem witness_DrainsSaveContexts :
    mget (stDrain.core 0).res 0 = some .draining ∧ Map.sorted (stDrain.core 0).res = true ∧ (∀ p ∈ (stDrain.core 0).res, p.2 = .draining → p.1 = 0) ∧
    stDrain.drainEnded 0 0 = true ∧ Map.sorted (stDrain.core 0).groups = true ∧ stDrain.group 0 0 = some g0 ∧
    (let s := stRes [(0, .draining)] (fun k => { k with res := [(0, .draining)], groups := [], drained := 2 ^ 30 }) fun s => { s with run := none };
      s.drainEnded 0 0 = true ∧ (s.core 0).groups = [] ∧ s.winsOf 0 0 = [] ∧ (s.core 0).left + s.toLeave 0 0 ≤ (s.core 0).drained ∧
      (∀ b ∈ [none, some 1], ({ s with cores := s.cores.map fun c => (c.1, { c.2 with mx := { bound := b } }) } : State).drainEnded 0 0 = true)) := by
  decide +kernel
def image0 : Saved := { groups := [(0, g0)], blocks := [1], pts := 77, wins := [(0, winX)] }
def stLoad (r : Residence) : State :=
  { stRes [(0, r)] (fun k => { k with groups := [], saved := [(0, image0)], resume := if r = .saved then [0, 4] else [] }) with run := none, now := 1000 }
theorem witness_LoadsReturnContexts :
    (((stLoad .saved).core 0).resume = 0 :: [4] ∧ mget ((stLoad .saved).core 0).res 0 = some .saved ∧ (stLoad .saved).dev.loads = none ∧
      ∀ p ∈ ((stLoad .saved).core 0).res, p.2 ≠ .shadow ∧ p.2 ≠ .draining ∧ p.2 ≠ .loading) ∧
    (mget ((stLoad .loading).core 0).res 0 = some .loading ∧ (∀ p ∈ ((stLoad .loading).core 0).res, p.2 = .loading → p.1 = 0) ∧
      ((stLoad .loading).ctx 0).faults = [] ∧ mget ((stLoad .loading).core 0).saved 0 = some image0 ∧ (stLoad .loading).hasRoom 0 image0 = true ∧
      Map.sorted image0.groups = true ∧ image0.part = ((stLoad .loading).core 0).part ∧
      ((stLoad .loading).core 0).loadAt + ((stLoad .loading).imageBytes image0 + 1023) / 1024 ≤ (stLoad .loading).now) := by decide +kernel
def stFaulted (f : List CtxFault) (killing : Bool) : State := { st g0 with ctxs := [(0, { ctxQ 1 with faults := f, killing := killing })] }
theorem witness_FaultedContextsAreKilled :
    ((stFaulted [⟨0x14, 0, 0, 0, 0, 0⟩] false).ctx 0).faults = ⟨0x14, 0, 0, 0, 0, 0⟩ :: [] ∧ ((stFaulted [] true).ctx 0).faults = [] ∧
    ((stFaulted [] true).ctx 0).killing = true ∧ (∀ r ∈ (stFaulted [] true).fly.reqs, r.2.who.ctx ≠ 0) ∧
    (∀ c ∈ (stFaulted [] true).cores, ∀ r ∈ c.2.rows.slots, r.2.ctx ≠ 0) := by decide
/-- A launch ring of 4 slots with head 2^32 − 1 and tail 0, and a fault that waits for token 9. -/
def stBell (p : Option Parked) : State :=
  { st { g0 with splits := [(0, { sp0 with st := .wait (.replay 9) })] } with
    ctxs := [(0, { regs := { en := true }, rings := { lqlog := 2, lqhead := 0xFFFFFFFF, lqtail := 0 }, parked := match p with | some q => [(9, q)] | none => [] })]
    rays := [(5, ray0 (.parked (some 9)))]
    fly := { jobs := [(6, job0 3 1 (.parked 9))] } }
theorem witness_DoorbellsTakeEffect :
    (let r := ((stBell none).ctx 0).rings; let ahead := fun t => (t + 2 ^ 32 - r.lqhead) % 2 ^ 32;
      r.lqhead < 2 ^ 32 ∧ (ahead r.lqtail ≤ ahead 3 ∧ ahead 3 ≤ 2 ^ r.lqlog) ∧ (2 ^ r.lqlog < ahead 4) ∧ ahead 0xFFFFFFFF < ahead r.lqtail) ∧
    ((stBell none).ctx 0).held = [] ∧ mget ((stBell none).ctx 0).parked 9 = none ∧
    mget ((stBell (some (.split 0 0 1 0))).ctx 0).parked 9 = some (.split 0 0 1 0) ∧ (∃ g, (stBell (some (.split 0 0 1 0))).group 0 0 = some g ∧ g.uid = 1) ∧
    mget ((stBell (some (.ray 5))).ctx 0).parked 9 = some (.ray 5) ∧ mget (stBell (some (.ray 5))).rays (rayKey 0 5) = some (ray0 (.parked (some 9))) ∧
    mget ((stBell (some (.job 6))).ctx 0).parked 9 = some (.job 6) ∧ mget (stBell (some (.job 6))).fly.jobs 6 = some (job0 3 1 (.parked 9)) :=
  ⟨by decide, by decide, by decide, by decide, ⟨{ g0 with splits := [(0, { sp0 with st := .wait (.replay 9) })] }, by decide, by decide⟩, by decide, by decide, by decide, by decide⟩
theorem witness_RegisterWrites :
    (st g0).heldBy 0 = true ∧ (stRes [] (fun k => { k with groups := [] })).heldBy 0 = false ∧ (st g0).dev.boot ≠ 3 ∧ (0x100000 + 0x1000 * 63 + 0x38) % 8 = 0 := by decide
def stB2 : State := st g0 id fun s => { s with dev := { s.dev with b2off := 0x2012345678 }, mem := { bytes := [(0x2000000045, 9)] } }
theorem witness_Bar2AccessesMemory : GddrAt stB2 0x40 8 0x2000000040 ∧ (∀ i, i < 8 → mgetD stB2.mem.poison ((0x2000000040 + i) / 4) false = false) :=
  ⟨⟨by decide, by decide, by decide, by decide, by decide, by decide, atHome (by decide +kernel)⟩, by decide⟩
theorem witness_ResetBootAndPair :
    (st g0).dev.boot ≤ 1 ∧ (st g0).dev.pair ≤ 1 ∧ ({ st g0 with dev := { pair := 2 } } : State).dev.errcnt = [0, 0, 0] ∧
    (∀ c ∈ ({ st g0 with dev := { pair := 1 }, ctxs := [(4, {})] } : State).ctxs, c.2.regs.en = false) ∧
    ({ stBell none with dev := { pair := 2 } } : State).dev.pair = 2 := by decide
theorem witness_TimesWrap :
    (∃ l ∈ ({ st g0 with mem := { lines := [(0x2000010000, { rts := 2 ^ 48 - 2 ^ 20 })] } } : State).mem.lines, 2 ^ 48 - 2 ^ 20 ≤ l.2.rts) ∧
    (∃ l ∈ ({ st g0 with mem := { slices := [(3, { mts := 2 ^ 48 })] } } : State).mem.slices, 2 ^ 48 - 2 ^ 20 ≤ l.2.mts) ∧
    (∃ r ∈ (stReq { req (.st false false) 1 .out with pts := 2 ^ 48 }).fly.reqs, r.2.cls = 1 ∧ r.2.phase = .out ∧ r.2.op.reads = false ∧
      2 ^ 48 - 2 ^ 20 < max r.2.pts (((stReq (req (.st false false) 1 .out)).sline r.2.pa).rts + 1)) ∧
    (st g0).fly.touches = [] ∧ (st g0).timesFull = false :=
  ⟨⟨_, List.mem_singleton.2 rfl, by decide⟩, ⟨_, List.mem_singleton.2 rfl, by decide⟩, ⟨_, List.mem_singleton.2 rfl, by decide⟩, by decide, by decide⟩
/-- An error in a word of scratch, and one in a word that no block has. -/
def flaw0 (off : Nat) (k : FlawKind) : Flaw := { at_ := .pool 0 off, kind := k }
def stFlaw (off : Nat) (k : FlawKind) : State := { stScr 0x1F00000 with turns := [.flaw (flaw0 off k)] }
theorem witness_ErrorsAreCounted : (∀ k ∈ [FlawKind.corrected, .transient, .lasting],
    (stFlaw 0x100 k).turns = .flaw (flaw0 0x100 k) :: [] ∧ (stFlaw 0x100 k).dev.errcnt = [0, 0, 0] ∧ (stFlaw 0x100 k).flawHere (flaw0 0x100 k).at_ = true ∧
    ((stFlaw 0x100 k).core 0).scratch.words = [] ∧ (stFlaw 0x100 k).fly.touches = [] ∧
    (stFlaw (2 ^ 20) k).flawHere (flaw0 (2 ^ 20) k).at_ = false) := by decide

/-! ### Words written out from the encodings (spec 03 R50 to R66, each entry) -/

/-- Two words decode to an instruction. -/
noncomputable def reads (w0 w1 : Nat) (i : Instr) : Bool := decode (BitVec.ofNat 32 w0) (BitVec.ofNat 32 w1) == .ok i
theorem words_iadd_to_lea3 : (
    reads 0x0157240B 0xFFFFFFFF (.iadd ⟨21, 14, .reg 9, ⟨5, true⟩⟩) &&
    reads 0x0157242B 0xFFFFFFFF (.isub ⟨21, 14, .reg 9, ⟨5, true⟩⟩) &&
    reads 0x0157244B 0xFFFFFFFF (.iaddSat ⟨21, 14, .reg 9, ⟨5, true⟩⟩) &&
    reads 0x0157246B 0xFFFFFFFF (.isubSat ⟨21, 14, .reg 9, ⟨5, true⟩⟩) &&
    reads 0x0157248B 0xFFFFFFFF (.iminI ⟨21, 14, .reg 9, ⟨5, true⟩⟩) &&
    reads 0x015724AB 0xFFFFFFFF (.imaxI ⟨21, 14, .reg 9, ⟨5, true⟩⟩) &&
    reads 0x015724CB 0xFFFFFFFF (.iminN ⟨21, 14, .reg 9, ⟨5, true⟩⟩) &&
    reads 0x015724EB 0xFFFFFFFF (.imaxN ⟨21, 14, .reg 9, ⟨5, true⟩⟩) &&
    reads 0x0157010B 0xFFFFFFFF (.iabs ⟨21, 14, ⟨5, true⟩⟩) &&
    reads 0x0157012B 0xFFFFFFFF (.ineg ⟨21, 14, ⟨5, true⟩⟩) &&
    reads 0x0157254B 0xFFFFFFFF (.idiff ⟨21, 14, .reg 9, ⟨5, true⟩⟩) &&
    reads 0x010C216B 0xFFFFFFFF (.lea1 ⟨16, 24, .reg 8, ⟨5, true⟩⟩) &&
    reads 0x010C218B 0xFFFFFFFF (.lea2 ⟨16, 24, .reg 8, ⟨5, true⟩⟩) &&
    reads 0x010C21AB 0xFFFFFFFF (.lea3 ⟨16, 24, .reg 8, ⟨5, true⟩⟩)) = true := by decide +kernel
theorem words_lea4_to_popc : (
    reads 0x010C21CB 0xFFFFFFFF (.lea4 ⟨16, 24, .reg 8, ⟨5, true⟩⟩) &&
    reads 0x010C21EB 0xFFFFFFFF (.iaddw ⟨16, 24, .reg 8, ⟨5, true⟩⟩) &&
    reads 0x010C220B 0xFFFFFFFF (.isubw ⟨16, 24, .reg 8, ⟨5, true⟩⟩) &&
    reads 0x0357240B 0xFFFFFFFF (.and ⟨21, 14, .reg 9, ⟨5, true⟩⟩) &&
    reads 0x0357242B 0xFFFFFFFF (.or ⟨21, 14, .reg 9, ⟨5, true⟩⟩) &&
    reads 0x0357244B 0xFFFFFFFF (.xor ⟨21, 14, .reg 9, ⟨5, true⟩⟩) &&
    reads 0x0357246B 0xFFFFFFFF (.andn ⟨21, 14, .reg 9, ⟨5, true⟩⟩) &&
    reads 0x0357248B 0xFFFFFFFF (.orn ⟨21, 14, .reg 9, ⟨5, true⟩⟩) &&
    reads 0x035700AB 0xFFFFFFFF (.not ⟨21, 14, ⟨5, true⟩⟩) &&
    reads 0x035724CB 0xFFFFFFFF (.shl ⟨21, 14, .reg 9, ⟨5, true⟩⟩) &&
    reads 0x035724EB 0xFFFFFFFF (.shrN ⟨21, 14, .reg 9, ⟨5, true⟩⟩) &&
    reads 0x0357250B 0xFFFFFFFF (.shrI ⟨21, 14, .reg 9, ⟨5, true⟩⟩) &&
    reads 0x0357252B 0xFFFFFFFF (.rotl ⟨21, 14, .reg 9, ⟨5, true⟩⟩) &&
    reads 0x0357014B 0xFFFFFFFF (.popc ⟨21, 14, ⟨5, true⟩⟩)) = true := by decide +kernel
theorem words_clz_to_mov : (
    reads 0x0357016B 0xFFFFFFFF (.clz ⟨21, 14, ⟨5, true⟩⟩) &&
    reads 0x0357018B 0xFFFFFFFF (.brev ⟨21, 14, ⟨5, true⟩⟩) &&
    reads 0x035725AB 0xFFFFFFFF (.bytsel ⟨21, 14, .reg 9, ⟨5, true⟩⟩) &&
    reads 0x0557240B 0xFFFFFFFF (.imul ⟨21, 14, .reg 9, ⟨5, true⟩⟩) &&
    reads 0x0557242B 0xFFFFFFFF (.imulhI ⟨21, 14, .reg 9, ⟨5, true⟩⟩) &&
    reads 0x0557244B 0xFFFFFFFF (.imulhN ⟨21, 14, .reg 9, ⟨5, true⟩⟩) &&
    reads 0x050C206B 0xFFFFFFFF (.imulwI ⟨16, 24, .reg 8, ⟨5, true⟩⟩) &&
    reads 0x050C208B 0xFFFFFFFF (.imulwN ⟨16, 24, .reg 8, ⟨5, true⟩⟩) &&
    reads 0x0757266B 0xFFFFFFFF (.imad ⟨21, 14, 9, 19, ⟨5, true⟩⟩) &&
    reads 0x070C229B 0xFFFFFFFF (.imadW ⟨16, 24, 8, 20, ⟨5, true⟩⟩) &&
    reads 0x0957026B 0xFFFFFFFF (.bfe ⟨21, 14, 19, ⟨5, true⟩⟩) &&
    reads 0x0957267B 0xFFFFFFFF (.bfi ⟨21, 14, 9, 19, ⟨5, true⟩⟩) &&
    reads 0x0AE724EB 0xFFFFFFFF (.iset ⟨3, 2, 14, .reg 9, 7, ⟨5, true⟩⟩) &&
    reads 0x0D50240B 0xFFFFFFFF (.mov ⟨21, .reg 9, ⟨5, true⟩⟩)) = true := by decide +kernel
theorem words_sel_to_fmax : (
    reads 0x0D57242B 0xFFFFFFFF (.sel ⟨21, 14, .reg 9, ⟨5, true⟩⟩) &&
    reads 0x0D55844B 0xFFFFFFFF (.movu ⟨21, 43, ⟨5, true⟩⟩) &&
    reads 0x0F55800B 0xFFFFFFFF (.movs ⟨21, 11, ⟨5, true⟩⟩) &&
    reads 0x115755AD 0xFFFFFFFF (.iaddi ⟨21, 14, 2741, 5⟩) &&
    reads 0x135755AD 0xFFFFFFFF (.andi ⟨21, 14, 2741, 5⟩) &&
    reads 0x155755AD 0xFFFFFFFF (.ori ⟨21, 14, 2741, 5⟩) &&
    reads 0x175755AD 0xFFFFFFFF (.xori ⟨21, 14, 2741, 5⟩) &&
    reads 0x1957039D 0xFFFFFFFF (.shi ⟨21, 14, 3, 19, 5⟩) &&
    reads 0x1B5D55AD 0xFFFFFFFF (.movi ⟨21, 109237, 5⟩) &&
    reads 0x2157240B 0xFFFFFFFF (.fadd ⟨21, 14, .reg 9, ⟨5, true⟩⟩) &&
    reads 0x2157242B 0xFFFFFFFF (.fsub ⟨21, 14, .reg 9, ⟨5, true⟩⟩) &&
    reads 0x2157244B 0xFFFFFFFF (.fmul ⟨21, 14, .reg 9, ⟨5, true⟩⟩) &&
    reads 0x2157246B 0xFFFFFFFF (.fmin ⟨21, 14, .reg 9, ⟨5, true⟩⟩) &&
    reads 0x2157248B 0xFFFFFFFF (.fmax ⟨21, 14, .reg 9, ⟨5, true⟩⟩)) = true := by decide +kernel
theorem words_fabs_to_fmul_rm : (
    reads 0x215700AB 0xFFFFFFFF (.fabs ⟨21, 14, ⟨5, true⟩⟩) &&
    reads 0x215700CB 0xFFFFFFFF (.fneg ⟨21, 14, ⟨5, true⟩⟩) &&
    reads 0x215724EB 0xFFFFFFFF (.fcopysign ⟨21, 14, .reg 9, ⟨5, true⟩⟩) &&
    reads 0x2157010B 0xFFFFFFFF (.ffrac ⟨21, 14, ⟨5, true⟩⟩) &&
    reads 0x2157012B 0xFFFFFFFF (.fclass ⟨21, 14, ⟨5, true⟩⟩) &&
    reads 0x2157014B 0xFFFFFFFF (.frintRn ⟨21, 14, ⟨5, true⟩⟩) &&
    reads 0x2157016B 0xFFFFFFFF (.frintRz ⟨21, 14, ⟨5, true⟩⟩) &&
    reads 0x2157018B 0xFFFFFFFF (.frintRm ⟨21, 14, ⟨5, true⟩⟩) &&
    reads 0x215701AB 0xFFFFFFFF (.frintRp ⟨21, 14, ⟨5, true⟩⟩) &&
    reads 0x2157260B 0xFFFFFFFF (.faddRz ⟨21, 14, .reg 9, ⟨5, true⟩⟩) &&
    reads 0x2157262B 0xFFFFFFFF (.faddRm ⟨21, 14, .reg 9, ⟨5, true⟩⟩) &&
    reads 0x2157264B 0xFFFFFFFF (.faddRp ⟨21, 14, .reg 9, ⟨5, true⟩⟩) &&
    reads 0x2157268B 0xFFFFFFFF (.fmulRz ⟨21, 14, .reg 9, ⟨5, true⟩⟩) &&
    reads 0x215726AB 0xFFFFFFFF (.fmulRm ⟨21, 14, .reg 9, ⟨5, true⟩⟩)) = true := by decide +kernel
theorem words_fmul_rp_to_flogi : (
    reads 0x215726CB 0xFFFFFFFF (.fmulRp ⟨21, 14, .reg 9, ⟨5, true⟩⟩) &&
    reads 0x2357266B 0xFFFFFFFF (.ffma ⟨21, 14, 9, 19, ⟨5, true⟩⟩) &&
    reads 0x2357267B 0xFFFFFFFF (.ffms ⟨21, 14, 9, 19, ⟨5, true⟩⟩) &&
    reads 0x2557266B 0xFFFFFFFF (.hfma2F16 ⟨21, 14, 9, 19, ⟨5, true⟩⟩) &&
    reads 0x2557267B 0xFFFFFFFF (.hfma2Bf16 ⟨21, 14, 9, 19, ⟨5, true⟩⟩) &&
    reads 0x2757000B 0xFFFFFFFF (.frcp ⟨21, 14, ⟨5, true⟩⟩) &&
    reads 0x2757002B 0xFFFFFFFF (.frsq ⟨21, 14, ⟨5, true⟩⟩) &&
    reads 0x2757004B 0xFFFFFFFF (.fsqrt ⟨21, 14, ⟨5, true⟩⟩) &&
    reads 0x2757006B 0xFFFFFFFF (.fex2 ⟨21, 14, ⟨5, true⟩⟩) &&
    reads 0x2757008B 0xFFFFFFFF (.flg2 ⟨21, 14, ⟨5, true⟩⟩) &&
    reads 0x275700AB 0xFFFFFFFF (.fsint ⟨21, 14, ⟨5, true⟩⟩) &&
    reads 0x275700CB 0xFFFFFFFF (.fcost ⟨21, 14, ⟨5, true⟩⟩) &&
    reads 0x275700EB 0xFFFFFFFF (.ftanh ⟨21, 14, ⟨5, true⟩⟩) &&
    reads 0x2757010B 0xFFFFFFFF (.flogi ⟨21, 14, ⟨5, true⟩⟩)) = true := by decide +kernel
theorem words_fset_to_upk8_e2m1 : (
    reads 0x28D724EB 0xFFFFFFFF (.fset ⟨3, 1, 14, .reg 9, 7, ⟨5, true⟩⟩) &&
    reads 0x2B5708CB 0xFFFFFFFF (.cvt ⟨21, .reg 14, false, 2, 6, ⟨5, true⟩⟩) &&
    reads 0x2D0C200B 0xFFFFFFFF (.pk2F16 ⟨16, 24, 8, ⟨5, true⟩⟩) &&
    reads 0x2D0C202B 0xFFFFFFFF (.pk2Bf16 ⟨16, 24, 8, ⟨5, true⟩⟩) &&
    reads 0x2D0C204B 0xFFFFFFFF (.pk4E4m3 ⟨16, 24, 8, ⟨5, true⟩⟩) &&
    reads 0x2D0C206B 0xFFFFFFFF (.pk4E5m2 ⟨16, 24, 8, ⟨5, true⟩⟩) &&
    reads 0x2D0C208B 0xFFFFFFFF (.pk8E2m1 ⟨16, 24, 8, ⟨5, true⟩⟩) &&
    reads 0x2D0C20AB 0xFFFFFFFF (.pk4E4m3Sat ⟨16, 24, 8, ⟨5, true⟩⟩) &&
    reads 0x2D0C20CB 0xFFFFFFFF (.pk4E5m2Sat ⟨16, 24, 8, ⟨5, true⟩⟩) &&
    reads 0x2D0C010B 0xFFFFFFFF (.upk2F16 ⟨16, 24, ⟨5, true⟩⟩) &&
    reads 0x2D0C012B 0xFFFFFFFF (.upk2Bf16 ⟨16, 24, ⟨5, true⟩⟩) &&
    reads 0x2D0C014B 0xFFFFFFFF (.upk4E4m3 ⟨16, 24, ⟨5, true⟩⟩) &&
    reads 0x2D0C016B 0xFFFFFFFF (.upk4E5m2 ⟨16, 24, ⟨5, true⟩⟩) &&
    reads 0x2D0C018B 0xFFFFFFFF (.upk8E2m1 ⟨16, 24, ⟨5, true⟩⟩)) = true := by decide +kernel
theorem words_dp4_e4m3_to_lxc_below : (
    reads 0x2F57266B 0xFFFFFFFF (.dp4E4m3 ⟨21, 14, 9, 19, ⟨5, true⟩⟩) &&
    reads 0x2F57267B 0xFFFFFFFF (.dp4E5m2 ⟨21, 14, 9, 19, ⟨5, true⟩⟩) &&
    reads 0x3157266B 0xFFFFFFFF (.idp4I8 ⟨21, 14, 9, 19, ⟨5, true⟩⟩) &&
    reads 0x3157267B 0xFFFFFFFF (.idp4N8 ⟨21, 14, 9, 19, ⟨5, true⟩⟩) &&
    reads 0x32C5240B 0xFFFFFFFF (.pand ⟨3, true, 2, true, 1, ⟨5, true⟩⟩) &&
    reads 0x32C5242B 0xFFFFFFFF (.por ⟨3, true, 2, true, 1, ⟨5, true⟩⟩) &&
    reads 0x32C5244B 0xFFFFFFFF (.pxor ⟨3, true, 2, true, 1, ⟨5, true⟩⟩) &&
    reads 0x32C5006B 0xFFFFFFFF (.pnot ⟨3, true, 2, ⟨5, true⟩⟩) &&
    reads 0x33570C8B 0xFFFFFFFF (.ppack ⟨21, 14, 3, ⟨5, true⟩⟩) &&
    reads 0x32070CAB 0xFFFFFFFF (.punpk ⟨14, 3, ⟨5, true⟩⟩) &&
    reads 0x32C500CB 0xFFFFFFFF (.pmov ⟨3, true, 2, ⟨5, true⟩⟩) &&
    reads 0x3557240B 0xFFFFFFFF (.lxcAt ⟨21, 14, .reg 9, ⟨5, true⟩⟩) &&
    reads 0x3557242B 0xFFFFFFFF (.lxcFlip ⟨21, 14, .reg 9, ⟨5, true⟩⟩) &&
    reads 0x3557244B 0xFFFFFFFF (.lxcBelow ⟨21, 14, .reg 9, ⟨5, true⟩⟩)) = true := by decide +kernel
theorem words_lxc_above_to_jwait : (
    reads 0x3557246B 0xFFFFFFFF (.lxcAbove ⟨21, 14, .reg 9, ⟨5, true⟩⟩) &&
    reads 0x34C5008B 0xFFFFFFFF (.lany ⟨3, true, 2, ⟨5, true⟩⟩) &&
    reads 0x34C500AB 0xFFFFFFFF (.lall ⟨3, true, 2, ⟨5, true⟩⟩) &&
    reads 0x355500CB 0xFFFFFFFF (.lmask ⟨21, true, 2, ⟨5, true⟩⟩) &&
    reads 0x34C000EB 0xFFFFFFFF (.lfirst ⟨3, ⟨5, true⟩⟩) &&
    reads 0x3557010B 0xFFFFFFFF (.lsum ⟨21, 14, ⟨5, true⟩⟩) &&
    reads 0x3557012B 0xFFFFFFFF (.lminI ⟨21, 14, ⟨5, true⟩⟩) &&
    reads 0x3557014B 0xFFFFFFFF (.lmaxI ⟨21, 14, ⟨5, true⟩⟩) &&
    reads 0x3557016B 0xFFFFFFFF (.lsame ⟨21, 14, ⟨5, true⟩⟩) &&
    reads 0x417AAAB5 0xFFFFFFFF (.bra ⟨⟨5, true⟩, 1747637⟩) &&
    reads 0x420C000B 0xFFFFFFFF (.brx ⟨24, ⟨5, true⟩⟩) &&
    reads 0x4576BAB5 0xFFFFFFFF (.brk ⟨⟨5, true⟩, 181, 6837⟩) &&
    reads 0x47AAAAB5 0xFFFFFFFF (.jset ⟨6, 2796213⟩) &&
    reads 0x4980000B 0xFFFFFFFF (.jwait ⟨6, ⟨5, true⟩⟩)) = true := by decide +kernel
theorem words_jdrop_to_cline : (
    reads 0x496A002B 0xFFFFFFFF (.jdrop ⟨181, ⟨5, true⟩⟩) &&
    reads 0x490C004B 0xFFFFFFFF (.jget ⟨16, 6, ⟨5, true⟩⟩) &&
    reads 0x498C006B 0xFFFFFFFF (.jput ⟨6, 24, ⟨5, true⟩⟩) &&
    reads 0x4B5EAAB5 0xFFFFFFFF (.call ⟨2, ⟨5, true⟩, 436917⟩) &&
    reads 0x4C0C0C0B 0xFFFFFFFF (.callx ⟨24, 3, ⟨5, true⟩⟩) &&
    reads 0x4E00000B 0xFFFFFFFF (.ret ⟨⟨5, true⟩⟩) &&
    reads 0x5000000B 0xFFFFFFFF (.nop ⟨⟨5, true⟩⟩) &&
    reads 0x5000002B 0xFFFFFFFF (.exit ⟨⟨5, true⟩⟩) &&
    reads 0x5000004B 0xFFFFFFFF (.yield ⟨⟨5, true⟩⟩) &&
    reads 0x5000246B 0xFFFFFFFF (.nap ⟨.reg 9, ⟨5, true⟩⟩) &&
    reads 0x610C3AD6 0xFFFFFFFF (.ld ⟨16, 24, 3, 2, 11, none, ⟨5, true⟩, false⟩) &&
    reads 0x630C4816 0xFFFFFFFF (.st ⟨16, 24, 4, 2, none, ⟨5, true⟩⟩) &&
    reads 0x640C0816 0xFFFFFFFF (.pref ⟨24, 2, none, ⟨5, true⟩⟩) &&
    reads 0x660C0416 0xFFFFFFFF (.cline ⟨24, 1, none, ⟨5, true⟩⟩)) = true := by decide +kernel
theorem words_sld_to_uand : (
    reads 0x695722D7 0xFFFFFFFF (.sld ⟨21, 14, 2, 0, 11, none, ⟨5, true⟩, true⟩) &&
    reads 0x6B5722D7 0xFFFFFFFF (.sst ⟨21, 14, 2, 11, none, ⟨5, true⟩, true⟩) &&
    reads 0x7B50240B 0xFFFFFFFF (.rspawn ⟨21, .reg 9, ⟨5, true⟩⟩) &&
    reads 0x7A00002B 0xFFFFFFFF (.nexthit ⟨⟨5, true⟩⟩) &&
    reads 0x7A00004B 0xFFFFFFFF (.rend ⟨⟨5, true⟩⟩) &&
    reads 0x81A9D580 0xFFFFFFFF (.uadd ⟨53, 14, .reg 43⟩) &&
    reads 0x81A9D584 0xFFFFFFFF (.usub ⟨53, 14, .reg 43⟩) &&
    reads 0x81A9D588 0xFFFFFFFF (.umul ⟨53, 14, .reg 43⟩) &&
    reads 0x81A9D58C 0xFFFFFFFF (.umulhN ⟨53, 14, .reg 43⟩) &&
    reads 0x81A9D590 0xFFFFFFFF (.uminI ⟨53, 14, .reg 43⟩) &&
    reads 0x81A9D594 0xFFFFFFFF (.umaxI ⟨53, 14, .reg 43⟩) &&
    reads 0x81A9D598 0xFFFFFFFF (.uminN ⟨53, 14, .reg 43⟩) &&
    reads 0x81A9D59C 0xFFFFFFFF (.umaxN ⟨53, 14, .reg 43⟩) &&
    reads 0x81A9D5A0 0xFFFFFFFF (.uand ⟨53, 14, .reg 43⟩)) = true := by decide +kernel
theorem words_uor_to_umovi : (
    reads 0x81A9D5A4 0xFFFFFFFF (.uor ⟨53, 14, .reg 43⟩) &&
    reads 0x81A9D5A8 0xFFFFFFFF (.uxor ⟨53, 14, .reg 43⟩) &&
    reads 0x81A9D5AC 0xFFFFFFFF (.ushl ⟨53, 14, .reg 43⟩) &&
    reads 0x81A9D5B0 0xFFFFFFFF (.ushrN ⟨53, 14, .reg 43⟩) &&
    reads 0x81A9D5B4 0xFFFFFFFF (.ushrI ⟨53, 14, .reg 43⟩) &&
    reads 0x81A9C038 0xFFFFFFFF (.upopc ⟨53, 14⟩) &&
    reads 0x81A9C03C 0xFFFFFFFF (.uclz ⟨53, 14⟩) &&
    reads 0x81A815C0 0xFFFFFFFF (.umov ⟨53, .reg 43⟩) &&
    reads 0x81821444 0xFFFFFFFF (.uaddw ⟨48, 16, .reg 40⟩) &&
    reads 0x83A9DAB5 0xFFFFFFFF (.uaddi ⟨53, 14, 6837⟩) &&
    reads 0x85A9DAB5 0xFFFFFFFF (.uandi ⟨53, 14, 6837⟩) &&
    reads 0x87A9DAB5 0xFFFFFFFF (.uori ⟨53, 14, 6837⟩) &&
    reads 0x89A9C073 0xFFFFFFFF (.ushi ⟨53, 14, 3, 19⟩) &&
    reads 0x8BAEAAB5 0xFFFFFFFF (.umovi ⟨53, 436917⟩)) = true := by decide +kernel
theorem words_uset_to_bkpt : (
    reads 0x8D11D59C 0xFFFFFFFF (.uset ⟨4, 1, 14, .reg 43, 7⟩) &&
    reads 0x8FAC6000 0xFFFFFFFF (.umovs ⟨53, 35⟩) &&
    reads 0x91A9C000 0xFFFFFFFF (.ulaneFirst ⟨53, 14⟩) &&
    reads 0x91A9D584 0xFFFFFFFF (.ulaneIdx ⟨53, 14, .reg 43⟩) &&
    reads 0x93028600 0xFFFFFFFF (.cand ⟨4, 2, true, 1, true⟩) &&
    reads 0x93028604 0xFFFFFFFF (.cor ⟨4, 2, true, 1, true⟩) &&
    reads 0x93028608 0xFFFFFFFF (.cxor ⟨4, 2, true, 1, true⟩) &&
    reads 0x9302800C 0xFFFFFFFF (.cnot ⟨4, 2, true⟩) &&
    reads 0xA13AAAB5 0xFFFFFFFF (.ubra ⟨⟨4, true⟩, 1747637⟩) &&
    reads 0xA2020000 0xFFFFFFFF (.ujmp ⟨16⟩) &&
    reads 0xA4000000 0xFFFFFFFF (.tfence) &&
    reads 0xA4001584 0xFFFFFFFF (.trap ⟨.reg 43⟩) &&
    reads 0xA4000008 0xFFFFFFFF (.rtt) &&
    reads 0xA400000C 0xFFFFFFFF (.bkpt)) = true := by decide +kernel
theorem words_flgr_to_rowact : (
    reads 0xA5800010 0xFFFFFFFF (.flgr ⟨48⟩) &&
    reads 0xA4001594 0xFFFFFFFF (.flgc ⟨.reg 43⟩) &&
    reads 0xA4001598 0xFFFFFFFF (.mode ⟨.reg 43⟩) &&
    reads 0xA5A9D59C 0xFFFFFFFF (.moder ⟨53, 14, .reg 43⟩) &&
    reads 0xB749A000 0xFFFFFFFF (.accZero ⟨true, 9, 13⟩) &&
    reads 0xB748C484 0xFFFFFFFF (.accCommit ⟨true, 9, 6, ⟨4, true⟩⟩) &&
    reads 0xB748C008 0xFFFFFFFF (.accDrop ⟨true, 9, 6⟩) &&
    reads 0xB748C00C 0xFFFFFFFF (.accMerge ⟨true, 9, 6⟩) &&
    reads 0xB74E0090 0xFFFFFFFF (.accPoison ⟨true, 9, 48, true⟩) &&
    reads 0xBCA08000 0xFFFFFFFF (.amap ⟨5, 16⟩) &&
    reads 0xC1A80000 0xFFFFFFFF (.pairBind ⟨53⟩) &&
    reads 0xC1A80004 0xFFFFFFFF (.pairFree ⟨53⟩) &&
    reads 0xC2000080 0xFFFFFFFF (.mwait ⟨true⟩) &&
    reads 0xC9A1A800 0xFFFFFFFF (.rowact ⟨13, .reg 53⟩)) = true := by decide +kernel
theorem words_rowpre_to_sunbind : (
    reads 0xCFA20000 0xFFFFFFFF (.rowpre ⟨13, true⟩) &&
    reads 0xD1800000 0xFFFFFFFF (.rowst ⟨48⟩) &&
    reads 0xD0001584 0xFFFFFFFF (.rowwait ⟨.reg 43⟩) &&
    reads 0xDB680000 0xFFFFFFFF (.sunmap ⟨true, 13⟩) &&
    reads 0xDC01D580 0xFFFFFFFF (.sflush ⟨14, .reg 43⟩) &&
    reads 0xDC01D584 0xFFFFFFFF (.sinv ⟨14, .reg 43⟩) &&
    reads 0xDC01D588 0xFFFFFFFF (.spres ⟨14, .reg 43⟩) &&
    reads 0xDC01D58C 0xFFFFFFFF (.shpush ⟨14, .reg 43⟩) &&
    reads 0xE1820080 0xFFFFFFFF (.syncAcqX ⟨48, 16, true⟩) &&
    reads 0xE1820084 0xFFFFFFFF (.syncAcqS ⟨48, 16, true⟩) &&
    reads 0xE1820088 0xFFFFFFFF (.syncAcqO ⟨48, 16, true⟩) &&
    reads 0xE182008C 0xFFFFFFFF (.syncRel ⟨48, 16, true⟩) &&
    reads 0xE3821400 0xFFFFFFFF (.sbind ⟨48, 16, 40⟩) &&
    reads 0xE3820004 0xFFFFFFFF (.sunbind ⟨48, 16⟩)) = true := by decide +kernel
theorem words_fence_acq_to_cfork : (
    reads 0xE4000280 0xFFFFFFFF (.fenceAcq ⟨5⟩) &&
    reads 0xE4000284 0xFFFFFFFF (.fenceRel ⟨5⟩) &&
    reads 0xE4000288 0xFFFFFFFF (.fenceFull ⟨5⟩) &&
    reads 0xE6021400 0xFFFFFFFF (.semaSig ⟨16, 40⟩) &&
    reads 0xE6021404 0xFFFFFFFF (.semaWait ⟨16, 40⟩) &&
    reads 0xE7821408 0xFFFFFFFF (.semaTry ⟨48, 16, 40⟩) &&
    reads 0xE8680000 0xFFFFFFFF (.barArr ⟨13⟩) &&
    reads 0xE8680004 0xFFFFFFFF (.barWait ⟨13⟩) &&
    reads 0xE8680008 0xFFFFFFFF (.barSync ⟨13⟩) &&
    reads 0xEA021400 0xFFFFFFFF (.ordopen ⟨16, 40⟩) &&
    reads 0xF1B88000 0xFFFFFFFF (.qpush ⟨13, true, 4, 16⟩) &&
    reads 0xF3788016 0xFFFFFFFF (.qpop ⟨11, true, 4, 16, 11⟩) &&
    reads 0xF9820000 0xFFFFFFFF (.cont ⟨48, 16⟩) &&
    reads 0xF9821404 0xFFFFFFFF (.cfork ⟨48, 16, .reg 40⟩)) = true := by decide +kernel
theorem words_cjoin_to_recv_cancel : (
    reads 0xF9820008 0xFFFFFFFF (.cjoin ⟨48, 16⟩) &&
    reads 0xF982000C 0xFFFFFFFF (.launch ⟨48, 16⟩) &&
    reads 0xFA588500 0xFFFFFFFF (.mcast ⟨2, true, 4, 16, 40⟩) &&
    reads 0xFC788500 0xFFFFFFFF (.send ⟨3, true, 4, 16, 40⟩) &&
    reads 0xFF820000 0xFFFFFFFF (.recvPost ⟨48, 16⟩) &&
    reads 0xFF820004 0xFFFFFFFF (.recvWait ⟨48, 16⟩) &&
    reads 0xFF820008 0xFFFFFFFF (.recvTest ⟨48, 16⟩) &&
    reads 0xFFA9C00C 0xFFFFFFFF (.recvCancel ⟨53, 14⟩)) = true := by decide +kernel

/-- Words of two words, put together field by field from the layouts of their entries. -/
theorem words_of_two_1 : (
    reads 0x6C673276 0xABCD4D98 (.atom ⟨6, 14, 12, 9, ⟨5, true⟩, 0xABCD, 9, 5, 2, 3⟩) &&
    reads 0x6E772436 0x1234D490 (.red ⟨7, 14, 9, 0, ⟨5, true⟩, 0x1234, 26, 4, 2, 2⟩) &&
    reads 0x7076A6B6 0x800152D0 (.satom ⟨7, 13, 9, 10, ⟨5, true⟩, 0x8001, 10, 2, 3, 2⟩) &&
    reads 0x74A30276 0x000014B8 (.tbox ⟨10, 6, 9, ⟨5, true⟩, 24, 0xA5⟩) &&
    reads 0x76C30276 0x00000030 (.ttri ⟨12, 6, 9, ⟨5, true⟩, 16, true, false⟩) &&
    reads 0x78000036 0x0000182C (.trace ⟨false, ⟨5, true⟩, 44, 0, false, true, true⟩) &&
    reads 0x78000436 0x000006D4 (.trace ⟨true, ⟨5, true⟩, 20, 11, true, false, false⟩) &&
    reads 0x609722F7 0x12345678 (.ld ⟨9, 14, 2, 0, 11, some 0x12345678, ⟨5, true⟩, true⟩) &&
    reads 0x62971836 0xFFFFFFF0 (.st ⟨9, 14, 1, 2, some 0xFFFFFFF0, ⟨5, true⟩⟩)) = true := by decide +kernel
theorem words_of_two_2 : (
    reads 0x689696F6 0xFFFFFFFE (.sld ⟨9, 13, 1, 1, 11, some 0xFFFFFFFE, ⟨5, true⟩, false⟩) &&
    reads 0x6A96A037 0x00000003 (.sst ⟨9, 13, 2, 0, some 3, ⟨5, true⟩, true⟩) &&
    reads 0x64070436 0x00000040 (.pref ⟨14, 1, some 64, ⟨5, true⟩⟩) &&
    reads 0x66070836 0x00000040 (.cline ⟨14, 2, some 64, ⟨5, true⟩⟩) &&
    reads 0xB1215801 0x01DA5553 (.mma ⟨9, 0, 43, ⟨true, 13, 10, 0x55, 5, 3⟩⟩) &&
    reads 0xB12D5801 0x00252A24 (.mmaC ⟨9, 6, 43, ⟨false, 2, 5, 0x2A, 2, 4⟩⟩) &&
    reads 0xB32152A1 0x01DA5553 (.mmag ⟨9, 42, 21, ⟨true, 13, 10, 0x55, 5, 3⟩⟩) &&
    reads 0xB52D5801 0x00DA5553 (.mmas ⟨9, 6, 43, ⟨false, 13, 10, 0x55, 5, 3⟩⟩) &&
    reads 0xB9255801 0x165ABCD4 (.accld ⟨9, false, 2, 43, 0xABCD4, 5, 6, true⟩)) = true := by decide +kernel
theorem words_of_two_3 : (
    reads 0xBB375801 0x09251234 (.accst ⟨9, true, 3, 43, 0x51234, 2, 9, false⟩) &&
    reads 0xBE815AA1 0xB4B556A5 (.bplLd ⟨true, 43, 21, 0x2A5, 0x55, 0x5A5A⟩) &&
    reads 0xBF0002A1 0x000156A5 (.bplZero ⟨false, 21, 0x2A5, 0x55⟩) &&
    reads 0xCBAB5AA1 0x0000A755 (.rowcon ⟨13, true, 43, some 21, 0x55, 0xA7⟩) &&
    reads 0xCDA15801 0x00005C2B (.rowwr ⟨13, false, 43, none, 0x2B, 0x5C⟩) &&
    reads 0xC9A00001 0x00000ABC (.rowact ⟨13, .lit 0xABC⟩) &&
    reads 0xD9A35A81 0x00015555 (.smap ⟨13, 1, 43, 20, 0x15555⟩) &&
    reads 0xDFA35AA1 0xBEEF2AAB (.sgath ⟨13, true, 43, 21, 0x2AAB, 0xBEEF⟩)) = true := by decide +kernel

/-- Words that the manual prints, with the instructions that it says they are: chapters 3 to 6. -/
theorem printed_words_lanes : (
    reads 0x006221AE 0 (.lea3 ⟨6, 4, .reg 8, ⟨7, false⟩⟩) &&
    reads 0x1240800F 0 (.andi ⟨4, 1, 1, 7⟩) &&
    reads 0x1A500037 0 (.movi ⟨5, 6, 7⟩) &&
    reads 0x2280886E 0 (.ffma ⟨8, 1, 2, 3, ⟨7, false⟩⟩) &&
    reads 0x82209FFF 0 (.uaddi ⟨4, 4, -1⟩) &&
    reads 0x8C408006 0 (.uset ⟨1, 0, 4, .lit 0, 1⟩) &&
    reads 0x4E00000E 0 (.ret ⟨⟨7, false⟩⟩) &&
    reads 0x4B700002 0 (.call ⟨2, ⟨7, false⟩, 2⟩) &&
    reads 0x4600000D 0 (.jset ⟨0, 13⟩) &&
    reads 0x4480C005 0 (.brk ⟨⟨2, false⟩, 6, 5⟩) &&
    reads 0x4880000E 0 (.jwait ⟨2, ⟨7, false⟩⟩) &&
    reads 0x40600004 0 (.bra ⟨⟨1, true⟩, 4⟩) &&
    reads 0x40DFFFF6 0 (.bra ⟨⟨3, false⟩, -10⟩) &&
    reads 0x012139EE 0 (.iaddw ⟨18, 2, .reg 14, ⟨7, false⟩⟩)) = true := by decide +kernel
/-- Chapters 7 to 9. -/
theorem printed_words_memory : (
    reads 0x6072207C 0x10 (.ld ⟨7, 4, 2, 0, 1, some 0x10, ⟨7, false⟩, false⟩) &&
    reads 0x6092201D 0 (.ld ⟨9, 4, 2, 0, 0, none, ⟨7, false⟩, true⟩) &&
    reads 0x6402003C 0x400 (.pref ⟨4, 0, some 0x400, ⟨7, false⟩⟩) &&
    reads 0x6602041C 0 (.cline ⟨4, 1, none, ⟨7, false⟩⟩) &&
    reads 0x6A93203D 3 (.sst ⟨9, 6, 2, 0, some 3, ⟨7, false⟩, true⟩) &&
    reads 0x68B320F1 0 (.sld ⟨11, 6, 2, 0, 3, some 0, ⟨4, false⟩, true⟩) &&
    reads 0x7033103C 0x00080210 (.satom ⟨3, 6, 4, 0, ⟨7, false⟩, 8, 0, 2, 0, 2⟩) &&
    reads 0x6C73003C 0x00005D50 (.atom ⟨7, 6, 0, 0, ⟨7, false⟩, 0, 11, 5, 1, 2⟩) &&
    reads 0xDE204121 0x00080002 (.sgath ⟨1, false, 8, 9, 2, 8⟩) &&
    reads 0xE0010000 0 (.syncAcqX ⟨0, 8, false⟩) &&
    reads 0xE0010008 0 (.syncAcqO ⟨0, 8, false⟩) &&
    reads 0xE001000C 0 (.syncRel ⟨0, 8, false⟩) &&
    reads 0xE2110600 0 (.sbind ⟨2, 8, 12⟩) &&
    reads 0xE4000284 0 (.fenceRel ⟨5⟩) &&
    reads 0xE8180008 0 (.barSync ⟨3⟩)) = true := by decide +kernel
/-- Chapters 10, 11 and 18. -/
theorem printed_words_matrix : (
    reads 0xC8402000 0 (.rowact ⟨2, .reg 4⟩) &&
    reads 0xC8600001 0 (.rowact ⟨3, .lit 0⟩) &&
    reads 0xCE420000 0 (.rowpre ⟨2, true⟩) &&
    reads 0xD0500000 0 (.rowst ⟨10⟩) &&
    reads 0xB6000000 0 (.accZero ⟨false, 0, 0⟩) &&
    reads 0xB7184000 0 (.accZero ⟨true, 3, 2⟩) &&
    reads 0xB700C00C 0 (.accMerge ⟨true, 0, 6⟩) &&
    reads 0xB6084104 0 (.accCommit ⟨false, 1, 2, ⟨1, false⟩⟩) &&
    reads 0xB6030010 0 (.accPoison ⟨false, 0, 24, false⟩) &&
    reads 0xBC206000 0 (.amap ⟨1, 12⟩) &&
    reads 0xBE809221 0x00207C0F (.bplLd ⟨true, 18, 17, 15, 31, 16⟩) &&
    reads 0xB4249001 0x00001F10 (.mmas ⟨1, 2, 18, ⟨false, 0, 0, 31, 1, 0⟩⟩) &&
    reads 0xB0C4D001 0x01377F10 (.mmaC ⟨6, 2, 26, ⟨true, 3, 7, 127, 1, 0⟩⟩) &&
    reads 0xBA00E801 0x17000400 (.accst ⟨0, false, 0, 29, 0x400, 0, 7, true⟩) &&
    reads 0xC2000080 0 (.mwait ⟨true⟩) &&
    reads 0xC0A80004 0 (.pairFree ⟨21⟩)) = true := by decide +kernel
/-- Chapters 12 to 15. -/
theorem printed_words_work : (
    reads 0x7800043C 0x000000C8 (.trace ⟨true, ⟨7, false⟩, 8, 3, false, false, false⟩) &&
    reads 0x7AC0140E 0 (.rspawn ⟨12, .reg 5, ⟨7, false⟩⟩) &&
    reads 0x74A200BC 0x00001FF8 (.tbox ⟨10, 4, 2, ⟨7, false⟩, 24, 0xFF⟩) &&
    reads 0x76C200BC 0x00000038 (.ttri ⟨12, 4, 2, ⟨7, false⟩, 24, true, false⟩) &&
    reads 0xF8A10000 0 (.cont ⟨20, 8⟩) &&
    reads 0xF8A10006 4 (.cfork ⟨20, 8, .lit 4⟩) &&
    reads 0xF8A08008 0 (.cjoin ⟨20, 4⟩) &&
    reads 0xF8A2000C 0 (.launch ⟨20, 16⟩) &&
    reads 0xF14E8000 0 (.qpush ⟨10, false, 7, 16⟩) &&
    reads 0xF3722000 0 (.qpop ⟨11, true, 1, 4, 0⟩) &&
    reads 0xFC4E4180 0 (.send ⟨2, false, 7, 8, 12⟩) &&
    reads 0xFE510004 0 (.recvWait ⟨10, 8⟩) &&
    reads 0xA4000000 0 .tfence && reads 0xA4000008 0 .rtt &&
    reads 0xA4000006 0x55 (.trap ⟨.lit 0x55⟩) &&
    reads 0xA4400010 0 (.flgr ⟨8⟩) &&
    reads 0xA4000218 0 (.mode ⟨.reg 4⟩) &&
    reads 0xA431049C 0 (.moder ⟨6, 8, .reg 9⟩)) = true := by decide +kernel

/-! ### Ill-formed instructions, one for each check -/

def gOk : Guard := ⟨7, false⟩
/-- Reserved guards and codes, registers that begin no pair, and fields beyond their limits, in lane instructions. -/
theorem ill_formed_lane : (
    !Instr.wf (.iadd ⟨1, 2, .reg 3, ⟨7, true⟩⟩) && !Instr.wf (.lea1 ⟨1, 2, .reg 3, gOk⟩) && !Instr.wf (.iaddw ⟨2, 2, .reg 3, gOk⟩) &&
    !Instr.wf (.imulwI ⟨1, 2, .reg 3, gOk⟩) && !Instr.wf (.imadW ⟨2, 1, 1, 3, gOk⟩) && !Instr.wf (.iset ⟨1, 3, 1, .reg 1, 0, gOk⟩) &&
    !Instr.wf (.iset ⟨1, 0, 1, .reg 1, 10, gOk⟩) && !Instr.wf (.fset ⟨1, 0, 1, .reg 1, 14, gOk⟩) && !Instr.wf (.movs ⟨1, 26, gOk⟩) &&
    !Instr.wf (.cvt ⟨1, .reg 1, false, 0, 24, gOk⟩) && !Instr.wf (.cvt ⟨1, .reg 1, false, 1, 2, gOk⟩) && !Instr.wf (.cvt ⟨1, .reg 1, true, 0, 6, gOk⟩) &&
    !Instr.wf (.cvt ⟨1, .reg 1, false, 0, 8, gOk⟩) && !Instr.wf (.pk8E2m1 ⟨1, 2, 4, gOk⟩) && !Instr.wf (.pk4E4m3 ⟨1, 1, 2, gOk⟩) &&
    !Instr.wf (.upk8E2m1 ⟨4, 1, gOk⟩) && !Instr.wf (.upk4E5m2 ⟨2, 1, gOk⟩) && !Instr.wf (.upk2F16 ⟨1, 1, gOk⟩)) = true := by decide
/-- Branches, memory accesses and atomics. -/
theorem ill_formed_memory : (
    !Instr.wf (.brx ⟨1, gOk⟩) && !Instr.wf (.jget ⟨1, 0, gOk⟩) && !Instr.wf (.call ⟨0, gOk, 4⟩) && !Instr.wf (.callx ⟨2, 0, gOk⟩) &&
    !Instr.wf (.ld ⟨1, 2, 5, 0, 0, none, gOk, false⟩) && !Instr.wf (.ld ⟨1, 2, 3, 0, 0, none, gOk, false⟩) &&
    !Instr.wf (.ld ⟨2, 2, 4, 0, 0, none, gOk, false⟩) && !Instr.wf (.ld ⟨1, 2, 2, 1, 0, none, gOk, false⟩) &&
    !Instr.wf (.st ⟨1, 2, 2, 1, none, gOk⟩) && !Instr.wf (.pref ⟨2, 3, none, gOk⟩) && !Instr.wf (.sst ⟨1, 2, 0, 0, none, gOk, true⟩) &&
    !Instr.wf (.atom ⟨1, 2, 3, 0, gOk, 0, 13, 0, 0, 2⟩) && !Instr.wf (.atom ⟨1, 2, 3, 0, gOk, 0, 0, 0, 0, 1⟩) &&
    !Instr.wf (.atom ⟨2, 2, 4, 0, gOk, 0, 10, 0, 0, 3⟩) && !Instr.wf (.atom ⟨1, 2, 4, 0, gOk, 0, 12, 0, 0, 2⟩) &&
    !Instr.wf (.atom ⟨1, 2, 3, 0, gOk, 0, 11, 0, 0, 2⟩) && !Instr.wf (.atom ⟨1, 2, 0, 0, gOk, 0, 11, 0, 2, 2⟩) &&
    !Instr.wf (.atom ⟨2, 2, 2, 0, gOk, 0, 9, 0, 0, 3⟩) && !Instr.wf (.red ⟨0, 2, 3, 1, gOk, 0, 0, 0, 0, 2⟩) &&
    !Instr.wf (.red ⟨0, 2, 3, 0, gOk, 0, 8, 0, 0, 2⟩) && !Instr.wf (.red ⟨0, 2, 3, 0, gOk, 0, 0, 0, 1, 2⟩) &&
    !Instr.wf (.red ⟨1, 2, 3, 0, gOk, 0, 0, 0, 0, 2⟩) && !Instr.wf (.satom ⟨1, 2, 3, 0, gOk, 0, 11, 0, 0, 2⟩) &&
    !Instr.wf (.tbox ⟨2, 2, 0, gOk, 4, 0⟩) && !Instr.wf (.ttri ⟨2, 2, 0, gOk, 8, false, false⟩) &&
    !Instr.wf (.trace ⟨false, gOk, 2, 0, false, false, false⟩) && !Instr.wf (.trace ⟨false, gOk, 4, 1, false, false, false⟩) &&
    !Instr.wf (.trace ⟨true, gOk, 4, 1, false, false, true⟩)) = true := by decide
/-- Uniform instructions, and an event, which is no instruction word. -/
theorem ill_formed_uniform : (
    !Instr.wf (.uaddw ⟨1, 2, .reg 4⟩) && !Instr.wf (.uset ⟨1, 3, 1, .reg 1, 0⟩) && !Instr.wf (.umovs ⟨1, 26⟩) && !Instr.wf (.umovs ⟨1, 36⟩) &&
    !Instr.wf (.ubra ⟨⟨7, true⟩, 0⟩) && !Instr.wf (.ujmp ⟨1⟩) && !Instr.wf (.flgr ⟨1⟩) && !Instr.wf (.mma ⟨0, 1, 0, ⟨false, 0, 0, 0, 0, 0⟩⟩) &&
    !Instr.wf (.mmaC ⟨0, 0, 0, ⟨false, 0, 0, 0, 0, 0⟩⟩) && !Instr.wf (.mmag ⟨0, 1, 0, ⟨false, 0, 0, 0, 0, 0⟩⟩) &&
    !Instr.wf (.accPoison ⟨true, 0, 8, false⟩) && !Instr.wf (.accPoison ⟨false, 0, 4, false⟩) && !Instr.wf (.accld ⟨0, true, 1, 0, 0, 0, 0, false⟩) &&
    !Instr.wf (.accld ⟨0, false, 3, 0, 0, 0, 0, false⟩) && !Instr.wf (.accst ⟨0, true, 0, 0, 0, 0, 0, false⟩) &&
    !Instr.wf (.accst ⟨0, false, 0, 0, 0, 1, 15, false⟩) && !Instr.wf (.amap ⟨0, 2⟩) && !Instr.wf (.rowwr ⟨0, true, 0, none, 0, 0⟩) &&
    !Instr.wf (.rowst ⟨1⟩) && !Instr.wf (.smap ⟨0, 3, 0, 0, 1⟩) && !Instr.wf (.smap ⟨0, 0, 0, 1, 1⟩) && !Instr.wf (.sgath ⟨0, false, 0, 0, 0, 0⟩) &&
    !Instr.wf (.syncRel ⟨2, 2, false⟩) && !Instr.wf (.sbind ⟨0, 2, 2⟩) && !Instr.wf (.ordopen ⟨2, 2⟩) && !Instr.wf (.qpush ⟨8, false, 7, 8⟩) &&
    !Instr.wf (.qpush ⟨9, false, 7, 16⟩) && !Instr.wf (.qpop ⟨8, false, 7, 2, 0⟩) && !Instr.wf (.qpop ⟨9, false, 1, 2, 0⟩) &&
    !Instr.wf (.cont ⟨0, 4⟩) && !Instr.wf (.cjoin ⟨0, 1⟩) && !Instr.wf (.send ⟨8, false, 7, 2, 0⟩) && !Instr.wf (.recvPost ⟨0, 2⟩) &&
    !Instr.wf .fundamentalReset) = true := by decide
/-- Words that the decoder refuses, by name (R52, R65, R66, R67). -/
theorem refused_words : decode 0x0010843E 0 = .bad .reservedField ∧ decode 0x00110E2E 0 = .bad .unlistedFn ∧
    decode 0xF0000000 0 = .bad .firstWordLimit ∧ decode 0x94000000 0 = .bad .unlistedMajor ∧ decode 0x7033101C 0 = .bad .reservedField ∧
    decode 0x76C200BC 0x00000080 = .bad .reservedSecond := by decide +kernel

/-! ### Steps, reset, invariants -/

/-- The next turn issues the split, whose page is in the TLB and whose line, with IADD v1, v2, v3 and an IADD with a literal at
address 8, is in the instruction cache. -/
def stepLine : Line := BitVec.ofNat 512 0x000186A0_0010801E_5000000E_00110C0E
def stStep (pc : Pc) : State :=
  st (withSplit fun sp => { sp with pc := pc }) (fun k => { k with tlb := [⟨0, 0, placePte⟩], icache := [(placePa, stepLine)] })
    fun s => { s with turns := [.issue 0 0 0] }
def exStep (pc : Pc) : Ex := ex (withSplit fun sp => { sp with pc := pc })
theorem witness_AStepRunsTheInstruction :
    (∃ g : Group, (ex g).sp.settle = true ∧ g.pending (ex g).sp.mask = false) ∧
    Fetches (stStep 0) (exStep 0) [] 0x00110C0E 0x5000000E ∧ decode 0x00110C0E 0x5000000E = .ok (.iadd ⟨1, 2, .reg 3, gOk⟩) ∧
    (Instr.len (.iadd ⟨1, 2, .reg 3, gOk⟩) = 8 → (Pc.addr (exStep 0).sp.pc).toNat % 8 = 0) ∧
    MayIssue (stStep 0) (exStep 0) (.iadd ⟨1, 2, .reg 3, gOk⟩) ∧
    Fetches (stStep 2) (exStep 2) [] 0x0010801E 0x000186A0 ∧ decode 0x0010801E 0x000186A0 = .ok (.iadd ⟨1, 1, .lit 100000, gOk⟩) ∧
    (Instr.len (.iadd ⟨1, 1, .lit 100000, gOk⟩) = 8 → (Pc.addr (exStep 2).sp.pc).toNat % 8 = 0) ∧
    MayIssue (stStep 2) (exStep 2) (.iadd ⟨1, 1, .lit 100000, gOk⟩) :=
  ⟨⟨withSplit fun sp => { sp with settle := true }, by decide, by decide⟩,
    ⟨by decide, by decide, by decide, by decide, by decide, .inl (by decide), placePte, stepLine, by decide, by decide, by decide, by decide, by decide, by decide⟩,
    by decide +kernel, by decide, ⟨by decide, by decide, by decide⟩,
    ⟨by decide, by decide, by decide, by decide, by decide, .inl (by decide), placePte, stepLine, by decide, by decide, by decide, by decide, by decide, by decide⟩,
    by decide +kernel, by decide, ⟨by decide, by decide, by decide⟩⟩
/-- A step from a state that keeps the invariants, which answers a next state: v1 becomes v2 + v3. -/
def stepped (o : Host.Outcome State Fault Refusal) (f : State → Bool) : Bool := match o with | .next t => f t | _ => false
theorem stepped_next (o : Host.Outcome State Fault Refusal) (f : State → Bool) (h : stepped o f = true) : ∃ t, o = .next t := by
  cases o with | next t => exact ⟨t, rfl⟩ | fault e => cases h | refused r => cases h
theorem orderly_of (s : State) (g : Group) (h : s.cores.map (fun c => (c.2.groups.map Prod.snd, c.2.saved.length)) = [([g], 0)])
    (hs : TablesInOrder g.splits) (hh : g.handler = none) : SplitsInOrder s := by
  intro c hc
  have := List.mem_map_of_mem (f := fun c => (c.2.groups.map Prod.snd, c.2.saved.length)) hc
  simp only [h, List.mem_singleton, Prod.mk.injEq, List.length_eq_zero_iff] at this
  refine ⟨fun p hp => ?_, fun v hv => by simp [this.2] at hv⟩
  have hg := List.mem_map_of_mem (f := Prod.snd) hp
  simp only [this.1, List.mem_singleton] at hg
  exact hg ▸ ⟨hs, by simp [hh]⟩
theorem witness_StepsKeepInvariants :
    (stStep 0).mem.wf = true ∧ SplitsInOrder (stStep 0) ∧ ∃ t, step (stStep 0) = .next t :=
  ⟨by decide, orderly_of _ (withSplit fun sp => { sp with pc := 0 }) (by decide) (by unfold TablesInOrder; decide) (by decide),
    stepped_next _ (fun _ => true) (by decide +kernel)⟩
theorem reset_keeps_invariants : State.reset.mem.wf = true ∧ SplitsInOrder State.reset :=
  ⟨by decide, by intro c hc; simp [State.reset] at hc⟩
/-- The first step after reset runs the instruction placed: MOVI v5, 6. -/
theorem test_placed_instruction_runs :
    stepped (step (State.reset.withFetchWord 32 0x1A500037)) (fun t => (((t.group 0 0).getD g0).lane 7).v 5 == 6) = true := by decide +kernel
theorem witness_DecodingInvertsEncoding :
    Instr.wf (.iadd ⟨1, 2, .reg 3, gOk⟩) = true ∧ encode (.iadd ⟨1, 2, .reg 3, gOk⟩) = [0x00110C0E] ∧
    Instr.wf (.iadd ⟨1, 1, .lit 100000, gOk⟩) = true ∧ encode (.iadd ⟨1, 1, .lit 100000, gOk⟩) = [0x0010801E, 0x000186A0] := by decide +kernel
theorem witness_NansMinimaAndMaxima :
    (0x7F800001 % 2 ^ 31 > 0x7F800000 ∧ 0x7F800001 % 2 ^ 23 < 2 ^ 22) ∧ (0xFFC00000 % 2 ^ 31 > 0x7F800000 ∧ ¬0xFFC00000 % 2 ^ 23 < 2 ^ 22) ∧
    ¬0xBF800000 % 2 ^ 31 > 0x7F800000 ∧ (0xBF800000 : Word).msb = true ∧ (0x3F800000 : Word).toNat = (0xBF800000 : Word).toNat - 2 ^ 31 := by decide
theorem witness_MemoryReadsWhatWasWritten : Bytes.wf [(3, 7), (9, 1)] = true := by decide

/-! ### Witnesses: further cases of the statements above -/
/-- 1, −1, the least subnormal and the largest value of .f32, read with and without the flush. -/
theorem value_codes : valOf fF32 0x3F800000 = 1 ∧ valOf fF32 0xBF800000 = -1 ∧ valOf fF32 0x80000000 = 0 ∧
    valOf fF32 (readAs fF32 true 1) = 0 ∧ readAs fF32 false 0x3F800000 = 0x3F800000 ∧ readAs fF32 false 0xBF800000 = 0xBF800000 := by
  decide +kernel
/-- Sums, differences and products that are a number, exactly 0, and 0 of two zeros; infinities against 0 and against 1. -/
theorem witness_FloatsRoundOnce : FiniteCode fF32 0x3F800000 ∧ FiniteCode fF32 0xBF800000 ∧ FiniteCode fF32 0x80000000 ∧ FiniteCode fF32 1 ∧
    valOf fF32 0x3F800000 + valOf fF32 0x3F800000 ≠ 0 ∧ valOf fF32 0x3F800000 + valOf fF32 0xBF800000 = 0 ∧
    valOf fF32 0x3F800000 - valOf fF32 0xBF800000 ≠ 0 ∧ valOf fF32 0x3F800000 * valOf fF32 0xBF800000 ≠ 0 ∧
    valOf fF32 0x3F800000 * valOf fF32 0x80000000 = 0 ∧
    valOf fF32 0x3F800000 * valOf fF32 0x3F800000 + valOf fF32 0xBF800000 = 0 ∧
    IntRounds .rn (valOf fF32 0x3F800000) 1 ∧ IntRounds .rz (valOf fF32 0x3F800000) 1 := by
  simp only [value_codes]
  refine ⟨⟨by decide, by decide⟩, ⟨by decide, by decide⟩, ⟨by decide, by decide⟩, ⟨by decide, by decide⟩, ?_⟩
  norm_num [IntRounds]
/-- RoundsTo: a value of the format, one between two, one that is tiny, one beyond the largest, and one that the flush takes. -/
theorem witness_RoundsTo :
    magOf fE5m2 0x3C = 1 ∧ 0x3C < fE5m2.maxFin ∧ 2 ^ fE5m2.m ≤ 0x3C ∧ (1 : ℚ) < magOf fE5m2 0x3D ∧
    magOf fE5m2 1 < 3 / 2 * magOf fE5m2 1 ∧ 3 / 2 * magOf fE5m2 1 < magOf fE5m2 2 ∧
    fE5m2.inf = some 0x7C ∧ magOf fE5m2 (fE5m2.maxFin + 1) ≤ 65536 ∧
    magOf fF32 1 ≤ magOf fF32 (2 ^ fF32.m - 1) := by decide +kernel
theorem witness_FminAndFmaxChoose :
    IsNan 0x7FC00000 ∧ ¬IsNan 0x3F800000 ∧ Signals 0x7F800001 ∧ ¬Signals 0x7FC00000 ∧ ¬Signals 0x3F800000 ∧
    keyOf 0xBF800000 < keyOf 0x3F800000 ∧ keyOf 0x80000000 = 0 ∧ keyOf 0 = 0 := by unfold IsNan Signals; decide
/-- Codes of every case of a conversion from .f32: 0, 1, the largest value, infinity and a signalling NaN; the largest of .e4m3 is 448. -/
theorem witness_Conversions :
    0 ≤ fF32.maxFin ∧ valOf fF32 0 = 0 ∧ valOf fF32 0x3F800000 ≠ 0 ∧ |valOf fF32 0x3F800000| < magOf fE4m3 fE4m3.maxFin ∧
    magOf fE4m3 fE4m3.maxFin = 448 ∧ magOf fE4m3 (fE4m3.maxFin + 1) ≤ |valOf fF32 0x7F000000| ∧ fF32.inf = some 0x7F800000 ∧
    fF32.maxFin < 0x7F800001 ∧ fF32.inf ≠ some 0x7F800001 ∧
    IntRounds .rm (valOf fF32 0x4F000000) (2 ^ 31) ∧ (2 : ℚ) ^ (0 : Int) ≤ |valOf fF32 0x3F800000| ∧
    |valOf fF32 0x3F800000| < (2 : ℚ) ^ (1 : Int) := by
  have h : valOf fF32 0x4F000000 = 2 ^ 31 := by decide +kernel
  have k : valOf fF32 0x7F000000 = 2 ^ 127 := by decide +kernel
  have m : magOf fE4m3 (fE4m3.maxFin + 1) = 480 := by decide +kernel
  have z : valOf fF32 0 = 0 := by decide +kernel
  have o : magOf fE4m3 fE4m3.maxFin = 448 := by decide +kernel
  simp only [value_codes, h, k, m, z, o]
  refine ⟨by decide, trivial, ?_, ?_, trivial, ?_, by decide, by decide, by decide, ?_, ?_, ?_⟩ <;> norm_num [IntRounds]
/-- Calls: the farthest need is lane 1's; a target in another region in lane 3; targets of CALLX that are misaligned or not canonical. -/
theorem witness_CallFaults :
    (∀ j, Mask.has ((ex gDeep).active ⟨7, false⟩) j = true →
      max (gDeep.lane j).stk ((gDeep.lane j).wb + 24 + 32 - b0.stack) ≤ max (gDeep.lane 1).stk ((gDeep.lane 1).wb + 24 + 32 - b0.stack)) ∧
    (∀ j, Mask.has ((ex gDeep).active ⟨7, false⟩) j = true → ¬(hiOf (((gDeep).lane j).vPair 2) ≠ hiOf (Pc.addr (Pc.plus (ex gDeep).sp.pc 4)))) ∧
    (∀ j, Mask.has (8 : Mask) j = true ↔ Mask.has ((ex (gTargets 0x80 1)).active ⟨7, false⟩) j = true ∧
      hiOf (((gTargets 0x80 1).lane j).vPair 2) ≠ hiOf (Pc.addr (Pc.plus (ex (gTargets 0x80 1)).sp.pc 4))) ∧
    (∀ l, Mask.has ((ex (gTargets 0x80 1)).active ⟨7, false⟩) l = true →
      (((gTargets 0x80 1).lane l).vPair 2).toNat % 4 = 0 ∧ canonical (((gTargets 0x80 1).lane l).vPair 2) = true) ∧
    (∀ k, Mask.has (8 : Mask) k = true ↔ Mask.has ((ex (gTargets 0x82 0)).active ⟨7, false⟩) k = true ∧
      (((gTargets 0x82 0).lane k).vPair 2).toNat % 4 ≠ 0) ∧
    (∀ k, Mask.has (8 : Mask) k = true ↔ Mask.has ((ex (gTargets 0x80 0x20000)).active ⟨7, false⟩) k = true ∧
      canonical (((gTargets 0x80 0x20000).lane k).vPair 2) = false) :=
  ⟨lanes_of_mask _ (by decide), lanes_of_mask _ (by decide), lane_iff (by decide) fun _ h => has_lt h.1, lanes_of_mask _ (by decide),
    lane_iff (by decide) fun _ h => has_lt h.1, lane_iff (by decide) fun _ h => has_lt h.1⟩
/-- RET of lanes that fail in both ways: lane 1 has a frame of size 0 and decides, lane 2 one below the bottom of the stack. -/
def gMixed : Group := withLanes fun l => ({ wb := 8 } : Lane).setV 31 (if l = 1 then 0x40 else if l = 2 then 0x43 else 0x41)
def retCause (g : Group) (k : Nat) : Nat :=
  if (g.lane k).v 31 &&& 3 = 0 then 7 else if (g.lane k).wb < 8 * ((g.lane k).v 31 &&& 3).toNat then 8 else 0
theorem witness_RetFaults : retCause gMixed 1 = 7 ∧ retCause gMixed 2 = 8 ∧
    (∀ k, k < 1 → Mask.has ((ex gMixed).active ⟨7, false⟩) k = true → retCause gMixed k = 0) ∧
    ∀ k, Mask.has (2 : Mask) k = true ↔ Mask.has ((ex gMixed).active ⟨7, false⟩) k = true ∧ retCause gMixed k = retCause gMixed 1 :=
  ⟨by decide, by decide, by decide, lane_iff (by decide) fun _ h => has_lt h.1⟩
/-- Loads that hit: a D-class copy, and an L-class copy whose lease lasts; a store of a group that has passed a FENCE.rel to a
line that its L1 holds modified and its slice lists. -/
def stL1 (s0 : L1St) (g : Group) : State :=
  st g (fun k => { withTlb k with l1 := [(0x2000010000, { l1Line s0 with rts := 9 })] }) fun s => { s with mem := { lines := [(0x2000010000, {})] } }
theorem witness_LoadsThatHit :
    (∀ p ∈ [(L1St.shared, 0), (.modified, 0), (.lease, 1)],
      mget ((stL1 p.1 (gAddr 0)).core 0).l1 (lineAddr (ptePa pteD 0)) = some { l1Line p.1 with rts := 9 } ∧
      ((p.2 = 0 ∧ p.1 ≠ .lease) ∨ (p.2 = 1 ∧ p.1 = .lease ∧ (stL1 p.1 (gAddr 0)).pts 0 0 ≤ 9))) ∧
    (∀ z ∈ [1, 2, 4, 8, 16], 16 % z = 0 ∧ 16 + z ≤ 64) ∧
    (({ gAddr 0 with fenced := true } : Group).fenced = true ∧
      mget ((stL1 .modified { gAddr 0 with fenced := true }).core 0).l1 0x2000010000 = some { l1Line .modified with rts := 9 } ∧
      (mget (stL1 .modified { gAddr 0 with fenced := true }).mem.lines 0x2000010000).isSome = true) := by decide +kernel
/-- Lane 0 of ST, ATOM and RED at an address that is not a multiple of 4, and at one that is not canonical. -/
def okAt (acc : Access) (cl : List Nat) (a : DWord) (l : Nat) : Bool :=
  let s := st (gAddr a) withTlb
  let va := ((gAddr a).lane l).vPair 4 + (0 : BitVec 16).signExtend 64
  canonical va = true ∧ va.toNat % 4 = 0 ∧ ((s.core (ex (gAddr a)).core).tlb.find? fun t => t.serves (ex (gAddr a)).gr.ctx va.toNat).map TlbEntry.pte = some pteD ∧
    s.pteCause pteD va.toNat acc = none ∧ pteClass pteD ∈ cl
theorem witness_BadGlobal : ∀ a ∈ [(0x41 : DWord), 0x0002000000000000],
    ¬(canonical (((gAddr a).lane 0).vPair 4) = true ∧ (((gAddr a).lane 0).vPair 4).toNat % 4 = 0) ∧
    ∀ l, l < 8 → l = 0 ∨ (okAt { write := true } [0, 1, 2, 3] a l = true ∧ okAt { write := true } [0, 1] a l = true ∧
      okAt {} [0, 1] a l = true) := by
  intro a h
  have k : a = 0x41 ∨ a = 0x0002000000000000 := by simpa using h
  rcases k with rfl | rfl <;> exact ⟨by decide, by decide⟩
/-- One lane at an address of its window that is not a multiple of 4. -/
theorem witness_MisalignedScratch : (st (gScr1 0x1F00002) withWin).running = some (ex (gScr1 0x1F00002)) ∧
    (st (gScr1 0x1F00002) withWin).blockWin 0 1 = some win0 ∧ scrEa ((gScr1 0x1F00002).lane 0) 0 4 none false 4 / 2 ^ 20 = 31 ∧
    scrEa ((gScr1 0x1F00002).lane 0) 0 4 none false 4 % 2 ^ 20 + 4 ≤ win0.len ∧ scrEa ((gScr1 0x1F00002).lane 0) 0 4 none false 4 % 4 ≠ 0 := by
  decide +kernel
/-- Records that admit no acquire of a kind: MODE 1, the shared count full, a waiter ahead; and the object of a lost package. -/
theorem witness_AcquiresWait : ¬Admitted (stObj false 1 0) 0 0x2000010080 1 0 2 ∧ ¬Admitted (stObj false 2 1023) 1 0x2000010080 2 1023 2 ∧
    ¬Admitted (stObj false 1 0) 2 0x2000010080 1 0 2 := by
  refine ⟨fun h => absurd (h.1 rfl).1 (by decide), fun h => absurd (h.2.1 rfl).2.1 (by decide), fun h => absurd (h.2.2 rfl) (by decide)⟩
def stPeer : State := st (gObj false) withTlb fun s => { s with
  mem := { bytes := Bytes.write (Bytes.write [] 0x2000010080 (leBytes 8 (2 ^ 58 + 2 ^ 25))) 0x2000010088 [9] }
  ctxs := [(0, { regs := { en := true }, peerLost := true })] }
theorem witness_ObjectsOfALostPackage : stPeer.running = some (ex (gObj false)) ∧ Idle stPeer (ex (gObj false)) ∧
    ObjAt stPeer (ex (gObj false)) ((gObj false).uni.pair 4) 0x2000010080 ∧ AtHome stPeer 0x2000010080 ∧
    RecordOk stPeer 0 0x2000010080 1 0 9 ∧ (stPeer.ctx 0).peerLost = true ∧ lineNum stPeer 0 0x2000010080 0 4 / 2 ^ 26 = 0 ∧
    lineNum stPeer 0 0x2000010080 0 4 / 2 ^ 25 % 2 ≠ stPeer.dev.pkg :=
  ⟨by decide +kernel, idle (by decide), ⟨pteD, lands (by decide), by decide⟩, atHome (by decide +kernel), recordOk (by decide +kernel), by decide,
    by decide +kernel, by decide +kernel⟩
/-- A semaphore that is broken, of another generation, with another tag, or with a full count. -/
def stSemaB (tag : Word) (gen count : Nat) : State := st (gSema tag) withTlb fun s => { s with
  mem := { bytes := Bytes.write [] 0x2000010080 (leBytes 4 count ++ leBytes 4 7 ++ leBytes 4 8 ++ leBytes 4 gen) } }
theorem witness_SemaphoresRefuse :
    (∀ p ∈ [((7 : Word), 0xFFFFFFFF), (7, 5), (9, 3)], SemaAt (stSemaB p.1 p.2 1) (ex (gSema p.1)) 4 0x2000010080) ∧
    lineNum (stSemaB 7 0xFFFFFFFF 1) 0 0x2000010080 12 4 = 0xFFFFFFFF ∧ lineNum (stSemaB 7 5 1) 0 0x2000010080 12 4 = 5 ∧
    ((gSema 7).uni.sr 7).toNat = 3 ∧ lineNum (stSemaB 9 3 1) 0 0x2000010080 12 4 = 3 ∧ lineNum (stSemaB 9 3 1) 0 0x2000010080 4 4 = 7 ∧
    ((gSema 9).uni.sr 6).toNat = 9 ∧
    SemaOk (stSema 7 0xFFFFFFFF) (ex (gSema 7)) 4 6 1 0x2000010080 ∧ semaCount (stSema 7 0xFFFFFFFF) 0 0x2000010080 = 0xFFFFFFFF := by
  refine ⟨fun p hp => ?_, by decide +kernel, by decide +kernel, by decide, by decide +kernel, by decide +kernel, by decide,
    ⟨⟨⟨pteD, lands (by decide), by decide⟩, atHome (by decide +kernel), by decide⟩, by decide +kernel, by decide +kernel, by decide +kernel⟩, by decide +kernel⟩
  have h : p = (7, 0xFFFFFFFF) ∨ p = (7, 5) ∨ p = (9, 3) := by simpa using hp
  rcases h with rfl | rfl | rfl <;> exact ⟨⟨pteD, lands (by decide), by decide⟩, atHome (by decide +kernel), by decide⟩
/-- A halo push whose range has an earlier replica on the snake path still to reach: core 0 comes before core 1. -/
def push1 : Push := { push0 false with core := 1 }
def stPushes : State := { stPush false with fly := { pushes := [(1, push1), (2, push0 false)] } }
theorem witness_PushesInOrder : mget stPushes.fly.pushes 1 = some push1 ∧ mget stPushes.fly.pushes 2 = some (push0 false) ∧
    ((push0 false).owner, (push0 false).off, (push0 false).len) = (push1.owner, push1.off, push1.len) ∧ (push0 false).path = push1.path ∧
    snakePos ((push0 false).core % 24) < snakePos (push1.core % 24) := by decide
/-- A triangle that ends on the next page; a test's line that has come, of class N; rays whose fault has been served, with room in
their unit. -/
theorem witness_ItemsOfTwoPages : 65536 < (0xFFE0 : DWord).toNat % 65536 + 48 ∧ nextPage 0xFFE0 = 0x10000 ∧
    Lands (st gTest withTlb) (ex gTest) {} [0, 1, 2] 16 0xFFE0 pteD ∧ Lands (st gTest withTlb) (ex gTest) {} [0, 1, 2] 1 0x10000 pteL :=
  ⟨by decide, by decide, lands (by decide +kernel), lands (by decide +kernel)⟩
theorem witness_TestLinesArrive : mget (stTest .back).fly.reqs 3 = some (req (.test 1 false) 0 .back) ∧
    2 ≤ ({ req (.test 1 false) 2 .back with pa := 0x2000010000 } : Req).cls := by decide
theorem witness_ReplayedRays : mget (stTrav bvh true .replayed rec0).rays 5 = some (ray0 .replayed) ∧
    (stTrav bvh true .replayed rec0).tvuCount (ray0 .replayed).core < 512 := by decide
/-- A unit with all its 512 rays. -/
theorem witness_UnitsAreFull : ∃ s : State, mget s.rays 0 = some (ray0 .replayed) ∧ 512 ≤ s.tvuCount 0 := by
  refine ⟨{ rays := (0, ray0 .replayed) :: List.replicate 512 (1, ray0 (.tvu none)) }, by decide, ?_⟩
  simp only [State.tvuCount]
  rw [List.filter_cons_of_neg (by decide), List.filter_replicate_of_pos (by decide), List.length_replicate]
/-- A bin of 4 rays whose cell names the treelet at 0, in an empty cache; a bin that has asked; a clk in which an episode was formed. -/
def stCell (asked : Bool) : State :=
  let s := stBins 4
  let b := s.rayBin 0 (ray0 (.bin 0))
  { s with
    mem := { bytes := pageTable }
    ctxs := [(0, { regs := { en := true, raycap := 64, root := 0x2000000000 }, launches := [(0, launch0)] })]
    clusters := [(0, { rays := { cells := [(s.cellOf 0 (ray0 (.bin 0)), (0, [0]))], asked := if asked then [b] else [], formedAt := some 100 } })] }
def cellRead : Except Nat (DWord × Nat) × State :=
  ((stCell false).modCluster 0 fun k => { k with rays := { k.rays with asked := (stCell false).rayBin 0 (ray0 (.bin 0)) :: k.rays.asked } }).agentTranslate
    0 0 {}
theorem cell_listed : mget ((stCell false).cluster 0).rays.cells ((stCell false).cellOf 0 (ray0 (.bin 0))) = some (0, [0]) := by
  have h : (stCell false).rayBin 0 (ray0 (.bin 0)) = (stBins 4).rayBin 0 (ray0 (.bin 0)) := by decide +kernel
  have k : (stCell false).cellOf 0 (ray0 (.bin 0)) = (stBins 4).cellOf 0 (ray0 (.bin 0)) := by simp only [State.cellOf, h]
  have m : ((stCell false).cluster 0).rays.cells = [((stBins 4).cellOf 0 (ray0 (.bin 0)), (0, [0]))] := rfl
  rw [k, m]
  simp [mget]
theorem witness_CellsArePrefetched : mget (stCell false).rays 0 = some (ray0 (.bin 0)) ∧ 4 ≤ ((stCell false).binned 0).length ∧
    (stCell false).rayBin 0 (ray0 (.bin 0)) ∉ ((stCell false).cluster 0).rays.asked ∧
    mget ((stCell false).cluster 0).rays.cells ((stCell false).cellOf 0 (ray0 (.bin 0))) = some (0, [0]) ∧
    ((stCell false).cluster 0).rays.cache = [] ∧ cellRead = (.ok (pteD, 0x2000010000), cellRead.2) ∧ pteClass pteD ≤ 1 ∧
    (cellRead.2.cluster 0).rays.cache = [] ∧
    (stCell true).rayBin 0 (ray0 (.bin 0)) ∈ ((stCell true).cluster 0).rays.asked ∧
    ((stCell false).cluster 0).rays.formedAt = some (stCell false).now :=
  ⟨by decide +kernel, by decide +kernel, by decide +kernel, cell_listed, by decide +kernel, pair_eq _ _ (by decide +kernel), by decide,
    by decide +kernel, by decide +kernel, by decide +kernel⟩
/-- Joins' counts have room in their slices; headers that pass every check, of the ring too, for a queue with room and for one that
is full; a ring whose slot cannot be read. -/
theorem witness_CountsHaveRoom : SliceRoom (countStore (stCount 2) 0 0x2000010080 1) 0x2000010080 ∧
    (stCount 2).mem.lines = [] ∧ (0x2000010080 : Nat) % 64 = 0 := ⟨.inr (by decide +kernel), by decide, by decide⟩
theorem offered {s : State} {ctx : Nat} {hb : List Byte} {c : CQueue} (h : s.headerReason ctx hb = 0 ∧ s.rayRefused ctx (headerOf hb) = false ∧
    (headerOf hb).comp = 0 ∧ (headerOf hb).mapt = 0 ∧ (s.ctx ctx).launches.length < 64 ∧ mget (s.ctx ctx).queues (headerOf hb).queue = some c) :
    Offered s ctx hb c := ⟨h.1, h.2.1, h.2.2.1, h.2.2.2.1, h.2.2.2.2.1, h.2.2.2.2.2⟩
def stRingOf (base n : Nat) : State :=
  { stRing with
    mem := { bytes := Bytes.write pageTable 0x2000010000 (hdrBytes 0x1000) }
    ctxs := [(0, { ctxQ n with regs := { en := true, root := 0x2000000000 }, rings := { lqbase := base, lqlog := 2, lqhead := 4, lqtail := 5 } })] }
def ringOf (base n : Nat) : Except (Nat × Nat) (List (Byte × Bool)) × State :=
  (stRingOf base n).agentRead 0 { priv := true } [0, 1] (partsOf base 64)
theorem witness_HeadersAreOffered : ∀ n ∈ [3, 4],
    Offered (stLaunch 0x1000 n) 0 (hdrBytes 0x1000) ⟨0, 2, List.replicate n recC, 0⟩ ∧
    lineBytes (stLaunch 0x1000 n) 0 0x2000010080 = hdrBytes 0x1000 ∧
    Offered (stHolding n) 0 (hdrBytes 0x1000) ⟨0, 2, List.replicate n recC, 0⟩ ∧
    (∃ bs, RingOffers (stRingOf 0 n) (ringOf 0 n).2 0 bs ∧ bs.map Prod.fst = hdrBytes 0x1000) ∧
    Offered (ringOf 0 n).2 0 (hdrBytes 0x1000) ⟨0, 2, List.replicate n recC, 0⟩ := by
  intro n h
  have k : n = 3 ∨ n = 4 := by simpa using h
  rcases k with rfl | rfl <;>
    exact ⟨offered (by decide +kernel), by decide +kernel, offered (by decide +kernel),
      ⟨okOf [] (ringOf 0 _).1, ⟨by decide +kernel, pair_eq _ _ (eq_ok [] _ (by decide +kernel)), by decide +kernel⟩, by decide +kernel⟩,
      offered (by decide +kernel)⟩
theorem witness_TheRingStalls : ∃ c va, ringOf 0x2000000000000 3 = (.error (c, va), (ringOf 0x2000000000000 3).2) ∧ c = 5 := by
  have h : (match (ringOf 0x2000000000000 3).1 with | .error p => some p | .ok _ => none) = some (5, 0x2000000000000) := by decide +kernel
  refine ⟨5, 0x2000000000000, ?_, rfl⟩
  generalize ringOf 0x2000000000000 3 = r at *
  obtain ⟨a, b⟩ := r
  cases a with
  | ok => simp at h
  | error p => simp at h; simp [h]
theorem witness_BlocksAreOffered : (stHead (.launch 0)).offerBlock 0 0 0 launchA = some 0 ∧ launchA.ahead = [] ∧ launchA.next < launchA.hdr.blocks ∧
    (∀ c ∈ (stHead (.launch 0)).clusters, c.2.claim = none) ∧ affOk (recW0.toNat / 2 ^ 49 % 4) 0 3 = true ∧
    ({ stEnd 0 with dev := { boot := 3 } } : State).dev.boot = 3 ∧ (stEnd 0).dev.boot ≠ 3 ∧
    SliceRoom (countStore endRead.2 0 0x2000010080 1) 0x2000010080 ∧ SliceRoom (countStore bufRead.2 0 0x2000010080 1) 0x2000010080 :=
  ⟨by decide +kernel, by decide, by decide +kernel, by decide, by decide +kernel, by decide, by decide, .inr (by decide +kernel), .inr (by decide +kernel)⟩
/-- Heads of the queue whose time has passed: multiplies of each kind, and the other operations on tiles 1 to 4 and on spans of 8 rows
at 0x400 of scratch. -/
def entryR (op : MxOp) (read : Option Nat) : MxEntry := { entry0 op (some 2) with read := read, steps := [({}, false)] }
def mulK (k : MulKind) : MxOp := .mul 1 k mapA mapB 0 0 16 rowsC 16 [] [] []
def spans8 (w : Nat) : List (Nat × Nat) := (List.range 8).map fun i => (0, 0x400 + w * i)
def stLand (op : MxOp) (read : Option Nat) (now : Nat) : State :=
  { stMx { queue := [entryR op read], tiles := [(1, { elems := [(0, 5)] }), (2, { elems := [(3, 6)] })]
           ctls := [(1, { cl := 1 }), (2, { lvl := true }), (3, { cl := 1, count := 4 }), (4, { lvl := true, occ := true })] } with now := now }
theorem landsNow {s : State} {c : Nat} {e : MxEntry} {rest : List MxEntry} (b : Nat) (h : (s.core c).mx.queue = e :: rest ∧ (∀ u ∈ rest, u.id ≠ e.id) ∧
    (match e.op with | .mul .. => e.read | _ => e.started) = some b ∧ b + landTime s c e ≤ s.now) : LandsNow s c e rest :=
  ⟨h.1, h.2.1, b, h.2.2⟩
theorem witness_MultipliesLand : ∀ k ∈ [MulKind.plain, .spec 2, .canonical], LandsNow (stLand (mulK k) (some 20) 52) 0 (entryR (mulK k) (some 20)) [] ∧
    (entryR (mulK k) (some 20)).steps.length = (opCores 0 (entryR (mulK k) (some 20))).length ∧ 0 < (ctlOf (stLand (mulK k) (some 20) 52) 0 1).cl := by
  intro k h
  have e : k = .plain ∨ k = .spec 2 ∨ k = .canonical := by simpa using h
  rcases e with rfl | rfl | rfl <;> exact ⟨landsNow 20 (by decide), by decide, by decide⟩
theorem witness_TilesChange : ∀ op ∈ [MxOp.zero 1 1, .commit 1 2 true, .commit 1 2 false, .drop 1 2, .merge 1 3],
    LandsNow (stLand op none 18) 0 (entryR op none) [] ∧ 0 < (ctlOf (stLand op none 18) 0 1).cl ∧ 1 + (ctlOf (stLand op none 18) 0 1).cl < 3 := by
  intro op h
  have e : op = .zero 1 1 ∨ op = .commit 1 2 true ∨ op = .commit 1 2 false ∨ op = .drop 1 2 ∨ op = .merge 1 3 := by simpa using h
  rcases e with rfl | rfl | rfl | rfl | rfl <;> exact ⟨landsNow 2 (by decide), by decide, by decide⟩
theorem spansHere {s : State} {ctx n : Nat} {l : List (Nat × Nat)} (h : (∀ p ∈ l, s.spanThere ctx (p.1, p.2, n) = true) ∧
    (∀ p ∈ l, ∀ w ∈ (s.core p.1).scratch.wins, w.2.maps = []) ∧ ∀ p ∈ l, p.2 % 4 = 0) : SpansHere s ctx l n := ⟨h.1, h.2.1, h.2.2⟩
theorem witness_SpansMove :
    (LandsNow (stLand (.load 1 0 (spans8 512) 8 8) none 18) 0 (entryR (.load 1 0 (spans8 512) 8 8) none) [] ∧
      SpansHere (stLand (.load 1 0 (spans8 512) 8 8) none 18) 0 (spans8 512) 512) ∧
    (LandsNow (stLand (.store 1 3 true (spans8 128) 8 8) none 12) 0 (entryR (.store 1 3 true (spans8 128) 8 8) none) [] ∧
      SpansHere (stLand (.store 1 3 true (spans8 128) 8 8) none 12) 0 (spans8 128) 128 ∧
      ∀ i, i < 8 → ∀ j, j < 8 → i < j → ((spans8 128).getD i (0, 0)).2 + 128 ≤ ((spans8 128).getD j (0, 0)).2) ∧
    (LandsNow (stLand (.planeLd 0x8020 64 8 (spans8 64)) none 12) 0 (entryR (.planeLd 0x8020 64 8 (spans8 64)) none) [] ∧
      SpansHere (stLand (.planeLd 0x8020 64 8 (spans8 64)) none 12) 0 (spans8 64) 64) :=
  ⟨⟨landsNow 2 (by decide +kernel), spansHere (by decide +kernel)⟩, ⟨landsNow 2 (by decide +kernel), spansHere (by decide +kernel), by decide⟩,
    ⟨landsNow 2 (by decide +kernel), spansHere (by decide +kernel)⟩⟩
/-- EXPIRED slots: one whose close is to start, one that closes, of a block that lives and of one whose join is held; one that a use
meets, in a group that has raised a cause before too; a re-activation of one; an access that it still serves. -/
def exSlot (c close : Bool) : RowSlot := { slot0 (.expired c) close with row := 7 }
theorem witness_ExpiredSlots :
    (mget ((rowState { slots := [(3, exSlot false true)] } 0 150).core 0).rows.slots 3 = some (exSlot false true) ∧
      (rowState { slots := [(3, exSlot false true)] } 0 150).moving 0 3 = false) ∧
    ((exSlot false false).since + 20 ≤ (rowState { slots := [(3, exSlot false false)] } 0 150).now ∧
      mget (rowState { slots := [(3, exSlot false false)] } 0 150).blocks 1 = some b0 ∧ b0.joinHeld = false ∧ ({ b0 with joinHeld := true } : Block).joinHeld = true) ∧
    (∀ p ∈ ((rowState { slots := [(3, exSlot true false)] } 0 150).core 0).rows.slots, p.2.ctx = 0) ∧
    ({ gRow 0 with trapping := some raised } : Group).trapping.isSome = true ∧
    (let s := rowState { reopen := [{ saved0 with st := .expired true }] } 0 150;
      (s.core 0).rows.reopen = [{ saved0 with st := .expired true }] ∧ mget s.blocks 1 = some b0 ∧ (s.core 0).rows.slots = []) ∧
    (let s := rowReq (.ld 4 8 false false false false) 3 { slots := [(3, exSlot false true)] };
      s.toRow (reqR (.ld 4 8 false false false false) 3) = true ∧ s.rowTurn 1 (reqR (.ld 4 8 false false false false) 3) true = true) := by decide +kernel
/-- The access comes before a transfer of the slot, for which the close waits. -/
theorem witness_ExpiredSlotsServe : ({ rowReq (.ld 4 8 false false false false) 3 { slots := [(3, exSlot false true)], xfers := [(7, { xfer0 .toScratch none with who := owner0 })] }
    with nextId := 9 } : State).beforeMove 1 (reqR (.ld 4 8 false false false false) 3) = true := by decide +kernel
/-- A transfer to the plane whose last beat was at clk 152; a bank with a refresh owed, and two requests of its own core. -/
theorem witness_PlaneTransfers :
    (let u : Xfer := { xfer0 .toPlane (some 150) with moved := 256, doneAt := some 152 }; u.doneAt = some 152 ∧ 152 + 8 ≤ 160) ∧
    (let k : Rows := { refreshed := [(3, 1)] }; mget k.refreshed 3 = some 1 ∧ 1 < (rowState k 0 8192).now / 4096 ∧ mget k.refreshing 3 = none) ∧
    (let s := rowReq (.ld 4 8 false false false false) 3 {}; s.toBank 0 3 (reqR (.ld 4 8 false false false false) 3) = true ∧
      ∀ q ∈ s.fly.reqs, ¬q.1 < 1) := by decide +kernel
/-- A QPUSH of a card that waits since an earlier issue, in another split of the group; a SUNMAP of a mapping of a window with no
dirty word. -/
def latchCard : Latch := { instr := .qpush ⟨8, false, 0, 16⟩, uni := {}, seq := 1 }
def gCards : Group := { gCard 0x103 with splits := [(0, { sp0 with mask := 0x0F }), (3, { sp0 with mask := 0xF0, st := .wait .pollEng, latch := some latchCard })] }
theorem witness_CardsKeepTheirOrder : (∃ e ∈ gCards.splits, ∃ l p, e.2.latch = some l ∧ l.instr = .qpush p ∧ p.q.toNat < 12 ∧
      (e.2.going = true ∨ e.2.st.waits = true) ∧ l.seq < (st gCards).nextId) ∧
    Idle (st gCards) (ex gCards) ∧ (st gCards).running = some (ex gCards) ∧
    (∀ p ∈ gDeep.splits, p.2.latch = none) :=
  ⟨⟨_, .tail _ (.head _), latchCard, _, rfl, rfl, by decide, by decide, by decide⟩, idle (by decide), by decide, by decide⟩
theorem witness_MappingsGo : Flushed (stMap 0x1F00000 [(3, rwMap)] []) (ex (gMap 0x1F00000)) ∧
    (stMap 0x1F00000 [(3, rwMap)] []).acqBusy (ex (gMap 0x1F00000)) = false :=
  ⟨⟨by decide, by decide, by decide, by decide⟩, by decide⟩
/-- A FILL of rows of class R, at page 0 mapped to the row stack: the rows that it asks for. -/
def pteR : DWord := 0x1F
def stJobR (j : Job) : State := { stJobs [(1, j)] with clusters := [(0, { l2tlb := [⟨0, 0, pteR⟩] })] }
theorem witness_JobsAskForRows : (∃ r ∈ (stJobR (job0 3 2 .running)).jobRows (job0 3 2 .running), r ∉ (job0 3 2 .running).seen) ∧
    mget (stJobR (job0 3 2 .running)).fly.jobs 1 = some (job0 3 2 .running) ∧
    (∀ p ∈ (stJobR (job0 3 2 .queued)).fly.jobs, p.2.st = .queued → (job0 3 2 .queued).order ≤ p.2.order) :=
  ⟨⟨(0, true), by decide +kernel, by decide⟩, by decide, by decide⟩
/-- An image that is not of this core, and one written as it stands. -/
theorem witness_ImagesAreChecked :
    (image0.pkg = (stLoad .loading).dev.pkg ∧ image0.home = 0 ∧ (stLoad .loading).imageStands 0 0 image0 = true) ∧
    ¬(({ image0 with home := 3 } : Saved).pkg = (stLoad .loading).dev.pkg ∧ ({ image0 with home := 3 } : Saved).home = 0) ∧
    (stLoad .loading).imageBytes image0 ≠ 0 := by decide +kernel
/-- A kill that waits: a request of the context in flight, and a row slot of it. -/
theorem witness_KillsWait :
    (∃ r ∈ (stReq (req (ldOp false) 0 .out)).fly.reqs, r.2.who.ctx = 0) ∧
    (∃ c ∈ (rowState { slots := [(3, slot0 .open_ false)] } 0 50).cores, ∃ r ∈ c.2.rows.slots, r.2.ctx = 0) :=
  ⟨⟨_, .head _, by decide⟩, ⟨_, .head _, _, .head _, by decide⟩⟩
/-- BAR2 on the registers, and after a failed boot check; the pair in training; a request in flight at a wrap. -/
def stBar2 (boot : Nat) : State := st g0 id fun s => { s with dev := { s.dev with b2off := 0x4000000000, boot := boot } }
theorem witness_Bar2ShowsRegisters : (∀ n ∈ [1, 3], (stBar2 n).dev.bar2 = none ∧ (stBar2 n).dev.boot = n ∧
      ∀ o ∈ [0x30, 0x1000, 0x3FFFFC], o + 4 ≤ (stBar2 n).dev.b2size ∧ o % 4 = 0 ∧
        (stBar2 n).dev.b2off / (stBar2 n).dev.b2size * (stBar2 n).dev.b2size + o = 0x4000000000 + o) ∧
    (let s : State := { stBar2 3 with dev := { (stBar2 3).dev with b2off := 0x2000000000 } };
      s.dev.b2off / s.dev.b2size * s.dev.b2size + 0x40 + 8 ≤ 0x4000000000) ∧
    (∀ c ∈ (stBar2 1).cores, ∀ l ∈ c.2.l1, (stBar2 1).otherPkg l.1 = false) ∧ (∀ r ∈ (stBar2 1).fly.reqs, (stBar2 1).otherPkg r.2.pa = false) ∧
    1 < (stReq (req (.st false false) 1 .out)).nextId := by decide

/-! ### The manual's examples, one instruction each -/

/-- Register r of lane l after an instruction. -/
def laneAfter (o : Out) (l r : Nat) : Option Word := match o with | .next t => (t.group 0 0).map fun g => (g.lane l).v r | _ => none
def flagsAfter (o : Out) : Option (BitVec 6) := match o with | .next t => (t.group 0 0).map fun g => (g.lane 0).flags | _ => none
/-- Every lane holds the words in v1, v2, v3. -/
def st3 (a b c : Word) : State := st (withLanes fun _ => { regs := [(1, a), (2, b), (3, c)] })
/-- The single-lane results of example 1 of spec 06. -/
theorem test_integer_results :
    laneAfter (execIadd ⟨9, 1, .reg 2, gOk⟩ (st3 0x7FFFFFF0 0x20 0)) 0 9 = some 0x80000010 ∧
    laneAfter (execIaddSat ⟨9, 1, .reg 2, gOk⟩ (st3 0x7FFFFFF0 0x20 0)) 0 9 = some 0x7FFFFFFF ∧
    laneAfter (execIsubSat ⟨9, 1, .reg 2, gOk⟩ (st3 0x80000000 1 0)) 0 9 = some 0x80000000 ∧
    laneAfter (execIabs ⟨9, 1, gOk⟩ (st3 0x80000000 0 0)) 0 9 = some 0x80000000 ∧
    laneAfter (execIdiff ⟨9, 1, .reg 2, gOk⟩ (st3 3 0xFFFFFFFF 0)) 0 9 = some 0xFFFFFFFC ∧
    laneAfter (execIminI ⟨9, 1, .reg 2, gOk⟩ (st3 0xFFFFFFFF 1 0)) 0 9 = some 0xFFFFFFFF ∧
    laneAfter (execIminN ⟨9, 1, .reg 2, gOk⟩ (st3 0xFFFFFFFF 1 0)) 0 9 = some 1 ∧
    laneAfter (execLea3 ⟨6, 2, .reg 1, gOk⟩ (st3 0xFFFFFFFF 0xFFFFFFF0 1)) 0 6 = some 0xFFFFFFE8 ∧
    laneAfter (execLea3 ⟨6, 2, .reg 1, gOk⟩ (st3 0xFFFFFFFF 0xFFFFFFF0 1)) 0 7 = some 1 := by decide
/-- The examples of BYTSEL and IDP4 in spec 06. -/
theorem test_bytsel_and_idp4 :
    laneAfter (execBytsel ⟨9, 1, .reg 2, gOk⟩ (st3 0x80FF7F01 0x8640 0)) 0 9 = some 0x00FF0001 ∧
    laneAfter (execIdp4I8 ⟨9, 1, 2, 3, gOk⟩ (st3 0x017E4038 0x3838B838 0)) 0 9 = some 0x1608 := by decide
/-- Examples 2 to 4 of spec 06 and example 1 of spec 02. -/
theorem test_float_results :
    laneAfter (execFfma ⟨8, 1, 2, 3, gOk⟩ (st3 0x3F800001 0x3F800001 0xBF800002)) 0 8 = some 0x28800000 ∧
    laneAfter (execFmul ⟨8, 1, .reg 2, gOk⟩ (st3 0x3F800001 0x3F800001 0)) 0 8 = some 0x3F800002 ∧
    flagsAfter (execFmul ⟨8, 1, .reg 2, gOk⟩ (st3 0x3F800001 0x3F800001 0)) = some flIX ∧
    laneAfter (execFadd ⟨8, 1, .reg 2, gOk⟩ (st3 0x3F800002 0xBF800002 0)) 0 8 = some 0 ∧
    laneAfter (execDp4E4m3 ⟨5, 1, 2, 3, gOk⟩ (st3 0x017E4038 0x3838B838 0x3F800000)) 0 5 = some 0x43E00040 ∧
    laneAfter (execDp4E4m3 ⟨5, 1, 2, 3, gOk⟩ (st3 0x7F7E4038 0x3838B838 0x3F800000)) 0 5 = some 0x7FC00000 ∧
    laneAfter (execCvt ⟨3, .reg 1, true, 0, 12, gOk⟩ (st3 0x447A0000 0 0)) 0 3 = some 0x7E ∧
    flagsAfter (execCvt ⟨3, .reg 1, true, 0, 12, gOk⟩ (st3 0x447A0000 0 0)) = some (flOF ||| flIX) := by decide +kernel
/-- Example 3 of spec 06: packing and unpacking. -/
theorem test_pack_and_unpack :
    laneAfter (execPk4E4m3Sat ⟨9, 2, 6, gOk⟩
      (st (withLanes fun _ => { regs := [(2, 0x447A0000), (3, 0xBF000000), (6, 0x7FC00000), (7, 0x40400000)] }))) 0 9 = some 0x447FB07E ∧
    [12, 13, 14, 15].map (laneAfter (execUpk4E4m3 ⟨12, 1, gOk⟩ (st3 0x447FB07E 0 0)) 0) =
      [some 0x43E00000, some 0xBF000000, some 0x7FC00000, some 0x40400000] := by decide +kernel
/-- Example 1 of spec 04: LXC.flip by 1 over lanes 0, 1, 2, 4 and 5; and the sum of those lanes, by R107. -/
theorem test_lane_exchange :
    let s := st { withLanes (fun l => { regs := [(2, BitVec.ofNat 32 (0x10 + l))] }) with splits := [(0, { sp0 with mask := 0x37 })] }
    (List.range 8).map (fun l => laneAfter (execLxcFlip ⟨3, 2, .lit 1, gOk⟩ s) l 3) =
      [some 0x11, some 0x10, some 0x12, some 0, some 0x15, some 0x14, some 0, some 0] ∧
    laneAfter (execLsum ⟨6, 2, gOk⟩ s) 5 6 = some 0x5C ∧ laneAfter (execLsum ⟨6, 2, gOk⟩ s) 3 6 = some 0 := by decide
/-- Example 5 of spec 06: a uniform loop counts down. -/
def uniAfter (o : Out) (f : Uniform → Bool) : Bool := match o with | .next t => ((t.group 0 0).map fun g => f g.uni).getD false | _ => false
theorem test_uniform_countdown :
    uniAfter (execUaddi ⟨4, 4, -1⟩ (st (withUni fun u => { u with s := [(4, 1)] }))) (fun u => u.sr 4 == 0) = true ∧
    uniAfter (execUset ⟨1, 0, 4, .lit 0, 1⟩ (st (withUni fun u => { u with conds := 2 }))) (fun u => !u.c 1) = true := by decide

end Sys2Proof.Tests
end

section
/-! Which lanes a guard makes active (R5, R56), and what writes to a register, to a predicate and to a byte of a word leave. -/
namespace Sys2Proof.Machine

/-! ### Bits and bytes -/

/-- The bits of a power of two. -/
theorem getLsbD_ofNat_two_pow (w i j : Nat) :
    (BitVec.ofNat w (2 ^ i)).getLsbD j = (decide (j < w) && decide (i = j)) := by
  rw [BitVec.getLsbD_ofNat, Nat.testBit_two_pow]

/-- A changed bit reads what was put there, and every other bit as before. -/
theorem getLsbD_setBit {w : Nat} (x : BitVec w) (i j : Nat) (v : Bool) (hi : i < w) :
    (setBit x i v).getLsbD j = if j = i then v else x.getLsbD j := by
  have inside : x.getLsbD j = true → j < w := BitVec.lt_of_getLsbD
  cases v
  · show (x &&& ~~~ BitVec.ofNat w (2 ^ i)).getLsbD j = _
    rw [BitVec.getLsbD_and, BitVec.getLsbD_not, getLsbD_ofNat_two_pow]
    obtain rfl | hj := eq_or_ne j i
    · simp
    · simpa [hj, hj.symm] using inside
  · show (x ||| BitVec.ofNat w (2 ^ i)).getLsbD j = _
    rw [BitVec.getLsbD_or, getLsbD_ofNat_two_pow]
    obtain rfl | hj := eq_or_ne j i
    · simp [hi]
    · simp [hj, hj.symm]

/-- A changed byte of a word reads what was put there, and every other byte as before. -/
theorem getLsbD_setByte (w : Word) (n : Nat) (b : Byte) (i : Nat) (hi : i < 32) :
    (setByte w n b).getLsbD i = if i / 8 = n then b.getLsbD (i % 8) else w.getLsbD i := by
  have ones : ∀ j, (0xFF : Word).getLsbD j = decide (j < 8) := fun j => by
    rw [show (0xFF : Word) = BitVec.ofNat 32 (2 ^ 8 - 1) from rfl, BitVec.getLsbD_ofNat, Nat.testBit_two_pow_sub_one,
      ← Bool.decide_and, decide_eq_decide]
    omega
  show ((w &&& ~~~ ((0xFF : Word) <<< (8 * n))) ||| (b.zeroExtend 32 <<< (8 * n))).getLsbD i = _
  rw [BitVec.getLsbD_or, BitVec.getLsbD_and, BitVec.getLsbD_not, BitVec.getLsbD_shiftLeft, BitVec.getLsbD_shiftLeft, ones]
  obtain below | rfl | above := lt_trichotomy (i / 8) n
  · have hlow : i < 8 * n := by omega
    simp [hi, hlow, below.ne]
  · have hlow : ¬ i < 8 * (i / 8) := by omega
    have hoff : i - 8 * (i / 8) = i % 8 := by omega
    have hmod : i % 8 < 8 := Nat.mod_lt i (by decide)
    have hword : i % 8 < 32 := by omega
    simp [hi, hlow, hoff, hmod, hword]
  · have hlow : ¬ i < 8 * n := by omega
    have hoff : 8 ≤ i - 8 * n := by omega
    simp [hi, hlow, hoff, hoff.not_gt, above.ne', BitVec.getLsbD_of_ge]

/-- The bits of p0 to p6 with a 1 above them. -/
theorem getLsbD_one_append (p : BitVec 7) (i : Nat) (hi : i < 8) :
    (1#1 ++ p : BitVec 8).getLsbD i = (i == 7 || p.getLsbD i) := by
  rw [BitVec.getLsbD_append]
  obtain low | rfl : i < 7 ∨ i = 7 := by omega
  · simp [low, low.ne]
  · simp

/-! ### Masks and guards -/

/-- Lane k of two masks together. -/
@[simp] theorem Mask.has_or (a b : Mask) (k : Nat) : Mask.has (a ||| b) k = (Mask.has a k || Mask.has b k) :=
  BitVec.getLsbD_or

/-- Lane k of the mask of one lane. -/
theorem Mask.has_laneBit (l k : Nat) : Mask.has (laneBit l) k = true ↔ k < 8 ∧ k = l := by
  rw [Mask.has, laneBit, getLsbD_ofNat_two_pow, Bool.and_eq_true, decide_eq_true_eq, decide_eq_true_eq, eq_comm (a := l)]

/-- The mask of a list holds the lanes of the list, as far as there are lanes. -/
theorem Mask.has_maskOf (ls : List Nat) (k : Nat) : Mask.has (maskOf ls) k = true ↔ k < 8 ∧ k ∈ ls := by
  induction ls with
  | nil => simp [maskOf, Mask.has]
  | cons l t ih =>
    rw [maskOf, Mask.has_or, Bool.or_eq_true, Mask.has_laneBit, ih, List.mem_cons, and_or_left]

/-- The active lanes are the lanes of the mask in which the guard holds. -/
theorem Group.has_active (g : Group) (m : Mask) (gd : Guard) (l : Nat) :
    Mask.has (g.active m gd) l = true ↔ Mask.has m l = true ∧ Guard.holds gd (g.lane l) = true := by
  have lane_lt : Mask.has m l = true → l < 8 := BitVec.lt_of_getLsbD
  simp only [Group.active, Mask.has_maskOf, lanesOf, List.mem_filter, List.mem_range]
  tauto

/-- A predicate reads 1 where it is p7 or its bit is set (R113). -/
theorem Lane.p_iff (ln : Lane) (p : BitVec 3) : ln.p p = true ↔ p = 7 ∨ ln.preds.getLsbD p.toNat = true := by
  simp [Lane.p, Bool.or_eq_true]

/-- A guard holds where its predicate is 1 and it is not negated, or is 0 and it is. -/
theorem Guard.holds_iff (gd : Guard) (ln : Lane) :
    Guard.holds gd ln = true ↔ ((gd.p = 7 ∨ ln.preds.getLsbD gd.p.toNat = true) ↔ gd.n = false) := by
  rw [← Lane.p_iff, Guard.holds]
  cases ln.p gd.p <;> cases gd.n <;> decide

/-! ### Predicates -/

/-- A predicate reads what was written to it, unless it is p7, and every other predicate as before. -/
theorem Lane.p_setP (ln : Lane) (p q : BitVec 3) (v : Bool) :
    (ln.setP p v).p q = if q = p ∧ p ≠ 7 then v else ln.p q := by
  by_cases hp : p = 7
  · rw [if_neg fun h => h.2 hp, hp]; rfl
  · have hset : ln.setP p v = { ln with preds := setBit ln.preds p.toNat v } := if_neg (mt beq_iff_eq.1 hp)
    have hlt : p.toNat < 7 := by bv_omega
    rw [hset]
    by_cases hq : q = 7
    · rw [if_neg fun h => hp (h.1.symm.trans hq), hq]; rfl
    · have bit : ∀ a : Lane, a.p q = a.preds.getLsbD q.toNat := fun _ => if_neg (mt beq_iff_eq.1 hq)
      simp only [bit, getLsbD_setBit _ _ _ _ hlt, BitVec.toNat_inj, ne_eq, hp, not_false_eq_true, and_true]

end Sys2Proof.Machine

/-! What the shared shapes of lane instructions do, in the words of the statements (R5, R54, R137). -/
namespace Sys2Proof.Claims
open Sys2Proof.Machine

/-- A register written is the only change. -/
theorem SetsReg.of_setV (a : Lane) (r : Nat) (w : Word) : SetsReg a (a.setV r w) r w where
  value := (Lane.v_setV a r r w).trans (if_pos rfl)
  others k hk := (Lane.regs_setV a r k w).trans (if_neg hk)
  rest := rfl

/-- A predicate written is the only change; a write to p7 changes nothing. -/
theorem SetsPred.of_setP (a : Lane) (p : BitVec 3) (v : Bool) : SetsPred a (a.setP p v) p v where
  value hp := (Lane.p_setP a p p v).trans (if_pos ⟨rfl, hp⟩)
  others q hq := (Lane.p_setP a p q v).trans (if_neg fun h => hq h.1)
  one := Lane.p_seven _
  rest := by unfold Lane.setP; split <;> rfl

/-- An instruction that changes its group and completes changes nothing but the group. -/
theorem OnlyGroup.of_done {s : State} {x : Ex} (n : Nat) (f : Group → Group) (h : s.running = some x) :
    OnlyGroup s (s.done x n f) x ((f x.gr).advance x.entry n) where
  group := State.group_done n f h
  others _ _ hck := State.group_done_ne s x n f hck
  cores := State.core_done s x n f
  memory _ := rfl
  rest := rfl

/-- The executing split alone goes on. -/
theorem Advances.of_advance {g g' : Group} (e n : Nat) (h : g'.splits = g.splits) : Advances g (g'.advance e n) e n where
  self := by rw [← h]; exact mget_mmod_same ..
  others k hk := by rw [← h]; exact (mget_mmod ..).trans (if_neg hk)

/-- A change of the active lanes, each alone, and the advance of the split. -/
theorem LaneStep.of_modLanes {g : Group} {act : Mask} {f : Nat → Lane → Lane} {r : Nat → Lane → Lane → Prop} (e n : Nat)
    (h : ∀ l, Mask.has act l = true → r l (g.lane l) (f l (g.lane l))) :
    LaneStep g ((g.modLanes act f).advance e n) e n act r where
  active l hl := by
    show r l (g.lane l) ((g.modLanes act f).lane l)
    rw [Group.lane_modLanes, if_pos hl]; exact h l hl
  idle l hl := by
    show (g.modLanes act f).lane l = _
    rw [Group.lane_modLanes, if_neg (by simp [hl])]
  pc := Advances.of_advance e n (Group.splits_modLanes g act f)
  rest := congrArg (fun k : Group => { k with splits := [] }) (Group.rest_modLanes g act f)

/-- An instruction that changes the active lanes, each alone, and completes. -/
theorem LaneDoes.of_done {i : Instr} {n : Nat} {gd : Guard} {f : Ex → Nat → Lane → Lane} {r : Ex → Nat → Lane → Lane → Prop}
    (run : ∀ s x, s.running = some x → exec i s = .next (s.done x n fun g => g.modLanes (x.active gd) (f x)))
    (h : ∀ x l, Mask.has (x.active gd) l = true → r x l (x.gr.lane l) (f x l (x.gr.lane l))) : LaneDoes i n gd r :=
  fun s x hx => ⟨_, _, run s x hx, OnlyGroup.of_done n _ hx, LaneStep.of_modLanes x.entry n (h x)⟩

/-- An instruction of the shape `laneOp`, which changes each active lane from that lane alone. -/
theorem LaneDoes.of_laneOp {i : Instr} {n : Nat} {gd : Guard} {f : Lane → Lane} {r : Ex → Nat → Lane → Lane → Prop}
    (run : ∀ s, exec i s = laneOp s n gd f) (h : ∀ x l a, r x l a (f a)) : LaneDoes i n gd r :=
  LaneDoes.of_done (f := fun _ _ => f) (fun s _ hx => (run s).trans (laneOp_running n gd f hx)) fun x l _ => h x l _

/-- An instruction of the shape `laneOpU`, which reads the group's uniform state too. -/
theorem LaneDoes.of_laneOpU {i : Instr} {n : Nat} {gd : Guard} {f : Uniform → Nat → Lane → Lane}
    {r : Ex → Nat → Lane → Lane → Prop}
    (run : ∀ s, exec i s = laneOpU s n gd f) (h : ∀ x l a, r x l a (f x.gr.uni l a)) : LaneDoes i n gd r :=
  LaneDoes.of_done (f := fun x => f x.gr.uni) (fun s _ hx => (run s).trans (laneOpU_running n gd f hx)) fun x l _ => h x l _

/-- A lane instruction that writes one predicate. -/
theorem LaneDoes.of_setP {i : Instr} {n : Nat} {gd : Guard} {p : BitVec 3} {v : Lane → Bool}
    (run : ∀ s, exec i s = laneOp s n gd fun ln => ln.setP p (v ln)) : LaneDoes i n gd fun _ _ a b => SetsPred a b p (v a) :=
  LaneDoes.of_laneOp run fun _ _ a => SetsPred.of_setP a p (v a)

/-- A lane instruction that writes one register. -/
theorem LaneDoes.of_setV {i : Instr} {n : Nat} {gd : Guard} {d : Nat} {v : Lane → Word}
    (run : ∀ s, exec i s = laneOp s n gd fun ln => ln.setV d (v ln)) : LaneDoes i n gd fun _ _ a b => SetsReg a b d (v a) :=
  LaneDoes.of_laneOp run fun _ _ a => SetsReg.of_setV a d (v a)

end Sys2Proof.Claims

/-! Guards, moves, SEL and the predicate instructions. -/
namespace Sys2Proof.Proofs
open Sys2Proof Sys2Proof.Machine Sys2Proof.Claims

theorem guardSelectsActiveLanes : GuardSelectsActiveLanes := fun x g l =>
  (Group.has_active x.gr x.sp.mask g l).trans (and_congr_right fun _ => Guard.holds_iff g (x.gr.lane l))

theorem ppack_does (o : PkO) : LaneDoes (.ppack o) 4 o.g fun _ _ a b => ∃ w : Word, SetsReg a b o.d.toNat w ∧
    ∀ i, i < 32 → w.getLsbD i =
      if i / 8 = o.k.toNat then (i % 8 == 7 || a.preds.getLsbD (i % 8)) else (a.v o.a.toNat).getLsbD i :=
  LaneDoes.of_laneOp (fun _ => rfl) fun _ _ a => ⟨_, SetsReg.of_setV a _ _, fun i hi => by
    rw [getLsbD_setByte _ _ _ _ hi, getLsbD_one_append _ _ (Nat.mod_lt i (by decide))]⟩

theorem punpk_does (o : UpkO) : LaneDoes (.punpk o) 4 o.g fun _ _ a b =>
    (∀ i, i < 7 → b.preds.getLsbD i = (a.v o.a.toNat).getLsbD (8 * o.k.toNat + i)) ∧
    { b with preds := 0 } = { a with preds := 0 } :=
  LaneDoes.of_laneOp (fun _ => rfl) fun _ _ _ => ⟨fun i hi => by simp [hi], rfl⟩

theorem laneMovesAndPredicates : LaneMovesAndPredicates :=
  ⟨fun _ => LaneDoes.of_setV fun _ => rfl,
   fun _ => LaneDoes.of_setV fun _ => rfl,
   fun o => LaneDoes.of_laneOpU (f := fun u _ a => a.setV o.d.toNat (u.sr o.s.toNat)) (fun _ => rfl) fun _ _ a =>
     SetsReg.of_setV a _ _,
   fun _ => LaneDoes.of_setP fun _ => rfl,
   fun _ => LaneDoes.of_setP fun _ => rfl,
   fun _ => LaneDoes.of_setP fun _ => rfl,
   fun _ => LaneDoes.of_setP fun _ => rfl,
   fun _ => LaneDoes.of_setP fun _ => rfl,
   ppack_does, punpk_does⟩

/-- Settles O6: the guard's rule, and the shape of each instruction. -/
theorem activeLanesAndMoves : Obligations.ActiveLanesAndMoves :=
  ⟨guardSelectsActiveLanes, laneMovesAndPredicates⟩

end Sys2Proof.Proofs
end

section
/-! What a byte of memory reads after each operation that writes memory (R2, R204). -/
namespace Sys2Proof.Machine

/-- A written byte reads back, and every other byte reads as before. -/
theorem Bytes.at_put (b : Bytes) (a : Nat) (x : Byte) (k : Nat) :
    Bytes.at_ (Bytes.put b a x) k = if k = a then x else Bytes.at_ b k :=
  mgetD_mput 0 b a k x

/-- A written list of bytes reads back from its first address on, and every byte outside it reads as before. -/
theorem Bytes.at_write (b : Bytes) (a : Nat) (l : List Byte) (k : Nat) :
    Bytes.at_ (Bytes.write b a l) k = if a ≤ k ∧ k < a + l.length then l.getD (k - a) 0 else Bytes.at_ b k := by
  induction l generalizing b a with
  | nil => rw [if_neg (by simp only [List.length_nil]; omega)]; rfl
  | cons x t ih =>
    rw [Bytes.write, ih, Bytes.at_put, List.length_cons]
    obtain below | rfl | above := lt_trichotomy k a
    · rw [if_neg (by omega), if_neg (by omega), if_neg (by omega)]
    · simp
    · obtain ⟨j, rfl⟩ := Nat.exists_eq_add_of_lt above
      have hj : a + j + 1 - a = j + 1 := by omega
      have hj' : a + j + 1 - (a + 1) = j := by omega
      have hin : (a + 1 ≤ a + j + 1 ∧ a + j + 1 < a + 1 + t.length) ↔
          (a ≤ a + j + 1 ∧ a + j + 1 < a + (t.length + 1)) := by omega
      simp only [hin, hj, hj', List.getD_cons_succ, if_neg (show a + j + 1 ≠ a by omega)]

/-- Bytes put at a list of offsets, each with a value that its offset gives. -/
theorem Bytes.at_foldl_put (l : List Nat) (a : Nat) (f : Nat → Byte) (b : Bytes) (k : Nat) :
    Bytes.at_ (l.foldl (fun b i => Bytes.put b (a + i) (f i)) b) k =
      if a ≤ k ∧ k - a ∈ l then f (k - a) else Bytes.at_ b k := by
  induction l generalizing b with
  | nil => simp
  | cons i t ih =>
    rw [List.foldl_cons, ih, Bytes.at_put]
    by_cases hk : k = a + i
    · subst hk; simp
    · have hi : a ≤ k → k - a ≠ i := by omega
      by_cases ha : a ≤ k
      · simp [ha, hk, hi ha]
      · simp [ha, hk]

/-- The bytes of a line whose mask bits are set read back, and every other byte reads as before. -/
theorem Bytes.at_writeLine (b : Bytes) (a : Nat) (d : Line) (m : BitVec 64) (k : Nat) :
    Bytes.at_ (Bytes.writeLine b a d m) k =
      if a ≤ k ∧ k < a + 64 ∧ m.getLsbD (k - a) = true then lineByte d (k - a) else Bytes.at_ b k := by
  have offset : (a ≤ k ∧ k - a < 64 ∧ m.getLsbD (k - a) = true) ↔
      (a ≤ k ∧ k < a + 64 ∧ m.getLsbD (k - a) = true) :=
    and_congr_right fun _ => and_congr_left fun _ => by omega
  simp only [Bytes.writeLine, Bytes.at_foldl_put, List.mem_filter, List.mem_range, offset]

/-- The bytes read from where a list was written: the list, and beyond its end the bytes that stood there. -/
theorem Bytes.read_write (b : Bytes) (a : Nat) (l : List Byte) (n : Nat) :
    Bytes.read (Bytes.write b a l) a n =
      (List.range n).map fun i => if i < l.length then l.getD i 0 else Bytes.at_ b (a + i) := by
  simp [Bytes.read, Bytes.at_write]

end Sys2Proof.Machine

namespace Sys2Proof.Proofs
open Sys2Proof Sys2Proof.Machine

/-- Settles O60: each conjunct is the reading rule of one writing operation. -/
theorem memoryReadsWhatWasWritten : Obligations.MemoryReadsWhatWasWritten := fun b =>
  ⟨Bytes.at_put b, Bytes.at_write b, Bytes.at_writeLine b, fun n a l _ => Bytes.read_write b a l n⟩

end Sys2Proof.Proofs
end

section
/-! The copies of lines that the cores hold, and what dropping and reclaiming a line does to them (R219, R220, R452). -/
namespace Sys2Proof.Machine

/-! ### Sparse maps -/

/-- A key of a listed pair is found. -/
theorem mget_ne_none_of_mem {α : Type} {m : Map α} {p : Nat × α} (h : p ∈ m) : mget m p.1 ≠ none := by
  induction m with
  | nil => cases h
  | cons q t ih =>
    rw [mget]
    split
    · exact Option.some_ne_none _
    · next hne => exact ih ((List.mem_cons.1 h).resolve_left fun e => hne (congrArg Prod.fst e))

/-- What is found at a key is listed there. -/
theorem mem_of_mget {α : Type} {m : Map α} {n : Nat} {x : α} (h : mget m n = some x) : (n, x) ∈ m := by
  induction m with
  | nil => cases h
  | cons q t ih =>
    rw [mget] at h
    split at h
    · next e => cases h; exact e ▸ List.mem_cons_self ..
    · exact List.mem_cons_of_mem _ (ih h)

/-- Reading a map of which the pairs of some keys were kept. -/
theorem mget_mkeep_keys {α : Type} (m : Map α) (f : Nat → Bool) (k : Nat) :
    mget (mkeep m fun a _ => f a) k = if f k = true then mget m k else none := by
  unfold mkeep
  induction m with
  | nil => exact (ite_self none).symm
  | cons q t ih =>
    rw [List.filter_cons]
    by_cases hq : f q.1 = true <;> by_cases hk : k = q.1
    · simp [mget, hq, hk]
    · simpa [mget, hq, hk] using ih
    · simpa [hq, hk] using ih
    · simpa [mget, hq, hk] using ih

/-- A fold whose every step leaves the state as it is. -/
theorem foldl_eq_self {α β : Type} {f : β → α → β} {b : β} {l : List α} (h : ∀ a ∈ l, f b a = b) : l.foldl f b = b := by
  induction l with
  | nil => rfl
  | cons a t ih => rw [List.foldl_cons, h a (List.mem_cons_self ..), ih fun x hx => h x (List.mem_cons_of_mem _ hx)]

/-! ### Copies -/

/-- A core's L1 holds a copy of the line of an address. -/
def State.HasCopy (s : State) (c a : Nat) : Prop := mget (s.core c).l1 a ≠ none

/-- A core that has a copy is listed. -/
theorem State.HasCopy.listed {s : State} {c a : Nat} (h : s.HasCopy c a) : (c, s.core c) ∈ s.cores := by
  rw [State.HasCopy, State.core, mgetD] at h
  rw [State.core, mgetD]
  cases hk : mget s.cores c with
  | none => rw [hk] at h; exact absurd rfl h
  | some k => exact mem_of_mget hk

/-- The L1s after a change of one core. -/
theorem State.l1_modCore (s : State) (c k : Nat) (f : Core → Core) :
    ((s.modCore c f).core k).l1 = if k = c then (f (s.core c)).l1 else (s.core k).l1 := by
  split
  · next e => subst e; rw [State.core_modCore_same]
  · next e => rw [State.core_modCore_ne _ _ e]

/-- A counter's change leaves every L1. -/
@[simp] theorem State.l1_bump (s : State) (core k n : Nat) (x : Ctr) : ((s.bump core x n).core k).l1 = (s.core k).l1 := by
  rw [State.bump]
  split
  · rfl
  · rw [State.l1_modCore]; split
    · next e => rw [e]
    · rfl

/-- A dropped copy is gone, and every other copy stays. -/
theorem State.hasCopy_dropCopy (s : State) (c pa k a : Nat) :
    (s.dropCopy c pa).HasCopy k a ↔ s.HasCopy k a ∧ ¬(k = c ∧ a = pa) := by
  have bumped : ∀ (x : L1Line) i, ((if x.pref then s.bump c .pfevu else s).core i).l1 = (s.core i).l1 := fun x i => by
    split <;> simp
  unfold State.HasCopy State.dropCopy
  split
  · next x _ =>
    rw [State.l1_modCore]
    obtain rfl | hk := eq_or_ne k c
    · simp only [mget_mdel, bumped, true_and, if_true]
      obtain rfl | ha := eq_or_ne a pa
      · simp
      · simp [ha]
    · simp [hk, bumped]
  · next hx => exact ⟨fun h => ⟨h, fun e => h (by rw [e.1, e.2, hx])⟩, And.left⟩
@[simp] theorem State.dropCopy_dev (s : State) (c pa : Nat) : (s.dropCopy c pa).dev = s.dev := by
  unfold State.dropCopy; split
  · split <;> simp
  · rfl
@[simp] theorem State.dropCopy_ctxs (s : State) (c pa : Nat) : (s.dropCopy c pa).ctxs = s.ctxs := by
  unfold State.dropCopy; split
  · split <;> simp
  · rfl

/-- The copies of a line dropped from each core of a list. -/
theorem State.hasCopy_foldl_dropCopy (l : Map Core) (pa : Nat) (s : State) (k a : Nat) :
    (l.foldl (fun s p => s.dropCopy p.1 pa) s).HasCopy k a ↔ s.HasCopy k a ∧ ¬(a = pa ∧ k ∈ l.map Prod.fst) := by
  induction l generalizing s with
  | nil => simp
  | cons p t ih =>
    simp only [List.foldl_cons, ih, State.hasCopy_dropCopy, List.map_cons, List.mem_cons]
    tauto

/-- Where a write-back of the line is on its way it lands in memory; the cores stay. -/
theorem State.landWb_frame (s : State) (pa : Nat) :
    (s.landWb pa).cores = s.cores ∧ (s.landWb pa).dev = s.dev ∧ (s.landWb pa).ctxs = s.ctxs := by
  unfold State.landWb; split <;> exact ⟨rfl, rfl, rfl⟩

/-- A probe for a read changes one copy at most, that of its line in its owner, which becomes S. -/
theorem State.l1_cleanLine (s : State) (pa k a : Nat) :
    mget ((s.cleanLine pa).core k).l1 a = mget (s.core k).l1 a ∨
      a = pa ∧ ∃ x, mget ((s.cleanLine pa).core k).l1 a = some x ∧ x.st = .shared := by
  have landed : ∀ c, (s.landWb pa).core c = s.core c := fun c => by
    rw [State.core, (s.landWb_frame pa).1]; rfl
  unfold State.cleanLine
  dsimp only
  split
  · next c l _ =>
    rw [State.l1_modCore]
    split
    · next e =>
      subst e
      by_cases ha : a = pa
      · subst ha; exact .inr ⟨rfl, _, mget_mset_same .., rfl⟩
      · exact .inl ((mget_mset_ne _ _ ha).trans (by rw [← landed k]; rfl))
    · exact .inl (by rw [← landed k]; rfl)
  · exact .inl (by rw [landed])
theorem State.cleanLine_frame (s : State) (pa : Nat) :
    (s.cleanLine pa).dev = s.dev ∧ (s.cleanLine pa).ctxs = s.ctxs := by
  obtain ⟨-, hd, hx⟩ := s.landWb_frame pa
  unfold State.cleanLine; dsimp only; split <;> exact ⟨hd, hx⟩

/-- A core that gives up its copies of a line when the line is reclaimed: it holds one that is not a lease. -/
def Core.yields (k : Core) (pa : Nat) : Bool := match mget k.l1 pa with | some l => l.st ≠ .lease | none => false

/-- The L1s after a line is given up: those after the probe, with the copies of that line dropped. -/
theorem State.core_reclaim (s : State) (pa c : Nat) : (s.reclaim pa).core c =
    (((s.cleanLine pa).cores.filter fun p => p.2.yields pa).foldl (fun (s : State) p => s.dropCopy p.1 pa)
      { s.cleanLine pa with fly := { (s.cleanLine pa).fly with
        reqs := mall (s.cleanLine pa).fly.reqs fun _ r => if r.filling pa then { r with stale := true } else r } }).core c := by
  unfold State.reclaim
  dsimp only
  split <;> rfl

/-- A line that is given up gains no copy: the copy that its probe makes S is one of those dropped. -/
theorem State.HasCopy.of_reclaim {s : State} {pa c a : Nat} (h : (s.reclaim pa).HasCopy c a) : s.HasCopy c a := by
  rw [State.HasCopy, State.core_reclaim] at h
  obtain ⟨hcopy, hkept⟩ := (State.hasCopy_foldl_dropCopy ..).1 h
  replace hcopy : (s.cleanLine pa).HasCopy c a := hcopy
  obtain same | ⟨rfl, x, hx, hst⟩ := s.l1_cleanLine pa c a
  · rwa [State.HasCopy, same] at hcopy
  · have yields : ((s.cleanLine a).core c).yields a = true := by simp [Core.yields, hx, hst]
    exact absurd ⟨rfl, List.mem_map.2 ⟨(c, (s.cleanLine a).core c), List.mem_filter.2 ⟨hcopy.listed, yields⟩, rfl⟩⟩ hkept
theorem State.reclaim_frame (s : State) (pa : Nat) : (s.reclaim pa).dev = s.dev ∧ (s.reclaim pa).ctxs = s.ctxs := by
  unfold State.reclaim
  dsimp only
  have kept : ∀ (l : Map Core) (u : State), (l.foldl (fun s p => s.dropCopy p.1 pa) u).dev = u.dev ∧
      (l.foldl (fun s p => s.dropCopy p.1 pa) u).ctxs = u.ctxs := fun l u =>
    foldl_keeps (fun t : State => t.dev = u.dev ∧ t.ctxs = u.ctxs) _ l (fun _ _ h => by simpa using h) u ⟨rfl, rfl⟩
  obtain ⟨hd, hx⟩ := s.cleanLine_frame pa
  split
  · exact ⟨(kept ..).1.trans hd, (kept ..).2.trans hx⟩
  · exact ⟨(kept ..).1.trans hd, (kept ..).2.trans hx⟩

end Sys2Proof.Machine
end

section
/-! What the accesses of the KZ8's own agents keep: the level of the pair link, the marks of a context that its peer is lost, the
copies of the cores (R217, R219, R450, R452). -/
namespace Sys2Proof.Machine

/-- From a state to a later one the level of the pair link is the same, and a core has gained no copy of a line over a lost link. -/
structure CopiesStay (s t : State) : Prop where
  pair : t.dev.pair = s.dev.pair
  copies : ∀ c a, t.HasCopy c a → s.HasCopy c a ∨ s.lostLink a = false

/-- Besides, the launches of every context and its mark of a lost peer are the same. -/
structure Keeps (s t : State) : Prop extends CopiesStay s t where
  marks : ∀ x, (t.ctx x).peerLost = (s.ctx x).peerLost ∧ (t.ctx x).launches = (s.ctx x).launches

/-- Which lines lie over a lost link depends on the level of the link alone. -/
theorem State.lostLink_congr {s t : State} (h : t.dev.pair = s.dev.pair) (a : Nat) : t.lostLink a = s.lostLink a := by
  rw [State.lostLink, State.lostLink, State.otherPkg, State.otherPkg, h]

theorem CopiesStay.trans {s t u : State} (h : CopiesStay s t) (g : CopiesStay t u) : CopiesStay s u where
  pair := g.pair.trans h.pair
  copies c a hu := (g.copies c a hu).elim (h.copies c a) fun e => .inr ((State.lostLink_congr h.pair a).symm.trans e)
theorem CopiesStay.refl (s : State) : CopiesStay s s := ⟨rfl, fun _ _ => .inl⟩
theorem CopiesStay.foldl {α : Type} {f : State → α → State} (h : ∀ s a, CopiesStay s (f s a)) (l : List α) (s : State) :
    CopiesStay s (l.foldl f s) := foldl_keeps (CopiesStay s) f l (fun t a ht => ht.trans (h t a)) s (.refl s)

namespace Keeps

theorem refl (s : State) : Keeps s s := ⟨.refl s, fun _ => ⟨rfl, rfl⟩⟩
theorem trans {s t u : State} (h : Keeps s t) (g : Keeps t u) : Keeps s u :=
  ⟨h.toCopiesStay.trans g.toCopiesStay, fun x => ⟨(g.marks x).1.trans (h.marks x).1, (g.marks x).2.trans (h.marks x).2⟩⟩
theorem foldl {α : Type} {f : State → α → State} (h : ∀ s a, Keeps s (f s a)) (l : List α) (s : State) :
    Keeps s (l.foldl f s) := foldl_keeps (Keeps s) f l (fun t a ht => ht.trans (h t a)) s (.refl s)
/-- The state that comes with an answer. -/
theorem of_snd {α : Type} {s u : State} {r : α × State} {x : α} (e : r = (x, u)) (h : Keeps s r.2) : Keeps s u := by
  rw [e] at h; exact h

/-- Where device and contexts stay, only the copies are to be looked at. -/
theorem of_copies {s t : State} (hd : t.dev = s.dev) (hx : t.ctxs = s.ctxs)
    (h : ∀ c a, t.HasCopy c a → s.HasCopy c a ∨ s.lostLink a = false) : Keeps s t :=
  ⟨⟨by rw [hd], h⟩, fun x => by rw [State.ctx, hx]; exact ⟨rfl, rfl⟩⟩
/-- What changes neither cores nor contexts nor the link keeps them. -/
theorem of_same {s t : State} (hp : t.dev.pair = s.dev.pair := by exact rfl) (hc : t.cores = s.cores := by exact rfl)
    (hx : t.ctxs = s.ctxs := by exact rfl) : Keeps s t :=
  ⟨⟨hp, fun c a h => .inl (by rwa [State.HasCopy, State.core, hc] at h)⟩, fun x => by rw [State.ctx, hx]; exact ⟨rfl, rfl⟩⟩
/-- A change of a core beside its L1. -/
theorem modCore (s : State) (c : Nat) {f : Core → Core} (h : ∀ k, (f k).l1 = k.l1 := by exact fun _ => rfl) : Keeps s (s.modCore c f) :=
  .of_copies rfl rfl fun k a hk => .inl (by
    rw [State.HasCopy, State.l1_modCore] at hk
    split at hk
    · next e => rwa [h, ← e] at hk
    · exact hk)
/-- A change of a context beside its launches and its mark. -/
theorem modCtx (s : State) (x : Nat) {f : Ctx → Ctx}
    (h : ∀ k, (f k).peerLost = k.peerLost ∧ (f k).launches = k.launches := by exact fun _ => ⟨rfl, rfl⟩) : Keeps s (s.modCtx x f) :=
  ⟨⟨rfl, fun _ _ => .inl⟩, fun y => by
    obtain rfl | hy := eq_or_ne y x
    · rw [State.ctx_modCtx_same]; exact h _
    · rw [State.ctx_modCtx_ne _ _ hy]; exact ⟨rfl, rfl⟩⟩
theorem modGroup (s : State) (c k : Nat) (f : Group → Group) : Keeps s (s.modGroup c k f) := .modCore s c
theorem bump (s : State) (c n : Nat) (x : Ctr) : Keeps s (s.bump c x n) :=
  .of_copies (by simp) (by simp) fun k a h => .inl (by rwa [State.HasCopy, State.l1_bump] at h)

/-! ### Lines -/

theorem cleanLine {s : State} {pa : Nat} (h : s.lostLink pa = false) : Keeps s (s.cleanLine pa) :=
  .of_copies (s.cleanLine_frame pa).1 (s.cleanLine_frame pa).2 fun c a hc => by
    obtain same | ⟨rfl, -⟩ := s.l1_cleanLine pa c a
    · exact .inl (by rwa [State.HasCopy, same] at hc)
    · exact .inr h
theorem reclaim (s : State) (pa : Nat) : Keeps s (s.reclaim pa) :=
  .of_copies (s.reclaim_frame pa).1 (s.reclaim_frame pa).2 fun _ _ h => .inl h.of_reclaim
theorem dropCopy (s : State) (c pa : Nat) : Keeps s (s.dropCopy c pa) :=
  .of_copies (by simp) (by simp) fun k a h => .inl ((s.hasCopy_dropCopy c pa k a).1 h).1
theorem agentLine (s : State) (ctx pa : Nat) : Keeps s (s.agentLine ctx pa).2 := by
  unfold State.agentLine
  split
  · exact .refl s
  · next h => exact .cleanLine (Bool.eq_false_iff.2 h)
theorem dropWord (s : State) (c w : Nat) : Keeps s (s.dropWord c w) := by
  unfold State.dropWord
  split
  · split
    · exact (Keeps.modCore s c).trans (.bump ..)
    · exact .refl s
  · exact .refl s
theorem probeScratch (s : State) (pa : Nat) (ws : BitVec 16) (req : Nat) (own : Option (Nat × Nat)) :
    Keeps s (s.probeScratch pa ws req own) :=
  .foldl (fun s w => by
    dsimp only
    split
    · exact .of_same
    · exact .dropWord ..) _ _
theorem modSline (s : State) (pa : Nat) (f : SliceLine → SliceLine) : Keeps s (s.modSline pa f) := .of_same
theorem evictSlice (s : State) (vict : Nat) : Keeps s (s.evictSlice vict) := by
  unfold State.evictSlice
  split
  · exact .refl s
  · split
    · exact .refl s
    · exact (Keeps.reclaim s (vict - 1)).trans .of_same
theorem makeRoom (s : State) (pa : Nat) : Keeps s (s.makeRoom pa) := by
  unfold State.makeRoom
  dsimp only
  split
  · exact .refl s
  · split
    · exact .refl s
    · exact of_same (s := s) |>.trans (.evictSlice ..)
theorem takeSline (s : State) (pa : Nat) (f : SliceLine → SliceLine) : Keeps s (s.takeSline pa f) :=
  .trans (.makeRoom s (lineAddr pa)) (.modSline ..)
theorem setMem (s : State) (m : Memory) : Keeps s { s with mem := m } := .of_same
theorem overtake (s : State) (pa : Nat) : Keeps s (s.overtake pa) := .of_same
theorem patchFills (s : State) (pa : Nat) (d : Line) (m : BitVec 64) (p : BitVec 16) : Keeps s (s.patchFills pa d m p) := .of_same
theorem homeStore (s : State) (ctx pa cls : Nat) (d : Line) (m : BitVec 64) (p : BitVec 16) (t : Nat) :
    Keeps s (s.homeStore ctx pa cls d m p t) := by
  unfold State.homeStore
  split
  · exact .refl s
  have told := (((Keeps.reclaim s pa).trans (.overtake _ pa)).trans (.probeScratch _ pa (wordsTouched m) 0 none)).trans
    (.patchFills _ pa d m p)
  dsimp only
  split
  · exact (told.trans (.setMem ..)).trans (.takeSline ..)
  · exact told.trans (.setMem ..)

/-! ### Translation -/

theorem entry (s : State) (ctx a : Nat) : Keeps s (s.entry ctx a).2 := .agentLine ..
theorem walkLeaf (s : State) (ctx table va : Nat) : Keeps s (s.walkLeaf ctx table va).2 := by
  have first := Keeps.entry s ctx (table + 8 * bits va 16 9)
  have second := first.trans (.entry _ ctx (table + 8 * (bits va 16 9 / 32 * 32)))
  unfold State.walkLeaf
  dsimp only
  split
  · exact .refl s
  split
  · exact first
  split
  · split <;> exact first
  split
  · exact second
  split <;> exact second
theorem walkFrom (s : State) (ctx va n table : Nat) : Keeps s (s.walkFrom ctx va n table).2 := by
  induction n generalizing s table with
  | zero => exact .walkLeaf ..
  | succ n ih =>
    rw [State.walkFrom]
    dsimp only
    generalize table + 8 * (if n = 2 then bits va 43 6 else if n = 1 then bits va 34 9 else bits va 25 9) = at_
    split
    · exact .refl s
    split
    · exact .entry ..
    split
    · exact .entry ..
    · exact (Keeps.entry ..).trans (ih ..)
theorem quietTranslate (s : State) (ctx va : Nat) (a : Access) : Keeps s (s.quietTranslate ctx va a).2 := .walkFrom ..
theorem checkBy {tr : Translator} (htr : ∀ s ctx va a, Keeps s (tr s ctx va a).2) (s : State) (ctx : Nat) (a : Access)
    (cl : List Nat) (l : List (Nat × Nat × Nat)) : Keeps s (s.checkBy tr ctx a cl l).2 := by
  induction l generalizing s with
  | nil => exact .refl s
  | cons p t ih =>
    obtain ⟨va, o, n⟩ := p
    rw [State.checkBy]
    split
    · exact .refl s
    split
    · next e => exact .of_snd e (htr ..)
    · next e =>
      have here := of_snd e (htr ..)
      split
      · exact here
      split
      · next e => exact here.trans (.of_snd e (ih _))
      · next e => exact here.trans (.of_snd e (ih _))
theorem agentPut {st : Storer} (hst : ∀ s ctx pa cls d m p t, Keeps s (st s ctx pa cls d m p t)) (s : State) (ctx t : Nat)
    (l : List (Nat × Nat × Nat × Nat)) (bs : List Byte) : Keeps s (s.agentPut st ctx t l bs) := by
  induction l generalizing s bs with
  | nil => exact .refl s
  | cons p l ih => exact (hst ..).trans (ih ..)
theorem writeBy {tr : Translator} {st : Storer} (htr : ∀ s ctx va a, Keeps s (tr s ctx va a).2)
    (hst : ∀ s ctx pa cls d m p t, Keeps s (st s ctx pa cls d m p t)) (s : State) (ctx : Nat) (a : Access) (cl : List Nat)
    (va : Nat) (bs : List Byte) (t : Nat) : Keeps s (s.writeBy tr st ctx a cl va bs t).2 := by
  unfold State.writeBy
  split
  · next e => exact .of_snd e (checkBy htr ..)
  · next e => exact (of_snd e (checkBy htr ..)).trans (.agentPut hst ..)

/-! ### Events and accesses that report -/

theorem postEvent (s : State) (ctx code a b w1 d1 d2 : Nat) : Keeps s (s.postEvent ctx code a b w1 d1 d2) := by
  unfold State.postEvent
  dsimp only
  split
  · exact .modCtx s ctx
  split
  · next e => exact (of_snd e (.writeBy quietTranslate homeStore ..)).trans (.modCtx ..)
  · next e => exact (of_snd e (.writeBy quietTranslate homeStore ..)).trans (.modCtx ..)
theorem memError (s : State) (ctx : Option Nat) (a unit_ pa : Nat) : Keeps s (s.memError ctx a unit_ pa) := by
  unfold State.memError
  dsimp only
  split
  · exact of_same (s := s) |>.trans (.postEvent ..)
  · exact .of_same
theorem lostTell (s : State) (ctx : Option Nat) (pa : Nat) : Keeps s (s.lostTell ctx pa) := .memError ..
theorem agentStore (s : State) (ctx pa cls : Nat) (d : Line) (m : BitVec 64) (p : BitVec 16) (t : Nat) :
    Keeps s (s.agentStore ctx pa cls d m p t) := by
  unfold State.agentStore
  split
  · exact .lostTell ..
  · exact .homeStore ..
theorem agentTranslate (s : State) (ctx va : Nat) (a : Access) : Keeps s (s.agentTranslate ctx va a).2 := by
  show Keeps s (s.walkAndTell ctx va).2
  unfold State.walkAndTell
  split
  · next e => exact (of_snd e (.walkFrom ..)).trans (.postEvent ..)
  · exact .walkFrom ..
theorem agentRead (s : State) (ctx : Nat) (a : Access) (cl : List Nat) (l : List (Nat × Nat × Nat)) :
    Keeps s (s.agentRead ctx a cl l).2 := by
  induction l generalizing s with
  | nil => exact .refl s
  | cons p t ih =>
    obtain ⟨va, o, n⟩ := p
    rw [State.agentRead]
    split
    · exact .refl s
    split
    · next e => exact .of_snd e (.agentTranslate ..)
    · next e =>
      have here := of_snd e (.agentTranslate ..)
      split
      · exact here
      dsimp only
      split
      · next e => exact (here.trans (.agentLine ..)).trans (.of_snd e (ih _))
      · next e => exact (here.trans (.agentLine ..)).trans (.of_snd e (ih _))
theorem agentWrite (s : State) (ctx : Nat) (a : Access) (cl : List Nat) (va : Nat) (bs : List Byte) (t : Nat) :
    Keeps s (s.agentWrite ctx a cl va bs t).2 := .writeBy agentTranslate agentStore ..

/-! ### Traps -/

theorem contextFault (s : State) (ctx : Nat) (f : CtxFault) : Keeps s (s.contextFault ctx f) :=
  (Keeps.bump ..).trans (.modCtx _ ctx)
theorem trapEntryWord (s : State) (ctx trapb cause : Nat) : Keeps s (s.trapEntryWord ctx trapb cause).2 := by
  unfold State.trapEntryWord
  split
  · exact .refl s
  split
  · next e => exact .of_snd e (.agentRead ..)
  · next e => exact .of_snd e (.agentRead ..)
theorem takeTrap (s : State) (core slot : Nat) (g : Group) (r : Raised) : Keeps s (s.takeTrap core slot g r) := by
  have fault : ∀ u f, Keeps s u →
      Keeps s ((u.modGroup core slot fun g => { g with trapping := none }).contextFault g.ctx f) := fun u f h =>
    (h.trans (.modGroup ..)).trans (.contextFault ..)
  unfold State.takeTrap
  dsimp only
  split
  · exact fault s _ (.refl s)
  split
  · next e => exact fault _ _ (of_snd e (.trapEntryWord ..))
  next e =>
  have fetched := of_snd e (.trapEntryWord ..)
  split
  · exact fault _ _ fetched
  split
  · next e => exact fault _ _ (fetched.trans (.of_snd e (.agentWrite ..)))
  · next e =>
    have framed := fetched.trans (of_snd e (.agentWrite ..))
    exact ((framed.trans .of_same).trans (.modGroup ..)).trans (.bump ..)
theorem raise (s : State) (core slot : Nat) (g : Group) (r : Raised) : Keeps s (s.raise core slot g r) := by
  have raised : ∀ g, Keeps s (if r.cause = 8 then (s.modGroup core slot fun _ => g).bump core .stklim
      else s.modGroup core slot fun _ => g) := fun g => by
    split
    · exact (Keeps.modGroup ..).trans (.bump ..)
    · exact .modGroup ..
  unfold State.raise
  dsimp only
  split
  · exact .refl s
  split
  · exact (raised _).trans (.takeTrap ..)
  · exact raised _

end Keeps

end Sys2Proof.Machine
end

section
/-! What a context that is lost on the other package, and the loss of the link itself, leave (R435, R452). -/
namespace Sys2Proof.Machine

namespace Keeps

theorem raiseFloor (s : State) (ctx t : Nat) : Keeps s (s.raiseFloor ctx t) := .modCtx s ctx
theorem closeWindow (s : State) (pa : Nat) (w : OrdWindow) (v p : Nat) : Keeps s (s.closeWindow pa w v p) :=
  (((Keeps.setMem ..).trans (.agentStore ..)).trans (.takeSline ..)).trans (.raiseFloor ..)
theorem setFly (s : State) (f : Flight) : Keeps s { s with fly := f } := .of_same
theorem loseWindow (s : State) (pa : Nat) (w : OrdWindow) (p : Nat) : Keeps s (s.loseWindow pa w p) := by
  unfold State.loseWindow
  exact .trans (.trans (.setFly ..) (.closeWindow ..)) (.postEvent ..)
theorem breakHolds (s : State) (ctx : Nat) (holds : List Nat) : Keeps s (s.breakHolds ctx holds) :=
  .foldl (fun s h => by
    dsimp only
    split
    · next e => exact .of_snd e (.agentTranslate ..)
    · next e => exact ((of_snd e (.agentTranslate ..)).trans (.agentStore ..)).trans (.setFly ..)) _ _
theorem breakAway (s : State) (ctx obj : Nat) : Keeps s (s.breakAway ctx obj) := by
  unfold State.breakAway
  dsimp only
  split
  · exact .refl s
  · split
    · exact .breakHolds ..
    · exact .refl s
theorem breakSema (s : State) (ctx pa : Nat) : Keeps s (s.breakSema ctx pa) := by
  unfold State.breakSema
  split
  · exact .agentStore ..
  · exact .refl s
theorem breakSemas (s : State) (ctx : Nat) : Keeps s (s.breakSemas ctx) :=
  .foldl (fun s w => by
    split
    · exact .breakSema ..
    · exact .refl s) _ _
theorem failSends (s : State) (ctx : Nat) : Keeps s (s.failSends ctx) :=
  .foldl (fun s p => by
    dsimp only
    split
    · exact .refl s
    have dropped : Keeps s (s.dropSend p.1) := .setFly ..
    split
    · exact dropped
    split
    · exact dropped
    · exact dropped.trans (.raise ..)) _ _

end Keeps

/-- The mark of a context whose peer is lost, and of each of its launches. -/
def Ctx.losePeer (x : Ctx) : Ctx := { x with peerLost := true, launches := mall x.launches fun _ l => { l with peerLost := true } }

/-- A context that is lost on the other package is marked, and what follows keeps the marks: objects, semaphores and windows are
broken, and messages fail. -/
theorem State.loseContext_keeps (s : State) (ctx : Nat) :
    Keeps ((s.postEvent ctx 9).modCtx ctx Ctx.losePeer) (s.loseContext ctx) := by
  have windows : ∀ u : State, Keeps u (u.mem.windows.foldl (fun s w =>
      if w.2.ctx = ctx then s.loseWindow w.1 w.2 (s.ctx ctx).floor else s) u) := fun u => .foldl (fun s w => by
    split
    · exact .loseWindow ..
    · exact .refl s) _ _
  unfold State.loseContext
  refine .trans ?_ (.failSends ..)
  refine .trans ?_ (windows _)
  refine .trans ?_ (.breakSemas ..)
  exact .foldl (fun u o => .breakAway u ctx o) ..

/-- The marks after the loss of a context on the other package. -/
theorem State.ctx_loseContext (s : State) (ctx : Nat) : ((s.loseContext ctx).ctx ctx).peerLost = true ∧
    ((s.loseContext ctx).ctx ctx).launches = mall (s.ctx ctx).launches fun _ l => { l with peerLost := true } := by
  obtain ⟨hmark, hlaunches⟩ := (s.loseContext_keeps ctx).marks ctx
  rw [State.ctx_modCtx_same] at hmark hlaunches
  rw [← ((Keeps.postEvent s ctx 9 0 0 0 0 0).marks ctx).2]
  exact ⟨hmark, hlaunches⟩

/-- The loss of a context gives no core a copy over a lost link. -/
theorem CopiesStay.loseContext (s : State) (ctx : Nat) : CopiesStay s (s.loseContext ctx) := by
  have marked (u : State) : CopiesStay u (u.modCtx ctx Ctx.losePeer) := ⟨rfl, fun _ _ => .inl⟩
  exact ((Keeps.postEvent s ctx 9 0 0 0 0 0).toCopiesStay.trans (marked _)).trans (s.loseContext_keeps ctx).toCopiesStay

/-! ### The loss of the link -/

/-- A core's copy of a line over the lost link is dropped; what had been stored in it is reported. -/
def State.cutCopy (core : Nat) (s : State) (l : Nat × L1Line) : State :=
  (if l.2.st = .modified then s.lostTell none l.1 else s).dropCopy core l.1
/-- The first part of the cut, for one core: its copies of lines over the lost link. -/
def State.cutCopies (s : State) (c : Nat × Core) : State :=
  (c.2.l1.filter fun l => s.lostLink l.1).foldl (State.cutCopy c.1) s
/-- The second part, for one request: a write over the lost link that is on its way is discarded and reported. -/
def State.cutWrite (s : State) (p : Nat × Req) : State :=
  if s.lostLink p.2.pa = false then s
  else if p.2.lineWb p.2.pa then (s.lostTell none p.2.pa).setReq p.1 { p.2 with phase := .back }
  else match p.2.op with
    | .st false _ => if p.2.cls = 0 ∧ p.2.phase = .back then s.lostStore p.2.who.ctx p.2.pa else s
    | _ => s

theorem State.cutLines_eq (s : State) :
    s.cutLines = (s.cores.foldl State.cutCopies s).fly.reqs.foldl State.cutWrite (s.cores.foldl State.cutCopies s) := rfl

theorem Keeps.cutCopy (core : Nat) (s : State) (l : Nat × L1Line) : Keeps s (s.cutCopy core l) := by
  unfold State.cutCopy
  split
  · exact (Keeps.lostTell ..).trans (.dropCopy ..)
  · exact .dropCopy ..
theorem Keeps.cutCopies (s : State) (c : Nat × Core) : Keeps s (s.cutCopies c) := .foldl (.cutCopy c.1) _ _
theorem Keeps.cutWrite (s : State) (p : Nat × Req) : Keeps s (s.cutWrite p) := by
  unfold State.cutWrite
  split
  · exact .refl s
  split
  · exact (Keeps.lostTell ..).trans (.setFly ..)
  split
  · split
    · exact .lostTell ..
    · exact .refl s
  · exact .refl s

/-- The cut of a list of a core's copies. -/
theorem State.hasCopy_foldl_cutCopy (core : Nat) (l : Map L1Line) (s : State) (k a : Nat) :
    (l.foldl (State.cutCopy core) s).HasCopy k a ↔ s.HasCopy k a ∧ ¬(k = core ∧ a ∈ l.map Prod.fst) := by
  induction l generalizing s with
  | nil => simp
  | cons p t ih =>
    have told : (if p.2.st = .modified then s.lostTell none p.1 else s).HasCopy k a ↔ s.HasCopy k a := by split <;> rfl
    rw [List.foldl_cons, ih, State.cutCopy, State.hasCopy_dropCopy, told, List.map_cons, List.mem_cons]
    tauto

/-- Of the cores of a list, none keeps a copy over the lost link that it held. -/
theorem State.HasCopy.of_cutCopies {l : Map Core} {s : State} {k a : Nat} (h : (l.foldl State.cutCopies s).HasCopy k a) :
    s.HasCopy k a ∧ ∀ q, (k, q) ∈ l → mget q.l1 a ≠ none → s.lostLink a = false := by
  induction l generalizing s with
  | nil => exact ⟨h, fun _ hq => absurd hq List.not_mem_nil⟩
  | cons c t ih =>
    obtain ⟨hc, ht⟩ := ih h
    obtain ⟨hs, hcut⟩ := (State.hasCopy_foldl_cutCopy ..).1 hc
    refine ⟨hs, fun q hq hqa => ?_⟩
    obtain rfl | hq := List.mem_cons.1 hq
    · obtain ⟨x, hx⟩ := Option.ne_none_iff_exists'.1 hqa
      exact Bool.eq_false_iff.2 fun hlost => hcut ⟨rfl, List.mem_map.2 ⟨(a, x), List.mem_filter.2 ⟨mem_of_mget hx, hlost⟩, rfl⟩⟩
    · exact (State.lostLink_congr (Keeps.cutCopies s c).pair a).symm.trans (ht q hq hqa)

/-- After the cut no core has a copy of a line over the lost link. -/
theorem State.HasCopy.of_cutLines {s : State} {k a : Nat} (h : s.cutLines.HasCopy k a) : s.lostLink a = false := by
  rw [State.cutLines_eq] at h
  have cut := (Keeps.foldl Keeps.cutCopies s.cores s).pair
  obtain hcopy | hlost := (Keeps.foldl Keeps.cutWrite _ _).copies k a h
  · obtain ⟨hs, hcut⟩ := hcopy.of_cutCopies
    exact hcut _ hs.listed hs
  · exact (State.lostLink_congr cut a).symm.trans hlost
theorem State.cutLines_pair (s : State) : s.cutLines.dev.pair = s.dev.pair :=
  ((Keeps.foldl Keeps.cutCopies s.cores s).trans (.foldl .cutWrite _ _)).pair

/-- Where no copy and no request is of a line over the lost link, there is nothing to cut. -/
theorem State.cutLines_eq_self {s : State} (hcopies : ∀ c ∈ s.cores, ∀ l ∈ c.2.l1, s.lostLink l.1 = false)
    (hreqs : ∀ r ∈ s.fly.reqs, s.lostLink r.2.pa = false) : s.cutLines = s := by
  have copies : s.cores.foldl State.cutCopies s = s := foldl_eq_self fun c hc => by
    rw [State.cutCopies, List.filter_eq_nil_iff.2 fun l hl => Bool.eq_false_iff.1 (hcopies c hc l hl), List.foldl_nil]
  rw [State.cutLines_eq, copies]
  exact foldl_eq_self fun r hr => if_pos (hreqs r hr)

/-- The link is lost: PAIR reads 3. -/
def State.loseLink (s : State) : State := { s with dev := { s.dev with pair := 3 } }

/-- Once the link is lost, the lines over it are those of the other package. -/
theorem State.lostLink_loseLink {s : State} (h : s.dev.pair ≠ 0) (a : Nat) : s.loseLink.lostLink a = s.otherPkg a := by
  simp [State.lostLink, State.otherPkg, State.loseLink, h]

/-- An enabled context may have been paired, which the model leaves free, and is then lost. -/
def State.loseIfPaired (s : State) (c : Nat × Ctx) : State :=
  if s.free.1.getLsbD 0 then s.free.2.loseContext c.1 else s.free.2

theorem CopiesStay.loseIfPaired (s : State) (c : Nat × Ctx) : CopiesStay s (s.loseIfPaired c) := by
  have freed : CopiesStay s s.free.2 := (Keeps.of_same : Keeps s s.free.2).toCopiesStay
  unfold State.loseIfPaired
  split
  · exact freed.trans (.loseContext ..)
  · exact freed

/-- What the loss of the link does, where there is a link. -/
theorem execPairLinkLost_eq {s : State} (h : s.dev.pair = 1 ∨ s.dev.pair = 2) : execPairLinkLost s =
    .next ((s.loseLink.cutLines.ctxs.filter fun c => c.2.regs.en).foldl State.loseIfPaired s.loseLink.cutLines) :=
  if_neg (by omega)

end Sys2Proof.Machine
end

section
/-! Fundamental reset, boot and the pair link (R17, R435, R452, R453). -/
namespace Sys2Proof.Proofs
open Sys2Proof Sys2Proof.Machine Sys2Proof.Claims

/-- The package as after reset, with the host's memory kept. -/
theorem ResetTo.of_again (s : State) : ResetTo s s.again where
  cores := ⟨rfl, rfl, rfl, rfl, rfl⟩
  flight := rfl
  now := rfl
  run := rfl
  dev := rfl
  times := ⟨rfl, rfl, rfl⟩
  package a hlow hin := by
    show (mget (mkeep s.mem.bytes fun a _ => a.testBit 51 || decide (a ≥ 2 ^ 52)) a).getD 0 = 0
    rw [mget_mkeep_keys, if_neg (by simp only [hlow, Bool.false_or, decide_eq_true_eq]; omega)]; rfl
  host a ha := by
    show (mget (mkeep s.mem.bytes fun a _ => a.testBit 51 || decide (a ≥ 2 ^ 52)) a).getD 0 = _
    rw [mget_mkeep_keys, if_pos (by simpa only [Bool.or_eq_true, decide_eq_true_eq] using ha)]; rfl

/-- The end of the boot check, passed or failed. -/
theorem bootVerifyDone_ends (s : State) (ok : Nat) (h : s.dev.boot ≤ 1) :
    exec (.bootVerifyDone ok) s = .next { s with dev := if ok = 1 then
        { s.dev with boot := 2, pkg := if Config.paired = true ∧ Config.second = true then 1 else 0,
                     pair := if Config.paired = true then 1 else 0 }
      else { s.dev with boot := 3 } } := by
  show execBootVerifyDone ok s = _
  rw [execBootVerifyDone, if_neg (by omega)]
  by_cases hok : ok = 1
  · simp only [if_pos hok, Bool.and_eq_true]
  · simp only [if_neg hok]

/-- A replayed flit is a transient error, and no context is told. -/
theorem pairFlitReplay_counts (s : State) (a b c : Nat) (hp : s.dev.pair = 2) (he : s.dev.errcnt = [a, b, c]) :
    exec .pairFlitReplay s = .next { s with dev := { s.dev with errcnt := [a, (b + 1) % 2 ^ 64, c] } } := by
  show execPairFlitReplay s = _
  rw [execPairFlitReplay, if_pos hp]
  simp [State.memError, he]

/-- With nothing of the other package at hand and no context, PAIR alone changes when the link is lost. -/
theorem pairLinkLost_alone (s : State) (hp : s.dev.pair = 1 ∨ s.dev.pair = 2) (hx : ∀ c ∈ s.ctxs, c.2.regs.en = false)
    (hl : ∀ c ∈ s.cores, ∀ l ∈ c.2.l1, s.otherPkg l.1 = false) (hr : ∀ r ∈ s.fly.reqs, s.otherPkg r.2.pa = false) :
    exec .pairLinkLost s = .next { s with dev := { s.dev with pair := 3 } } := by
  have away := fun a => State.lostLink_loseLink (s := s) (by omega) a
  have uncut : s.loseLink.cutLines = s.loseLink :=
    State.cutLines_eq_self (fun c hc l hm => (away _).trans (hl c hc l hm)) fun r hm => (away _).trans (hr r hm)
  have none_enabled : s.loseLink.ctxs.filter (fun c => c.2.regs.en) = [] :=
    List.filter_eq_nil_iff.2 fun c hc => Bool.eq_false_iff.1 (hx c hc)
  refine (execPairLinkLost_eq hp).trans ?_
  rw [uncut, none_enabled]; rfl

/-- When the link is lost, PAIR reads 3 and no copy of a line of the other package stays. -/
theorem pairLinkLost_cuts (s : State) (hp : s.dev.pair = 1 ∨ s.dev.pair = 2) : ∃ t, exec .pairLinkLost s = .next t ∧
    t.dev.pair = 3 ∧ ∀ c, ∀ l ∈ (t.core c).l1, s.otherPkg l.1 = false := by
  have pair3 := s.loseLink.cutLines_pair
  have told := CopiesStay.foldl CopiesStay.loseIfPaired (s.loseLink.cutLines.ctxs.filter fun c => c.2.regs.en) s.loseLink.cutLines
  refine ⟨_, execPairLinkLost_eq hp, told.pair.trans pair3, fun c l hl => ?_⟩
  rw [← State.lostLink_loseLink (by omega)]
  obtain hcopy | hlost := told.copies c l.1 (mget_ne_none_of_mem hl)
  · exact hcopy.of_cutLines
  · exact (State.lostLink_congr pair3 l.1).symm.trans hlost

/-- A context lost on the other package is marked, with its launches. -/
theorem pairedContextLost_marks (s : State) (ctx : Nat) (hp : s.dev.pair = 2) (hctx : ctx < 64) :
    ∃ t, exec (.pairedContextLost ctx) s = .next t ∧ (t.ctx ctx).peerLost = true ∧
      ∀ n l, mget (s.ctx ctx).launches n = some l → mget (t.ctx ctx).launches n = some { l with peerLost := true } := by
  obtain ⟨hmark, hlaunches⟩ := s.ctx_loseContext ctx
  refine ⟨_, if_pos ⟨hp, hctx⟩, hmark, fun n l hl => ?_⟩
  rw [hlaunches, mget_mall, hl]; rfl

/-- Settles O52: reset, the end of boot, and each event of the pair link. -/
theorem resetBootAndPair : Obligations.ResetBootAndPair := fun s =>
  ⟨⟨s.again, rfl, ResetTo.of_again s⟩, ⟨s.again, rfl, ResetTo.of_again s⟩, bootVerifyDone_ends s, fun h => if_pos h,
    pairFlitReplay_counts s, pairLinkLost_alone s, pairLinkLost_cuts s, pairedContextLost_marks s⟩

/-- Settles O57: an unlisted core or context holds its reset values, and nothing is listed. -/
theorem resetLeavesTheMachineEmpty : Obligations.ResetLeavesTheMachineEmpty :=
  ⟨fun _ => ⟨rfl, rfl, rfl, rfl, rfl, rfl, rfl, rfl, rfl⟩, fun _ => ⟨rfl, rfl, rfl, rfl, rfl⟩, rfl, rfl, rfl, rfl, rfl, rfl,
    rfl, rfl, rfl, rfl, fun _ _ => rfl, State.reset_wf, fun _ => rfl⟩

end Sys2Proof.Proofs
end

section
/-! The codes of .f32 as values: which are NaNs, how they are read under the flush, and their order (R23, R24, R31). -/
namespace Sys2Proof.Machine
open Sys2Proof.Claims

/-! ### The value of a code -/

/-- A NaN code is a NaN, which signals when its top fraction bit is 0. -/
theorem val_of_isNan {c : Nat} (h : IsNan c) : fF32.val c = .nan (decide (c % 2 ^ 23 < 2 ^ 22)) := by
  rw [IsNan] at h
  have beyond : fF32.mag c > fF32.maxFin := show c % 2 ^ 31 > 0x7F7FFFFF by omega
  have noInf : ¬ fF32.inf = some (fF32.mag c) := show ¬ some 0x7F800000 = some (c % 2 ^ 31) by rw [Option.some.injEq]; omega
  have signal : (!(c % 2 ^ 31 % 2 ^ 23).testBit 22) = decide (c % 2 ^ 23 < 2 ^ 22) := by
    rw [Nat.testBit_eq_decide_div_mod_eq, ← decide_not, decide_eq_decide]; omega
  exact (if_pos beyond).trans ((if_neg noInf).trans (congrArg FVal.nan signal))

/-- The code of an infinity. -/
theorem val_of_inf {c : Nat} (h : c % 2 ^ 31 = 0x7F800000) : fF32.val c = .inf (fF32.neg c) :=
  (if_pos (show c % 2 ^ 31 > 0x7F7FFFFF by omega)).trans (if_pos (congrArg some h.symm))

/-- A finite code is a zero, a subnormal or a normal number, by its exponent and its fraction. -/
theorem val_of_finite {c : Nat} (h : c % 2 ^ 31 < 0x7F800000) : fF32.val c =
    if c % 2 ^ 31 = 0 then .zero (fF32.neg c)
    else if c % 2 ^ 31 / 2 ^ 23 = 0 then .fin (fF32.neg c) (c % 2 ^ 31 % 2 ^ 23) (-149)
    else .fin (fF32.neg c) (2 ^ 23 + c % 2 ^ 31 % 2 ^ 23) (((c % 2 ^ 31 / 2 ^ 23 : Nat) : Int) - 150) := by
  have within : ¬ c % 2 ^ 31 > 0x7F7FFFFF := by omega
  have bias : ((c % 2 ^ 31 / 2 ^ 23 : Nat) : Int) - (127 : Nat) - (23 : Nat) =
      ((c % 2 ^ 31 / 2 ^ 23 : Nat) : Int) - 150 := by omega
  rw [← bias]
  exact if_neg within

/-- A code that is no NaN is finite or an infinity. -/
theorem not_isNan_iff {c : Nat} : ¬ IsNan c ↔ c % 2 ^ 31 < 0x7F800000 ∨ c % 2 ^ 31 = 0x7F800000 := by
  rw [IsNan]; omega

@[simp] theorem isNan_val (c : Nat) : (fF32.val c).isNan = true ↔ IsNan c := by
  by_cases nan : IsNan c
  · rw [val_of_isNan nan]; exact iff_of_true rfl nan
  · refine iff_of_false (fun h => ?_) nan
    obtain fin | inf := not_isNan_iff.1 nan
    · rw [val_of_finite fin] at h; split_ifs at h <;> cases h
    · rw [val_of_inf inf] at h; cases h

/-- A value raises IV only where it is a NaN (R32). -/
theorem sig_of_not_isNan {v : FVal} (h : ¬ v.isNan = true) : v.sig = 0 := by
  cases v with
  | nan => exact absurd rfl h
  | _ => rfl

/-- A signalling NaN raises IV, and no other code does (R32). -/
theorem sig_val_of_signals {c : Nat} (h : Signals c) : (fF32.val c).sig = flIV := by
  rw [val_of_isNan h.1, decide_eq_true h.2]; rfl
theorem sig_val_of_not_signals {c : Nat} (h : ¬ Signals c) : (fF32.val c).sig = 0 := by
  by_cases nan : IsNan c
  · rw [val_of_isNan nan, decide_eq_false fun quiet => h ⟨nan, quiet⟩]; rfl
  · exact sig_of_not_isNan ((isNan_val c).not.2 nan)
@[simp] theorem sig_val_eq_zero (c : Nat) : (fF32.val c).sig = 0#6 ↔ ¬ Signals c :=
  ⟨fun none h => absurd ((sig_val_of_signals h).symm.trans none) (by decide), sig_val_of_not_signals⟩

/-- Two operands raise IV, once, when one of them signals. -/
theorem sig_or_sig_of_signals {x y : Nat} (h : Signals x ∨ Signals y) : (fF32.val x).sig ||| (fF32.val y).sig = flIV := by
  by_cases sx : Signals x <;> by_cases sy : Signals y
  · rw [sig_val_of_signals sx, sig_val_of_signals sy, BitVec.or_self]
  · rw [sig_val_of_signals sx, sig_val_of_not_signals sy]; rfl
  · rw [sig_val_of_not_signals sx, sig_val_of_signals sy]; rfl
  · exact (h.elim sx sy).elim
theorem sig_or_sig_of_quiet {x y : Nat} (h : ¬ (Signals x ∨ Signals y)) : (fF32.val x).sig ||| (fF32.val y).sig = 0 := by
  rw [sig_val_of_not_signals fun sx => h (.inl sx), sig_val_of_not_signals fun sy => h (.inr sy)]; rfl

/-- The sign bit of a code. -/
theorem neg_f32 {c : Nat} (h : c < 2 ^ 32) : fF32.neg c = decide (2 ^ 31 ≤ c) := by
  show c.testBit 31 = _
  rw [Nat.testBit_eq_decide_div_mod_eq, decide_eq_decide]; omega

/-! ### The flush -/

/-- The reading of an .f32 operand, with its widths put in. -/
theorem readAs_f32 (ftz : Bool) (c : Nat) :
    readAs fF32 ftz c = if ftz = true ∧ c % 2 ^ 31 < 2 ^ 23 then c / 2 ^ 31 * 2 ^ 31 else c := rfl

theorem readAs_f32_lt (ftz : Bool) {c : Nat} (h : c < 2 ^ 32) : readAs fF32 ftz c < 2 ^ 32 := by
  rw [readAs_f32]; split_ifs <;> omega

/-- The flush neither makes nor takes a NaN. -/
theorem isNan_readAs (ftz : Bool) (c : Nat) : IsNan (readAs fF32 ftz c) ↔ IsNan c := by
  rw [readAs_f32, IsNan, IsNan]; split_ifs <;> omega
theorem readAs_of_isNan (ftz : Bool) {c : Nat} (h : IsNan c) : readAs fF32 ftz c = c := by
  rw [IsNan] at h
  exact if_neg fun flushed => absurd (show c % 2 ^ 31 < 2 ^ 23 from flushed.2) (by omega)
theorem signals_readAs (ftz : Bool) (c : Nat) : Signals (readAs fF32 ftz c) ↔ Signals c := by
  rw [readAs_f32, Signals, Signals]; split_ifs <;> omega

theorem sub_f32 (c : Nat) : fF32.sub c = true ↔ c % 2 ^ 31 ≠ 0 ∧ c % 2 ^ 31 < 2 ^ 23 := by
  rw [Fmt.sub, Bool.and_eq_true, bne_iff_ne, decide_eq_true_eq]; rfl

/-- The model's flush of an operand is the reading of the statements (R31). -/
theorem flush_f32 (ftz : Bool) {c : Nat} (h : c < 2 ^ 32) : fF32.flush ftz c = readAs fF32 ftz c := by
  have zero : fF32.code (fF32.neg c) 0 = c / 2 ^ 31 * 2 ^ 31 := by
    obtain low | high := lt_or_ge c (2 ^ 31)
    · rw [neg_f32 h, decide_eq_false low.not_ge, Nat.div_eq_of_lt low]; rfl
    · rw [neg_f32 h, decide_eq_true high, show c / 2 ^ 31 = 1 by omega]; rfl
  rw [Fmt.flush, readAs_f32]
  simp only [Bool.and_eq_true, sub_f32, zero]
  cases ftz
  · rfl
  · simp only [true_and]; split_ifs <;> omega

/-! ### The order -/

/-- The magnitude k with a sign. -/
def signed (neg : Bool) (k : Nat) : Int := if neg then -(k : Int) else k
@[simp] theorem signed_true (k : Nat) : signed true k = -(k : Int) := rfl
@[simp] theorem signed_false (k : Nat) : signed false k = k := rfl

/-- Against a greater magnitude, its sign alone decides. -/
theorem signed_lt_greater {i j : Nat} (h : i < j) (n m : Bool) : decide (signed n i < signed m j) = !m := by
  cases m
  · exact decide_eq_true (by cases n <;> simp only [signed_true, signed_false] <;> omega)
  · exact decide_eq_false (by cases n <;> simp only [signed_true, signed_false] <;> omega)
theorem signed_greater_lt {i j : Nat} (h : i < j) (n m : Bool) : decide (signed m j < signed n i) = m := by
  cases m
  · exact decide_eq_false (by cases n <;> simp only [signed_true, signed_false] <;> omega)
  · exact decide_eq_true (by cases n <;> simp only [signed_true, signed_false] <;> omega)

/-- A strictly increasing change of the magnitudes keeps the order of the numbers. -/
theorem signed_lt_signed {f : Nat → Nat} (mono : StrictMono f) (zero : f 0 = 0) (n m : Bool) (i j : Nat) :
    signed n (f i) < signed m (f j) ↔ signed n i < signed m j := by
  have up : f i < f j ↔ i < j := mono.lt_iff_lt
  have down : f j < f i ↔ j < i := mono.lt_iff_lt
  have posi : f 0 < f i ↔ 0 < i := mono.lt_iff_lt
  have posj : f 0 < f j ↔ 0 < j := mono.lt_iff_lt
  cases n <;> cases m <;> simp only [signed_true, signed_false] <;> omega

/-- A magnitude of .f32 in units of 2^−149. -/
def ulps (k : Nat) : Nat := if k / 2 ^ 23 = 0 then k else (2 ^ 23 + k % 2 ^ 23) * 2 ^ (k / 2 ^ 23 - 1)

theorem ulps_strictMono : StrictMono ulps := by
  refine strictMono_nat_of_lt_succ fun k => ?_
  unfold ulps
  obtain ⟨exp, frac⟩ | ⟨exp, frac⟩ : (k + 1) / 2 ^ 23 = k / 2 ^ 23 ∧ (k + 1) % 2 ^ 23 = k % 2 ^ 23 + 1 ∨
      (k + 1) / 2 ^ 23 = k / 2 ^ 23 + 1 ∧ (k + 1) % 2 ^ 23 = 0 := by omega
  · rw [exp, frac]
    split_ifs
    · exact k.lt_succ_self
    · exact Nat.mul_lt_mul_of_pos_right (Nat.lt_succ_self _) (by positivity)
  · rw [exp, frac, if_neg (Nat.succ_ne_zero _), Nat.add_sub_cancel]
    split_ifs with sub
    · rw [sub]; omega
    · calc (2 ^ 23 + k % 2 ^ 23) * 2 ^ (k / 2 ^ 23 - 1)
          < (2 ^ 23 * 2) * 2 ^ (k / 2 ^ 23 - 1) := Nat.mul_lt_mul_of_pos_right (by omega) (by positivity)
        _ = (2 ^ 23 + 0) * 2 ^ (k / 2 ^ 23) := by rw [mul_assoc, ← pow_succ', Nat.sub_add_cancel (by omega)]; rfl

/-- A finite value that is a multiple of 2^g. -/
inductive FVal.OnGrid (g : Int) : FVal → Prop
  | zero (n : Bool) : OnGrid g (.zero n)
  | fin (n : Bool) (x : Nat) {e : Int} (h : g ≤ e) : OnGrid g (.fin n x e)

theorem sumAt_fin (n : Bool) (x : Nat) (e g : Int) : sumAt g [.fin n x e] = signed n (x * 2 ^ (e - g).toNat) :=
  Int.add_zero _

/-- The same value in finer units. -/
theorem sumAt_finer {v : FVal} {g k : Int} (hv : v.OnGrid k) (hk : g ≤ k) : sumAt g [v] = sumAt k [v] * 2 ^ (k - g).toNat := by
  cases hv with
  | zero => simp [sumAt]
  | @fin n x e he =>
    have split : (e - g).toNat = (e - k).toNat + (k - g).toNat := by omega
    rw [sumAt_fin, sumAt_fin, split, pow_add, ← mul_assoc]
    cases n <;> simp

/-- The least exponent of two finite values is a common unit of both, and two zeros have none. -/
theorem leastExp_pair {v w : FVal} {g : Int} (hv : v.OnGrid g) (hw : w.OnGrid g) :
    (leastExp [v, w] = none ∧ sumAt g [v] = 0 ∧ sumAt g [w] = 0) ∨
    ∃ k, leastExp [v, w] = some k ∧ g ≤ k ∧ v.OnGrid k ∧ w.OnGrid k := by
  cases hv with
  | zero n =>
    cases hw with
    | zero m => exact .inl ⟨rfl, rfl, rfl⟩
    | @fin m y d hd => exact .inr ⟨d, rfl, hd, .zero n, .fin m y le_rfl⟩
  | @fin n x e he =>
    cases hw with
    | zero m => exact .inr ⟨e, rfl, he, .fin n x le_rfl, .zero m⟩
    | @fin m y d hd => exact .inr ⟨min e d, rfl, le_min he hd, .fin n x (min_le_left e d), .fin m y (min_le_right e d)⟩

/-- Two finite values compare as their multiples of a common unit. -/
theorem ltVal_onGrid {v w : FVal} {g : Int} (hv : v.OnGrid g) (hw : w.OnGrid g) :
    ltVal v w = decide (sumAt g [v] < sumAt g [w]) := by
  have finite : ltVal v w = (leastExp [v, w]).elim false fun k => decide (sumAt k [v] < sumAt k [w]) := by
    cases hv <;> cases hw <;> rfl
  rw [finite]
  obtain ⟨zeros, zv, zw⟩ | ⟨k, least, hgk, hvk, hwk⟩ := leastExp_pair hv hw
  · rw [zeros, zv, zw]; rfl
  · rw [least, Option.elim_some, sumAt_finer hvk hgk, sumAt_finer hwk hgk, decide_eq_decide]
    exact (mul_lt_mul_iff_left₀ (by positivity)).symm

theorem onGrid_val {c : Nat} (h : c % 2 ^ 31 < 0x7F800000) : (fF32.val c).OnGrid (-149) := by
  rw [val_of_finite h]
  split_ifs
  · exact .zero _
  · exact .fin _ _ le_rfl
  · exact .fin _ _ (by omega)

theorem sumAt_val {c : Nat} (h : c % 2 ^ 31 < 0x7F800000) :
    sumAt (-149) [fF32.val c] = signed (fF32.neg c) (ulps (c % 2 ^ 31)) := by
  rw [val_of_finite h, ulps]
  by_cases zero : c % 2 ^ 31 = 0
  · rw [if_pos zero, zero]; cases fF32.neg c <;> rfl
  rw [if_neg zero]
  split_ifs with sub
  · have frac : c % 2 ^ 31 % 2 ^ 23 = c % 2 ^ 31 := by omega
    rw [sumAt_fin, frac]; exact congrArg _ (Nat.mul_one _)
  · have exp : (((c % 2 ^ 31 / 2 ^ 23 : Nat) : Int) - 150 - -149).toNat = c % 2 ^ 31 / 2 ^ 23 - 1 := by omega
    rw [sumAt_fin, exp]

theorem keyOf_eq_signed {c : Nat} (h : c < 2 ^ 32) : keyOf c = signed (fF32.neg c) (c % 2 ^ 31) := by
  rw [keyOf, signed, neg_f32 h]
  simp only [decide_eq_true_eq]
  split_ifs <;> omega

theorem ltVal_inf_left {v : FVal} {g : Int} (n : Bool) (hv : v.OnGrid g) : ltVal (.inf n) v = n := by
  cases n <;> cases hv <;> rfl
theorem ltVal_inf_right {v : FVal} {g : Int} (n : Bool) (hv : v.OnGrid g) : ltVal v (.inf n) = !n := by
  cases n <;> cases hv <;> rfl

/-- The sign of a value that is no NaN is that of its code. -/
theorem isNeg_val {c : Nat} (h : ¬ IsNan c) : (fF32.val c).isNeg = fF32.neg c := by
  obtain fin | inf := not_isNan_iff.1 h
  · rw [val_of_finite fin]; split_ifs <;> rfl
  · rw [val_of_inf inf]; rfl

/-- The numbers among the codes of .f32 are in the order of their keys. -/
theorem ltVal_val {x y : Nat} (hx : x < 2 ^ 32) (hy : y < 2 ^ 32) (nx : ¬ IsNan x) (ny : ¬ IsNan y) :
    ltVal (fF32.val x) (fF32.val y) = decide (keyOf x < keyOf y) := by
  rw [keyOf_eq_signed hx, keyOf_eq_signed hy]
  obtain finx | infx := not_isNan_iff.1 nx <;> obtain finy | infy := not_isNan_iff.1 ny
  · rw [ltVal_onGrid (onGrid_val finx) (onGrid_val finy), sumAt_val finx, sumAt_val finy, decide_eq_decide]
    exact signed_lt_signed ulps_strictMono rfl ..
  · rw [val_of_inf infy, ltVal_inf_right _ (onGrid_val finx), signed_lt_greater (finx.trans_eq infy.symm)]
  · rw [val_of_inf infx, ltVal_inf_left _ (onGrid_val finy), signed_greater_lt (finy.trans_eq infx.symm)]
  · rw [val_of_inf infx, val_of_inf infy, infx, infy]
    cases fF32.neg x <;> cases fF32.neg y <;> rfl

theorem eqVal_val {x y : Nat} (hx : x < 2 ^ 32) (hy : y < 2 ^ 32) (nx : ¬ IsNan x) (ny : ¬ IsNan y) :
    eqVal (fF32.val x) (fF32.val y) = decide (keyOf x = keyOf y) := by
  rw [eqVal, ltVal_val hx hy nx ny, ltVal_val hy hx ny nx, ← decide_not, ← decide_not, ← Bool.decide_and, decide_eq_decide]
  omega

end Sys2Proof.Machine
end

section
/-! NaN operands, and the choice of FMIN and FMAX (R32, R33). -/
namespace Sys2Proof.Proofs
open Sys2Proof Sys2Proof.Machine Sys2Proof.Claims

/-! ### NaN operands (R32) -/

/-- The canonical NaN, with IV, alone, where `iv` holds. -/
structure GivesNan (iv : Prop) (y : Nat × Flags) : Prop where
  code : y.1 = 0x7FC00000
  signals : iv → y.2 = flIV
  quiet : ¬ iv → y.2 = 0

theorem GivesNan.flags_iff {iv : Prop} {y : Nat × Flags} (h : GivesNan iv y) : y.2 = flIV ↔ iv :=
  ⟨fun raised => by_contra fun quiet => absurd ((h.quiet quiet).symm.trans raised) (by decide), h.signals⟩

theorem GivesNan.of_flWhen {iv : Prop} {s : Bool} (h : s = true ↔ iv) : GivesNan iv (0x7FC00000, flWhen s flIV) where
  code := rfl
  signals hiv := by rw [h.2 hiv]; rfl
  quiet hiv := by rw [Bool.eq_false_iff.2 (h.not.2 hiv)]; rfl

/-- The canonical NaN is no subnormal, which the flush of a result would change. -/
theorem GivesNan.flushOut {iv : Prop} {y : Nat × Flags} (h : GivesNan iv y) (ftz : Bool) :
    GivesNan iv (fF32.flushOut ftz y) := by
  have kept : fF32.flushOut ftz y = y := by
    rw [Fmt.flushOut, h.code, show fF32.sub 0x7FC00000 = false from rfl, Bool.and_false]; rfl
  rwa [kept]

/-- The flush of the NaN of a list of operands. -/
theorem GivesNan.of_nanOf {iv : Prop} {l : List FVal} (ftz : Bool) (h : (l.any fun v => v.sig != 0) = true ↔ iv) :
    GivesNan iv (fF32.flushOut ftz (fF32.nanOf l)) :=
  (GivesNan.of_flWhen h).flushOut ftz

/-- An operand as the floating-point operations read it. -/
def operand (ftz : Bool) (a : Word) : FVal := fF32.val (fF32.flush ftz a.toNat)

theorem operand_eq (ftz : Bool) (a : Word) : operand ftz a = fF32.val (readAs fF32 ftz a.toNat) :=
  congrArg fF32.val (flush_f32 ftz a.isLt)
@[simp] theorem isNan_operand (ftz : Bool) (a : Word) : (operand ftz a).isNan = true ↔ IsNan a.toNat := by
  rw [operand_eq, isNan_val, isNan_readAs]
@[simp] theorem sig_operand (ftz : Bool) (a : Word) : (operand ftz a).sig = 0#6 ↔ ¬ Signals a.toNat := by
  rw [operand_eq, sig_val_eq_zero, signals_readAs]
theorem operand_of_isNan (ftz : Bool) {a : Word} (h : IsNan a.toNat) :
    operand ftz a = .nan (decide (a.toNat % 2 ^ 23 < 2 ^ 22)) := by
  rw [operand_eq, readAs_of_isNan ftz h, val_of_isNan h]

section
variable {a b : Word}

theorem isNan_operands (ftz : Bool) (h : IsNan a.toNat ∨ IsNan b.toNat) :
    ((operand ftz a).isNan || (operand ftz b).isNan) = true := by
  simpa using h

/-- The shape that FADD, FSUB and FMUL share, where an operand is a NaN. -/
theorem GivesNan.of_operands (ftz : Bool) (number : Nat × Flags) (h : IsNan a.toNat ∨ IsNan b.toNat) :
    GivesNan (Signals a.toNat ∨ Signals b.toNat) (fF32.flushOut ftz
      (if (operand ftz a).isNan || (operand ftz b).isNan then fF32.nanOf [operand ftz a, operand ftz b] else number)) := by
  rw [if_pos (isNan_operands ftz h)]
  exact .of_nanOf ftz (by simp)

theorem fAdd_nan (r : Rnd) (ftz : Bool) (h : IsNan a.toNat ∨ IsNan b.toNat) :
    GivesNan (Signals a.toNat ∨ Signals b.toNat) (fAdd fF32 r ftz a.toNat b.toNat) := .of_operands ftz _ h
theorem fSub_nan (r : Rnd) (ftz : Bool) (h : IsNan a.toNat ∨ IsNan b.toNat) :
    GivesNan (Signals a.toNat ∨ Signals b.toNat) (fSub fF32 r ftz a.toNat b.toNat) := .of_operands ftz _ h
theorem fMul_nan (r : Rnd) (ftz : Bool) (h : IsNan a.toNat ∨ IsNan b.toNat) :
    GivesNan (Signals a.toNat ∨ Signals b.toNat) (fMul fF32 r ftz a.toNat b.toNat) := .of_operands ftz _ h

/-- A NaN factor of FFMA and FFMS, whatever the addend holds. -/
theorem fFma_nan_factor (ftz sub : Bool) (c : Word) (h : IsNan a.toNat ∨ IsNan b.toNat) :
    GivesNan (Signals a.toNat ∨ Signals b.toNat ∨ Signals c.toNat) (fFma fF32 ftz sub a.toNat b.toNat c.toNat) := by
  have nan : fFma fF32 ftz sub a.toNat b.toNat c.toNat =
      fF32.flushOut ftz (fF32.nanOf [operand ftz a, operand ftz b, operand ftz c]) :=
    congrArg (fF32.flushOut ftz) (if_pos (isNan_operands ftz h))
  exact nan ▸ .of_nanOf ftz (by simp)

/-- A NaN addend of FFMA and FFMS, where the factors are no NaNs and their product is valid. -/
theorem fFma_nan_addend (ftz sub : Bool) {c : Word} {p : FVal} (ha : ¬ IsNan a.toNat) (hb : ¬ IsNan b.toNat)
    (hp : mulVal (operand ftz a) (operand ftz b) = some p) (hc : IsNan c.toNat) :
    GivesNan (Signals c.toNat) (fFma fF32 ftz sub a.toNat b.toNat c.toNat) := by
  have factors : ¬ ((operand ftz a).isNan || (operand ftz b).isNan) = true := by
    simp [ha, hb]
  have nan : fFma fF32 ftz sub a.toNat b.toNat c.toNat = fF32.flushOut ftz (fF32.nanOf [operand ftz c]) := by
    refine congrArg (fF32.flushOut ftz) ((if_neg factors).trans ?_)
    show (match mulVal (operand ftz a) (operand ftz b) with | none => _ | some p => _) = _
    rw [hp]
    exact if_pos ((isNan_operand ftz c).2 hc)
  exact nan ▸ .of_nanOf ftz (by simp)

end

/-- A value times itself is valid: 0 × ∞ has unlike factors. -/
theorem mulVal_self {v : FVal} (h : ¬ v.isNan = true) : ∃ p, mulVal v v = some p := by
  cases v with
  | nan => exact absurd rfl h
  | _ => exact ⟨_, rfl⟩

theorem GivesNan.of_operand {a : Word} (h : IsNan a.toNat) :
    GivesNan (Signals a.toNat) (0x7FC00000, flWhen (decide (a.toNat % 2 ^ 23 < 2 ^ 22)) flIV) :=
  .of_flWhen (decide_eq_true_iff.trans ⟨fun top => ⟨h, top⟩, And.right⟩)

theorem fRint_nan (r : Rnd) (ftz : Bool) {a : Word} (h : IsNan a.toNat) : GivesNan (Signals a.toNat) (fRint r ftz a.toNat) := by
  rw [fRint, show fF32.val (fF32.flush ftz a.toNat) = _ from operand_of_isNan ftz h]
  exact .of_operand h

theorem fFrac_nan (ftz : Bool) {a : Word} (h : IsNan a.toNat) : GivesNan (Signals a.toNat) (fFrac ftz a.toNat) := by
  rw [fFrac, show fF32.val (fF32.flush ftz a.toNat) = _ from operand_of_isNan ftz h]
  exact .of_operand h

/-! ### FMIN and FMAX (R33) -/

/-- x stands before y in the order of FMIN and FMAX, which puts −0 before +0. -/
def ordersBelow (x y : Nat) : Bool :=
  ltVal (fF32.val x) (fF32.val y) || (eqVal (fF32.val x) (fF32.val y) && (fF32.val x).isNeg && !(fF32.val y).isNeg)

theorem ordersBelow_iff {x y : Nat} (hx : x < 2 ^ 32) (hy : y < 2 ^ 32) (nx : ¬ IsNan x) (ny : ¬ IsNan y) :
    ordersBelow x y = true ↔ keyOf x < keyOf y ∨ x = 2 ^ 31 ∧ y = 0 := by
  rw [ordersBelow, ltVal_val hx hy nx ny, eqVal_val hx hy nx ny, isNeg_val nx, isNeg_val ny, neg_f32 hx, neg_f32 hy]
  simp only [Bool.or_eq_true, Bool.and_eq_true, decide_eq_true_eq, Bool.not_eq_true', decide_eq_false_iff_not]
  unfold keyOf
  split_ifs <;> omega

/-- What FMIN and FMAX choose of two codes as they are read. -/
def chosen (mx : Bool) (x y : Nat) : Nat :=
  if (fF32.val x).isNan && (fF32.val y).isNan then 0x7FC00000
  else if (fF32.val x).isNan then y
  else if (fF32.val y).isNan then x
  else if ordersBelow x y then (if mx then y else x) else (if mx then x else y)

theorem fMinMax_eq (mx ftz : Bool) (a b : Word) : fMinMax mx ftz a.toNat b.toNat =
    (chosen mx (readAs fF32 ftz a.toNat) (readAs fF32 ftz b.toNat),
      (fF32.val (readAs fF32 ftz a.toNat)).sig ||| (fF32.val (readAs fF32 ftz b.toNat)).sig) := by
  rw [← flush_f32 ftz a.isLt, ← flush_f32 ftz b.isLt]; rfl

section
variable {x y : Nat} (mx : Bool)

theorem chosen_nans (nx : IsNan x) (ny : IsNan y) : chosen mx x y = 0x7FC00000 :=
  if_pos (by simp [nx, ny])

theorem chosen_nan_left (nx : IsNan x) (ny : ¬ IsNan y) : chosen mx x y = y := by
  simp [chosen, nx, ny]

theorem chosen_nan_right (nx : ¬ IsNan x) (ny : IsNan y) : chosen mx x y = x := by
  simp [chosen, nx, ny]

theorem chosen_numbers (nx : ¬ IsNan x) (ny : ¬ IsNan y) :
    chosen mx x y = if ordersBelow x y then (if mx then y else x) else (if mx then x else y) := by
  simp [chosen, nx, ny]

variable (hx : x < 2 ^ 32) (hy : y < 2 ^ 32)
include hx hy

theorem chosen_of_lt (nx : ¬ IsNan x) (ny : ¬ IsNan y) (lt : keyOf x < keyOf y) : chosen mx x y = if mx then y else x := by
  rw [chosen_numbers mx nx ny, if_pos ((ordersBelow_iff hx hy nx ny).2 (.inl lt))]

theorem chosen_of_gt (nx : ¬ IsNan x) (ny : ¬ IsNan y) (gt : keyOf y < keyOf x) : chosen mx x y = if mx then x else y := by
  have above : ¬ ordersBelow x y = true := by
    rw [ordersBelow_iff hx hy nx ny]
    rintro (lt | ⟨rfl, rfl⟩)
    · exact lt.not_gt gt
    · exact absurd gt (by decide)
  rw [chosen_numbers mx nx ny, if_neg above]

/-- Of −0 and +0, in either place, FMAX chooses +0 and FMIN −0. -/
theorem chosen_of_zeros (zx : keyOf x = 0) (zy : keyOf y = 0) (ne : x ≠ y) : chosen mx x y = if mx then 0 else 2 ^ 31 := by
  have zeros : x = 2 ^ 31 ∧ y = 0 ∨ x = 0 ∧ y = 2 ^ 31 := by
    unfold keyOf at zx zy; split_ifs at zx zy <;> omega
  have number : ∀ c, c = 0 ∨ c = 2 ^ 31 → ¬ IsNan c := by rintro c (rfl | rfl) <;> simp [IsNan]
  rw [chosen_numbers mx (number x (by omega)) (number y (by omega))]
  obtain ⟨rfl, rfl⟩ | ⟨rfl, rfl⟩ := zeros <;> rfl

end

theorem chosen_self {x : Nat} (mx : Bool) (nx : ¬ IsNan x) : chosen mx x x = x := by
  rw [chosen_numbers mx nx nx, ite_self, ite_self]

/-! ### The statements -/

theorem nanOperandsGiveTheCanonicalNan : NanOperandsGiveTheCanonicalNan := by
  intro a b ftz h
  refine ⟨fun r => ?_, fun sub c => ?_, fun sub c fin hnan => ?_, fun hnan r => ?_⟩
  · have add := fAdd_nan r ftz h
    have mul := fMul_nan r ftz h
    have diff := fSub_nan r ftz h
    exact ⟨add.code, mul.code, diff.code, add.flags_iff, mul.flags_iff, diff.flags_iff,
      fun quiet => ⟨add.quiet quiet, mul.quiet quiet, diff.quiet quiet⟩⟩
  · have fma := fFma_nan_factor ftz sub c h
    exact ⟨fma.code, fma.signals, fma.quiet⟩
  · have number : ¬ IsNan c.toNat := not_isNan_iff.2 (.inl (Nat.lt_succ_of_le fin.2))
    obtain ⟨p, square⟩ := mulVal_self ((isNan_operand ftz c).not.2 number)
    have fma := fFma_nan_addend ftz sub number number square hnan
    exact ⟨fma.code, fma.signals, fma.quiet⟩
  · have rint := fRint_nan r ftz hnan
    have frac := fFrac_nan ftz hnan
    exact ⟨rint.code, frac.code, fun signals => ⟨rint.signals signals, frac.signals signals⟩,
      fun quiet => ⟨rint.quiet quiet, frac.quiet quiet⟩⟩

theorem fminAndFmaxChoose : FminAndFmaxChoose := by
  intro a b mx ftz x y m
  have hx : x < 2 ^ 32 := readAs_f32_lt ftz a.isLt
  have hy : y < 2 ^ 32 := readAs_f32_lt ftz b.isLt
  have hm : m = (chosen mx x y, (fF32.val x).sig ||| (fF32.val y).sig) := fMinMax_eq mx ftz a b
  rw [hm]
  exact ⟨fun ⟨nx, ny⟩ => chosen_nans mx nx ny, fun ⟨nx, ny⟩ => chosen_nan_left mx nx ny,
    fun ⟨nx, ny⟩ => chosen_nan_right mx nx ny,
    fun ⟨nx, ny⟩ => chosen_of_lt mx hx hy nx ny, fun ⟨nx, ny⟩ => chosen_of_gt mx hx hy nx ny,
    fun ⟨nx, same⟩ => (congrArg (chosen mx x) same.symm).trans (chosen_self mx nx),
    fun ⟨zx, zy, ne⟩ => chosen_of_zeros mx hx hy zx zy ne, sig_or_sig_of_signals, sig_or_sig_of_quiet⟩

/-- Settles O4: the NaN that each operation gives, and the choice and the flags of FMIN and FMAX. -/
theorem nansMinimaAndMaxima : Obligations.NansMinimaAndMaxima :=
  ⟨nanOperandsGiveTheCanonicalNan, fminAndFmaxChoose⟩

end Sys2Proof.Proofs
end

section
/-! Decoding inverts encoding (R51 to R67): the fields of a word, each operand form read back from its own words, the choice by
major and fn, and the decoder. -/
namespace Sys2Proof

/-! ### Fields of a word that is written as a concatenation -/

/- The type of a concatenation is its sum of widths, which stands as 32 in a word: `no_index` keeps `simp` from comparing the two. -/

/-- A field above the lower part lies in the upper part. -/
@[simp] theorem extractLsb'_append_high {v w : Nat} (x : BitVec v) (y : BitVec w) {s n : Nat} (h : w ≤ s) :
    (no_index (x ++ y)).extractLsb' s n = x.extractLsb' (s - w) n := BitVec.extractLsb'_append_eq_of_le h
/-- A field that ends within the lower part lies in it. -/
@[simp] theorem extractLsb'_append_low {v w : Nat} (x : BitVec v) (y : BitVec w) {s n : Nat} (h : s + n ≤ w) :
    (no_index (x ++ y)).extractLsb' s n = y.extractLsb' s n := BitVec.extractLsb'_append_eq_of_add_le h
/-- A bit is a field of one bit. -/
theorem bitAt_eq_field (w : Word) (i : Nat) : bitAt w i = (w.extractLsb' i 1 == 1#1) := BitVec.getLsbD_eq_extractLsb' w i
@[simp] theorem bit1_beq (b : Bool) : (bit1 b == 1#1) = b := by cases b <;> rfl

/-! ### The words of an instruction -/

/-- The words w0 and w1 begin with the words of an instruction: what follows an instruction of one word is open. -/
def Begins (l : List Word) (w0 w1 : Word) : Prop := l = [w0] ∨ l = [w0, w1]

section
variable {mj : BitVec 7} {fn : BitVec 5} {fx : Bool} {a b w0 w1 : Word}

theorem begins_one (h : Begins [a] w0 w1) : a = w0 := by simpa [Begins] using h
theorem begins_two (h : Begins [a, b] w0 w1) : a = w0 ∧ b = w1 := by simpa [Begins] using h
/-- The second word is there where the source is a literal, and is its value. -/
theorem begins_vsrc {o : VSrc} (h : Begins (a :: o.tl) w0 w1) : a = w0 ∧ VSrc.of o.x o.fld w1 = o := by
  cases o with
  | reg r => exact ⟨begins_one h, rfl⟩
  | lit w => obtain ⟨rfl, rfl⟩ := begins_two h; exact ⟨rfl, rfl⟩
theorem begins_ssrc {o : SSrc} (h : Begins (a :: o.tl) w0 w1) : a = w0 ∧ SSrc.of o.x o.fld w1 = o := by
  cases o with
  | reg r => exact ⟨begins_one h, rfl⟩
  | lit w => obtain ⟨rfl, rfl⟩ := begins_two h; exact ⟨rfl, rfl⟩
theorem begins_off {o : Option Word} (h : Begins (a :: o.toList) w0 w1) : a = w0 ∧ offOf o.isSome w1 = o := by
  cases o with
  | none => exact ⟨begins_one h, rfl⟩
  | some w => obtain ⟨rfl, rfl⟩ := begins_two h; exact ⟨rfl, rfl⟩

/-! ### Major, fn and fx (R52, R55, R57) -/

/-- A first word of format LR names an instruction by its major and its fn. -/
structure LaneOp (mj : BitVec 7) (fn : BitVec 5) (w : Word) : Prop where
  major : w.extractLsb' 25 7 = mj
  fn : w.extractLsb' 5 5 = fn
/-- One of format LF, by its major and its fx. -/
structure FxOp (mj : BitVec 7) (fx : Bool) (w : Word) : Prop where
  major : w.extractLsb' 25 7 = mj
  fx : w.getLsbD 4 = fx
/-- One of format UR, by its major and its fn. -/
structure UniOp (mj : BitVec 7) (fn : BitVec 5) (w : Word) : Prop where
  major : w.extractLsb' 25 7 = mj
  fn : w.extractLsb' 2 5 = fn

@[simp] theorem lr_major (d a b fn : BitVec 5) (x : Bool) (g : Guard) :
    (lr mj d a b fn x g).extractLsb' 25 7 = mj := by simp [lr]
@[simp] theorem lm_major (d a : BitVec 5) (z : BitVec 3) (k : BitVec 2) (l : BitVec 4) (x : Bool) (g : Guard) (s : Bool) :
    (lm mj d a z k l x g s).extractLsb' 25 7 = mj := by simp [lm]
@[simp] theorem la_major (d a b : BitVec 5) (l : BitVec 4) (g : Guard) :
    (la mj d a b l g).extractLsb' 25 7 = mj := by simp [la]
@[simp] theorem ur_major (d a b : BitVec 6) (fn : BitVec 5) (x : Bool) :
    (ur mj d a b fn x).extractLsb' 25 7 = mj := by simp [ur]
@[simp] theorem uq_major (q : BitVec 4) (nb : Bool) (cd : BitVec 3) (a b : BitVec 6) (l : BitVec 4) (x : Bool) :
    (uq mj q nb cd a b l x).extractLsb' 25 7 = mj := by simp [uq]
@[simp] theorem ux_major (f1 f2 : BitVec 4) (a b : BitVec 6) (l : BitVec 4) (x : Bool) :
    (ux mj f1 f2 a b l x).extractLsb' 25 7 = mj := by simp [ux]

theorem lr_op (d a b : BitVec 5) (x : Bool) (g : Guard) : LaneOp mj fn (lr mj d a b fn x g) :=
  ⟨lr_major .., by simp [lr]⟩
theorem lf_op (d a b c : BitVec 5) (g : Guard) : FxOp mj fx (lf mj d a b c fx g) :=
  ⟨by simp [lf], (bitAt_eq_field ..).trans (by simp [lf])⟩
theorem ur_op (d a b : BitVec 6) (x : Bool) : UniOp mj fn (ur mj d a b fn x) := ⟨ur_major .., by simp [ur]⟩

/-! ### Each operand form read back from its words -/

/-! Format LR. -/

theorem R3.read {o : R3} (h : Begins (o.words mj fn) w0 w1) : LaneOp mj fn w0 ∧ R3.ofWords w0 w1 = o := by
  obtain ⟨rfl, src⟩ := begins_vsrc h
  exact ⟨lr_op .., by simp [lr, R3.ofWords, Guard.atL, bitAt_eq_field, src]⟩
theorem R2.read {o : R2} (h : Begins (o.words mj fn) w0 w1) : LaneOp mj fn w0 ∧ R2.ofWords w0 w1 = o := by
  obtain rfl := begins_one h
  exact ⟨lr_op .., by simp [lr, R2.ofWords, Guard.atL, bitAt_eq_field]⟩
theorem Cmp.read {o : Cmp} (h : Begins (o.words mj) w0 w1) : w0.extractLsb' 25 7 = mj ∧ Cmp.ofWords w0 w1 = o := by
  obtain ⟨rfl, src⟩ := begins_vsrc h
  exact ⟨lr_major .., by simp [lr, Cmp.ofWords, Guard.atL, bitAt_eq_field, src]⟩
theorem MovO.read {o : MovO} (h : Begins (o.words mj fn) w0 w1) : LaneOp mj fn w0 ∧ MovO.ofWords w0 w1 = o := by
  obtain ⟨rfl, src⟩ := begins_vsrc h
  exact ⟨lr_op .., by simp [lr, MovO.ofWords, Guard.atL, bitAt_eq_field, src]⟩
theorem MovuO.read {o : MovuO} (h : Begins (o.words mj fn) w0 w1) : LaneOp mj fn w0 ∧ MovuO.ofWords w0 w1 = o := by
  obtain rfl := begins_one h
  have whole : o.s.extractLsb' 5 1 ++ o.s.extractLsb' 0 5 = o.s := BitVec.extractLsb'_append_extractLsb'
  exact ⟨lr_op .., by simp [lr, MovuO.ofWords, Guard.atL, bitAt_eq_field, whole]⟩
theorem MovsO.read {o : MovsO} (h : Begins (o.words mj fn) w0 w1) : LaneOp mj fn w0 ∧ MovsO.ofWords w0 w1 = o := by
  obtain rfl := begins_one h
  exact ⟨lr_op .., by simp [lr, MovsO.ofWords, Guard.atL, bitAt_eq_field]⟩
theorem CvtO.read {o : CvtO} (h : Begins (o.words mj) w0 w1) : w0.extractLsb' 25 7 = mj ∧ CvtO.ofWords w0 w1 = o := by
  obtain ⟨rfl, src⟩ := begins_vsrc h
  exact ⟨lr_major .., by simp [lr, CvtO.ofWords, Guard.atL, bitAt_eq_field, src]⟩
theorem R3n.read {o : R3n} (h : Begins (o.words mj fn) w0 w1) : LaneOp mj fn w0 ∧ R3n.ofWords w0 w1 = o := by
  obtain rfl := begins_one h
  exact ⟨lr_op .., by simp [lr, R3n.ofWords, Guard.atL, bitAt_eq_field]⟩
theorem P3.read {o : P3} (h : Begins (o.words mj fn) w0 w1) : LaneOp mj fn w0 ∧ P3.ofWords w0 w1 = o := by
  obtain rfl := begins_one h
  exact ⟨lr_op .., by simp [lr, P3.ofWords, Guard.atL, bitAt_eq_field]⟩
theorem P2.read {o : P2} (h : Begins (o.words mj fn) w0 w1) : LaneOp mj fn w0 ∧ P2.ofWords w0 w1 = o := by
  obtain rfl := begins_one h
  exact ⟨lr_op .., by simp [lr, P2.ofWords, Guard.atL, bitAt_eq_field]⟩
theorem PkO.read {o : PkO} (h : Begins (o.words mj fn) w0 w1) : LaneOp mj fn w0 ∧ PkO.ofWords w0 w1 = o := by
  obtain rfl := begins_one h
  exact ⟨lr_op .., by simp [lr, PkO.ofWords, Guard.atL, bitAt_eq_field]⟩
theorem UpkO.read {o : UpkO} (h : Begins (o.words mj fn) w0 w1) : LaneOp mj fn w0 ∧ UpkO.ofWords w0 w1 = o := by
  obtain rfl := begins_one h
  exact ⟨lr_op .., by simp [lr, UpkO.ofWords, Guard.atL, bitAt_eq_field]⟩
theorem LmaskO.read {o : LmaskO} (h : Begins (o.words mj fn) w0 w1) : LaneOp mj fn w0 ∧ LmaskO.ofWords w0 w1 = o := by
  obtain rfl := begins_one h
  exact ⟨lr_op .., by simp [lr, LmaskO.ofWords, Guard.atL, bitAt_eq_field]⟩
theorem LfirstO.read {o : LfirstO} (h : Begins (o.words mj fn) w0 w1) : LaneOp mj fn w0 ∧ LfirstO.ofWords w0 w1 = o := by
  obtain rfl := begins_one h
  exact ⟨lr_op .., by simp [lr, LfirstO.ofWords, Guard.atL, bitAt_eq_field]⟩
theorem A1.read {o : A1} (h : Begins (o.words mj fn) w0 w1) : LaneOp mj fn w0 ∧ A1.ofWords w0 w1 = o := by
  obtain rfl := begins_one h
  exact ⟨lr_op .., by simp [lr, A1.ofWords, Guard.atL, bitAt_eq_field]⟩
theorem JwaitO.read {o : JwaitO} (h : Begins (o.words mj fn) w0 w1) : LaneOp mj fn w0 ∧ JwaitO.ofWords w0 w1 = o := by
  obtain rfl := begins_one h
  exact ⟨lr_op .., by simp [lr, JwaitO.ofWords, Guard.atL, bitAt_eq_field]⟩
theorem JdropO.read {o : JdropO} (h : Begins (o.words mj fn) w0 w1) : LaneOp mj fn w0 ∧ JdropO.ofWords w0 w1 = o := by
  obtain rfl := begins_one h
  have whole : o.m.extractLsb' 3 5 ++ o.m.extractLsb' 0 3 = o.m := BitVec.extractLsb'_append_extractLsb'
  have mask : (lr mj (o.m.extractLsb' 3 5) (o.m.extractLsb' 0 3 ++ 0#2) 0 fn false o.g).extractLsb' 17 8 = o.m :=
    (BitVec.extractLsb'_append_extractLsb'_eq_extractLsb' (start₁ := 17) (len₁ := 3) rfl).symm.trans (by simp [lr, whole])
  exact ⟨lr_op .., congrArg₂ JdropO.mk mask (by simp [lr, Guard.atL, bitAt_eq_field])⟩
theorem JgetO.read {o : JgetO} (h : Begins (o.words mj fn) w0 w1) : LaneOp mj fn w0 ∧ JgetO.ofWords w0 w1 = o := by
  obtain rfl := begins_one h
  exact ⟨lr_op .., by simp [lr, JgetO.ofWords, Guard.atL, bitAt_eq_field]⟩
theorem JputO.read {o : JputO} (h : Begins (o.words mj fn) w0 w1) : LaneOp mj fn w0 ∧ JputO.ofWords w0 w1 = o := by
  obtain rfl := begins_one h
  exact ⟨lr_op .., by simp [lr, JputO.ofWords, Guard.atL, bitAt_eq_field]⟩
theorem CallxO.read {o : CallxO} (h : Begins (o.words mj fn) w0 w1) : LaneOp mj fn w0 ∧ CallxO.ofWords w0 w1 = o := by
  obtain rfl := begins_one h
  exact ⟨lr_op .., by simp [lr, CallxO.ofWords, Guard.atL, bitAt_eq_field]⟩
theorem G0.read {o : G0} (h : Begins (o.words mj fn) w0 w1) : LaneOp mj fn w0 ∧ G0.ofWords w0 w1 = o := by
  obtain rfl := begins_one h
  exact ⟨lr_op .., by simp [lr, G0.ofWords, Guard.atL, bitAt_eq_field]⟩
theorem B1.read {o : B1} (h : Begins (o.words mj fn) w0 w1) : LaneOp mj fn w0 ∧ B1.ofWords w0 w1 = o := by
  obtain ⟨rfl, src⟩ := begins_vsrc h
  exact ⟨lr_op .., by simp [lr, B1.ofWords, Guard.atL, bitAt_eq_field, src]⟩
theorem RspO.read {o : RspO} (h : Begins (o.words mj fn) w0 w1) : LaneOp mj fn w0 ∧ RspO.ofWords w0 w1 = o := by
  obtain ⟨rfl, src⟩ := begins_vsrc h
  exact ⟨lr_op .., by simp [lr, RspO.ofWords, Guard.atL, bitAt_eq_field, src]⟩

/-! Format LF. -/

theorem F4.read {o : F4} (h : Begins (o.words mj fx) w0 w1) : FxOp mj fx w0 ∧ F4.ofWords w0 w1 = o := by
  obtain rfl := begins_one h
  exact ⟨lf_op .., by simp [lf, F4.ofWords, Guard.atL, bitAt_eq_field]⟩
theorem F3.read {o : F3} (h : Begins (o.words mj fx) w0 w1) : FxOp mj fx w0 ∧ F3.ofWords w0 w1 = o := by
  obtain rfl := begins_one h
  exact ⟨lf_op .., by simp [lf, F3.ofWords, Guard.atL, bitAt_eq_field]⟩

/-! Formats LM and LA. -/

theorem LmO.read {o : LmO} (h : Begins (o.words mj) w0 w1) : w0.extractLsb' 25 7 = mj ∧ LmO.ofWords w0 w1 = o := by
  obtain ⟨rfl, src⟩ := begins_off h
  exact ⟨lm_major .., by simp [lm, LmO.ofWords, Guard.atM, bitAt_eq_field, src]⟩
theorem StO.read {o : StO} (h : Begins (o.words mj) w0 w1) : w0.extractLsb' 25 7 = mj ∧ StO.ofWords w0 w1 = o := by
  obtain ⟨rfl, src⟩ := begins_off h
  exact ⟨lm_major .., by simp [lm, StO.ofWords, Guard.atM, bitAt_eq_field, src]⟩
theorem PfO.read {o : PfO} (h : Begins (o.words mj) w0 w1) : w0.extractLsb' 25 7 = mj ∧ PfO.ofWords w0 w1 = o := by
  obtain ⟨rfl, src⟩ := begins_off h
  exact ⟨lm_major .., by simp [lm, PfO.ofWords, Guard.atM, bitAt_eq_field, src]⟩
theorem SstO.read {o : SstO} (h : Begins (o.words mj) w0 w1) : w0.extractLsb' 25 7 = mj ∧ SstO.ofWords w0 w1 = o := by
  obtain ⟨rfl, src⟩ := begins_off h
  exact ⟨lm_major .., by simp [lm, SstO.ofWords, Guard.atM, bitAt_eq_field, src]⟩
theorem LaO.read {o : LaO} (h : Begins (o.words mj) w0 w1) : w0.extractLsb' 25 7 = mj ∧ LaO.ofWords w0 w1 = o := by
  obtain ⟨rfl, rfl⟩ := begins_two h
  exact ⟨la_major .., by simp [la, LaO.ofWords, bitAt_eq_field]⟩
theorem TboxO.read {o : TboxO} (h : Begins (o.words mj) w0 w1) : w0.extractLsb' 25 7 = mj ∧ TboxO.ofWords w0 w1 = o := by
  obtain ⟨rfl, rfl⟩ := begins_two h
  exact ⟨lm_major .., by simp [lm, TboxO.ofWords, Guard.atM, bitAt_eq_field]⟩
theorem TtriO.read {o : TtriO} (h : Begins (o.words mj) w0 w1) : w0.extractLsb' 25 7 = mj ∧ TtriO.ofWords w0 w1 = o := by
  obtain ⟨rfl, rfl⟩ := begins_two h
  exact ⟨lm_major .., by simp [lm, TtriO.ofWords, Guard.atM, bitAt_eq_field]⟩
theorem TraceO.read {o : TraceO} (h : Begins (o.words mj) w0 w1) : w0.extractLsb' 25 7 = mj ∧ TraceO.ofWords w0 w1 = o := by
  obtain ⟨rfl, rfl⟩ := begins_two h
  exact ⟨lm_major .., by simp [lm, TraceO.ofWords, Guard.atM, bitAt_eq_field]⟩

/-! Format UR. -/

theorem U3.read {o : U3} (h : Begins (o.words mj fn) w0 w1) : UniOp mj fn w0 ∧ U3.ofWords w0 w1 = o := by
  obtain ⟨rfl, src⟩ := begins_ssrc h
  exact ⟨ur_op .., by simp [ur, U3.ofWords, uD, uA, uS, uB, bitAt_eq_field, src]⟩
theorem U2.read {o : U2} (h : Begins (o.words mj fn) w0 w1) : UniOp mj fn w0 ∧ U2.ofWords w0 w1 = o := by
  obtain rfl := begins_one h
  exact ⟨ur_op .., by simp [ur, U2.ofWords, uD, uA]⟩
theorem Udb.read {o : Udb} (h : Begins (o.words mj fn) w0 w1) : UniOp mj fn w0 ∧ Udb.ofWords w0 w1 = o := by
  obtain ⟨rfl, src⟩ := begins_ssrc h
  exact ⟨ur_op .., by simp [ur, Udb.ofWords, uD, uS, uB, bitAt_eq_field, src]⟩
theorem UsetO.read {o : UsetO} (h : Begins (o.words mj) w0 w1) : w0.extractLsb' 25 7 = mj ∧ UsetO.ofWords w0 w1 = o := by
  obtain ⟨rfl, src⟩ := begins_ssrc h
  exact ⟨ur_major .., by simp [ur, UsetO.ofWords, uA, uS, uB, bitAt_eq_field, src]⟩
theorem UlfO.read {o : UlfO} (h : Begins (o.words mj fn) w0 w1) : UniOp mj fn w0 ∧ UlfO.ofWords w0 w1 = o := by
  obtain rfl := begins_one h
  exact ⟨ur_op .., by simp [ur, UlfO.ofWords, uD]⟩
theorem UliO.read {o : UliO} (h : Begins (o.words mj fn) w0 w1) : UniOp mj fn w0 ∧ UliO.ofWords w0 w1 = o := by
  obtain ⟨rfl, src⟩ := begins_ssrc h
  exact ⟨ur_op .., by simp [ur, UliO.ofWords, uD, uS, uB, bitAt_eq_field, src]⟩
theorem C3.read {o : C3} (h : Begins (o.words mj fn) w0 w1) : UniOp mj fn w0 ∧ C3.ofWords w0 w1 = o := by
  obtain rfl := begins_one h
  exact ⟨ur_op .., by simp [ur, C3.ofWords, bitAt_eq_field]⟩
theorem C2.read {o : C2} (h : Begins (o.words mj fn) w0 w1) : UniOp mj fn w0 ∧ C2.ofWords w0 w1 = o := by
  obtain rfl := begins_one h
  exact ⟨ur_op .., by simp [ur, C2.ofWords, bitAt_eq_field]⟩
theorem Ua.read {o : Ua} (h : Begins (o.words mj fn) w0 w1) : UniOp mj fn w0 ∧ Ua.ofWords w0 w1 = o := by
  obtain rfl := begins_one h
  exact ⟨ur_op .., by simp [ur, Ua.ofWords, uA]⟩
theorem Ub.read {o : Ub} (h : Begins (o.words mj fn) w0 w1) : UniOp mj fn w0 ∧ Ub.ofWords w0 w1 = o := by
  obtain ⟨rfl, src⟩ := begins_ssrc h
  exact ⟨ur_op .., by simp [ur, Ub.ofWords, uS, uB, bitAt_eq_field, src]⟩
theorem Ud.read {o : Ud} (h : Begins (o.words mj fn) w0 w1) : UniOp mj fn w0 ∧ Ud.ofWords w0 w1 = o := by
  obtain rfl := begins_one h
  exact ⟨ur_op .., by simp [ur, Ud.ofWords, uD]⟩
theorem AccZ.read {o : AccZ} (h : Begins (o.words mj fn) w0 w1) : UniOp mj fn w0 ∧ AccZ.ofWords w0 w1 = o := by
  obtain rfl := begins_one h
  exact ⟨ur_op .., by simp [ur, AccZ.ofWords, bitAt_eq_field]⟩
theorem AccC.read {o : AccC} (h : Begins (o.words mj fn) w0 w1) : UniOp mj fn w0 ∧ AccC.ofWords w0 w1 = o := by
  obtain rfl := begins_one h
  exact ⟨ur_op .., by simp [ur, AccC.ofWords, bitAt_eq_field]⟩
theorem AccP.read {o : AccP} (h : Begins (o.words mj fn) w0 w1) : UniOp mj fn w0 ∧ AccP.ofWords w0 w1 = o := by
  obtain rfl := begins_one h
  exact ⟨ur_op .., by simp [ur, AccP.ofWords, uA, bitAt_eq_field]⟩
theorem MwaitO.read {o : MwaitO} (h : Begins (o.words mj fn) w0 w1) : UniOp mj fn w0 ∧ MwaitO.ofWords w0 w1 = o := by
  obtain rfl := begins_one h
  exact ⟨ur_op .., by simp [ur, MwaitO.ofWords, bitAt_eq_field]⟩
theorem SunO.read {o : SunO} (h : Begins (o.words mj fn) w0 w1) : UniOp mj fn w0 ∧ SunO.ofWords w0 w1 = o := by
  obtain rfl := begins_one h
  exact ⟨ur_op .., by simp [ur, SunO.ofWords, bitAt_eq_field]⟩
theorem Uab.read {o : Uab} (h : Begins (o.words mj fn) w0 w1) : UniOp mj fn w0 ∧ Uab.ofWords w0 w1 = o := by
  obtain ⟨rfl, src⟩ := begins_ssrc h
  exact ⟨ur_op .., by simp [ur, Uab.ofWords, uA, uS, uB, bitAt_eq_field, src]⟩
theorem SyncO.read {o : SyncO} (h : Begins (o.words mj fn) w0 w1) : UniOp mj fn w0 ∧ SyncO.ofWords w0 w1 = o := by
  obtain rfl := begins_one h
  exact ⟨ur_op .., by simp [ur, SyncO.ofWords, uD, uA, bitAt_eq_field]⟩
theorem U3n.read {o : U3n} (h : Begins (o.words mj fn) w0 w1) : UniOp mj fn w0 ∧ U3n.ofWords w0 w1 = o := by
  obtain rfl := begins_one h
  exact ⟨ur_op .., by simp [ur, U3n.ofWords, uD, uA, uB]⟩
theorem FenO.read {o : FenO} (h : Begins (o.words mj fn) w0 w1) : UniOp mj fn w0 ∧ FenO.ofWords w0 w1 = o := by
  obtain rfl := begins_one h
  exact ⟨ur_op .., by simp [ur, FenO.ofWords]⟩
theorem Uabn.read {o : Uabn} (h : Begins (o.words mj fn) w0 w1) : UniOp mj fn w0 ∧ Uabn.ofWords w0 w1 = o := by
  obtain rfl := begins_one h
  exact ⟨ur_op .., by simp [ur, Uabn.ofWords, uA, uB]⟩
theorem BarO.read {o : BarO} (h : Begins (o.words mj fn) w0 w1) : UniOp mj fn w0 ∧ BarO.ofWords w0 w1 = o := by
  obtain rfl := begins_one h
  exact ⟨ur_op .., by simp [ur, BarO.ofWords]⟩

/-! Format UX. -/

theorem MmaO.read {o : MmaO} (h : Begins (o.words mj) w0 w1) : w0.extractLsb' 25 7 = mj ∧ MmaO.ofWords w0 w1 = o := by
  obtain ⟨rfl, rfl⟩ := begins_two h
  exact ⟨ux_major .., by simp [ux, MmaO.ofWords, xA, x1, x2, MmaC.word, MmaC.ofWord, bitAt_eq_field]⟩
theorem MmagO.read {o : MmagO} (h : Begins (o.words mj) w0 w1) : w0.extractLsb' 25 7 = mj ∧ MmagO.ofWords w0 w1 = o := by
  obtain ⟨rfl, rfl⟩ := begins_two h
  exact ⟨ux_major .., by simp [ux, MmagO.ofWords, xA, xB, x1, MmaC.word, MmaC.ofWord, bitAt_eq_field]⟩
theorem AccIo.read {o : AccIo} (h : Begins (o.words mj) w0 w1) : w0.extractLsb' 25 7 = mj ∧ AccIo.ofWords w0 w1 = o := by
  obtain ⟨rfl, rfl⟩ := begins_two h
  exact ⟨ux_major .., by simp [ux, AccIo.ofWords, xA, x1, bitAt_eq_field]⟩
theorem AmapO.read {o : AmapO} (h : Begins (o.words mj) w0 w1) : w0.extractLsb' 25 7 = mj ∧ AmapO.ofWords w0 w1 = o := by
  obtain rfl := begins_one h
  exact ⟨ux_major .., by simp [ux, AmapO.ofWords, xA]⟩
theorem BplO.read {o : BplO} (h : Begins (o.words mj) w0 w1) :
    (w0.extractLsb' 25 7 = mj ∧ w0.extractLsb' 24 1 = 0) ∧ BplO.ofWords w0 w1 = o := by
  obtain ⟨rfl, rfl⟩ := begins_two h
  exact ⟨⟨ux_major .., by simp [ux]⟩, by simp [ux, BplO.ofWords, xA, xB, bitAt_eq_field]⟩
theorem BpzO.read {o : BpzO} (h : Begins (o.words mj) w0 w1) :
    (w0.extractLsb' 25 7 = mj ∧ w0.extractLsb' 24 1 = 1) ∧ BpzO.ofWords w0 w1 = o := by
  obtain ⟨rfl, rfl⟩ := begins_two h
  exact ⟨⟨ux_major .., by simp [ux]⟩, by simp [ux, BpzO.ofWords, xB, bitAt_eq_field]⟩
theorem RowaO.read {o : RowaO} (h : Begins (o.words mj) w0 w1) : w0.extractLsb' 25 7 = mj ∧ RowaO.ofWords w0 w1 = o := by
  obtain ⟨n, r | i⟩ := o
  · obtain rfl := begins_one h
    exact ⟨ux_major .., by simp [ux, RowaO.ofWords, x1, xA, bitAt_eq_field]⟩
  · obtain ⟨rfl, rfl⟩ := begins_two h
    exact ⟨ux_major .., by simp [ux, RowaO.ofWords, x1, bitAt_eq_field]⟩
theorem RowtO.read {o : RowtO} (h : Begins (o.words mj) w0 w1) : w0.extractLsb' 25 7 = mj ∧ RowtO.ofWords w0 w1 = o := by
  obtain ⟨rfl, rfl⟩ := begins_two h
  have source : (if o.b.isSome = true then some (o.b.getD 0#6) else none) = o.b := by cases o.b <;> rfl
  exact ⟨ux_major .., by simp [ux, RowtO.ofWords, x1, xA, xB, bitAt_eq_field, source]⟩
theorem RowpO.read {o : RowpO} (h : Begins (o.words mj) w0 w1) : w0.extractLsb' 25 7 = mj ∧ RowpO.ofWords w0 w1 = o := by
  obtain rfl := begins_one h
  exact ⟨ux_major .., by simp [ux, RowpO.ofWords, x1, bitAt_eq_field]⟩
theorem SmapO.read {o : SmapO} (h : Begins (o.words mj) w0 w1) : w0.extractLsb' 25 7 = mj ∧ SmapO.ofWords w0 w1 = o := by
  obtain ⟨rfl, rfl⟩ := begins_two h
  exact ⟨ux_major .., by simp [ux, SmapO.ofWords, xA, xB, x1]⟩
theorem SgaO.read {o : SgaO} (h : Begins (o.words mj) w0 w1) : w0.extractLsb' 25 7 = mj ∧ SgaO.ofWords w0 w1 = o := by
  obtain ⟨rfl, rfl⟩ := begins_two h
  exact ⟨ux_major .., by simp [ux, SgaO.ofWords, xA, xB, x1, bitAt_eq_field]⟩

/-! Format UQ. -/

theorem QpuO.read {o : QpuO} (h : Begins (o.words mj) w0 w1) : w0.extractLsb' 25 7 = mj ∧ QpuO.ofWords w0 w1 = o := by
  obtain rfl := begins_one h
  exact ⟨uq_major .., by simp [uq, QpuO.ofWords, xA, x1, bitAt_eq_field]⟩
theorem QpoO.read {o : QpoO} (h : Begins (o.words mj) w0 w1) : w0.extractLsb' 25 7 = mj ∧ QpoO.ofWords w0 w1 = o := by
  obtain rfl := begins_one h
  exact ⟨uq_major .., by simp [uq, QpoO.ofWords, xA, x1, bitAt_eq_field]⟩
theorem SendO.read {o : SendO} (h : Begins (o.words mj) w0 w1) : w0.extractLsb' 25 7 = mj ∧ SendO.ofWords w0 w1 = o := by
  obtain rfl := begins_one h
  exact ⟨uq_major .., by simp [uq, SendO.ofWords, xA, xB, x1, bitAt_eq_field]⟩

/-! The formats of immediates and displacements: LI, LB, LK, UI, UB. -/

theorem I12.read {o : I12} (h : Begins (o.words mj) w0 w1) : w0.extractLsb' 25 7 = mj ∧ I12.ofWords w0 w1 = o := by
  obtain rfl := begins_one h
  exact ⟨by simp, by simp [I12.ofWords]⟩
theorem Sh5.read {o : Sh5} (h : Begins (o.words mj) w0 w1) : w0.extractLsb' 25 7 = mj ∧ Sh5.ofWords w0 w1 = o := by
  obtain rfl := begins_one h
  exact ⟨by simp, by simp [Sh5.ofWords]⟩
theorem I17.read {o : I17} (h : Begins (o.words mj) w0 w1) : w0.extractLsb' 25 7 = mj ∧ I17.ofWords w0 w1 = o := by
  obtain rfl := begins_one h
  exact ⟨by simp, by simp [I17.ofWords]⟩
theorem BraO.read {o : BraO} (h : Begins (o.words mj) w0 w1) : w0.extractLsb' 25 7 = mj ∧ BraO.ofWords w0 w1 = o := by
  obtain rfl := begins_one h
  exact ⟨by simp, by simp [BraO.ofWords, Guard.atB, bitAt_eq_field]⟩
theorem BrkO.read {o : BrkO} (h : Begins (o.words mj) w0 w1) : w0.extractLsb' 25 7 = mj ∧ BrkO.ofWords w0 w1 = o := by
  obtain rfl := begins_one h
  exact ⟨by simp, by simp [BrkO.ofWords, Guard.atB, bitAt_eq_field]⟩
theorem JsetO.read {o : JsetO} (h : Begins (o.words mj) w0 w1) : w0.extractLsb' 25 7 = mj ∧ JsetO.ofWords w0 w1 = o := by
  obtain rfl := begins_one h
  exact ⟨by simp, by simp [JsetO.ofWords]⟩
theorem CallO.read {o : CallO} (h : Begins (o.words mj) w0 w1) : w0.extractLsb' 25 7 = mj ∧ CallO.ofWords w0 w1 = o := by
  obtain rfl := begins_one h
  exact ⟨by simp, by simp [CallO.ofWords, bitAt_eq_field]⟩
theorem UiO.read {o : UiO} (h : Begins (o.words mj) w0 w1) : w0.extractLsb' 25 7 = mj ∧ UiO.ofWords w0 w1 = o := by
  obtain rfl := begins_one h
  exact ⟨by simp, by simp [UiO.ofWords, uD, uA]⟩
theorem UshO.read {o : UshO} (h : Begins (o.words mj) w0 w1) : w0.extractLsb' 25 7 = mj ∧ UshO.ofWords w0 w1 = o := by
  obtain rfl := begins_one h
  exact ⟨by simp, by simp [UshO.ofWords, uD, uA]⟩
theorem UmviO.read {o : UmviO} (h : Begins (o.words mj) w0 w1) : w0.extractLsb' 25 7 = mj ∧ UmviO.ofWords w0 w1 = o := by
  obtain rfl := begins_one h
  exact ⟨by simp, by simp [UmviO.ofWords, uD]⟩
theorem UbraO.read {o : UbraO} (h : Begins (o.words mj) w0 w1) : w0.extractLsb' 25 7 = mj ∧ UbraO.ofWords w0 w1 = o := by
  obtain rfl := begins_one h
  exact ⟨by simp, by simp [UbraO.ofWords, Guard.atB, bitAt_eq_field]⟩
end

/-! ### The decoder -/

/-- The words of a well-formed instruction lead `candidate` to it: by major and fn or fx, or by major alone. Two majors look at one
more field: 0x58, where 0 is MMA, and 0x5F, where the top bit is BPL.ZERO's (R65, R66). -/
theorem candidate_of_begins (i : Instr) {w0 w1 : Word} (wf : i.wf = true) (h : Begins (encode i) w0 w1) :
    candidate w0 w1 = some i := by
  cases i
  -- an event is no instruction word
  any_goals contradiction
  case' iadd o | isub o | iaddSat o | isubSat o | iminI o | imaxI o | iminN o | imaxN o | idiff o | lea1 o
      | lea2 o | lea3 o | lea4 o | iaddw o | isubw o | and o | or o | xor o | andn o | orn o | shl o | shrN o
      | shrI o | rotl o | bytsel o | imul o | imulhI o | imulhN o | imulwI o | imulwN o | sel o | fadd o
      | fsub o | fmul o | fmin o | fmax o | fcopysign o | faddRz o | faddRm o | faddRp o | fmulRz o | fmulRm o
      | fmulRp o | lxcAt o | lxcFlip o | lxcBelow o | lxcAbove o => obtain ⟨⟨major, op⟩, rfl⟩ := R3.read h
  case' iabs o | ineg o | not o | popc o | clz o | brev o | fabs o | fneg o | ffrac o | fclass o | frintRn o
      | frintRz o | frintRm o | frintRp o | frcp o | frsq o | fsqrt o | fex2 o | flg2 o | fsint o | fcost o
      | ftanh o | flogi o | upk2F16 o | upk2Bf16 o | upk4E4m3 o | upk4E5m2 o | upk8E2m1 o | lsum o | lminI o
      | lmaxI o | lsame o => obtain ⟨⟨major, op⟩, rfl⟩ := R2.read h
  case' mov o => obtain ⟨⟨major, op⟩, rfl⟩ := MovO.read h
  case' movu o => obtain ⟨⟨major, op⟩, rfl⟩ := MovuO.read h
  case' movs o => obtain ⟨⟨major, op⟩, rfl⟩ := MovsO.read h
  case' pk2F16 o | pk2Bf16 o | pk4E4m3 o | pk4E5m2 o | pk8E2m1 o | pk4E4m3Sat o | pk4E5m2Sat o =>
    obtain ⟨⟨major, op⟩, rfl⟩ := R3n.read h
  case' pand o | por o | pxor o => obtain ⟨⟨major, op⟩, rfl⟩ := P3.read h
  case' pnot o | pmov o | lany o | lall o => obtain ⟨⟨major, op⟩, rfl⟩ := P2.read h
  case' ppack o => obtain ⟨⟨major, op⟩, rfl⟩ := PkO.read h
  case' punpk o => obtain ⟨⟨major, op⟩, rfl⟩ := UpkO.read h
  case' lmask o => obtain ⟨⟨major, op⟩, rfl⟩ := LmaskO.read h
  case' lfirst o => obtain ⟨⟨major, op⟩, rfl⟩ := LfirstO.read h
  case' brx o => obtain ⟨⟨major, op⟩, rfl⟩ := A1.read h
  case' jwait o => obtain ⟨⟨major, op⟩, rfl⟩ := JwaitO.read h
  case' jdrop o => obtain ⟨⟨major, op⟩, rfl⟩ := JdropO.read h
  case' jget o => obtain ⟨⟨major, op⟩, rfl⟩ := JgetO.read h
  case' jput o => obtain ⟨⟨major, op⟩, rfl⟩ := JputO.read h
  case' callx o => obtain ⟨⟨major, op⟩, rfl⟩ := CallxO.read h
  case' ret o | nop o | exit o | yield o | nexthit o | rend o => obtain ⟨⟨major, op⟩, rfl⟩ := G0.read h
  case' nap o => obtain ⟨⟨major, op⟩, rfl⟩ := B1.read h
  case' rspawn o => obtain ⟨⟨major, op⟩, rfl⟩ := RspO.read h
  case' imad o | imadW o | bfi o | ffma o | ffms o | hfma2F16 o | hfma2Bf16 o | dp4E4m3 o | dp4E5m2 o | idp4I8 o
      | idp4N8 o => obtain ⟨⟨major, op⟩, rfl⟩ := F4.read h
  case' bfe o => obtain ⟨⟨major, op⟩, rfl⟩ := F3.read h
  case' uadd o | usub o | umul o | umulhN o | uminI o | umaxI o | uminN o | umaxN o | uand o | uor o | uxor o
      | ushl o | ushrN o | ushrI o | uaddw o | moder o | cfork o => obtain ⟨⟨major, op⟩, rfl⟩ := U3.read h
  case' upopc o | uclz o | umovs o | sunbind o | cont o | cjoin o | launch o | recvPost o | recvWait o
      | recvTest o | recvCancel o => obtain ⟨⟨major, op⟩, rfl⟩ := U2.read h
  case' umov o => obtain ⟨⟨major, op⟩, rfl⟩ := Udb.read h
  case' ulaneFirst o => obtain ⟨⟨major, op⟩, rfl⟩ := UlfO.read h
  case' ulaneIdx o => obtain ⟨⟨major, op⟩, rfl⟩ := UliO.read h
  case' cand o | cor o | cxor o => obtain ⟨⟨major, op⟩, rfl⟩ := C3.read h
  case' cnot o => obtain ⟨⟨major, op⟩, rfl⟩ := C2.read h
  case' ujmp o => obtain ⟨⟨major, op⟩, rfl⟩ := Ua.read h
  case' trap o | flgc o | mode o | rowwait o => obtain ⟨⟨major, op⟩, rfl⟩ := Ub.read h
  case' flgr o | pairBind o | pairFree o | rowst o => obtain ⟨⟨major, op⟩, rfl⟩ := Ud.read h
  case' accZero o | accDrop o | accMerge o => obtain ⟨⟨major, op⟩, rfl⟩ := AccZ.read h
  case' accCommit o => obtain ⟨⟨major, op⟩, rfl⟩ := AccC.read h
  case' accPoison o => obtain ⟨⟨major, op⟩, rfl⟩ := AccP.read h
  case' mwait o => obtain ⟨⟨major, op⟩, rfl⟩ := MwaitO.read h
  case' sunmap o => obtain ⟨⟨major, op⟩, rfl⟩ := SunO.read h
  case' sflush o | sinv o | spres o | shpush o => obtain ⟨⟨major, op⟩, rfl⟩ := Uab.read h
  case' syncAcqX o | syncAcqS o | syncAcqO o | syncRel o => obtain ⟨⟨major, op⟩, rfl⟩ := SyncO.read h
  case' sbind o | semaTry o => obtain ⟨⟨major, op⟩, rfl⟩ := U3n.read h
  case' fenceAcq o | fenceRel o | fenceFull o => obtain ⟨⟨major, op⟩, rfl⟩ := FenO.read h
  case' semaSig o | semaWait o | ordopen o => obtain ⟨⟨major, op⟩, rfl⟩ := Uabn.read h
  case' barArr o | barWait o | barSync o => obtain ⟨⟨major, op⟩, rfl⟩ := BarO.read h
  case iset o | fset o => obtain ⟨major, rfl⟩ := Cmp.read h; rw [candidate, major]; rfl
  case iaddi o | andi o | ori o | xori o => obtain ⟨major, rfl⟩ := I12.read h; rw [candidate, major]; rfl
  case shi o => obtain ⟨major, rfl⟩ := Sh5.read h; rw [candidate, major]; rfl
  case movi o => obtain ⟨major, rfl⟩ := I17.read h; rw [candidate, major]; rfl
  case cvt o => obtain ⟨major, rfl⟩ := CvtO.read h; rw [candidate, major]; rfl
  case bra o => obtain ⟨major, rfl⟩ := BraO.read h; rw [candidate, major]; rfl
  case brk o => obtain ⟨major, rfl⟩ := BrkO.read h; rw [candidate, major]; rfl
  case jset o => obtain ⟨major, rfl⟩ := JsetO.read h; rw [candidate, major]; rfl
  case call o => obtain ⟨major, rfl⟩ := CallO.read h; rw [candidate, major]; rfl
  case ld o | sld o => obtain ⟨major, rfl⟩ := LmO.read h; rw [candidate, major]; rfl
  case st o => obtain ⟨major, rfl⟩ := StO.read h; rw [candidate, major]; rfl
  case pref o | cline o => obtain ⟨major, rfl⟩ := PfO.read h; rw [candidate, major]; rfl
  case sst o => obtain ⟨major, rfl⟩ := SstO.read h; rw [candidate, major]; rfl
  case atom o | red o | satom o => obtain ⟨major, rfl⟩ := LaO.read h; rw [candidate, major]; rfl
  case tbox o => obtain ⟨major, rfl⟩ := TboxO.read h; rw [candidate, major]; rfl
  case ttri o => obtain ⟨major, rfl⟩ := TtriO.read h; rw [candidate, major]; rfl
  case trace o => obtain ⟨major, rfl⟩ := TraceO.read h; rw [candidate, major]; rfl
  case uaddi o | uandi o | uori o => obtain ⟨major, rfl⟩ := UiO.read h; rw [candidate, major]; rfl
  case ushi o => obtain ⟨major, rfl⟩ := UshO.read h; rw [candidate, major]; rfl
  case umovi o => obtain ⟨major, rfl⟩ := UmviO.read h; rw [candidate, major]; rfl
  case uset o => obtain ⟨major, rfl⟩ := UsetO.read h; rw [candidate, major]; rfl
  case ubra o => obtain ⟨major, rfl⟩ := UbraO.read h; rw [candidate, major]; rfl
  case mmag o => obtain ⟨major, rfl⟩ := MmagO.read h; rw [candidate, major]; rfl
  case accld o | accst o => obtain ⟨major, rfl⟩ := AccIo.read h; rw [candidate, major]; rfl
  case amap o => obtain ⟨major, rfl⟩ := AmapO.read h; rw [candidate, major]; rfl
  case rowact o => obtain ⟨major, rfl⟩ := RowaO.read h; rw [candidate, major]; rfl
  case rowcon o | rowwr o => obtain ⟨major, rfl⟩ := RowtO.read h; rw [candidate, major]; rfl
  case rowpre o => obtain ⟨major, rfl⟩ := RowpO.read h; rw [candidate, major]; rfl
  case smap o => obtain ⟨major, rfl⟩ := SmapO.read h; rw [candidate, major]; rfl
  case sgath o => obtain ⟨major, rfl⟩ := SgaO.read h; rw [candidate, major]; rfl
  case qpush o => obtain ⟨major, rfl⟩ := QpuO.read h; rw [candidate, major]; rfl
  case qpop o => obtain ⟨major, rfl⟩ := QpoO.read h; rw [candidate, major]; rfl
  case mcast o | send o => obtain ⟨major, rfl⟩ := SendO.read h; rw [candidate, major]; rfl
  case mma o =>
    obtain ⟨major, rfl⟩ := MmaO.read h
    have uncounted : w0.extractLsb' 17 4 = 0 := eq_of_beq (Bool.and_eq_true_iff.1 wf).1
    rw [candidate, major]; exact if_pos uncounted
  case mmaC o =>
    obtain ⟨major, rfl⟩ := MmaO.read h
    have counted : w0.extractLsb' 17 4 ≠ 0 := bne_iff_ne.1 (Bool.and_eq_true_iff.1 wf).1
    rw [candidate, major]; exact if_neg counted
  case mmas o => obtain ⟨major, rfl⟩ := MmaO.read h; rw [candidate, major]; rfl
  case' bplLd o => obtain ⟨⟨major, op⟩, rfl⟩ := BplO.read h
  case' bplZero o => obtain ⟨⟨major, op⟩, rfl⟩ := BpzO.read h
  case' tfence | rtt | bkpt =>
    obtain rfl := begins_one h
    obtain ⟨major, op⟩ := ur_op (mj := 0x52) 0 0 0 false
  all_goals rw [candidate, major, op]; rfl

/-- What the decoder accepts: the candidate whose words begin there, when it keeps the limits (R67). -/
theorem decode_eq_ok_iff (w0 w1 : Word) (i : Instr) :
    decode w0 w1 = .ok i ↔ candidate w0 w1 = some i ∧ i.wf = true ∧ Begins (encode i) w0 w1 := by
  unfold decode
  split
  · next unlisted => simp [unlisted]
  next j listed =>
  rw [listed, Option.some.injEq]
  constructor
  · intro h
    split at h
    · cases h
    next e rest words =>
    split_ifs at h with other limit1 reserved limit2
    obtain rfl := Decoded.ok.inj h
    have second : rest = [] ∨ rest = [w1] := by tauto
    refine ⟨rfl, Bool.and_eq_true_iff.2 ⟨by simpa using limit1, by simpa using limit2⟩, ?_⟩
    simpa [Begins, words, not_not.1 other] using second
  · rintro ⟨rfl, wf, words⟩
    obtain ⟨first, second⟩ := Bool.and_eq_true_iff.1 wf
    obtain words | words := words <;> simp [words, first, second]

end Sys2Proof

namespace Sys2Proof.Proofs
open Sys2Proof

/-- Settles O55: an instruction's words lead the decoder to it, and what it accepts it has compared with them. -/
theorem decodingInvertsEncoding : Obligations.DecodingInvertsEncoding :=
  ⟨fun i w0 w1 wf words => (decode_eq_ok_iff w0 w1 i).2 ⟨candidate_of_begins i wf words, wf, words⟩,
   fun i w0 w1 accepted => ((decode_eq_ok_iff w0 w1 i).1 accepted).2⟩

/-- Settles O54: each word evaluated. -/
theorem someWordsDecode : Obligations.SomeWordsDecode := by
  unfold Obligations.SomeWordsDecode
  decide +kernel

end Sys2Proof.Proofs
end

section
/-! A step whose turn is the issue of a split: what the fetch finds at its PC, and what runs (R51, R54, R60, R82). -/
namespace Sys2Proof.Machine

/-- A page that the core's own TLB holds is translated there, and nothing changes (R214). -/
theorem State.translate_of_tlb {s : State} {core ctx va : Nat} {e : DWord} {a : Access} (who : Waiter)
    (hit : ((s.core core).tlb.find? fun t => t.serves ctx va).map TlbEntry.pte = some e) (allowed : s.pteCause e va a = none) :
    s.translate core ctx who va a = (.ok e (ptePa e va), s) := by
  obtain ⟨t, found, rfl⟩ := Option.map_eq_some_iff.1 hit
  simp only [State.translate, found, allowed]

/-- A line that the instruction cache holds is fetched from it, and nothing changes (R238). -/
theorem State.fetch_of_icache {s : State} {core ctx pc : Nat} {e : DWord} {d : Line} (who : Waiter)
    (hit : ((s.core core).tlb.find? fun t => t.serves ctx pc).map TlbEntry.pte = some e)
    (allowed : s.pteCause e pc { fetch := true } = none)
    (held : mget (s.core core).icache (lineAddr (ptePa e pc)) = some d) : s.fetch core ctx who pc = (.line d, s) := by
  simp only [State.fetch, State.translate_of_tlb who hit allowed, held]

/-- Words that are an instruction, which stands where its length allows, run (R51). -/
theorem lookWord_of_decode {a : Nat} {w0 w1 : Word} {i : Instr} (h : decode w0 w1 = .ok i) (placed : i.len = 8 → a % 8 = 0) :
    lookWord a w0 w1 = .run i := by
  have inPlace : ¬ (i.len = 8 ∧ a % 8 = 4) := fun ⟨long, odd⟩ => by have := placed long; omega
  simp only [lookWord, h, inPlace, if_false]

/-- An instruction that touches no pending result is not held back (R60). -/
theorem State.lookInstr_of_free {s : State} {x : Ex} {i : Instr} (shut : x.windowShut = false) (free : x.touchesPending i = false) :
    s.lookInstr x i = (.run i, s) := by
  simp [State.lookInstr, shut, free]

/-- What stands at the PC of a split whose line the cache holds: the instruction that its words are (R51, R53, R60). -/
theorem State.lookAt_run {s : State} {x : Ex} {e : DWord} {d : Line} {i : Instr}
    (hit : ((s.core x.core).tlb.find? fun t => t.serves x.gr.ctx (Pc.addr x.sp.pc).toNat).map TlbEntry.pte = some e)
    (allowed : s.pteCause e (Pc.addr x.sp.pc).toNat { fetch := true } = none)
    (held : mget (s.core x.core).icache (lineAddr (ptePa e (Pc.addr x.sp.pc).toNat)) = some d)
    (entered : x.sp.jumped = true → (Pc.addr x.sp.pc).toNat % 8 = 4 → carriesX (lineWord d ((Pc.addr x.sp.pc).toNat - 4)) = false)
    (decoded : decode (lineWord d (Pc.addr x.sp.pc).toNat)
      (if (Pc.addr x.sp.pc).toNat % 64 = 60 then 0 else lineWord d ((Pc.addr x.sp.pc).toNat + 4)) = .ok i)
    (placed : i.len = 8 → (Pc.addr x.sp.pc).toNat % 8 = 0)
    (shut : x.windowShut = false) (free : x.touchesPending i = false) : s.lookAt x = (.run i, s) := by
  have start : (x.sp.jumped && decide ((Pc.addr x.sp.pc).toNat % 8 = 4) &&
      carriesX (lineWord d ((Pc.addr x.sp.pc).toNat - 4))) = false := by
    by_contra inside
    simp only [Bool.not_eq_false, Bool.and_eq_true, decide_eq_true_eq] at inside
    obtain ⟨⟨jumped, odd⟩, carries⟩ := inside
    exact Bool.false_ne_true ((entered jumped odd).symm.trans carries)
  simp only [State.lookAt, State.fetch_of_icache x.waiter hit allowed held, start, lookWord_of_decode decoded placed,
    State.lookInstr_of_free shut free, Bool.false_eq_true, if_false]

/-- A split that has not issued yet and has nothing to wait for has its next instruction looked at (R82, R85, R88). -/
theorem State.look_of_fresh {s : State} {x : Ex} (fresh : x.sp.latch = none) (context : s.ctxIssues x.core x.gr.ctx = true)
    (awake : x.awake s.now = true) (settled : x.sp.settle = false ∨ x.gr.pending x.sp.mask = false) :
    s.look x = s.lookAt x := by
  have notGoing : x.sp.going = false := by simp [Split.going, fresh]
  have stays : s.goesOn x = false := by simp [State.goesOn, notGoing]
  have settles : (x.sp.settle && x.gr.pending x.sp.mask) = false := Bool.and_eq_false_iff.2 settled
  simp [State.look, stays, notGoing, context, awake, settles, fresh]

/-- The issue of a split whose next instruction runs and may issue answers what the instruction's execution answers, with the issue
noted where it goes on (R60, R84, R87). -/
theorem State.issue_of_run {s : State} {x : Ex} {i : Instr} (split : s.exAt x.core x.slot x.entry = some x)
    (runs : s.look x = (.run i, s)) (now : s.turnNow x i = true) :
    (∀ t, exec i (s.started x (s.alsoNow x)) = .next t →
      s.issue x.core x.slot x.entry = .next ((t.finished s x i).afterIssue x)) ∧
    (∀ r, exec i (s.started x (s.alsoNow x)) = .fault r → s.issue x.core x.slot x.entry = .fault r) ∧
    (∀ r, exec i (s.started x (s.alsoNow x)) = .refused r → s.issue x.core x.slot x.entry = .refused r) := by
  simp only [State.issue, split, runs, now, if_true]
  exact ⟨fun t next => by rw [next], fun r fault => by rw [fault], fun r refused => by rw [refused]⟩

end Sys2Proof.Machine

namespace Sys2Proof.Proofs
open Sys2Proof Sys2Proof.Machine Sys2Proof.Claims

/-- Settles O56: the turn is the issue of the split, and the issue executes what the words at its PC are. -/
theorem aStepRunsTheInstruction : Obligations.AStepRunsTheInstruction := by
  intro s x rest w0 w1 i fetches decoded placed s0 issues s1
  obtain ⟨turn, split, context, awake, fresh, settled, e, d, hit, allowed, held, first, second, entered⟩ := fetches
  obtain ⟨shut, free, mayIssue, joinTurn⟩ := issues
  subst first second
  have runs : s0.look x = (.run i, s0) :=
    (State.look_of_fresh (s := s0) fresh context awake settled).trans
      (State.lookAt_run hit allowed held entered decoded placed shut free)
  have now : s0.turnNow x i = true := by simp [State.turnNow, mayIssue, joinTurn]
  have stepped : step s = s0.issue x.core x.slot x.entry := by simp only [step, turn]; rfl
  rw [stepped]
  exact State.issue_of_run (s := s0) split runs now

end Sys2Proof.Proofs
end

section
/-! What the accesses of the KZ8's own agents leave alone: the clusters, the groups, and the times of the contexts on the cores. -/
namespace Sys2Proof.Machine

/-! ### The parts of the machine that no access of an agent changes -/

/-- The clusters, and of each core its groups and its program times. -/
def State.still (s : State) : Map Cluster × (Nat → Map Group × Map Nat) :=
  (s.clusters, fun c => ((s.core c).groups, (s.core c).pts))

theorem State.group_of_still {s t : State} (h : t.still = s.still) (c k : Nat) : t.group c k = s.group c k :=
  congrArg (fun v : Map Cluster × (Nat → Map Group × Map Nat) => mget (v.2 c).1 k) h
theorem State.pts_of_still {s t : State} (h : t.still = s.still) (c x : Nat) : t.pts c x = s.pts c x :=
  congrArg (fun v : Map Cluster × (Nat → Map Group × Map Nat) => mgetD (v.2 c).2 x 0) h
theorem State.cluster_of_still {s t : State} (h : t.still = s.still) (k : Nat) : t.cluster k = s.cluster k :=
  congrArg (fun v : Map Cluster × (Nat → Map Group × Map Nat) => mgetD v.1 k {}) h

/-- A change of a core beside its groups and its times. -/
theorem State.still_modCore (s : State) (c : Nat) {f : Core → Core}
    (h : ∀ k, (f k).groups = k.groups ∧ (f k).pts = k.pts := by exact fun _ => ⟨rfl, rfl⟩) : (s.modCore c f).still = s.still := by
  refine Prod.ext rfl (funext fun k => ?_)
  obtain rfl | hk := eq_or_ne k c
  · simp [State.still, h]
  · simp [State.still, State.core_modCore_ne _ _ hk]
theorem State.still_modCtx (s : State) (c : Nat) (f : Ctx → Ctx) : (s.modCtx c f).still = s.still := rfl
@[simp] theorem State.still_bump (s : State) (c n : Nat) (x : Ctr) : (s.bump c x n).still = s.still := by
  unfold State.bump; split
  · rfl
  · exact s.still_modCore c
theorem State.still_foldl {α : Type} {f : State → α → State} (h : ∀ s a, (f s a).still = s.still) (l : List α) (s : State) :
    (l.foldl f s).still = s.still := foldl_keeps (fun t : State => t.still = s.still) f l (fun t a ht => (h t a).trans ht) s rfl
/-- The state that comes with an answer. -/
theorem State.still_of_snd {α : Type} {s u : State} {r : α × State} {x : α} (e : r = (x, u)) (h : r.2.still = s.still) :
    u.still = s.still := by rw [e] at h; exact h

/-! ### Lines -/

@[simp] theorem State.still_landWb (s : State) (pa : Nat) : (s.landWb pa).still = s.still := by
  unfold State.landWb; split <;> rfl
theorem State.still_putLine (s : State) (pa : Nat) (d : Line) (p : BitVec 16) : (s.putLine pa d p).still = s.still := rfl
@[simp] theorem State.still_cleanLine (s : State) (pa : Nat) : (s.cleanLine pa).still = s.still := by
  unfold State.cleanLine
  dsimp only
  split
  · exact (State.still_modCore _ _).trans ((s.landWb pa).still_putLine .. |>.trans (s.still_landWb pa))
  · exact s.still_landWb pa
@[simp] theorem State.still_dropCopy (s : State) (c pa : Nat) : (s.dropCopy c pa).still = s.still := by
  unfold State.dropCopy
  split
  · refine (State.still_modCore _ _).trans ?_
    split <;> simp
  · rfl
@[simp] theorem State.still_reclaim (s : State) (pa : Nat) : (s.reclaim pa).still = s.still := by
  have dropped (l : Map Core) (u : State) : (l.foldl (fun s p => s.dropCopy p.1 pa) u).still = u.still :=
    State.still_foldl (fun s p => s.still_dropCopy p.1 pa) l u
  unfold State.reclaim
  dsimp only
  split
  · exact (dropped _ _).trans (s.still_cleanLine pa)
  · exact (dropped _ _).trans (s.still_cleanLine pa)
@[simp] theorem State.still_agentLine (s : State) (ctx pa : Nat) : (s.agentLine ctx pa).2.still = s.still := by
  unfold State.agentLine; split <;> simp
@[simp] theorem State.still_dropWord (s : State) (c w : Nat) : (s.dropWord c w).still = s.still := by
  unfold State.dropWord
  split
  · split
    · exact (State.still_bump ..).trans (s.still_modCore c)
    · rfl
  · rfl
@[simp] theorem State.still_probeScratch (s : State) (pa : Nat) (ws : BitVec 16) (req : Nat) (own : Option (Nat × Nat)) :
    (s.probeScratch pa ws req own).still = s.still :=
  State.still_foldl (fun s w => by
    dsimp only
    split
    · rfl
    · exact s.still_dropWord ..) _ s
@[simp] theorem State.still_evictSlice (s : State) (vict : Nat) : (s.evictSlice vict).still = s.still := by
  unfold State.evictSlice
  split
  · rfl
  split
  · rfl
  · exact s.still_reclaim (vict - 1)
@[simp] theorem State.still_takeSline (s : State) (pa : Nat) (f : SliceLine → SliceLine) : (s.takeSline pa f).still = s.still := by
  show (s.makeRoom (lineAddr pa)).still = _
  unfold State.makeRoom
  dsimp only
  split
  · rfl
  split
  · rfl
  · exact State.still_evictSlice ..
theorem State.still_setMem (s : State) (m : Memory) : { s with mem := m }.still = s.still := rfl
theorem State.still_overtake (s : State) (pa : Nat) : (s.overtake pa).still = s.still := rfl
theorem State.still_patchFills (s : State) (pa : Nat) (d : Line) (m : BitVec 64) (p : BitVec 16) :
    (s.patchFills pa d m p).still = s.still := rfl
@[simp] theorem State.still_homeStore (s : State) (ctx pa cls : Nat) (d : Line) (m : BitVec 64) (p : BitVec 16) (t : Nat) :
    (s.homeStore ctx pa cls d m p t).still = s.still := by
  unfold State.homeStore
  split
  · rfl
  have told : ((((s.reclaim pa).overtake pa).probeScratch pa (wordsTouched m) 0).patchFills pa d m p).still = s.still := by
    rw [State.still_patchFills, State.still_probeScratch, State.still_overtake, State.still_reclaim]
  dsimp only
  split
  · rw [State.still_takeSline, State.still_setMem, told]
  · rw [State.still_setMem, told]

/-! ### Translation -/

@[simp] theorem State.still_entry (s : State) (ctx a : Nat) : (s.entry ctx a).2.still = s.still := s.still_agentLine ctx _
@[simp] theorem State.still_walkLeaf (s : State) (ctx table va : Nat) : (s.walkLeaf ctx table va).2.still = s.still := by
  unfold State.walkLeaf
  dsimp only
  split_ifs <;> simp
@[simp] theorem State.still_walkFrom (s : State) (ctx va n table : Nat) : (s.walkFrom ctx va n table).2.still = s.still := by
  induction n generalizing s table with
  | zero => exact s.still_walkLeaf ctx table va
  | succ n ih =>
    rw [State.walkFrom]
    dsimp only
    generalize table + 8 * (if n = 2 then bits va 43 6 else if n = 1 then bits va 34 9 else bits va 25 9) = at_
    split_ifs <;> simp [ih]
/-- The checks and the stores of a write, where translation and store leave the parts alone. -/
theorem State.still_checkBy {tr : Translator} (htr : ∀ s ctx va a, (tr s ctx va a).2.still = s.still) (s : State) (ctx : Nat)
    (a : Access) (cl : List Nat) (l : List (Nat × Nat × Nat)) : (s.checkBy tr ctx a cl l).2.still = s.still := by
  induction l generalizing s with
  | nil => rfl
  | cons p t ih =>
    obtain ⟨va, o, n⟩ := p
    rw [State.checkBy]
    split
    · rfl
    split
    · next e => exact State.still_of_snd e (htr ..)
    · next e =>
      have here := State.still_of_snd e (htr ..)
      split
      · exact here
      split
      · next e => exact (State.still_of_snd e (ih _)).trans here
      · next e => exact (State.still_of_snd e (ih _)).trans here
theorem State.still_agentPut {st : Storer} (hst : ∀ s ctx pa cls d m p t, (st s ctx pa cls d m p t).still = s.still) (s : State)
    (ctx t : Nat) (l : List (Nat × Nat × Nat × Nat)) (bs : List Byte) : (s.agentPut st ctx t l bs).still = s.still := by
  induction l generalizing s bs with
  | nil => rfl
  | cons p l ih => exact (ih ..).trans (hst ..)
theorem State.still_writeBy {tr : Translator} {st : Storer} (htr : ∀ s ctx va a, (tr s ctx va a).2.still = s.still)
    (hst : ∀ s ctx pa cls d m p t, (st s ctx pa cls d m p t).still = s.still) (s : State) (ctx : Nat) (a : Access) (cl : List Nat)
    (va : Nat) (bs : List Byte) (t : Nat) : (s.writeBy tr st ctx a cl va bs t).2.still = s.still := by
  unfold State.writeBy
  split
  · next e => exact State.still_of_snd e (State.still_checkBy htr ..)
  · next e => exact (State.still_agentPut hst ..).trans (State.still_of_snd e (State.still_checkBy htr ..))

/-! ### Accesses that report -/

@[simp] theorem State.still_postEvent (s : State) (ctx code a b w1 d1 d2 : Nat) :
    (s.postEvent ctx code a b w1 d1 d2).still = s.still := by
  have quiet (u : State) (c va : Nat) (a : Access) : (u.quietTranslate c va a).2.still = u.still := u.still_walkFrom c va _ _
  unfold State.postEvent
  dsimp only
  split
  · rfl
  split
  · next e => exact (State.still_modCtx ..).trans (State.still_of_snd e (State.still_writeBy quiet State.still_homeStore ..))
  · next e => exact (State.still_modCtx ..).trans (State.still_of_snd e (State.still_writeBy quiet State.still_homeStore ..))
@[simp] theorem State.still_agentStore (s : State) (ctx pa cls : Nat) (d : Line) (m : BitVec 64) (p : BitVec 16) (t : Nat) :
    (s.agentStore ctx pa cls d m p t).still = s.still := by
  unfold State.agentStore
  split
  · exact State.still_postEvent ..
  · exact s.still_homeStore ..
@[simp] theorem State.still_agentTranslate (s : State) (ctx va : Nat) (a : Access) :
    (s.agentTranslate ctx va a).2.still = s.still := by
  show (s.walkAndTell ctx va).2.still = _
  unfold State.walkAndTell
  split
  · next e => exact (State.still_postEvent ..).trans (State.still_of_snd e (s.still_walkFrom ..))
  · exact s.still_walkFrom ..
/-- A write by an agent changes no group, no time of a core and no cluster. -/
@[simp] theorem State.still_agentWrite (s : State) (ctx : Nat) (a : Access) (cl : List Nat) (va : Nat) (bs : List Byte) (t : Nat) :
    (s.agentWrite ctx a cl va bs t).2.still = s.still := State.still_writeBy State.still_agentTranslate State.still_agentStore ..

end Sys2Proof.Machine
end

section
/-! What an instruction finds that must wait for nothing: no access of its group is under way, and its release is done (R82, R241,
R243). -/
namespace Sys2Proof.Claims
open Sys2Proof.Machine

/-- No maker of another group issued before the instruction in its own group. -/
theorem before_of_ne {s : State} {x : Ex} {w : Owner} (h : w.uid ≠ x.gr.uid) : s.before x w = false :=
  decide_eq_false fun e => h e.1
theorem earlierIn_of_ne {s : State} {x : Ex} {w : Owner} (scope : Nat) (h : w.uid ≠ x.gr.uid) : s.earlierIn x scope w = false := by
  rw [State.earlierIn, before_of_ne h, Bool.false_and]

namespace Idle
variable {s : State} {x : Ex}

/-- No other split of the group has an instruction that has issued and waits READY. -/
theorem noneEarlier (idle : Idle s x) (f : Instr → Bool) : s.earlier x f = false := by
  refine List.any_eq_false.2 fun e he => ?_
  obtain self | rests := idle.earlier e he
  · have order : ∀ l, e.2.latch = some l → ¬ l.seq < x.seq s.nextId := fun l hl => by simp [Ex.seq, ← self, hl]
    cases latch : e.2.latch with
    | none => simp
    | some l => simp [order l latch]
  · simp [rests]
theorem acqBusy (idle : Idle s x) : s.acqBusy x = false := by
  have reqs : (s.fly.reqs.any fun r => r.2.op.acquires && s.before x r.2.who) = false :=
    List.any_eq_false.2 fun r hr => by simp [before_of_ne (idle.reqs r hr)]
  rw [State.acqBusy, reqs, idle.noneEarlier, Bool.false_or, Bool.or_false]
  exact List.any_eq_false.2 fun t ht => by simp [before_of_ne (idle.touches t ht)]
theorem syncBusy (idle : Idle s x) : s.syncBusy x = false := by
  rw [State.syncBusy, idle.noneEarlier, Bool.or_false, Bool.or_eq_false_iff]
  exact ⟨List.any_eq_false.2 fun r hr => by simp [before_of_ne (idle.reqs r hr)],
    List.any_eq_false.2 fun t ht => by simp [before_of_ne (idle.touches t ht)]⟩
theorem scratchOut (idle : Idle s x) : s.scratchOut x.gr.uid = false :=
  List.any_eq_false.2 fun t ht => by simpa using idle.touches t ht

/-! ### Release -/

/-- Every access of the group is performed, at every scope and of every cover. -/
theorem performed (idle : Idle s x) (scope : Nat) (c : Cover) : s.performed x scope c = true := by
  simp only [State.performed, idle.noneEarlier, Bool.not_false, Bool.or_true, Bool.true_and, Bool.and_eq_true, List.all_eq_true]
  exact ⟨⟨⟨⟨fun r hr => by simp [earlierIn_of_ne scope (idle.reqs r hr)],
    fun t ht => by simp [earlierIn_of_ne scope (idle.touches t ht)]⟩,
    fun t ht => by simp [earlierIn_of_ne scope (idle.tests t ht)]⟩,
    fun t ht => by simp [earlierIn_of_ne scope (idle.rows t ht)]⟩,
    fun e he => by simp [earlierIn_of_ne scope (idle.matrix e he)]⟩
/-- No word of scratch is DIRTY. -/
theorem dirtyLines (idle : Idle s x) (blk : Nat) (f : Nat → Nat → Bool) : s.dirtyLines x.core blk f = [] := by
  unfold State.dirtyLines
  split
  · rfl
  · simp [idle.words]
/-- No owner range is to be pushed. -/
theorem pushHalos (idle : Idle s x) (f : Halo → Bool) : s.pushHalos x f = s := by
  unfold State.pushHalos
  split
  · rfl
  · exact foldl_eq_self fun h hh => by simp [idle.halo h hh]
theorem wbOut (idle : Idle s x) : s.wbOut x = false := List.any_eq_false.2 fun r hr => by simp [idle.reqs r hr]
theorem pushOut (idle : Idle s x) : s.pushOut x = false := List.any_eq_false.2 fun p hp => by simp [idle.pushes p hp]
/-- A release has nothing to wait for. -/
theorem release (idle : Idle s x) (scope : Nat) (c : Cover) : s.release x scope c = .done s := by
  have written (f : Nat → Nat → Bool) : s.writeBackAll x f (fun _ => true) = .done s := by
    simp [State.writeBackAll, idle.half, idle.dirtyLines, State.wbTranslate, idle.pushHalos, idle.wbOut, idle.pushOut]
  simp [State.release, idle.performed, written]
theorem released (idle : Idle s x) {scope : Nat} (narrow : scope < 5) (c : Cover) (k : State → Out) :
    released s x scope c k = k s := by
  simp [Machine.released, idle.release, narrow.not_ge]

end Idle

/-- An acquire finds no mapped word to fetch anew where scratch has none. -/
theorem acquireWords_of_none {s : State} {core : Nat} (none : (s.core core).scratch.words = []) (blk : Nat) (c : Cover) :
    s.acquireWords core blk c = s := by
  unfold State.acquireWords State.acquireWhere
  split
  · rfl
  · simp [none]

end Sys2Proof.Claims
end

section
/-! QPUSH and QPOP of mailboxes, cards and completion records (R64, R396, R397, R407, R409). -/
namespace Sys2Proof.Machine

/-! ### Times of a core, and the queues of a cluster -/

@[simp] theorem State.mem_raisePts (s : State) (core ctx p : Nat) : (s.raisePts core ctx p).mem = s.mem := by
  unfold State.raisePts; split <;> rfl
@[simp] theorem State.clusters_raisePts (s : State) (core ctx p : Nat) : (s.raisePts core ctx p).clusters = s.clusters := by
  unfold State.raisePts; split <;> rfl
/-- A time that is raised changes nothing else of a core. -/
theorem State.core_raisePts (s : State) (core ctx p c : Nat) :
    { (s.raisePts core ctx p).core c with pts := [] } = { s.core c with pts := [] } := by
  unfold State.raisePts
  split
  · obtain rfl | hc := eq_or_ne c core
    · rw [State.core_modCore_same]
    · rw [State.core_modCore_ne _ _ hc]
  · rfl
theorem State.group_raisePts (s : State) (core ctx p c k : Nat) : (s.raisePts core ctx p).group c k = s.group c k := by
  have same := congrArg Core.groups (s.core_raisePts core ctx p c)
  exact congrArg (mget · k) same
theorem State.scratch_raisePts (s : State) (core ctx p c : Nat) :
    ((s.raisePts core ctx p).core c).scratch = (s.core c).scratch := by
  have same := congrArg Core.scratch (s.core_raisePts core ctx p c)
  exact same
/-- A time that is raised is at least what it is raised to. -/
theorem State.le_pts_raisePts (s : State) (core ctx p : Nat) : p ≤ (s.raisePts core ctx p).pts core ctx := by
  unfold State.raisePts
  split
  · simp [State.pts]
  · next reached => exact Nat.le_of_not_lt reached
/-- The times of a core after an instruction that completes. -/
theorem State.pts_done (s : State) (x : Ex) (n : Nat) (f : Group → Group) (core ctx : Nat) :
    (s.done x n f).pts core ctx = s.pts core ctx := by
  have same := congrArg Core.pts (s.core_done x n f core)
  exact congrArg (mgetD · ctx 0) same

/-- A count of an event leaves the queues of every cluster. -/
theorem State.cluster_bumpK (s : State) (k : Nat) (c : Ctr) (n j : Nat) :
    { (s.bumpK k c n).cluster j with ctr := [] } = { s.cluster j with ctr := [] } := by
  unfold State.bumpK
  split
  · rfl
  · obtain rfl | hj := eq_or_ne j k
    · rw [State.cluster_modCluster_same]
    · rw [State.cluster_modCluster_ne _ _ hj]
/-- A mailbox holds what was put into it, and the counts of the pushes stay. -/
theorem State.mail_setMail (s : State) (x : Ex) (m : Nat) (l : List Mail) : (s.setMail x m l).mail x m = l := by
  simp [State.mail, State.setMail]
theorem State.mailed_setMail (s : State) (x : Ex) (m : Nat) (l : List Mail) :
    ((s.setMail x m l).cluster (clusterOf x.core)).mailed = (s.cluster (clusterOf x.core)).mailed := by
  rw [State.setMail, State.cluster_modCluster_same]
  have same := congrArg Cluster.mailed (s.cluster_bumpK (clusterOf x.core) .mbxop 1 (clusterOf x.core))
  exact same
theorem State.cores_setMail (s : State) (x : Ex) (m : Nat) (l : List Mail) : (s.setMail x m l).cores = s.cores := by
  simp [State.setMail]
theorem State.mem_setMail (s : State) (x : Ex) (m : Nat) (l : List Mail) : (s.setMail x m l).mem = s.mem := by
  simp [State.setMail]

/-! ### What QPUSH and QPOP run -/

theorem exec_qpush_mail {s : State} {x : Ex} {m : Nat} {o : QpuO} (running : s.running = some x) (queue : o.q.toNat = 12 + m) :
    exec (.qpush o) s = pushMail s x m o := by
  have cge : o.q ≠ 8 := fun e => by rw [e] at queue; simp at queue; omega
  have caraway : o.q ≠ 10 := fun e => by rw [e] at queue; simp at queue; omega
  show execQpush o s = _
  rw [execQpush, onSplit_running _ running, if_neg cge, if_neg caraway, queue, Nat.add_sub_cancel_left]
theorem exec_qpop_mail {s : State} {x : Ex} {m : Nat} {o : QpoO} (running : s.running = some x) (queue : o.q.toNat = 12 + m) :
    exec (.qpop o) s = popMail s x m o := by
  have cge : o.q ≠ 9 := fun e => by rw [e] at queue; simp at queue; omega
  have caraway : o.q ≠ 11 := fun e => by rw [e] at queue; simp at queue; omega
  show execQpop o s = _
  rw [execQpop, onSplit_running _ running, if_neg cge, if_neg caraway, queue, Nat.add_sub_cancel_left]
theorem exec_qpush_card {s : State} {x : Ex} {o : QpuO} (caraway : Bool) (running : s.running = some x)
    (queue : o.q.toNat = if caraway then 10 else 8) : exec (.qpush o) s = pushCard s x caraway o.nb o.cd o.a.toNat := by
  show execQpush o s = _
  rw [execQpush, onSplit_running _ running]
  cases caraway
  · exact if_pos (BitVec.eq_of_toNat_eq queue)
  · have engine : o.q = 10 := BitVec.eq_of_toNat_eq queue
    simp [engine]
theorem exec_qpop_record {s : State} {x : Ex} {o : QpoO} (caraway : Bool) (running : s.running = some x)
    (queue : o.q.toNat = if caraway then 11 else 9) : exec (.qpop o) s = popRecord s x caraway o := by
  show execQpop o s = _
  rw [execQpop, onSplit_running _ running]
  cases caraway
  · exact if_pos (BitVec.eq_of_toNat_eq queue)
  · have engine : o.q = 11 := BitVec.eq_of_toNat_eq queue
    simp [engine]

end Sys2Proof.Machine

namespace Sys2Proof.Claims
open Sys2Proof.Machine

/-! ### The two ways a queue instruction ends (R64) -/

/-- A change of the executing group alone. -/
theorem OnlyGroup.of_modGroup {s : State} {x : Ex} (f : Group → Group) (running : s.running = some x) :
    OnlyGroup s (s.modGroup x.core x.slot f) x (f x.gr) where
  group := by rw [State.group_modGroup, if_pos ⟨rfl, rfl⟩, ((s.running_iff x).1 running).2.1]; rfl
  others c k other := by rw [State.group_modGroup, if_neg other]
  cores := s.core_modGroup x.core x.slot f
  memory _ := rfl
  rest := rfl

/-- A queue instruction that cannot proceed. -/
theorem Stuck.of_queueStuck {s : State} {x : Ex} {i : Instr} {nb : Bool} {cd : BitVec 3} {w : Wait} (running : s.running = some x)
    (stuck : exec i s = queueStuck s x nb cd w) : Stuck s x i nb cd w := by
  cases nb
  · exact ⟨_, _, stuck, OnlyGroup.of_modGroup _ running, rfl⟩
  · exact ⟨_, _, stuck, OnlyGroup.of_done 4 _ running, rfl⟩

/-- The executing group behind a queue instruction that proceeds, from a state that has the groups as they were; no other group
changes. -/
theorem queued_of_done {s u : State} {x : Ex} (running : s.running = some x) (same : ∀ c k, u.group c k = s.group c k) (nb : Bool)
    (cd : BitVec 3) (f : Uniform → Uniform) :
    let t := u.done x 4 fun g => g.modUni fun u => if nb then (f u).setC cd true else f u
    t.group x.core x.slot = some (queued x nb cd true (f x.gr.uni)) ∧ OtherGroups s t x := by
  constructor
  · rw [State.done, State.group_modGroup, if_pos ⟨rfl, rfl⟩, same, ((s.running_iff x).1 running).2.1]
    cases nb <;> rfl
  · exact fun c k other => (u.group_done_ne x 4 _ other).trans (same c k)

/-! ### Mailboxes -/

theorem mailbox_of_none {s : State} {x : Ex} {m : Nat} (none : s.mailLog x m = 0) (k : Out) :
    mailbox s x m k = trapAt s x 0x0F x.sp.mask 0 4 := if_pos none
theorem Idle.mailbox {s : State} {x : Ex} {m : Nat} (idle : Idle s x) (size : s.mailLog x m ≠ 0) (k : Out) :
    mailbox s x m k = k := by
  simp [Machine.mailbox, size, idle.acqBusy, idle.syncBusy]

/-- A value that is pushed: the mailbox, the count of pushes, the entry of the ring, and the groups. -/
structure Posted (s t : State) (x : Ex) (m : Nat) (v : DWord) : Prop where
  mail : t.mail x m = s.mail x m ++ [⟨v, s.pts x.core x.gr.ctx⟩]
  mailed : mgetD (t.cluster (clusterOf x.core)).mailed (4 * x.gr.ctx + m) 0 =
    mgetD (s.cluster (clusterOf x.core)).mailed (4 * x.gr.ctx + m) 0 + 1
  mem : t.mem = (s.agentWrite x.gr.ctx { priv := true } [0] (s.mailBase x m + 8 * (mgetD (s.cluster (clusterOf x.core)).mailed
    (4 * x.gr.ctx + m) 0 % 2 ^ s.mailLog x m)) (leBytes 8 v.toNat)).2.mem
  groups : ∀ c k, t.group c k = s.group c k

theorem Posted.of_postMail (s : State) (x : Ex) (m : Nat) (v : DWord) : Posted s (s.postMail x m v) x m v := by
  have still := s.still_agentWrite x.gr.ctx { priv := true } [0] (s.mailBase x m + 8 *
    (mgetD (s.cluster (clusterOf x.core)).mailed (4 * x.gr.ctx + m) 0 % 2 ^ s.mailLog x m)) (leBytes 8 v.toNat) 0
  constructor
  · have pts := State.pts_of_still still x.core x.gr.ctx
    have mail := congrArg Cluster.mail (State.cluster_of_still still (clusterOf x.core))
    rw [State.postMail, State.mail_setMail, State.mail, State.cluster_modCluster_same, State.mail, ← mail, ← pts]
    rfl
  · rw [State.postMail, State.mailed_setMail, State.cluster_modCluster_same, mgetD_mset_same]
  · rw [State.postMail, State.mem_setMail, State.modCluster_mem]
  · intro c k
    rw [← State.group_of_still still c k, State.postMail]
    simp only [State.group, State.core, State.cores_setMail, State.modCluster_cores]

/-- What a state takes up in memory order where scratch holds no mapped word: the time. -/
theorem acquired_of_none {s : State} {x : Ex} (none : (s.core x.core).scratch.words = []) (p : Nat) :
    s.acquired x p = s.raisePts x.core x.gr.ctx p :=
  acquireWords_of_none (by rw [State.scratch_raisePts, none]) ..

/-- The machine after a value has been taken from a state that has the cores and the memory as they were. -/
theorem queueDone_acquired {s u : State} {x : Ex} (running : s.running = some x) (idle : Idle s x) (cores : u.cores = s.cores)
    (mem : u.mem = s.mem) (p : Nat) (nb : Bool) (cd : BitVec 3) (f : Uniform → Uniform) :
    ∃ t, queueDone (u.acquired x p) x nb cd f = .next t ∧ t.clusters = u.clusters ∧ OtherGroups s t x ∧ t.mem = s.mem ∧
      p ≤ t.pts x.core x.gr.ctx ∧ t.group x.core x.slot = some (queued x nb cd true (f x.gr.uni)) := by
  have words : (u.core x.core).scratch.words = [] := by rw [State.core, cores]; exact idle.words
  have groups (c k : Nat) : (u.acquired x p).group c k = s.group c k := by
    rw [acquired_of_none words, State.group_raisePts, State.group, State.core, cores]; rfl
  obtain ⟨own, others⟩ := queued_of_done running groups nb cd f
  refine ⟨_, rfl, ?_, others, ?_, ?_, own⟩
  · rw [State.done_clusters, acquired_of_none words, State.clusters_raisePts]
  · rw [State.done_mem, acquired_of_none words, State.mem_raisePts, mem]
  · rw [State.pts_done, acquired_of_none words]
    exact u.le_pts_raisePts ..

/-- A mailbox is the same where the clusters are. -/
theorem mail_of_clusters {s t : State} (h : t.clusters = s.clusters) (x : Ex) (m : Nat) : t.mail x m = s.mail x m := by
  rw [State.mail, State.cluster, h]; rfl

theorem qpush_of_room {s : State} {x : Ex} {m : Nat} {o : QpuO} (running : s.running = some x) (idle : Idle s x)
    (queue : o.q.toNat = 12 + m) (size : s.mailLog x m ≠ 0) (room : (s.mail x m).length < 2 ^ s.mailLog x m) :
    exec (.qpush o) s = queueDone (s.postMail x m (x.uni.pair o.a.toNat)) x o.nb o.cd fun u => u := by
  rw [exec_qpush_mail running queue, pushMail, idle.mailbox size, if_neg room.not_ge, idle.released (by decide)]
theorem qpush_of_full {s : State} {x : Ex} {m : Nat} {o : QpuO} (running : s.running = some x) (idle : Idle s x)
    (queue : o.q.toNat = 12 + m) (size : s.mailLog x m ≠ 0) (full : 2 ^ s.mailLog x m ≤ (s.mail x m).length) :
    exec (.qpush o) s = queueStuck s x o.nb o.cd .poll := by
  rw [exec_qpush_mail running queue, pushMail, idle.mailbox size, if_pos full]
theorem qpop_of_cons {s : State} {x : Ex} {m : Nat} {o : QpoO} {v : Mail} {l : List Mail} (running : s.running = some x)
    (idle : Idle s x) (queue : o.q.toNat = 12 + m) (size : s.mailLog x m ≠ 0) (holds : s.mail x m = v :: l) :
    exec (.qpop o) s = queueDone ((s.setMail x m l).acquired x v.pts) x o.nb o.cd fun u => u.setPair o.a.toNat v.val := by
  rw [exec_qpop_mail running queue, popMail, idle.mailbox size, holds]
theorem qpop_of_nil {s : State} {x : Ex} {m : Nat} {o : QpoO} (running : s.running = some x)
    (idle : Idle s x) (queue : o.q.toNat = 12 + m) (size : s.mailLog x m ≠ 0) (empty : s.mail x m = []) :
    exec (.qpop o) s = queueStuck s x o.nb o.cd .poll := by
  rw [exec_qpop_mail running queue, popMail, idle.mailbox size, empty]

/-- The first half of O43: mailboxes (R64, R396, R409). -/
theorem mailboxesPassValues : MailboxesPassValues := by
  intro s x m running idle _
  refine ⟨fun o queue => ⟨fun none => ?_, fun size room => ?_, fun size full => ?_⟩,
    fun o queue => ⟨fun none => ?_, fun v l size holds => ?_, fun size empty => ?_⟩⟩
  · rw [exec_qpush_mail running queue, pushMail, mailbox_of_none none]
  · have posted := Posted.of_postMail s x m (x.uni.pair o.a.toNat)
    obtain ⟨own, others⟩ := queued_of_done running posted.groups o.nb o.cd fun u => u
    exact ⟨_, qpush_of_room running idle queue size room, posted.mail, others, posted.mem, posted.mailed, own⟩
  · exact .of_queueStuck running (qpush_of_full running idle queue size full)
  · rw [exec_qpop_mail running queue, popMail, mailbox_of_none none]
  · obtain ⟨t, next, clusters, rest⟩ := queueDone_acquired running idle (s.cores_setMail x m l) (s.mem_setMail x m l) v.pts o.nb o.cd
      fun u => u.setPair o.a.toNat v.val
    exact ⟨t, (qpop_of_cons running idle queue size holds).trans next,
      (mail_of_clusters clusters x m).trans (s.mail_setMail x m l), rest⟩
  · exact .of_queueStuck running (qpop_of_nil running idle queue size empty)

/-! ### Cards and completion records -/

theorem pushesCard_iff (i : Instr) : pushesCard i = true ↔ ∃ p, i = .qpush p ∧ p.q.toNat < 12 := by
  unfold pushesCard
  split
  · simp
  · next other => simpa using fun p e => (other p e).elim
/-- A QPUSH of a card that the group issued earlier has still to give its card (log entry 45). -/
theorem cardBefore_iff (s : State) (x : Ex) : s.cardBefore x = true ↔ ∃ e ∈ x.gr.splits, ∃ l p, e.2.latch = some l ∧
    l.instr = .qpush p ∧ p.q.toNat < 12 ∧ (e.2.going = true ∨ e.2.st.waits = true) ∧ l.seq < x.seq s.nextId := by
  rw [State.cardBefore, List.any_eq_true]
  refine exists_congr fun e => and_congr_right fun _ => ?_
  cases e.2.latch with
  | none => simp
  | some l =>
    simp only [Bool.and_eq_true, Bool.or_eq_true, decide_eq_true_eq, pushesCard_iff, Option.some.injEq]
    exact ⟨fun ⟨goes, older, p, card⟩ => ⟨l, p, rfl, card.1, card.2, goes, older⟩,
      fun ⟨_, p, same, card, low, goes, older⟩ => same ▸ ⟨goes, same ▸ older, p, same ▸ card, low⟩⟩

/-- The job that QPUSH makes of the 16 words from the uniform register a. -/
def cardJob (s : State) (x : Ex) (caraway : Bool) (a : Nat) : Job :=
  { cluster := clusterOf x.core, caraway := caraway, card := (List.range 16).map fun i => x.uni.sr (a + i),
    who := x.owner s.nextId, st := .entering, pts := s.pts x.core x.gr.ctx }

section pushCard
variable {s : State} {x : Ex} {caraway nb : Bool} {cd : BitVec 3} {a : Nat}

theorem pushCard_of_before (earlier : s.cardBefore x = true) : pushCard s x caraway nb cd a = queueStuck s x nb cd .poll :=
  if_pos earlier
theorem pushCard_of_noEntry (first : ¬ s.cardBefore x = true) (taken : s.engineFree (clusterOf x.core) = false) :
    pushCard s x caraway nb cd a = queueStuck s x nb cd .pollEng := by
  simp [pushCard, first, taken]
theorem pushCard_of_unpopped (first : ¬ s.cardBefore x = true) (free : s.engineFree (clusterOf x.core) = true)
    (cq : (x.uni.sr a).getLsbD 8 = true) (many : 16 ≤ s.unpopped x caraway) :
    pushCard s x caraway nb cd a = queueStuck s x nb cd .poll := by
  rw [pushCard]
  dsimp only
  rw [if_neg first, if_neg (by simp [free]), if_pos ⟨cq, many⟩]
theorem pushCard_of_room (idle : Idle s x) (first : ¬ s.cardBefore x = true) (free : s.engineFree (clusterOf x.core) = true)
    (few : (x.uni.sr a).getLsbD 8 = true → s.unpopped x caraway < 16) :
    pushCard s x caraway nb cd a = queueDone (s.fresh.setJob s.nextId (cardJob s x caraway a)) x nb cd fun u => u := by
  rw [pushCard]
  dsimp only
  rw [if_neg first, if_neg (by simp [free]), if_neg fun full => (few full.1).not_ge full.2, if_neg (by simp [idle.scratchOut]),
    idle.released (by decide)]
  rfl
end pushCard

/-- The oldest record leaves the completion register. -/
theorem recordsOf_erase {s t : State} {x : Ex} {caraway : Bool} {r : CompRec} {l : List CompRec}
    (comps : (t.cluster (clusterOf x.core)).comps = (s.cluster (clusterOf x.core)).comps.erase r)
    (oldest : s.recordsOf x caraway = r :: l) : t.recordsOf x caraway = l := by
  rw [State.recordsOf, comps, ← List.erase_filter]
  rw [State.recordsOf] at oldest
  rw [oldest, List.erase_cons_head]

/-- The second half of O43: cards and completion records (R396, R397, R407). -/
theorem cardsAndCompletionRecords : CardsAndCompletionRecords := by
  intro s x caraway running idle
  refine ⟨fun o queue => ?_, fun o queue => ⟨fun r l oldest => ?_, fun empty => ?_⟩⟩
  · intro cq entries before
    have pushed := exec_qpush_card caraway running queue
    have earlier : s.cardBefore x = true ↔ before := cardBefore_iff s x
    refine ⟨fun h => ?_, fun first free few => ?_, fun first full => ?_, fun first free hcq many => ?_⟩
    · exact .of_queueStuck running (pushed.trans (pushCard_of_before (earlier.2 h)))
    · obtain ⟨own, others⟩ := queued_of_done (u := s.fresh.setJob s.nextId (cardJob s x caraway o.a.toNat)) running
        (fun _ _ => rfl) o.nb o.cd fun u => u
      exact ⟨_, cardJob s x caraway o.a.toNat,
        pushed.trans (pushCard_of_room idle (mt earlier.1 first) (decide_eq_true free) few),
        ⟨rfl, rfl, rfl, ⟨rfl, rfl⟩, rfl, rfl, rfl⟩, rfl, others, rfl, own⟩
    · exact .of_queueStuck running (pushed.trans (pushCard_of_noEntry (mt earlier.1 first) (decide_eq_false full.not_gt)))
    · exact .of_queueStuck running (pushed.trans (pushCard_of_unpopped (mt earlier.1 first) (decide_eq_true free) hcq many))
  · have popped := exec_qpop_record caraway running queue
    rw [popRecord, oldest] at popped
    obtain ⟨t, next, clusters, rest⟩ := queueDone_acquired running idle (u := s.modCluster (clusterOf x.core) fun k =>
      { k with comps := k.comps.erase r }) rfl rfl r.pts o.nb o.cd fun u => u.setPair o.a.toNat r.val
    refine ⟨t, popped.trans next, recordsOf_erase ?_ oldest, rest⟩
    rw [State.cluster, clusters]
    exact congrArg Cluster.comps (s.cluster_modCluster_same ..)
  · have popped := exec_qpop_record caraway running queue
    rw [popRecord, empty] at popped
    exact .of_queueStuck running popped

end Sys2Proof.Claims

namespace Sys2Proof.Proofs

/-- Settles O43: a queue instruction of an idle group answers at once, with its effect on the queue or without proceeding. -/
theorem queueInstructions : Obligations.QueueInstructions :=
  ⟨Claims.mailboxesPassValues, Claims.cardsAndCompletionRecords⟩

end Sys2Proof.Proofs
end

section
/-! The split tables and an event turn that names an instruction (R81, R83): the statement leaves the field `run` open. -/
namespace Sys2Proof.Proofs
open Sys2Proof Sys2Proof.Machine Sys2Proof.Claims

/-- Two splits that wait at join 0, whose lanes have all arrived: its completion is yet to come. -/
def arrivedGroup : Group :=
  { uid := 1, ctx := 0, blk := 0, idx := 0, live := 3, joins := [(0, ⟨3, 3, 0⟩)],
    splits := [(0, { mask := 1, st := .join 0, pc := 0 }), (1, { mask := 2, st := .join 0, pc := 0 })] }
/-- A BRK of join 0, with no active lane. -/
def idleBrk : Instr := .brk ⟨⟨0, false⟩, 1, 0⟩
/-- The state names the second of them as the executing split, and the next turn names the BRK as an event. -/
def arrivedState : State :=
  { cores := [(0, { groups := [(0, arrivedGroup)] })], run := some ⟨0, 0, 1⟩, turns := [.event idleBrk] }
/-- The splits after it: the completed join has put both lanes into entry 0, and the division puts lane 1 into entry 1 again. -/
def overlappingSplits : Map Split :=
  [(0, { mask := 3, st := .ready, pc := 0, jumped := true, settle := true }), (1, { mask := 2, st := .ready, pc := 1 })]

theorem arrivedState_inOrder : SplitsInOrder arrivedState := by
  unfold SplitsInOrder GroupInOrder TablesInOrder
  decide

/-- The event runs on the split that the state names, and leaves lane 1 in two entries. -/
theorem arrivedState_steps : ∃ t c, step arrivedState = .next t ∧ c ∈ t.cores ∧
    ∃ g ∈ c.2.groups, g.2.splits = overlappingSplits :=
  ⟨_, _, rfl, List.mem_singleton.2 rfl, _, List.mem_singleton.2 rfl, by decide⟩

theorem overlappingSplits_not_inOrder : ¬ TablesInOrder overlappingSplits := by
  unfold TablesInOrder
  decide

/-- Refutes O59: an event turn that names BRK runs on the split of the field `run`, which the statement does not ask to be `none`
or READY. That split waits at the join that the BRK leaves; the join completes, so its lane stands in the merged entry, and the
division then writes it into its old entry too. -/
theorem not_stepsKeepSplitsApart : ¬ Obligations.StepsKeepSplitsApart := by
  intro keeps
  obtain ⟨t, c, next, core, g, group, splits⟩ := arrivedState_steps
  have kept := ((keeps _ t arrivedState_inOrder next c core).1 g group).1
  exact overlappingSplits_not_inOrder (splits ▸ kept)

end Sys2Proof.Proofs
end

section
/-! The lanes of a mask, and what instructions that only go on or only change the uniform state do (R5, R54, R79, R92). -/
namespace Sys2Proof.Machine

/-- The list of a mask's lanes. -/
theorem mem_lanesOf (m : Mask) (l : Nat) : l ∈ lanesOf m ↔ Mask.has m l = true := by
  have below : Mask.has m l = true → l < 8 := BitVec.lt_of_getLsbD
  simpa [lanesOf] using below

/-- A fold over the lanes of a mask, as one over all eight. -/
theorem foldl_lanesOf {α : Type} (m : Mask) (f : α → Nat → α) (a : α) :
    (lanesOf m).foldl f a = (List.range 8).foldl (fun a l => if Mask.has m l = true then f a l else a) a :=
  List.foldl_filter

/-- The lane flags of a mask that a further mask lets through: none where no lane has one. -/
theorem filter_flags_eq_nil {g : Group} {m : Mask} {e : BitVec 6} (h : ∀ l, Mask.has m l = true → (g.lane l).flags &&& e = 0) :
    (lanesOf m).filter (fun l => (g.lane l).flags &&& e != 0) = [] :=
  List.filter_eq_nil_iff.2 fun l hl => by simp [h l ((mem_lanesOf m l).1 hl)]

end Sys2Proof.Machine

namespace Sys2Proof.Claims
open Sys2Proof.Machine

/-- An instruction that completes and does nothing else. -/
theorem goesOn_of_done {i : Instr} {s : State} {x : Ex} {n : Nat} (running : s.running = some x)
    (run : exec i s = .next (s.done x n id)) :
    ∃ t g, exec i s = .next t ∧ OnlyGroup s t x g ∧ Advances x.gr g x.entry n ∧ SameButSplits x g :=
  ⟨_, _, run, OnlyGroup.of_done n _ running, Advances.of_advance x.entry n rfl, rfl⟩

/-- An instruction that changes the uniform state and completes. -/
theorem UniDoes.of_done {i : Instr} {n : Nat} {f : Ex → Uniform → Uniform} {r : Ex → Uniform → Uniform → Prop}
    (run : ∀ s x, s.running = some x → exec i s = .next (s.done x n fun g => g.modUni (f x)))
    (h : ∀ x, r x x.gr.uni (f x x.gr.uni)) : UniDoes i n r := fun s x hx =>
  ⟨_, _, run s x hx, OnlyGroup.of_done n _ hx, ⟨h x, Advances.of_advance x.entry n rfl, rfl⟩⟩

/-- A uniform register written is the only change. -/
theorem SetsS.of_setS (u : Uniform) (r : Nat) (w : Word) : SetsS u (u.setS r w) r w where
  value := (u.sr_setS r r w).trans (if_pos rfl)
  others k hk := (u.sr_setS r k w).trans (if_neg hk)
  rest := rfl

/-- Two adjacent uniform registers written are the only change. -/
theorem SetsSPair.of_setS (u : Uniform) (r : Nat) (lo hi : Word) :
    SetsSPair u ((u.setS r lo).setS (r + 1) hi) r (pairOf lo hi) where
  low := by simp [Uniform.sr_setS]
  high := by simp [Uniform.sr_setS]
  others k hk hk' := by simp [Uniform.sr_setS, hk, hk']
  rest := rfl

/-- Under a new mode the split goes on, and every other split issues in a later clk (R140). -/
theorem NewMode.of_setMode {s : State} {x : Ex} {g : Group} (n : Nat) (h : g.splits = mall x.gr.splits fun k sp =>
    if k = x.entry then sp else { sp with notBefore := max sp.notBefore (s.now + 1) }) : NewMode s x (g.advance x.entry n) n := by
  unfold NewMode
  show mget (mmod g.splits x.entry (moved n)) x.entry = _ ∧ ∀ k, k ≠ x.entry → mget (mmod g.splits x.entry (moved n)) k = _
  rw [h]
  refine ⟨by simp, fun k hk => ?_⟩
  rw [mget_mmod, if_neg hk, mget_mall]
  simp [hk]

end Sys2Proof.Claims

/-! NOP, TFENCE, FLGR, FLGC, MODE and MODER (R36, R109, R140, R422, R432). -/
namespace Sys2Proof.Proofs
open Sys2Proof Sys2Proof.Machine Sys2Proof.Claims

theorem exec_tfence_of_clear {s : State} {x : Ex} (running : s.running = some x)
    (lanes : ∀ l, Mask.has x.gr.live l = true → (x.gr.lane l).flags &&& x.gr.uni.mode.extractLsb' 8 6 = 0)
    (group : x.gr.uni.flags &&& x.gr.uni.mode.extractLsb' 8 6 = 0) : exec .tfence s = .next (s.done x 4 id) := by
  have none := filter_flags_eq_nil lanes
  show execTfence s = _
  rw [execTfence, onSplit_running _ running]
  simp only [Uniform.ten, none, group, List.foldl_nil]
  rfl

theorem flgr_does (o : Ud) : UniDoes (.flgr o) 4 fun y a b =>
    SetsSPair a b o.d.toNat (pairOf (a.flags.zeroExtend 32)
      ((List.range 8).foldl (fun f l => if Mask.has y.sp.mask l then f ||| (y.gr.lane l).flags else f) (0 : BitVec 6)
        |>.zeroExtend 32)) :=
  UniDoes.of_done (fun _ _ hx => onSplit_running _ hx) fun x => by
    rw [← foldl_lanesOf x.sp.mask fun f l => f ||| (x.gr.lane l).flags]
    exact SetsSPair.of_setS ..

/-- Settles O12: each of them completes, and changes the flags, the mode or the registers that it names. -/
theorem flagAndModeInstructions : Obligations.FlagAndModeInstructions := by
  intro s x running
  refine ⟨fun o => ?nop, fun lanes group => ?tfence, flgr_does, fun o => ?flgc, fun o => ?mode, fun o => ?moder⟩
  case nop => exact goesOn_of_done running (onSplit_running _ running)
  case tfence => exact goesOn_of_done running (exec_tfence_of_clear running lanes group)
  case flgc =>
    refine ⟨_, _, onSplit_running _ running, OnlyGroup.of_done _ _ running, ⟨?_, fun l hl => ?_, fun l hl => ?_⟩,
      Advances.of_advance _ _ (Group.splits_modLanes ..), ?_⟩
    · exact congrArg (fun u : Uniform => { u with flags := u.flags &&& ~~~ (SSrc.val o.b x.uni).extractLsb' 8 6 })
        (Group.uni_modLanes ..)
    · exact (Group.lane_modLanes ..).trans (if_pos hl)
    · exact (Group.lane_modLanes ..).trans (if_neg (by simp [hl]))
    · exact congrArg (fun g : Group => { g with splits := [], uni := {} }) (Group.rest_modLanes ..)
  case mode =>
    exact ⟨_, _, onSplit_running _ running, OnlyGroup.of_done _ _ running, rfl, rfl, NewMode.of_setMode _ rfl⟩
  case moder =>
    exact ⟨_, _, onSplit_running _ running, OnlyGroup.of_done _ _ running, SetsS.of_setS .., rfl, NewMode.of_setMode _ rfl⟩

end Sys2Proof.Proofs
end

section
/-! The lowest lane of a mask, and folds over the values of its lanes (R79, R107). -/
namespace Sys2Proof.Machine

/-! ### Masks -/

theorem Mask.lt_of_has {m : Mask} {l : Nat} (h : Mask.has m l = true) : l < 8 := BitVec.lt_of_getLsbD h

/-- The lowest lane of a mask is the one below which it has none. -/
theorem lowest_eq {m : Mask} {l : Nat} (h : Mask.has m l = true) (below : ∀ k, k < l → Mask.has m k = false) : lowest m = l := by
  have found : (List.range 8).find? (Mask.has m) = some l :=
    List.find?_range_eq_some.2 ⟨h, List.mem_range.2 (Mask.lt_of_has h), fun k hk => by simp [below k hk]⟩
  rw [lowest, List.headD_eq_head?_getD, lanesOf, List.head?_filter, found, Option.getD_some]

/-- The lowest lane of a mask that has a lane: one of its lanes, with none below. -/
theorem has_lowest {m : Mask} {l : Nat} (h : Mask.has m l = true) :
    Mask.has m (lowest m) = true ∧ ∀ k, k < lowest m → Mask.has m k = false := by
  have ex : ∃ k, Mask.has m k = true := ⟨l, h⟩
  have below : ∀ k, k < Nat.find ex → Mask.has m k = false := fun k hk => by simpa using Nat.find_min ex hk
  rw [lowest_eq (Nat.find_spec ex) below]
  exact ⟨Nat.find_spec ex, below⟩

/-- A lane of a mask is the lowest one where none is below it. -/
theorem eq_lowest_iff {m : Mask} {l : Nat} (h : Mask.has m l = true) : l = lowest m ↔ ∀ k, k < l → Mask.has m k = false :=
  ⟨fun e => e ▸ (has_lowest h).2, fun below => (lowest_eq h below).symm⟩

/-- The lanes of a mask that pass a test, as a word. -/
theorem getLsbD_maskOf_filter (m : Mask) (f : Nat → Bool) {i : Nat} (hi : i < 32) :
    ((maskOf ((lanesOf m).filter f)).zeroExtend 32).getLsbD i = (Mask.has m i && f i) := by
  have bit : Mask.has (maskOf ((lanesOf m).filter f)) i = (Mask.has m i && f i) := by
    rw [Bool.eq_iff_iff, Mask.has_maskOf, List.mem_filter, mem_lanesOf, Bool.and_eq_true]
    exact and_iff_right_of_imp fun h => Mask.lt_of_has h.1
  rw [← bit]
  exact (BitVec.getLsbD_setWidth ..).trans (by rw [decide_eq_true hi, Bool.true_and]; rfl)

/-! ### Folds -/

/-- The sum of a list of words, in whole numbers. -/
theorem foldVals_add (l : List Word) : foldVals (fun a b => a + b) l = BitVec.ofNat 32 (l.map BitVec.toNat).sum := by
  have from_ : ∀ (l : List Word) (x : Word), l.foldl (fun a b => a + b) x = x + BitVec.ofNat 32 (l.map BitVec.toNat).sum := by
    intro l
    induction l with
    | nil => simp
    | cons y t ih => intro x; simp [ih, BitVec.ofNat_add, BitVec.add_assoc]
  cases l with
  | nil => rfl
  | cons x t => simp [foldVals, from_, BitVec.ofNat_add]

/-- An operation that picks one of its operands, the one that comes first in an order. -/
structure Picks (f : Word → Word → Word) (le : Word → Word → Prop) : Prop where
  one : ∀ a b, f a b = a ∨ f a b = b
  left : ∀ a b, le (f a b) a
  right : ∀ a b, le (f a b) b
  refl : ∀ a, le a a
  trans : ∀ {a b c}, le a b → le b c → le a c

/-- Its fold is the value of the list that comes first. -/
theorem Picks.foldVals {f : Word → Word → Word} {le : Word → Word → Prop} (p : Picks f le) {l : List Word} (h : l ≠ []) :
    foldVals f l ∈ l ∧ ∀ y ∈ l, le (Machine.foldVals f l) y := by
  have from_ : ∀ (t : List Word) (x : Word), t.foldl f x ∈ x :: t ∧ ∀ y ∈ x :: t, le (t.foldl f x) y := by
    intro t
    induction t with
    | nil => exact fun x => ⟨List.mem_singleton.2 rfl, fun y hy => List.mem_singleton.1 hy ▸ p.refl x⟩
    | cons z t ih =>
      intro x
      obtain ⟨mem, first⟩ := ih (f x z)
      have lower := first (f x z) (List.mem_cons_self ..)
      refine ⟨?_, fun y hy => ?_⟩
      · rcases List.mem_cons.1 mem with e | mem
        · rw [List.foldl_cons, e]; rcases p.one x z with o | o <;> simp [o]
        · exact List.mem_cons_of_mem _ (List.mem_cons_of_mem _ mem)
      · rcases List.mem_cons.1 hy with rfl | hy
        · exact p.trans lower (p.left ..)
        rcases List.mem_cons.1 hy with rfl | hy
        · exact p.trans lower (p.right ..)
        · exact first y (List.mem_cons_of_mem _ hy)
  cases l with
  | nil => exact absurd rfl h
  | cons x t => exact from_ t x

theorem minI_picks : Picks minI fun a b => a.toInt ≤ b.toInt where
  one a b := by unfold minI; split <;> simp
  left a b := by
    unfold minI; split
    · exact le_rfl
    · next h => exact (not_le.1 (mt BitVec.sle_iff_toInt_le.2 h)).le
  right a b := by
    unfold minI; split
    · next h => exact BitVec.sle_iff_toInt_le.1 h
    · exact le_rfl
  refl _ := le_rfl
  trans := le_trans
theorem maxI_picks : Picks maxI fun a b => b.toInt ≤ a.toInt where
  one a b := by unfold maxI; split <;> simp
  left a b := by
    unfold maxI; split
    · next h => exact BitVec.sle_iff_toInt_le.1 h
    · exact le_rfl
  right a b := by
    unfold maxI; split
    · exact le_rfl
    · next h => exact (not_le.1 (mt BitVec.sle_iff_toInt_le.2 h)).le
  refl _ := le_rfl
  trans h g := le_trans g h

/-- Where a lane is active, the values of the active lanes are not none. -/
theorem laneVals_ne_nil {g : Group} {m : Mask} {l : Nat} (a : Nat) (h : Mask.has m l = true) : laneVals g m a ≠ [] :=
  List.ne_nil_of_mem (List.mem_map_of_mem ((mem_lanesOf m l).2 h))
theorem mem_laneVals {g : Group} {m : Mask} {a : Nat} {w : Word} :
    w ∈ laneVals g m a ↔ ∃ l, Mask.has m l = true ∧ w = (g.lane l).v a := by
  simp only [laneVals, List.mem_map, mem_lanesOf, eq_comm (a := w)]

end Sys2Proof.Machine

namespace Sys2Proof.Claims
open Sys2Proof.Machine

/-- A lane-exchange instruction, which reads the group as it stood before. -/
theorem LaneDoes.of_laneX {i : Instr} {n : Nat} {gd : Guard} {f : Group → Mask → Nat → Lane → Lane}
    {r : Ex → Nat → Lane → Lane → Prop} (e : State → Out) (run : ∀ s, exec i s = e s) (shape : ∀ s, e s = laneX s n gd f)
    (h : ∀ x l, Mask.has (x.active gd) l = true → r x l (x.gr.lane l) (f x.gr (x.active gd) l (x.gr.lane l))) :
    LaneDoes i n gd r :=
  LaneDoes.of_done (f := fun x => f x.gr (x.active gd)) (fun s _ hx => ((run s).trans (shape s)).trans (onSplit_running _ hx)) h

end Sys2Proof.Claims

/-! Lane exchange and lane reductions (R106, R107). -/
namespace Sys2Proof.Proofs
open Sys2Proof Sys2Proof.Machine Sys2Proof.Claims

/-- A lane reads the lane that an operand names, where that lane is active, and otherwise itself. -/
theorem lxc_does {i : Instr} (o : R3) (f : Nat → Nat → Int) (run : ∀ s, exec i s = opLxc o s f) :
    LaneDoes i (VSrc.len o.b) o.g fun x l a b => SetsReg a b o.d.toNat
      (lxcRes x.gr (x.active o.g) o.a.toNat l (f l (VSrc.val o.b (x.gr.lane l)).toNat)) :=
  LaneDoes.of_laneX (fun s => opLxc o s f) run (fun _ => rfl) fun _ _ _ => SetsReg.of_setV ..

theorem lany_does (o : P2) : LaneDoes (.lany o) 4 o.g fun x _ a b => ∀ v : Bool,
    (v = true ↔ ∃ m, Mask.has (x.active o.g) m = true ∧ ((x.gr.lane m).p o.a != o.m) = true) → SetsPred a b o.p v :=
  LaneDoes.of_laneX (execLany o) (fun _ => rfl) (fun _ => rfl) fun x _ _ v hv => by
    have same : v = (lanesOf (x.active o.g)).any fun m => (x.gr.lane m).pn o.a o.m := by
      rw [Bool.eq_iff_iff, hv, List.any_eq_true]
      simp only [mem_lanesOf]; rfl
    exact same ▸ SetsPred.of_setP ..

theorem lall_does (o : P2) : LaneDoes (.lall o) 4 o.g fun x _ a b => ∀ v : Bool,
    (v = true ↔ ∀ m, Mask.has (x.active o.g) m = true → ((x.gr.lane m).p o.a != o.m) = true) → SetsPred a b o.p v :=
  LaneDoes.of_laneX (execLall o) (fun _ => rfl) (fun _ => rfl) fun x _ _ v hv => by
    have same : v = (lanesOf (x.active o.g)).all fun m => (x.gr.lane m).pn o.a o.m := by
      rw [Bool.eq_iff_iff, hv, List.all_eq_true]
      simp only [mem_lanesOf]; rfl
    exact same ▸ SetsPred.of_setP ..

theorem lfirst_does (o : LfirstO) : LaneDoes (.lfirst o) 4 o.g fun x l a b => ∀ v : Bool,
    (v = true ↔ ∀ m, m < l → Mask.has (x.active o.g) m = false) → SetsPred a b o.p v :=
  LaneDoes.of_laneX (execLfirst o) (fun _ => rfl) (fun _ => rfl) fun x l hl v hv => by
    have same : v = decide (l = lowest (x.active o.g)) := by
      rw [Bool.eq_iff_iff, hv, decide_eq_true_eq, eq_lowest_iff hl]
    exact same ▸ SetsPred.of_setP ..

theorem lsum_does (o : R2) : LaneDoes (.lsum o) 4 o.g fun x _ a b => SetsReg a b o.d.toNat (BitVec.ofNat 32
    ((List.range 8).map fun m => if Mask.has (x.active o.g) m = true then ((x.gr.lane m).v o.a.toNat).toNat else 0).sum) :=
  LaneDoes.of_laneX (fun s => opLred o s fun a b => a + b) (fun _ => rfl) (fun _ => rfl) fun x _ _ => by
    have same : ((List.range 8).map fun m => if Mask.has (x.active o.g) m = true then ((x.gr.lane m).v o.a.toNat).toNat else 0).sum =
        ((laneVals x.gr (x.active o.g) o.a.toNat).map BitVec.toNat).sum := by
      simp [List.sum_map_ite, laneVals, lanesOf, Function.comp_def]
    rw [same, ← foldVals_add]
    exact SetsReg.of_setV ..

/-- A fold that picks one of the values of the active lanes. -/
theorem lred_does {i : Instr} (o : R2) {f : Word → Word → Word} {le : Word → Word → Prop} (p : Picks f le)
    (run : ∀ s, exec i s = opLred o s f) : LaneDoes i 4 o.g fun x _ a b => ∃ w : Word, SetsReg a b o.d.toNat w ∧
      (∀ m, Mask.has (x.active o.g) m = true → le w ((x.gr.lane m).v o.a.toNat)) ∧
      ∃ m, Mask.has (x.active o.g) m = true ∧ w = (x.gr.lane m).v o.a.toNat :=
  LaneDoes.of_laneX (fun s => opLred o s f) run (fun _ => rfl) fun _ _ hl => by
    obtain ⟨mem, first⟩ := p.foldVals (laneVals_ne_nil o.a.toNat hl)
    exact ⟨_, SetsReg.of_setV .., fun m hm => first _ (mem_laneVals.2 ⟨m, hm, rfl⟩), mem_laneVals.1 mem⟩

theorem lmask_does (o : LmaskO) : LaneDoes (.lmask o) 4 o.g fun x _ a b => ∃ w : Word, SetsReg a b o.d.toNat w ∧
    ∀ m, m < 32 → w.getLsbD m = (Mask.has (x.active o.g) m && ((x.gr.lane m).p o.a != o.m)) :=
  LaneDoes.of_laneX (execLmask o) (fun _ => rfl) (fun _ => rfl) fun _ _ _ => ⟨_, SetsReg.of_setV .., fun _ hm => getLsbD_maskOf_filter _ _ hm⟩

theorem lsame_does (o : R2) : LaneDoes (.lsame o) 4 o.g fun x l a b => ∃ w : Word, SetsReg a b o.d.toNat w ∧
    ∀ m, m < 32 → w.getLsbD m =
      (Mask.has (x.active o.g) m && ((x.gr.lane m).v o.a.toNat == (x.gr.lane l).v o.a.toNat)) :=
  LaneDoes.of_laneX (execLsame o) (fun _ => rfl) (fun _ => rfl) fun _ _ _ => ⟨_, SetsReg.of_setV .., fun _ hm => getLsbD_maskOf_filter _ _ hm⟩

/-- Settles O7: each member reads the group of the executing split as it stood, and of it the active lanes. -/
theorem laneExchange : Obligations.LaneExchange :=
  ⟨fun o => lxc_does o (fun _ n => n) fun _ => rfl,
   fun o => lxc_does o (fun l n => ((l ^^^ n % 8 : Nat) : Int)) fun _ => rfl,
   fun o => lxc_does o (fun l n => (l : Int) - n) fun _ => rfl,
   fun o => lxc_does o (fun l n => (l : Int) + n) fun _ => rfl,
   lany_does, lall_does, lmask_does, lfirst_does, lsum_does,
   fun o => lred_does o minI_picks fun _ => rfl, fun o => lred_does o maxI_picks fun _ => rfl, lsame_does⟩

end Sys2Proof.Proofs
end

section
/-! Split tables by what their entries hold: their order, their lanes, and their free entries (R80, R81). -/
namespace Sys2Proof.Machine

/-! ### Sparse maps -/

/-- What is listed at a key of a map in order is found there. -/
theorem mget_of_mem {α : Type} {m : Map α} (sorted : Map.sorted m = true) {k : Nat} {x : α} (h : (k, x) ∈ m) : mget m k = some x := by
  induction m with
  | nil => cases h
  | cons p t ih =>
    obtain ⟨above, sortedT⟩ := (Map.sorted_cons p t).1 sorted
    rw [mget]
    rcases List.mem_cons.1 h with rfl | h
    · exact if_pos rfl
    · have lt : p.1 < k := above _ h
      rw [if_neg lt.ne']; exact ih sortedT h
theorem mget_iff_mem {α : Type} {m : Map α} (sorted : Map.sorted m = true) (k : Nat) (x : α) : mget m k = some x ↔ (k, x) ∈ m :=
  ⟨mem_of_mget, mget_of_mem sorted⟩
/-- The keys of a map in order stand in it once each. -/
theorem nodup_keys {α : Type} {m : Map α} (sorted : Map.sorted m = true) : (m.map Prod.fst).Nodup := by
  induction m with
  | nil => exact List.nodup_nil
  | cons p t ih =>
    obtain ⟨above, sortedT⟩ := (Map.sorted_cons p t).1 sorted
    rw [List.map_cons, List.nodup_cons]
    refine ⟨fun h => ?_, ih sortedT⟩
    obtain ⟨q, hq, e⟩ := List.mem_map.1 h
    exact absurd (above q hq) (by omega)
theorem sorted_mmod {α : Type} (m : Map α) (n : Nat) (f : α → α) (h : Map.sorted m = true) : Map.sorted (mmod m n f) = true := by
  have keys : ∀ m : Map α, (mmod m n f).map Prod.fst = m.map Prod.fst := fun m => by
    induction m with
    | nil => rfl
    | cons p t ih => rw [mmod]; split <;> simp [ih]
  induction m with
  | nil => rfl
  | cons p t ih =>
    obtain ⟨above, sortedT⟩ := (Map.sorted_cons p t).1 h
    rw [mmod]
    split
    · exact (Map.sorted_cons ..).2 ⟨above, sortedT⟩
    · refine (Map.sorted_cons ..).2 ⟨fun q hq => ?_, ih sortedT⟩
      have listed : q.1 ∈ (mmod t n f).map Prod.fst := List.mem_map_of_mem hq
      obtain ⟨r, hr, e⟩ := List.mem_map.1 (keys t ▸ listed)
      exact e ▸ above r hr
/-- Keys below a bound that are not listed: as many as the bound less the length of the map. -/
theorem length_freeKeys {α : Type} (m : Map α) (n : Nat) : n ≤ m.length + (freeKeys m 0 n).length := by
  have free : (freeKeys m 0 n).length = ((List.range n).filter fun k => (mget m k).isNone).length := by simp [freeKeys]
  have taken : ((List.range n).filter fun k => !(mget m k).isNone).length ≤ m.length := by
    refine le_trans (List.Subperm.length_le (List.Nodup.subperm (List.nodup_range.filter _) fun k hk => ?_)) (List.length_map Prod.fst).le
    obtain ⟨x, hx⟩ := Option.isSome_iff_exists.1 (by simpa using (List.mem_filter.1 hk).2 : (mget m k).isSome = true)
    exact List.mem_map.2 ⟨(k, x), mem_of_mget hx, rfl⟩
  have both := List.length_eq_length_filter_add (l := List.range n) fun k => (mget m k).isNone
  rw [List.length_range] at both
  omega
theorem mem_freeKeys {α : Type} {m : Map α} {n k : Nat} : k ∈ freeKeys m 0 n ↔ k < n ∧ mget m k = none := by
  simp [freeKeys]

/-! ### Masks -/

@[simp] theorem Mask.has_and (a b : Mask) (l : Nat) : Mask.has (a &&& b) l = (Mask.has a l && Mask.has b l) := BitVec.getLsbD_and
@[simp] theorem Mask.has_zero (l : Nat) : Mask.has 0#8 l = false := BitVec.getLsbD_zero
theorem Mask.has_without {a b : Mask} {l : Nat} : Mask.has (a &&& ~~~ b) l = true ↔ Mask.has a l = true ∧ Mask.has b l = false := by
  have below : Mask.has a l = true → l < 8 := Mask.lt_of_has
  rw [Mask.has_and, Bool.and_eq_true, Mask.has, Mask.has, BitVec.getLsbD_not]
  simp only [Bool.and_eq_true, decide_eq_true_eq, Bool.not_eq_true']
  exact and_congr_right fun h => and_iff_right (below h)
theorem Mask.ext_has {a b : Mask} (h : ∀ l, Mask.has a l = true ↔ Mask.has b l = true) : a = b :=
  BitVec.eq_of_getLsbD_eq fun l _ => Bool.eq_iff_iff.2 (h l)
theorem Mask.exists_has {a : Mask} (h : a ≠ 0) : ∃ l, Mask.has a l = true := by
  by_contra none
  exact h (Mask.ext_has fun l => by simpa using fun hl => none ⟨l, hl⟩)
theorem Mask.ne_zero_of_has {a : Mask} {l : Nat} (h : Mask.has a l = true) : a ≠ 0 := fun e => by simp [e] at h
/-- Masks with no lane in common. -/
theorem Mask.apart_iff {a b : Mask} : a &&& b = 0 ↔ ∀ l, Mask.has a l = true → Mask.has b l = true → False := by
  refine ⟨fun h l ha hb => ?_, fun h => Mask.ext_has fun l => ?_⟩
  · have both : Mask.has (a &&& b) l = true := by simp [ha, hb]
    simp [h] at both
  · simpa using h l
theorem Mask.has_lowest {m : Mask} (h : m ≠ 0) : Mask.has m (lowest m) = true := by
  obtain ⟨l, hl⟩ := Mask.exists_has h
  exact (Machine.has_lowest hl).1
theorem Mask.lowest_le {m : Mask} {l : Nat} (h : Mask.has m l = true) : lowest m ≤ l :=
  not_lt.1 fun lt => by simpa [h] using (Machine.has_lowest h).2 l lt
/-- There are no more masks than lanes, where each has a lane and no two have one in common. -/
theorem length_le_of_apart {L : List Mask} (lanes : ∀ m ∈ L, m ≠ 0) (apart : L.Pairwise fun a b => a &&& b = 0) : L.length ≤ 8 := by
  have distinct : (L.map lowest).Nodup := List.pairwise_map.2 (apart.imp_of_mem fun {a b} ha hb h e =>
    Mask.apart_iff.1 h (lowest a) (Mask.has_lowest (lanes a ha)) (e ▸ Mask.has_lowest (lanes b hb)))
  have below : L.map lowest ⊆ List.range 8 := fun l hl => by
    obtain ⟨m, hm, rfl⟩ := List.mem_map.1 hl
    exact List.mem_range.2 (Mask.lt_of_has (Mask.has_lowest (lanes m hm)))
  have le := (List.Nodup.subperm distinct below).length_le
  rwa [List.length_map, List.length_range] at le

/-! ### Tables -/

/-- A table in order, whose entries have lanes, and no two a lane in common. -/
structure Tidy (m : Map Split) : Prop where
  sorted : Map.sorted m = true
  below : ∀ k q, mget m k = some q → k < 8
  lanes : ∀ k q, mget m k = some q → q.mask ≠ 0
  apart : ∀ i j p q, mget m i = some p → mget m j = some q → ∀ l, Mask.has p.mask l = true → Mask.has q.mask l = true → i = j

/-- No two entries of a list have a lane in common where those at different keys have none. -/
theorem Tidy.pairwise {m : Map Split} (t : Tidy m) : m.Pairwise fun a b => a.2.mask &&& b.2.mask = 0 :=
  (List.pairwise_map.1 (nodup_keys t.sorted)).imp_of_mem fun {a b} ha hb ne => Mask.apart_iff.2 fun l hl hl' =>
    ne (t.apart a.1 b.1 a.2 b.2 (mget_of_mem t.sorted ha) (mget_of_mem t.sorted hb) l hl hl')

/-- The words of the statements for it. -/
theorem tidy_iff (m : Map Split) : Tidy m ↔ Claims.TablesInOrder m ∧ ∀ p ∈ m, p.2.mask ≠ 0 := by
  constructor
  · intro t
    exact ⟨⟨t.sorted, fun p hp => t.below p.1 p.2 (mget_of_mem t.sorted hp), t.pairwise⟩,
      fun p hp => t.lanes p.1 p.2 (mget_of_mem t.sorted hp)⟩
  · rintro ⟨⟨sorted, below, apart⟩, lanes⟩
    refine ⟨sorted, fun k q h => below _ (mem_of_mget h), fun k q h => lanes _ (mem_of_mget h), fun i j p q hp hq l hl hl' => ?_⟩
    by_contra ne
    have : Std.Symm fun a b : Nat × Split => a.2.mask &&& b.2.mask = 0 := ⟨fun a b h => (BitVec.and_comm ..).trans h⟩
    exact Mask.apart_iff.1 (apart.forall (mem_of_mget hp) (mem_of_mget hq) fun e => ne (congrArg Prod.fst e)) l hl hl'

/-- An entry whose lanes stand in no other entry is put into a table. -/
theorem Tidy.mset {m : Map Split} (t : Tidy m) {n : Nat} {sp : Split} (hn : n < 8) (lanes : sp.mask ≠ 0)
    (apart : ∀ k q, k ≠ n → mget m k = some q → ∀ l, Mask.has sp.mask l = true → Mask.has q.mask l = true → False) :
    Tidy (Machine.mset m n sp) := by
  have found : ∀ k q, mget (Machine.mset m n sp) k = some q → k = n ∧ q = sp ∨ k ≠ n ∧ mget m k = some q := fun k q h => by
    rw [mget_mset] at h
    split at h
    · next e => exact .inl ⟨e, (Option.some.inj h).symm⟩
    · next e => exact .inr ⟨e, h⟩
  refine ⟨sorted_mset m n sp t.sorted, fun k q h => ?_, fun k q h => ?_, fun i j p q hp hq l hl hl' => ?_⟩
  · rcases found k q h with ⟨rfl, -⟩ | ⟨-, h⟩
    · exact hn
    · exact t.below k q h
  · rcases found k q h with ⟨-, rfl⟩ | ⟨-, h⟩
    · exact lanes
    · exact t.lanes k q h
  · rcases found i p hp with ⟨rfl, rfl⟩ | ⟨hi, hp'⟩ <;> rcases found j q hq with ⟨rfl, rfl⟩ | ⟨hj, hq'⟩
    · rfl
    · exact (apart j q hj hq' l hl hl').elim
    · exact (apart i p hi hp' l hl' hl).elim
    · exact t.apart i j p q hp' hq' l hl hl'
/-- A table some of whose entries are taken out. -/
theorem Tidy.of_sub {m m' : Map Split} (t : Tidy m) (sorted : Map.sorted m' = true)
    (sub : ∀ k q, mget m' k = some q → mget m k = some q) : Tidy m' :=
  ⟨sorted, fun k q h => t.below k q (sub k q h), fun k q h => t.lanes k q (sub k q h),
    fun i j p q hp hq => t.apart i j p q (sub i p hp) (sub j q hq)⟩

end Sys2Proof.Machine
end

section
/-! Division of a split: the parts that are made, and the entries that they take (R83). -/
namespace Sys2Proof.Machine

/-! ### Parts -/

/-- The state that a part of a division is in. -/
def Part.st (p : Part) : SplitSt := match p.join with | some n => .join n | none => .ready
/-- Where the lanes of a part go: their PC and their state. -/
def Part.dest (p : Part) : Pc × SplitSt := (p.pc, p.st)

theorem Part.entry_st (p : Part) (sp : Split) (now : Nat) : (p.entry sp now).st = p.st := rfl

/-- Parts go to one place where their PCs and their joins are the same. -/
theorem Part.dest_eq_iff (p q : Part) : p.dest = q.dest ↔ p.pc = q.pc ∧ p.join = q.join := by
  have joins : p.st = q.st ↔ p.join = q.join := by
    unfold Part.st
    cases p.join <;> cases q.join <;> simp
  rw [Part.dest, Part.dest, Prod.mk.injEq, joins]

/-- A part put to one that goes to the same place: the lanes of both, at that place. -/
theorem mem_putPart {L : List Part} {p r : Part} (h : r ∈ putPart L p) : r ∈ L ∨ r = p ∨
    ∃ q ∈ L, q.dest = p.dest ∧ r.dest = p.dest ∧ r.mask = q.mask ||| p.mask := by
  induction L with
  | nil => exact .inr (.inl (List.mem_singleton.1 h))
  | cons q t ih =>
    rw [putPart] at h
    split at h
    · next same =>
      rcases List.mem_cons.1 h with rfl | h
      · have dest := (Part.dest_eq_iff p q).2 same
        exact .inr (.inr ⟨q, List.mem_cons_self .., dest.symm, dest.symm, rfl⟩)
      · exact .inl (List.mem_cons_of_mem _ h)
    · rcases List.mem_cons.1 h with rfl | h
      · exact .inl (List.mem_cons_self ..)
      · rcases ih h with h | h | ⟨q', hq', rest⟩
        · exact .inl (List.mem_cons_of_mem _ h)
        · exact .inr (.inl h)
        · exact .inr (.inr ⟨q', List.mem_cons_of_mem _ hq', rest⟩)
/-- The places of the parts stay distinct. -/
theorem putPart_distinct {L : List Part} (p : Part) (h : L.Pairwise fun a b => a.dest ≠ b.dest) :
    (putPart L p).Pairwise fun a b => a.dest ≠ b.dest := by
  induction L with
  | nil => exact List.pairwise_singleton ..
  | cons q t ih =>
    obtain ⟨first, rest⟩ := List.pairwise_cons.1 h
    rw [putPart]
    split
    · exact List.pairwise_cons.2 ⟨first, rest⟩
    · next differs =>
      refine List.pairwise_cons.2 ⟨fun r hr => ?_, ih rest⟩
      rcases mem_putPart hr with hr | rfl | ⟨-, -, -, same, -⟩
      · exact first r hr
      · exact fun e => differs ((Part.dest_eq_iff ..).1 e.symm)
      · exact fun e => differs ((Part.dest_eq_iff ..).1 (e.trans same).symm)
/-- No lane is lost. -/
theorem putPart_covers {L : List Part} (p : Part) {l : Nat} (h : (∃ q ∈ L, Mask.has q.mask l = true) ∨ Mask.has p.mask l = true) :
    ∃ r ∈ putPart L p, Mask.has r.mask l = true := by
  induction L with
  | nil => exact ⟨p, List.mem_singleton.2 rfl, h.resolve_left fun ⟨_, hq, _⟩ => absurd hq List.not_mem_nil⟩
  | cons q t ih =>
    rw [putPart]
    split
    · rcases h with ⟨r, hr, hl⟩ | hl
      · rcases List.mem_cons.1 hr with rfl | hr
        · exact ⟨_, List.mem_cons_self .., by simp [hl]⟩
        · exact ⟨r, List.mem_cons_of_mem _ hr, hl⟩
      · exact ⟨_, List.mem_cons_self .., by simp [hl]⟩
    · have later (h : (∃ q ∈ t, Mask.has q.mask l = true) ∨ Mask.has p.mask l = true) :
          ∃ r ∈ q :: putPart t p, Mask.has r.mask l = true := by
        obtain ⟨r, hr, hl⟩ := ih h
        exact ⟨r, List.mem_cons_of_mem _ hr, hl⟩
      rcases h with ⟨r, hr, hl⟩ | hl
      · rcases List.mem_cons.1 hr with rfl | hr
        · exact ⟨r, List.mem_cons_self .., hl⟩
        · exact later (.inl ⟨r, hr, hl⟩)
      · exact later (.inr hl)

/-- The parts send the lanes of a mask, and no other, to their places. -/
structure Sent (parts : List Part) (mask : Mask) (to_ : Nat → Pc × SplitSt) : Prop where
  places : ∀ p ∈ parts, ∀ l, Mask.has p.mask l = true → Mask.has mask l = true ∧ p.dest = to_ l
  covers : ∀ l, Mask.has mask l = true → ∃ p ∈ parts, Mask.has p.mask l = true

/-- The parts as a division takes them: each has a lane, goes to a place of its own, and they stand in order of their lowest
lanes. -/
structure Ordered (parts : List Part) (mask : Mask) (to_ : Nat → Pc × SplitSt) : Prop extends Sent parts mask to_ where
  lanes : ∀ p ∈ parts, p.mask ≠ 0
  rising : parts.Pairwise fun a b => lowest a.mask < lowest b.mask
  distinct : ∀ p ∈ parts, ∀ q ∈ parts, p.dest = q.dest → p = q

/-- Parts put together one after another. -/
theorem foldl_putPart {to_ : Nat → Pc × SplitSt} {mask : Mask} (L acc : List Part)
    (new : ∀ p ∈ L, p.mask ≠ 0 ∧ ∀ l, Mask.has p.mask l = true → Mask.has mask l = true ∧ p.dest = to_ l)
    (old : ∀ p ∈ acc, p.mask ≠ 0 ∧ ∀ l, Mask.has p.mask l = true → Mask.has mask l = true ∧ p.dest = to_ l)
    (distinct : acc.Pairwise fun a b => a.dest ≠ b.dest) :
    (∀ p ∈ L.foldl putPart acc, p.mask ≠ 0 ∧ ∀ l, Mask.has p.mask l = true → Mask.has mask l = true ∧ p.dest = to_ l) ∧
    ((L.foldl putPart acc).Pairwise fun a b => a.dest ≠ b.dest) ∧
    ∀ l, ((∃ p ∈ acc, Mask.has p.mask l = true) ∨ ∃ p ∈ L, Mask.has p.mask l = true) →
      ∃ p ∈ L.foldl putPart acc, Mask.has p.mask l = true := by
  induction L generalizing acc with
  | nil => exact ⟨old, distinct, fun l h => h.resolve_right fun ⟨_, hp, _⟩ => absurd hp List.not_mem_nil⟩
  | cons p t ih =>
    obtain ⟨first, later⟩ := List.forall_mem_cons.1 new
    have here : ∀ r ∈ putPart acc p, r.mask ≠ 0 ∧ ∀ l, Mask.has r.mask l = true → Mask.has mask l = true ∧ r.dest = to_ l := by
      intro r hr
      rcases mem_putPart hr with hr | rfl | ⟨q, hq, hqp, hrp, hm⟩
      · exact old r hr
      · exact first
      · obtain ⟨k, hk⟩ := Mask.exists_has first.1
        refine ⟨Mask.ne_zero_of_has (l := k) (by simp [hm, hk]), fun l hl => ?_⟩
        rw [hm, Mask.has_or, Bool.or_eq_true] at hl
        rcases hl with hl | hl
        · exact ⟨((old q hq).2 l hl).1, (hrp.trans hqp.symm).trans ((old q hq).2 l hl).2⟩
        · exact ⟨(first.2 l hl).1, hrp.trans (first.2 l hl).2⟩
    obtain ⟨places, apart, covers⟩ := ih (putPart acc p) later here (putPart_distinct p distinct)
    refine ⟨places, apart, fun l h => covers l ?_⟩
    rcases h with h | ⟨q, hq, hl⟩
    · exact .inl (putPart_covers p (.inl h))
    · rcases List.mem_cons.1 hq with rfl | hq
      · exact .inl (putPart_covers q (.inr hl))
      · exact .inr ⟨q, hq, hl⟩

/-- The parts that a division makes of parts that send the lanes of a mask. -/
theorem Sent.partsBy {parts : List Part} {mask : Mask} {to_ : Nat → Pc × SplitSt} (h : Sent parts mask to_) :
    Ordered (partsBy parts) mask to_ := by
  let L := parts.filter fun p => p.mask ≠ 0
  have mem : ∀ p, p ∈ L ↔ p ∈ parts ∧ p.mask ≠ 0 := fun p => by simp [L]
  obtain ⟨places, distinct, covers⟩ := foldl_putPart L [] (fun p hp => ⟨((mem p).1 hp).2, h.places p ((mem p).1 hp).1⟩)
    (fun _ hp => absurd hp List.not_mem_nil) List.Pairwise.nil
  let R := L.foldl putPart []
  have one : ∀ p ∈ R, ∀ q ∈ R, p.dest = q.dest → p = q := fun p hp q hq e => by
    have : Std.Symm fun a b : Part => a.dest ≠ b.dest := ⟨fun _ _ => Ne.symm⟩
    by_contra ne
    exact distinct.forall hp hq ne e
  have member : ∀ p, p ∈ Machine.partsBy parts ↔ p ∈ R := fun p => by
    show p ∈ (List.range 8).filterMap (fun i => R.find? fun q => decide (lowest q.mask = i)) ↔ _
    rw [List.mem_filterMap]
    constructor
    · rintro ⟨i, -, found⟩; exact List.mem_of_find?_eq_some found
    · intro hp
      have low := Mask.has_lowest (places p hp).1
      refine ⟨lowest p.mask, List.mem_range.2 (Mask.lt_of_has low), ?_⟩
      obtain ⟨q, found⟩ := Option.isSome_iff_exists.1
        (List.find?_isSome.2 ⟨p, hp, decide_eq_true rfl⟩ : (R.find? fun q => decide (lowest q.mask = lowest p.mask)).isSome = true)
      have hq := List.mem_of_find?_eq_some found
      have same : lowest q.mask = lowest p.mask := by simpa using List.find?_some found
      have low' : Mask.has q.mask (lowest p.mask) = true := same ▸ Mask.has_lowest (places q hq).1
      rw [found, one q hq p hp (((places q hq).2 _ low').2.trans ((places p hp).2 _ low).2.symm)]
  refine ⟨⟨fun p hp => (places p ((member p).1 hp)).2, fun l hl => ?_⟩, fun p hp => (places p ((member p).1 hp)).1, ?_,
    fun p hp q hq => one p ((member p).1 hp) q ((member q).1 hq)⟩
  · obtain ⟨p, hp, hpl⟩ := h.covers l hl
    obtain ⟨r, hr, hrl⟩ := covers l (.inr ⟨p, (mem p).2 ⟨hp, Mask.ne_zero_of_has hpl⟩, hpl⟩)
    exact ⟨r, (member r).2 hr, hrl⟩
  · show ((List.range 8).filterMap fun i => R.find? fun q => decide (lowest q.mask = i)).Pairwise _
    refine List.Pairwise.filterMap _ (fun i j lt p hp q hq => ?_) List.pairwise_lt_range
    have low : lowest p.mask = i := by simpa using List.find?_some hp
    have low' : lowest q.mask = j := by simpa using List.find?_some hq
    rwa [low, low']

namespace Ordered
variable {parts : List Part} {mask : Mask} {to_ : Nat → Pc × SplitSt}

/-- No two parts have a lane in common. -/
theorem apart (h : Ordered parts mask to_) : ∀ p ∈ parts, ∀ q ∈ parts, ∀ l, Mask.has p.mask l = true → Mask.has q.mask l = true → p = q :=
  fun p hp q hq l hl hl' => h.distinct p hp q hq ((h.places p hp l hl).2.trans (h.places q hq l hl').2.symm)
theorem pairwise (h : Ordered parts mask to_) : parts.Pairwise fun a b => a.mask &&& b.mask = 0 :=
  h.rising.imp_of_mem fun {p q} hp hq lt => Mask.apart_iff.2 fun l hl hl' => by
    rw [h.apart p hp q hq l hl hl'] at lt
    exact lt.ne rfl
/-- The first part has the lowest lane. -/
theorem lowest_first {p : Part} {rest : List Part} (h : Ordered (p :: rest) mask to_) {l : Nat} (hl : Mask.has mask l = true)
    (least : ∀ k, k < l → Mask.has mask k = false) : Mask.has p.mask l = true := by
  obtain ⟨q, hq, hql⟩ := h.covers l hl
  have low := Mask.has_lowest (h.lanes p (List.mem_cons_self ..))
  have inside := (h.places p (List.mem_cons_self ..) _ low).1
  rcases List.mem_cons.1 hq with rfl | hq
  · exact hql
  · have before := (List.pairwise_cons.1 h.rising).1 q hq
    have below : lowest p.mask < l := lt_of_lt_of_le before (Mask.lowest_le hql)
    rw [least _ below] at inside
    exact absurd inside Bool.false_ne_true
end Ordered

/-! ### Entries -/

/-- Entries put into a table, each at its key. -/
def putEntries (m : Map Split) (l : List (Split × Nat)) : Map Split := l.foldl (fun m q => mset m q.2 q.1) m

theorem mget_putEntries_of_not_mem {l : List (Split × Nat)} (m : Map Split) {k : Nat} (h : k ∉ l.map Prod.snd) :
    mget (putEntries m l) k = mget m k := by
  induction l generalizing m with
  | nil => rfl
  | cons q t ih =>
    rw [List.map_cons, List.mem_cons, not_or] at h
    exact (ih _ h.2).trans (mget_mset_ne _ _ h.1)
theorem mget_putEntries_of_mem {l : List (Split × Nat)} (m : Map Split) (distinct : (l.map Prod.snd).Nodup) {q : Split} {k : Nat}
    (h : (q, k) ∈ l) : mget (putEntries m l) k = some q := by
  induction l generalizing m with
  | nil => cases h
  | cons p t ih =>
    rw [List.map_cons, List.nodup_cons] at distinct
    rcases List.mem_cons.1 h with rfl | h
    · exact (mget_putEntries_of_not_mem _ distinct.1).trans (mget_mset_same ..)
    · exact ih _ distinct.2 h

/-- What a table holds after entries have been put where it was free: all that it held, and each of them. -/
structure Holds (m m' : Map Split) (L : List Split) : Prop where
  kept : ∀ k q, mget m k = some q → mget m' k = some q
  each : ∀ q ∈ L, ∃ k, mget m' k = some q
  only : ∀ k q, mget m' k = some q → mget m k = some q ∨ q ∈ L

theorem Holds.of_free (m : Map Split) {L : List Split} (enough : L.length ≤ (freeKeys m 0 8).length) :
    Holds m (putEntries m (L.zip (freeKeys m 0 8))) L := by
  have keys : (L.zip (freeKeys m 0 8)).map Prod.snd = (freeKeys m 0 8).take L.length := by
    rw [List.zip_eq_zip_take_min, Nat.min_eq_left enough, List.map_snd_zip (by simp)]
  have free : ∀ k ∈ (L.zip (freeKeys m 0 8)).map Prod.snd, mget m k = none := fun k hk =>
    (mem_freeKeys.1 (List.mem_of_mem_take (keys ▸ hk))).2
  have distinct : ((L.zip (freeKeys m 0 8)).map Prod.snd).Nodup := by
    rw [keys]
    exact (List.nodup_range.filter _).sublist (List.take_sublist ..)
  refine ⟨fun k q hq => ?_, fun q hq => ?_, fun k q hq => ?_⟩
  · exact (mget_putEntries_of_not_mem _ fun hk => by simp [free k hk] at hq).trans hq
  · obtain ⟨i, hi, rfl⟩ := List.getElem_of_mem hq
    have listed : (L[i], (freeKeys m 0 8)[i]'(by omega)) ∈ L.zip (freeKeys m 0 8) :=
      List.mem_iff_getElem.2 ⟨i, by rw [List.length_zip]; omega, List.getElem_zip⟩
    exact ⟨_, mget_putEntries_of_mem m distinct listed⟩
  · by_cases hk : k ∈ (L.zip (freeKeys m 0 8)).map Prod.snd
    · obtain ⟨r, hr, rfl⟩ := List.mem_map.1 hk
      rw [mget_putEntries_of_mem m distinct hr] at hq
      exact .inr (Option.some.inj hq ▸ (List.of_mem_zip hr).1)
    · exact .inl ((mget_putEntries_of_not_mem m hk).symm.trans hq)

/-- A tidy table has a free entry for each of some masks, where these have lanes, no two of them one in common, and none one of an
entry of the table. -/
theorem Tidy.room {m : Map Split} (t : Tidy m) {L : List Mask} (lanes : ∀ a ∈ L, a ≠ 0) (apart : L.Pairwise fun a b => a &&& b = 0)
    (others : ∀ k q, mget m k = some q → ∀ a ∈ L, q.mask &&& a = 0) : L.length ≤ (freeKeys m 0 8).length := by
  have le : (m.map (fun q => q.2.mask) ++ L).length ≤ 8 := by
    refine length_le_of_apart (fun a ha => ?_)
      (List.pairwise_append.2 ⟨List.pairwise_map.2 t.pairwise, apart, fun a ha b hb => ?_⟩)
    · rcases List.mem_append.1 ha with ha | ha
      · obtain ⟨q, hq, rfl⟩ := List.mem_map.1 ha
        exact t.lanes q.1 q.2 (mget_of_mem t.sorted hq)
      · exact lanes a ha
    · obtain ⟨q, hq, rfl⟩ := List.mem_map.1 ha
      exact others q.1 q.2 (mget_of_mem t.sorted hq) b hb
  have free := length_freeKeys m 8
  rw [List.length_append, List.length_map] at le
  omega

/-- The table after a division. -/
def dividedTable (m : Map Split) (e : Nat) (sp : Split) (now : Nat) (parts : List Part) : Map Split :=
  match partsBy parts with
  | [] => mdel m e
  | p :: rest =>
    let m1 := mset m e (p.entry sp now)
    putEntries m1 ((rest.map fun q => q.entry sp now).zip (freeKeys m1 0 8))

/-- A division changes the table alone. -/
theorem Group.divide_eq (g : Group) (e : Nat) (sp : Split) (now : Nat) (parts : List Part) :
    g.divide e sp now parts = { g with splits := dividedTable g.splits e sp now parts } := by
  have put : ∀ (l : List (Part × Nat)) (g : Group),
      l.foldl (fun (g : Group) q => { g with splits := mset g.splits q.2 (q.1.entry sp now) }) g =
        { g with splits := putEntries g.splits (l.map fun q => (q.1.entry sp now, q.2)) } := by
    intro l
    induction l with
    | nil => exact fun _ => rfl
    | cons q t ih => exact fun g => ih _
  unfold Group.divide dividedTable
  cases partsBy parts with
  | nil => rfl
  | cons p rest =>
    refine (put ..).trans ?_
    dsimp only
    rw [List.zip_map_left]
    rfl
@[simp] theorem Group.divide_joins (g : Group) (e : Nat) (sp : Split) (now : Nat) (parts : List Part) :
    (g.divide e sp now parts).joins = g.joins := by rw [Group.divide_eq]
theorem Group.divide_rest (g : Group) (e : Nat) (sp : Split) (now : Nat) (parts : List Part) :
    { g.divide e sp now parts with splits := [] } = { g with splits := [] } := by rw [Group.divide_eq]

/-- What stands in a tidy table after a division: the first part in the entry of the split, and each other part in an entry that
was free; every other entry is as it was. -/
theorem Holds.dividedTable {m : Map Split} (t : Tidy m) {e : Nat} {sp : Split} (here : mget m e = some sp) (now : Nat)
    {parts : List Part} {p : Part} {rest : List Part} {to_ : Nat → Pc × SplitSt} (made : partsBy parts = p :: rest)
    (h : Ordered (p :: rest) sp.mask to_) :
    Holds (mset m e (p.entry sp now)) (dividedTable m e sp now parts) (rest.map fun q => q.entry sp now) := by
  obtain ⟨hp, hrest⟩ := List.forall_mem_cons.1 h.lanes
  obtain ⟨apart, apartRest⟩ := List.pairwise_cons.1 h.pairwise
  have inside : ∀ r ∈ p :: rest, ∀ l, Mask.has r.mask l = true → Mask.has sp.mask l = true := fun r hr l hl => (h.places r hr l hl).1
  have others : ∀ k q, k ≠ e → mget m k = some q → ∀ r ∈ p :: rest, ∀ l, Mask.has r.mask l = true → Mask.has q.mask l = true → False :=
    fun k q hk hq r hr l hl hl' => hk (t.apart k e q sp hq here l hl' (inside r hr l hl))
  have t1 : Tidy (mset m e (p.entry sp now)) :=
    t.mset (t.below e sp here) hp fun k q hk hq => others k q hk hq p (List.mem_cons_self ..)
  have room := t1.room (L := rest.map Part.mask) (List.forall_mem_map.2 hrest) (List.pairwise_map.2 apartRest) fun k q hq a ha => by
    obtain ⟨r, hr, rfl⟩ := List.mem_map.1 ha
    rw [mget_mset] at hq
    split at hq
    · rw [← Option.some.inj hq]; exact apart r hr
    · next hk => exact Mask.apart_iff.2 fun l hl hl' => others k q hk hq r (List.mem_cons_of_mem _ hr) l hl' hl
  rw [Machine.dividedTable, made]
  exact Holds.of_free _ (by rwa [List.length_map] at room ⊢)

end Sys2Proof.Machine

namespace Sys2Proof.Claims
open Sys2Proof.Machine

/-- A division of a split in a tidy table sends its lanes where its parts say (R83). -/
theorem Divides.of_sent {g : Group} (t : Tidy g.splits) {e : Nat} {sp : Split} (here : mget g.splits e = some sp) (now : Nat)
    {parts : List Part} {to_ : Nat → Pc × SplitSt} (sent : Sent parts sp.mask to_) :
    Divides g (g.divide e sp now parts) sp e to_ := by
  have ordered := sent.partsBy
  cases made : partsBy parts with
  | nil =>
    obtain ⟨l, hl⟩ := Mask.exists_has (t.lanes e sp here)
    obtain ⟨p, hp, -⟩ := ordered.covers l hl
    rw [made] at hp
    cases hp
  | cons p rest =>
    rw [made] at ordered
    have holds := Holds.dividedTable t here now made ordered
    have first : mget (dividedTable g.splits e sp now parts) e = some (p.entry sp now) := holds.kept _ _ (mget_mset_same ..)
    have stands : ∀ r ∈ p :: rest, ∃ k, mget (dividedTable g.splits e sp now parts) k = some (r.entry sp now) := fun r hr => by
      rcases List.mem_cons.1 hr with rfl | hr
      · exact ⟨e, first⟩
      · exact holds.each _ (List.mem_map_of_mem hr)
    have only : ∀ k q, mget (dividedTable g.splits e sp now parts) k = some q →
        (k ≠ e ∧ mget g.splits k = some q) ∨ ∃ r ∈ p :: rest, q = r.entry sp now := fun k q hq => by
      rcases holds.only k q hq with hq | hq
      · rw [mget_mset] at hq
        split at hq
        · exact .inr ⟨p, List.mem_cons_self .., (Option.some.inj hq).symm⟩
        · next hk => exact .inl ⟨hk, hq⟩
      · obtain ⟨r, hr, rfl⟩ := List.mem_map.1 hq
        exact .inr ⟨r, List.mem_cons_of_mem _ hr, rfl⟩
    rw [Group.divide_eq]
    constructor
    case lanes =>
      intro l hl
      obtain ⟨r, hr, hrl⟩ := ordered.covers l hl
      obtain ⟨k, hk⟩ := stands r hr
      have dest := (ordered.places r hr l hrl).2
      exact ⟨k, _, hk, hrl, congrArg Prod.fst dest, congrArg Prod.snd dest⟩
    case together =>
      intro l m hl hm same
      obtain ⟨r, hr, hrl⟩ := ordered.covers l hl
      obtain ⟨r', hr', hrm⟩ := ordered.covers m hm
      obtain ⟨k, hk⟩ := stands r hr
      have one := ordered.distinct r hr r' hr' <|
        ((ordered.places r hr l hrl).2.trans same).trans (ordered.places r' hr' m hrm).2.symm
      exact ⟨k, _, hk, hrl, one ▸ hrm⟩
    case first => exact fun l hl least => ⟨_, first, ordered.lowest_first hl least⟩
    case only =>
      intro k q hq
      rcases only k q hq with stayed | ⟨r, hr, rfl⟩
      · exact .inl stayed
      · refine .inr fun l hl => ?_
        obtain ⟨inside, dest⟩ := ordered.places r hr l hl
        exact ⟨inside, congrArg Prod.fst dest, congrArg Prod.snd dest⟩
    case kept => exact fun k q hk hq => holds.kept k q ((mget_mset_ne _ _ hk).trans hq)
    case rest => rfl

end Sys2Proof.Claims
end

section
/-! Branches of lanes and of groups, and the targets that trap (R80, R81, R83, R96 to R98). -/
namespace Sys2Proof.Machine

/-- A counter that counts leaves of every core all but its counters, and every other core. -/
theorem State.core_bump (s : State) (core c n : Nat) (x : Ctr) :
    { (s.bump core x n).core c with ctr := [] } = { s.core c with ctr := [] } := by
  unfold State.bump
  split
  · rfl
  · obtain rfl | hc := eq_or_ne c core
    · rw [State.core_modCore_same]
    · rw [State.core_modCore_ne _ _ hc]
theorem State.core_bump_ne (s : State) {core c : Nat} (n : Nat) (x : Ctr) (h : c ≠ core) : (s.bump core x n).core c = s.core c := by
  unfold State.bump
  split
  · rfl
  · exact State.core_modCore_ne _ _ h
theorem State.group_bump (s : State) (core c k n : Nat) (x : Ctr) : (s.bump core x n).group c k = s.group c k :=
  State.group_of_still (State.still_bump ..) c k
theorem State.rest_bump (s : State) (core n : Nat) (x : Ctr) : { s.bump core x n with cores := [] } = { s with cores := [] } := by
  unfold State.bump
  split <;> rfl
theorem State.core_modGroup_ne (s : State) {c c' : Nat} (k : Nat) (f : Group → Group) (h : c' ≠ c) :
    (s.modGroup c k f).core c' = s.core c' := State.core_modCore_ne _ _ h

/-- The active lanes are lanes of the split. -/
theorem Ex.active_sub {x : Ex} {gd : Guard} {l : Nat} (h : Mask.has (x.active gd) l = true) : Mask.has x.sp.mask l = true :=
  ((Group.has_active ..).1 h).1

/-! ### The parts of a branch -/

theorem Sent.congr {parts : List Part} {mask : Mask} {f g : Nat → Pc × SplitSt} (h : Sent parts mask f) (same : ∀ l, f l = g l) :
    Sent parts mask g := funext same ▸ h
/-- Two parts: some lanes of a mask, and the others. -/
theorem Sent.two {mask : Mask} {p q : Part} (inside : ∀ l, Mask.has p.mask l = true → Mask.has mask l = true)
    (others : q.mask = mask &&& ~~~ p.mask) : Sent [p, q] mask fun l => if Mask.has p.mask l then p.dest else q.dest where
  places r hr l hl := by
    rcases List.mem_pair.1 hr with rfl | rfl
    · exact ⟨inside l hl, (if_pos hl).symm⟩
    · obtain ⟨inMask, out⟩ := Mask.has_without.1 (others ▸ hl)
      exact ⟨inMask, (if_neg (by simp [out])).symm⟩
  covers l hl := by
    by_cases first : Mask.has p.mask l = true
    · exact ⟨p, List.mem_cons_self .., first⟩
    · exact ⟨q, List.mem_cons_of_mem _ (List.mem_cons_self ..), others ▸ Mask.has_without.2 ⟨hl, by simpa using first⟩⟩

/-- A branch sends the active lanes to the target and the others on. -/
theorem Ex.branch_sent (x : Ex) {a : Mask} (inside : ∀ l, Mask.has a l = true → Mask.has x.sp.mask l = true) (target : Pc) (n : Nat) :
    Sent (x.branch a target n) x.sp.mask fun l => (if Mask.has a l then target else Pc.plus x.sp.pc n, .ready) :=
  (Sent.two inside rfl).congr fun l => by
    show (if Mask.has a l then _ else _) = _
    split <;> rfl

/-- Targets of their own send each active lane there, and the others on. -/
theorem Ex.targets_sent (x : Ex) {a : Mask} (inside : ∀ l, Mask.has a l = true → Mask.has x.sp.mask l = true) (tgt : Nat → DWord)
    (n : Nat) : Sent (x.targets a ((lanesOf a).map fun l => (l, tgt l)) n) x.sp.mask fun l =>
      (if Mask.has a l then Pc.of (tgt l) else Pc.plus x.sp.pc n, .ready) where
  places p hp l hl := by
    rcases List.mem_append.1 hp with hp | hp
    · obtain ⟨q, hq, rfl⟩ := List.mem_map.1 hp
      obtain ⟨k, hk, rfl⟩ := List.mem_map.1 hq
      obtain ⟨-, rfl⟩ := (Mask.has_laneBit k l).1 hl
      have active := (mem_lanesOf a l).1 hk
      exact ⟨inside l active, by simp [active, Part.dest, Part.st]⟩
    · rw [List.mem_singleton.1 hp] at hl ⊢
      obtain ⟨inMask, out⟩ := Mask.has_without.1 hl
      exact ⟨inMask, by simp [out, Part.dest, Part.st]⟩
  covers l hl := by
    by_cases active : Mask.has a l = true
    · exact ⟨_, List.mem_append_left _ (List.mem_map_of_mem (List.mem_map_of_mem ((mem_lanesOf a l).2 active))),
        (Mask.has_laneBit l l).2 ⟨Mask.lt_of_has hl, rfl⟩⟩
    · exact ⟨_, List.mem_append_right _ (List.mem_singleton.2 rfl), Mask.has_without.2 ⟨hl, by simpa using active⟩⟩

/-- The whole split goes to one place. -/
theorem Sent.whole (mask : Mask) (pc : Pc) (jumped : Bool) : Sent [⟨mask, pc, jumped, none⟩] mask fun _ => (pc, .ready) where
  places p hp l hl := by rw [List.mem_singleton.1 hp] at hl ⊢; exact ⟨hl, rfl⟩
  covers _ hl := ⟨_, List.mem_singleton.2 rfl, hl⟩

/-! ### The check of targets (R98) -/

/-- Bits [1:0] of a target are 0 where it is a multiple of 4. -/
theorem misaligned_iff (a : DWord) : (a.extractLsb' 0 2 != 0) = true ↔ a.toNat % 4 ≠ 0 := by
  rw [bne_iff_ne, ne_eq, ← BitVec.toNat_inj, BitVec.extractLsb'_toNat, Nat.shiftRight_zero]
  rfl

theorem targetFault_of_good {s : State} {x : Ex} {t : List (Nat × DWord)} (w : Word)
    (aligned : ∀ p ∈ t, p.2.toNat % 4 = 0) (good : ∀ p ∈ t, canonical p.2 = true) : targetFault s x w t = none := by
  have mis : t.filter (fun p => p.2.extractLsb' 0 2 != 0) = [] :=
    List.filter_eq_nil_iff.2 fun p hp => mt (misaligned_iff p.2).1 (by simp [aligned p hp])
  have bad : t.filter (fun p => !canonical p.2) = [] := List.filter_eq_nil_iff.2 fun p hp => by simp [good p hp]
  simp only [targetFault, mis, bad]
theorem targetFault_of_misaligned {s : State} {x : Ex} {t : List (Nat × DWord)} (w : Word) {p : Nat × DWord} (hp : p ∈ t)
    (misaligned : p.2.toNat % 4 ≠ 0) : targetFault s x w t =
      some (trapAt s x 7 (maskOf ((t.filter fun p => p.2.extractLsb' 0 2 != 0).map Prod.fst)) w 0) := by
  have member : p ∈ t.filter fun p => p.2.extractLsb' 0 2 != 0 := List.mem_filter.2 ⟨hp, (misaligned_iff p.2).2 misaligned⟩
  obtain ⟨q, rest, mis⟩ := List.exists_cons_of_ne_nil (List.ne_nil_of_mem member)
  simp only [targetFault, mis]
theorem targetFault_of_bad {s : State} {x : Ex} {t : List (Nat × DWord)} (w : Word) (aligned : ∀ p ∈ t, p.2.toNat % 4 = 0)
    {p : Nat × DWord} (first : (t.filter fun p => !canonical p.2).head? = some p) : targetFault s x w t =
      some (trapAt s x 5 (maskOf ((t.filter fun p => !canonical p.2).map Prod.fst)) (loOf p.2) (hiOf p.2)) := by
  have mis : t.filter (fun p => p.2.extractLsb' 0 2 != 0) = [] :=
    List.filter_eq_nil_iff.2 fun p hp => mt (misaligned_iff p.2).1 (by simp [aligned p hp])
  obtain ⟨rest, bad⟩ := List.head?_eq_some_iff.1 first
  simp only [targetFault, mis, bad]

/-- The lanes of a mask whose targets pass a test. -/
theorem has_maskOf_targets (a : Mask) (tgt : Nat → DWord) (f : DWord → Bool) (l : Nat) :
    Mask.has (maskOf ((((lanesOf a).map fun l => (l, tgt l)).filter fun p => f p.2).map Prod.fst)) l = true ↔
      Mask.has a l = true ∧ f (tgt l) = true := by
  rw [Mask.has_maskOf, List.filter_map, List.map_map, List.mem_map]
  simp only [List.mem_filter, mem_lanesOf, Function.comp_apply, exists_eq_right]
  exact and_iff_right_of_imp fun h => Mask.lt_of_has h.1

/-- The first of the targets that pass a test is that of the lowest lane. -/
theorem head?_targets {a m : Mask} {tgt : Nat → DWord} {f : DWord → Bool} {l : Nat}
    (lanes : ∀ k, Mask.has m k = true ↔ Mask.has a k = true ∧ f (tgt k) = true) (hl : Mask.has m l = true)
    (least : ∀ k, k < l → Mask.has m k = false) :
    (((lanesOf a).map fun l => (l, tgt l)).filter fun p => f p.2).head? = some (l, tgt l) := by
  have test : ((lanesOf a).filter ((fun p : Nat × DWord => f p.2) ∘ fun l => (l, tgt l))) = lanesOf m := by
    rw [lanesOf, lanesOf, List.filter_filter]
    exact List.filter_congr fun k _ => Bool.eq_iff_iff.2 (by rw [lanes k, Bool.and_eq_true]; exact and_comm)
  have found : (lanesOf m).head? = some l := by
    have low := lowest_eq hl least
    obtain ⟨k, rest, cons⟩ := List.exists_cons_of_ne_nil (List.ne_nil_of_mem ((mem_lanesOf m l).2 hl))
    rw [lowest, cons, List.headD_cons] at low
    rw [cons, low, List.head?_cons]
  rw [List.filter_map, test, List.head?_map, found]
  rfl

end Sys2Proof.Machine

namespace Sys2Proof.Claims
open Sys2Proof.Machine

/-! ### The executing group and the counters of its core -/

namespace GroupAndCounters
variable {s t : State} {x : Ex} {g : Group}

theorem refl (running : s.running = some x) : GroupAndCounters s s x x.gr :=
  ⟨((s.running_iff x).1 running).2.1, fun _ _ _ => rfl, rfl, fun _ _ => rfl, fun _ => rfl, rfl⟩
theorem bump (h : GroupAndCounters s t x g) (c : Ctr) (n : Nat) : GroupAndCounters s (t.bump x.core c n) x g where
  group := (State.group_bump ..).trans h.group
  others c k hck := (State.group_bump ..).trans (h.others c k hck)
  here := (congrArg (fun k : Core => { k with groups := [] }) (t.core_bump x.core x.core n c)).trans h.here
  cores k hk := (t.core_bump_ne n c hk).trans (h.cores k hk)
  memory a := by rw [State.bump_mem]; exact h.memory a
  rest := (t.rest_bump ..).trans h.rest
theorem modGroup (h : GroupAndCounters s t x g) (f : Group → Group) :
    GroupAndCounters s (t.modGroup x.core x.slot f) x (f g) where
  group := by rw [State.group_modGroup, if_pos ⟨rfl, rfl⟩, h.group]; rfl
  others c k hck := by rw [State.group_modGroup, if_neg hck]; exact h.others c k hck
  here := (congrArg (fun k : Core => { k with ctr := [] }) (t.core_modGroup x.core x.slot f x.core)).trans h.here
  cores k hk := (t.core_modGroup_ne _ _ hk).trans (h.cores k hk)
  memory := h.memory
  rest := h.rest
theorem setGroup (h : GroupAndCounters s t x g) (g' : Group) : GroupAndCounters s (t.setGroup x g') x g' := h.modGroup _
theorem joined (h : GroupAndCounters s t x g) (q : Group × Nat) : GroupAndCounters s (t.joined x.core q).1 x g := h.bump ..
theorem divide (h : GroupAndCounters s t x g) (g' : Group) (parts : List Part) :
    GroupAndCounters s (t.divide x g' parts) x (g'.divide x.entry x.sp t.now parts) := by
  unfold State.divide
  dsimp only
  split
  · have counted := (h.bump .spldiv 1).setGroup (g'.divide x.entry x.sp t.now parts)
    rwa [← State.bump_now t x.core .spldiv 1] at counted ⊢
  · exact h.setGroup _
theorem done (h : GroupAndCounters s t x g) (n : Nat) (f : Group → Group) :
    GroupAndCounters s (t.done x n f) x ((f g).advance x.entry n) := h.modGroup _

end GroupAndCounters

theorem Apart.tidy {x : Ex} (h : Apart x) : Tidy x.gr.splits := (tidy_iff _).2 h

/-- An instruction whose whole effect is a division of its split. -/
theorem divides_of_divide {i : Instr} {s : State} {x : Ex} {parts : List Part} {to_ : Nat → Pc × SplitSt}
    (running : s.running = some x) (run : exec i s = .next (s.divide x x.gr parts)) (sent : Sent parts x.sp.mask to_) :
    ∃ t g, exec i s = .next t ∧ GroupAndCounters s t x g ∧ SameButSplits x g ∧ (Apart x → Divides x.gr g x.sp x.entry to_) :=
  ⟨_, _, run, (GroupAndCounters.refl running).divide x.gr parts, x.gr.divide_rest x.entry x.sp s.now parts,
    fun apart => Divides.of_sent apart.tidy ((s.running_iff x).1 running).2.2 s.now sent⟩

end Sys2Proof.Claims

namespace Sys2Proof.Proofs
open Sys2Proof Sys2Proof.Machine Sys2Proof.Claims

/-- The targets of a BRX, lane by lane. -/
def brxTargets (x : Ex) (o : A1) : List (Nat × DWord) := (lanesOf (x.active o.g)).map fun l => (l, (x.gr.lane l).vPair o.a.toNat)

theorem exec_brx {s : State} {x : Ex} (running : s.running = some x) (o : A1) : exec (.brx o) s =
    match targetFault s x (firstWord (.brx o)) (brxTargets x o) with
    | some r => r
    | none => .next (s.divide x x.gr (x.targets (x.active o.g) (brxTargets x o) 4)) := onSplit_running _ running
theorem mem_brxTargets {x : Ex} {o : A1} {p : Nat × DWord} : p ∈ brxTargets x o ↔
    ∃ l, Mask.has (x.active o.g) l = true ∧ p = (l, (x.gr.lane l).vPair o.a.toNat) := by
  simp only [brxTargets, List.mem_map, mem_lanesOf, eq_comm (a := p)]

theorem exec_ujmp_of_good {s : State} {x : Ex} (running : s.running = some x) (o : Ua) (aligned : (x.uni.pair o.a.toNat).toNat % 4 = 0)
    (good : canonical (x.uni.pair o.a.toNat) = true) :
    exec (.ujmp o) s = .next (s.goTo x (Pc.of (x.uni.pair o.a.toNat))) := by
  have passes := targetFault_of_good (s := s) (x := x) (t := (lanesOf x.sp.mask).map fun l => (l, x.uni.pair o.a.toNat))
    (firstWord (.ujmp o)) (fun p hp => by obtain ⟨l, -, rfl⟩ := List.mem_map.1 hp; exact aligned)
    (fun p hp => by obtain ⟨l, -, rfl⟩ := List.mem_map.1 hp; exact good)
  show execUjmp o s = _
  rw [execUjmp, onSplit_running _ running]
  dsimp only
  rw [passes]
theorem exec_ubra {s : State} {x : Ex} (running : s.running = some x) (o : UbraO) : exec (.ubra o) s =
    if x.uni.c o.c.p != o.c.n then .next (s.goTo x (Pc.disp x.sp.pc o.d)) else .next (s.done x 4 id) := onSplit_running _ running

theorem branchesDivideTheSplit : BranchesDivideTheSplit := by
  intro s x running
  refine ⟨fun o => ?bra, fun o good => ?brx, fun o => ?ubra, fun o aligned good => ?ujmp⟩
  case bra =>
    exact divides_of_divide running (onSplit_running _ running) (x.branch_sent (fun _ => Ex.active_sub) (Pc.disp x.sp.pc o.d) 4)
  case brx =>
    have passes : targetFault s x (firstWord (.brx o)) (brxTargets x o) = none := targetFault_of_good _
      (fun p hp => by obtain ⟨l, hl, rfl⟩ := mem_brxTargets.1 hp; exact (good l hl).1)
      (fun p hp => by obtain ⟨l, hl, rfl⟩ := mem_brxTargets.1 hp; exact (good l hl).2)
    exact divides_of_divide running (by rw [exec_brx running, passes]; rfl)
      (x.targets_sent (fun _ => Ex.active_sub) (fun l => (x.gr.lane l).vPair o.a.toNat) 4)
  case ubra =>
    by_cases holds : (x.uni.c o.c.p != o.c.n) = true
    · obtain ⟨t, g, run, rest⟩ := divides_of_divide running ((exec_ubra running o).trans (if_pos holds))
        (Sent.whole x.sp.mask (Pc.disp x.sp.pc o.d) true)
      exact ⟨t, g, run, rest.1, rest.2.1, fun _ => rest.2.2, fun fails => by simp [holds] at fails⟩
    · exact ⟨_, _, (exec_ubra running o).trans (if_neg holds), (GroupAndCounters.refl running).done 4 id, rfl,
        fun h => absurd h holds, fun _ => Advances.of_advance x.entry 4 rfl⟩
  case ujmp =>
    exact divides_of_divide running (exec_ujmp_of_good running o aligned good)
      (Sent.whole x.sp.mask (Pc.of (x.uni.pair o.a.toNat)) true)

theorem badBranchTargetsTrap : BadBranchTargetsTrap := by
  intro s x o running
  refine ⟨fun m some lanes => ?_, fun m l aligned hl least lanes => ?_⟩
  · obtain ⟨l, hl⟩ := Mask.exists_has some
    obtain ⟨active, misaligned⟩ := (lanes l).1 hl
    rw [exec_brx running, targetFault_of_misaligned _ (mem_brxTargets.2 ⟨l, active, rfl⟩) misaligned]
    have same : maskOf (((brxTargets x o).filter fun p => p.2.extractLsb' 0 2 != 0).map Prod.fst) = m :=
      Mask.ext_has fun k => (has_maskOf_targets _ _ (fun w => w.extractLsb' 0 2 != 0) k).trans <|
        (and_congr_right fun _ => misaligned_iff _).trans (lanes k).symm
    rw [same]
  · have lanes' : ∀ k, Mask.has m k = true ↔ Mask.has (x.active o.g) k = true ∧ (!canonical ((x.gr.lane k).vPair o.a.toNat)) = true :=
      fun k => (lanes k).trans (and_congr_right fun _ => by simp)
    have first : ((brxTargets x o).filter fun p => !canonical p.2).head? = some (l, (x.gr.lane l).vPair o.a.toNat) :=
      head?_targets (f := fun w => !canonical w) lanes' hl least
    rw [exec_brx running, targetFault_of_bad _
      (fun p hp => by obtain ⟨k, hk, rfl⟩ := mem_brxTargets.1 hp; exact aligned k hk) first]
    have same : maskOf (((brxTargets x o).filter fun p => !canonical p.2).map Prod.fst) = m :=
      Mask.ext_has fun k => (has_maskOf_targets _ _ (fun w => !canonical w) k).trans (lanes' k).symm
    rw [same]

/-- Settles O10: each branch divides the split as its parts say, or traps with the lanes whose targets fail. -/
theorem branchesDivideSplits : Obligations.BranchesDivideSplits := ⟨branchesDivideTheSplit, badBranchTargetsTrap⟩

end Sys2Proof.Proofs
end

section
/-! Joins: what arming, leaving, arriving and completing do to the join registers and to the split table (R86, R87). -/
namespace Sys2Proof.Machine

/-! ### Join registers -/

theorem Group.joinAt_setJoin (g : Group) (n k : Nat) (j : Join) :
    (g.setJoin n j).joinAt k = if k = n then j else g.joinAt k := mgetD_mput ..
theorem Group.joinAt_congr {g g' : Group} (h : g'.joins = g.joins) (k : Nat) : g'.joinAt k = g.joinAt k :=
  congrArg (fun m : Map Join => mgetD m k ⟨0, 0, 0⟩) h

/-! ### Completion -/

/-- The entries that wait at a join with all their lanes arrived. -/
def Group.arrived (g : Group) (n : Nat) : Map Split := g.splits.filter fun p => p.2.waitsIn n (g.joinAt n).arv
/-- All lanes that are armed have arrived. -/
def Join.complete (j : Join) : Prop := j.arm ≠ 0 ∧ j.arv = j.arm
/-- The entry that a completed join makes of the first of those that waited. -/
def mergedSplit (sp : Split) (m : Mask) (pc : Pc) (now : Nat) : Split :=
  { sp with mask := m, pc := pc, st := .ready, jumped := true, settle := true, wins := [], counted := false, since := now, half := 0,
            latch := none }
/-- The table after a completion. -/
def Group.mergedTable (g : Group) (n now : Nat) : Map Split :=
  match g.arrived n with
  | [] => g.splits
  | (e, sp) :: rest => mset (((e, sp) :: rest).foldl (fun l p => mdel l p.1) g.splits) e
      (mergedSplit sp (((e, sp) :: rest).foldl (fun a p => a ||| p.2.mask) 0) (g.joinAt n).rpc now)

theorem Group.tryComplete_of_complete {g : Group} {n : Nat} (now : Nat) (h : (g.joinAt n).complete) :
    g.tryComplete n now = ({ g.setJoin n ⟨0, 0, 0⟩ with splits := g.mergedTable n now }, 1) := by
  have complete : (g.joinAt n).arm ≠ 0 ∧ (g.joinAt n).arv = (g.joinAt n).arm := h
  unfold Group.tryComplete Group.mergedTable Group.arrived
  dsimp only
  rw [if_pos complete]
  cases g.splits.filter fun p => p.2.waitsIn n (g.joinAt n).arv with
  | nil => rfl
  | cons p t => rfl
theorem Group.tryComplete_of_not {g : Group} {n : Nat} (now : Nat) (h : ¬ (g.joinAt n).complete) : g.tryComplete n now = (g, 0) :=
  if_neg h

/-- The register of a completed join becomes free; every other register stays. -/
theorem Group.joinAt_tryComplete (g : Group) (n now k : Nat) : (g.tryComplete n now).1.joinAt k =
    if k = n ∧ (g.joinAt n).arm ≠ 0 ∧ (g.joinAt n).arv = (g.joinAt n).arm then ⟨0, 0, 0⟩ else g.joinAt k := by
  by_cases h : (g.joinAt n).complete
  · rw [Group.tryComplete_of_complete now h]
    refine (Group.joinAt_congr (g := g.setJoin n ⟨0, 0, 0⟩) rfl k).trans ((g.joinAt_setJoin n k _).trans ?_)
    by_cases hk : k = n
    · rw [if_pos hk, if_pos ⟨hk, h⟩]
    · rw [if_neg hk, if_neg fun c => hk c.1]
  · rw [Group.tryComplete_of_not now h, if_neg fun c => h c.2]
theorem Group.tryComplete_rest (g : Group) (n now : Nat) :
    { (g.tryComplete n now).1 with splits := [], joins := [] } = { g with splits := [], joins := [] } := by
  by_cases h : (g.joinAt n).complete
  · rw [Group.tryComplete_of_complete now h]; rfl
  · rw [Group.tryComplete_of_not now h]

/-! ### The table after a completion -/

theorem Split.waitsIn_iff (sp : Split) (n : Nat) (arv : Mask) : sp.waitsIn n arv = true ↔
    sp.st = .join n ∧ ∀ l, Mask.has sp.mask l = true → Mask.has arv l = true := by
  rw [Split.waitsIn, Bool.and_eq_true, beq_iff_eq, beq_iff_eq]
  refine and_congr_right fun _ => ⟨fun h l hl => ?_, fun h => Mask.ext_has fun l => ?_⟩
  · by_contra out
    have both : Mask.has (sp.mask &&& ~~~ arv) l = true := Mask.has_without.2 ⟨hl, by simpa using out⟩
    rw [h] at both
    exact absurd both (by simp)
  · rw [Mask.has_without]
    simpa using h l

theorem mem_arrived {g : Group} (sorted : Map.sorted g.splits = true) {n k : Nat} {q : Split} :
    (k, q) ∈ g.arrived n ↔ mget g.splits k = some q ∧ q.waitsIn n (g.joinAt n).arv = true := by
  rw [Group.arrived, List.mem_filter, mget_iff_mem sorted]

/-- Keys taken out one after another. -/
theorem mget_foldl_mdel {α β : Type} (key : β → Nat) (l : List β) (m : Map α) (k : Nat) :
    mget (l.foldl (fun m p => mdel m (key p)) m) k = if k ∈ l.map key then none else mget m k := by
  induction l generalizing m with
  | nil => simp
  | cons p t ih =>
    rw [List.foldl_cons, ih, mget_mdel]
    by_cases hk : k = key p
    · simp [hk]
    · rw [if_neg hk]
      exact if_congr (by rw [List.map_cons, List.mem_cons, or_iff_right hk]) rfl rfl
theorem sorted_foldl_mdel {α β : Type} (key : β → Nat) (l : List β) {m : Map α} (h : Map.sorted m = true) :
    Map.sorted (l.foldl (fun m p => mdel m (key p)) m) = true :=
  foldl_keeps (fun m : Map α => Map.sorted m = true) _ l (fun m p hm => sorted_mdel m (key p) hm) m h
/-- The lanes of some entries together. -/
theorem has_foldl_or (w : Map Split) (m : Mask) (l : Nat) : Mask.has (w.foldl (fun a p => a ||| p.2.mask) m) l = true ↔
    Mask.has m l = true ∨ ∃ p ∈ w, Mask.has p.2.mask l = true := by
  induction w generalizing m with
  | nil => simp
  | cons p t ih => rw [List.foldl_cons, ih, Mask.has_or, Bool.or_eq_true, or_assoc, List.exists_mem_cons_iff]

/-- What a completion leaves of a table in order: entries that do not wait at the join stay, and each that does is in the entry
that goes on at the register's PC. -/
structure Merged (g : Group) (n now : Nat) : Prop where
  sorted : Map.sorted (g.mergedTable n now) = true
  stays : ∀ k q, mget g.splits k = some q → q.waitsIn n (g.joinAt n).arv = false → mget (g.mergedTable n now) k = some q
  goes : ∀ k q, mget g.splits k = some q → q.waitsIn n (g.joinAt n).arv = true → ∃ k' q', mget (g.mergedTable n now) k' = some q' ∧
    (∀ l, Mask.has q.mask l = true → Mask.has q'.mask l = true) ∧ q'.pc = (g.joinAt n).rpc ∧ q'.st = .ready
  tidy : Tidy g.splits → Tidy (g.mergedTable n now)

theorem Merged.of_sorted {g : Group} (sorted : Map.sorted g.splits = true) (n now : Nat) : Merged g n now := by
  have arrived := @mem_arrived g sorted n
  cases waiting : g.arrived n with
  | nil =>
    have table : g.mergedTable n now = g.splits := by rw [Group.mergedTable, waiting]
    refine ⟨table ▸ sorted, fun k q h _ => table ▸ h, fun k q h hw => ?_, fun t => table ▸ t⟩
    have listed := arrived.2 ⟨h, hw⟩
    rw [waiting] at listed
    cases listed
  | cons p rest =>
    obtain ⟨e, sp⟩ := p
    rw [waiting] at arrived
    set left := ((e, sp) :: rest).foldl (fun l p => mdel l p.1) g.splits with hleft
    set lanes := ((e, sp) :: rest).foldl (fun a p => a ||| p.2.mask) 0 with hlanes
    have table : g.mergedTable n now = mset left e (mergedSplit sp lanes (g.joinAt n).rpc now) := by
      rw [Group.mergedTable, waiting]
    have listed := (arrived (k := e) (q := sp)).1 (List.mem_cons_self ..)
    have leftAt : ∀ k q, mget left k = some q ↔ mget g.splits k = some q ∧ q.waitsIn n (g.joinAt n).arv = false := by
      intro k q
      rw [hleft, mget_foldl_mdel Prod.fst]
      split
      · next hk =>
        obtain ⟨⟨k', q'⟩, hq', rfl⟩ := List.mem_map.1 hk
        obtain ⟨there, waits⟩ := arrived.1 hq'
        refine ⟨fun h => (nomatch h), fun ⟨h, not⟩ => ?_⟩
        rw [there] at h
        rw [Option.some.inj h, not] at waits
        cases waits
      · next hk =>
        exact ⟨fun h => ⟨h, Bool.eq_false_iff.2 fun waits => hk (List.mem_map_of_mem (arrived.2 ⟨h, waits⟩))⟩, And.left⟩
    have inLanes : ∀ l, Mask.has lanes l = true ↔ ∃ k q, mget g.splits k = some q ∧ q.waitsIn n (g.joinAt n).arv = true ∧
        Mask.has q.mask l = true := by
      intro l
      rw [hlanes, has_foldl_or]
      constructor
      · rintro (h | ⟨⟨k, q⟩, hq, hl⟩)
        · exact absurd h (by simp)
        · exact ⟨k, q, (arrived.1 hq).1, (arrived.1 hq).2, hl⟩
      · rintro ⟨k, q, hq, waits, hl⟩
        exact .inr ⟨(k, q), arrived.2 ⟨hq, waits⟩, hl⟩
    constructor
    case sorted => rw [table]; exact sorted_mset _ _ _ (sorted_foldl_mdel Prod.fst _ sorted)
    case stays =>
      intro k q hq not
      have ne : k ≠ e := fun same => by
        rw [same, listed.1] at hq
        rw [Option.some.inj hq, not] at listed
        exact absurd listed.2 Bool.false_ne_true
      rw [table, mget_mset_ne _ _ ne]
      exact (leftAt k q).2 ⟨hq, not⟩
    case goes =>
      intro k q hq waits
      exact ⟨e, _, by rw [table]; exact mget_mset_same .., fun l hl => (inLanes l).2 ⟨k, q, hq, waits, hl⟩, rfl, rfl⟩
    case tidy =>
      intro t
      rw [table]
      have tidyLeft := t.of_sub (sorted_foldl_mdel Prod.fst ((e, sp) :: rest) sorted) fun k q h => ((leftAt k q).1 h).1
      refine tidyLeft.mset (t.below e sp listed.1) ?_ fun k q _ hq l hl hl' => ?_
      · obtain ⟨l, hl⟩ := Mask.exists_has (t.lanes e sp listed.1)
        exact Mask.ne_zero_of_has ((inLanes l).2 ⟨e, sp, listed.1, listed.2, hl⟩)
      · obtain ⟨there, not⟩ := (leftAt k q).1 hq
        obtain ⟨k', q', hq', waits, hl''⟩ := (inLanes l).1 hl
        obtain rfl := t.apart k k' q q' there hq' l hl' hl''
        rw [there] at hq'
        rw [Option.some.inj hq', waits] at not
        exact absurd not.symm Bool.false_ne_true

/-! ### What an instruction that acts on joins keeps of the table -/

/-- From a table to a later one of the same group: order is kept, tidiness is kept, and every entry that is READY stays. -/
structure TableKeeps (m m' : Map Split) : Prop where
  sorted : Map.sorted m = true → Map.sorted m' = true
  tidy : Tidy m → Tidy m'
  ready : Map.sorted m = true → ∀ k q, mget m k = some q → q.st = .ready → mget m' k = some q

theorem TableKeeps.refl (m : Map Split) : TableKeeps m m := ⟨id, id, fun _ _ _ h _ => h⟩
theorem TableKeeps.trans {m m' m'' : Map Split} (h : TableKeeps m m') (h' : TableKeeps m' m'') : TableKeeps m m'' :=
  ⟨h'.sorted ∘ h.sorted, h'.tidy ∘ h.tidy, fun s k q hq st => h'.ready (h.sorted s) k q (h.ready s k q hq st) st⟩

theorem Group.tryComplete_keeps (g : Group) (n now : Nat) : TableKeeps g.splits (g.tryComplete n now).1.splits := by
  by_cases h : (g.joinAt n).complete
  · rw [Group.tryComplete_of_complete now h]
    refine ⟨fun s => (Merged.of_sorted s n now).sorted, fun t => (Merged.of_sorted t.sorted n now).tidy t, fun s k q hq st => ?_⟩
    exact (Merged.of_sorted s n now).stays k q hq (Bool.eq_false_iff.2 fun waits => by
      rw [((Split.waitsIn_iff ..).1 waits).1] at st; cases st)
  · rw [Group.tryComplete_of_not now h]; exact .refl _

/-! ### Arriving -/

/-- The register of a join at which lanes arrive: free where all that are armed have. -/
theorem Group.joinAt_arriveJoin (g : Group) (n : Nat) (a : Mask) (now k : Nat) : (g.arriveJoin n a now).1.joinAt k =
    if k = n then
      if (g.joinAt n).arm ≠ 0 ∧ (g.joinAt n).arv ||| a = (g.joinAt n).arm then ⟨0, 0, 0⟩
      else ⟨(g.joinAt n).arm, (g.joinAt n).arv ||| a, (g.joinAt n).rpc⟩
    else g.joinAt k := by
  rw [Group.arriveJoin, Group.joinAt_tryComplete, Group.joinAt_setJoin, Group.joinAt_setJoin, if_pos rfl]
  by_cases hk : k = n
  · simp only [hk, true_and, if_true]
  · rw [if_neg fun c => hk c.1, if_neg hk, if_neg hk]
theorem Group.arriveJoin_rest (g : Group) (n : Nat) (a : Mask) (now : Nat) :
    { (g.arriveJoin n a now).1 with splits := [], joins := [] } = { g with splits := [], joins := [] } := Group.tryComplete_rest ..

/-! ### Leaving -/

/-- A join that lanes leave: its register; every other register stays. -/
theorem Group.joinAt_leaveJoin (g : Group) (n : Nat) (a : Mask) (now k : Nat) :
    (g.leaveJoin n a now).1.joinAt k = if k = n then Claims.leftJoin (g.joinAt n) a else g.joinAt k := by
  rw [Group.leaveJoin, Group.joinAt_tryComplete, Group.joinAt_setJoin, Group.joinAt_setJoin, if_pos rfl, Claims.leftJoin]
  by_cases hk : k = n
  · simp only [hk, true_and, if_true]
  · rw [if_neg fun c => hk c.1, if_neg hk, if_neg hk]
theorem Group.leaveJoin_rest (g : Group) (n : Nat) (a : Mask) (now : Nat) :
    { (g.leaveJoin n a now).1 with splits := [], joins := [] } = { g with splits := [], joins := [] } := Group.tryComplete_rest ..
theorem Group.leaveJoin_keeps (g : Group) (n : Nat) (a : Mask) (now : Nat) :
    TableKeeps g.splits (g.leaveJoin n a now).1.splits := (g.setJoin n _).tryComplete_keeps n now

/-- The groups of a fold over joins, without the count. -/
theorem Group.leaveJoins_fst (g : Group) (ns : List Nat) (a : Mask) (now : Nat) :
    (g.leaveJoins ns a now).1 = ns.foldl (fun g n => (g.leaveJoin n a now).1) g := by
  have fst : ∀ (ns : List Nat) (p : Group × Nat), (ns.foldl (fun (p : Group × Nat) n => let q := p.1.leaveJoin n a now; (q.1, p.2 + q.2)) p).1 =
      ns.foldl (fun g n => (g.leaveJoin n a now).1) p.1 := fun ns => by
    induction ns with
    | nil => exact fun _ => rfl
    | cons n t ih => exact fun p => ih _
  exact fst ns (g, 0)
/-- Joins that lanes leave: each register of the list, and no other. -/
theorem Group.joinAt_leaveJoins (g : Group) {ns : List Nat} (distinct : ns.Nodup) (a : Mask) (now k : Nat) :
    (g.leaveJoins ns a now).1.joinAt k = if k ∈ ns then Claims.leftJoin (g.joinAt k) a else g.joinAt k := by
  rw [Group.leaveJoins_fst]
  induction ns generalizing g with
  | nil => simp
  | cons n t ih =>
    rw [List.nodup_cons] at distinct
    rw [List.foldl_cons, ih _ distinct.2, Group.joinAt_leaveJoin]
    by_cases hk : k = n
    · subst hk; simp [distinct.1]
    · simp [hk]
theorem Group.leaveJoins_rest (g : Group) (ns : List Nat) (a : Mask) (now : Nat) :
    { (g.leaveJoins ns a now).1 with splits := [], joins := [] } = { g with splits := [], joins := [] } := by
  rw [Group.leaveJoins_fst]
  exact foldl_keeps (fun g' : Group => { g' with splits := [], joins := [] } = { g with splits := [], joins := [] }) _ ns
    (fun g' n h => (g'.leaveJoin_rest n a now).trans h) g rfl
theorem Group.leaveJoins_keeps (g : Group) (ns : List Nat) (a : Mask) (now : Nat) :
    TableKeeps g.splits (g.leaveJoins ns a now).1.splits := by
  rw [Group.leaveJoins_fst]
  exact foldl_keeps (fun g' : Group => TableKeeps g.splits g'.splits) _ ns (fun g' n h => h.trans (g'.leaveJoin_keeps n a now)) g (.refl _)

end Sys2Proof.Machine
end

section
/-! JSET, JWAIT, BRK, JDROP, JGET and JPUT (R99 to R105). -/
namespace Sys2Proof.Machine

/-- The image of a join register, read back in its three fields (R86). -/
theorem joinImage_fields (j : Join) : (toD (joinImage j)).extractLsb' 56 8 = j.arm ∧ (toD (joinImage j)).extractLsb' 48 8 = j.arv ∧
    (toD (joinImage j)).extractLsb' 0 48 = j.rpc.zeroExtend 48 := by
  have arm := j.arm.isLt
  have arv := j.arv.isLt
  have rpc := j.rpc.isLt
  have image : (toD (joinImage j)).toNat = j.arm.toNat * 2 ^ 56 + j.arv.toNat * 2 ^ 48 + j.rpc.toNat := by
    rw [toD, BitVec.toNat_ofNat, joinImage]
    omega
  refine ⟨BitVec.eq_of_toNat_eq ?_, BitVec.eq_of_toNat_eq ?_, BitVec.eq_of_toNat_eq ?_⟩
  · rw [BitVec.extractLsb'_toNat, image, Nat.shiftRight_eq_div_pow]; omega
  · rw [BitVec.extractLsb'_toNat, image, Nat.shiftRight_eq_div_pow]; omega
  · rw [BitVec.extractLsb'_toNat, image, Nat.shiftRight_zero, BitVec.toNat_setWidth]; omega

/-- A table stays in order in a division. -/
theorem sorted_dividedTable {m : Map Split} (h : Map.sorted m = true) (e : Nat) (sp : Split) (now : Nat) (parts : List Part) :
    Map.sorted (dividedTable m e sp now parts) = true := by
  unfold dividedTable
  split
  · exact sorted_mdel m e h
  · exact foldl_keeps (fun m : Map Split => Map.sorted m = true) _ _ (fun m q hm => sorted_mset m q.2 q.1 hm) _ (sorted_mset m e _ h)

/-- The state that an arrival completes: each of its lanes goes on at the register's PC, where they wait in entries whose lanes have
all arrived. -/
theorem Group.arriveJoin_goes {g : Group} (sorted : Map.sorted g.splits = true) {n : Nat} {a : Mask} (now : Nat)
    (complete : (g.joinAt n).arm ≠ 0 ∧ (g.joinAt n).arv ||| a = (g.joinAt n).arm) {k : Nat} {q : Split}
    (there : mget g.splits k = some q) (waits : q.st = .join n) (arrived : ∀ l, Mask.has q.mask l = true → Mask.has a l = true) :
    ∃ k' q', mget (g.arriveJoin n a now).1.splits k' = some q' ∧ (∀ l, Mask.has q.mask l = true → Mask.has q'.mask l = true) ∧
      q'.pc = (g.joinAt n).rpc ∧ q'.st = .ready := by
  set g' := g.setJoin n { g.joinAt n with arv := (g.joinAt n).arv ||| a } with hg'
  have register : g'.joinAt n = { g.joinAt n with arv := (g.joinAt n).arv ||| a } := by rw [hg', Group.joinAt_setJoin, if_pos rfl]
  have done : (g'.joinAt n).complete := by rw [register]; exact complete
  have goes := (Merged.of_sorted (g := g') sorted n now).goes k q there <| by
    rw [Split.waitsIn_iff, register]
    exact ⟨waits, fun l hl => by simp [arrived l hl]⟩
  rw [register] at goes
  have table : (g.arriveJoin n a now).1.splits = g'.mergedTable n now :=
    congrArg (fun r : Group × Nat => r.1.splits) (Group.tryComplete_of_complete now done)
  rwa [table]

end Sys2Proof.Machine

namespace Sys2Proof.Claims
open Sys2Proof.Machine

/-- Two adjacent lane registers written are the only change. -/
theorem SetsPair.of_setPair (a : Lane) (r : Nat) (w : DWord) : SetsPair a (a.setPair r w) r w where
  low := by simp [Lane.setPair, Lane.v_setV]
  high := by simp [Lane.setPair, Lane.v_setV]
  others k hk hk' := by
    rw [Lane.setPair, Lane.regs_setV, Lane.regs_setV, if_neg hk, if_neg (by rw [Lane.setV_wb]; omega)]
  rest := rfl

/-- The joins and the table aside, what two changes leave of a group. -/
theorem rest_of_splits {g g' : Group} (h : { g' with splits := [] } = { g with splits := [] }) :
    { g' with splits := [], joins := [] } = { g with splits := [], joins := [] } :=
  congrArg (fun k : Group => { k with joins := [] }) h

/-- The entry of a READY split after a change that keeps READY entries, and its advance. -/
theorem advanced_of_keeps {x : Ex} {g : Group} (n : Nat) (here : mget x.gr.splits x.entry = some x.sp)
    (sorted : Map.sorted x.gr.splits = true) (ready : x.sp.st = .ready) (keeps : TableKeeps x.gr.splits g.splits) :
    mget (g.advance x.entry n).splits x.entry = (mget x.gr.splits x.entry).map (moved n) := by
  rw [here, ← keeps.ready sorted x.entry x.sp here ready]
  exact mget_mmod_same ..

end Sys2Proof.Claims

namespace Sys2Proof.Proofs
open Sys2Proof Sys2Proof.Machine Sys2Proof.Claims

section
variable {s : State} {x : Ex} (running : s.running = some x)
include running

/-! ### JWAIT -/

/-- The lanes that a JWAIT makes wait: the active ones that are armed. -/
def waiters (x : Ex) (o : JwaitO) : Mask := x.active o.g &&& (x.gr.joinAt o.j.toNat).arm
/-- The parts of its division. -/
def waitParts (x : Ex) (o : JwaitO) : List Part :=
  [⟨waiters x o, x.sp.pc, false, some o.j.toNat⟩, ⟨x.sp.mask &&& ~~~ waiters x o, Pc.plus x.sp.pc 4, false, none⟩]
/-- The group that it divides, before the arrival. -/
def waitGroup (s : State) (x : Ex) (o : JwaitO) : Group := x.gr.divide x.entry x.sp s.now (waitParts x o)

theorem exec_jwait_of_none (o : JwaitO) (none : waiters x o = 0) : exec (.jwait o) s = .next (s.done x 4 id) := by
  show execJwait o s = _
  rw [execJwait, onSplit_running _ running]
  exact if_pos none
theorem exec_jwait_of_some (o : JwaitO) (some : waiters x o ≠ 0) : ∃ t now, exec (.jwait o) s = .next t ∧
    GroupAndCounters s t x ((waitGroup s x o).arriveJoin o.j.toNat (waiters x o) now).1 := by
  have divided := (GroupAndCounters.refl running).divide x.gr (waitParts x o)
  have group := divided.group
  have armed : ¬ x.active o.g &&& (x.gr.joinAt o.j.toNat).arm = 0 := some
  unfold waitParts waiters at group
  refine ⟨_, (s.divide x x.gr (waitParts x o)).now, ?_, (divided.joined
    ((waitGroup s x o).arriveJoin o.j.toNat (waiters x o) (s.divide x x.gr (waitParts x o)).now)).setGroup _⟩
  show execJwait o s = _
  rw [execJwait, onSplit_running _ running]
  dsimp only
  rw [if_neg armed, group]
  rfl

omit running in
theorem waiters_sub {o : JwaitO} {l : Nat} (h : Mask.has (waiters x o) l = true) : Mask.has x.sp.mask l = true := by
  rw [waiters, Mask.has_and, Bool.and_eq_true] at h
  exact Ex.active_sub h.1
omit running in
theorem armed_of_waiters {o : JwaitO} (some : waiters x o ≠ 0) : (x.gr.joinAt o.j.toNat).arm ≠ 0 := by
  obtain ⟨l, hl⟩ := Mask.exists_has some
  rw [waiters, Mask.has_and, Bool.and_eq_true] at hl
  exact Mask.ne_zero_of_has hl.2
omit running in
/-- The lanes that wait stand in state JOIN at the JWAIT, and the others go on. -/
theorem waitParts_sent (o : JwaitO) : Sent (waitParts x o) x.sp.mask fun l =>
    if Mask.has (waiters x o) l then (x.sp.pc, .join o.j.toNat) else (Pc.plus x.sp.pc 4, .ready) :=
  (Sent.two (fun _ => waiters_sub) rfl).congr fun _ => rfl
theorem waitGroup_divides (o : JwaitO) (apart : Apart x) : Divides x.gr (waitGroup s x o) x.sp x.entry fun l =>
    if Mask.has (waiters x o) l then (x.sp.pc, .join o.j.toNat) else (Pc.plus x.sp.pc 4, .ready) :=
  Divides.of_sent apart.tidy ((s.running_iff x).1 running).2.2 s.now (waitParts_sent o)
omit running in
theorem waitGroup_joinAt (o : JwaitO) (n : Nat) : (waitGroup s x o).joinAt n = x.gr.joinAt n :=
  Group.joinAt_congr (Group.divide_joins ..) n

/-- Where the arrival does not complete the join, the table is that of the division. -/
theorem jwait_waits (o : JwaitO) (apart : Apart x) (now : Nat)
    (waits : (x.gr.joinAt o.j.toNat).arv ||| waiters x o ≠ (x.gr.joinAt o.j.toNat).arm) :
    Divides x.gr { ((waitGroup s x o).arriveJoin o.j.toNat (waiters x o) now).1 with joins := x.gr.joins } x.sp x.entry fun l =>
      if Mask.has (waiters x o) l then (x.sp.pc, .join o.j.toNat) else (Pc.plus x.sp.pc 4, .ready) := by
  have arrival : ((waitGroup s x o).arriveJoin o.j.toNat (waiters x o) now).1 = (waitGroup s x o).setJoin o.j.toNat
      { (waitGroup s x o).joinAt o.j.toNat with arv := ((waitGroup s x o).joinAt o.j.toNat).arv ||| waiters x o } := by
    rw [Group.arriveJoin, Group.tryComplete_of_not]
    rw [Group.joinAt_setJoin, if_pos rfl, waitGroup_joinAt]
    exact fun complete => waits complete.2
  have same : { ((waitGroup s x o).arriveJoin o.j.toNat (waiters x o) now).1 with joins := x.gr.joins } = waitGroup s x o := by
    rw [arrival, waitGroup, Group.divide_eq]
    rfl
  rw [same]
  exact waitGroup_divides running o apart
/-- Where it completes the join, each of the lanes goes on at the register's PC. -/
theorem jwait_completes (o : JwaitO) (apart : Apart x) (now : Nat) (some : waiters x o ≠ 0)
    (completes : (x.gr.joinAt o.j.toNat).arv ||| waiters x o = (x.gr.joinAt o.j.toNat).arm) {l : Nat}
    (hl : Mask.has (waiters x o) l = true) :
    ∃ k q, mget ((waitGroup s x o).arriveJoin o.j.toNat (waiters x o) now).1.splits k = Option.some q ∧ Mask.has q.mask l = true ∧
      q.pc = (x.gr.joinAt o.j.toNat).rpc ∧ q.st = .ready := by
  have here := ((s.running_iff x).1 running).2.2
  have divides := waitGroup_divides running o apart
  obtain ⟨k, q, there, hql, -, st⟩ := divides.lanes l (waiters_sub hl)
  have st : q.st = .join o.j.toNat := st.trans (by rw [if_pos hl])
  have arrived : ∀ m, Mask.has q.mask m = true → Mask.has (waiters x o) m = true := fun m hm => by
    rcases divides.only k q there with ⟨ne, old⟩ | new
    · exact absurd (apart.tidy.apart k x.entry q x.sp old here l hql (waiters_sub hl)) ne
    · by_contra out
      have goes := (new m hm).2.2
      rw [if_neg out, st] at goes
      cases goes
  have sorted : Map.sorted (waitGroup s x o).splits = true := by
    rw [waitGroup, Group.divide_eq]; exact sorted_dividedTable apart.tidy.sorted ..
  have complete : ((waitGroup s x o).joinAt o.j.toNat).arm ≠ 0 ∧
      ((waitGroup s x o).joinAt o.j.toNat).arv ||| waiters x o = ((waitGroup s x o).joinAt o.j.toNat).arm := by
    rw [waitGroup_joinAt]; exact ⟨armed_of_waiters some, completes⟩
  obtain ⟨k', q', there', lanes, pc, ready⟩ := Group.arriveJoin_goes sorted now complete there st arrived
  exact ⟨k', q', there', lanes l hql, pc.trans (congrArg Join.rpc (waitGroup_joinAt ..)), ready⟩

/-! ### BRK, JDROP and JPUT -/

theorem exec_brk (o : BrkO) : exec (.brk o) s = .next ((s.joined x.core (x.gr.leaveJoins (joinsOf o.m) (x.active o.g) s.now)).1.divide x
    (x.gr.leaveJoins (joinsOf o.m) (x.active o.g) s.now).1 (x.branch (x.active o.g) (Pc.disp x.sp.pc o.d) 4)) :=
  onSplit_running _ running
theorem exec_jdrop (o : JdropO) : exec (.jdrop o) s =
    .next ((s.joined x.core (x.gr.leaveJoins (joinsOf o.m) (x.active o.g) s.now)).1.setGroup x
      ((x.gr.leaveJoins (joinsOf o.m) (x.active o.g) s.now).1.advance x.entry 4)) := onSplit_running _ running
omit running in
/-- The registers that BRK and JDROP leave. -/
theorem joinAt_leaveJoins_mask (g : Group) (m : BitVec 8) (a : Mask) (now n : Nat) : (g.leaveJoins (joinsOf m) a now).1.joinAt n =
    if m.getLsbD n then leftJoin (g.joinAt n) a else g.joinAt n :=
  (g.joinAt_leaveJoins (List.nodup_range.filter _) a now n).trans (if_congr (mem_lanesOf m n) rfl rfl)

/-- The register that a JPUT makes of a pair. -/
def putJoin (x : Ex) (o : JputO) (v : DWord) : Join :=
  ⟨v.extractLsb' 56 8 &&& x.gr.live, v.extractLsb' 48 8 &&& (v.extractLsb' 56 8 &&& x.gr.live) &&& x.gr.waitingAt o.j.toNat,
    v.extractLsb' 0 47⟩
/-- The group with that register, before it is tried. -/
def putGroup (x : Ex) (o : JputO) (v : DWord) : Group := (x.gr.advance x.entry 4).setJoin o.j.toNat (putJoin x o v)

theorem exec_jput_of_some (o : JputO) {l : Nat} (hl : Mask.has (x.active o.g) l = true)
    (least : ∀ k, k < l → Mask.has (x.active o.g) k = false) :
    let g := putGroup x o ((x.gr.lane l).vPair o.a.toNat)
    exec (.jput o) s = .next ((s.joined x.core (g.tryComplete o.j.toNat s.now)).1.setGroup x (g.tryComplete o.j.toNat s.now).1) := by
  show execJput o s = _
  rw [execJput, onSplit_running _ running]
  dsimp only
  rw [if_neg (Mask.ne_zero_of_has hl), lowest_eq hl least]
  rfl
theorem exec_jput_of_none (o : JputO) (none : x.active o.g = 0) : exec (.jput o) s = .next (s.done x 4 id) := by
  show execJput o s = _
  rw [execJput, onSplit_running _ running]
  exact if_pos none
end

theorem jget_does (o : JgetO) : LaneDoes (.jget o) 4 o.g fun y _ a b => ∃ w : DWord, SetsPair a b o.d.toNat w ∧
    w.extractLsb' 56 8 = (y.gr.joinAt o.j.toNat).arm ∧ w.extractLsb' 48 8 = (y.gr.joinAt o.j.toNat).arv ∧
    w.extractLsb' 0 48 = (y.gr.joinAt o.j.toNat).rpc.zeroExtend 48 :=
  LaneDoes.of_done (f := fun x _ ln => ln.setPair o.d.toNat (toD (joinImage (x.gr.joinAt o.j.toNat))))
    (fun _ _ hx => onSplit_running _ hx) fun x _ _ => ⟨_, SetsPair.of_setPair .., joinImage_fields (x.gr.joinAt o.j.toNat)⟩

/-- Settles O11: each instruction's effect on its registers, and where the lanes of the split stand after it. -/
theorem joinInstructions : Obligations.JoinInstructions := by
  intro s x running
  have here := ((s.running_iff x).1 running).2.2
  have start := GroupAndCounters.refl running
  refine ⟨fun o => ?jset, fun o => ?jwait, fun o => ?brk, fun o => ?jdrop, jget_does, fun o none => ?idle, fun o l hl least => ?jput⟩
  case jset =>
    refine ⟨_, _, onSplit_running _ running, OnlyGroup.of_done 4 _ running, Advances.of_advance x.entry 4 rfl, ?_, fun n hn => ?_, rfl⟩
    · exact (Group.joinAt_setJoin ..).trans (if_pos rfl)
    · exact (Group.joinAt_setJoin ..).trans (if_neg hn)
  case jwait =>
    by_cases none : waiters x o = 0
    · exact ⟨_, _, exec_jwait_of_none running o none, start.done 4 id, fun _ => ⟨Advances.of_advance x.entry 4 rfl, rfl⟩,
        fun some => absurd none some, fun _ _ some => absurd none some, fun _ _ some => absurd none some, fun _ _ => rfl, rfl⟩
    · obtain ⟨t, now, run, frame⟩ := exec_jwait_of_some running o none
      have registers := (waitGroup s x o).joinAt_arriveJoin o.j.toNat (waiters x o) now
      refine ⟨t, _, run, frame, fun zero => absurd zero none, fun _ => ?_, fun _ apart _ waits => jwait_waits running o apart now waits,
        fun _ apart some completes l hl => jwait_completes running o apart now some completes hl, fun n hn => ?_, ?_⟩
      · rw [registers, if_pos rfl, waitGroup_joinAt]
        exact if_congr (and_iff_right (armed_of_waiters none)) rfl rfl
      · rw [registers, if_neg hn, waitGroup_joinAt]
      · exact (Group.arriveJoin_rest ..).trans (rest_of_splits (Group.divide_rest ..))
  case brk =>
    refine ⟨_, _, exec_brk running o, (start.joined _).divide _ _, fun n => ?_, fun ready apart l hl => ?_, ?_⟩
    · exact (Group.joinAt_congr (Group.divide_joins ..) n).trans (joinAt_leaveJoins_mask ..)
    · have keeps := x.gr.leaveJoins_keeps (joinsOf o.m) (x.active o.g) s.now
      obtain ⟨k, q, there, hql, pc, st⟩ := (Divides.of_sent (keeps.tidy apart.tidy)
        (keeps.ready apart.tidy.sorted x.entry x.sp here ready) _ (x.branch_sent (fun _ => Ex.active_sub) (Pc.disp x.sp.pc o.d) 4)).lanes l hl
      exact ⟨k, q, there, hql, st, pc⟩
    · exact (rest_of_splits (Group.divide_rest ..)).trans (Group.leaveJoins_rest ..)
  case jdrop =>
    exact ⟨_, _, exec_jdrop running o, (start.joined _).setGroup _, fun n => joinAt_leaveJoins_mask .., fun ready apart =>
      advanced_of_keeps 4 here apart.tidy.sorted ready (Group.leaveJoins_keeps ..), Group.leaveJoins_rest ..⟩
  case idle => exact goesOn_of_done running (exec_jput_of_none running o none)
  case jput =>
    set v := (x.gr.lane l).vPair o.a.toNat
    refine ⟨_, _, exec_jput_of_some running o hl least, (start.joined _).setGroup _, ?_, fun n hn => ?_, fun ready apart => ?_, ?_⟩
    · rw [Group.joinAt_tryComplete, putGroup, Group.joinAt_setJoin, if_pos rfl]
      exact if_congr (and_iff_right rfl) rfl rfl
    · rw [Group.joinAt_tryComplete, if_neg fun c => hn c.1, putGroup, Group.joinAt_setJoin, if_neg hn]
      rfl
    · have advanced : mget (putGroup x o v).splits x.entry = some (moved 4 x.sp) := (mget_mmod_same ..).trans (by rw [here]; rfl)
      rw [here]
      exact ((putGroup x o v).tryComplete_keeps o.j.toNat s.now).ready (sorted_mmod _ _ _ apart.tidy.sorted) x.entry _ advanced ready
    · exact (Group.tryComplete_rest ..).trans rfl

end Sys2Proof.Proofs
end

section
/-! EXIT, YIELD and NAP, the ends of naps and yields, and the merge of two splits (R85, R90, R109). -/
namespace Sys2Proof.Machine

/-! ### Lanes that exit -/

/-- The group that lanes leave: they belong to no join and are not live, and the split goes on with the others. -/
def Group.left (g : Group) (e : Nat) (sp : Split) (a : Mask) (n now : Nat) : Group :=
  let h := { (g.leaveJoins (List.range 8) a now).1 with live := (g.leaveJoins (List.range 8) a now).1.live &&& ~~~ a }
  if sp.mask &&& ~~~ a = 0 then { h with splits := mdel h.splits e }
  else (h.modSplit e fun q => { q with mask := sp.mask &&& ~~~ a }).advance e n

theorem State.leaveLanes_eq (s : State) (x : Ex) (a : Mask) (n : Nat) : s.leaveLanes x a n =
    (s.joined x.core (x.gr.leaveJoins (List.range 8) a s.now)).1.setGroup x (x.gr.left x.entry x.sp a n s.now) := rfl

theorem Group.left_joins (g : Group) (e : Nat) (sp : Split) (a : Mask) (n now : Nat) :
    (g.left e sp a n now).joins = (g.leaveJoins (List.range 8) a now).1.joins := by
  unfold Group.left; dsimp only; split <;> rfl
theorem Group.left_live (g : Group) (e : Nat) (sp : Split) (a : Mask) (n now : Nat) :
    (g.left e sp a n now).live = g.live &&& ~~~ a := by
  have rest := congrArg Group.live (g.leaveJoins_rest (List.range 8) a now)
  have live : (g.leaveJoins (List.range 8) a now).1.live = g.live := rest
  rw [← live]
  unfold Group.left; dsimp only; split <;> rfl
theorem Group.left_rest (g : Group) (e : Nat) (sp : Split) (a : Mask) (n now : Nat) :
    { g.left e sp a n now with splits := [], joins := [], live := 0 } = { g with splits := [], joins := [], live := 0 } := by
  refine Eq.trans ?_ (congrArg (fun k : Group => { k with live := 0 }) (g.leaveJoins_rest (List.range 8) a now))
  unfold Group.left; dsimp only; split <;> rfl
theorem Group.mget_left {g : Group} {e : Nat} {sp : Split} (sorted : Map.sorted g.splits = true) (here : mget g.splits e = some sp)
    (ready : sp.st = .ready) (a : Mask) (n now : Nat) : mget (g.left e sp a n now).splits e =
      if sp.mask &&& ~~~ a = 0 then none else some { Claims.moved n sp with mask := sp.mask &&& ~~~ a } := by
  have stays := (g.leaveJoins_keeps (List.range 8) a now).ready sorted e sp here ready
  unfold Group.left
  dsimp only
  split
  · exact (mget_mdel ..).trans (if_pos rfl)
  · refine (mget_mmod_same ..).trans ?_
    rw [Group.modSplit, mget_mmod_same]
    dsimp only
    rw [stays]
    rfl

/-! ### Rays of an episode -/

/-- What does not end rays: a group of no episode. -/
theorem State.endRays_of_not {s : State} {x : Ex} (a : Mask)
    (h : ∀ b n, mget s.blocks x.gr.blk = some b → b.kind ≠ .episode n) : s.endRays x a = s := by
  unfold State.endRays
  split
  · next b hb =>
    split
    · next n hn => exact absurd hn (h b n hb)
    · rfl
  · rfl
/-- The rays of an episode's lanes end. -/
theorem State.endRays_of_episode {s : State} {x : Ex} {b : Block} {n : Nat} (a : Mask) (block : mget s.blocks x.gr.blk = some b)
    (episode : b.kind = .episode n) : s.endRays x a = { s with
      rays := (lanesOf a).foldl (fun m l => mdel m (rayKey x.gr.ctx (x.gr.lane l).ray.toNat)) s.rays } := by
  have taken : ∀ (ls : List Nat) (s : State),
      ls.foldl (fun s l => { s with rays := mdel s.rays (rayKey x.gr.ctx (x.gr.lane l).ray.toNat) }) s =
        { s with rays := ls.foldl (fun m l => mdel m (rayKey x.gr.ctx (x.gr.lane l).ray.toNat)) s.rays } := fun ls => by
    induction ls with
    | nil => exact fun _ => rfl
    | cons l t ih => exact fun s => ih _
  rw [State.endRays, State.blockOf, block]
  dsimp only
  rw [episode]
  exact taken _ s

/-! ### The end of a group -/

/-- Its last lanes gone, a group that holds no object and whose block keeps no slot frees its slot, and its block notes it. -/
theorem State.endGroup_of_plain {s : State} {x : Ex} {b : Block} (block : mget s.blocks x.gr.blk = some b) (plain : b.joins = none)
    (holds : x.gr.holds = []) : s.endGroup x =
      (s.modBlock x.gr.blk fun b => { b with ended := b.ended ++ [x.gr.idx] }).modCore x.core fun k =>
        { k with groups := mdel k.groups x.slot } := by
  have noted : (s.modBlock x.gr.blk fun b => { b with ended := b.ended ++ [x.gr.idx] }).keepsSlot x.gr = false := by
    rw [State.keepsSlot, State.blockOf, State.modBlock, mget_mmod_same, block]
    show b.joins.isSome = false
    rw [plain]; rfl
  rw [State.endGroup, holds]
  show (if (s.modBlock x.gr.blk _).keepsSlot x.gr = true then _ else _) = _
  rw [noted]
  rfl

theorem State.group_modCore_mdel (s : State) (c k c' k' : Nat) :
    (s.modCore c fun u => { u with groups := mdel u.groups k }).group c' k' = if c' = c ∧ k' = k then none else s.group c' k' := by
  obtain rfl | hc := eq_or_ne c' c
  · simp [State.group, mget_mdel]
  · simp [State.group, State.core_modCore_ne _ _ hc, hc]

/-! ### Two splits merged -/

/-- The group of two READY splits that merge: the split of entry `e` has the lanes of both (R85). -/
def Group.merged (g : Group) (e f : Nat) (a b : Split) : Group := { g with
  splits := mset (mdel g.splits f) e { a with
    mask := a.mask ||| b.mask, wins := [], jumped := a.jumped || b.jumped, since := max a.since b.since,
    notBefore := max a.notBefore b.notBefore, yield := a.yield.orElse fun _ => b.yield } }

end Sys2Proof.Machine

namespace Sys2Proof.Claims
open Sys2Proof.Machine

/-- A change of one group of a split that is named by its place. -/
theorem OnlyGroup.of_modGroup_at {s : State} {x : Ex} (f : Group → Group) (here : s.group x.core x.slot = some x.gr) :
    OnlyGroup s (s.modGroup x.core x.slot f) x (f x.gr) where
  group := by rw [State.group_modGroup, if_pos ⟨rfl, rfl⟩, here]; rfl
  others c k other := by rw [State.group_modGroup, if_neg other]
  cores := s.core_modGroup x.core x.slot f
  memory _ := rfl
  rest := rfl

/-- One change of a group after another. -/
theorem OnlyGroup.modGroup {s t : State} {x : Ex} {g : Group} (h : OnlyGroup s t x g) (f : Group → Group) :
    OnlyGroup s (t.modGroup x.core x.slot f) x (f g) where
  group := by rw [State.group_modGroup, if_pos ⟨rfl, rfl⟩, h.group]; rfl
  others c k other := by rw [State.group_modGroup, if_neg other]; exact h.others c k other
  cores c := (t.core_modGroup x.core x.slot f c).trans (h.cores c)
  memory := h.memory
  rest := h.rest

/-- An instruction that goes on, and changes its split alone. -/
theorem changes_of_done {i : Instr} {s : State} {x : Ex} {n : Nat} {f : Split → Split} (running : s.running = some x)
    (run : exec i s = .next ((s.done x n id).modGroup x.core x.slot fun g => g.modSplit x.entry f)) :
    ∃ t g, exec i s = .next t ∧ OnlyGroup s t x g ∧
      mget g.splits x.entry = (mget x.gr.splits x.entry).map (fun sp => f (moved n sp)) ∧
      (∀ k, k ≠ x.entry → mget g.splits k = mget x.gr.splits k) ∧ { g with splits := [] } = { x.gr with splits := [] } := by
  refine ⟨_, (x.gr.advance x.entry n).modSplit x.entry f, run, (OnlyGroup.of_done n id running).modGroup _, ?_, fun k hk => ?_, rfl⟩
  · refine (mget_mmod_same ..).trans ?_
    rw [Group.advance, Group.modSplit, mget_mmod_same, Option.map_map]
    rfl
  · refine (mget_mmod ..).trans ((if_neg hk).trans ?_)
    exact (mget_mmod ..).trans (if_neg hk)

theorem exAt_iff (s : State) (core slot entry : Nat) (x : Ex) : s.exAt core slot entry = some x ↔
    x.core = core ∧ x.slot = slot ∧ x.entry = entry ∧ s.group core slot = some x.gr ∧ mget x.gr.splits entry = some x.sp := by
  obtain ⟨c, k, e, g, sp⟩ := x
  unfold State.exAt
  constructor
  · intro h
    split at h
    · cases h
    · next hg =>
      split at h
      · cases h
      · next hs => cases h; exact ⟨rfl, rfl, rfl, hg, hs⟩
  · rintro ⟨rfl, rfl, rfl, hg, hs⟩
    simp only at hg hs
    simp [hg, hs]

/-- An event that changes one split alone. -/
theorem changes_of_event {s : State} {core slot entry : Nat} {x : Ex} {i : Instr} {f : Split → Split}
    (at_ : s.exAt core slot entry = some x)
    (run : exec i s = .next (s.modGroup core slot fun g => g.modSplit entry f)) :
    ∃ t g, exec i s = .next t ∧ OnlyGroup s t x g ∧ mget g.splits entry = (mget x.gr.splits entry).map f ∧
      (∀ k, k ≠ entry → mget g.splits k = mget x.gr.splits k) ∧ { g with splits := [] } = { x.gr with splits := [] } := by
  obtain ⟨rfl, rfl, rfl, group, -⟩ := (exAt_iff ..).1 at_
  exact ⟨_, _, run, OnlyGroup.of_modGroup_at _ group, mget_mmod_same .., fun k hk => (mget_mmod ..).trans (if_neg hk), rfl⟩

end Sys2Proof.Claims

namespace Sys2Proof.Proofs
open Sys2Proof Sys2Proof.Machine Sys2Proof.Claims

/-! ### EXIT, YIELD and NAP -/

section
variable {s : State} {x : Ex} (running : s.running = some x)
include running

theorem exec_exit (o : G0) (some : x.active o.g ≠ 0) (written : x.gr.pending (x.active o.g) = false) :
    exec (.exit o) s = exitLanes s x (x.active o.g) 4 fun s => s.endRays x (x.active o.g) := by
  show execExit o s = _
  rw [execExit, onSplit_running _ running]
  dsimp only
  rw [if_neg some, if_neg (by simp [written])]
theorem exec_exit_of_some (o : G0) (some : x.active o.g ≠ 0) (others : x.active o.g ≠ x.gr.live)
    (written : x.gr.pending (x.active o.g) = false) :
    exec (.exit o) s = .next ((s.endRays x (x.active o.g)).leaveLanes x (x.active o.g) 4) :=
  (exec_exit running o some written).trans (if_pos others)
theorem exec_exit_of_last (o : G0) (all : x.active o.g = x.gr.live) (live : x.gr.live ≠ 0) (written : x.gr.pending x.gr.live = false)
    (more : s.lastGroup x.gr = false) : exec (.exit o) s = .next ((s.endRays x (x.active o.g)).endGroup x) := by
  refine (exec_exit running o (all ▸ live) (all ▸ written)).trans ?_
  rw [exitLanes, if_neg (not_not.2 all), more]
  rfl

/-- The group after an exit of some of its lanes, from a state with the cores of the executing one. -/
theorem leaveLanes_frame {u : State} (cores : u.cores = s.cores) (run : u.run = s.run) (a : Mask) (n : Nat) :
    GroupAndCounters u (u.leaveLanes x a n) x (x.gr.left x.entry x.sp a n u.now) := by
  have same : u.running = some x := by
    rw [State.running_iff] at running ⊢
    rw [run, State.group, State.core, cores]
    exact running
  rw [State.leaveLanes_eq]
  exact ((GroupAndCounters.refl same).joined _).setGroup _

theorem exec_yield_of_some (o : G0) (some : x.active o.g ≠ 0) : exec (.yield o) s = .next (s.yields x 4) := by
  show execYield o s = _
  rw [execYield, onSplit_running _ running, if_neg some]
theorem exec_nap_of_some (o : B1) {l : Nat} (hl : Mask.has (x.active o.g) l = true)
    (least : ∀ k, k < l → Mask.has (x.active o.g) k = false) (count : (VSrc.val o.b (x.gr.lane l)).toNat % 65536 ≠ 0) :
    exec (.nap o) s = .next ((s.done x (VSrc.len o.b) id).modGroup x.core x.slot fun g => g.modSplit x.entry fun sp =>
      { sp with st := .nap (s.now + (VSrc.val o.b (x.gr.lane l)).toNat % 65536) }) := by
  show execNap o s = _
  rw [execNap, onSplit_running _ running]
  dsimp only
  rw [if_neg (Mask.ne_zero_of_has hl), lowest_eq hl least]
  exact if_neg count
end

theorem exitYieldAndNap : ExitYieldAndNap := by
  intro s x running ready sorted
  have here := ((s.running_iff x).1 running).2.2
  refine ⟨fun o some others written plain => ?exit, fun o b n some others written block episode => ?episode,
    fun o b all live written block kind more holds => ?last, fun o some => ?yield, fun o l hl least count => ?nap⟩
  case exit =>
    have run := exec_exit_of_some running o some others written
    rw [State.endRays_of_not _ plain] at run
    refine ⟨_, _, run, leaveLanes_frame running rfl rfl _ 4, Group.left_live .., fun n hn => ?_, ?_, Group.left_rest ..⟩
    · refine (Group.joinAt_congr (Group.left_joins ..) n).trans ?_
      rw [Group.joinAt_leaveJoins _ List.nodup_range, if_pos (List.mem_range.2 hn)]
    · rw [Group.mget_left sorted here ready, here]
      rfl
  case episode =>
    have run := exec_exit_of_some running o some others written
    have rays := State.endRays_of_episode (x.active o.g) block episode
    have frame := leaveLanes_frame running (u := s.endRays x (x.active o.g)) (by rw [rays]) (by rw [rays]) (x.active o.g) 4
    refine ⟨_, _, run, frame.group, Group.left_live .., ?_, fun c k hck => (frame.others c k hck).trans ?_, fun l hl => ?_⟩
    · rw [State.leaveLanes_eq, State.setGroup_mem, State.joined, State.bump_mem, rays]
    · rw [rays]; rfl
    · rw [State.leaveLanes_eq, State.setGroup_rays, State.joined, State.bump_rays, rays]
      refine (mget_foldl_mdel (fun l => rayKey x.gr.ctx (x.gr.lane l).ray.toNat) ..).trans (if_pos ?_)
      exact List.mem_map_of_mem ((mem_lanesOf _ l).2 hl)
  case last =>
    obtain ⟨n, kind⟩ := kind
    have not_last : s.lastGroup x.gr = false := by
      rw [State.lastGroup, State.blockOf, block]
      exact decide_eq_false (by omega)
    have no_rays : s.endRays x (x.active o.g) = s := State.endRays_of_not _ fun b' m hb' => by
      rw [block] at hb'
      rw [← Option.some.inj hb', kind]
      exact fun e => by cases e
    have plain : b.joins = none := by rw [Block.joins, kind]
    have run := exec_exit_of_last running o all live written not_last
    rw [no_rays, State.endGroup_of_plain block plain holds] at run
    refine ⟨_, { b with ended := b.ended ++ [x.gr.idx] }, run, ?_, ?_, rfl, rfl, rfl, fun c k hck => ?_⟩
    · rw [State.group_modCore_mdel, if_pos ⟨rfl, rfl⟩]
    · rw [State.modCore_blocks, State.modBlock, mget_mmod_same, block]
      rfl
    · rw [State.group_modCore_mdel, if_neg hck]
      rfl
  case yield => exact changes_of_done running (exec_yield_of_some running o some)
  case nap => exact changes_of_done running (exec_nap_of_some running o hl least count)

/-! ### The ends of naps and yields, and the merge -/

theorem napsAndYieldsEnd : NapsAndYieldsEnd := by
  intro s core slot entry x at_
  refine ⟨fun u nap due => ?_, fun u nap early => ?_, fun u l yield due => ?_, fun u l yield early => ?_⟩
  · refine changes_of_event at_ ?_
    show execNapExpiry core slot entry s = _
    simp only [execNapExpiry, at_, nap, if_pos due]
  · show execNapExpiry core slot entry s = _
    simp only [execNapExpiry, at_, nap, if_neg early.not_ge]
  · refine changes_of_event at_ ?_
    show execYieldTimeout core slot entry s = _
    simp only [execYieldTimeout, at_, yield, if_pos due]
  · show execYieldTimeout core slot entry s = _
    simp only [execYieldTimeout, at_, yield, if_neg early.not_ge]

/-- Lanes that belong to the same joins have one membership vector. -/
theorem sameMembers {g : Group} {m : Mask} (same : ∀ l k n, Mask.has m l = true → Mask.has m k = true →
    Mask.has (g.joinAt n).arm l = Mask.has (g.joinAt n).arm k) : ((lanesOf m).all fun l => g.member l == g.member (lowest m)) = true := by
  refine List.all_eq_true.2 fun l hl => beq_iff_eq.2 ?_
  have inside := (mem_lanesOf m l).1 hl
  exact List.map_congr_left fun n _ => same l (lowest m) n inside (has_lowest inside).1

theorem opportunisticMergeJoinsTwoSplits : OpportunisticMergeJoinsTwoSplits := by
  intro s core slot e f g a b group ha hb lt readyA readyB pc same written trap halfA halfB latchA latchB holderE holderF
  have run : exec (.opportunisticMerge core slot e f) s = .next ((s.bump core .splopm).modGroup core slot fun g => g.merged e f a b) := by
    show execOpportunisticMerge core slot e f s = _
    simp only [execOpportunisticMerge, group, ha, hb]
    exact if_pos ⟨lt, readyA, readyB, pc, sameMembers same, written, trap, halfA, halfB, latchA, latchB, holderE, holderF⟩
  refine ⟨_, g.merged e f a b, run, ?_, ?_, ?_, fun k hk hk' => ?_, rfl, ?_, fun c k hck => ?_, ?_⟩
  · rw [State.group_modGroup, if_pos ⟨rfl, rfl⟩, State.group_bump, group]
    rfl
  · exact (mget_mset_ne _ _ lt.ne').trans ((mget_mdel ..).trans (if_pos rfl))
  · refine ⟨_, mget_mset_same .., ?_, ?_, ?_⟩
    · rfl
    · rfl
    · exact readyA
  · exact (mget_mset_ne _ _ hk).trans ((mget_mdel ..).trans (if_neg hk'))
  · exact State.bump_mem ..
  · rw [State.group_modGroup, if_neg hck, State.group_bump]
  · exact State.rest_bump ..

/-- Settles O16: what each of them changes of its split and its group, and when an end is due. -/
theorem exitsNapsYieldsAndMerges : Obligations.ExitsNapsYieldsAndMerges :=
  ⟨exitYieldAndNap, napsAndYieldsEnd, opportunisticMergeJoinsTwoSplits⟩

end Sys2Proof.Proofs
end

section
/-! The special values that MOVS and UMOVS read, and the halves that they latch (R127 to R129). -/
namespace Sys2Proof.Machine

/-- The latches after a read of a selector. -/
def latched (s : State) (x : Ex) (sel : Nat) (u : Uniform) : Uniform := { u with
  clkHi := if sel = 13 then some (hiOf (s.clk x.core)) else u.clkHi
  ptsHi := if sel = 32 then some (toW (s.pts x.core x.gr.ctx / 2 ^ 32)) else u.ptsHi }

theorem latch_eq_modUni (s : State) (x : Ex) (sel : Nat) (g : Group) : latch s x sel g = g.modUni (latched s x sel) := by
  unfold latch latched
  by_cases clk : sel = 13
  · subst clk; rfl
  · by_cases pts : sel = 32
    · subst pts; rfl
    · simp [clk, pts, Group.modUni]

/-- What a selector gives for a lane is what R128 lists for it. -/
theorem reads_specialVal (s : State) (x : Ex) (act : Mask) (fl : BitVec 6) {l : Nat} (lane : l < 8) (sel : Nat) :
    Claims.Reads s x act fl l sel (specialVal s x act fl l sel) := by
  have number : (toW l).toNat = l := by rw [toW, BitVec.toNat_ofNat]; omega
  have clk : Claims.Reads s x act fl l 14 (specialVal s x act fl l 14) := fun h latched => by simp [specialVal, latched]
  have pts : Claims.Reads s x act fl l 33 (specialVal s x act fl l 33) := fun h latched => by simp [specialVal, latched]
  unfold Claims.Reads at clk pts ⊢
  dsimp only at clk pts ⊢
  split
  case h_1 => exact number
  case h_9 => exact clk
  case h_22 => exact pts
  all_goals trivial

end Sys2Proof.Machine

namespace Sys2Proof.Proofs
open Sys2Proof Sys2Proof.Machine Sys2Proof.Claims

section
variable {s : State} {x : Ex} (running : s.running = some x)
include running

theorem exec_movs_of_none (o : MovsO) (none : x.active o.g = 0) : exec (.movs o) s = .next (s.done x 4 id) := by
  show execMovs o s = _
  rw [execMovs, onSplit_running _ running]
  simp only [none, if_true]
  rfl
theorem exec_movs_of_some (o : MovsO) (some : x.active o.g ≠ 0) : exec (.movs o) s =
    .next (s.done x 4 fun g => (g.modUni (latched s x o.s.toNat)).modLanes (x.active o.g) fun l ln =>
      ln.setV o.d.toNat (specialVal s x (x.active o.g) (x.gr.lane l).flags l o.s.toNat)) := by
  show execMovs o s = _
  rw [execMovs, onSplit_running _ running]
  simp only [if_neg some, latch_eq_modUni]
theorem exec_umovs (o : U2) : exec (.umovs o) s = .next (s.done x 4 fun g => g.modUni fun u =>
    (latched s x o.a.toNat u).setS o.d.toNat (specialVal s x x.sp.mask x.gr.uni.flags (lowest x.sp.mask) o.a.toNat)) := by
  show execUmovs o s = _
  rw [execUmovs, onSplit_running _ running]
  simp only [latch_eq_modUni]
  rfl
end

/-- Settles O9: the value of each selector, and the latches of the two that sample. -/
theorem specialValueReads : Obligations.SpecialValueReads := by
  intro s x running
  refine ⟨fun o => ?movs, fun o => ?umovs⟩
  case movs =>
    by_cases idle : x.active o.g = 0
    · exact ⟨_, _, exec_movs_of_none running o idle, OnlyGroup.of_done 4 id running, Advances.of_advance x.entry 4 rfl,
        fun _ _ => rfl, fun l hl => absurd idle (Mask.ne_zero_of_has hl), rfl, fun _ some => absurd idle some, fun _ => rfl, fun _ => rfl⟩
    · refine ⟨_, _, exec_movs_of_some running o idle, OnlyGroup.of_done 4 _ running,
        Advances.of_advance x.entry 4 (Group.splits_modLanes ..), fun l hl => ?_, fun l hl => ?_, ?_, fun clk _ => ?_, fun clk => ?_,
        fun pts => ?_⟩
      · exact (Group.lane_modLanes ..).trans (if_neg (by simp [hl]))
      · refine ⟨_, ?_, reads_specialVal s x _ _ (Mask.lt_of_has hl) _⟩
        have written := Group.lane_modLanes (x.gr.modUni (latched s x o.s.toNat)) (x.active o.g) (fun l ln =>
          ln.setV o.d.toNat (specialVal s x (x.active o.g) (x.gr.lane l).flags l o.s.toNat)) l
        rw [if_pos hl] at written
        exact written ▸ SetsReg.of_setV (x.gr.lane l) _ _
      · exact congrArg (fun g : Group => { g with splits := [], uni := { g.uni with clkHi := none, ptsHi := none } })
          (Group.rest_modLanes ..)
      · exact (congrArg Uniform.clkHi (Group.uni_modLanes ..)).trans (if_pos clk)
      · exact (congrArg Uniform.clkHi (Group.uni_modLanes ..)).trans (if_neg clk)
      · exact (congrArg Uniform.ptsHi (Group.uni_modLanes ..)).trans (if_neg pts)
  case umovs =>
    refine ⟨_, _, exec_umovs running o, OnlyGroup.of_done 4 _ running, Advances.of_advance x.entry 4 rfl,
      ⟨_, SetsS.of_setS { x.gr.uni with clkHi := none, ptsHi := none } _ _, fun l hl least => ?_⟩, rfl,
      fun clk => if_pos clk, fun clk => if_neg clk, fun pts => if_neg pts, fun pts => if_pos pts⟩
    rw [lowest_eq hl least]
    exact reads_specialVal s x _ _ (Mask.lt_of_has hl) _

end Sys2Proof.Proofs
end

section
/-! The moving window of a lane, and the words that the PSE moves for it (R115 to R117, R121, R124). -/
namespace Sys2Proof.Machine

/-! ### Registers of a lane -/

theorem mgetD_mkeep_keys {α : Type} (m : Map α) (f : Nat → Bool) (k : Nat) (d : α) :
    mgetD (mkeep m fun a _ => f a) k d = if f k = true then mgetD m k d else d := by
  rw [mgetD, mget_mkeep_keys]
  split <;> rfl

theorem Lane.rest_setVs (ln : Lane) (r : Nat) (ws : List Word) : { ln.setVs r ws with regs := [] } = { ln with regs := [] } := by
  induction ws generalizing ln r with
  | nil => rfl
  | cons w t ih => exact (ih (ln.setV r w) (r + 1)).trans rfl
/-- A run of registers that are zeroed. -/
theorem Lane.regs_setVs_zeros (ln : Lane) (r n i : Nat) : mgetD (ln.setVs r (List.replicate n 0)).regs i 0 =
    if ln.wb + r ≤ i ∧ i < ln.wb + r + n then 0 else mgetD ln.regs i 0 := by
  induction n generalizing ln r with
  | zero => exact (if_neg (by omega)).symm
  | succ n ih =>
    rw [List.replicate_succ, Lane.setVs, ih, Lane.setV_wb, Lane.regs_setV]
    obtain before | rfl | after := lt_trichotomy i (ln.wb + r)
    · rw [if_neg (by omega), if_neg (by omega), if_neg (by omega)]
    · rw [if_neg (by omega), if_pos rfl, if_pos (by omega)]
    · exact if_congr (by omega) rfl (if_neg (by omega))

/-! ### The window after a call and after a return -/

/-- The link word of a call of k (R121). -/
def callLink (ret : DWord) (k : Nat) : Word := (loOf ret &&& 0xFFFFFFFC) + toW (k / 8)

/-- A call changes the window base, the resident range and registers of a lane, and nothing else of it. -/
theorem Lane.rest_called (ln : Lane) (k lo : Nat) (ret : DWord) :
    { ln.called k lo ret with regs := [] } = { ln with wb := ln.wb + k, stk := lo, regs := [] } := Lane.rest_setVs ..
/-- The logical words of a lane after a call: the link on top of the new window, zeroes from the end of the old window up to it, and
below that what was resident and stays so. -/
theorem Lane.regs_called (ln : Lane) {k : Nat} (lo : Nat) (ret : DWord) (moves : 1 ≤ k) (window : k ≤ 32) (i : Nat) :
    mgetD (ln.called k lo ret).regs i 0 = if i = ln.wb + k + 31 then callLink ret k
      else if ln.wb + 32 ≤ i ∧ i < ln.wb + k + 31 then 0 else if lo ≤ i then mgetD ln.regs i 0 else 0 := by
  have base : ∀ (l : Lane) (r : Nat) (ws : List Word), (l.setVs r ws).wb = l.wb := fun l r ws =>
    (congrArg Lane.wb (l.rest_setVs r ws) :)
  have kept := mgetD_mkeep_keys ln.regs (fun i => decide (lo ≤ i)) i 0
  unfold Lane.called
  rw [Lane.regs_setV, base, Lane.regs_setVs_zeros, kept, callLink]
  have zeroed : (ln.wb + k + (32 - k) ≤ i ∧ i < ln.wb + k + (32 - k) + (k - 1)) ↔ (ln.wb + 32 ≤ i ∧ i < ln.wb + k + 31) := by omega
  simp only [zeroed, decide_eq_true_eq]

section
variable (ln : Lane) (k lo : Nat) (ret : DWord)
@[simp] theorem Lane.called_wb : (ln.called k lo ret).wb = ln.wb + k := (congrArg Lane.wb (ln.rest_called k lo ret) :)
@[simp] theorem Lane.called_stk : (ln.called k lo ret).stk = lo := (congrArg Lane.stk (ln.rest_called k lo ret) :)
@[simp] theorem Lane.called_preds : (ln.called k lo ret).preds = ln.preds := (congrArg Lane.preds (ln.rest_called k lo ret) :)
@[simp] theorem Lane.called_flags : (ln.called k lo ret).flags = ln.flags := (congrArg Lane.flags (ln.rest_called k lo ret) :)
end
section
variable (ln : Lane) {k : Nat} (lo : Nat) (ret : DWord) (moves : 1 ≤ k) (window : k ≤ 32)
include moves window

theorem Lane.v_called_link : (ln.called k lo ret).v 31 = callLink ret k := by
  rw [Lane.v, Lane.called_wb, ln.regs_called lo ret moves window, if_pos rfl]
theorem Lane.v_called_new {r : Nat} (new : 32 - k ≤ r) (below : r < 31) : (ln.called k lo ret).v r = 0 := by
  rw [Lane.v, Lane.called_wb, ln.regs_called lo ret moves window, if_neg (by omega), if_pos (by omega)]
/-- What was resident in the old window has its old value under its old logical number. -/
theorem Lane.regs_called_resident {r : Nat} (old : r < 32) (resident : lo ≤ ln.wb + r) :
    mgetD (ln.called k lo ret).regs (ln.wb + r) 0 = ln.v r := by
  rw [ln.regs_called lo ret moves window, if_neg (by omega), if_neg (by omega), if_pos resident, Lane.v]
/-- Of it, what the new window shows stands k registers lower. -/
theorem Lane.v_called_shared {r : Nat} (shared : r < 32 - k) (resident : lo ≤ ln.wb + k + r) :
    (ln.called k lo ret).v r = ln.v (k + r) := by
  rw [Lane.v, Lane.called_wb, Nat.add_assoc]
  exact ln.regs_called_resident lo ret moves window (by omega) (by omega)
end

/-- Bits [1:0] of a word. -/
theorem toNat_and_three (w : Word) : (w &&& 3).toNat = (w.extractLsb' 0 2).toNat := by
  rw [BitVec.toNat_and, BitVec.extractLsb'_toNat, Nat.shiftRight_zero]
  exact Nat.and_two_pow_sub_one_eq_mod w.toNat 2
theorem Lane.retWb_eq (ln : Lane) : ln.retWb = ln.wb - 8 * (ln.v 31 &&& 3).toNat := by
  rw [Lane.retWb, toNat_and_three]
theorem Lane.retCause_eq (ln : Lane) : ln.retCause =
    if ln.v 31 &&& 3 = 0 then 7 else if ln.wb < 8 * (ln.v 31 &&& 3).toNat then 8 else 0 := by
  have zero : (ln.v 31).extractLsb' 0 2 = 0 ↔ ln.v 31 &&& 3 = 0 := by
    rw [← BitVec.toNat_inj, ← BitVec.toNat_inj, toNat_and_three]; rfl
  simp only [Lane.retCause, zero, toNat_and_three]

/-- A return keeps the words below the end of the new window. -/
theorem Lane.regs_returned (ln : Lane) (wb i : Nat) :
    mgetD (ln.returned wb).regs i 0 = if i < wb + 32 then mgetD ln.regs i 0 else 0 := by
  refine (mgetD_mkeep_keys ln.regs (fun i => decide (i < wb + 32)) i 0).trans ?_
  simp only [decide_eq_true_eq]

/-! ### The words of the PSE -/

theorem mem_wordRange {l lo hi j i : Nat} : (j, i) ∈ wordRange l lo hi ↔ j = l ∧ lo ≤ i ∧ i < hi := by
  simp only [wordRange, List.mem_map, List.mem_range, Prod.mk.injEq]
  constructor
  · rintro ⟨n, hn, rfl, rfl⟩; omega
  · rintro ⟨rfl, hlo, hhi⟩; exact ⟨i - lo, by omega, rfl, by omega⟩
/-- The words of the lanes of a mask, each from one bound to another. -/
def laneWords (a : Mask) (lo hi : Nat → Nat) : Words := (lanesOf a).flatMap fun l => wordRange l (lo l) (hi l)
theorem mem_laneWords {a : Mask} {lo hi : Nat → Nat} {l i : Nat} :
    (l, i) ∈ laneWords a lo hi ↔ Mask.has a l = true ∧ lo l ≤ i ∧ i < hi l := by
  simp only [laneWords, List.mem_flatMap, mem_lanesOf, mem_wordRange]
  constructor
  · rintro ⟨j, hj, rfl, hi⟩; exact ⟨hj, hi⟩
  · rintro ⟨hl, hi⟩; exact ⟨l, hl, rfl, hi⟩
theorem laneWords_eq_nil {a : Mask} {lo hi : Nat → Nat} (none : ∀ l, Mask.has a l = true → hi l ≤ lo l) : laneWords a lo hi = [] :=
  List.eq_nil_iff_forall_not_mem.2 fun ⟨l, i⟩ h => by
    obtain ⟨hl, low, high⟩ := mem_laneWords.1 h
    have := none l hl
    omega

@[simp] theorem State.still_pseWord (s : State) (ctx area : Nat) (write : Bool) (p : Nat × Nat) :
    (s.pseWord ctx area write p).2.still = s.still := by
  have walked (va : Nat) : (s.walkAndTell ctx va).2.still = s.still := s.still_agentTranslate ctx va {}
  unfold State.pseWord
  dsimp only
  split
  · next e => exact State.still_of_snd e (walked _)
  · next e =>
    split
    · exact State.still_of_snd e (walked _)
    split <;> exact State.still_of_snd e (walked _)
@[simp] theorem State.still_pseWords (s : State) (ctx area : Nat) (write : Bool) (ws : Words) :
    (s.pseWords ctx area write ws).2.still = s.still := by
  induction ws generalizing s with
  | nil => rfl
  | cons p t ih =>
    rw [State.pseWords]
    split <;> exact (ih _).trans (s.still_pseWord ..)
@[simp] theorem State.still_pseStore (s : State) (ctx p : Nat) (g : Group) (ws : Words) (pas : List (Nat × Nat)) :
    (s.pseStore ctx p g ws pas).still = s.still := by
  induction ws generalizing s pas with
  | nil => rfl
  | cons w t ih =>
    cases pas with
    | nil => rfl
    | cons a r => exact (ih ..).trans (s.still_agentStore ..)
@[simp] theorem State.still_pseLoad (s : State) (ctx : Nat) (g : Group) (ws : Words) (pas : List (Nat × Nat)) :
    (s.pseLoad ctx g ws pas).2.still = s.still := by
  induction ws generalizing s g pas with
  | nil => rfl
  | cons w t ih =>
    cases pas with
    | nil => rfl
    | cons a r => exact (ih ..).trans (s.still_agentLine ..)

/-- Of a group, registers at some logical words alone have changed. -/
structure FilledAt (g g' : Group) (ws : Words) : Prop where
  rest : { g' with lanes := [] } = { g with lanes := [] }
  lane : ∀ l, { g'.lane l with regs := [] } = { g.lane l with regs := [] }
  regs : ∀ l i, (l, i) ∉ ws → mgetD (g'.lane l).regs i 0 = mgetD (g.lane l).regs i 0
  others : ∀ l, (∀ i, (l, i) ∉ ws) → g'.lane l = g.lane l

theorem FilledAt.refl (g : Group) (ws : Words) : FilledAt g g ws := ⟨rfl, fun _ => rfl, fun _ _ _ => rfl, fun _ _ => rfl⟩
theorem FilledAt.cons {g g' : Group} {l i : Nat} {w : Word} {ws : Words}
    (h : FilledAt (g.modLane l fun ln => { ln with regs := mput 0 ln.regs i w }) g' ws) : FilledAt g g' ((l, i) :: ws) where
  rest := h.rest
  lane k := (h.lane k).trans (by
    rw [Group.lane_modLane]
    split
    · next e => rw [e]
    · rfl)
  regs k j out := by
    rw [List.mem_cons, not_or] at out
    rw [h.regs k j out.2, Group.lane_modLane]
    split
    · next e =>
      subst e
      exact (mgetD_mput ..).trans (if_neg fun e => out.1 (by rw [e]))
    · rfl
  others k out := by
    rw [h.others k fun j hj => out j (List.mem_cons_of_mem _ hj), Group.lane_modLane,
      if_neg fun e => out i (by rw [e]; exact List.mem_cons_self ..)]
/-- Words that are read back change the registers that they name. -/
theorem FilledAt.of_pseLoad (s : State) (ctx : Nat) (g : Group) (ws : Words) (pas : List (Nat × Nat)) :
    FilledAt g (s.pseLoad ctx g ws pas).1 ws := by
  induction ws generalizing s g pas with
  | nil => exact .refl ..
  | cons p t ih =>
    cases pas with
    | nil => exact .refl ..
    | cons a r => exact .cons (ih ..)

end Sys2Proof.Machine
end

section
/-! CALL, CALLX and RET: the checks, the spill or the fill, and where the lanes go (R98, R121 to R124). -/
namespace Sys2Proof.Machine

/-! ### A target for each lane -/

/-- The active lanes with their targets. -/
def laneTargets (a : Mask) (tgt : Nat → DWord) : List (Nat × DWord) := (lanesOf a).map fun l => (l, tgt l)

theorem forall_laneTargets {a : Mask} {tgt : Nat → DWord} {p : Nat × DWord → Prop} :
    (∀ q ∈ laneTargets a tgt, p q) ↔ ∀ l, Mask.has a l = true → p (l, tgt l) := by
  simp only [laneTargets, List.forall_mem_map, mem_lanesOf]
/-- The lanes whose targets pass a test. -/
theorem maskOf_laneTargets {a m : Mask} {tgt : Nat → DWord} {f : DWord → Bool}
    (lanes : ∀ k, Mask.has m k = true ↔ Mask.has a k = true ∧ f (tgt k) = true) :
    maskOf (((laneTargets a tgt).filter fun p => f p.2).map Prod.fst) = m :=
  Mask.ext_has fun k => (has_maskOf_targets a tgt f k).trans (lanes k).symm

theorem targetFault_laneTargets_of_good {s : State} {x : Ex} {a : Mask} {tgt : Nat → DWord} (w : Word)
    (good : ∀ l, Mask.has a l = true → (tgt l).toNat % 4 = 0 ∧ canonical (tgt l) = true) :
    targetFault s x w (laneTargets a tgt) = none :=
  targetFault_of_good w (forall_laneTargets.2 fun l hl => (good l hl).1) (forall_laneTargets.2 fun l hl => (good l hl).2)
theorem targetFault_laneTargets_of_misaligned {s : State} {x : Ex} {a m : Mask} {tgt : Nat → DWord} (w : Word) {l : Nat}
    (hl : Mask.has m l = true) (lanes : ∀ k, Mask.has m k = true ↔ Mask.has a k = true ∧ (tgt k).toNat % 4 ≠ 0) :
    targetFault s x w (laneTargets a tgt) = some (trapAt s x 7 m w 0) := by
  obtain ⟨active, misaligned⟩ := (lanes l).1 hl
  have member : (l, tgt l) ∈ laneTargets a tgt := List.mem_map_of_mem ((mem_lanesOf a l).2 active)
  rw [targetFault_of_misaligned w member misaligned,
    maskOf_laneTargets (f := fun w => w.extractLsb' 0 2 != 0) fun k => (lanes k).trans (and_congr_right fun _ => (misaligned_iff _).symm)]
theorem targetFault_laneTargets_of_bad {s : State} {x : Ex} {a m : Mask} {tgt : Nat → DWord} (w : Word) {l : Nat}
    (hl : Mask.has m l = true) (least : ∀ k, k < l → Mask.has m k = false)
    (aligned : ∀ k, Mask.has a k = true → (tgt k).toNat % 4 = 0)
    (lanes : ∀ k, Mask.has m k = true ↔ Mask.has a k = true ∧ canonical (tgt k) = false) :
    targetFault s x w (laneTargets a tgt) = some (trapAt s x 5 m (loOf (tgt l)) (hiOf (tgt l))) := by
  have lanes' : ∀ k, Mask.has m k = true ↔ Mask.has a k = true ∧ (!canonical (tgt k)) = true :=
    fun k => (lanes k).trans (and_congr_right fun _ => by simp)
  rw [targetFault_of_bad w (forall_laneTargets.2 aligned) (head?_targets (f := fun w => !canonical w) lanes' hl least),
    maskOf_laneTargets (f := fun w => !canonical w) lanes']

/-- The lanes of a mask that pass a test, from the first one on. -/
theorem filter_lanesOf_eq_cons {a : Mask} {f : Nat → Bool} {l : Nat} (hl : Mask.has a l = true) (passes : f l = true)
    (first : ∀ k, k < l → Mask.has a k = true → f k = false) : ∃ rest, (lanesOf a).filter f = l :: rest := by
  rw [← List.head?_eq_some_iff, lanesOf, List.filter_filter, List.head?_filter, List.find?_range_eq_some]
  refine ⟨by simp [passes, hl], List.mem_range.2 (Mask.lt_of_has hl), fun k hk => ?_⟩
  cases inside : Mask.has a k with
  | false => simp
  | true => simp [first k hk inside]

/-! ### The checks of a call, and what it leaves (R121) -/

/-- The resident range that each lane needs for a call of k in a stack of S words. -/
def Group.needs (g : Group) (k S l : Nat) : Nat := (g.lane l).needs k S
/-- The words that a call spills. -/
def Group.spillWords (g : Group) (a : Mask) (k S : Nat) : Words := laneWords a (fun l => (g.lane l).stk) (g.needs k S)
/-- The group with the windows of its active lanes moved up. -/
def Group.called (g : Group) (a : Mask) (k S : Nat) (ret : DWord) : Group := g.modLanes a fun l ln => ln.called k (g.needs k S l) ret
/-- The machine after the spill of a call. -/
def State.spilled (s : State) (x : Ex) (a : Mask) (k S : Nat) : State :=
  let ws := x.gr.spillWords a k S
  let r := s.pseWords x.gr.ctx (s.spillArea x.gr.ctx x.core x.slot) true ws
  (r.2.pseStore x.gr.ctx (r.2.pts x.core x.gr.ctx) x.gr ws r.1.2).bump x.core .spillw ws.length

theorem State.still_spilled (s : State) (x : Ex) (a : Mask) (k S : Nat) : (s.spilled x a k S).still = s.still := by
  simp [State.spilled]
theorem State.spilled_of_resident (s : State) {x : Ex} {a : Mask} {k S : Nat}
    (resident : ∀ l, Mask.has a l = true → x.gr.needs k S l = (x.gr.lane l).stk) : s.spilled x a k S = s := by
  have none : x.gr.spillWords a k S = [] := laneWords_eq_nil fun l hl => (resident l hl).le
  rw [State.spilled, none]
  rfl

theorem foldl_max_le_iff {ls : List Nat} (f : Nat → Nat) (a n : Nat) :
    ls.foldl (fun m l => max m (f l)) a ≤ n ↔ a ≤ n ∧ ∀ l ∈ ls, f l ≤ n := by
  induction ls generalizing a with
  | nil => simp
  | cons l t ih => rw [List.foldl_cons, ih, max_le_iff, List.forall_mem_cons, and_assoc]
/-- The largest value over the lanes of a mask. -/
theorem foldl_max_lanesOf {a : Mask} (f : Nat → Nat) {l : Nat} (hl : Mask.has a l = true)
    (most : ∀ j, Mask.has a j = true → f j ≤ f l) : (lanesOf a).foldl (fun m l => max m (f l)) 0 = f l := by
  refine eq_of_forall_ge_iff fun n => ?_
  rw [foldl_max_le_iff]
  simp only [mem_lanesOf]
  exact ⟨fun h => h.2 l hl, fun h => ⟨Nat.zero_le n, fun j hj => (most j hj).trans h⟩⟩

/-- A target lies outside the region of a return address. -/
def outside (ret w : DWord) : Bool := hiOf w != hiOf ret
/-- Targets in the region of the next instruction pass the first check. -/
theorem filter_far_eq_nil {a : Mask} {tgt : Nat → DWord} {ret : DWord} (near : ∀ l, Mask.has a l = true → hiOf (tgt l) = hiOf ret) :
    (laneTargets a tgt).filter (fun p => hiOf p.2 != hiOf ret) = [] :=
  List.filter_eq_nil_iff.2 (forall_laneTargets.2 fun l hl => by simp [near l hl])

section
variable {s : State} {x : Ex} {b : Block} {a : Mask} {k : Nat} {tgt : Nat → DWord} (block : mget s.blocks x.gr.blk = some b)
include block

theorem enterCall_of_far {m : Mask} {l : Nat} (hl : Mask.has m l = true) (least : ∀ j, j < l → Mask.has m j = false)
    (lanes : ∀ j, Mask.has m j = true ↔ Mask.has a j = true ∧ hiOf (tgt j) ≠ hiOf (Pc.addr (Pc.plus x.sp.pc 4))) :
    enterCall s x a k (laneTargets a tgt) = trapAt s x 5 m (loOf (tgt l)) (hiOf (tgt l)) := by
  have lanes' : ∀ j, Mask.has m j = true ↔ Mask.has a j = true ∧ outside (Pc.addr (Pc.plus x.sp.pc 4)) (tgt j) = true := fun j =>
    (lanes j).trans (and_congr_right fun _ => bne_iff_ne.symm)
  have mask := maskOf_laneTargets lanes'
  obtain ⟨rest, cons⟩ := List.head?_eq_some_iff.1 (head?_targets lanes' hl least)
  have cons : (laneTargets a tgt).filter (fun p => outside (Pc.addr (Pc.plus x.sp.pc 4)) p.2) = (l, tgt l) :: rest := cons
  rw [cons] at mask
  unfold outside at cons
  simp only [enterCall, State.blockOf, block]
  rw [cons]
  exact congrArg (fun m => trapAt s x 5 m (loOf (tgt l)) (hiOf (tgt l))) mask

variable (near : ∀ l, Mask.has a l = true → hiOf (tgt l) = hiOf (Pc.addr (Pc.plus x.sp.pc 4)))
include near

theorem enterCall_of_deep {m : Mask} {l : Nat} (some : m ≠ 0)
    (lanes : ∀ j, Mask.has m j = true ↔ Mask.has a j = true ∧ b.limit < x.gr.needs k b.stack j) (hl : Mask.has a l = true)
    (most : ∀ j, Mask.has a j = true → x.gr.needs k b.stack j ≤ x.gr.needs k b.stack l) :
    enterCall s x a k (laneTargets a tgt) = trapAt s x 8 m (toW (x.gr.needs k b.stack l)) (toW b.limit) := by
  have deep : ∀ j, j ∈ (lanesOf a).filter (fun l => decide (x.gr.needs k b.stack l > b.limit)) ↔ Mask.has m j = true := fun j => by
    rw [List.mem_filter, mem_lanesOf, decide_eq_true_eq]
    exact (lanes j).symm
  have mask : maskOf ((lanesOf a).filter fun l => decide (x.gr.needs k b.stack l > b.limit)) = m := Mask.ext_has fun j => by
    rw [Mask.has_maskOf, deep]
    exact and_iff_right_of_imp Mask.lt_of_has
  obtain ⟨j, hj⟩ := Mask.exists_has some
  simp only [enterCall, State.blockOf, block, filter_far_eq_nil near]
  exact (if_pos (List.ne_nil_of_mem ((deep j).2 hj))).trans
    (congrArg₂ (fun m n => trapAt s x 8 m (toW n) (toW b.limit)) mask (foldl_max_lanesOf _ hl most))

theorem enterCall_of_room (room : ∀ l, Mask.has a l = true → x.gr.needs k b.stack l ≤ b.limit)
    (mapped : (s.pseWords x.gr.ctx (s.spillArea x.gr.ctx x.core x.slot) true (x.gr.spillWords a k b.stack)).1.1 = []) :
    enterCall s x a k (laneTargets a tgt) = .next ((s.spilled x a k b.stack).divide x
      (x.gr.called a k b.stack (Pc.addr (Pc.plus x.sp.pc 4))) (x.targets a (laneTargets a tgt) 4)) := by
  have none : (lanesOf a).filter (fun l => decide (x.gr.needs k b.stack l > b.limit)) = [] :=
    List.filter_eq_nil_iff.2 fun l hl => by simpa using room l ((mem_lanesOf a l).1 hl)
  rcases words : s.pseWords x.gr.ctx (s.spillArea x.gr.ctx x.core x.slot) true (x.gr.spillWords a k b.stack) with ⟨⟨fs, pas⟩, u⟩
  rw [words] at mapped
  obtain rfl : fs = [] := mapped
  simp only [enterCall, State.blockOf, block, filter_far_eq_nil near]
  refine (if_neg (not_not.2 none)).trans ?_
  show (match s.pseWords x.gr.ctx (s.spillArea x.gr.ctx x.core x.slot) true (x.gr.spillWords a k b.stack) with
    | ((f :: fs, _), s) => _ | (([], pas), s) => _) = _
  simp only [State.spilled, words]
  rfl
end

/-! ### The checks of a return, and what it leaves (R124) -/

/-- The active lanes that fail a check of a return. -/
def Group.retFails (g : Group) (a : Mask) : List Nat := (lanesOf a).filter fun l => (g.lane l).retCause != 0
theorem mem_retFails {g : Group} {a : Mask} {l : Nat} : l ∈ g.retFails a ↔ Mask.has a l = true ∧ (g.lane l).retCause ≠ 0 := by
  rw [Group.retFails, List.mem_filter, mem_lanesOf, bne_iff_ne]
/-- Where a lane returns to. -/
def Ex.returnTarget (x : Ex) (l : Nat) : DWord := pairOf ((x.gr.lane l).v 31 &&& 0xFFFFFFFC) (hiOf (Pc.addr x.sp.pc))
/-- The words that a return fills. -/
def Group.fillWords (g : Group) (a : Mask) : Words := laneWords a (fun l => (g.lane l).retWb) fun l => (g.lane l).stk
/-- The group with the windows of its active lanes moved back, before the fill. -/
def Group.returned (g : Group) (a : Mask) : Group := g.modLanes a fun l ln => ln.returned (g.lane l).retWb
/-- The group and the machine after the fill of a return. -/
def State.refilled (s : State) (x : Ex) (a : Mask) : Group × State :=
  let ws := x.gr.fillWords a
  let r := s.pseWords x.gr.ctx (s.spillArea x.gr.ctx x.core x.slot) false ws
  let q := r.2.pseLoad x.gr.ctx (x.gr.returned a) ws r.1.2
  (q.1, q.2.bump x.core .fillw ws.length)

theorem State.still_refilled (s : State) (x : Ex) (a : Mask) : (s.refilled x a).2.still = s.still := by simp [State.refilled]
theorem State.refilled_of_resident (s : State) {x : Ex} {a : Mask}
    (resident : ∀ l, Mask.has a l = true → (x.gr.lane l).stk ≤ (x.gr.lane l).retWb) : (s.refilled x a).2 = s := by
  have none : x.gr.fillWords a = [] := laneWords_eq_nil resident
  rw [State.refilled, none]
  rfl
/-- The fill changes registers of the returned lanes below their resident ranges alone. -/
theorem State.filledAt_refilled (s : State) (x : Ex) (a : Mask) : FilledAt (x.gr.returned a) (s.refilled x a).1 (x.gr.fillWords a) :=
  FilledAt.of_pseLoad ..

end Sys2Proof.Machine

namespace Sys2Proof.Claims
open Sys2Proof.Machine

/-- A state in which the executing group stands as it was read. -/
theorem GroupAndCounters.of_group {u : State} {x : Ex} (here : u.group x.core x.slot = some x.gr) : GroupAndCounters u u x x.gr :=
  ⟨here, fun _ _ _ => rfl, rfl, fun _ _ => rfl, fun _ => rfl, rfl⟩

/-- A division changes no lane. -/
theorem lane_divide (g : Group) (e : Nat) (sp : Split) (now : Nat) (parts : List Part) (l : Nat) :
    (g.divide e sp now parts).lane l = g.lane l := by rw [Group.divide_eq]; rfl
theorem divide_rest_of_lanes {g h : Group} (same : { h with lanes := [] } = { g with lanes := [] }) (e : Nat) (sp : Split) (now : Nat)
    (parts : List Part) : { h.divide e sp now parts with splits := [], lanes := [] } = { g with splits := [], lanes := [] } := by
  rw [Group.divide_eq]
  exact congrArg (fun k : Group => { k with splits := [] }) same
/-- Where the lanes of a split stand after its active lanes have gone each to its own target. -/
theorem stands_of_targets {x : Ex} {h : Group} {a : Mask} (same : { h with lanes := [] } = { x.gr with lanes := [] })
    (here : mget x.gr.splits x.entry = some x.sp) (inside : ∀ l, Mask.has a l = true → Mask.has x.sp.mask l = true)
    (tgt : Nat → DWord) (now : Nat) (apart : Apart x) (l : Nat) (hl : Mask.has x.sp.mask l = true) :
    ∃ e q, mget (h.divide x.entry x.sp now (x.targets a (laneTargets a tgt) 4)).splits e = some q ∧ Mask.has q.mask l = true ∧
      q.st = .ready ∧ q.pc = if Mask.has a l then Pc.of (tgt l) else Pc.plus x.sp.pc 4 := by
  have splits : h.splits = x.gr.splits := (congrArg Group.splits same :)
  obtain ⟨e, q, there, hql, pc, st⟩ := (Divides.of_sent (g := h) (splits ▸ apart.tidy) (splits ▸ here) now
    (x.targets_sent inside tgt 4)).lanes l hl
  exact ⟨e, q, there, hql, st, pc⟩

/-- A call whose checks pass. -/
theorem CallRuns.of_enterCall {s : State} {x : Ex} {b : Block} {i : Instr} {act : Mask} {k : Nat} {tgt : Nat → DWord}
    (running : s.running = some x) (block : mget s.blocks x.gr.blk = some b)
    (inside : ∀ l, Mask.has act l = true → Mask.has x.sp.mask l = true)
    (run : act ≠ 0 → x.gr.pending act = false → exec i s = enterCall s x act k (laneTargets act tgt)) :
    CallRuns s x b i act k tgt := by
  intro any written low high fits mapped
  obtain ⟨-, group, here⟩ := (s.running_iff x).1 running
  have same : { x.gr.called act k b.stack (Pc.addr (Pc.plus x.sp.pc 4)) with lanes := [] } = { x.gr with lanes := [] } :=
    Group.rest_modLanes ..
  have spilled := GroupAndCounters.of_group ((State.group_of_still (s.still_spilled x act k b.stack) _ _).trans group)
  refine ⟨_, _, (run any written).trans (enterCall_of_room block (fun l hl => (fits l hl).1) (fun l hl => (fits l hl).2) mapped),
    (spilled.divide _ _).group, fun resident => ?_, fun l hl => ?_, fun l hl => ?_, stands_of_targets same here inside tgt _,
    divide_rest_of_lanes same ..⟩
  · rw [s.spilled_of_resident resident]
    exact (GroupAndCounters.refl running).divide ..
  · have lane : (x.gr.called act k b.stack (Pc.addr (Pc.plus x.sp.pc 4))).lane l =
        (x.gr.lane l).called k (x.gr.needs k b.stack l) (Pc.addr (Pc.plus x.sp.pc 4)) := (Group.lane_modLanes ..).trans (if_pos hl)
    have moves : 1 ≤ k := by omega
    have window : k ≤ 32 := by omega
    rw [lane_divide, lane]
    exact ⟨Lane.called_wb .., Lane.called_stk .., Lane.v_called_link _ _ _ moves window,
      fun r shared resident => Lane.v_called_shared _ _ _ moves window shared resident,
      fun r new below => Lane.v_called_new _ _ _ moves window new below,
      fun r old resident => Lane.regs_called_resident _ _ _ moves window old resident, Lane.called_preds .., Lane.called_flags ..⟩
  · rw [lane_divide]
    exact (Group.lane_modLanes ..).trans (if_neg (by simp [hl]))

end Sys2Proof.Claims

namespace Sys2Proof.Proofs
open Sys2Proof Sys2Proof.Machine Sys2Proof.Claims

section
variable {s : State} {x : Ex} (running : s.running = some x)
include running

/-! ### What the instructions come to -/

theorem exec_call_of_none (o : CallO) (idle : x.active o.g = 0) : exec (.call o) s = .next (s.done x 4 id) := by
  show execCall o s = _
  rw [execCall, onSplit_running _ running]
  exact if_pos idle
theorem exec_callx_of_none (o : CallxO) (idle : x.active o.g = 0) : exec (.callx o) s = .next (s.done x 4 id) := by
  show execCallx o s = _
  rw [execCallx, onSplit_running _ running]
  exact if_pos idle
theorem exec_ret_of_none (o : G0) (idle : x.active o.g = 0) : exec (.ret o) s = .next (s.done x 4 id) := by
  show execRet o s = _
  rw [execRet, onSplit_running _ running]
  exact if_pos idle

theorem exec_call_of_some (o : CallO) (any : x.active o.g ≠ 0) (written : x.gr.pending (x.active o.g) = false) :
    exec (.call o) s = enterCall s x (x.active o.g) (8 * o.k.toNat)
      (laneTargets (x.active o.g) fun _ => Pc.addr (x.sp.pc + o.d.signExtend 47)) := by
  show execCall o s = _
  rw [execCall, onSplit_running _ running]
  exact (if_neg any).trans (if_neg (by simp [written]))
theorem exec_callx_of_fault (o : CallxO) (any : x.active o.g ≠ 0) (written : x.gr.pending (x.active o.g) = false) {r : Out}
    (fault : targetFault s x (firstWord (.callx o)) (laneTargets (x.active o.g) fun l => (x.gr.lane l).vPair o.a.toNat) = some r) :
    exec (.callx o) s = r := by
  unfold laneTargets at fault
  show execCallx o s = _
  rw [execCallx, onSplit_running _ running]
  dsimp only
  rw [if_neg any, if_neg (by simp [written]), fault]
theorem exec_callx_of_good (o : CallxO) (any : x.active o.g ≠ 0) (written : x.gr.pending (x.active o.g) = false)
    (good : ∀ l, Mask.has (x.active o.g) l = true →
      ((x.gr.lane l).vPair o.a.toNat).toNat % 4 = 0 ∧ canonical ((x.gr.lane l).vPair o.a.toNat) = true) :
    exec (.callx o) s = enterCall s x (x.active o.g) (8 * o.k.toNat)
      (laneTargets (x.active o.g) fun l => (x.gr.lane l).vPair o.a.toNat) := by
  have passes := targetFault_laneTargets_of_good (s := s) (x := x) (firstWord (.callx o)) good
  unfold laneTargets at passes ⊢
  show execCallx o s = _
  rw [execCallx, onSplit_running _ running]
  dsimp only
  rw [if_neg any, if_neg (by simp [written]), passes]
theorem exec_ret_of_fault (o : G0) {b : Block} (block : mget s.blocks x.gr.blk = some b)
    (written : x.gr.pending (x.active o.g) = false) {m : Mask} {l : Nat} (hl : Mask.has (x.active o.g) l = true)
    (bad : (x.gr.lane l).retCause ≠ 0) (first : ∀ k, k < l → Mask.has (x.active o.g) k = true → (x.gr.lane k).retCause = 0)
    (lanes : ∀ k, Mask.has m k = true ↔ Mask.has (x.active o.g) k = true ∧ (x.gr.lane k).retCause = (x.gr.lane l).retCause) :
    exec (.ret o) s = if (x.gr.lane l).retCause = 7 then trapAt s x 7 m ((x.gr.lane l).v 31) 0
      else trapAt s x 8 m 0 (toW b.limit) := by
  obtain ⟨rest, cons⟩ := filter_lanesOf_eq_cons (f := fun l => (x.gr.lane l).retCause != 0) hl (bne_iff_ne.2 bad)
    fun k hk inside => by simp [first k hk inside]
  have mask : maskOf ((x.gr.retFails (x.active o.g)).filter fun i => (x.gr.lane i).retCause == (x.gr.lane l).retCause) = m :=
    Mask.ext_has fun k => by
      rw [Mask.has_maskOf, List.mem_filter, mem_retFails, beq_iff_eq, lanes]
      exact ⟨fun h => ⟨h.2.1.1, h.2.2⟩, fun h => ⟨Mask.lt_of_has h.1, ⟨h.1, h.2 ▸ bad⟩, h.2⟩⟩
  rw [Group.retFails, cons] at mask
  show execRet o s = _
  rw [execRet, onSplit_running _ running]
  dsimp only
  rw [if_neg (Mask.ne_zero_of_has hl), if_neg (by simp [written]), cons]
  simp only [mask, State.blockOf, block]
theorem exec_ret_of_good (o : G0) (any : x.active o.g ≠ 0) (written : x.gr.pending (x.active o.g) = false)
    (good : ∀ l, Mask.has (x.active o.g) l = true → (x.gr.lane l).retCause = 0)
    (mapped : (s.pseWords x.gr.ctx (s.spillArea x.gr.ctx x.core x.slot) false (x.gr.fillWords (x.active o.g))).1.1 = []) :
    exec (.ret o) s = .next ((s.refilled x (x.active o.g)).2.divide x (s.refilled x (x.active o.g)).1
      (x.targets (x.active o.g) (laneTargets (x.active o.g) x.returnTarget) 4)) := by
  have none : (lanesOf (x.active o.g)).filter (fun l => (x.gr.lane l).retCause != 0) = [] :=
    List.filter_eq_nil_iff.2 fun l hl => by simp [good l ((mem_lanesOf _ l).1 hl)]
  show execRet o s = _
  rw [execRet, onSplit_running _ running]
  dsimp only
  rw [if_neg any, if_neg (by simp [written]), none]
  show (match s.pseWords x.gr.ctx (s.spillArea x.gr.ctx x.core x.slot) false (x.gr.fillWords (x.active o.g)) with
    | ((f :: fs, _), s) => _ | (([], pas), s) => _) = _
  rcases words : s.pseWords x.gr.ctx (s.spillArea x.gr.ctx x.core x.slot) false (x.gr.fillWords (x.active o.g)) with ⟨⟨fs, pas⟩, u⟩
  rw [words] at mapped
  obtain rfl : fs = [] := mapped
  simp only [State.refilled, words]
  rfl

/-- A return whose checks pass. -/
theorem ret_runs (o : G0) (any : x.active o.g ≠ 0) (written : x.gr.pending (x.active o.g) = false)
    (good : ∀ l, Mask.has (x.active o.g) l = true → (x.gr.lane l).retCause = 0)
    (mapped : (s.pseWords x.gr.ctx (s.spillArea x.gr.ctx x.core x.slot) false (x.gr.fillWords (x.active o.g))).1.1 = []) :
    ∃ t g, exec (.ret o) s = .next t ∧ t.group x.core x.slot = some g ∧
      ((∀ l, Mask.has (x.active o.g) l = true → (x.gr.lane l).stk ≤ (x.gr.lane l).retWb) → GroupAndCounters s t x g) ∧
      (∀ l, Mask.has (x.active o.g) l = true →
        (g.lane l).wb = (x.gr.lane l).retWb ∧ (g.lane l).stk = min (x.gr.lane l).stk (x.gr.lane l).retWb ∧
        (∀ r, r < 32 → (x.gr.lane l).stk ≤ (x.gr.lane l).retWb + r →
          (g.lane l).v r = mgetD (x.gr.lane l).regs ((x.gr.lane l).retWb + r) 0) ∧
        (g.lane l).preds = (x.gr.lane l).preds ∧ (g.lane l).flags = (x.gr.lane l).flags) ∧
      (∀ l, Mask.has (x.active o.g) l = false → g.lane l = x.gr.lane l) ∧
      (Apart x → ∀ l, Mask.has x.sp.mask l = true → ∃ k q, mget g.splits k = some q ∧ Mask.has q.mask l = true ∧ q.st = .ready ∧
        q.pc = if Mask.has (x.active o.g) l then Pc.of (x.returnTarget l) else Pc.plus x.sp.pc 4) ∧
      { g with splits := [], lanes := [] } = { x.gr with splits := [], lanes := [] } := by
  obtain ⟨-, group, here⟩ := (s.running_iff x).1 running
  have filled := s.filledAt_refilled x (x.active o.g)
  have same : { (s.refilled x (x.active o.g)).1 with lanes := [] } = { x.gr with lanes := [] } :=
    filled.rest.trans (Group.rest_modLanes ..)
  have frame := GroupAndCounters.of_group ((State.group_of_still (s.still_refilled x (x.active o.g)) _ _).trans group)
  refine ⟨_, _, exec_ret_of_good running o any written good mapped, (frame.divide _ _).group, fun resident => ?_, fun l hl => ?_,
    fun l hl => ?_, stands_of_targets same here (fun _ => Ex.active_sub) x.returnTarget _, divide_rest_of_lanes same ..⟩
  · rw [s.refilled_of_resident resident]
    exact (GroupAndCounters.refl running).divide ..
  · have lane : (x.gr.returned (x.active o.g)).lane l = (x.gr.lane l).returned (x.gr.lane l).retWb :=
      (Group.lane_modLanes ..).trans (if_pos hl)
    have rest := lane ▸ filled.lane l
    have base : ((s.refilled x (x.active o.g)).1.lane l).wb = (x.gr.lane l).retWb := (congrArg Lane.wb rest :)
    rw [lane_divide]
    refine ⟨base, (congrArg Lane.stk rest :), fun r hr resident => ?_, (congrArg Lane.preds rest :), (congrArg Lane.flags rest :)⟩
    have unfilled : (l, (x.gr.lane l).retWb + r) ∉ x.gr.fillWords (x.active o.g) := fun h => by
      obtain ⟨-, -, high⟩ := mem_laneWords.1 h
      omega
    rw [Lane.v, base, filled.regs _ _ unfilled, lane, Lane.regs_returned, if_pos (by omega)]
  · have unfilled : ∀ i, (l, i) ∉ x.gr.fillWords (x.active o.g) := fun i h => by
      have := (mem_laneWords.1 h).1
      simp [hl] at this
    rw [lane_divide, filled.others l unfilled]
    exact (Group.lane_modLanes ..).trans (if_neg (by simp [hl]))
end

theorem callsAndReturnsMoveTheWindow : CallsAndReturnsMoveTheWindow := by
  intro s x b running block
  refine ⟨fun o tgt aims => ?call, fun o tgt aims good => ?callx, fun o => ?ret, fun o s x running idle => ?_,
    fun o s x running idle => ?_, fun o s x running idle => ?_⟩
  case call =>
    refine CallRuns.of_enterCall running block (fun _ => Ex.active_sub) fun any written => ?_
    rw [show tgt = _ from funext aims]
    exact exec_call_of_some running o any written
  case callx =>
    obtain rfl : tgt = _ := funext aims
    exact CallRuns.of_enterCall running block (fun _ => Ex.active_sub) fun any written => exec_callx_of_good running o any written good
  case ret =>
    simp only [← Lane.retWb_eq]
    intro any written frames mapped
    refine ret_runs running o any written (fun l hl => ?_) mapped
    obtain ⟨framed, above⟩ := frames l hl
    rw [Lane.retCause_eq, if_neg framed, if_neg above.not_gt]
  · exact goesOn_of_done running (exec_call_of_none running o idle)
  · exact goesOn_of_done running (exec_callx_of_none running o idle)
  · exact goesOn_of_done running (exec_ret_of_none running o idle)

/-- The faults of a call whose targets are aligned and canonical. -/
theorem CallFaults.of_enterCall {i : Instr} {gd : Guard} {k : Nat} {tgt : Ex → Nat → DWord}
    (run : ∀ s x, s.running = some x → x.active gd ≠ 0 → x.gr.pending (x.active gd) = false →
      (∀ l, Mask.has (x.active gd) l = true → (tgt x l).toNat % 4 = 0 ∧ canonical (tgt x l) = true) →
      exec i s = enterCall s x (x.active gd) k (laneTargets (x.active gd) (tgt x))) : CallFaults i gd k tgt := by
  intro s x b m running block written some a need far good
  refine ⟨fun l hl least lanes => ?_, fun l near lanes hl most => ?_⟩
  · rw [run s x running (Mask.ne_zero_of_has ((lanes l).1 hl).1) written good]
    exact enterCall_of_far block hl least lanes
  · rw [run s x running (Mask.ne_zero_of_has hl) written good]
    exact enterCall_of_deep block (fun j hj => not_not.1 (near j hj)) some lanes hl most

theorem stackFaults : StackFaults := by
  refine ⟨fun o => ?call, fun o => ?callx, fun s x b running block =>
    ⟨fun o m l written hl least => ?targets, fun o m l written hl => ?ret⟩⟩
  case call => exact CallFaults.of_enterCall fun s x running any written _ => exec_call_of_some running o any written
  case callx => exact CallFaults.of_enterCall fun s x running any written good => exec_callx_of_good running o any written good
  case targets =>
    refine ⟨fun lanes => ?_, fun aligned lanes => ?_⟩
    · exact exec_callx_of_fault running o (Mask.ne_zero_of_has ((lanes l).1 hl).1) written
        (targetFault_laneTargets_of_misaligned _ hl lanes)
    · exact exec_callx_of_fault running o (Mask.ne_zero_of_has ((lanes l).1 hl).1) written
        (targetFault_laneTargets_of_bad _ hl least aligned lanes)
  case ret =>
    simp only [← Lane.retCause_eq]
    exact exec_ret_of_fault running o block written hl

/-- Settles O15: a call or a return that runs, one of no lane, and the checks in their order. -/
theorem callsReturnsAndStackFaults : Obligations.CallsReturnsAndStackFaults := ⟨callsAndReturnsMoveTheWindow, stackFaults⟩

end Sys2Proof.Proofs
end

section
/-! The word functions of the lane and uniform integer instructions, in whole numbers (R142 to R150, R164). -/
namespace Sys2Proof.Machine
open Sys2Proof.Claims

theorem pairOf_loOf_hiOf (x : DWord) : pairOf (loOf x) (hiOf x) = x := by
  refine BitVec.eq_of_getLsbD_eq fun i hi => ?_
  rw [pairOf, BitVec.getLsbD_append, loOf, hiOf, BitVec.getLsbD_extractLsb', BitVec.getLsbD_extractLsb']
  by_cases low : i < 32
  · simp [low]
  · have high : 32 + (i - 32) = i := by omega
    simp [low, high, show i - 32 < 32 by omega]

/-! ### Sums, minima and maxima (R142) -/

theorem add_eq_ofNat {w : Nat} (a b : BitVec w) : a + b = BitVec.ofNat w (a.toNat + b.toNat) := by
  rw [BitVec.ofNat_add, BitVec.ofNat_toNat, BitVec.ofNat_toNat, BitVec.setWidth_eq, BitVec.setWidth_eq]
theorem mul_eq_ofNat {w : Nat} (a b : BitVec w) : a * b = BitVec.ofNat w (a.toNat * b.toNat) := by
  rw [BitVec.ofNat_mul, BitVec.ofNat_toNat, BitVec.ofNat_toNat, BitVec.setWidth_eq, BitVec.setWidth_eq]
theorem sub_eq_ofInt {w : Nat} (a b : BitVec w) : a - b = BitVec.ofInt w ((a.toNat : Int) - b.toNat) := by
  rw [sub_eq_add_neg, sub_eq_add_neg, BitVec.ofInt_add, BitVec.ofInt_neg, BitVec.ofInt_natCast, BitVec.ofInt_natCast,
    BitVec.ofNat_toNat, BitVec.ofNat_toNat, BitVec.setWidth_eq, BitVec.setWidth_eq]
theorem neg_eq_ofInt {w : Nat} (a : BitVec w) : -a = BitVec.ofInt w (-a.toInt) := by
  rw [BitVec.ofInt_neg, BitVec.ofInt_toInt]

theorem minI_eq (a b : Word) : minI a b = BitVec.ofInt 32 (min a.toInt b.toInt) := by
  rw [minI, BitVec.sle_eq_decide, min_def, apply_ite (BitVec.ofInt 32)]; simp
theorem maxI_eq (a b : Word) : maxI a b = BitVec.ofInt 32 (max a.toInt b.toInt) := by
  rw [maxI, BitVec.sle_eq_decide, max_def, apply_ite (BitVec.ofInt 32)]; simp
theorem minN_eq (a b : Word) : minN a b = BitVec.ofNat 32 (min a.toNat b.toNat) := by
  rw [minN, BitVec.ule_eq_decide, min_def, apply_ite (BitVec.ofNat 32)]; simp
theorem maxN_eq (a b : Word) : maxN a b = BitVec.ofNat 32 (max a.toNat b.toNat) := by
  rw [maxN, BitVec.ule_eq_decide, max_def, apply_ite (BitVec.ofNat 32)]; simp

theorem clamp32_eq (y : Int) : clamp32 y = clampInt y := by
  have low : (-(2 ^ 31) : Int) = -2147483648 := by norm_num
  have high : (2 ^ 31 - 1 : Int) = 2147483647 := by norm_num
  rw [clampInt, low, high, clamp32]
theorem absI_eq (a : Word) : absI a = BitVec.ofNat 32 a.toInt.natAbs := by
  rw [absI, ← BitVec.ofInt_natCast, Int.natCast_natAbs, BitVec.msb_eq_toInt]
  obtain neg | pos := lt_or_ge a.toInt 0
  · rw [if_pos (decide_eq_true neg), abs_of_neg neg, neg_eq_ofInt]
  · rw [if_neg (by simpa using pos), abs_of_nonneg pos, BitVec.ofInt_toInt]
theorem diffN_eq (a b : Word) :
    maxN a b - minN a b = BitVec.ofNat 32 (max a.toNat b.toNat - min a.toNat b.toNat) := by
  have ha := a.isLt
  have hb := b.isLt
  rw [maxN_eq, minN_eq]
  apply BitVec.eq_of_toNat_eq
  simp only [BitVec.toNat_sub, BitVec.toNat_ofNat]
  omega

/-- An address: the base and the sign-extended offset in units of 2^k bytes. -/
theorem lea_eq {k : Nat} {z : Int} (scale : z = (2 ^ k : Nat)) (a : DWord) (b : Word) :
    a + b.signExtend 64 <<< k = BitVec.ofInt 64 (a.toNat + b.toInt * z) := by
  subst scale
  have unit : BitVec.twoPow 64 k = BitVec.ofInt 64 (2 ^ k : Nat) := by
    apply BitVec.eq_of_toNat_eq
    rw [BitVec.ofInt_natCast, BitVec.toNat_twoPow, BitVec.toNat_ofNat]
  rw [BitVec.ofInt_add, BitVec.ofInt_natCast, BitVec.ofNat_toNat, BitVec.setWidth_eq, BitVec.shiftLeft_eq_mul_twoPow,
    BitVec.ofInt_mul, unit]
  rfl

/-! ### Shifts and counts (R144, R150) -/

theorem shiftLeft_eq_ofNat {w : Nat} (a : BitVec w) (n : Nat) : a <<< n = BitVec.ofNat w (a.toNat * 2 ^ n) := by
  apply BitVec.eq_of_toNat_eq
  rw [BitVec.toNat_shiftLeft, Nat.shiftLeft_eq, BitVec.toNat_ofNat]
theorem ushiftRight_eq_ofNat {w : Nat} (a : BitVec w) (n : Nat) : a >>> n = BitVec.ofNat w (a.toNat / 2 ^ n) := by
  apply BitVec.eq_of_toNat_eq
  rw [BitVec.toNat_ushiftRight, Nat.shiftRight_eq_div_pow, BitVec.toNat_ofNat, Nat.mod_eq_of_lt]
  exact (Nat.div_le_self ..).trans_lt a.isLt

theorem shl_eq (a b : Word) : shl a b = shlN a.toNat b.toNat := by
  rw [shl, shlN, apply_ite (BitVec.ofNat 32), shiftLeft_eq_ofNat]; rfl
theorem shrN_eq (a b : Word) : shrN a b = shrNat a.toNat b.toNat := by
  rw [shrN, shrNat, apply_ite (BitVec.ofNat 32), ushiftRight_eq_ofNat]; rfl
theorem shrI_eq (a b : Word) : shrI a b = shrInt a.toInt b.toNat := by
  rw [shrI, shrInt, BitVec.sshiftRight, Int.shiftRight_eq_div_pow]
  push_cast
  rfl
/-- The two parts of a rotation have no bit in common. -/
theorem rotl_eq (a b : Word) : rotl a b = rotN a.toNat b.toNat := by
  have apart : a <<< (b.toNat % 32) &&& a >>> (32 - b.toNat % 32) = 0#32 := by
    refine BitVec.eq_of_getLsbD_eq fun i hi => ?_
    rw [BitVec.getLsbD_and, BitVec.getLsbD_shiftLeft, BitVec.getLsbD_ushiftRight]
    by_cases low : i < b.toNat % 32
    · simp [low]
    · have beyond : a.getLsbD (32 - b.toNat % 32 + i) = false := BitVec.getLsbD_of_ge a _ (by omega)
      simp [beyond]
  rw [rotl, rotN, BitVec.rotateLeft_def, Nat.mod_mod, BitVec.ofNat_add, ← shiftLeft_eq_ofNat, ← ushiftRight_eq_ofNat,
    BitVec.add_eq_or_of_and_eq_zero _ _ apart]
theorem shiftKind_eq (k : BitVec 2) (a b : Word) : shiftKind k a b = shiftOf k a b.toNat := by
  obtain rfl | rfl | rfl | rfl : k = 0 ∨ k = 1 ∨ k = 2 ∨ k = 3 := by bv_omega
  · exact shl_eq a b
  · exact shrN_eq a b
  · exact shrI_eq a b
  · exact rotl_eq a b

theorem popc_eq (a : Word) : popc a = BitVec.ofNat 32 ((List.range 32).countP fun i => a.getLsbD i) := by
  rw [popc, ← List.countP_eq_length_filter]; rfl
/-- The first k numbers pass a test and the next one, where there is one, does not. -/
theorem takeWhile_range {n k : Nat} {f : Nat → Bool} (hk : k ≤ n) (before : ∀ i, i < k → f i = true)
    (stop : k < n → f k = false) : (List.range n).takeWhile f = List.range k := by
  rw [← Nat.add_sub_cancel' hk, List.range_add, List.takeWhile_append_of_pos fun i hi => before i (List.mem_range.1 hi)]
  obtain rfl | below := hk.eq_or_lt
  · simp
  · obtain ⟨j, hj⟩ := Nat.exists_eq_add_of_lt below
    rw [show n - k = j + 1 by omega, List.range_succ_eq_map]
    simp [stop below]
theorem clz_eq (a : Word) : clz a = BitVec.ofNat 32 (if a = 0 then 32 else 31 - a.toNat.log2) := by
  rw [clz, toW]
  congr 1
  split
  case isTrue zero => subst zero; rfl
  case isFalse some =>
    have top : a.toNat ≠ 0 := fun h => some (BitVec.eq_of_toNat_eq h)
    have below : a.toNat.log2 < 32 := (Nat.log2_lt top).2 a.isLt
    have zeros : ∀ i, i < 31 - a.toNat.log2 → a.getLsbD (31 - i) = false := fun i hi =>
      Nat.testBit_lt_two_pow ((Nat.log2_lt top).1 (by omega))
    have one : a.getLsbD (31 - (31 - a.toNat.log2)) = true := by
      rw [show 31 - (31 - a.toNat.log2) = a.toNat.log2 by omega]; exact Nat.testBit_log2 top
    rw [takeWhile_range (k := 31 - a.toNat.log2) (by omega) (fun i hi => by rw [zeros i hi]; rfl) fun _ => by rw [one]; rfl,
      List.length_range]

theorem getLsbD_foldl_setBit {w n : Nat} (hn : n ≤ w) (f : Nat → Bool) (i : Nat) (hi : i < n) :
    ((List.range n).foldl (fun acc j => setBit acc j (f j)) (0 : BitVec w)).getLsbD i = f i := by
  induction n with
  | zero => cases hi
  | succ n ih =>
    rw [List.range_succ, List.foldl_append, List.foldl_cons, List.foldl_nil, getLsbD_setBit _ _ _ _ (by omega)]
    split
    next h => rw [h]
    next h => exact ih (by omega) (by omega)
theorem getLsbD_brev (a : Word) {i : Nat} (hi : i < 32) : (brev a).getLsbD i = a.getLsbD (31 - i) :=
  getLsbD_foldl_setBit le_rfl (fun j => a.getLsbD (31 - j)) i hi

theorem bytsel1_eq (a : Word) (k : Nat) : bytsel1 a k = if k ≤ 3 then a.extractLsb' (8 * k) 8
    else if k ≤ 7 ∧ a.getLsbD (8 * (k - 4) + 7) = true then 0xFF else 0x00 := by
  rw [bytsel1, ite_and]
theorem byte_bytsel (a b : Word) {i : Nat} (hi : i < 4) :
    (bytsel a b).extractLsb' (8 * i) 8 = bytsel1 a (b.extractLsb' (4 * i) 4).toNat := by
  rw [bytsel]
  obtain rfl | rfl | rfl | rfl : i = 0 ∨ i = 1 ∨ i = 2 ∨ i = 3 := by omega
  all_goals simp

/-! ### Products (R145, R146) -/

theorem mulwI_eq (a b : Word) : mulwI a b = BitVec.ofInt 64 (a.toInt * b.toInt) := by
  rw [mulwI, BitVec.ofInt_mul]; rfl
theorem mulwN_eq (a b : Word) : mulwN a b = BitVec.ofNat 64 (a.toNat * b.toNat) := by
  rw [mulwN, BitVec.ofNat_mul, BitVec.ofNat_toNat, BitVec.ofNat_toNat]
theorem hiOf_ofInt (z : Int) : hiOf (BitVec.ofInt 64 z) = BitVec.ofInt 32 (z / 2 ^ 32) := by
  apply BitVec.eq_of_toNat_eq
  rw [hiOf, BitVec.extractLsb'_toNat, BitVec.toNat_ofInt, BitVec.toNat_ofInt, Nat.shiftRight_eq_div_pow]
  omega
theorem hiOf_ofNat (n : Nat) : hiOf (BitVec.ofNat 64 n) = BitVec.ofNat 32 (n / 2 ^ 32) := by
  rw [← BitVec.ofInt_natCast, hiOf_ofInt, ← BitVec.ofInt_natCast]; rfl
theorem mulhI_eq (a b : Word) : mulhI a b = BitVec.ofInt 32 (a.toInt * b.toInt / 2 ^ 32) :=
  (congrArg hiOf (mulwI_eq a b)).trans (hiOf_ofInt _)
theorem mulhN_eq (a b : Word) : mulhN a b = BitVec.ofNat 32 (a.toNat * b.toNat / 2 ^ 32) :=
  (congrArg hiOf (mulwN_eq a b)).trans (hiOf_ofNat _)
theorem mad_eq (a b c : Word) : a * b + c = BitVec.ofNat 32 (a.toNat * b.toNat + c.toNat) := by
  rw [BitVec.ofNat_add, mul_eq_ofNat, BitVec.ofNat_toNat, BitVec.setWidth_eq]
theorem madW_eq (a b : Word) (c : DWord) : mulwN a b + c = BitVec.ofNat 64 (a.toNat * b.toNat + c.toNat) := by
  rw [BitVec.ofNat_add, mulwN_eq, BitVec.ofNat_toNat, BitVec.setWidth_eq]

/-! ### Bit fields and dot products (R148, R164) -/

/-- The position and the length that an operand of BFE and BFI names. -/
theorem field_position (c : Word) : (c.extractLsb' 0 8).toNat = c.toNat % 256 := by
  rw [BitVec.extractLsb'_toNat]; rfl
theorem field_length (c : Word) : (c.extractLsb' 8 8).toNat = c.toNat / 256 % 256 := by
  rw [BitVec.extractLsb'_toNat, Nat.shiftRight_eq_div_pow]

/-- The top bit of a number of n bits. -/
theorem testBit_top {f n : Nat} (hn : 0 < n) (hf : f < 2 ^ n) : f.testBit (n - 1) = decide (2 ^ (n - 1) ≤ f) := by
  obtain low | high := lt_or_ge f (2 ^ (n - 1))
  · rw [Nat.testBit_lt_two_pow low, decide_eq_false low.not_ge]
  · have top : f.log2 = n - 1 :=
      (Nat.log2_eq_iff ((Nat.two_pow_pos _).trans_le high).ne').2 ⟨high, by rwa [Nat.sub_add_cancel hn]⟩
    rw [← top, Nat.testBit_log2 ((Nat.two_pow_pos _).trans_le high).ne', top, decide_eq_true high]

theorem bfe_eq (a c : Word) : bfe a c =
    let pos := c.toNat % 256
    let len := min (c.toNat / 256 % 256) 32
    let f := if len = 0 ∨ 32 ≤ pos then 0 else a.toNat / 2 ^ pos % 2 ^ len
    BitVec.ofInt 32 (if c.getLsbD 16 = true ∧ 0 < len ∧ 2 ^ (len - 1) ≤ f then (f : Int) - 2 ^ len else f) := by
  simp only [bfe, field_position, field_length]
  generalize min (c.toNat / 256 % 256) 32 = len
  have inside : (if len = 0 ∨ 32 ≤ c.toNat % 256 then 0 else a.toNat / 2 ^ (c.toNat % 256) % 2 ^ len) < 2 ^ len := by
    split_ifs
    · exact Nat.two_pow_pos _
    · exact Nat.mod_lt _ (Nat.two_pow_pos _)
  generalize (if len = 0 ∨ 32 ≤ c.toNat % 256 then 0 else a.toNat / 2 ^ (c.toNat % 256) % 2 ^ len) = f at inside
  have sign : (0 < len ∧ f.testBit (len - 1) = true) ↔ 0 < len ∧ 2 ^ (len - 1) ≤ f :=
    and_congr_right fun some => by rw [testBit_top some inside, decide_eq_true_eq]
  simp only [gt_iff_lt, sign, toW, ← BitVec.ofInt_natCast, ← apply_ite (BitVec.ofInt 32)]
theorem bfi_eq (a b c : Word) : bfi a b c =
    let pos := c.toNat % 256
    let len := min (c.toNat / 256 % 256) 32
    let m := BitVec.ofNat 32 ((2 ^ len - 1) * 2 ^ pos)
    (a &&& ~~~ m) ||| (BitVec.ofNat 32 (b.toNat * 2 ^ pos) &&& m) := by
  simp only [bfi, field_position, field_length, Nat.shiftLeft_eq, toW]

theorem signExtend_mul (x y : Byte) : x.signExtend 32 * y.signExtend 32 = BitVec.ofInt 32 (x.toInt * y.toInt) :=
  (BitVec.ofInt_mul ..).symm
theorem zeroExtend_mul (x y : Byte) : x.zeroExtend 32 * y.zeroExtend 32 = BitVec.ofNat 32 (x.toNat * y.toNat) := by
  rw [BitVec.ofNat_mul, BitVec.ofNat_toNat, BitVec.ofNat_toNat]
theorem idp4_signed (a b c : Word) : idp4 true a b c = BitVec.ofInt 32 (c.toNat +
    ((List.range 4).map fun i => (a.extractLsb' (8 * i) 8).toInt * (b.extractLsb' (8 * i) 8).toInt).sum) := by
  simp [idp4, List.range_succ, signExtend_mul, BitVec.ofInt_add, add_assoc]
theorem idp4_unsigned (a b c : Word) : idp4 false a b c = BitVec.ofNat 32 (c.toNat +
    ((List.range 4).map fun i => (a.extractLsb' (8 * i) 8).toNat * (b.extractLsb' (8 * i) 8).toNat).sum) := by
  simp [idp4, List.range_succ, zeroExtend_mul, BitVec.ofNat_add, add_assoc]

/-! ### Tests (R56, R149) -/

theorem icond_iff (f : BitVec 5) (a b : Word) : icond f a b = true ↔ condOf f a b := by
  unfold icond condOf
  generalize f.toNat = n
  split <;> simp [BitVec.slt, BitVec.sle, BitVec.ult, BitVec.ule]
theorem combine_eq (m : BitVec 2) (old t : Bool) : combine m old t = combined m old t := by
  obtain rfl | rfl | rfl | rfl : m = 0 ∨ m = 1 ∨ m = 2 ∨ m = 3 := by bv_omega
  all_goals rfl

end Sys2Proof.Machine
end

section
/-! Lane and uniform instructions of the shared integer shapes, in the words of the statements (R136, R137, R165). -/
namespace Sys2Proof.Claims
open Sys2Proof.Machine

/-- A lane instruction that writes one register pair. -/
theorem LaneDoes.of_setPair {i : Instr} {n : Nat} {gd : Guard} {d : Nat} {v : Lane → DWord}
    (run : ∀ s, exec i s = laneOp s n gd fun ln => ln.setPair d (v ln)) : LaneDoes i n gd fun _ _ a b => SetsPair a b d (v a) :=
  LaneDoes.of_laneOp run fun _ _ a => SetsPair.of_setPair a d (v a)

section
variable {i : Instr}
theorem Sets3.of_op {o : R3} {f g : Word → Word → Word} (run : ∀ s, exec i s = opR3 o s f) (eq : ∀ a b, f a b = g a b) :
    Sets3 i o g := by
  obtain rfl : f = g := funext₂ eq
  exact LaneDoes.of_setV run
theorem Sets2.of_op {o : R2} {f g : Word → Word} (run : ∀ s, exec i s = opR2 o s f) (eq : ∀ a, f a = g a) : Sets2 i o g := by
  obtain rfl : f = g := funext eq
  exact LaneDoes.of_setV run
theorem Sets4.of_op {o : F4} {f g : Word → Word → Word → Word} (run : ∀ s, exec i s = opF4 o s f)
    (eq : ∀ a b c, f a b c = g a b c) : Sets4 i o g := by
  obtain rfl : f = g := funext₃ eq
  exact LaneDoes.of_setV run
/-- The immediate of the statements is the sign-extended one of the model. -/
theorem SetsI.of_op {o : I12} {f : Word → Word → Word} (run : ∀ s, exec i s = opI12 o s f) : SetsI i o f :=
  LaneDoes.of_setV run
theorem SetsLea.of_op {o : R3} {f g : DWord → Word → DWord} (run : ∀ s, exec i s = opLea o s f) (eq : ∀ a b, f a b = g a b) :
    SetsLea i o g := by
  obtain rfl : f = g := funext₂ eq
  exact LaneDoes.of_setPair run
theorem VSrc.val64_eq (b : VSrc) (ln : Lane) :
    VSrc.val64 b ln = (match b with | .reg r => ln.vPair r.toNat | .lit w => BitVec.ofInt 64 w.toInt) := by
  cases b <;> rfl
theorem SetsWide.of_op {o : R3} {f g : DWord → DWord → DWord} (run : ∀ s, exec i s = opWide o s f)
    (eq : ∀ a b, f a b = g a b) : SetsWide i o g := by
  obtain rfl : f = g := funext₂ eq
  refine LaneDoes.of_laneOp run fun _ _ a => ?_
  rw [VSrc.val64_eq]
  exact SetsPair.of_setPair ..
/-- A product that fills a register pair. -/
theorem LaneDoes.of_opMulw {o : R3} {f g : Word → Word → DWord} (run : ∀ s, exec i s = opMulw o s f) (eq : ∀ a b, f a b = g a b) :
    LaneDoes i (VSrc.len o.b) o.g fun _ _ a b => SetsPair a b o.d.toNat (g (a.v o.a.toNat) (VSrc.val o.b a)) := by
  obtain rfl : f = g := funext₂ eq
  exact LaneDoes.of_setPair run

/-! ### The uniform state -/

/-- The conditions behave as the predicates of a lane: c7 reads 1 and keeps doing so (R113). -/
theorem Uniform.c_setC (u : Uniform) (c q : BitVec 3) (v : Bool) :
    (u.setC c v).c q = if q = c ∧ c ≠ 7 then v else u.c q := by
  have preds : (u.setC c v).conds = (({ preds := u.conds } : Lane).setP c v).preds := by
    unfold Uniform.setC Lane.setP; split <;> rfl
  calc (u.setC c v).c q = ({ preds := (u.setC c v).conds } : Lane).p q := rfl
    _ = (({ preds := u.conds } : Lane).setP c v).p q := by rw [preds]; rfl
    _ = if q = c ∧ c ≠ 7 then v else ({ preds := u.conds } : Lane).p q := Lane.p_setP ..
    _ = _ := rfl
/-- A condition written is the only change; a write to c7 changes nothing. -/
theorem SetsCond.of_setC (u : Uniform) (c : BitVec 3) (v : Bool) : SetsCond u (u.setC c v) c v where
  value hc := (Uniform.c_setC u c c v).trans (if_pos ⟨rfl, hc⟩)
  others q hq := (Uniform.c_setC u c q v).trans (if_neg fun h => hq h.1)
  one := Uniform.c_seven _
  rest := by unfold Uniform.setC; split <;> rfl

/-- An instruction of the shape `uniOp`. -/
theorem UniDoes.of_uniOp {n : Nat} {f : Uniform → Uniform} {r : Ex → Uniform → Uniform → Prop}
    (run : ∀ s, exec i s = uniOp s n f) (h : ∀ x u, r x u (f u)) : UniDoes i n r :=
  UniDoes.of_done (f := fun _ => f) (fun s _ hx => (run s).trans (uniOp_running n f hx)) fun x => h x _
theorem UniDoes.of_setS {n d : Nat} {v : Uniform → Word} (run : ∀ s, exec i s = uniOp s n fun u => u.setS d (v u)) :
    UniDoes i n fun _ a b => SetsS a b d (v a) := UniDoes.of_uniOp run fun _ u => SetsS.of_setS u d (v u)
theorem UniDoes.of_setC {n : Nat} {c : BitVec 3} {v : Uniform → Bool}
    (run : ∀ s, exec i s = uniOp s n fun u => u.setC c (v u)) : UniDoes i n fun _ a b => SetsCond a b c (v a) :=
  UniDoes.of_uniOp run fun _ u => SetsCond.of_setC u c (v u)

theorem SetsSPair.of_setPair (u : Uniform) (r : Nat) (w : DWord) : SetsSPair u (u.setPair r w) r w := by
  have parts := SetsSPair.of_setS u r (loOf w) (hiOf w)
  rwa [pairOf_loOf_hiOf] at parts
theorem SetsU3.of_op {o : U3} {f g : Word → Word → Word} (run : ∀ s, exec i s = opU3 o s f) (eq : ∀ a b, f a b = g a b) :
    SetsU3 i o g := by
  obtain rfl : f = g := funext₂ eq
  exact UniDoes.of_setS run
theorem SetsU2.of_op {o : U2} {f g : Word → Word} (run : ∀ s, exec i s = opU2 o s f) (eq : ∀ a, f a = g a) :
    SetsU2 i o g := by
  obtain rfl : f = g := funext eq
  exact UniDoes.of_setS run
theorem SetsUi.of_op {o : UiO} {f : Word → Word → Word} (run : ∀ s, exec i s = opUi o s f) : SetsUi i o f :=
  UniDoes.of_setS run
theorem SSrc.val64_eq (b : SSrc) (u : Uniform) :
    SSrc.val64 b u = (match b with | .reg r => u.pair r.toNat | .lit w => BitVec.ofInt 64 w.toInt) := by
  cases b <;> rfl
end

end Sys2Proof.Claims

/-! The integer instructions of the lanes and of the uniform state. -/
namespace Sys2Proof.Proofs
open Sys2Proof Sys2Proof.Machine Sys2Proof.Claims

/-! ### Lane integers and immediates -/

theorem laneIntegerArithmetic : LaneIntegerArithmetic :=
  ⟨fun _ => .of_op (f := fun a b => a + b) (fun _ => rfl) add_eq_ofNat,
   fun _ => .of_op (f := fun a b => a - b) (fun _ => rfl) sub_eq_ofInt,
   fun _ => .of_op (f := fun a b => clamp32 (a.toInt + b.toInt)) (fun _ => rfl) fun _ _ => clamp32_eq _,
   fun _ => .of_op (f := fun a b => clamp32 (a.toInt - b.toInt)) (fun _ => rfl) fun _ _ => clamp32_eq _,
   fun _ => .of_op (fun _ => rfl) minI_eq,
   fun _ => .of_op (fun _ => rfl) maxI_eq,
   fun _ => .of_op (fun _ => rfl) minN_eq,
   fun _ => .of_op (fun _ => rfl) maxN_eq,
   fun _ => .of_op (fun _ => rfl) absI_eq,
   fun _ => .of_op (f := fun a => -a) (fun _ => rfl) neg_eq_ofInt,
   fun _ => .of_op (f := fun a b => maxN a b - minN a b) (fun _ => rfl) diffN_eq,
   fun _ => .of_op (f := fun a b => a + b.signExtend 64 <<< 1) (fun _ => rfl) (lea_eq rfl),
   fun _ => .of_op (f := fun a b => a + b.signExtend 64 <<< 2) (fun _ => rfl) (lea_eq rfl),
   fun _ => .of_op (f := fun a b => a + b.signExtend 64 <<< 3) (fun _ => rfl) (lea_eq rfl),
   fun _ => .of_op (f := fun a b => a + b.signExtend 64 <<< 4) (fun _ => rfl) (lea_eq rfl),
   fun _ => .of_op (f := fun a b => a + b) (fun _ => rfl) add_eq_ofNat,
   fun _ => .of_op (f := fun a b => a - b) (fun _ => rfl) sub_eq_ofInt⟩

theorem toNat_shiftCount (c : BitVec 5) : (c.zeroExtend 32).toNat = c.toNat :=
  BitVec.toNat_setWidth_of_le (by decide)

theorem shi_does (o : Sh5) : LaneDoes (.shi o) 4 ⟨o.p, false⟩ fun _ _ a b =>
    SetsReg a b o.d.toNat (shiftOf o.k (a.v o.a.toNat) o.c.toNat) :=
  LaneDoes.of_laneOp (fun _ => rfl) fun _ _ a => by
    rw [← toNat_shiftCount o.c, ← shiftKind_eq]; exact SetsReg.of_setV ..

theorem laneImmediates : LaneImmediates :=
  ⟨fun _ => .of_op fun _ => rfl, fun _ => .of_op fun _ => rfl, fun _ => .of_op fun _ => rfl, fun _ => .of_op fun _ => rfl,
   shi_does, fun _ => LaneDoes.of_setV fun _ => rfl⟩

/-- Settles O1: each member is its word function, in whole numbers. -/
theorem laneIntegersAndImmediates : Obligations.LaneIntegersAndImmediates := ⟨laneIntegerArithmetic, laneImmediates⟩

/-! ### Logic, shifts, products and fields -/

theorem laneLogicAndShifts : LaneLogicAndShifts :=
  ⟨fun _ => .of_op (fun _ => rfl) fun _ _ => rfl,
   fun _ => .of_op (fun _ => rfl) fun _ _ => rfl,
   fun _ => .of_op (fun _ => rfl) fun _ _ => rfl,
   fun _ => .of_op (f := fun a b => a &&& ~~~ b) (fun _ => rfl) fun _ _ => rfl,
   fun _ => .of_op (f := fun a b => a ||| ~~~ b) (fun _ => rfl) fun _ _ => rfl,
   fun _ => .of_op (fun _ => rfl) fun _ => rfl,
   fun _ => .of_op (fun _ => rfl) shl_eq,
   fun _ => .of_op (fun _ => rfl) shrN_eq,
   fun _ => .of_op (fun _ => rfl) shrI_eq,
   fun _ => .of_op (fun _ => rfl) rotl_eq,
   fun _ => .of_op (fun _ => rfl) popc_eq,
   fun _ => .of_op (fun _ => rfl) clz_eq,
   fun _ => LaneDoes.of_laneOp (fun _ => rfl) fun _ _ _ => ⟨_, SetsReg.of_setV .., fun _ => getLsbD_brev _⟩,
   fun _ => LaneDoes.of_laneOp (fun _ => rfl) fun _ _ _ => ⟨_, SetsReg.of_setV .., fun _ hi =>
     (byte_bytsel _ _ hi).trans (bytsel1_eq ..)⟩⟩

theorem imadW_does (o : F4) : LaneDoes (.imadW o) 4 o.g fun _ _ a b => SetsPair a b o.d.toNat
    (BitVec.ofNat 64 ((a.v o.a.toNat).toNat * (a.v o.b.toNat).toNat + (a.vPair o.c.toNat).toNat)) :=
  LaneDoes.of_laneOp (fun _ => rfl) fun _ _ _ => by rw [← madW_eq]; exact SetsPair.of_setPair ..

theorem bfe_does (o : F3) : LaneDoes (.bfe o) 4 o.g fun _ _ a b =>
    let c := (a.v o.c.toNat).toNat
    let pos := c % 256
    let len := min (c / 256 % 256) 32
    let f := if len = 0 ∨ 32 ≤ pos then 0 else (a.v o.a.toNat).toNat / 2 ^ pos % 2 ^ len
    SetsReg a b o.d.toNat
      (BitVec.ofInt 32 (if (a.v o.c.toNat).getLsbD 16 = true ∧ 0 < len ∧ 2 ^ (len - 1) ≤ f then (f : Int) - 2 ^ len else f)) :=
  LaneDoes.of_laneOp (fun _ => rfl) fun _ _ a => by
    have field := bfe_eq (a.v o.a.toNat) (a.v o.c.toNat)
    exact field ▸ SetsReg.of_setV ..

theorem laneMultiplyAndFields : LaneMultiplyAndFields :=
  ⟨fun _ => .of_op (f := fun a b => a * b) (fun _ => rfl) mul_eq_ofNat,
   fun _ => .of_op (fun _ => rfl) mulhI_eq,
   fun _ => .of_op (fun _ => rfl) mulhN_eq,
   fun _ => .of_opMulw (fun _ => rfl) mulwI_eq,
   fun _ => .of_opMulw (fun _ => rfl) mulwN_eq,
   fun _ => .of_op (f := fun a b c => a * b + c) (fun _ => rfl) mad_eq,
   imadW_does,
   bfe_does,
   fun _ => .of_op (fun _ => rfl) bfi_eq,
   fun _ => .of_op (f := idp4 true) (fun _ => rfl) idp4_signed,
   fun _ => .of_op (f := idp4 false) (fun _ => rfl) idp4_unsigned⟩

/-- Settles O2: each member is its word function, in whole numbers and bits. -/
theorem laneLogicShiftsAndProducts : Obligations.LaneLogicShiftsAndProducts := ⟨laneLogicAndShifts, laneMultiplyAndFields⟩

/-! ### Uniform instructions -/

theorem uaddw_does (o : U3) : UniDoes (.uaddw o) (SSrc.len o.b) fun _ a b => SetsSPair a b o.d.toNat (BitVec.ofNat 64
    ((a.pair o.a.toNat).toNat + (match o.b with | .reg r => a.pair r.toNat | .lit w => BitVec.ofInt 64 w.toInt).toNat)) :=
  UniDoes.of_uniOp (fun _ => rfl) fun _ u => by
    rw [← SSrc.val64_eq, ← add_eq_ofNat]
    exact SetsSPair.of_setPair ..

theorem ushi_does (o : UshO) : UniDoes (.ushi o) 4 fun _ a b =>
    SetsS a b o.d.toNat (shiftOf o.k (a.sr o.a.toNat) o.c.toNat) :=
  UniDoes.of_uniOp (fun _ => rfl) fun _ u => by
    rw [← toNat_shiftCount o.c, ← shiftKind_eq]; exact SetsS.of_setS ..

/-- The first claim of O8, which holds: the members of R165 and R166 are the word functions of the lane members. -/
theorem uniformArithmetic : UniformArithmetic :=
  ⟨fun _ => .of_op (fun _ => rfl) add_eq_ofNat,
   fun _ => .of_op (fun _ => rfl) sub_eq_ofInt,
   fun _ => .of_op (fun _ => rfl) mul_eq_ofNat,
   fun _ => .of_op (fun _ => rfl) mulhN_eq,
   fun _ => .of_op (fun _ => rfl) minI_eq,
   fun _ => .of_op (fun _ => rfl) maxI_eq,
   fun _ => .of_op (fun _ => rfl) minN_eq,
   fun _ => .of_op (fun _ => rfl) maxN_eq,
   fun _ => .of_op (fun _ => rfl) fun _ _ => rfl,
   fun _ => .of_op (fun _ => rfl) fun _ _ => rfl,
   fun _ => .of_op (fun _ => rfl) fun _ _ => rfl,
   fun _ => .of_op (fun _ => rfl) shl_eq,
   fun _ => .of_op (fun _ => rfl) shrN_eq,
   fun _ => .of_op (fun _ => rfl) shrI_eq,
   fun _ => .of_op (fun _ => rfl) popc_eq,
   fun _ => .of_op (fun _ => rfl) clz_eq,
   uaddw_does,
   fun _ => .of_op fun _ => rfl, fun _ => .of_op fun _ => rfl, fun _ => .of_op fun _ => rfl,
   ushi_does⟩

/-! ### An index that another split has changed (R82, R92) -/

/-- ULANE of the lane of v0 that s3 names, into s5. -/
def laneOfS3 : UliO := ⟨5, 0, .reg 3⟩
/-- The instruction has issued while s3 was 1, and waits. -/
def issuedSplit : Split :=
  { mask := 3, st := .ready, pc := 0, latch := some { instr := .ulaneIdx laneOfS3, uni := ({} : Uniform).setS 3 1, seq := 1 } }
/-- Another split has made s3 0 since. Lane 1 holds 7 in v0, and lane 0 holds 0. -/
def changedGroup : Group :=
  { uid := 1, ctx := 0, blk := 0, idx := 0, live := 3, splits := [(0, issuedSplit)], lanes := [(1, ({} : Lane).setV 0 7)] }
def changedState : State := { cores := [(0, { groups := [(0, changedGroup)] })], run := some ⟨0, 0, 0⟩ }
def changedEx : Ex := ⟨0, 0, 0, changedGroup, issuedSplit⟩

theorem changedState_running : changedState.running = some changedEx := rfl
/-- The instruction reads s3 as it stood at its issue. -/
theorem exec_laneOfS3 : exec (.ulaneIdx laneOfS3) changedState =
    .next (changedState.done changedEx 4 fun g => g.modUni fun u => u.setS 5 7) := rfl

/-- Refutes O8: ULANE by an index reads its uniform operand as it stood when the instruction issued (R82, the latch), and the
statement reads it as it stands, where another split may have changed it while the instruction waited. -/
theorem not_uniformInstructions : ¬ Obligations.UniformInstructions := by
  intro h
  obtain ⟨-, -, -, -, -, -, -, -, -, ulaneIdx⟩ := h
  obtain ⟨t, g, next, only, step⟩ := ulaneIdx laneOfS3 changedState changedEx changedState_running
  obtain rfl : changedState.done changedEx 4 (fun g => g.modUni fun u => u.setS 5 7) = t := by
    injection exec_laneOfS3.symm.trans next
  have group : some _ = some g := (State.group_done 4 _ changedState_running).symm.trans only.group
  have value : g.uni.sr 5 = 0 := step.uni.value
  rw [← Option.some.inj group] at value
  exact absurd value (by decide)

end Sys2Proof.Proofs
end

section
/-! The rounding of a positive number into a format (R23, R28): the codes as multiples of their units, the multiple that a mode
takes, and the code and the flags that follow. -/
namespace Sys2Proof.Machine
open Sys2Proof.Claims

/-- What every format here has: fraction bits, a normal code, and codes that fit beside the sign bit, those of its infinity and
its NaN above the finite ones. -/
structure Fmt.Regular (f : Fmt) : Prop where
  frac : 0 < f.m
  normal : 2 ^ f.m ≤ f.maxFin
  top : f.maxFin < 2 ^ (f.w + f.m)
  inf : ∀ i, f.inf = some i → f.maxFin < i ∧ i < 2 ^ (f.w + f.m)
  nan : ∀ q, f.nan = some q → f.maxFin < q ∧ q < 2 ^ (f.w + f.m)

theorem regular_of_mem {f : Fmt} (h : f ∈ [fF32, fF16, fBf16, fE4m3, fE5m2, fE2m1]) : f.Regular := by
  have all : ∀ f ∈ [fF32, fF16, fBf16, fE4m3, fE5m2, fE2m1], 0 < f.m ∧ 2 ^ f.m ≤ f.maxFin ∧ f.maxFin < 2 ^ (f.w + f.m) ∧
      (∀ i ∈ f.inf, f.maxFin < i ∧ i < 2 ^ (f.w + f.m)) ∧ ∀ q ∈ f.nan, f.maxFin < q ∧ q < 2 ^ (f.w + f.m) := by decide
  obtain ⟨frac, normal, top, inf, nan⟩ := all f h
  exact ⟨frac, normal, top, inf, nan⟩

/-! ### Codes as multiples of a unit -/

/-- The magnitude of a code without its sign, in units of 2^(ulp k). -/
def Fmt.sig (f : Fmt) (k : Nat) : Nat := if k < 2 ^ f.m then k else 2 ^ f.m + k % 2 ^ f.m
/-- The exponent of the distance from a code to the next one. -/
def Fmt.ulp (f : Fmt) (k : Nat) : Int :=
  if k < 2 ^ f.m then 1 - (f.bias : Int) - f.m else ((k / 2 ^ f.m : Nat) : Int) - f.bias - f.m

theorem magOf_eq (f : Fmt) (k : Nat) : magOf f k = f.sig k * 2 ^ f.ulp k := by
  unfold magOf Fmt.sig Fmt.ulp; split_ifs <;> rfl

/-- A normal code, by its exponent and its fraction. -/
theorem sig_normal (f : Fmt) {e r : Nat} (he : 0 < e) (hr : r < 2 ^ f.m) : f.sig (e * 2 ^ f.m + r) = 2 ^ f.m + r := by
  have normal : ¬ e * 2 ^ f.m + r < 2 ^ f.m := by have := Nat.le_mul_of_pos_left (2 ^ f.m) he; omega
  rw [Fmt.sig, if_neg normal, Nat.mul_add_mod_self_right, Nat.mod_eq_of_lt hr]
theorem ulp_normal (f : Fmt) {e r : Nat} (he : 0 < e) (hr : r < 2 ^ f.m) : f.ulp (e * 2 ^ f.m + r) = (e : Int) - f.bias - f.m := by
  have normal : ¬ e * 2 ^ f.m + r < 2 ^ f.m := by have := Nat.le_mul_of_pos_left (2 ^ f.m) he; omega
  rw [Fmt.ulp, if_neg normal, Nat.mul_comm e, Nat.mul_add_div (Nat.two_pow_pos _), Nat.div_eq_of_lt hr, Nat.add_zero]
/-- A code is subnormal or normal. -/
theorem code_cases (m k : Nat) : k < 2 ^ m ∨ ∃ e r, 0 < e ∧ r < 2 ^ m ∧ k = e * 2 ^ m + r := by
  refine (lt_or_ge k (2 ^ m)).imp_right fun normal => ⟨k / 2 ^ m, k % 2 ^ m, ?_, ?_, ?_⟩
  · exact Nat.div_pos normal (Nat.two_pow_pos _)
  · exact Nat.mod_lt _ (Nat.two_pow_pos _)
  · exact (Nat.div_add_mod' ..).symm

/-- The next code is one unit greater: the first code of a new exponent counts twice the units at half the size. -/
theorem magOf_succ (f : Fmt) (k : Nat) : magOf f (k + 1) = (f.sig k + 1 : Nat) * 2 ^ f.ulp k := by
  have pos := Nat.two_pow_pos f.m
  rw [magOf_eq]
  obtain sub | ⟨e, r, he, hr, rfl⟩ := code_cases f.m k
  · rw [Fmt.sig.eq_def f k, Fmt.ulp.eq_def f k, if_pos sub, if_pos sub]
    obtain inside | first : k + 1 < 2 ^ f.m ∨ k + 1 = 1 * 2 ^ f.m + 0 := by omega
    · rw [Fmt.sig, Fmt.ulp, if_pos inside, if_pos inside]
    · rw [first, sig_normal f one_pos pos, ulp_normal f one_pos pos, Nat.one_mul, Nat.cast_one]
  · rw [sig_normal f he hr, ulp_normal f he hr]
    obtain inside | last : r + 1 < 2 ^ f.m ∨ r + 1 = 2 ^ f.m := by omega
    · rw [Nat.add_assoc, sig_normal f he inside, ulp_normal f he inside, Nat.add_assoc]
    · rw [Nat.add_assoc, Nat.add_assoc, last, ← Nat.succ_mul, ← Nat.add_zero (e.succ * 2 ^ f.m),
        sig_normal f e.succ_pos pos, ulp_normal f e.succ_pos pos, ← two_mul, Nat.add_zero, Nat.cast_mul, Nat.cast_two,
        mul_right_comm, mul_comm (2 : ℚ), ← zpow_add_one₀ two_ne_zero, mul_comm]
      congr 2; push_cast; ring

theorem sig_le (f : Fmt) (k : Nat) : f.sig k < 2 ^ (f.m + 1) := by
  have := Nat.mod_lt k (Nat.two_pow_pos f.m)
  unfold Fmt.sig; split_ifs <;> omega
theorem le_sig {f : Fmt} {k : Nat} (h : 2 ^ f.m ≤ k) : 2 ^ f.m ≤ f.sig k := by
  rw [Fmt.sig, if_neg h.not_gt]; exact Nat.le_add_right ..
theorem sig_mod_two {f : Fmt} (frac : 0 < f.m) (k : Nat) : f.sig k % 2 = k % 2 := by
  have even : 2 ∣ 2 ^ f.m := dvd_pow_self 2 frac.ne'
  unfold Fmt.sig
  split_ifs
  · rfl
  · rw [Nat.add_mod, Nat.mod_mod_of_dvd _ even, Nat.mod_eq_zero_of_dvd even, Nat.zero_add, Nat.mod_mod]

theorem magOf_strictMono (f : Fmt) : StrictMono (magOf f) := strictMono_nat_of_lt_succ fun k => by
  rw [magOf_succ, magOf_eq]
  exact mul_lt_mul_of_pos_right (by exact_mod_cast Nat.lt_succ_self _) (by positivity)
theorem magOf_zero (f : Fmt) : magOf f 0 = 0 := by
  rw [magOf_eq, Fmt.sig, if_pos (Nat.two_pow_pos _), Nat.cast_zero, zero_mul]

/-! ### The multiple that a mode takes (R28) -/

/-- A mode takes the upper of two neighbours of a magnitude, which stand `below` under it and `above` over it, where the lower is
`a` units. -/
def Rnd.up (r : Rnd) (neg : Bool) (below above : ℚ) (a : Nat) : Bool :=
  match r with
  | .rn => !decide (below < above ∨ below = above ∧ a % 2 = 0)
  | .rz => false
  | .rm => neg
  | .rp => !neg

/-- x, between a and a + 1 units, in units. -/
def Rnd.units (r : Rnd) (neg : Bool) (x unit : ℚ) (a : Nat) : Nat :=
  if x = a * unit then a else if r.up neg (x - a * unit) ((a + 1 : Nat) * unit - x) a then a + 1 else a

theorem Rnd.units_mem (r : Rnd) (neg : Bool) (x unit : ℚ) (a : Nat) : r.units neg x unit a = a ∨ r.units neg x unit a = a + 1 := by
  unfold Rnd.units; split_ifs <;> simp

theorem zpow_split (e q : Int) (h : e ≤ q) : (2 : ℚ) ^ q = (2 ^ (q - e).toNat : Nat) * 2 ^ e := by
  rw [Nat.cast_pow, ← zpow_natCast, Int.toNat_of_nonneg (by omega), Nat.cast_ofNat, ← zpow_add₀ two_ne_zero]
  congr 1; omega

section
variable {a rest h : Nat} {s : ℚ} (pos : 0 < s)
include pos

/-- a units of 2h parts and `rest` parts more, each of size s: whole units where there is no rest. -/
theorem parts_exact : ((a * (2 * h) + rest : Nat) * s : ℚ) = a * ((2 * h : Nat) * s) ↔ rest = 0 := by
  rw [← mul_assoc (a : ℚ), ← Nat.cast_mul, mul_left_inj' pos.ne', Nat.cast_inj]; omega

theorem Rnd.units_parts (r : Rnd) (neg : Bool) (hrest : rest < 2 * h) :
    r.units neg ((a * (2 * h) + rest : Nat) * s) ((2 * h : Nat) * s) a =
      if rest ≠ 0 ∧ r.up neg rest (2 * h - rest : Nat) a = true then a + 1 else a := by
  have below : ((a * (2 * h) + rest : Nat) * s : ℚ) - a * ((2 * h : Nat) * s) = rest * s := by push_cast; ring
  have above : ((a + 1 : Nat) : ℚ) * ((2 * h : Nat) * s) - (a * (2 * h) + rest : Nat) * s = (2 * h - rest : Nat) * s := by
    rw [Nat.cast_sub hrest.le]; push_cast; ring
  have same : r.up neg (rest * s) ((2 * h - rest : Nat) * s) a = r.up neg rest (2 * h - rest : Nat) a := by
    cases r <;> simp only [Rnd.up, mul_lt_mul_iff_left₀ pos, mul_left_inj' pos.ne']
  rw [Rnd.units, below, above, same]
  simp only [parts_exact pos]
  by_cases none : rest = 0 <;> simp [none]
end

/-- The model's choice of the upper neighbour, by the remainder, is that of the mode. -/
theorem roundAt_parts (r : Rnd) (neg : Bool) {a rest j : Nat} {e q : Int} (fine : e < q) (hj : (q - e).toNat = j + 1)
    (hrest : rest < 2 * 2 ^ j) : roundAt r neg (a * (2 * 2 ^ j) + rest) e q false =
      (if rest ≠ 0 ∧ r.up neg rest (2 * 2 ^ j - rest : Nat) a = true then a + 1 else a, decide (rest ≠ 0)) := by
  have quot : (a * (2 * 2 ^ j) + rest) / (2 * 2 ^ j) = a := by
    rw [Nat.mul_comm a, Nat.mul_add_div (by positivity), Nat.div_eq_of_lt hrest, Nat.add_zero]
  have remainder : (a * (2 * 2 ^ j) + rest) % (2 * 2 ^ j) = rest := by
    rw [Nat.mul_add_mod_self_right, Nat.mod_eq_of_lt hrest]
  have pos : 0 < 2 ^ j := Nat.two_pow_pos j
  rw [roundAt, if_neg fine.not_ge, hj]
  simp only [pow_succ' 2 j, quot, remainder, Nat.add_sub_cancel]
  refine Prod.ext ?_ (Bool.eq_iff_iff.2 (by simp))
  generalize 2 ^ j = h at *
  have nearest : (rest ≠ 0 ∧ (!decide (rest < 2 * h - rest ∨ rest = 2 * h - rest ∧ a % 2 = 0)) = true) ↔
      (decide (rest > h) || (rest == h && (false || a % 2 == 1))) = true := by
    simp; omega
  have directed : ∀ side : Bool, (rest ≠ 0 ∧ side = true) ↔ ((rest != 0 || false) && side) = true := by simp
  cases r
  case rn => simp only [Rnd.up, Nat.cast_lt, Nat.cast_inj, nearest]
  case rz => simp [Rnd.up]
  case rm => simp only [Rnd.up, directed]
  case rp => simp only [Rnd.up, directed]

/-- Rounding to multiples of 2^q takes the units of the mode. -/
theorem roundAt_eq (r : Rnd) (neg : Bool) {n a : Nat} {e q : Int} (lo : (a : ℚ) * 2 ^ q ≤ n * 2 ^ e)
    (hi : (n : ℚ) * 2 ^ e < (a + 1 : Nat) * 2 ^ q) :
    roundAt r neg n e q false = (r.units neg (n * 2 ^ e) (2 ^ q) a, decide ((n : ℚ) * 2 ^ e ≠ a * 2 ^ q)) := by
  obtain coarse | fine := le_or_gt q e
  · have unit : (0 : ℚ) < 2 ^ q := by positivity
    rw [zpow_split q e coarse, ← mul_assoc, ← Nat.cast_mul] at lo hi ⊢
    have low : a ≤ n * 2 ^ (e - q).toNat := by exact_mod_cast (mul_le_mul_iff_left₀ unit).1 lo
    have high : n * 2 ^ (e - q).toNat < a + 1 := by exact_mod_cast (mul_lt_mul_iff_left₀ unit).1 hi
    have whole : n * 2 ^ (e - q).toNat = a := by omega
    rw [roundAt, if_pos coarse, whole, Rnd.units, if_pos rfl]
    simp
  · have unit : (0 : ℚ) < 2 ^ e := by positivity
    obtain ⟨j, hj⟩ : ∃ j, (q - e).toNat = j + 1 := Nat.exists_eq_succ_of_ne_zero (by omega)
    rw [zpow_split e q fine.le, hj, pow_succ', ← mul_assoc, ← Nat.cast_mul] at lo
    rw [zpow_split e q fine.le, hj, pow_succ', ← mul_assoc, ← Nat.cast_mul] at hi
    have low : a * (2 * 2 ^ j) ≤ n := by exact_mod_cast (mul_le_mul_iff_left₀ unit).1 lo
    have high : n < a * (2 * 2 ^ j) + 2 * 2 ^ j := by exact_mod_cast Nat.succ_mul .. ▸ (mul_lt_mul_iff_left₀ unit).1 hi
    obtain ⟨rest, rfl⟩ := Nat.exists_eq_add_of_le low
    have hrest : rest < 2 * 2 ^ j := by omega
    rw [roundAt_parts r neg fine hj hrest, zpow_split e q fine.le, hj, pow_succ', Rnd.units_parts unit r neg hrest]
    simp only [ne_eq, parts_exact unit]

/-! ### The code and the flags of a rounded number (R28, R36) -/

/-- The code that a positive number x between the codes k and k + 1 rounds to. -/
def Fmt.rounded (f : Fmt) (r : Rnd) (neg : Bool) (x : ℚ) (k : Nat) : Nat :=
  if x = magOf f k then k else if r.up neg (x - magOf f k) (magOf f (k + 1) - x) k then k + 1 else k

theorem Fmt.rounded_mem (f : Fmt) (r : Rnd) (neg : Bool) (x : ℚ) (k : Nat) :
    f.rounded r neg x k = k ∨ f.rounded r neg x k = k + 1 := by
  unfold Fmt.rounded; split_ifs <;> simp

/-- The leading bit of a positive number n × 2^e. -/
theorem log2_bounds {n : Nat} (pos : 0 < n) (e : Int) :
    (2 : ℚ) ^ ((n.log2 : Int) + e) ≤ n * 2 ^ e ∧ (n : ℚ) * 2 ^ e < 2 ^ ((n.log2 : Int) + e + 1) := by
  have unit : (0 : ℚ) < 2 ^ e := by positivity
  constructor
  · rw [zpow_add₀ two_ne_zero, zpow_natCast]
    exact mul_le_mul_of_nonneg_right (by exact_mod_cast Nat.log2_self_le pos.ne') unit.le
  · rw [add_right_comm, zpow_add₀ two_ne_zero, mul_lt_mul_iff_left₀ unit]
    exact_mod_cast Nat.lt_log2_self

theorem pow_mul_zpow (m : Nat) (z : Int) : ((2 ^ m : Nat) : ℚ) * 2 ^ (z - m) = 2 ^ z := by
  rw [Nat.cast_pow, Nat.cast_ofNat, ← zpow_natCast, ← zpow_add₀ two_ne_zero, add_sub_cancel]
theorem lt_of_zpow_lt {y z : Int} {x : ℚ} (lo : 2 ^ y ≤ x) (hi : x < 2 ^ z) : y < z :=
  (zpow_lt_zpow_iff_right₀ one_lt_two).1 (lo.trans_lt hi)

/-- Below the normal codes every magnitude is under the least normal one. -/
theorem magOf_succ_le {f : Fmt} {k : Nat} (sub : k < 2 ^ f.m) : magOf f (k + 1) ≤ 2 ^ (1 - (f.bias : Int)) := by
  rw [magOf_succ, Fmt.sig, Fmt.ulp, if_pos sub, if_pos sub]
  have within : ((k + 1 : Nat) : ℚ) ≤ (2 ^ f.m : Nat) := Nat.cast_le.2 sub
  have unit : (0 : ℚ) ≤ 2 ^ (1 - (f.bias : Int) - f.m) := by positivity
  exact (mul_le_mul_of_nonneg_right within unit).trans_eq (pow_mul_zpow ..)
/-- A normal code has the leading bit of its exponent. -/
theorem magOf_normal (f : Fmt) {e r : Nat} (he : 0 < e) (hr : r < 2 ^ f.m) :
    (2 : ℚ) ^ ((e : Int) - f.bias) ≤ magOf f (e * 2 ^ f.m + r) ∧ magOf f (e * 2 ^ f.m + r + 1) ≤ 2 ^ ((e : Int) - f.bias + 1) := by
  have low : ((2 ^ f.m : Nat) : ℚ) ≤ (2 ^ f.m + r : Nat) := Nat.cast_le.2 (Nat.le_add_right ..)
  have high : ((2 ^ f.m + r + 1 : Nat) : ℚ) ≤ (2 ^ f.m : Nat) * 2 := by exact_mod_cast (by omega : 2 ^ f.m + r + 1 ≤ 2 ^ f.m * 2)
  have unit : (0 : ℚ) ≤ 2 ^ ((e : Int) - f.bias - f.m) := by positivity
  rw [magOf_succ, magOf_eq, sig_normal f he hr, ulp_normal f he hr, zpow_add_one₀ two_ne_zero,
    ← pow_mul_zpow f.m ((e : Int) - f.bias), mul_right_comm]
  exact ⟨mul_le_mul_of_nonneg_right low unit, mul_le_mul_of_nonneg_right high unit⟩

section
variable {f : Fmt} {n k : Nat} {e : Int} (pos : 0 < n) (lo : magOf f k ≤ n * 2 ^ e) (hi : (n : ℚ) * 2 ^ e < magOf f (k + 1))
include pos

/-- The leading bit of a number, by the code below it. -/
theorem log2_of_sub (sub : k < 2 ^ f.m) (hi : (n : ℚ) * 2 ^ e < magOf f (k + 1)) : (n.log2 : Int) + e < 1 - f.bias :=
  lt_of_zpow_lt (log2_bounds pos e).1 (hi.trans_le (magOf_succ_le sub))
include lo hi
theorem log2_of_normal (normal : 2 ^ f.m ≤ k) : (n.log2 : Int) + e = (k / 2 ^ f.m : Nat) - f.bias := by
  obtain sub | ⟨x, r, hx, hr, rfl⟩ := code_cases f.m k
  · omega
  · rw [Nat.mul_comm x, Nat.mul_add_div (Nat.two_pow_pos _), Nat.div_eq_of_lt hr, Nat.add_zero]
    rw [Nat.mul_comm x] at lo hi
    have bounds := magOf_normal f hx hr
    rw [Nat.mul_comm x] at bounds
    have low := lt_of_zpow_lt (log2_bounds pos e).1 (hi.trans_le bounds.2)
    have high := lt_of_zpow_lt (bounds.1.trans lo) (log2_bounds pos e).2
    omega

/-- The unit that the model rounds to is that of the code below. -/
theorem unit_of_round : max ((n.log2 : Int) + e) (1 - (f.bias : Int)) - f.m = f.ulp k := by
  obtain sub | normal := lt_or_ge k (2 ^ f.m)
  · have top := log2_of_sub pos sub hi
    rw [Fmt.ulp, if_pos sub]; omega
  · have top := log2_of_normal pos lo hi normal
    have exp : 0 < k / 2 ^ f.m := Nat.div_pos normal (Nat.two_pow_pos _)
    rw [Fmt.ulp, if_neg normal.not_gt]; omega
end

/-- The code of a significand in units of the code k. -/
def Fmt.encode (f : Fmt) (k s : Nat) : Nat :=
  if s < 2 ^ f.m then s else (f.ulp k + f.m + f.bias).toNat * 2 ^ f.m + (s - 2 ^ f.m)

theorem encode_sig (f : Fmt) (k : Nat) : f.encode k (f.sig k) = k ∧ f.encode k (f.sig k + 1) = k + 1 := by
  have pos := Nat.two_pow_pos f.m
  obtain sub | ⟨x, r, hx, hr, rfl⟩ := code_cases f.m k
  · have exp : (f.ulp k + f.m + f.bias).toNat = 1 := by rw [Fmt.ulp, if_pos sub]; omega
    have sig : f.sig k = k := if_pos sub
    rw [Fmt.encode, Fmt.encode, sig, exp, if_pos sub]
    refine ⟨rfl, ?_⟩
    split_ifs <;> omega
  · have exp : (f.ulp (x * 2 ^ f.m + r) + f.m + f.bias).toNat = x := by rw [ulp_normal f hx hr]; omega
    rw [Fmt.encode, Fmt.encode, exp, sig_normal f hx hr, if_neg (by omega), if_neg (by omega)]
    omega

/-- The significand that the mode takes is that of the code that it takes. -/
theorem encode_units {f : Fmt} (frac : 0 < f.m) (r : Rnd) (neg : Bool) (x : ℚ) (k : Nat) :
    f.encode k (r.units neg x (2 ^ f.ulp k) (f.sig k)) = f.rounded r neg x k := by
  have parity : ∀ b u : ℚ, r.up neg b u (f.sig k) = r.up neg b u k := fun b u => by
    cases r <;> simp only [Rnd.up, sig_mod_two frac]
  rw [Rnd.units, Fmt.rounded, ← magOf_succ, ← magOf_eq, parity, apply_ite (f.encode k), apply_ite (f.encode k),
    (encode_sig f k).1, (encode_sig f k).2]

theorem exists_units {x unit : ℚ} (nonneg : 0 ≤ x) (pos : 0 < unit) : ∃ a : Nat, a * unit ≤ x ∧ x < (a + 1 : Nat) * unit := by
  refine ⟨⌊x / unit⌋₊, ?_, ?_⟩
  · rw [← le_div_iff₀ pos]; exact Nat.floor_le (by positivity)
  · rw [← div_lt_iff₀ pos]; exact_mod_cast Nat.lt_floor_add_one _

/-- The model's test that a number is tiny, after rounding. -/
def Fmt.tiny (f : Fmt) (r : Rnd) (neg : Bool) (n : Nat) (e : Int) : Bool :=
  let top := (n.log2 : Int) + e
  decide (top < 1 - f.bias) && !(decide (top = 1 - f.bias - 1) && (roundAt r neg n e (top - f.m) false).1 == 2 ^ (f.m + 1))

section
variable {f : Fmt} {n k : Nat} {e : Int} (r : Rnd) (neg : Bool) (pos : 0 < n) (lo : magOf f k ≤ n * 2 ^ e)
  (hi : (n : ℚ) * 2 ^ e < magOf f (k + 1))
include pos hi

/-- A number well below the normal ones rounds to less than one with a unit of its own size too. -/
theorem tiny_of_sub (sub : k + 1 < 2 ^ f.m) : f.tiny r neg n e = true := by
  have top := log2_of_sub pos (by omega) hi
  rw [Fmt.tiny, decide_eq_true top, Bool.true_and, Bool.not_eq_true', Bool.and_eq_false_imp, decide_eq_true_eq]
  intro edge
  obtain ⟨a, low, high⟩ := exists_units (x := n * 2 ^ e) (unit := 2 ^ ((n.log2 : Int) + e - f.m)) (by positivity) (by positivity)
  have unit : (2 : ℚ) ^ f.ulp k = 2 * 2 ^ ((n.log2 : Int) + e - f.m) := by
    rw [Fmt.ulp, if_pos (by omega), edge, mul_comm, ← zpow_add_one₀ two_ne_zero]; congr 1; omega
  have bound : a < (k + 1) * 2 := by
    rw [magOf_succ, Fmt.sig, if_pos (by omega), unit, ← mul_assoc] at hi
    exact_mod_cast (mul_lt_mul_iff_left₀ (by positivity)).1 (low.trans_lt hi)
  rw [roundAt_eq r neg low high]
  refine beq_false_of_ne (Nat.ne_of_lt ?_)
  rw [pow_succ]
  obtain h | h := r.units_mem neg (n * 2 ^ e) (2 ^ ((n.log2 : Int) + e - f.m)) a <;> rw [h] <;> omega
include lo
theorem tiny_of_normal (normal : 2 ^ f.m ≤ k) : f.tiny r neg n e = false := by
  have top := log2_of_normal pos lo hi normal
  have exp : 0 < k / 2 ^ f.m := Nat.div_pos normal (Nat.two_pow_pos _)
  rw [Fmt.tiny, decide_eq_false (by omega), Bool.false_and]

/-- What the one rounding gives for a number between two codes. -/
theorem round_eq (frac : 0 < f.m) (sat : Bool) : f.round r sat neg n e =
    if f.rounded r neg (n * 2 ^ e) k > f.maxFin then (f.overflow r sat neg, flOF ||| flIX)
    else (f.code neg (f.rounded r neg (n * 2 ^ e) k), flWhen (decide ((n : ℚ) * 2 ^ e ≠ magOf f k)) flIX |||
      flWhen (decide ((n : ℚ) * 2 ^ e ≠ magOf f k) && f.tiny r neg n e) flUF) := by
  have unit := unit_of_round pos lo hi
  rw [magOf_eq] at lo
  rw [magOf_succ] at hi
  rw [Fmt.round]
  simp only [unit]
  rw [roundAt_eq r neg lo hi, ← magOf_eq, ← encode_units frac]
  rfl
end

end Sys2Proof.Machine
end

section
/-! The rounding of the statements is the model's: `RoundsTo` (R28, R31, R36). -/
namespace Sys2Proof.Machine
open Sys2Proof.Claims

/-! ### Codes with a sign -/

theorem code_eq (f : Fmt) (neg : Bool) (k : Nat) : f.code neg k = (if neg then 2 ^ (f.w + f.m) else 0) + k := by
  cases neg
  · exact (Nat.zero_add k).symm
  · rfl
theorem mag_code {f : Fmt} (neg : Bool) {k : Nat} (h : k < 2 ^ (f.w + f.m)) : f.mag (f.code neg k) = k := by
  rw [code_eq, Fmt.mag, Fmt.sbit]
  cases neg <;> simp [Nat.mod_eq_of_lt h]
theorem neg_code {f : Fmt} (neg : Bool) {k : Nat} (h : k < 2 ^ (f.w + f.m)) : f.neg (f.code neg k) = neg := by
  rw [code_eq, Fmt.neg]
  cases neg
  · simpa using Nat.testBit_lt_two_pow h
  · simp [Nat.testBit_two_pow_add_eq, Nat.testBit_lt_two_pow h]
theorem sub_code {f : Fmt} (neg : Bool) {k : Nat} (h : k < 2 ^ (f.w + f.m)) :
    f.sub (f.code neg k) = (k != 0 && decide (k < 2 ^ f.m)) := by
  rw [Fmt.sub, mag_code neg h]

theorem flushOut_off (f : Fmt) (y : Nat × Flags) : f.flushOut false y = y := rfl
theorem flushOut_normal {f : Fmt} (ftz neg : Bool) {k : Nat} (fl : Flags) (h : k < 2 ^ (f.w + f.m)) (normal : k = 0 ∨ 2 ^ f.m ≤ k) :
    f.flushOut ftz (f.code neg k, fl) = (f.code neg k, fl) := by
  have notSub : f.sub (f.code neg k) = false := by
    rw [sub_code neg h]; simp; omega
  rw [Fmt.flushOut, notSub, Bool.and_false]; rfl
theorem flushOut_sub {f : Fmt} (neg : Bool) {k : Nat} (fl : Flags) (h : k < 2 ^ (f.w + f.m)) (some : k ≠ 0) (sub : k < 2 ^ f.m) :
    f.flushOut true (f.code neg k, fl) = (f.code neg 0, fl ||| flUF ||| flIX) := by
  have isSub : f.sub (f.code neg k) = true := by rw [sub_code neg h]; simp [some, sub]
  rw [Fmt.flushOut, isSub, neg_code neg h]; rfl

/-! ### Every positive number stands between two codes -/

theorem exists_code_below {f : Fmt} {x : ℚ} (nonneg : 0 ≤ x) {n : Nat} (h : x < magOf f n) :
    ∃ k, k < n ∧ magOf f k ≤ x ∧ x < magOf f (k + 1) := by
  induction n with
  | zero => rw [magOf_zero] at h; exact absurd h nonneg.not_gt
  | succ n ih =>
    obtain low | high := lt_or_ge x (magOf f n)
    · obtain ⟨k, hk, between⟩ := ih low
      exact ⟨k, hk.trans n.lt_succ_self, between⟩
    · exact ⟨n, n.lt_succ_self, high, h⟩
theorem exists_magOf_gt (f : Fmt) (x : ℚ) : ∃ n, x < magOf f n := by
  obtain ⟨e, he⟩ := pow_unbounded_of_one_lt (x * 2 ^ f.bias) (one_lt_two (α := ℚ))
  refine ⟨(e + 1) * 2 ^ f.m + 0, lt_of_lt_of_le ?_ (magOf_normal f e.succ_pos (Nat.two_pow_pos _)).1⟩
  calc x < 2 ^ e / 2 ^ f.bias := (lt_div_iff₀ (by positivity)).2 he
    _ = 2 ^ ((e : Int) - f.bias) := by rw [zpow_sub₀ two_ne_zero, zpow_natCast, zpow_natCast]
    _ ≤ 2 ^ (((e + 1 : Nat) : Int) - f.bias) := zpow_le_zpow_right₀ one_le_two (by push_cast; omega)
theorem exists_code {f : Fmt} {x : ℚ} (nonneg : 0 ≤ x) : ∃ k, magOf f k ≤ x ∧ x < magOf f (k + 1) :=
  let ⟨_, h⟩ := exists_magOf_gt f x
  let ⟨k, _, between⟩ := exists_code_below nonneg h
  ⟨k, between⟩

/-- A number with few enough bits, in a unit no finer than that of the subnormal codes, is the magnitude of a code. -/
theorem exists_magOf_eq {f : Fmt} {n : Nat} {e : Int} (bits : n ≤ 2 ^ (f.m + 1)) (unit : 1 - (f.bias : Int) - f.m ≤ e) :
    ∃ k, magOf f k = n * 2 ^ e := by
  obtain ⟨k, lo, hi⟩ := exists_code (f := f) (x := n * 2 ^ e) (by positivity)
  refine ⟨k, lo.antisymm ?_⟩
  obtain coarse | fine := le_or_gt (f.ulp k) e
  · rw [magOf_succ, zpow_split _ _ coarse, ← mul_assoc, ← Nat.cast_mul] at hi
    have whole : n * 2 ^ (e - f.ulp k).toNat < f.sig k + 1 := by exact_mod_cast (mul_lt_mul_iff_left₀ (by positivity)).1 hi
    rw [magOf_eq, zpow_split _ _ coarse, ← mul_assoc, ← Nat.cast_mul]
    exact mul_le_mul_of_nonneg_right (Nat.cast_le.2 (Nat.le_of_lt_succ whole)) (by positivity)
  · have normal : 2 ^ f.m ≤ k := by
      by_contra sub
      rw [Fmt.ulp, if_pos (not_le.1 sub)] at fine
      omega
    calc (n : ℚ) * 2 ^ e ≤ (2 ^ (f.m + 1) : Nat) * 2 ^ e := mul_le_mul_of_nonneg_right (Nat.cast_le.2 bits) (by positivity)
      _ = (2 ^ f.m : Nat) * 2 ^ (e + 1) := by rw [zpow_add_one₀ two_ne_zero]; push_cast; ring
      _ ≤ f.sig k * 2 ^ f.ulp k := mul_le_mul (Nat.cast_le.2 (le_sig normal)) (zpow_le_zpow_right₀ one_le_two fine)
          (by positivity) (by positivity)
      _ = magOf f k := (magOf_eq f k).symm

/-! ### The rounding of the statements -/

theorem rounded_eq_neighbour (f : Fmt) (r : Rnd) (x : ℚ) (k : Nat) :
    f.rounded r (decide (x < 0)) |x| k = if |x| = magOf f k then k else neighbour f r x k := by
  unfold Fmt.rounded neighbour
  cases r <;> simp only [Rnd.up, Bool.not_eq_true', decide_eq_false_iff_not, decide_eq_true_eq, ite_not, Bool.false_eq_true, if_false]

/-- A number with a sign. -/
def withSign (neg : Bool) (x : ℚ) : ℚ := if neg then -x else x
theorem abs_withSign (neg : Bool) {x : ℚ} (h : 0 ≤ x) : |withSign neg x| = x := by
  cases neg
  · exact abs_of_nonneg h
  · exact (abs_neg x).trans (abs_of_nonneg h)
theorem withSign_neg (neg : Bool) {x : ℚ} (h : 0 < x) : decide (withSign neg x < 0) = neg := by
  cases neg
  · exact decide_eq_false h.le.not_gt
  · exact decide_eq_true (neg_lt_zero.2 h)

theorem withSign_lt_zero (neg : Bool) {x : ℚ} (h : 0 < x) : withSign neg x < 0 ↔ neg = true := by
  rw [← decide_eq_true_iff (p := withSign neg x < 0), withSign_neg neg h]
theorem zero_lt_withSign (neg : Bool) {x : ℚ} (h : 0 < x) : 0 < withSign neg x ↔ neg = false := by
  cases neg
  · exact iff_of_true h rfl
  · exact iff_of_false (neg_lt_zero.2 h).not_gt (by simp)

/-- The statements' rounding of a number with a sign, in terms of its magnitude. -/
theorem roundsTo_of_withSign {f : Fmt} {r : Rnd} {ftz neg : Bool} {x : ℚ} {y : Nat × Flags} (pos : 0 < x)
    (between : ∀ k, k < f.maxFin → (ftz = false ∨ 2 ^ f.m ≤ k) → magOf f k ≤ x → x < magOf f (k + 1) →
      y.1 = f.code neg (f.rounded r neg x k) ∧ (x = magOf f k → y.2 = 0) ∧ (x ≠ magOf f k → 2 ^ f.m ≤ k → y.2 = flIX) ∧
      (x ≠ magOf f k → k + 1 < 2 ^ f.m → y.2 = flIX ||| flUF))
    (flushed : ftz = true → x ≤ magOf f (2 ^ f.m - 1) → y = (f.code neg 0, flUF ||| flIX))
    (beyond : ∀ i, f.inf = some i → magOf f (f.maxFin + 1) ≤ x →
      y = (f.code neg (if r.toInf neg = true then i else f.maxFin), flOF ||| flIX)) :
    RoundsTo f r ftz (withSign neg x) y := by
  have near : ∀ k, (if x = magOf f k then k else neighbour f r (withSign neg x) k) = f.rounded r neg x k := fun k => by
    have rounded := rounded_eq_neighbour f r (withSign neg x) k
    rw [abs_withSign neg pos.le, withSign_neg neg pos] at rounded
    exact rounded.symm
  have sign : ∀ k, (if withSign neg x < 0 then 2 ^ (f.w + f.m) else 0) + k = f.code neg k := fun k => by
    rw [code_eq]; simp only [withSign_lt_zero neg pos]
  have toInf : (r = .rn ∨ (r = .rm ∧ withSign neg x < 0) ∨ (r = .rp ∧ 0 < withSign neg x)) ↔ r.toInf neg = true := by
    rw [withSign_lt_zero neg pos, zero_lt_withSign neg pos]
    cases r <;> cases neg <;> decide
  unfold RoundsTo
  simp only [abs_withSign neg pos.le, near, sign, toInf]
  refine ⟨between, ?_, beyond⟩
  rw [← sign] at flushed
  exact flushed

theorem round_exact {f : Fmt} (hf : f.Regular) (r : Rnd) (sat neg : Bool) {n k : Nat} {e : Int} (pos : 0 < n)
    (value : magOf f k = n * 2 ^ e) (fin : k ≤ f.maxFin) : f.round r sat neg n e = (f.code neg k, 0) := by
  have here : f.rounded r neg (n * 2 ^ e) k = k := if_pos value.symm
  rw [round_eq r neg pos value.le (value ▸ magOf_strictMono f k.lt_succ_self) hf.frac, here, if_neg fin.not_gt, value]
  simp [flWhen]

section
variable {f : Fmt} (hf : f.Regular) (r : Rnd) (neg : Bool) {n : Nat} {e : Int} (pos : 0 < n)
include hf pos

theorem round_overflow {sat : Bool} (big : magOf f (f.maxFin + 1) ≤ n * 2 ^ e) :
    f.round r sat neg n e = (f.overflow r sat neg, flOF ||| flIX) := by
  obtain ⟨k, lo, hi⟩ := exists_code (f := f) (x := n * 2 ^ e) (by positivity)
  have beyond : f.maxFin + 1 < k + 1 := (magOf_strictMono f).lt_iff_lt.1 (big.trans_lt hi)
  have over' : f.rounded r neg (n * 2 ^ e) k > f.maxFin := by
    obtain h | h := f.rounded_mem r neg (n * 2 ^ e) k <;> omega
  rw [round_eq r neg pos lo hi hf.frac, if_pos over']

/-- Between two finite codes the number rounds to one of them. -/
theorem round_finite (sat : Bool) {k : Nat} (fin : k < f.maxFin) (lo : magOf f k ≤ n * 2 ^ e) (hi : (n : ℚ) * 2 ^ e < magOf f (k + 1)) :
    f.round r sat neg n e = (f.code neg (f.rounded r neg (n * 2 ^ e) k), flWhen (decide ((n : ℚ) * 2 ^ e ≠ magOf f k)) flIX |||
      flWhen (decide ((n : ℚ) * 2 ^ e ≠ magOf f k) && f.tiny r neg n e) flUF) := by
  have within : ¬ f.rounded r neg (n * 2 ^ e) k > f.maxFin := by
    obtain h | h := f.rounded_mem r neg (n * 2 ^ e) k <;> omega
  rw [round_eq r neg pos lo hi hf.frac, if_neg within]

/-- A subnormal result is flushed to a zero, and one that rounds to a zero is tiny (R31). -/
theorem flush_round {sat : Bool} (small : (n : ℚ) * 2 ^ e ≤ magOf f (2 ^ f.m - 1)) :
    f.flushOut true (f.round r sat neg n e) = (f.code neg 0, flUF ||| flIX) := by
  have one : 2 ≤ 2 ^ f.m := Nat.le_self_pow hf.frac.ne' 2
  have normal := hf.normal
  have top := hf.top
  have last : magOf f (2 ^ f.m - 1) < magOf f (2 ^ f.m) := magOf_strictMono f (by omega)
  obtain ⟨k, below, lo, hi⟩ := exists_code_below (f := f) (by positivity) (small.trans_lt last)
  rw [round_finite hf r neg pos sat (by omega) lo hi]
  obtain inside | ⟨edge, exact'⟩ : k + 1 < 2 ^ f.m ∨ k + 1 = 2 ^ f.m ∧ (n : ℚ) * 2 ^ e = magOf f k := by
    refine (lt_or_eq_of_le (Nat.succ_le_of_lt below)).imp_right fun edge => ⟨edge, lo.antisymm' ?_⟩
    rwa [show k = 2 ^ f.m - 1 by omega]
  · rw [tiny_of_sub r neg pos hi inside, Bool.and_true]
    have bound : f.rounded r neg (n * 2 ^ e) k < 2 ^ f.m := by
      obtain h | h := f.rounded_mem r neg (n * 2 ^ e) k <;> omega
    by_cases zero : f.rounded r neg (n * 2 ^ e) k = 0
    · have k0 : k = 0 := by obtain h | h := f.rounded_mem r neg (n * 2 ^ e) k <;> omega
      have ne : (n : ℚ) * 2 ^ e ≠ magOf f k := by rw [k0, magOf_zero]; positivity
      rw [zero, flushOut_normal _ _ _ (by omega) (.inl rfl), decide_eq_true ne]; rfl
    · rw [flushOut_sub _ _ (by omega) zero bound]
      cases decide ((n : ℚ) * 2 ^ e ≠ magOf f k) <;> rfl
  · have here : f.rounded r neg (n * 2 ^ e) k = k := if_pos exact'
    rw [here, flushOut_sub _ _ (by omega) (by omega) (by omega), decide_eq_false (not_not.2 exact'), Bool.false_and]
    rfl

theorem roundsTo_round {sat : Bool} (ftz : Bool) (room : sat = true → f.inf = none ∨ (n : ℚ) * 2 ^ e < magOf f f.maxFin) :
    RoundsTo f r ftz (withSign neg (n * 2 ^ e)) (f.flushOut ftz (f.round r sat neg n e)) := by
  have normal := hf.normal
  have top := hf.top
  refine roundsTo_of_withSign (by positivity) (fun k fin regular lo hi => ?_) (fun on small => ?_) fun i inf big => ?_
  · rw [round_finite hf r neg pos sat fin lo hi]
    have mem := f.rounded_mem r neg (n * 2 ^ e) k
    have kept : ∀ fl, f.flushOut ftz (f.code neg (f.rounded r neg (n * 2 ^ e) k), fl) =
        (f.code neg (f.rounded r neg (n * 2 ^ e) k), fl) := fun fl => by
      obtain rfl | high := regular
      · rfl
      · exact flushOut_normal _ _ _ (by omega) (.inr (by omega))
    rw [kept]
    refine ⟨rfl, fun same => ?_, fun ne high => ?_, fun ne low => ?_⟩
    · rw [decide_eq_false (not_not.2 same), Bool.false_and]; rfl
    · rw [decide_eq_true ne, tiny_of_normal r neg pos lo hi high]; rfl
    · rw [decide_eq_true ne, tiny_of_sub r neg pos hi low]; rfl
  · subst on
    exact flush_round hf r neg pos small
  · have open' : sat = false := Bool.eq_false_iff.2 fun on => (room on).elim (fun none => by simp [none] at inf)
      fun room => (room.trans (magOf_strictMono f f.maxFin.lt_succ_self)).not_ge big
    have bound := hf.inf i inf
    rw [round_overflow hf r neg pos big, Fmt.overflow, open', inf, Bool.false_or]
    cases r.toInf neg
    · exact flushOut_normal _ _ _ top (.inr normal)
    · exact flushOut_normal _ _ _ bound.2 (.inr (normal.trans bound.1.le))
end

end Sys2Proof.Machine
end

section
/-! Finite values as numbers with a sign: codes, sums, products, and their delivery in a format (R23, R29, R31, R155). -/
namespace Sys2Proof.Machine
open Sys2Proof.Claims

/-- A finite value is the number x; its sign is `neg`, also where x is 0. -/
inductive FVal.Stands : FVal → Bool → ℚ → Prop
  | zero (neg : Bool) {x : ℚ} (is : x = 0) : Stands (.zero neg) neg x
  | fin (neg : Bool) {n : Nat} {e : Int} {x : ℚ} (pos : 0 < n) (is : x = withSign neg (n * 2 ^ e)) : Stands (.fin neg n e) neg x

theorem withSign_eq_zero (neg : Bool) (x : ℚ) : withSign neg x = 0 ↔ x = 0 := by cases neg <;> simp [withSign]
theorem withSign_mul (n m : Bool) (x y : ℚ) : withSign n x * withSign m y = withSign (n != m) (x * y) := by
  cases n <;> cases m <;> simp [withSign]
theorem neg_withSign (n : Bool) (x : ℚ) : -withSign n x = withSign (!n) x := by cases n <;> simp [withSign]

section
variable {v w : FVal} {n m : Bool} {x y : ℚ}

theorem FVal.Stands.isNan (h : v.Stands n x) : v.isNan = false := by cases h <;> rfl
theorem FVal.Stands.sig (h : v.Stands n x) : v.sig = 0 := by cases h <;> rfl
theorem FVal.Stands.isNeg (h : v.Stands n x) : v.isNeg = n := by cases h <;> rfl
theorem FVal.Stands.negate (h : v.Stands n x) : v.negate.Stands (!n) (-x) := by
  cases h with
  | zero n is => exact .zero _ (by rw [is, neg_zero])
  | fin n pos is => exact .fin _ pos (by rw [is, neg_withSign])

/-- A finite value that is not 0 is what the rounding takes, and one that is 0 is a zero. -/
theorem FVal.Stands.cases_num (h : v.Stands n x) :
    (x = 0 ∧ v = .zero n) ∨ ∃ (k : Nat) (e : Int), 0 < k ∧ x ≠ 0 ∧ x = withSign n (k * 2 ^ e) ∧ v = .fin n k e := by
  cases h with
  | zero n is => exact .inl ⟨is, rfl⟩
  | @fin n k e _ pos is =>
    have some : withSign n ((k : ℚ) * 2 ^ e) ≠ 0 := (withSign_eq_zero ..).not.2 (by positivity)
    exact .inr ⟨k, e, pos, is ▸ some, is, rfl⟩

theorem mulVal_stands (hv : v.Stands n x) (hw : w.Stands m y) : ∃ p, mulVal v w = some p ∧ p.Stands (n != m) (x * y) := by
  cases hv with
  | zero n is => cases hw <;> exact ⟨_, rfl, .zero _ (by rw [is, zero_mul])⟩
  | @fin n a d _ pos is =>
    cases hw with
    | zero m is' => exact ⟨_, rfl, .zero _ (by rw [is', mul_zero])⟩
    | @fin m b e _ pos' is' =>
      refine ⟨_, rfl, .fin _ (Nat.mul_pos pos pos') ?_⟩
      rw [is, is', withSign_mul, zpow_add₀ two_ne_zero, Nat.cast_mul, mul_mul_mul_comm]; rfl

/-! ### Sums (R29) -/

theorem sumAt_stands {g : Int} (hv : v.Stands n x) (grid : v.OnGrid g) : (sumAt g [v] : ℚ) * 2 ^ g = x := by
  cases hv with
  | zero n is => rw [is]; simp [sumAt]
  | @fin n k e _ pos is =>
    obtain _ | ⟨_, _, he⟩ := grid
    rw [is, sumAt_fin, zpow_split g e he]
    cases n <;> simp [withSign, mul_assoc]
theorem sumAt_pair (g : Int) (v w : FVal) : sumAt g [v, w] = sumAt g [v] + sumAt g [w] := by
  cases v <;> simp [sumAt]
theorem FVal.Stands.exists_grid (h : v.Stands n x) : ∃ g, v.OnGrid g := by
  cases h with
  | zero n => exact ⟨0, .zero n⟩
  | @fin n k e => exact ⟨e, .fin n k le_rfl⟩
theorem FVal.OnGrid.finer {g k : Int} (h : v.OnGrid k) (hk : g ≤ k) : v.OnGrid g := by
  cases h with
  | zero n => exact .zero n
  | fin n k h => exact .fin n k (hk.trans h)

theorem ofInt_stands (zneg : Bool) (t g : Int) :
    ∃ k, (ofInt zneg t g).Stands k (t * 2 ^ g) ∧ (t = 0 → k = zneg) := by
  obtain rfl | some := eq_or_ne t 0
  · exact ⟨zneg, .zero _ (by simp), fun _ => rfl⟩
  · refine ⟨decide (t < 0), ?_, fun h => absurd h some⟩
    rw [ofInt, if_neg some]
    refine .fin _ (Int.natAbs_pos.2 some) ?_
    rw [Nat.cast_natAbs, withSign]
    obtain neg | pos := lt_or_ge t 0
    · simp [neg, abs_of_neg neg]
    · simp [pos.not_gt, abs_of_nonneg pos]

/-- The sign of a sum that is exactly 0. -/
theorem zeroSign_pair (r : Rnd) (hv : v.Stands n x) (hw : w.Stands m y) (zero : x + y = 0) :
    zeroSign r [v, w] = if x = 0 ∧ n = m then n else decide (r = .rm) := by
  obtain ⟨rfl, rfl⟩ | ⟨k, e, pos, some, is, rfl⟩ := hv.cases_num
  · obtain ⟨rfl, rfl⟩ | ⟨k, e, pos, some, is, rfl⟩ := hw.cases_num
    · cases n <;> cases m <;> cases r <;> rfl
    · exact absurd (by simpa using zero) some
  · rw [if_neg fun h => some h.1]
    cases n <;> cases r <;> rfl

theorem sumVal_stands (r : Rnd) (hv : v.Stands n x) (hw : w.Stands m y) : ∃ s k, sumVal r [v, w] = some s ∧ s.Stands k (x + y) ∧
    (x + y = 0 → k = if x = 0 ∧ n = m then n else decide (r = .rm)) := by
  have finite : sumVal r [v, w] = (match leastExp [v, w] with
      | none => some (.zero (zeroSign r [v, w]))
      | some g => some (ofInt (zeroSign r [v, w]) (sumAt g [v, w]) g)) := by
    cases hv <;> cases hw <;> rfl
  have sign := zeroSign_pair r hv hw
  obtain ⟨gv, gridv⟩ := hv.exists_grid
  obtain ⟨gw, gridw⟩ := hw.exists_grid
  rw [finite]
  have gridv := gridv.finer (min_le_left gv gw)
  have gridw := gridw.finer (min_le_right gv gw)
  obtain ⟨least, zv, zw⟩ | ⟨g, least, -, gridv', gridw'⟩ := leastExp_pair gridv gridw
  · have nx := sumAt_stands hv gridv
    have ny := sumAt_stands hw gridw
    rw [zv, Int.cast_zero, zero_mul] at nx
    rw [zw, Int.cast_zero, zero_mul] at ny
    rw [least]
    exact ⟨_, _, rfl, .zero _ (by rw [← nx, ← ny, add_zero]), sign⟩
  · have number : (sumAt g [v, w] : ℚ) * 2 ^ g = x + y := by
      rw [sumAt_pair, Int.cast_add, add_mul, sumAt_stands hv gridv', sumAt_stands hw gridw']
    obtain ⟨k, stands, zero⟩ := ofInt_stands (zeroSign r [v, w]) (sumAt g [v, w]) g
    rw [least]
    refine ⟨_, k, rfl, number ▸ stands, fun h => (zero ?_).trans (sign h)⟩
    rw [← number, mul_eq_zero] at h
    exact_mod_cast h.resolve_right (by positivity)

/-! ### Delivery (R28, R31) -/

theorem flushOut_zero (f : Fmt) (ftz neg : Bool) (fl : Flags) : f.flushOut ftz (f.code neg 0, fl) = (f.code neg 0, fl) :=
  flushOut_normal ftz neg fl (Nat.two_pow_pos _) (.inl rfl)

/-- A finite value is delivered rounded once, and a zero with its sign. -/
theorem deliver_stands {f : Fmt} (hf : f.Regular) (r : Rnd) (ftz : Bool) (h : v.Stands n x) :
    (x ≠ 0 → RoundsTo f r ftz x (f.flushOut ftz (f.deliver r v))) ∧ (x = 0 → f.flushOut ftz (f.deliver r v) = (f.code n 0, 0)) := by
  obtain ⟨rfl, rfl⟩ | ⟨k, e, pos, some, rfl, rfl⟩ := h.cases_num
  · exact ⟨fun h => absurd rfl h, fun _ => flushOut_zero f ftz n 0⟩
  · exact ⟨fun _ => roundsTo_round (sat := false) hf r n pos ftz nofun, fun h => absurd h some⟩
end

/-! ### Finite codes (R23) -/

section
variable {f : Fmt} {c : Nat}

theorem neg_eq_decide (h : c < 2 ^ (f.w + f.m + 1)) : f.neg c = decide (2 ^ (f.w + f.m) ≤ c) := testBit_top (Nat.succ_pos _) h

theorem val_of_fin (fin : f.mag c ≤ f.maxFin) :
    f.val c = if f.mag c = 0 then .zero (f.neg c) else .fin (f.neg c) (f.sig (f.mag c)) (f.ulp (f.mag c)) := by
  unfold Fmt.val
  generalize f.mag c = g at *
  simp only
  rw [if_neg fin.not_gt]
  obtain sub | normal := lt_or_ge g (2 ^ f.m)
  · rw [if_pos (Nat.div_eq_of_lt sub), Nat.mod_eq_of_lt sub, Fmt.sig, Fmt.ulp, if_pos sub, if_pos sub]
  · have exp : g / 2 ^ f.m ≠ 0 := (Nat.div_pos normal (Nat.two_pow_pos _)).ne'
    rw [if_neg exp, Fmt.sig, Fmt.ulp, if_neg normal.not_gt, if_neg normal.not_gt]

theorem valOf_eq (h : c < 2 ^ (f.w + f.m + 1)) : valOf f c = withSign (f.neg c) (magOf f (f.mag c)) := by
  rw [valOf, neg_eq_decide h, withSign, Fmt.mag, Fmt.sbit]
  obtain low | high := lt_or_ge c (2 ^ (f.w + f.m))
  · rw [if_neg low.not_ge, decide_eq_false low.not_ge, Nat.mod_eq_of_lt low]; rfl
  · rw [if_pos high, decide_eq_true high]; rfl

/-- A finite code stands for its number. -/
theorem val_stands (h : FiniteCode f c) : (f.val c).Stands (f.neg c) (valOf f c) := by
  obtain ⟨width, fin⟩ := h
  change f.mag c ≤ f.maxFin at fin
  rw [val_of_fin fin, valOf_eq width]
  split_ifs with zero
  · exact .zero _ (by rw [zero, magOf_zero, withSign_eq_zero])
  · refine .fin _ (Nat.pos_of_ne_zero fun none => ?_) (by rw [magOf_eq])
    rw [Fmt.sig] at none
    split_ifs at none
    · exact zero none
    · have := Nat.two_pow_pos f.m; omega

theorem code_lt (f : Fmt) (neg : Bool) {k : Nat} (h : k < 2 ^ (f.w + f.m)) : f.code neg k < 2 ^ (f.w + f.m + 1) := by
  rw [code_eq, pow_succ]
  split_ifs <;> omega
theorem finiteCode_code {k : Nat} (hf : f.Regular) (neg : Bool) (h : k ≤ f.maxFin) : FiniteCode f (f.code neg k) :=
  ⟨code_lt f neg (h.trans_lt hf.top), (mag_code neg (h.trans_lt hf.top)).trans_le h⟩
theorem valOf_code {k : Nat} (hf : f.Regular) (neg : Bool) (h : k ≤ f.maxFin) :
    valOf f (f.code neg k) = withSign neg (magOf f k) := by
  rw [valOf_eq (finiteCode_code hf neg h).1, neg_code neg (h.trans_lt hf.top), mag_code neg (h.trans_lt hf.top)]

/-- A code from its sign and the other bits. -/
theorem code_neg_mag (h : c < 2 ^ (f.w + f.m + 1)) : f.code (f.neg c) (f.mag c) = c := by
  rw [code_eq, neg_eq_decide h, Fmt.mag, Fmt.sbit]
  obtain low | high := lt_or_ge c (2 ^ (f.w + f.m))
  · simp [low.not_ge, Nat.mod_eq_of_lt low]
  · rw [pow_succ] at h
    have rest : c % 2 ^ (f.w + f.m) = c - 2 ^ (f.w + f.m) := by
      rw [Nat.mod_eq_sub_mod high, Nat.mod_eq_of_lt (by omega)]
    simp [high, rest]
/-- The model's flush of an operand is the reading of the statements (R31). -/
theorem readAs_eq (ftz : Bool) (h : c < 2 ^ (f.w + f.m + 1)) :
    readAs f ftz c = f.code (f.neg c) (if ftz = true ∧ f.mag c < 2 ^ f.m then 0 else f.mag c) := by
  have sign : c / 2 ^ (f.w + f.m) * 2 ^ (f.w + f.m) = f.code (f.neg c) 0 := by
    have whole := code_neg_mag h
    rw [code_eq] at whole ⊢
    have split := Nat.div_add_mod' c (2 ^ (f.w + f.m))
    rw [Fmt.mag, Fmt.sbit] at whole
    omega
  rw [readAs, sign, apply_ite (f.code (f.neg c)), code_neg_mag h]
  rfl
theorem flush_eq_readAs (ftz : Bool) (h : c < 2 ^ (f.w + f.m + 1)) : f.flush ftz c = readAs f ftz c := by
  have whole := code_neg_mag h
  rw [readAs_eq ftz h, Fmt.flush, Fmt.sub]
  by_cases zero : f.mag c = 0
  · rw [zero] at whole ⊢
    simp [whole]
  · cases ftz <;> by_cases low : f.mag c < 2 ^ f.m <;> simp [zero, low, whole]
theorem neg_readAs (ftz : Bool) (h : c < 2 ^ (f.w + f.m + 1)) : f.neg (readAs f ftz c) = f.neg c := by
  have inside : f.mag c < 2 ^ (f.w + f.m) := Nat.mod_lt _ (Nat.two_pow_pos _)
  rw [readAs_eq ftz h, neg_code]
  split_ifs <;> omega
theorem finiteCode_readAs (hf : f.Regular) (ftz : Bool) (h : FiniteCode f c) : FiniteCode f (readAs f ftz c) := by
  have fin : f.mag c ≤ f.maxFin := h.2
  rw [readAs_eq ftz h.1]
  exact finiteCode_code hf _ (by split_ifs <;> omega)

/-- A finite operand as the operations read it. -/
theorem operand_stands (hf : f.Regular) (ftz : Bool) (h : FiniteCode f c) :
    (f.val (f.flush ftz c)).Stands (decide (2 ^ (f.w + f.m) ≤ c)) (valOf f (readAs f ftz c)) := by
  rw [flush_eq_readAs ftz h.1, ← neg_eq_decide h.1, ← neg_readAs ftz h.1]
  exact val_stands (finiteCode_readAs hf ftz h)
end

end Sys2Proof.Machine
end

section
/-! Sums, products and fused sums of finite codes and of infinities (R28, R29, R153, R155), and the bits of their results. -/
namespace Sys2Proof.Machine
open Sys2Proof.Claims

/-! ### The operations on values that are no NaNs -/

/-- The sum of two values, delivered. -/
def Fmt.addVals (f : Fmt) (r : Rnd) (ftz : Bool) (v w : FVal) : Nat × Flags :=
  f.flushOut ftz ((sumVal r [v, w]).elim f.invalid (f.deliver r))
/-- The product of two values, delivered. -/
def Fmt.mulVals (f : Fmt) (r : Rnd) (ftz : Bool) (v w : FVal) : Nat × Flags :=
  f.flushOut ftz ((mulVal v w).elim f.invalid (f.deliver r))
/-- An operand as the operations read it. -/
def Fmt.read (f : Fmt) (ftz : Bool) (c : Nat) : FVal := f.val (f.flush ftz c)

section
variable {f : Fmt} {r : Rnd} {ftz : Bool} {a b c : Nat} (na : (f.read ftz a).isNan = false) (nb : (f.read ftz b).isNan = false)
include na nb

theorem fAdd_eq : fAdd f r ftz a b = f.addVals r ftz (f.read ftz a) (f.read ftz b) := by
  rw [Fmt.read] at na nb
  rw [fAdd, Fmt.addVals]
  simp only [na, nb, Bool.or_false, Bool.false_eq_true, if_false, Fmt.read]
  cases sumVal r [f.val (f.flush ftz a), f.val (f.flush ftz b)] <;> rfl
theorem fSub_eq : fSub f r ftz a b = f.addVals r ftz (f.read ftz a) (f.read ftz b).negate := by
  rw [Fmt.read] at na nb
  rw [fSub, Fmt.addVals]
  simp only [na, nb, Bool.or_false, Bool.false_eq_true, if_false, Fmt.read]
  cases sumVal r [f.val (f.flush ftz a), (f.val (f.flush ftz b)).negate] <;> rfl
theorem fMul_eq : fMul f r ftz a b = f.mulVals r ftz (f.read ftz a) (f.read ftz b) := by
  rw [Fmt.read] at na nb
  rw [fMul, Fmt.mulVals]
  simp only [na, nb, Bool.or_false, Bool.false_eq_true, if_false, Fmt.read]
  cases mulVal (f.val (f.flush ftz a)) (f.val (f.flush ftz b)) <;> rfl
/-- The addend of FFMA, or the negated one of FFMS. -/
def addend (sub : Bool) (z : FVal) : FVal := if sub then z.negate else z
theorem fFma_eq {sub : Bool} {p : FVal} (product : mulVal (f.read ftz a) (f.read ftz b) = some p)
    (nc : (f.read ftz c).isNan = false) : fFma f ftz sub a b c = f.addVals .rn ftz p (addend sub (f.read ftz c)) := by
  rw [Fmt.read] at na nb nc
  rw [Fmt.read, Fmt.read] at product
  rw [fFma, Fmt.addVals]
  simp only [na, nb, nc, product, Bool.or_false, Bool.false_eq_true, if_false, Fmt.read, addend]
  cases sumVal .rn [p, if sub = true then (f.val (f.flush ftz c)).negate else f.val (f.flush ftz c)] <;> rfl
theorem fFma_invalid {sub : Bool} (product : mulVal (f.read ftz a) (f.read ftz b) = none) :
    ∃ iv : Bool, fFma f ftz sub a b c = f.flushOut ftz (f.nan.getD 0, flIV ||| flWhen iv flIV) := by
  rw [Fmt.read] at na nb
  rw [Fmt.read, Fmt.read] at product
  rw [fFma]
  simp only [na, nb, product, Bool.or_false, Bool.false_eq_true, if_false]
  exact ⟨_, rfl⟩
end

/-! ### Finite operands -/

section
variable {f : Fmt} (hf : f.Regular) (r : Rnd) (ftz : Bool) {v w : FVal} {n m : Bool} {x y : ℚ}
  (hv : v.Stands n x) (hw : w.Stands m y)
include hf hv hw

theorem addVals_stands : (x + y ≠ 0 → RoundsTo f r ftz (x + y) (f.addVals r ftz v w)) ∧
    (x + y = 0 → f.addVals r ftz v w = (f.code (if x = 0 ∧ n = m then n else decide (r = .rm)) 0, 0)) := by
  obtain ⟨s, k, sum, stands, sign⟩ := sumVal_stands r hv hw
  obtain ⟨some, zero⟩ := deliver_stands hf r ftz stands
  rw [Fmt.addVals, sum, Option.elim_some]
  exact ⟨some, fun h => by rw [zero h, sign h]⟩
theorem mulVals_stands : (x * y ≠ 0 → RoundsTo f r ftz (x * y) (f.mulVals r ftz v w)) ∧
    (x * y = 0 → f.mulVals r ftz v w = (f.code (n != m) 0, 0)) := by
  obtain ⟨p, product, stands⟩ := mulVal_stands hv hw
  rw [Fmt.mulVals, product, Option.elim_some]
  exact deliver_stands hf r ftz stands
end

theorem addend_stands {v : FVal} {n : Bool} {x : ℚ} (sub : Bool) (h : v.Stands n x) :
    (addend sub v).Stands (n != sub) (if sub then -x else x) := by
  cases sub
  · simpa [addend] using h
  · simpa [addend] using h.negate

/-! ### The bits of a result -/

section
variable {f : Fmt} (hf : f.Regular)
include hf

theorem overflow_lt (r : Rnd) (sat neg : Bool) : f.overflow r sat neg < 2 ^ (f.w + f.m + 1) := by
  have fin := code_lt f neg hf.top
  rw [Fmt.overflow]
  split_ifs
  · exact fin
  · split
    next i inf => exact code_lt f neg (hf.inf i inf).2
    next =>
      split
      next q nan => exact (hf.nan q nan).2.trans (Nat.pow_lt_pow_succ one_lt_two)
      next => exact fin
omit hf in
theorem fst_ite_lt {p : Prop} [Decidable p] {y z : Nat × Flags} {n : Nat} (yes : p → y.1 < n) (no : ¬ p → z.1 < n) :
    (if p then y else z).1 < n := by
  split_ifs with h
  · exact yes h
  · exact no h
theorem round_lt (r : Rnd) (sat neg : Bool) (n : Nat) (e : Int) : (f.round r sat neg n e).1 < 2 ^ (f.w + f.m + 1) :=
  fst_ite_lt (fun _ => overflow_lt hf r sat neg) fun within => code_lt f neg ((not_lt.1 within).trans_lt hf.top)
theorem nan_lt : f.nan.getD 0 < 2 ^ (f.w + f.m + 1) := by
  cases nan : f.nan with
  | none => exact Nat.two_pow_pos _
  | some q => exact (hf.nan q nan).2.trans (Nat.pow_lt_pow_succ one_lt_two)
theorem inf_lt : f.inf.getD f.maxFin < 2 ^ (f.w + f.m) := by
  cases inf : f.inf with
  | none => exact hf.top
  | some i => exact (hf.inf i inf).2
theorem deliver_lt (r : Rnd) (v : FVal) : (f.deliver r v).1 < 2 ^ (f.w + f.m + 1) := by
  cases v with
  | nan => exact nan_lt hf
  | inf n => exact code_lt f n (inf_lt hf)
  | zero n => exact code_lt f n (Nat.two_pow_pos _)
  | fin n x e => exact round_lt hf r false n x e
omit hf in
theorem flushOut_lt {ftz : Bool} {y : Nat × Flags} (h : y.1 < 2 ^ (f.w + f.m + 1)) : (f.flushOut ftz y).1 < 2 ^ (f.w + f.m + 1) := by
  rw [Fmt.flushOut]
  split_ifs
  · exact code_lt f _ (Nat.two_pow_pos _)
  · exact h
theorem fFma_lt (ftz sub : Bool) (a b c : Nat) : (fFma f ftz sub a b c).1 < 2 ^ (f.w + f.m + 1) := by
  rw [fFma]
  refine flushOut_lt (fst_ite_lt (fun _ => nan_lt hf) fun _ => ?_)
  split
  next => exact nan_lt hf
  next =>
    refine fst_ite_lt (fun _ => nan_lt hf) fun _ => ?_
    split
    next => exact nan_lt hf
    next => exact deliver_lt hf ..
end

theorem bits_halves {x y i : Nat} (hx : x < 2 ^ 16) (hy : y < 2 ^ 16) (hi : i < 2) :
    bits (x + 2 ^ 16 * y) (16 * i) 16 = if i = 0 then x else y := by
  rw [bits, Nat.shiftRight_eq_div_pow]
  obtain rfl | rfl : i = 0 ∨ i = 1 := by omega
  · simp; omega
  · simp; omega

/-! ### Integers -/

theorem intRounds_cast (r : Rnd) (k : Int) : IntRounds r k k := by
  cases r
  case rn => exact .inl (by simp)
  case rz => exact ⟨le_rfl, lt_add_one _, mul_self_nonneg _⟩
  case rm => exact ⟨le_rfl, lt_add_one _⟩
  case rp => exact ⟨le_rfl, lt_add_one _⟩

/-- Two integers less than 1 apart are one. -/
theorem int_eq_of_near {k j : Int} (h : (k : ℚ) < j + 1) (h' : (j : ℚ) < k + 1) : k = j := by
  have h : k < j + 1 := by exact_mod_cast h
  have h' : j < k + 1 := by exact_mod_cast h'
  omega
theorem intRounds_unique {r : Rnd} {x : ℚ} {k j : Int} (hk : IntRounds r x k) (hj : IntRounds r x j) : k = j := by
  cases r
  case rm => exact int_eq_of_near (hk.1.trans_lt hj.2) (hj.1.trans_lt hk.2)
  case rp => exact int_eq_of_near (hk.2.trans_le (by gcongr; exact hj.1)) (hj.2.trans_le (by gcongr; exact hk.1))
  case rz =>
    obtain ⟨lok, hik, sk⟩ := hk
    obtain ⟨loj, hij, sj⟩ := hj
    have mag : |k| = |j| := int_eq_of_near (by push_cast; exact lok.trans_lt hij) (by push_cast; exact loj.trans_lt hik)
    obtain rfl | rfl := abs_eq_abs.1 mag
    · rfl
    · have none : x * j = 0 := by push_cast at sk; linarith
      obtain rfl | zero := mul_eq_zero.1 none
      · rw [abs_zero] at lok
        have : -j = 0 := by exact_mod_cast abs_nonpos_iff.1 lok
        omega
      · have : j = 0 := by exact_mod_cast zero
        omega
  case rn =>
    have apart : |((k - j : Int) : ℚ)| ≤ |x - j| + |x - k| := by
      rw [show ((k - j : Int) : ℚ) = (x - j) - (x - k) by push_cast; ring]; exact abs_sub _ _
    have near : |((k - j : Int) : ℚ)| ≤ 1 ∧ (|((k - j : Int) : ℚ)| < 1 ∨ k % 2 = 0 ∧ j % 2 = 0) := by
      obtain hk | ⟨hk, evenk⟩ := hk <;> obtain hj | ⟨hj, evenj⟩ := hj
      · exact ⟨by linarith, .inl (by linarith)⟩
      · exact ⟨by linarith, .inl (by linarith)⟩
      · exact ⟨by linarith, .inl (by linarith)⟩
      · exact ⟨by linarith, .inr ⟨evenk, evenj⟩⟩
    obtain ⟨one, less | even⟩ := near
    · have same : |k - j| < 1 := by exact_mod_cast less
      rw [abs_lt] at same; omega
    · have close : |k - j| ≤ 1 := by exact_mod_cast one
      rw [abs_le] at close; omega

theorem cast_withSign (neg : Bool) (u : Nat) : ((if neg then -(u : Int) else u : Int) : ℚ) = withSign neg u := by
  cases neg <;> simp [withSign]
/-- A number between two adjacent integers rounds to the one that the mode takes. -/
theorem intRounds_units (r : Rnd) (neg : Bool) {x : ℚ} {a : Nat} (lo : a ≤ x) (hi : x < (a + 1 : Nat)) :
    IntRounds r (withSign neg x) (if neg then -(r.units neg x 1 a : Int) else r.units neg x 1 a) := by
  rw [Rnd.units, mul_one, mul_one]
  obtain rfl | less := lo.eq_or_lt
  · rw [if_pos rfl, ← cast_withSign]; exact intRounds_cast ..
  rw [if_neg less.ne']
  have nonneg : (0 : ℚ) ≤ a := Nat.cast_nonneg a
  have pos : 0 ≤ x := nonneg.trans lo
  push_cast at hi
  cases r
  case rz =>
    simp only [Rnd.up, Bool.false_eq_true, if_false]
    refine ⟨?_, ?_, ?_⟩ <;> rw [cast_withSign]
    · rwa [abs_withSign neg pos, abs_withSign neg nonneg]
    · rwa [abs_withSign neg pos, abs_withSign neg nonneg]
    · rw [withSign_mul]; simpa [withSign] using mul_nonneg pos nonneg
  case rm => cases neg <;> simp [IntRounds, Rnd.up, withSign] <;> constructor <;> linarith
  case rp => cases neg <;> simp [IntRounds, Rnd.up, withSign] <;> constructor <;> linarith
  case rn =>
    have dist : ∀ u : Nat, |withSign neg x - ((if neg then -(u : Int) else u : Int) : ℚ)| = |x - u| := fun u => by
      rw [cast_withSign]; cases neg
      · rfl
      · rw [withSign, withSign, if_pos rfl, if_pos rfl, ← abs_neg]; ring_nf
    have parity : ∀ u : Nat, (if neg then -(u : Int) else u) % 2 = 0 ↔ u % 2 = 0 := fun u => by cases neg <;> simp <;> omega
    simp only [IntRounds, dist, parity, Rnd.up, Bool.not_eq_true', decide_eq_false_iff_not, ite_not]
    have above : ((a + 1 : Nat) : ℚ) = a + 1 := Nat.cast_succ a
    split_ifs with down <;> rw [above] at down
    · rw [abs_of_nonneg (by linarith)]
      rcases down with near | ⟨tie, even⟩
      · exact .inl (by linarith)
      · exact .inr ⟨by linarith, even⟩
    · rw [not_or, not_and, not_lt] at down
      obtain ⟨far, odd⟩ := down
      rw [above, abs_sub_comm, abs_of_nonneg (by linarith)]
      obtain tie | near := far.eq_or_lt
      · exact .inr ⟨by linarith, by have := odd tie.symm; omega⟩
      · exact .inl (by linarith)

end Sys2Proof.Machine
end

section
/-! Rounding to integers: CVT's, FRINT's and FFRAC's (R39, R153). -/
namespace Sys2Proof.Machine
open Sys2Proof.Claims

/-- The integer that a magnitude rounds to, and whether it is another number. -/
theorem roundAt_int (r : Rnd) (neg : Bool) (n : Nat) (e : Int) : ∃ u : Nat,
    roundAt r neg n e 0 false = (u, decide ((n : ℚ) * 2 ^ e ≠ u)) ∧ (u : ℚ) ≤ n * 2 ^ e + 1 ∧
      IntRounds r (withSign neg (n * 2 ^ e)) (if neg then -(u : Int) else u) := by
  obtain ⟨a, lo, hi⟩ := exists_units (x := (n : ℚ) * 2 ^ e) (unit := 1) (by positivity) one_pos
  have rounds := roundAt_eq (n := n) (a := a) (e := e) (q := 0) r neg (by rw [zpow_zero]; exact lo) (by rw [zpow_zero]; exact hi)
  rw [zpow_zero, mul_one] at rounds
  rw [mul_one] at lo hi
  refine ⟨_, rounds.trans (Prod.ext rfl ?_), ?_, intRounds_units r neg lo hi⟩
  · rw [decide_eq_decide, not_iff_not, Rnd.units, mul_one, mul_one]
    push_cast at hi
    split_ifs with whole
    · rfl
    · refine iff_of_false whole fun h => ?_
      push_cast at h; linarith
    · rfl
  · obtain h | h := r.units_mem neg ((n : ℚ) * 2 ^ e) 1 a <;> rw [h] <;> push_cast <;> linarith

theorem withSign_sub (n : Bool) (x y : ℚ) : withSign n x - withSign n y = withSign n (x - y) := by
  cases n
  · rfl
  · simp only [withSign, if_true]; ring
theorem intRounds_zero {r : Rnd} {k : Int} (h : IntRounds r 0 k) : k = 0 :=
  intRounds_unique h (by simpa using intRounds_cast r 0)

section
variable {r : Rnd} {v : FVal} {n : Bool} {x : ℚ} {k : Int}

/-- A finite value rounds to the integer of the statements, and is inexact where that is another number. -/
theorem toInt_stands (hv : v.Stands n x) (hk : IntRounds r x k) : toInt r v = (k, decide ((k : ℚ) ≠ x)) := by
  obtain ⟨rfl, rfl⟩ | ⟨m, e, pos, some, rfl, rfl⟩ := hv.cases_num
  · rw [intRounds_zero hk]; rfl
  · obtain ⟨u, rounds, -, int⟩ := roundAt_int r n m e
    obtain rfl := intRounds_unique hk int
    rw [toInt, rounds]
    refine Prod.ext rfl (decide_eq_decide.2 (not_iff_not.2 ?_))
    cases n
    · simp [withSign, eq_comm]
    · simp [withSign, eq_comm]

theorem cvtInt_stands (hv : v.Stands n x) (hk : IntRounds r x k) (lo hi : Int) : cvtInt r lo hi v =
    if k < lo then (lo, flIV) else if hi < k then (hi, flIV) else (k, if (k : ℚ) = x then 0 else flIX) := by
  have finite : cvtInt r lo hi v = if (toInt r v).1 < lo then (lo, flIV) else if (toInt r v).1 > hi then (hi, flIV)
      else ((toInt r v).1, flWhen (toInt r v).2 flIX) := by cases hv <;> rfl
  rw [finite, toInt_stands hv hk]
  by_cases same : (k : ℚ) = x <;> simp [same, flWhen]
end

/-! ### FRINT and FFRAC -/

/-- The unit of a code is no finer than that of the subnormal ones. -/
theorem le_ulp (f : Fmt) (k : Nat) : 1 - (f.bias : Int) - f.m ≤ f.ulp k := by
  obtain sub | normal := lt_or_ge k (2 ^ f.m)
  · rw [Fmt.ulp, if_pos sub]
  · have exp : 0 < k / 2 ^ f.m := Nat.div_pos normal (Nat.two_pow_pos _)
    rw [Fmt.ulp, if_neg normal.not_gt]; omega

theorem regular_f32 : fF32.Regular := regular_of_mem (by simp)

/-- The codes of .f32 from 2^24 on are far below its largest value. -/
theorem magOf_f32_two_pow_24 : magOf fF32 0x4B800000 = 2 ^ 24 := by
  rw [magOf]; norm_num [fF32]
/-- An integer of at most 24 bits is a finite code. -/
theorem exists_code_of_nat {u : Nat} (h : u ≤ 2 ^ 24) : ∃ j, j ≤ fF32.maxFin ∧ magOf fF32 j = u := by
  obtain ⟨j, hj⟩ := exists_magOf_eq (f := fF32) (n := u) (e := 0) h (by decide)
  rw [zpow_zero, mul_one] at hj
  have below : j ≤ 0x4B800000 := (magOf_strictMono fF32).le_iff_le.1 (by
    rw [hj, magOf_f32_two_pow_24]; exact_mod_cast h)
  exact ⟨j, below.trans (by decide), hj⟩

/-- An integer delivered: its code, with the sign given where it is 0. -/
theorem integral_eq {u j : Nat} (neg : Bool) (fin : j ≤ fF32.maxFin) (value : magOf fF32 j = u) :
    integral neg (if neg then -(u : Int) else u) = fF32.code neg j := by
  obtain rfl | pos := u.eq_zero_or_pos
  · have zero : j = 0 := (magOf_strictMono fF32).injective (by rw [value, magOf_zero, Nat.cast_zero])
    rw [zero]; cases neg <;> rfl
  · have some : (if neg then -(u : Int) else u) ≠ 0 := by cases neg <;> simp [pos.ne']
    have sign : decide ((if neg then -(u : Int) else u) < 0) = neg := by cases neg <;> simp [pos]
    have size : (if neg then -(u : Int) else u).natAbs = u := by cases neg <;> simp
    rw [integral, ofInt, if_neg some, sign, size, Fmt.deliver,
      round_exact regular_f32 .rn false neg pos (by rw [zpow_zero, mul_one]; exact value) fin]

/-- The code c' holds the finite number x with the sign of c, and no flag is raised. -/
structure GivesExactly (c : Nat) (x : ℚ) (y : Nat × Flags) : Prop where
  finite : FiniteCode fF32 y.1
  value : valOf fF32 y.1 = x
  sign : fF32.neg y.1 = fF32.neg c
  quiet : y.2 = 0
theorem givesExactly_code {c j : Nat} (fin : j ≤ fF32.maxFin) :
    GivesExactly c (withSign (fF32.neg c) (magOf fF32 j)) (fF32.code (fF32.neg c) j, 0) :=
  ⟨finiteCode_code regular_f32 _ fin, valOf_code regular_f32 _ fin, neg_code _ (fin.trans_lt regular_f32.top), rfl⟩

section
variable {c : Nat} (h : FiniteCode fF32 c) (ftz : Bool)
include h

/-- A finite operand of .f32 is a zero, or a number of at most 24 bits in a unit no finer than 2^−149. -/
theorem read_f32 :
    (fF32.read ftz c = .zero (fF32.neg c) ∧ fF32.flush ftz c = fF32.code (fF32.neg c) 0 ∧ valOf fF32 (readAs fF32 ftz c) = 0) ∨
    ∃ g, 0 < fF32.sig g ∧ g ≤ fF32.maxFin ∧ fF32.read ftz c = .fin (fF32.neg c) (fF32.sig g) (fF32.ulp g) ∧
      valOf fF32 (readAs fF32 ftz c) = withSign (fF32.neg c) (magOf fF32 g) := by
  have fin := finiteCode_readAs regular_f32 ftz h
  have small : fF32.mag (readAs fF32 ftz c) ≤ fF32.maxFin := fin.2
  have whole := code_neg_mag fin.1
  rw [neg_readAs ftz h.1] at whole
  rw [Fmt.read, flush_eq_readAs ftz h.1, val_of_fin small, valOf_eq fin.1, neg_readAs ftz h.1]
  by_cases zero : fF32.mag (readAs fF32 ftz c) = 0
  · rw [zero] at whole
    exact .inl ⟨if_pos zero, whole.symm, by rw [zero, magOf_zero, withSign_eq_zero]⟩
  · refine .inr ⟨_, Nat.pos_of_ne_zero fun none => ?_, small, if_neg zero, rfl⟩
    have gt := magOf_strictMono fF32 (Nat.pos_of_ne_zero zero)
    rw [magOf_zero, magOf_eq, none, Nat.cast_zero, zero_mul] at gt
    exact absurd gt (lt_irrefl _)

/-- FRINT gives the integer, exactly, with the sign of the operand. -/
theorem fRint_givesExactly {r : Rnd} {k : Int} (hk : IntRounds r (valOf fF32 (readAs fF32 ftz c)) k) :
    GivesExactly c k (fRint r ftz c) := by
  obtain ⟨read, flushed, zero⟩ | ⟨g, pos, fin, read, value⟩ := read_f32 h ftz
  · rw [zero] at hk
    rw [intRounds_zero hk]
    have res : fRint r ftz c = (fF32.flush ftz c, 0) := by
      rw [fRint]; simp only [show fF32.val (fF32.flush ftz c) = _ from read]
    rw [res, flushed, Int.cast_zero, ← (withSign_eq_zero (fF32.neg c) 0).2 rfl, ← magOf_zero fF32]
    exact givesExactly_code (Nat.zero_le _)
  · rw [value, magOf_eq] at hk
    obtain ⟨u, rounds, near, int⟩ := roundAt_int r (fF32.neg c) (fF32.sig g) (fF32.ulp g)
    obtain rfl := intRounds_unique hk int
    have res : fRint r ftz c = (integral (fF32.neg c) (if fF32.neg c then -(u : Int) else u), 0) := by
      rw [fRint]; simp only [show fF32.val (fF32.flush ftz c) = _ from read, toInt, rounds]
    obtain ⟨j, finj, valj⟩ : ∃ j, j ≤ fF32.maxFin ∧ magOf fF32 j = u := by
      obtain whole | fine := le_or_gt 0 (fF32.ulp g)
      · refine ⟨g, fin, ?_⟩
        have exact' : (roundAt r (fF32.neg c) (fF32.sig g) (fF32.ulp g) 0 false).2 = false := by rw [roundAt, if_pos whole]
        rw [rounds] at exact'
        simpa [magOf_eq] using exact'
      · refine exists_code_of_nat ?_
        have half : (2 : ℚ) ^ fF32.ulp g ≤ 2 ^ (-1 : Int) := zpow_le_zpow_right₀ one_le_two (by omega)
        have bits : (fF32.sig g : ℚ) ≤ 2 ^ 24 := by exact_mod_cast (sig_le fF32 g).le
        have size : (fF32.sig g : ℚ) * 2 ^ fF32.ulp g ≤ 2 ^ 24 * 2 ^ (-1 : Int) :=
          mul_le_mul bits half (by positivity) (by positivity)
        have bound : (u : ℚ) ≤ 2 ^ 24 := near.trans (by norm_num at size; linarith)
        exact_mod_cast bound
    rw [res, integral_eq _ finj valj]
    rw [cast_withSign, ← valj]
    exact givesExactly_code finj

/-- FFRAC leaves the fraction, exactly, with the sign of the operand. -/
theorem fFrac_givesExactly {k : Int} (hk : IntRounds .rz (valOf fF32 (readAs fF32 ftz c)) k) :
    GivesExactly c (valOf fF32 (readAs fF32 ftz c) - k) (fFrac ftz c) := by
  have nothing : GivesExactly c 0 (fF32.code (fF32.neg c) 0, 0) := by
    rw [← (withSign_eq_zero (fF32.neg c) 0).2 rfl, ← magOf_zero fF32]
    exact givesExactly_code (Nat.zero_le _)
  obtain ⟨read, flushed, zero⟩ | ⟨g, pos, fin, read, value⟩ := read_f32 h ftz
  · rw [zero] at hk ⊢
    have res : fFrac ftz c = (fF32.code (fF32.neg c) 0, 0) := by
      rw [fFrac]; simp only [show fF32.val (fF32.flush ftz c) = _ from read]
    rw [res, intRounds_zero hk, Int.cast_zero, sub_zero]
    exact nothing
  · rw [value, magOf_eq] at hk ⊢
    obtain ⟨u, rounds, -, int⟩ := roundAt_int .rz (fF32.neg c) (fF32.sig g) (fF32.ulp g)
    obtain rfl := intRounds_unique hk int
    rw [cast_withSign]
    obtain whole | fine := le_or_gt 0 (fF32.ulp g)
    · have res : fFrac ftz c = (fF32.code (fF32.neg c) 0, 0) := by
        rw [fFrac]; simp only [show fF32.val (fF32.flush ftz c) = _ from read, if_pos whole, ge_iff_le]
      have exact' : (roundAt .rz (fF32.neg c) (fF32.sig g) (fF32.ulp g) 0 false).2 = false := by rw [roundAt, if_pos whole]
      rw [rounds] at exact'
      rw [res, of_not_not (of_decide_eq_false exact'), sub_self]
      exact nothing
    · have quot : u = fF32.sig g / 2 ^ (-fF32.ulp g).toNat := by
        have := congrArg Prod.fst rounds
        rw [roundAt, if_neg fine.not_ge] at this
        simpa using this.symm
      have unit : (1 : ℚ) = (2 ^ (-fF32.ulp g).toNat : Nat) * 2 ^ fF32.ulp g := by
        simpa using zpow_split (fF32.ulp g) 0 fine.le
      have rest : withSign (fF32.neg c) (fF32.sig g * 2 ^ fF32.ulp g) - withSign (fF32.neg c) u =
          withSign (fF32.neg c) ((fF32.sig g % 2 ^ (-fF32.ulp g).toNat : Nat) * 2 ^ fF32.ulp g) := by
        have parts : (fF32.sig g : ℚ) = u * (2 ^ (-fF32.ulp g).toNat : Nat) + (fF32.sig g % 2 ^ (-fF32.ulp g).toNat : Nat) := by
          rw [quot]; exact_mod_cast (Nat.div_add_mod' ..).symm
        rw [withSign_sub, parts, add_mul, mul_assoc, ← unit, mul_one, add_sub_cancel_left]
      have res : fFrac ftz c = (if fF32.sig g % 2 ^ (-fF32.ulp g).toNat = 0 then fF32.code (fF32.neg c) 0
          else (fF32.round .rn false (fF32.neg c) (fF32.sig g % 2 ^ (-fF32.ulp g).toNat) (fF32.ulp g)).1, 0) := by
        rw [fFrac]; simp only [show fF32.val (fF32.flush ftz c) = _ from read, if_neg fine.not_ge, ge_iff_le]
      rw [res, rest]
      split_ifs with none
      · rw [none, Nat.cast_zero, zero_mul, (withSign_eq_zero _ _).2 rfl]
        exact nothing
      · obtain ⟨j, hj⟩ := exists_magOf_eq (f := fF32) (n := fF32.sig g % 2 ^ (-fF32.ulp g).toNat) (e := fF32.ulp g)
          ((Nat.mod_le ..).trans (sig_le fF32 g).le) (le_ulp fF32 g)
        have below : j ≤ g := (magOf_strictMono fF32).le_iff_le.1 (by
          rw [hj, magOf_eq]; exact mul_le_mul_of_nonneg_right (Nat.cast_le.2 (Nat.mod_le ..)) (by positivity))
        rw [round_exact regular_f32 .rn false _ (Nat.pos_of_ne_zero none) hj (below.trans fin), ← hj]
        exact givesExactly_code (below.trans fin)
end

end Sys2Proof.Machine
end

section
/-! Float instructions of the lanes: their values, their flags and their frame (R28, R29, R36, R153 to R157, R163). -/
namespace Sys2Proof.Machine
open Sys2Proof.Claims

/-! ### Infinities -/

/-- The code of an infinity of .f32. -/
def infCode (neg : Bool) : Nat := 0x7F800000 + if neg then 2 ^ 31 else 0

theorem read_infCode (ftz neg : Bool) : fF32.read ftz (infCode neg) = .inf neg := by cases ftz <;> cases neg <;> rfl
theorem deliver_inf (r : Rnd) (ftz neg : Bool) : fF32.flushOut ftz (fF32.deliver r (.inf neg)) = (infCode neg, 0) := by
  have code : fF32.deliver r (.inf neg) = (infCode neg, 0) := by cases neg <;> rfl
  rw [code]; cases ftz <;> cases neg <;> rfl
theorem deliver_invalid (ftz : Bool) : fF32.flushOut ftz fF32.invalid = (0x7FC00000, flIV) := by cases ftz <;> rfl

section
variable {v : FVal} {n : Bool} {x : ℚ} (hv : v.Stands n x) (r : Rnd) (ftz s t : Bool)

theorem addVals_inf_inf : fF32.addVals r ftz (.inf s) (.inf t) = if s = t then (infCode s, 0) else (0x7FC00000, flIV) := by
  by_cases same : s = t
  · have sum : sumVal r [.inf s, .inf t] = some (.inf s) := by subst same; cases s <;> rfl
    rw [Fmt.addVals, sum, if_pos same]; exact deliver_inf r ftz s
  · have sum : sumVal r [.inf s, .inf t] = none := by
      obtain rfl : t = !s := Bool.eq_not.2 (Ne.symm same)
      cases s <;> rfl
    rw [Fmt.addVals, sum, if_neg same]; exact deliver_invalid ftz
theorem mulVals_inf_inf : fF32.mulVals r ftz (.inf s) (.inf t) = (infCode (s != t), 0) := deliver_inf r ftz (s != t)
include hv
theorem addVals_inf_left : fF32.addVals r ftz (.inf s) v = (infCode s, 0) := by
  have sum : sumVal r [.inf s, v] = some (.inf s) := by cases hv <;> cases s <;> rfl
  rw [Fmt.addVals, sum]; exact deliver_inf r ftz s
theorem addVals_inf_right : fF32.addVals r ftz v (.inf s) = (infCode s, 0) := by
  have sum : sumVal r [v, .inf s] = some (.inf s) := by cases hv <;> cases s <;> rfl
  rw [Fmt.addVals, sum]; exact deliver_inf r ftz s
/-- The product of an infinity and a finite value, in either order: none where that is 0. -/
theorem mulVal_inf : (x = 0 → mulVal (.inf s) v = none ∧ mulVal v (.inf s) = none) ∧
    (x ≠ 0 → mulVal (.inf s) v = some (.inf (s != n)) ∧ mulVal v (.inf s) = some (.inf (s != n))) := by
  obtain ⟨rfl, rfl⟩ | ⟨k, e, pos, some', rfl, rfl⟩ := hv.cases_num
  · exact ⟨fun _ => ⟨rfl, rfl⟩, fun h => absurd rfl h⟩
  · exact ⟨fun h => absurd h some', fun _ => ⟨rfl, congrArg (fun b => some (FVal.inf b)) (Bool.xor_comm ..)⟩⟩
end

/-! ### Codes as bits -/

theorem fClass_eq (a : Word) {e f : Nat} (exp : e = a.toNat / 2 ^ 23 % 256) (frac : f = a.toNat % 2 ^ 23) :
    toW (fClass a.toNat) =
    if e = 255 ∧ f ≠ 0 then (if f < 2 ^ 22 then 1#32 <<< 8 else 1#32 <<< 9)
    else if e = 255 then (if a.msb then 1#32 <<< 0 else 1#32 <<< 7)
    else if e = 0 ∧ f = 0 then (if a.msb then 1#32 <<< 3 else 1#32 <<< 4)
    else if e = 0 then (if a.msb then 1#32 <<< 2 else 1#32 <<< 5)
    else (if a.msb then 1#32 <<< 1 else 1#32 <<< 6) := by
  have width := a.isLt
  have sign : fF32.neg a.toNat = a.msb := by rw [neg_f32 width, BitVec.msb_eq_decide]
  have mag : a.toNat % 2 ^ 31 = e * 2 ^ 23 + f := by omega
  have he : e < 256 := exp ▸ Nat.mod_lt _ (by decide)
  have hf : f < 2 ^ 23 := frac ▸ Nat.mod_lt _ (by decide)
  by_cases nan : e = 255 ∧ f ≠ 0
  · rw [if_pos nan, fClass, val_of_isNan (show a.toNat % 2 ^ 31 > 0x7F800000 by omega), ← frac]
    by_cases top : f < 2 ^ 22
    · rw [if_pos top, decide_eq_true top]; rfl
    · rw [if_neg top, decide_eq_false top]; rfl
  rw [if_neg nan]
  by_cases inf : e = 255
  · rw [if_pos inf, fClass, val_of_inf (show a.toNat % 2 ^ 31 = 0x7F800000 by omega), sign]
    cases a.msb <;> rfl
  rw [if_neg inf, fClass, val_of_finite (by omega), sign]
  by_cases zero : e = 0 ∧ f = 0
  · rw [if_pos zero, if_pos (by omega)]
    cases a.msb <;> rfl
  rw [if_neg zero, if_neg (by omega)]
  by_cases sub : e = 0
  · have isSub : fF32.sub a.toNat = true := (sub_f32 _).2 (by omega)
    rw [if_pos sub, if_pos (by omega)]
    simp only [isSub, if_true]
    cases a.msb <;> rfl
  · have notSub : fF32.sub a.toNat = false := Bool.eq_false_iff.2 fun h => by have := (sub_f32 _).1 h; omega
    rw [if_neg sub, if_neg (by omega)]
    simp only [notSub, Bool.false_eq_true, if_false]
    cases a.msb <;> rfl

/-- The masks that take the sign bit away and leave it alone. -/
theorem getLsbD_magnitudeMask : ∀ i, i < 31 → (0x7FFFFFFF : Word).getLsbD i = true := by decide
theorem getLsbD_signMask : ∀ i, i < 31 → (0x80000000 : Word).getLsbD i = false := by decide

theorem fabs_bits (a : Word) : (a &&& 0x7FFFFFFF).msb = false ∧ ∀ i, i < 31 → (a &&& 0x7FFFFFFF).getLsbD i = a.getLsbD i :=
  ⟨(BitVec.msb_and ..).trans (Bool.and_false _), fun i hi => by
    rw [BitVec.getLsbD_and, getLsbD_magnitudeMask i hi, Bool.and_true]⟩
theorem fneg_bits (a : Word) : (a ^^^ 0x80000000).msb = !a.msb ∧ ∀ i, i < 31 → (a ^^^ 0x80000000).getLsbD i = a.getLsbD i :=
  ⟨(BitVec.msb_xor ..).trans (Bool.xor_true _), fun i hi => by
    rw [BitVec.getLsbD_xor, getLsbD_signMask i hi, Bool.xor_false]⟩
theorem fcopysign_bits (a b : Word) : (a &&& 0x7FFFFFFF ||| b &&& 0x80000000).msb = b.msb ∧
    ∀ i, i < 31 → (a &&& 0x7FFFFFFF ||| b &&& 0x80000000).getLsbD i = a.getLsbD i := by
  refine ⟨?_, fun i hi => ?_⟩
  · rw [BitVec.msb_or, (fabs_bits a).1, BitVec.msb_and]
    exact (Bool.false_or _).trans (Bool.and_true _)
  · rw [BitVec.getLsbD_or, (fabs_bits a).2 i hi, BitVec.getLsbD_and, getLsbD_signMask i hi, Bool.and_false, Bool.or_false]

end Sys2Proof.Machine

namespace Sys2Proof.Claims
open Sys2Proof.Machine

/-- A register written and flags raised are the only change. -/
theorem SetsRegFlags.of_raise (a : Lane) (r : Nat) (w : Word) (f : Flags) : SetsRegFlags a ((a.setV r w).raise f) r w f where
  value := (Lane.v_setV a r r w).trans (if_pos rfl)
  flags := rfl
  others k hk := (Lane.regs_setV a r k w).trans (if_neg hk)
  rest := rfl

section
variable {i : Instr}
theorem SetsF3.of_op {o : R3} {f : Bool → Nat → Nat → Nat × Flags} (run : ∀ s, exec i s = opFloat3 o s f) : SetsF3 i o f :=
  LaneDoes.of_laneOpU run fun _ _ a => SetsRegFlags.of_raise a _ _ _
theorem SetsF2.of_op {o : R2} {f : Bool → Nat → Nat × Flags} (run : ∀ s, exec i s = opFloat2 o s f) : SetsF2 i o f :=
  LaneDoes.of_laneOpU run fun _ _ a => SetsRegFlags.of_raise a _ _ _
theorem SetsF4.of_op {o : F4} {f : Uniform → Nat → Nat → Nat → Nat × Flags} (run : ∀ s, exec i s = opFloat4 o s f) :
    SetsF4 i o f := LaneDoes.of_laneOpU run fun _ _ a => SetsRegFlags.of_raise a _ _ _
end

end Sys2Proof.Claims

namespace Sys2Proof.Proofs
open Sys2Proof Sys2Proof.Machine Sys2Proof.Claims

theorem laneFloatArithmetic : LaneFloatArithmetic :=
  ⟨fun _ => .of_op fun _ => rfl, fun _ => .of_op fun _ => rfl, fun _ => .of_op fun _ => rfl, fun _ => .of_op fun _ => rfl,
   fun _ => .of_op fun _ => rfl,
   fun _ => .of_op fun _ => rfl, fun _ => .of_op fun _ => rfl, fun _ => .of_op fun _ => rfl, fun _ => .of_op fun _ => rfl,
   fun _ => .of_op fun _ => rfl, fun _ => .of_op fun _ => rfl,
   fun _ => .of_op fun _ => rfl,
   fun _ => .of_op fun _ => rfl, fun _ => .of_op fun _ => rfl, fun _ => .of_op fun _ => rfl, fun _ => .of_op fun _ => rfl,
   fun _ => LaneDoes.of_laneOp (fun _ => rfl) fun _ _ a => ⟨_, SetsReg.of_setV a _ _, fabs_bits _⟩,
   fun _ => LaneDoes.of_laneOp (fun _ => rfl) fun _ _ a => ⟨_, SetsReg.of_setV a _ _, fneg_bits _⟩,
   fun _ => LaneDoes.of_laneOp (fun _ => rfl) fun _ _ a => ⟨_, SetsReg.of_setV a _ _, fcopysign_bits _ _⟩,
   fun _ => .of_op (f := fun a => toW (fClass a.toNat)) (fun _ => rfl) fun a => fClass_eq a rfl rfl⟩

theorem laneFusedAndSpecialFloat : LaneFusedAndSpecialFloat :=
  ⟨fun _ => .of_op fun _ => rfl, fun _ => .of_op fun _ => rfl, fun _ => .of_op fun _ => rfl, fun _ => .of_op fun _ => rfl,
   fun _ => .of_op fun _ => rfl, fun _ => .of_op fun _ => rfl,
   fun _ => .of_op fun _ => rfl, fun _ => .of_op fun _ => rfl, fun _ => .of_op fun _ => rfl, fun _ => .of_op fun _ => rfl,
   fun _ => .of_op fun _ => rfl, fun _ => .of_op fun _ => rfl, fun _ => .of_op fun _ => rfl, fun _ => .of_op fun _ => rfl,
   fun _ => .of_op fun _ => rfl⟩

/-! ### Rounded results -/

section
variable {f : Fmt} (hf : f.Regular) (r : Rnd) (ftz : Bool) {a b c : Nat} (fa : FiniteCode f a) (fb : FiniteCode f b)
include hf fa fb

theorem fFma_rounds (sub : Bool) (fc : FiniteCode f c) :
    let x := valOf f (readAs f ftz a) * valOf f (readAs f ftz b)
    let z := valOf f (readAs f ftz c)
    let t := if sub then x - z else x + z
    let n := decide (2 ^ (f.w + f.m) ≤ a) != decide (2 ^ (f.w + f.m) ≤ b)
    (t ≠ 0 → RoundsTo f .rn ftz t (fFma f ftz sub a b c)) ∧
    (t = 0 → fFma f ftz sub a b c =
      (f.code (decide (x = 0 ∧ n = true ∧ (decide (2 ^ (f.w + f.m) ≤ c) != sub) = true)) 0, 0)) := by
  intro x z t n
  have sa := operand_stands hf ftz fa
  have sb := operand_stands hf ftz fb
  have sc := operand_stands hf ftz fc
  obtain ⟨p, product, stands⟩ := mulVal_stands sa sb
  obtain ⟨some, zero⟩ := addVals_stands hf .rn ftz stands (addend_stands sub sc)
  have total : x + (if sub then -z else z) = t := by cases sub <;> simp [t, sub_eq_add_neg]
  rw [total] at some zero
  rw [fFma_eq sa.isNan sb.isNan product sc.isNan]
  refine ⟨some, fun h => (zero h).trans ?_⟩
  congr 2
  rw [Bool.eq_iff_iff]
  split_ifs with same
  · simp only [decide_eq_true_eq]; rw [← same.2]; exact ⟨fun h => ⟨same.1, h, h⟩, fun h => h.2.1⟩
  · simp only [decide_eq_true_eq]
    refine iff_of_false nofun fun h => same ⟨h.1, h.2.1.trans h.2.2.symm⟩
end

theorem floatsRoundOnce : FloatsRoundOnce := by
  intro f r ftz a b c mem fa fb fc ng zero x y z
  have hf : f.Regular := regular_of_mem (by simp only [List.mem_cons] at mem ⊢; tauto)
  have sa := operand_stands hf ftz fa
  have sb := operand_stands hf ftz fb
  have isZero : ∀ n : Bool, (f.code n 0, 0) = zero n := fun n => by simp only [code_eq]; rfl
  have add := addVals_stands hf r ftz sa sb
  have diff := addVals_stands hf r ftz sa sb.negate
  have prod := mulVals_stands hf r ftz sa sb
  rw [← Fmt.read, ← Fmt.read] at add diff prod
  simp only [isZero] at add diff prod
  rw [← fAdd_eq sa.isNan sb.isNan] at add
  rw [← sub_eq_add_neg, ← fSub_eq sa.isNan sb.isNan] at diff
  rw [← fMul_eq sa.isNan sb.isNan] at prod
  refine ⟨add.1, add.2, diff.1, fun h => (diff.2 h).trans ?_, prod.1, prod.2, fun sub => ?_, fun f32 => ?_, fun a b c not32 i hi => ?_⟩
  · simp only [Bool.eq_not_iff]; rfl
  · have fma := fFma_rounds hf ftz fa fb sub fc
    simp only [isZero] at fma
    exact fma
  · subst f32
    refine ⟨fun k hk => ?_, fun k hk => ?_⟩
    · have res := fRint_givesExactly fa ftz hk
      exact ⟨res.finite, res.value, (neg_eq_decide res.finite.1).symm.trans (res.sign.trans (neg_eq_decide fa.1)), res.quiet⟩
    · have res := fFrac_givesExactly fa ftz hk
      exact ⟨res.finite, res.value, (neg_eq_decide res.finite.1).symm.trans (res.sign.trans (neg_eq_decide fa.1)), res.quiet⟩
  · have width : f.w + f.m + 1 = 16 := by
      simp only [List.mem_cons, List.not_mem_nil, or_false] at mem
      rcases mem with rfl | rfl | rfl
      · exact absurd rfl not32
      · rfl
      · rfl
    have bound := fFma_lt hf ftz false
    rw [width] at bound
    rw [hfma2, bits_halves (bound ..) (bound ..) hi]
    obtain rfl | rfl : i = 0 ∨ i = 1 := by omega
    · rfl
    · rfl

section
variable (r : Rnd) (ftz s t : Bool)

theorem isNan_read_infCode : (fF32.read ftz (infCode s)).isNan = false := by rw [read_infCode]; rfl
theorem fAdd_inf_inf : fAdd fF32 r ftz (infCode s) (infCode t) = if s = t then (infCode s, 0) else (0x7FC00000, flIV) := by
  rw [fAdd_eq (isNan_read_infCode ..) (isNan_read_infCode ..), read_infCode, read_infCode]
  exact addVals_inf_inf r ftz s t
theorem fSub_inf_inf : fSub fF32 r ftz (infCode s) (infCode t) = if s = t then (0x7FC00000, flIV) else (infCode s, 0) := by
  rw [fSub_eq (isNan_read_infCode ..) (isNan_read_infCode ..), read_infCode, read_infCode]
  refine (addVals_inf_inf r ftz s (!t)).trans ?_
  cases s <;> cases t <;> rfl
theorem fMul_inf_inf : fMul fF32 r ftz (infCode s) (infCode t) = (infCode (s != t), 0) := by
  rw [fMul_eq (isNan_read_infCode ..) (isNan_read_infCode ..), read_infCode, read_infCode]
  exact mulVals_inf_inf r ftz s t

variable {b c : Nat} (fb : FiniteCode fF32 b)
include fb

theorem read_stands : (fF32.read ftz b).Stands (decide (2 ^ 31 ≤ b)) (valOf fF32 (readAs fF32 ftz b)) :=
  operand_stands regular_f32 ftz fb
theorem fAdd_inf : fAdd fF32 r ftz (infCode s) b = (infCode s, 0) ∧ fAdd fF32 r ftz b (infCode s) = (infCode s, 0) := by
  have sb := read_stands ftz fb
  rw [fAdd_eq (isNan_read_infCode ..) sb.isNan, fAdd_eq sb.isNan (isNan_read_infCode ..), read_infCode]
  exact ⟨addVals_inf_left sb r ftz s, addVals_inf_right sb r ftz s⟩
theorem fSub_inf : fSub fF32 r ftz (infCode s) b = (infCode s, 0) ∧ fSub fF32 r ftz b (infCode s) = (infCode (!s), 0) := by
  have sb := read_stands ftz fb
  rw [fSub_eq (isNan_read_infCode ..) sb.isNan, fSub_eq sb.isNan (isNan_read_infCode ..), read_infCode]
  exact ⟨addVals_inf_left sb.negate r ftz s, addVals_inf_right sb r ftz (!s)⟩

/-- The product of an infinity and 0 is invalid, also where it is a term. -/
theorem inf_times_zero (zero : valOf fF32 (readAs fF32 ftz b) = 0) :
    fMul fF32 r ftz (infCode s) b = (0x7FC00000, flIV) ∧ fMul fF32 r ftz b (infCode s) = (0x7FC00000, flIV) ∧
      ∀ (sub : Bool) (c : Nat), fFma fF32 ftz sub (infCode s) b c = (0x7FC00000, flIV) ∧
        fFma fF32 ftz sub b (infCode s) c = (0x7FC00000, flIV) := by
  have sb := read_stands ftz fb
  have ni := isNan_read_infCode ftz s
  obtain ⟨left, right⟩ := (mulVal_inf sb s).1 zero
  have once : ∀ iv : Bool, fF32.flushOut ftz (fF32.nan.getD 0, flIV ||| flWhen iv flIV) = (0x7FC00000, flIV) := fun iv => by
    cases iv <;> exact deliver_invalid ftz
  rw [← read_infCode ftz] at left right
  refine ⟨?_, ?_, fun sub c => ⟨?_, ?_⟩⟩
  · rw [fMul_eq ni sb.isNan, Fmt.mulVals, left]; exact deliver_invalid ftz
  · rw [fMul_eq sb.isNan ni, Fmt.mulVals, right]; exact deliver_invalid ftz
  · obtain ⟨iv, res⟩ := fFma_invalid (sub := sub) (c := c) ni sb.isNan left
    exact res.trans (once iv)
  · obtain ⟨iv, res⟩ := fFma_invalid (sub := sub) (c := c) sb.isNan ni right
    exact res.trans (once iv)

theorem inf_times_finite (some : valOf fF32 (readAs fF32 ftz b) ≠ 0) :
    let n := s != decide (2 ^ 31 ≤ b)
    fMul fF32 r ftz (infCode s) b = (infCode n, 0) ∧ fMul fF32 r ftz b (infCode s) = (infCode n, 0) ∧
      ∀ (sub : Bool) (c : Nat), FiniteCode fF32 c → fFma fF32 ftz sub (infCode s) b c = (infCode n, 0) ∧
        fFma fF32 ftz sub (infCode s) b (infCode t) = if n = (t != sub) then (infCode (t != sub), 0) else (0x7FC00000, flIV) := by
  intro n
  have sb := read_stands ftz fb
  have ni := isNan_read_infCode ftz s
  obtain ⟨left, right⟩ := (mulVal_inf sb s).2 some
  rw [← read_infCode ftz] at left right
  refine ⟨?_, ?_, fun sub c fc => ⟨?_, ?_⟩⟩
  · rw [fMul_eq ni sb.isNan, Fmt.mulVals, left]; exact deliver_inf r ftz n
  · rw [fMul_eq sb.isNan ni, Fmt.mulVals, right]; exact deliver_inf r ftz n
  · have sc := read_stands ftz fc
    rw [fFma_eq ni sb.isNan left sc.isNan]
    exact addVals_inf_left (addend_stands sub sc) .rn ftz n
  · have third : addend sub (.inf t) = .inf (t != sub) := by cases sub <;> cases t <;> rfl
    rw [fFma_eq ni sb.isNan left (isNan_read_infCode ..), read_infCode, third]
    refine (addVals_inf_inf .rn ftz n (t != sub)).trans ?_
    split_ifs with same
    · rw [same]
    · rfl
end

theorem infiniteOperands : InfiniteOperands := by
  intro r ftz s t b fb inf is none zero
  refine ⟨(fAdd_inf r ftz s fb).1, (fAdd_inf r ftz s fb).2, fAdd_inf_inf r ftz s t, (fSub_inf r ftz s fb).1, (fSub_inf r ftz s fb).2,
    fSub_inf_inf r ftz s t, fMul_inf_inf r ftz s t, fun h => ?_, fun h => inf_times_finite r ftz s t fb h⟩
  obtain ⟨left, right, fused⟩ := inf_times_zero r ftz s fb h
  exact ⟨left, right, fun sub c => fused sub c.toNat⟩

/-- Settles O3: finite operands stand for numbers, which the model's delivery rounds once as the statement's `RoundsTo` does. -/
theorem laneFloatOperations : Obligations.LaneFloatOperations :=
  ⟨laneFloatArithmetic, laneFusedAndSpecialFloat, floatsRoundOnce, infiniteOperands⟩

end Sys2Proof.Proofs
end

section
/-! FSET's conditions and the conversions between formats and to and from integers (R27, R35, R39, R159). -/
namespace Sys2Proof.Machine
open Sys2Proof.Claims

/-! ### Conditions of two floats (R159) -/

section
variable {a b : Nat} (ha : a < 2 ^ 32) (hb : b < 2 ^ 32) (ftz : Bool)
include ha hb

/-- The flags of a condition: IV for a signalling NaN, and under the ordered inequalities for any NaN. -/
theorem fcond_flags (fn : Nat) :
    let x := readAs fF32 ftz a
    let y := readAs fF32 ftz b
    let iv := Signals x ∨ Signals y ∨ (2 ≤ fn ∧ fn ≤ 5 ∧ (IsNan x ∨ IsNan y))
    (iv → (fcond fn ftz a b).2 = flIV) ∧ (¬ iv → (fcond fn ftz a b).2 = 0) := by
  intro x y iv
  have flags : (fcond fn ftz a b).2 = (fF32.val x).sig ||| (fF32.val y).sig |||
      flWhen (((fF32.val x).isNan || (fF32.val y).isNan) && decide (2 ≤ fn ∧ fn ≤ 5)) flIV := by
    unfold fcond
    rw [flush_f32 ftz ha, flush_f32 ftz hb]
  have ordered : (((fF32.val x).isNan || (fF32.val y).isNan) && decide (2 ≤ fn ∧ fn ≤ 5)) = true ↔
      2 ≤ fn ∧ fn ≤ 5 ∧ (IsNan x ∨ IsNan y) := by
    rw [Bool.and_eq_true, Bool.or_eq_true, isNan_val, isNan_val, decide_eq_true_eq]; tauto
  rw [flags, flWhen]
  by_cases signal : Signals x ∨ Signals y
  · rw [sig_or_sig_of_signals signal]
    refine ⟨fun _ => ?_, fun quiet => absurd (signal.imp_right .inl) quiet⟩
    split_ifs <;> rfl
  · have alone : ∀ fl : Flags, 0 ||| fl = fl := fun _ => BitVec.zero_or
    rw [sig_or_sig_of_quiet signal, alone]
    exact ⟨fun h => if_pos (ordered.2 ((or_assoc.2 h).resolve_left signal)), fun h => if_neg fun nan => h (.inr (.inr (ordered.1 nan)))⟩

/-- The truth of each condition. -/
theorem fcond_iff {fn : Nat} (hfn : fn ≤ 13) :
    (fcond fn ftz a b).1 = true ↔ fsetHolds fn (readAs fF32 ftz a) (readAs fF32 ftz b) := by
  have hx := readAs_f32_lt ftz ha
  have hy := readAs_f32_lt ftz hb
  unfold fcond
  rw [flush_f32 ftz ha, flush_f32 ftz hb]
  dsimp only
  generalize readAs fF32 ftz a = x at *
  generalize readAs fF32 ftz b = y at *
  by_cases un : IsNan x ∨ IsNan y
  · have isNan : ((fF32.val x).isNan || (fF32.val y).isNan) = true := by rwa [Bool.or_eq_true, isNan_val, isNan_val]
    rw [isNan]
    interval_cases fn <;> simp [fsetHolds, un]
  · obtain ⟨nx, ny⟩ := not_or.1 un
    have notNan : ((fF32.val x).isNan || (fF32.val y).isNan) = false := by
      rwa [Bool.eq_false_iff, ne_eq, Bool.or_eq_true, isNan_val, isNan_val]
    rw [notNan, ltVal_val hx hy nx ny, ltVal_val hy hx ny nx, eqVal_val hx hy nx ny]
    have le : ∀ i j : Int, i < j ∨ i = j ↔ i ≤ j := fun i j => le_iff_lt_or_eq.symm
    have le' : ∀ i j : Int, i < j ∨ j = i ↔ i ≤ j := fun i j => by omega
    interval_cases fn <;> simp [fsetHolds, nx, ny, le, le']
end

/-! ### Conversions between formats (R35, R39) -/

/-- A conversion saturates on request, and always where its format has no NaN. -/
def Fmt.saturates (f : Fmt) (sat : Bool) : Bool := sat || f.nan.isNone

theorem convert_fin (f : Fmt) (r : Rnd) (sat n : Bool) (k : Nat) (e : Int) :
    f.convert r sat (.fin n k e) = f.round r (f.saturates sat) n k e := rfl
theorem convert_inf (f : Fmt) (r : Rnd) (sat n : Bool) : f.convert r sat (.inf n) = if f.saturates sat then (f.code n f.maxFin, 0)
    else match f.inf with | some i => (f.code n i, 0) | none => (f.nan.getD 0, flIV) := rfl
theorem convert_nan (f : Fmt) (r : Rnd) (sat s : Bool) : f.convert r sat (.nan s) =
    match f.nan with | some q => (q, flWhen s flIV) | none => (0, flPZ ||| flWhen s flIV) := rfl

section
variable {f : Fmt} (hf : f.Regular) (r : Rnd) (sat ftz : Bool) {n : Bool} {x : ℚ} {v : FVal} (stands : v.Stands n x)

include stands in
theorem convert_zero (zero : x = 0) : f.flushOut ftz (f.convert r sat v) = (f.code n 0, 0) := by
  obtain ⟨-, rfl⟩ | ⟨k, e, pos, some, rfl, rfl⟩ := stands.cases_num
  · exact flushOut_zero f ftz n 0
  · exact absurd zero some

include hf

/-- Codes above the subnormal ones keep their place when a result is flushed. -/
theorem flushOut_large (n : Bool) {k : Nat} (fl : Flags) (large : f.maxFin ≤ k) (fits : k < 2 ^ (f.w + f.m)) :
    f.flushOut ftz (f.code n k, fl) = (f.code n k, fl) := flushOut_normal ftz n fl fits (.inr (hf.normal.trans large))

theorem convert_lt (v : FVal) : (f.convert r sat v).1 < 2 ^ (f.w + f.m + 1) := by
  cases v with
  | fin n k e => exact round_lt hf r _ n k e
  | zero n => exact code_lt f n (Nat.two_pow_pos _)
  | inf n =>
    rw [convert_inf]
    refine fst_ite_lt (fun _ => code_lt f n hf.top) fun _ => ?_
    split
    next i inf => exact code_lt f n (hf.inf i inf).2
    next => exact nan_lt hf
  | nan s =>
    rw [convert_nan]
    split
    next q nan => exact (hf.nan q nan).2.trans (Nat.pow_lt_pow_succ one_lt_two)
    next => exact Nat.two_pow_pos _
theorem cvtFloat_lt (u : Uniform) (src : Fmt) (c : Nat) : (cvtFloat u f src r sat c).1 < 2 ^ (f.w + f.m + 1) :=
  flushOut_lt (convert_lt hf r sat _)

include stands
theorem convert_rounds (some : x ≠ 0) (room : f.saturates sat = true → f.inf = none ∨ |x| < magOf f f.maxFin) :
    RoundsTo f r ftz x (f.flushOut ftz (f.convert r sat v)) := by
  obtain ⟨zero, -⟩ | ⟨k, e, pos, -, rfl, rfl⟩ := stands.cases_num
  · exact absurd zero some
  · rw [abs_withSign n (by positivity)] at room
    exact roundsTo_round hf r n pos ftz room
theorem convert_saturates (on : f.saturates sat = true) (big : magOf f (f.maxFin + 1) ≤ |x|) :
    f.flushOut ftz (f.convert r sat v) = (f.code n f.maxFin, flOF ||| flIX) := by
  obtain ⟨rfl, -⟩ | ⟨k, e, pos, -, rfl, rfl⟩ := stands.cases_num
  · have least := magOf_strictMono f f.maxFin.succ_pos
    rw [magOf_zero] at least
    rw [abs_zero] at big
    exact absurd big least.not_ge
  · rw [abs_withSign n (by positivity)] at big
    rw [convert_fin, round_overflow hf r n pos big, on, Fmt.overflow, Bool.true_or, if_pos rfl]
    exact flushOut_large hf ftz n _ le_rfl hf.top
end

section
variable {f g : Fmt} {c : Nat}

/-- Beyond the finite codes stand the infinity and the NaNs, which no flush changes. -/
theorem flush_large (hf : f.Regular) (ftz : Bool) (large : f.maxFin < f.mag c) : f.flush ftz c = c := by
  have notSub : f.sub c = false := by
    rw [Fmt.sub, decide_eq_false (by have := hf.normal; omega), Bool.and_false]
  rw [Fmt.flush, notSub, Bool.and_false]; rfl
theorem val_of_large (large : f.maxFin < f.mag c) : f.val c = if f.inf = some (f.mag c) then .inf (f.neg c)
    else .nan (f.signals && !(f.mag c % 2 ^ f.m).testBit (f.m - 1)) := if_pos large

/-- The same sign in another format. -/
theorem code_neg (width : c < 2 ^ (g.w + g.m + 1)) (k : Nat) : f.code (g.neg c) k = c / 2 ^ (g.w + g.m) * 2 ^ (f.w + f.m) + k := by
  rw [code_eq, neg_eq_decide width]
  obtain low | high := lt_or_ge c (2 ^ (g.w + g.m))
  · simp [low.not_ge, Nat.div_eq_of_lt low]
  · have one : c / 2 ^ (g.w + g.m) = 1 := Nat.div_eq_of_lt_le (by omega) (by rw [pow_succ'] at width; omega)
    simp [high, one]
end

end Sys2Proof.Machine

namespace Sys2Proof.Proofs
open Sys2Proof Sys2Proof.Machine Sys2Proof.Claims

theorem fsetTruthTable : FsetTruthTable := fun a b ftz fn hfn =>
  ⟨fcond_iff a.isLt b.isLt ftz hfn, fcond_flags a.isLt b.isLt ftz fn⟩

/-- Of the formats, .e2m1 alone has no NaN; it has no infinity either. -/
theorem saturates_iff {f : Fmt} (h : f ∈ [fF32, fF16, fBf16, fE4m3, fE5m2, fE2m1]) (sat : Bool) :
    f.saturates sat = true ↔ sat = true ∨ f = fE2m1 := by
  have all : ∀ f ∈ [fF32, fF16, fBf16, fE4m3, fE5m2, fE2m1], f.nan.isNone = true ↔ f = fE2m1 := by decide
  rw [Fmt.saturates, Bool.or_eq_true, all f h]
theorem nan_of_inf {f : Fmt} (h : f ∈ [fF32, fF16, fBf16, fE4m3, fE5m2, fE2m1]) (inf : f.inf = none) (sat : f.saturates false = false) :
    f.nan = some 0x7F := by
  have all : ∀ f ∈ [fF32, fF16, fBf16, fE4m3, fE5m2, fE2m1], f.inf = none → f.saturates false = false → f.nan = some 0x7F := by
    decide
  exact all f h inf sat

theorem formatsConvert : FormatsConvert := by
  intro u f g r sat c memf memg width s k x y
  have hf : f.Regular := regular_of_mem memf
  have hg : g.Regular := regular_of_mem memg
  have sats := saturates_iff memf sat
  have sign : ∀ k, f.code (g.neg c) k = s + k := code_neg width
  have fits : k < 2 ^ (g.w + g.m) := Nat.mod_lt _ (Nat.two_pow_pos _)
  have value : k ≤ g.maxFin → (g.val (g.flush (ftzOf u g) c)).Stands (g.neg c) x := fun fin => by
    rw [neg_eq_decide width]; exact operand_stands hg _ ⟨width, fin⟩
  have large : g.maxFin < k → y = f.flushOut (ftzOf u f) (f.convert r sat (if g.inf = some k then .inf (g.neg c)
      else .nan (g.signals && !(k % 2 ^ g.m).testBit (g.m - 1)))) := fun large =>
    congrArg (fun v => f.flushOut (ftzOf u f) (f.convert r sat v))
      ((congrArg g.val (flush_large hg _ large)).trans (val_of_large large))
  refine ⟨fun fin zero => ?_, fun fin some off => ?_, fun fin some on => ⟨fun room => ?_, fun big => ?_⟩, fun inf => ?_,
    fun nan noInf => ?_⟩
  · exact (convert_zero r sat _ (value fin) zero).trans (by rw [sign]; rfl)
  · refine convert_rounds hf r sat _ (value fin) some fun on => .inl ?_
    have e2m1 := (sats.1 on).resolve_left (by rw [off]; decide)
    rw [e2m1]; rfl
  · exact convert_rounds hf r sat _ (value fin) some fun _ => .inr room
  · exact (convert_saturates hf r sat _ (value fin) (sats.2 on) big).trans (by rw [sign])
  · rw [large (hg.inf k inf).1, if_pos inf, convert_inf]
    simp only [sats]
    split_ifs with on
    · rw [flushOut_large hf _ _ _ le_rfl hf.top, sign]
    · cases inff : f.inf with
      | some i =>
        obtain ⟨above, fits⟩ := hf.inf i inff
        exact (flushOut_large hf _ _ _ above.le fits).trans (by rw [sign])
      | none =>
        have nan : f.nan = some 0x7F := nan_of_inf memf inff (by
          rw [Bool.eq_false_iff, ne_eq, saturates_iff memf]; exact fun h => on (.inr (h.resolve_left (by decide))))
        obtain ⟨above, fits⟩ := hf.nan _ nan
        rw [nan]
        exact flushOut_large hf _ false flIV above.le fits
  · rw [large nan, if_neg noInf, convert_nan]
    have quiet : flWhen (g.signals && !(k % 2 ^ g.m).testBit (g.m - 1)) flIV =
        if g.signals = true ∧ k % 2 ^ g.m < 2 ^ (g.m - 1) then flIV else 0 := by
      rw [testBit_top hg.frac (Nat.mod_lt _ (Nat.two_pow_pos _)), flWhen]
      simp only [Bool.and_eq_true, Bool.not_eq_true', decide_eq_false_iff_not, not_le]
    rw [quiet]
    cases nan : f.nan with
    | some q =>
      obtain ⟨above, fits⟩ := hf.nan q nan
      exact flushOut_large hf _ false _ above.le fits
    | none => exact flushOut_zero f _ false _

end Sys2Proof.Proofs
end

section
/-! CVT between .f32 and integers, and the scale codes (R27, R39). -/
namespace Sys2Proof.Proofs
open Sys2Proof Sys2Proof.Machine Sys2Proof.Claims

theorem read_of_isNan (ftz : Bool) {c : Nat} (width : c < 2 ^ 32) (nan : IsNan c) : ∃ s, fF32.read ftz c = .nan s := by
  rw [Fmt.read, flush_f32 ftz width, readAs_of_isNan ftz nan, val_of_isNan nan]; exact ⟨_, rfl⟩

section
variable {n : Nat} {lo hi : Int} {ftz : Bool} {c : Nat} {r : Rnd} {y : DWord × Flags}

/-- The low n bits of a pair value are those of an integer, and the flags are as given. -/
def GivesInt (n : Nat) (y : DWord × Flags) (v : Int) (fl : Flags) : Prop := y.1.toNat % 2 ^ n = (v % 2 ^ n).toNat ∧ y.2 = fl

/-- A conversion to an integer, delivered by `code`, clamps. -/
theorem cvtInt_gives {code : Int → DWord} (low : ∀ v, (code v).toNat % 2 ^ n = (v % 2 ^ n).toNat) (width : c < 2 ^ 32)
    (run : y = (code (cvtInt r lo hi (fF32.read ftz c)).1, (cvtInt r lo hi (fF32.read ftz c)).2)) :
    (IsNan c → GivesInt n y 0 flIV) ∧ (c = 0x7F800000 → GivesInt n y hi flIV) ∧ (c = 0xFF800000 → GivesInt n y lo flIV) ∧
    (FiniteCode fF32 c → ∀ k, IntRounds r (valOf fF32 (readAs fF32 ftz c)) k →
      if k < lo then GivesInt n y lo flIV else if hi < k then GivesInt n y hi flIV
      else GivesInt n y k (if (k : ℚ) = valOf fF32 (readAs fF32 ftz c) then 0 else flIX)) := by
  have gives : ∀ {p : Int × Flags}, cvtInt r lo hi (fF32.read ftz c) = p → GivesInt n y p.1 p.2 := fun {p} h => by
    rw [run, h]; exact ⟨low p.1, rfl⟩
  refine ⟨fun nan => ?_, fun inf => ?_, fun inf => ?_, fun fin k hk => ?_⟩
  · obtain ⟨s, read⟩ := read_of_isNan ftz width nan
    exact gives (p := (0, flIV)) (by rw [read]; rfl)
  · exact gives (p := (hi, flIV)) (by rw [inf, show 0x7F800000 = infCode false from rfl, read_infCode]; rfl)
  · exact gives (p := (lo, flIV)) (by rw [inf, show 0xFF800000 = infCode true from rfl, read_infCode]; rfl)
  · have clamped := gives (cvtInt_stands (read_stands ftz fin) hk lo hi)
    split_ifs at clamped ⊢ with less more same
    · exact clamped
    · exact clamped
    · exact clamped
    · exact clamped
end

theorem toNat_low_word (v : Int) : ((BitVec.ofInt 32 v).zeroExtend 64).toNat % 2 ^ 32 = (v % 2 ^ 32).toNat := by
  simp; omega
theorem toNat_pair (v : Int) : (BitVec.ofInt 64 v).toNat % 2 ^ 64 = (v % 2 ^ 64).toNat := by
  simp; omega

/-- An integer converted to .f32. -/
theorem ofInt_rounds (r : Rnd) (z : Int) :
    let p := fF32.deliver r (ofInt false z 0)
    (z = 0 → (toD p.1, p.2) = (0, 0)) ∧ (z ≠ 0 → RoundsTo fF32 r false z ((toD p.1).toNat, p.2)) := by
  intro p
  obtain ⟨k, stands, sign⟩ := ofInt_stands false z 0
  rw [zpow_zero, mul_one] at stands
  obtain ⟨some, zero⟩ := deliver_stands regular_f32 r false stands
  rw [flushOut_off] at some zero
  refine ⟨fun h => ?_, fun h => ?_⟩
  · have code := zero (by rw [h]; rfl)
    rw [sign h] at code
    rw [show p = (0, 0) from code]; rfl
  · have fits : p.1 < 2 ^ 64 := (deliver_lt regular_f32 r _).trans (by decide)
    rw [toD, BitVec.toNat_ofNat, Nat.mod_eq_of_lt fits]
    exact some (Int.cast_ne_zero.2 h)

/-- The exponent of a magnitude, by its code in E8M0. -/
theorem cvtE8m0_stands {v : FVal} {n : Bool} {x : ℚ} {k : Int} (stands : v.Stands n x) (some : x ≠ 0) (lo : (2 : ℚ) ^ k ≤ |x|)
    (hi : |x| < (2 : ℚ) ^ (k + 1)) : cvtE8m0 v = ((min (max (k + 127) 0) 254).toNat, 0) := by
  obtain ⟨zero, -⟩ | ⟨m, e, pos, -, rfl, rfl⟩ := stands.cases_num
  · exact absurd zero some
  · rw [abs_withSign n (by positivity)] at lo hi
    obtain ⟨least, most⟩ := log2_bounds pos e
    have below := lt_of_zpow_lt least hi
    have above := lt_of_zpow_lt lo most
    have exp : (m.log2 : Int) + e = k := by omega
    rw [cvtE8m0, exp]

theorem convert_e8m0 (u : Uniform) {k : Nat} (pos : 0 < k) (top : k < 255) :
    fF32.flushOut (ftz32 u) (fF32.convert .rn false (.fin false 1 ((k : Int) - 127))) = (k * 2 ^ 23, 0) := by
  have value : magOf fF32 (k * 2 ^ 23) = (1 : Nat) * 2 ^ ((k : Int) - 127) := by
    have sig : fF32.sig (k * 2 ^ 23 + 0) = 2 ^ 23 + 0 := sig_normal fF32 pos (Nat.two_pow_pos 23)
    have ulp : fF32.ulp (k * 2 ^ 23 + 0) = (k : Int) - 127 - (23 : Nat) := ulp_normal fF32 pos (Nat.two_pow_pos 23)
    rw [Nat.add_zero] at sig ulp
    rw [magOf_eq, sig, ulp, Nat.add_zero, pow_mul_zpow, Nat.cast_one, one_mul]
  have fin : k * 2 ^ 23 ≤ fF32.maxFin := show k * 2 ^ 23 ≤ 0x7F7FFFFF by omega
  rw [convert_fin, round_exact regular_f32 .rn _ false one_pos value fin]
  exact flushOut_normal _ _ _ (fin.trans_lt regular_f32.top) (.inr (Nat.le_mul_of_pos_left _ pos))

theorem integersConvert : IntegersConvert := by
  intro u r sat w c x
  have width : c < 2 ^ 32 := Nat.mod_lt _ (Nat.two_pow_pos 32)
  refine ⟨fun q mem => ?_, fun q mem => ?_, fun k fin some lo hi => ?_, fun k hk pos top => ?_⟩
  · simp only [List.mem_cons, List.not_mem_nil, or_false] at mem
    rcases mem with rfl | rfl | rfl | rfl
    · exact cvtInt_gives toNat_low_word width rfl
    · exact cvtInt_gives toNat_low_word width rfl
    · exact cvtInt_gives toNat_pair width rfl
    · exact cvtInt_gives toNat_pair width rfl
  · simp only [List.mem_cons, List.not_mem_nil, or_false] at mem
    rcases mem with rfl | rfl | rfl | rfl
    · exact ofInt_rounds r _
    · exact ofInt_rounds r _
    · exact ofInt_rounds r _
    · exact ofInt_rounds r _
  · have run : cvt u 22 r sat w = (toD (cvtE8m0 (fF32.read (u.mode.getLsbD 0) c)).1, (cvtE8m0 (fF32.read (u.mode.getLsbD 0) c)).2) := rfl
    rw [run, cvtE8m0_stands (read_stands _ fin) some lo hi]
    refine Prod.ext ?_ rfl
    rw [toD, ← BitVec.ofInt_natCast, Int.toNat_of_nonneg (by omega)]
  · have run : cvt u 23 r sat w = (toD (fF32.flushOut (ftz32 u) (fF32.convert .rn false (e8m0Val c))).1,
        (fF32.flushOut (ftz32 u) (fF32.convert .rn false (e8m0Val c))).2) := rfl
    have scale : e8m0Val c = .fin false 1 ((k : Int) - 127) := by
      rw [e8m0Val, show c % 256 = k by omega, if_neg (by omega)]
    rw [run, scale, convert_e8m0 u pos top]; rfl

end Sys2Proof.Proofs
end

section
/-! ISET, FSET, CVT, PK and UPK in the lanes (R37, R38, R149, R158 to R161). -/
namespace Sys2Proof.Machine
open Sys2Proof.Claims

/-! ### Words of packed elements (R25) -/

section
variable {w : Nat} {f : Nat → Nat × Flags} (fits : ∀ x, (f x).1 < 2 ^ w)
include fits

theorem packWord_lt (xs : List Nat) : (packWord w f xs).1 < 2 ^ (w * xs.length) := by
  induction xs with
  | nil => exact Nat.two_pow_pos _
  | cons x t ih =>
    calc (f x).1 + 2 ^ w * (packWord w f t).1 < 2 ^ w * ((packWord w f t).1 + 1) := by have := fits x; rw [Nat.mul_succ]; omega
      _ ≤ 2 ^ w * 2 ^ (w * t.length) := Nat.mul_le_mul_left _ ih
      _ = 2 ^ (w * (x :: t).length) := by rw [← pow_add, List.length_cons, Nat.mul_succ, Nat.add_comm]

/-- Element i stands at the bits from w × i. -/
theorem bits_packWord (xs : List Nat) {i : Nat} (hi : i < xs.length) : bits (packWord w f xs).1 (w * i) w = (f xs[i]).1 := by
  induction xs generalizing i with
  | nil => exact absurd hi (Nat.not_lt_zero i)
  | cons x t ih =>
    rw [bits, Nat.shiftRight_eq_div_pow, packWord]
    cases i with
    | zero =>
      rw [Nat.mul_zero, pow_zero, Nat.div_one, Nat.add_mul_mod_self_left, Nat.mod_eq_of_lt (fits x)]; rfl
    | succ i =>
      rw [Nat.mul_succ, Nat.add_comm (w * i), pow_add, ← Nat.div_div_eq_div_mul, Nat.add_mul_div_left _ _ (Nat.two_pow_pos w),
        Nat.div_eq_of_lt (fits x), Nat.zero_add]
      have rest := ih (Nat.lt_of_succ_lt_succ hi)
      rw [bits, Nat.shiftRight_eq_div_pow] at rest
      exact rest
end

/-- The flags of all elements are raised. -/
theorem flags_packWord (w : Nat) (f : Nat → Nat × Flags) (xs : List Nat) (fl : Flags) :
    fl ||| (packWord w f xs).2 = xs.foldl (fun b x => b ||| (f x).2) fl := by
  induction xs generalizing fl with
  | nil => exact BitVec.or_zero
  | cons x t ih => rw [packWord, List.foldl_cons, ← ih, BitVec.or_assoc]
theorem foldl_or {α : Type} (g : α → Flags) (l : List α) (fl : Flags) :
    fl ||| l.foldl (fun b x => b ||| g x) 0 = l.foldl (fun b x => b ||| g x) fl := by
  induction l generalizing fl with
  | nil => exact BitVec.or_zero
  | cons x t ih =>
    rw [List.foldl_cons, List.foldl_cons, ← ih, ← ih (fl ||| g x), ← BitVec.or_assoc, ← BitVec.or_assoc]
    congr 2; exact BitVec.or_zero

/-! ### Several registers -/

/-- Word i of two runs of n registers, from p and from q. -/
def Lane.runs (ln : Lane) (p q n i : Nat) : Nat := (ln.v (if i < n then p + i else q + (i - n))).toNat
theorem map_vs_append (ln : Lane) (p q n : Nat) :
    (ln.vs p n ++ ln.vs q n).map BitVec.toNat = (List.range (2 * n)).map (ln.runs p q n) := by
  rw [two_mul, List.range_add, List.map_append, List.map_append, Lane.vs, Lane.vs, List.map_map, List.map_map, List.map_map]
  refine congrArg₂ _ (List.map_congr_left fun i hi => ?_) (List.map_congr_left fun i _ => ?_)
  · rw [Function.comp, Lane.runs, if_pos (List.mem_range.1 hi)]
  · rw [Function.comp, Function.comp, Lane.runs, if_neg (by omega), Nat.add_sub_cancel_left]

theorem Lane.wb_setVs (ln : Lane) (r : Nat) (ws : List Word) : (ln.setVs r ws).wb = ln.wb := by
  have rest := ln.rest_setVs r ws
  exact (congrArg Lane.wb rest :)
theorem Lane.regs_setVs_outside (ln : Lane) (r : Nat) (ws : List Word) {k : Nat} (out : k < ln.wb + r ∨ ln.wb + r + ws.length ≤ k) :
    mgetD (ln.setVs r ws).regs k 0 = mgetD ln.regs k 0 := by
  induction ws generalizing ln r with
  | nil => rfl
  | cons w t ih =>
    rw [List.length_cons] at out
    rw [Lane.setVs, ih _ _ (by rw [Lane.setV_wb]; omega), Lane.regs_setV, if_neg (by omega)]
theorem Lane.v_setVs (ln : Lane) (r : Nat) (ws : List Word) {i : Nat} (hi : i < ws.length) :
    (ln.setVs r ws).v (r + i) = ws[i] := by
  induction ws generalizing ln r i with
  | nil => exact absurd hi (Nat.not_lt_zero i)
  | cons w t ih =>
    rw [Lane.setVs]
    cases i with
    | zero =>
      rw [Lane.v, Lane.wb_setVs, Lane.regs_setVs_outside _ _ _ (.inl (by rw [Lane.setV_wb]; omega)), Lane.setV_wb,
        Lane.regs_setV]
      exact if_pos rfl
    | succ i =>
      have rest := ih (ln.setV r w) (r + 1) (Nat.lt_of_succ_lt_succ hi)
      rw [Nat.add_assoc, Nat.add_comm 1] at rest
      exact rest

theorem cvtWideIn_iff (fn : Nat) : cvtWideIn fn = true ↔ fn = 10 ∨ fn = 11 := by simp [cvtWideIn]
theorem cvtWideOut_iff (fn : Nat) : cvtWideOut fn = true ↔ fn = 8 ∨ fn = 9 := by simp [cvtWideOut]

end Sys2Proof.Machine

namespace Sys2Proof.Proofs
open Sys2Proof Sys2Proof.Machine Sys2Proof.Claims

theorem iset_does (o : Cmp) : LaneDoes (.iset o) (VSrc.len o.b) o.g fun _ _ a b =>
    ∀ t : Bool, (t = true ↔ condOf o.f (a.v o.a.toNat) (VSrc.val o.b a)) → SetsPred a b o.p (combined o.m (a.p o.p) t) :=
  LaneDoes.of_laneOp (fun _ => rfl) fun _ _ a t ht => by
    rw [Bool.eq_iff_iff.2 (ht.trans (icond_iff ..).symm), ← combine_eq]
    exact SetsPred.of_setP ..

/-- What FSET makes of a lane. -/
def fsetLane (o : Cmp) (u : Uniform) (a : Lane) : Lane :=
  let t := fcond o.f.toNat (ftz32 u) (a.v o.a.toNat).toNat (VSrc.val o.b a).toNat
  (a.setP o.p (combine o.m (a.p o.p) t.1)).raise t.2
theorem exec_fset (o : Cmp) (s : State) : exec (.fset o) s = laneOpU s (VSrc.len o.b) o.g fun u _ a => fsetLane o u a := rfl
theorem fset_does (o : Cmp) : LaneDoes (.fset o) (VSrc.len o.b) o.g fun x _ a b =>
    let t := fcond o.f.toNat (x.gr.uni.mode.getLsbD 0) (a.v o.a.toNat).toNat (VSrc.val o.b a).toNat
    (o.p ≠ 7 → b.p o.p = combined o.m (a.p o.p) t.1) ∧ (∀ q, q ≠ o.p → b.p q = a.p q) ∧
      b.flags = a.flags ||| t.2 ∧ { b with preds := 0, flags := 0 } = { a with preds := 0, flags := 0 } :=
  LaneDoes.of_laneOpU (exec_fset o) fun x _ a => by
    intro t
    obtain ⟨value, others, -, rest⟩ := SetsPred.of_setP a o.p (combine o.m (a.p o.p) t.1)
    have kept : (a.setP o.p (combine o.m (a.p o.p) t.1)).flags = a.flags := (congrArg Lane.flags rest :)
    exact ⟨fun hp => (value hp).trans (combine_eq ..), others, congrArg (· ||| t.2) kept,
      congrArg (fun b : Lane => { b with flags := 0 }) rest⟩

/-- The source of CVT, as a pair value. -/
def cvtSource (o : CvtO) (a : Lane) : DWord :=
  match o.a with
  | .lit w => w.zeroExtend 64
  | .reg r => if cvtWideIn o.f.toNat then a.vPair r.toNat else (a.v r.toNat).zeroExtend 64
/-- A register, or a pair where the result is wide. -/
def cvtDest (o : CvtO) (a : Lane) (w : DWord) : Lane :=
  if cvtWideOut o.f.toNat then a.setPair o.d.toNat w else a.setV o.d.toNat (loOf w)
/-- What CVT makes of a lane. -/
def cvtLane (o : CvtO) (u : Uniform) (a : Lane) : Lane :=
  let y := cvt u o.f.toNat (Rnd.of o.r.toNat) o.s (cvtSource o a)
  (cvtDest o a y.1).raise y.2
theorem exec_cvt (o : CvtO) (s : State) : exec (.cvt o) s = laneOpU s (VSrc.len o.a) o.g fun u _ a => cvtLane o u a := rfl

theorem flags_cvtDest (o : CvtO) (a : Lane) (w : DWord) : (cvtDest o a w).flags = a.flags := by
  unfold cvtDest; split <;> rfl
theorem setsPair_cvtDest (o : CvtO) (a : Lane) (w : DWord) : SetsPair a (cvtDest o a w) o.d.toNat (pairOf (loOf w)
    (if o.f.toNat = 8 ∨ o.f.toNat = 9 then hiOf w else a.v (o.d.toNat + 1))) := by
  by_cases wide : o.f.toNat = 8 ∨ o.f.toNat = 9
  · rw [if_pos wide, pairOf_loOf_hiOf, cvtDest, if_pos ((cvtWideOut_iff _).2 wide)]
    exact SetsPair.of_setPair ..
  · rw [if_neg wide, cvtDest, if_neg ((cvtWideOut_iff _).not.2 wide)]
    have same : (a.setV o.d.toNat (loOf w)).v (o.d.toNat + 1) = a.v (o.d.toNat + 1) := by
      rw [Lane.v_setV, if_neg (by omega)]
    obtain ⟨value, others, rest⟩ := SetsReg.of_setV a o.d.toNat (loOf w)
    exact ⟨value.trans (loOf_pairOf ..).symm, same.trans (hiOf_pairOf ..).symm, fun k hk _ => others k hk, rest⟩

theorem cvt_does (o : CvtO) : LaneDoes (.cvt o) (VSrc.len o.a) o.g fun x _ a b =>
    let fn := o.f.toNat
    let w : DWord := match o.a with
      | .lit w => w.zeroExtend 64
      | .reg r => if fn = 10 ∨ fn = 11 then a.vPair r.toNat else (a.v r.toNat).zeroExtend 64
    let y := cvt x.gr.uni fn (Rnd.of o.r.toNat) o.s w
    b.flags = a.flags ||| y.2 ∧
    SetsPair a { b with flags := a.flags } o.d.toNat (pairOf (loOf y.1)
      (if fn = 8 ∨ fn = 9 then hiOf y.1 else a.v (o.d.toNat + 1))) :=
  LaneDoes.of_laneOpU (exec_cvt o) fun x _ a => by
    intro fn w y
    have source : cvtSource o a = w := by
      unfold cvtSource w
      cases o.a
      · simp only [cvtWideIn_iff]; rfl
      · rfl
    have lane : cvtLane o x.gr.uni a = (cvtDest o a y.1).raise y.2 := by rw [cvtLane, source]
    have kept := flags_cvtDest o a y.1
    have whole : { (cvtDest o a y.1).raise y.2 with flags := a.flags } = cvtDest o a y.1 := by rw [← kept]; rfl
    rw [lane, whole]
    exact ⟨congrArg (· ||| y.2) kept, setsPair_cvtDest o a y.1⟩

section
variable {i : Instr} {f : Fmt} (hf : f ∈ [fF32, fF16, fBf16, fE4m3, fE5m2, fE2m1])

include hf in
/-- PK fills one word. -/
theorem packs_does {o : R3n} {sat : Bool} {n : Nat} (run : ∀ s, exec i s = opPack o s f sat n) (word : (f.w + f.m + 1) * (2 * n) = 32) :
    LaneDoes i 4 o.g fun x _ a b => Packs x.gr.uni f sat n o a b :=
  LaneDoes.of_laneOpU run fun x _ a => by
    have fits : ∀ c, (cvtFloat x.gr.uni f fF32 .rn sat c).1 < 2 ^ (f.w + f.m + 1) := cvtFloat_lt (regular_of_mem hf) .rn sat _ _
    dsimp only
    rw [map_vs_append]
    refine ⟨fun i hi => ?_, ?_, fun k hk => (Lane.regs_setV ..).trans (if_neg hk), rfl⟩
    · have size := packWord_lt fits ((List.range (2 * n)).map (a.runs o.a.toNat o.b.toNat n))
      have element := bits_packWord fits ((List.range (2 * n)).map (a.runs o.a.toNat o.b.toNat n)) (i := i) (by simpa using hi)
      rw [List.length_map, List.length_range, word] at size
      rw [List.getElem_map, List.getElem_range] at element
      refine (congrArg (fun v : Word => bits v.toNat _ _) ((Lane.v_setV ..).trans (if_pos rfl))).trans ?_
      rw [toW, BitVec.toNat_ofNat, Nat.mod_eq_of_lt size]
      exact element
    · exact (flags_packWord ..).trans List.foldl_map

/-- UPK fills a run of registers. -/
theorem unpacks_does {o : R2} {n : Nat} (run : ∀ s, exec i s = opUnpack o s f n) :
    LaneDoes i 4 o.g fun x _ a b => Unpacks x.gr.uni f n o a b :=
  LaneDoes.of_laneOpU run fun x _ a => by
    refine ⟨fun i hi => ?_, ?_, fun k hk => Lane.regs_setVs_outside _ _ _ (by simpa using hk),
      congrArg (fun b : Lane => { b with flags := 0 }) (a.rest_setVs ..)⟩
    · refine (Lane.v_setVs _ _ _ (by simpa using hi)).trans ?_
      rw [List.getElem_map, List.getElem_map, List.getElem_range]; rfl
    · have kept : ∀ ws, (a.setVs o.d.toNat ws).flags = a.flags := fun ws => (congrArg Lane.flags (a.rest_setVs o.d.toNat ws) :)
      rw [Lane.raise, kept, List.foldl_map]
      exact foldl_or ..
end

/-- Settles O5: conversions deliver a finite number as sums and products do, so one rounding lemma serves both. -/
theorem laneComparesAndConversions : Obligations.LaneComparesAndConversions :=
  ⟨fsetTruthTable, formatsConvert, integersConvert, iset_does, fset_does, cvt_does,
    fun _ => ⟨packs_does (by decide) (fun _ => rfl) rfl, packs_does (by decide) (fun _ => rfl) rfl,
      packs_does (by decide) (fun _ => rfl) rfl, packs_does (by decide) (fun _ => rfl) rfl,
      packs_does (by decide) (fun _ => rfl) rfl, packs_does (by decide) (fun _ => rfl) rfl,
      packs_does (by decide) (fun _ => rfl) rfl⟩,
    fun _ => ⟨unpacks_does fun _ => rfl, unpacks_does fun _ => rfl, unpacks_does fun _ => rfl, unpacks_does fun _ => rfl,
      unpacks_does fun _ => rfl⟩⟩

end Sys2Proof.Proofs
end

section
/-! What the operations over one core's scratch leave alone: memory, what is in flight, every group and every other core (R168 to
R178). -/
namespace Sys2Proof.Machine

/-! ### The scratch of a core beside its other parts -/

/-- The entry that holds an offset, and the window of a block, follow from the windows of the core. -/
theorem State.mapAt_congr {s t : State} {core : Nat} (wins : (t.core core).scratch.wins = (s.core core).scratch.wins) (off : Nat) :
    t.mapAt core off = s.mapAt core off := by unfold State.mapAt; rw [wins]
theorem State.blockWin_congr {s t : State} {core : Nat} (wins : (t.core core).scratch.wins = (s.core core).scratch.wins) (blk : Nat) :
    t.blockWin core blk = s.blockWin core blk := by unfold State.blockWin; rw [wins]

@[simp] theorem State.scratch_bump (s : State) (core n c : Nat) (x : Ctr) :
    ((s.bump core x n).core c).scratch = (s.core c).scratch := by
  have same := congrArg Core.scratch (s.core_bump core c n x)
  exact same
@[simp] theorem State.scratch_modGroup (s : State) (c k : Nat) (f : Group → Group) (c' : Nat) :
    ((s.modGroup c k f).core c').scratch = (s.core c').scratch := by
  have same := congrArg Core.scratch (s.core_modGroup c k f c')
  exact same
@[simp] theorem State.scratch_done (s : State) (x : Ex) (n : Nat) (f : Group → Group) (c : Nat) :
    ((s.done x n f).core c).scratch = (s.core c).scratch := s.scratch_modGroup ..
@[simp] theorem State.scratch_putScr (s : State) (core off : Nat) (bs : List Byte) :
    ((s.putScr core off bs).core core).scratch =
      { (s.core core).scratch with bytes := Bytes.write (s.core core).scratch.bytes off bs } := by
  rw [State.putScr, State.core_modCore_same]
@[simp] theorem State.scratch_setScrPoison (s : State) (core off : Nat) (b : Bool) :
    ((s.setScrPoison core off b).core core).scratch =
      { (s.core core).scratch with poison := mput false (s.core core).scratch.poison (off / 4) b } := by
  rw [State.setScrPoison, State.core_modCore_same]
@[simp] theorem State.scratch_setWord (s : State) (core off : Nat) (w : MWord) :
    ((s.setWord core off w).core core).scratch =
      { (s.core core).scratch with words := mset (s.core core).scratch.words (off / 4) w } := by
  rw [State.setWord, State.core_modCore_same]

/-! ### Operations that change one core's scratch alone -/

/-- Nothing has changed but one core's scratch, and there no window; ids, times and counters apart. -/
structure ScratchOnly (s t : State) (core : Nat) : Prop where
  groups : ∀ c k, t.group c k = s.group c k
  cores : ∀ c, c ≠ core → t.core c = s.core c
  wins : (t.core core).scratch.wins = (s.core core).scratch.wins
  mem : t.mem = s.mem
  fly : t.fly = s.fly
  blocks : t.blocks = s.blocks
  dev : t.dev = s.dev

namespace ScratchOnly
variable {s t u : State} {core : Nat}

theorem refl (s : State) (core : Nat) : ScratchOnly s s core := ⟨fun _ _ => rfl, fun _ _ => rfl, rfl, rfl, rfl, rfl, rfl⟩
theorem trans (h : ScratchOnly s t core) (g : ScratchOnly t u core) : ScratchOnly s u core where
  groups c k := (g.groups c k).trans (h.groups c k)
  cores c hc := (g.cores c hc).trans (h.cores c hc)
  wins := g.wins.trans h.wins
  mem := g.mem.trans h.mem
  fly := g.fly.trans h.fly
  blocks := g.blocks.trans h.blocks
  dev := g.dev.trans h.dev
theorem foldl_mem {α : Type} {f : State → α → State} {l : List α} (h : ∀ s, ∀ a ∈ l, ScratchOnly s (f s a) core) (s : State) :
    ScratchOnly s (l.foldl f s) core := by
  induction l generalizing s with
  | nil => exact .refl s core
  | cons a t ih => exact (h s a (List.mem_cons_self ..)).trans (ih (fun s b hb => h s b (List.mem_cons_of_mem _ hb)) _)
theorem foldl {α : Type} {f : State → α → State} (h : ∀ s a, ScratchOnly s (f s a) core) (l : List α) (s : State) :
    ScratchOnly s (l.foldl f s) core := foldl_mem (fun s a _ => h s a) s
/-- A change of a core beside its groups and its windows. -/
theorem modCore (s : State) (core : Nat) {f : Core → Core}
    (h : ∀ k, (f k).groups = k.groups ∧ (f k).scratch.wins = k.scratch.wins := by exact fun _ => ⟨rfl, rfl⟩) :
    ScratchOnly s (s.modCore core f) core where
  groups c k := by
    obtain rfl | hc := eq_or_ne c core
    · simp [State.group, h]
    · simp [State.group, State.core_modCore_ne _ _ hc]
  cores c hc := State.core_modCore_ne _ _ hc
  wins := by simp [h]
  mem := rfl
  fly := rfl
  blocks := rfl
  dev := rfl
theorem bump (s : State) (core n : Nat) (x : Ctr) : ScratchOnly s (s.bump core x n) core := by
  unfold State.bump; split
  · exact .refl ..
  · exact .modCore ..
theorem raisePts (s : State) (core ctx p : Nat) : ScratchOnly s (s.raisePts core ctx p) core := by
  unfold State.raisePts; split
  · exact .modCore ..
  · exact .refl ..
theorem putScr (s : State) (core off : Nat) (bs : List Byte) : ScratchOnly s (s.putScr core off bs) core := .modCore ..
theorem setScrPoison (s : State) (core off : Nat) (b : Bool) : ScratchOnly s (s.setScrPoison core off b) core := .modCore ..
theorem setWord (s : State) (core off : Nat) (w : MWord) : ScratchOnly s (s.setWord core off w) core := .modCore ..
theorem zeroWord (s : State) (core off : Nat) : ScratchOnly s (s.zeroWord core off) core :=
  ((putScr ..).trans (setScrPoison ..)).trans (setWord ..)
theorem dropWord (s : State) (core w : Nat) : ScratchOnly s (s.dropWord core w) core := by
  unfold State.dropWord
  split
  · split
    · exact (ScratchOnly.modCore ..).trans (.bump ..)
    · exact .refl ..
  · exact .refl ..

theorem mapAt (h : ScratchOnly s t core) (off : Nat) : t.mapAt core off = s.mapAt core off := State.mapAt_congr h.wins off
end ScratchOnly

/-! ### Scratch that no entry maps -/

/-- A list of runs of bytes, each put at its place, one after another. -/
def putAll (b : Bytes) (ws : List (Nat × List Byte)) : Bytes := ws.foldl (fun b w => Bytes.write b w.1 w.2) b
/-- A run holds an address. -/
def RunAt (w : Nat × List Byte) (a : Nat) : Prop := w.1 ≤ a ∧ a < w.1 + w.2.length

theorem at_putAll_outside {ws : List (Nat × List Byte)} {a : Nat} (out : ∀ w ∈ ws, ¬ RunAt w a) (b : Bytes) :
    Bytes.at_ (putAll b ws) a = Bytes.at_ b a := by
  induction ws generalizing b with
  | nil => rfl
  | cons w t ih =>
    have first : ¬ RunAt w a := out w (List.mem_cons_self ..)
    exact (ih (fun v hv => out v (List.mem_cons_of_mem _ hv)) _).trans ((Bytes.at_write ..).trans (if_neg first))
/-- An address holds what the last run over it has put there. -/
theorem at_putAll_last {pre post : List (Nat × List Byte)} {w : Nat × List Byte} {a : Nat} (inside : RunAt w a)
    (last : ∀ v ∈ post, ¬ RunAt v a) (b : Bytes) : Bytes.at_ (putAll b (pre ++ w :: post)) a = w.2.getD (a - w.1) 0 := by
  have split : putAll b (pre ++ w :: post) = putAll (Bytes.write (putAll b pre) w.1 w.2) post := by simp [putAll]
  rw [split, at_putAll_outside last, Bytes.at_write]
  exact if_pos inside

theorem pairwise_lanesOf (m : Mask) : (lanesOf m).Pairwise (· < ·) := List.pairwise_lt_range.filter _
theorem lanesOf_ne_nil {m : Mask} (some : m ≠ 0) : lanesOf m ≠ [] := by
  obtain ⟨l, hl⟩ := Mask.exists_has some
  exact List.ne_nil_of_mem ((mem_lanesOf m l).2 hl)
/-- The runs of the lanes of a mask, ascending: where two lie over each other, the higher lane's stands. -/
theorem at_putAll_lane {m : Mask} {run : Nat → Nat × List Byte} {l a : Nat} (hl : Mask.has m l = true) (inside : RunAt (run l) a)
    (highest : ∀ k, l < k → Mask.has m k = true → ¬ RunAt (run k) a) (b : Bytes) :
    Bytes.at_ (putAll b ((lanesOf m).map run)) a = (run l).2.getD (a - (run l).1) 0 := by
  obtain ⟨pre, post, split⟩ := List.append_of_mem ((mem_lanesOf m l).2 hl)
  have order := pairwise_lanesOf m
  rw [split] at order
  have above : ∀ k ∈ post, l < k := (List.pairwise_cons.1 (List.pairwise_append.1 order).2.1).1
  rw [split, List.map_append, List.map_cons]
  refine at_putAll_last (pre := pre.map run) (post := post.map run) inside (fun v hv => ?_) b
  obtain ⟨k, hk, rfl⟩ := List.mem_map.1 hv
  exact highest k (above k hk) ((mem_lanesOf m k).1 (by rw [split]; simp [hk]))

/-- Only runs of bytes have been written in a core's scratch: no word has changed its state. -/
structure ScratchWrites (s t : State) (core : Nat) (ws : List (Nat × List Byte)) : Prop extends ScratchOnly s t core where
  bytes : (t.core core).scratch.bytes = putAll (s.core core).scratch.bytes ws
  poison : (t.core core).scratch.poison = (s.core core).scratch.poison
  words : (t.core core).scratch.words = (s.core core).scratch.words

namespace ScratchWrites
variable {s t u : State} {core : Nat} {ws vs : List (Nat × List Byte)}

theorem refl (s : State) (core : Nat) : ScratchWrites s s core [] := ⟨.refl s core, rfl, rfl, rfl⟩
theorem trans (h : ScratchWrites s t core ws) (g : ScratchWrites t u core vs) : ScratchWrites s u core (ws ++ vs) where
  toScratchOnly := h.toScratchOnly.trans g.toScratchOnly
  bytes := by rw [g.bytes, h.bytes, putAll, putAll, putAll, List.foldl_append]
  poison := g.poison.trans h.poison
  words := g.words.trans h.words
theorem foldl {α : Type} {f : State → α → State} {l : List α} (h : ∀ s, ∀ a ∈ l, ScratchWrites s (f s a) core []) (s : State) :
    ScratchWrites s (l.foldl f s) core [] := by
  induction l generalizing s with
  | nil => exact .refl s core
  | cons a t ih =>
    exact (h s a (List.mem_cons_self ..)).trans (ih (fun s b hb => h s b (List.mem_cons_of_mem _ hb)) _)
/-- A change of a core beside its groups, and in its scratch of halo marks and times alone. -/
theorem modCore (s : State) (core : Nat) {f : Core → Core}
    (h : ∀ k, (f k).groups = k.groups ∧ { (f k).scratch with halo := [], times := [] } = { k.scratch with halo := [], times := [] } := by
      exact fun _ => ⟨rfl, rfl⟩) : ScratchWrites s (s.modCore core f) core [] := by
  have wins (k : Core) : (f k).scratch.wins = k.scratch.wins := by
    have same := congrArg Scratch.wins (h k).2
    exact same
  have bytes := congrArg Scratch.bytes (h (s.core core)).2
  have poison := congrArg Scratch.poison (h (s.core core)).2
  have words := congrArg Scratch.words (h (s.core core)).2
  refine ⟨.modCore s core fun k => ⟨(h k).1, wins k⟩, ?_, ?_, ?_⟩ <;> rw [State.core_modCore_same]
  · exact bytes
  · exact poison
  · exact words
theorem bump (s : State) (core n : Nat) (x : Ctr) : ScratchWrites s (s.bump core x n) core [] := by
  unfold State.bump; split
  · exact .refl ..
  · exact .modCore ..
theorem raisePts (s : State) (core ctx p : Nat) : ScratchWrites s (s.raisePts core ctx p) core [] := by
  unfold State.raisePts; split
  · exact .modCore ..
  · exact .refl ..
theorem markHalo (s : State) (core off n : Nat) : ScratchWrites s (s.markHalo core off n) core [] := .modCore ..
theorem scrTimes (s : State) (who : Owner) (core : Nat) (l : List LaneAcc) : ScratchWrites s (s.scrTimes who core l) core [] :=
  foldl (fun s _ _ => .modCore s core) s
end ScratchWrites

/-- No entry maps a word of a core's scratch, and no word is poisoned. -/
structure PlainScratch (s : State) (core : Nat) : Prop where
  unmapped : ∀ off, s.mapAt core off = none
  clean : (s.core core).scratch.poison = []

theorem PlainScratch.of_wins {s : State} {core : Nat} (maps : ∀ p ∈ (s.core core).scratch.wins, p.2.maps = [])
    (clean : (s.core core).scratch.poison = []) : PlainScratch s core where
  unmapped off := by
    unfold State.mapAt
    split
    · rfl
    · next w found => rw [maps _ (List.mem_of_find?_eq_some found)]; rfl
  clean := clean

namespace PlainScratch
variable {s t : State} {core : Nat}

theorem of_writes {ws : List (Nat × List Byte)} (h : PlainScratch s core) (g : ScratchWrites s t core ws) : PlainScratch t core where
  unmapped off := (g.mapAt off).trans (h.unmapped off)
  clean := g.poison.trans h.clean
theorem validWord (h : PlainScratch s core) (off : Nat) : s.validWord core off = true := by simp [State.validWord, h.unmapped]
theorem absentWord (h : PlainScratch s core) (off : Nat) : s.absentWord core off = false := by simp [State.absentWord, h.unmapped]
theorem validRange (h : PlainScratch s core) (off n : Nat) : s.validRange core off n = true :=
  List.all_eq_true.2 fun o _ => h.validWord o
theorem newFills (h : PlainScratch s core) (off n : Nat) : s.newFills core off n = [] := by
  simp [State.newFills, h.absentWord]
theorem fillsFull (h : PlainScratch s core) (z : Nat) (l : List LaneAcc) : s.fillsFull core z l = false := by
  have none : (l.flatMap fun k => s.newFills core k.off z) = [] := List.flatMap_eq_nil_iff.2 fun k _ => h.newFills k.off z
  simp [State.fillsFull, none]
theorem touchRange (h : PlainScratch s core) (why : Option (Nat × Nat × Pc)) (known : List (Nat × DWord)) (off n : Nat) :
    s.touchRange why known core off n = s := foldl_eq_self fun o _ => by simp [State.touchWord, h.absentWord]
/-- What is read has no poisoned word. -/
theorem value (h : PlainScratch s core) (off z : Nat) : (s.core core).scratch.value off z = (Claims.scrNum s core off z, false) := by
  simp [Scratch.value, h.clean, Claims.scrNum, Bytes.read]

theorem storeWord (h : PlainScratch s core) (off lo hi : Nat) : ScratchWrites s (s.storeWord core off lo hi) core [] := by
  have put : ScratchWrites s (s.setScrPoison core off false) core [] :=
    ⟨.setScrPoison .., by simp [putAll], by simp [h.clean, mput, mdel], by simp⟩
  have unmapped : (s.setScrPoison core off false).mapAt core off = none := (put.mapAt off).trans (h.unmapped off)
  unfold State.storeWord
  by_cases whole : lo ≤ off ∧ off + 4 ≤ hi
  · simp [whole, unmapped, put]
  · simp [whole, h.validWord, h.unmapped, ScratchWrites.refl]
/-- A store writes its bytes and nothing else. -/
theorem storeScr (h : PlainScratch s core) (off : Nat) (bs : List Byte) : ScratchWrites s (s.storeScr core off bs) core [(off, bs)] := by
  have words (ls : List Nat) (u : State) (hu : PlainScratch u core) :
      ScratchWrites u (ls.foldl (fun s o => s.storeWord core o off (off + bs.length)) u) core [] := by
    induction ls generalizing u with
    | nil => exact .refl u core
    | cons o t ih => exact (hu.storeWord o off _).trans (ih _ (hu.of_writes (hu.storeWord ..)))
  have put (u : State) : ScratchWrites u (u.putScr core off bs) core [(off, bs)] :=
    ⟨.putScr .., by simp [putAll], by simp, by simp⟩
  exact ((words _ s h).trans (put _)).trans (.markHalo ..)
end PlainScratch

end Sys2Proof.Machine
end

section
/-! SLD, SST and SATOM of plain scratch, at the own core and at another one (R171 to R173, R193 to R196). -/
namespace Sys2Proof.Machine

/-! ### The checks -/

/-- The lanes' addresses pass the checks, and name places of core c that no entry maps. -/
def PlainPlaces (s : State) (x : Ex) (act : Mask) (z : Nat) (ea : Nat → Nat) (c : Nat) (off : Nat → Nat) : Prop :=
  ∀ l, Mask.has act l = true → s.scrAddr x.scr (ea l) z = .at_ c (off l) ∧ ea l % z = 0 ∧ s.mapAt c (off l) = none

theorem State.scrAddr_own {s : State} {x : Ex} {w : Window} {e z : Nat} (win : s.blockWin x.core x.gr.blk = some w)
    (field : e / 2 ^ 20 = 31) (fits : e % 2 ^ 20 + z ≤ w.len) : s.scrAddr x.scr e z = .at_ x.core (w.off + e % 2 ^ 20) := by
  have number : bits e 20 5 = 31 := by rw [bits, Nat.shiftRight_eq_div_pow, field]; rfl
  have offset : bits e 0 20 = e % 2 ^ 20 := by rw [bits, Nat.shiftRight_zero]
  have below : e / 2 ^ 25 = 0 := by omega
  have block : s.blockWin x.scr.core x.scr.blk = some w := win
  have inside : ¬ e % 2 ^ 20 + z > w.len := fits.not_gt
  simp only [State.scrAddr, number, offset, below, block, if_neg inside]
  rfl

theorem State.scrCheck_plain {s : State} {x : Ex} {z e c o : Nat} (write : Bool) (place : s.scrAddr x.scr e z = .at_ c o)
    (aligned : e % z = 0) (plain : s.mapAt c o = none) : s.scrCheck x z write e = (.ok c o, s) := by
  have unfilled : s.filled c o z = false := by simp [State.filled, plain]
  have backing : s.backing c o = .plain := by simp [State.backing, plain]
  simp [State.scrCheck, place, aligned, unfilled, State.backCheck, backing]

theorem PlainPlaces.scrChecks {s : State} {x : Ex} {act : Mask} {z : Nat} {ea : Nat → Nat} {c : Nat} {off : Nat → Nat}
    (h : PlainPlaces s x act z ea c off) (write : Bool) {ls : List Nat} (lanes : ∀ l ∈ ls, Mask.has act l = true) :
    s.scrChecks x z write (ls.map fun l => (l, ea l)) = (ls.map fun l => (l, .ok c (off l)), s) := by
  induction ls with
  | nil => rfl
  | cons l t ih =>
    obtain ⟨place, aligned, plain⟩ := h l (lanes l (List.mem_cons_self ..))
    rw [List.map_cons, State.scrChecks, State.scrCheck_plain write place aligned plain,
      ih fun k hk => lanes k (List.mem_cons_of_mem _ hk)]
    rfl
/-- The access goes on with its lanes' places. -/
theorem PlainPlaces.scrChecked {s : State} {x : Ex} {act : Mask} {z : Nat} {ea : Nat → Nat} {c : Nat} {off : Nat → Nat}
    (h : PlainPlaces s x act z ea c off) (write : Bool) (k : List (Nat × Nat × Nat) → State → Out) :
    let r := s.scrChecks x z write ((lanesOf act).map fun l => (l, ea l))
    scrChecked r.2 x write r.1 k = k ((lanesOf act).map fun l => (l, c, off l)) s := by
  have checked := h.scrChecks write fun l hl => (mem_lanesOf act l).1 hl
  have passed : ((lanesOf act).map fun l => (l, ScrChk.ok c (off l))).find? (fun p => p.2.cause != 0) = none :=
    List.find?_eq_none.2 fun p hp => by
      obtain ⟨l, -, rfl⟩ := List.mem_map.1 hp
      simp [ScrChk.cause]
  have held : (((lanesOf act).map fun l => (l, ScrChk.ok c (off l))).any fun p => p.2 == .hold) = false := by simp
  have here : (((lanesOf act).map fun l => (l, ScrChk.ok c (off l))).any fun p => p.2 == .away) = false := by simp
  rw [checked]
  simp only [Machine.scrChecked, passed, held, here]
  refine congrArg (k · s) ((List.filterMap_map ..).trans ?_)
  exact congrFun (List.filterMap_eq_map (f := fun l => (l, c, off l))) (lanesOf act)

/-! ### What one access does at a plain place -/

/-- The lanes' accesses with the values that they carry. -/
def lanePlaces (act : Mask) (off : Nat → Nat) (val : Nat → BitVec 128) : List LaneAcc :=
  (lanesOf act).map fun l => ⟨l, off l, val l, 0⟩

theorem placesOf_lanes (act : Mask) (c : Nat) (off : Nat → Nat) (val : Nat → BitVec 128) :
    placesOf ((lanesOf act).map fun l => (l, c, off l)) c val = lanePlaces act off val := by
  unfold placesOf lanePlaces
  rw [List.filter_eq_self.2 fun p hp => by obtain ⟨l, -, rfl⟩ := List.mem_map.1 hp; simp, List.map_map]
  rfl
theorem placesOf_elsewhere {act : Mask} {c d : Nat} (other : c ≠ d) (off : Nat → Nat) (val : Nat → BitVec 128) :
    placesOf ((lanesOf act).map fun l => (l, c, off l)) d val = [] := by
  unfold placesOf
  rw [List.filter_eq_nil_iff.2 fun p hp => by obtain ⟨l, -, rfl⟩ := List.mem_map.1 hp; simpa using other, List.map_nil]
theorem eraseDups_cores {act : Mask} (some : act ≠ 0) (c : Nat) (off : Nat → Nat) :
    (((lanesOf act).map fun l => (l, c, off l)).map fun p => p.2.1).eraseDups = [c] := by
  have repeated (n : Nat) : (List.replicate (n + 1) c).eraseDups = [c] := by
    rw [List.replicate_succ, List.eraseDups_cons, List.filter_eq_nil_iff.2 fun b hb => by simp [List.eq_of_mem_replicate hb]]
    rfl
  obtain ⟨n, hn⟩ := Nat.exists_eq_succ_of_ne_zero (List.length_pos_iff.2 (lanesOf_ne_nil some)).ne'
  have same : ((lanesOf act).map fun l => (l, c, off l)).map (fun p => p.2.1) = List.replicate (n + 1) c := by
    rw [← Nat.succ_eq_add_one, ← hn, ← List.map_const', List.map_map]; rfl
  rw [same]
  exact repeated n

theorem State.scrLanes_sld (s : State) (core z d : Nat) (sx : Bool) (ls : List LaneAcc) :
    s.scrLanes core (.sld z d sx) ls = (ls.map fun k => (k.lane, (s.core core).scratch.value k.off z), s) := by
  induction ls with
  | nil => rfl
  | cons k t ih => rw [State.scrLanes, List.map_cons]; simp [State.scrLane, ScrOp.size, ih]

theorem State.scrLanes_sst {s : State} {core : Nat} (plain : PlainScratch s core) (z : Nat) (ls : List LaneAcc) :
    ScratchWrites s (s.scrLanes core (.sst z) ls).2 core (ls.map fun k => (k.off, leBytes z k.val.toNat)) := by
  induction ls generalizing s with
  | nil => exact .refl s core
  | cons k t ih =>
    have first := plain.storeScr k.off (leBytes z k.val.toNat)
    exact first.trans (ih (plain.of_writes first))

@[simp] theorem length_leBytes (n x : Nat) : (leBytes n x).length = n := by
  induction n generalizing x with
  | zero => rfl
  | succ n ih => rw [leBytes, List.length_cons, ih]
theorem getD_leBytes {n i : Nat} (inside : i < n) (x : Nat) : (leBytes n x).getD i 0 = BitVec.ofNat 8 (x / 256 ^ i) := by
  induction n generalizing x i with
  | zero => omega
  | succ n ih =>
    cases i with
    | zero => simp [leBytes]
    | succ i => rw [leBytes, List.getD_cons_succ, ih (by omega), Nat.div_div_eq_div_mul, ← Nat.pow_succ']
theorem leNat_leBytes (n x : Nat) : leNat (leBytes n x) = x % 256 ^ n := by
  induction n generalizing x with
  | zero => simp [leBytes, leNat, Nat.mod_one]
  | succ n ih =>
    have power : 256 ^ (n + 1) = 256 * 256 ^ n := Nat.pow_succ'
    rw [leBytes, leNat, ih, BitVec.toNat_ofNat, power]
    exact (Nat.mod_mul ..).symm
theorem leNat_lt (bs : List Byte) : leNat bs < 256 ^ bs.length := by
  induction bs with
  | nil => simp [leNat]
  | cons b t ih =>
    have byte : b.toNat < 256 := b.isLt
    rw [leNat, List.length_cons, Nat.pow_succ']
    omega
theorem leBytes_leNat (bs : List Byte) : leBytes bs.length (leNat bs) = bs := by
  induction bs with
  | nil => rfl
  | cons b t ih =>
    have byte : b.toNat < 256 := b.isLt
    have low : BitVec.ofNat 8 (b.toNat + 256 * leNat t) = b := BitVec.eq_of_toNat_eq (by rw [BitVec.toNat_ofNat]; omega)
    have high : (b.toNat + 256 * leNat t) / 256 = leNat t := by omega
    rw [leNat, List.length_cons, leBytes, low, high, ih]

/-- A run of bytes that was written reads back as its number. -/
theorem leNat_read_of_bytes {b : Bytes} {a : Nat} {bs : List Byte} (h : ∀ j, j < bs.length → Bytes.at_ b (a + j) = bs.getD j 0) :
    leNat (Bytes.read b a bs.length) = leNat bs := by
  refine congrArg leNat (List.ext_getElem (by simp [Bytes.read]) fun j _ hj => ?_)
  simp only [Bytes.read, List.getElem_map, List.getElem_range, h j hj]
  exact List.getD_eq_getElem ..

theorem scrNum_congr {s t : State} {core off n : Nat}
    (h : ∀ j, j < n → Bytes.at_ (t.core core).scratch.bytes (off + j) = Bytes.at_ (s.core core).scratch.bytes (off + j)) :
    Claims.scrNum t core off n = Claims.scrNum s core off n :=
  congrArg leNat (List.map_congr_left fun j hj => h j (List.mem_range.1 hj))

/-- Two accesses of z bytes lie apart. -/
def Apart (z : Nat) (a b : LaneAcc) : Prop := a.off + z ≤ b.off ∨ b.off + z ≤ a.off
/-- The run of bytes that an atomic operation stores, from the values of a state. -/
def atomRun (s : State) (core op z : Nat) (k : LaneAcc) : Nat × List Byte :=
  (k.off, leBytes z (atomNew op z (Claims.scrNum s core k.off z) (k.b z) (k.c z)))

/-- Atomic operations on places that lie apart: each returns the old value of its place and stores the new one. -/
theorem State.scrLanes_satom {s : State} {core : Nat} (plain : PlainScratch s core) (op z d order scope : Nat) {ls : List LaneAcc}
    (apart : ls.Pairwise (Apart z)) :
    (s.scrLanes core (.satom op z d order scope) ls).1 = ls.map (fun k => (k.lane, Claims.scrNum s core k.off z, false)) ∧
    ScratchWrites s (s.scrLanes core (.satom op z d order scope) ls).2 core (ls.map (atomRun s core op z)) := by
  induction ls generalizing s with
  | nil => exact ⟨rfl, .refl s core⟩
  | cons k t ih =>
    obtain ⟨away, apart⟩ := List.pairwise_cons.1 apart
    have step : s.scrLane core (.satom op z d order scope) k =
        ((Claims.scrNum s core k.off z, false), s.storeScr core k.off (atomRun s core op z k).2) := by
      simp [State.scrLane, ScrOp.size, plain.value, atomRun]
    have first := plain.storeScr k.off (atomRun s core op z k).2
    have kept : ∀ j ∈ t, Claims.scrNum (s.storeScr core k.off (atomRun s core op z k).2) core j.off z =
        Claims.scrNum s core j.off z := fun j hj => scrNum_congr fun i hi => by
      rw [first.bytes]
      refine at_putAll_outside (fun w hw inside => ?_) _
      rw [List.mem_singleton.1 hw] at inside
      obtain ⟨lo, hi'⟩ := inside
      have far := away j hj
      simp only [atomRun, length_leBytes, Apart] at lo hi' far
      omega
    obtain ⟨values, rest⟩ := ih (plain.of_writes first) apart
    rw [State.scrLanes, step]
    refine ⟨?_, ?_⟩
    · simp only [values, List.map_cons]
      exact congrArg _ (List.map_congr_left fun j hj => by rw [kept j hj])
    · have runs : t.map (atomRun (s.storeScr core k.off (atomRun s core op z k).2) core op z) = t.map (atomRun s core op z) :=
        List.map_congr_left fun j hj => by rw [atomRun, kept j hj, atomRun]
      exact first.trans (runs ▸ rest)

/-! ### The order of an access, and the end of the instruction -/

/-- An acquire finds no mapped word to fetch anew where scratch has none. -/
theorem State.acquireWhere_of_none {s : State} {core : Nat} (none : (s.core core).scratch.words = []) (blk : Nat) (f : Nat → Bool) :
    s.acquireWhere core blk f = s := by
  unfold State.acquireWhere
  split
  · rfl
  · simp [none]
/-- The order of an access leaves a core's bytes and words as they are, where none of its words is mapped. -/
theorem State.satomOrder_writes {s : State} {core : Nat} {who : Owner} (op : ScrOp) (ls : List LaneAcc) (fenced : Bool)
    (own : (∃ a z d o sc, op = .satom a z d o sc) → who.core = core ∧ (s.core core).scratch.words = []) :
    ScratchWrites s (s.satomOrder who core op ls fenced) core [] := by
  have timed (b : Prop) [Decidable b] : ScratchWrites s (if b then s.scrTimes who core ls else s) core [] := by
    split
    · exact .scrTimes ..
    · exact .refl ..
  cases op with
  | sld => exact .refl s core
  | sst => exact timed (fenced = true)
  | satom a z d o sc =>
    obtain ⟨rfl, none⟩ := own ⟨a, z, d, o, sc, rfl⟩
    have released := timed (o / 2 = 1 ∨ (fenced = true ∧ a ≠ 11))
    unfold State.satomOrder
    dsimp only
    generalize (if o / 2 = 1 ∨ (fenced = true ∧ a ≠ 11) then s.scrTimes who who.core ls else s) = u at released ⊢
    have raised := released.trans (ScratchWrites.foldl (core := who.core) (l := ls)
      (f := fun s k => s.raisePts who.core who.ctx (mgetD (s.core who.core).scratch.times (k.off / 64) 0)) (fun _ _ _ => .raisePts ..) u)
    split_ifs
    · rw [State.acquireWhere_of_none (raised.words.trans none)]; exact raised
    · exact raised
    · exact released

end Sys2Proof.Machine
end

section
/-! SLD, SST and SATOM of plain scratch: the groups behind them (R60, R171 to R173, R193 to R196). -/
namespace Sys2Proof.Claims
open Sys2Proof.Machine

theorem IdleGoesOn.of_done {i : Instr} {gd : Guard} {n : Nat}
    (run : ∀ s x, s.running = some x → x.active gd = 0 → exec i s = .next (s.done x n id)) : IdleGoesOn i gd n :=
  fun s x running none => ⟨_, _, run s x running none, OnlyGroup.of_done n id running, Advances.of_advance x.entry n rfl, rfl⟩

/-- A group that goes on with a lookahead window, or without one. -/
theorem MovedOn.of_window {x : Ex} {h : Group} (here : mget x.gr.splits x.entry = some x.sp) (splits : h.splits = x.gr.splits)
    (rest : { h with lanes := [], pend := [], splits := [] } = { x.gr with lanes := [], pend := [], splits := [] }) (iid la n : Nat) :
    MovedOn x ((h.window x.entry iid la).advance x.entry n) n := by
  unfold Group.window
  split_ifs
  · refine ⟨⟨(iid, la) :: x.sp.wins, ?_⟩, fun k other => ?_, rest⟩
    · simp [Group.advance, Group.modSplit, splits, here, moved]
    · simp [Group.advance, Group.modSplit, splits, mget_mmod, other]
  · refine ⟨⟨x.sp.wins, ?_⟩, fun k other => ?_, rest⟩
    · simp [Group.advance, Group.modSplit, splits, here, moved]
    · simp [Group.advance, Group.modSplit, splits, mget_mmod, other]
theorem lanes_window (h : Group) (e iid la n : Nat) : ((h.window e iid la).advance e n).lanes = h.lanes := by
  unfold Group.window; split <;> rfl
theorem pend_window (h : Group) (e iid la n : Nat) : ((h.window e iid la).advance e n).pend = h.pend := by
  unfold Group.window; split <;> rfl

/-! ### What the instructions run, once their lanes have passed the checks -/

section
variable {s : State} {x : Ex} (running : s.running = some x)
include running

theorem exec_sld_of_none (o : LmO) (none : x.active o.g = 0) : exec (.sld o) s = .next (s.done x (offLen o.off) id) := by
  show execSld o s = _
  rw [execSld, onSplit_running _ running]
  exact if_pos none
theorem exec_sst_of_none (o : SstO) (none : x.active o.g = 0) : exec (.sst o) s = .next (s.done x (offLen o.off) id) := by
  show execSst o s = _
  rw [execSst, onSplit_running _ running]
  exact if_pos none
theorem exec_satom_of_none (o : LaO) (none : x.active o.g = 0) : exec (.satom o) s = .next (s.done x 8 id) := by
  show execSatom o s = _
  rw [execSatom, onSplit_running _ running]
  exact if_pos none

variable {c : Nat} {off : Nat → Nat}

theorem exec_sld_of_places {o : LmO} (some : x.active o.g ≠ 0)
    (places : PlainPlaces s x (x.active o.g) (2 ^ o.z.toNat) (fun l => scrEa (x.gr.lane l) l o.a o.off o.s (2 ^ o.z.toNat)) c off) :
    exec (.sld o) s = scrIssue s x (offLen o.off) o.l.toNat (.sld (2 ^ o.z.toNat) o.d.toNat (o.k == 1))
      ((lanesOf (x.active o.g)).map fun l => (l, c, off l)) fun _ => 0 := by
  show execSld o s = _
  rw [execSld, onSplit_running _ running]
  exact (if_neg some).trans (places.scrChecked false _)
theorem exec_sst_of_places {o : SstO} (some : x.active o.g ≠ 0)
    (places : PlainPlaces s x (x.active o.g) (2 ^ o.z.toNat) (fun l => scrEa (x.gr.lane l) l o.a o.off o.s (2 ^ o.z.toNat)) c off) :
    exec (.sst o) s = scrIssue s x (offLen o.off) 0 (.sst (2 ^ o.z.toNat)) ((lanesOf (x.active o.g)).map fun l => (l, c, off l))
      fun l => BitVec.ofNat 128 (leNat ((x.gr.lane l).storeBytes o.d.toNat (2 ^ o.z.toNat))) := by
  show execSst o s = _
  rw [execSst, onSplit_running _ running]
  exact (if_neg some).trans (places.scrChecked true _)
omit running in
/-- A release that has nothing to wait for raises at most the floor of the context. -/
theorem Idle.ordered (idle : Idle s x) (order scope : Nat) : ∃ m, ∀ k, Machine.ordered s x order scope k = k { s with ctxs := m } := by
  by_cases release : order / 2 = 1
  · refine ⟨if 5 ≤ scope then (s.raiseFloor x.gr.ctx (s.pts x.core x.gr.ctx)).ctxs else s.ctxs, fun k => ?_⟩
    rw [Machine.ordered, if_pos release, Machine.released, idle.release]
    split_ifs <;> rfl
  · exact ⟨s.ctxs, fun k => if_neg release⟩
theorem exec_satom_of_places {o : LaO} (idle : Idle s x) (some : x.active o.g ≠ 0)
    (places : PlainPlaces s x (x.active o.g) (2 ^ o.size.toNat) (fun l => ((x.gr.lane l).v o.a.toNat + o.off.signExtend 32).toNat) c off) :
    ∃ m, exec (.satom o) s = scrIssue { s with ctxs := m } x 8 o.l.toNat
      (.satom o.op.toNat (2 ^ o.size.toNat) o.d.toNat o.order.toNat o.scope.toNat)
      ((lanesOf (x.active o.g)).map fun l => (l, c, off l)) fun l => (x.gr.lane l).atomVal o.b.toNat (2 ^ o.size.toNat) o.op.toNat := by
  obtain ⟨m, ordered⟩ := idle.ordered o.order.toNat o.scope.toNat
  refine ⟨m, ?_⟩
  show execSatom o s = _
  rw [execSatom, onSplit_running _ running]
  refine (if_neg some).trans ((places.scrChecked true _).trans ?_)
  simp only [idle.syncBusy, Bool.false_eq_true, if_false]
  exact ordered _
end

/-! ### What is issued -/

/-- The state of an access at the own core, once its lanes are served: their values, and the machine. -/
def servedHere (s : State) (x : Ex) (op : ScrOp) (ls : List LaneAcc) : List (Nat × (Nat × Bool)) × State :=
  let r := (s.fresh.bump x.core .sbankc (bankLoss op.size ls)).scrLanes x.core op ls
  (r.1, r.2.satomOrder (x.owner s.nextId) x.core op ls x.gr.fenced)

theorem Idle.scrBusy {s : State} {x : Ex} (idle : Idle s x) (op : ScrOp) (core off : Nat) : s.scrBusy x op core off = false :=
  List.any_eq_false.2 fun t ht => by simp [idle.touches t ht]
theorem Idle.scrOlder {s : State} {x : Ex} (idle : Idle s x) (core off z : Nat) : s.scrOlder x core off z = false :=
  List.any_eq_false.2 fun t ht => by simp [idle.touches t ht]

/-- Nothing holds an access of the split whose words are all there. -/
theorem scrIssue_of_idle {s : State} {x : Ex} (idle : Idle s x) (n la : Nat) (op : ScrOp) (ps : List (Nat × Nat × Nat))
    (val : Nat → BitVec 128) (room : s.fillsFull x.core op.size (placesOf ps x.core val) = false) :
    scrIssue s x n la op ps val = .next (((ps.map fun p => p.2.1).eraseDups.foldl
      (fun t c => t.scrSend x s.nextId op c (placesOf ps c val)) s.fresh).done x n fun g => g.window x.entry s.nextId la) := by
  have clear : (ps.any fun p => s.scrBusy x op p.2.1 p.2.2) = false := List.any_eq_false.2 fun p _ => by simp [idle.scrBusy]
  simp only [scrIssue, idle.acqBusy, clear, room, Bool.and_false, Bool.or_false, Bool.false_eq_true, if_false]

theorem scrSend_here {s : State} {x : Ex} (idle : Idle s x) (plain : PlainScratch s x.core) (op : ScrOp) (ls : List LaneAcc) :
    s.fresh.scrSend x s.nextId op x.core ls =
      (servedHere s x op ls).2.modGroup x.core x.slot fun g => g.scrNow op (servedHere s x op ls).1 := by
  have valid : (ls.all fun k => s.fresh.validRange x.core k.off op.size) = true :=
    List.all_eq_true.2 fun k _ => plain.validRange k.off op.size
  have first : (ls.any fun k => s.fresh.scrOlder x x.core k.off op.size) = false :=
    List.any_eq_false.2 fun k _ => by
      have older : s.fresh.scrOlder x x.core k.off op.size = false := idle.scrOlder x.core k.off op.size
      simp [older]
  simp only [State.scrSend, valid, first, ne_eq, not_true_eq_false, if_false, Bool.not_false, Bool.and_true, Bool.or_true, if_true]
  rfl

theorem scrIssue_here {s : State} {x : Ex} (idle : Idle s x) (plain : PlainScratch s x.core) {act : Mask} (some : act ≠ 0) (n la : Nat)
    (op : ScrOp) (off : Nat → Nat) (val : Nat → BitVec 128) :
    let r := servedHere s x op (lanePlaces act off val)
    scrIssue s x n la op ((lanesOf act).map fun l => (l, x.core, off l)) val =
      .next ((r.2.modGroup x.core x.slot fun g => g.scrNow op r.1).done x n fun g => g.window x.entry s.nextId la) := by
  rw [scrIssue_of_idle idle n la op _ val (plain.fillsFull ..), eraseDups_cores some, List.foldl_cons, List.foldl_nil, placesOf_lanes,
    scrSend_here idle plain]

/-- The group whose registers an access will write notes them. -/
def noted (g : Group) (op : ScrOp) (iid : Nat) (ls : List LaneAcc) : Group :=
  match op.dest with
  | none => g
  | some d => { g with pend := g.pend ++ ls.flatMap fun k =>
      (List.range (max 1 (op.size / 4))).map fun i => (⟨iid, some k.lane, .v (d + i)⟩ : Pend) }
/-- The access on its way to another core. -/
def touchTo (x : Ex) (c iid : Nat) (op : ScrOp) (ls : List LaneAcc) (known : List (Nat × DWord)) : Touch where
  who := x.owner iid
  op := op
  at_ := c
  lanes := ls
  remote := true
  mask := x.sp.mask
  known := known
  fenced := x.gr.fenced
/-- An access that goes to another core is in flight, and its group has noted the registers. -/
theorem scrSend_there {s : State} {x : Ex} {c : Nat} (other : c ≠ x.core) (op : ScrOp) (ls : List LaneAcc) :
    ∃ known, let t := s.fresh.scrSend x s.nextId op c ls
      t.fly = { s.fly with touches := mset s.fly.touches (s.nextId + 1) (touchTo x c s.nextId op ls known) } ∧
      t.mem = s.mem ∧ (∀ k, (t.core k).scratch = (s.core k).scratch) ∧
      ∀ k n, t.group k n = if k = x.core ∧ n = x.slot then (s.group k n).map fun g => noted g op s.nextId ls else s.group k n := by
  refine ⟨(ls.flatMap fun k => (wordOffs k.off op.size).flatMap fun o => s.fresh.leavesOf 3 c o).eraseDups, ?_⟩
  unfold State.scrSend
  simp only [ne_eq, other, not_false_eq_true, if_true]
  cases dest : op.dest with
  | none =>
    refine ⟨rfl, rfl, fun _ => rfl, fun k n => ?_⟩
    simp only [noted, dest]
    split <;> simp <;> rfl
  | some d =>
    refine ⟨rfl, rfl, fun k => ?_, fun k n => ?_⟩
    · exact State.scratch_modGroup ..
    · rw [State.group_modGroup]
      split
      · next h => obtain ⟨rfl, rfl⟩ := h; simp only [noted, dest]; rfl
      · rfl

theorem scrIssue_there {s : State} {x : Ex} (idle : Idle s x) (here : s.group x.core x.slot = some x.gr)
    (split : mget x.gr.splits x.entry = some x.sp) {act : Mask} (some : act ≠ 0) {c : Nat} (other : c ≠ x.core) (n la : Nat)
    (op : ScrOp) (off : Nat → Nat) (val : Nat → BitVec 128) :
    ∃ t g, scrIssue s x n la op ((lanesOf act).map fun l => (l, c, off l)) val = .next t ∧
      t.group x.core x.slot = .some g ∧ OtherGroups s t x ∧ MovedOn x g n ∧ g.lanes = x.gr.lanes ∧ t.mem = s.mem ∧
      (∀ k, (t.core k).scratch = (s.core k).scratch) ∧
      (∃ id u, mget t.fly.touches id = .some u ∧ u.at_ = c ∧ u.op = op ∧ u.remote = true ∧ u.who.uid = x.gr.uid ∧
        u.who.iid = s.nextId ∧ u.lanes.map (fun k => (k.lane, k.off)) = (lanesOf act).map fun l => (l, off l)) ∧
      ∀ d l j, op.dest = .some d → Mask.has act l = true → j < max 1 (op.size / 4) →
        (⟨s.nextId, .some l, .v (d + j)⟩ : Pend) ∈ g.pend := by
  obtain ⟨known, fly, mem, scratch, groups⟩ := scrSend_there (s := s) other op (lanePlaces act off val)
  generalize sent : s.fresh.scrSend x s.nextId op c (lanePlaces act off val) = t at fly mem scratch groups
  have splits : (noted x.gr op s.nextId (lanePlaces act off val)).splits = x.gr.splits := by unfold noted; split <;> rfl
  have lanes : (noted x.gr op s.nextId (lanePlaces act off val)).lanes = x.gr.lanes := by unfold noted; split <;> rfl
  have issued : scrIssue s x n la op ((lanesOf act).map fun l => (l, c, off l)) val =
      .next (t.done x n fun g => g.window x.entry s.nextId la) := by
    rw [scrIssue_of_idle idle n la op _ val (by rw [placesOf_elsewhere other]; rfl), eraseDups_cores some, List.foldl_cons,
      List.foldl_nil, placesOf_lanes, sent]
  refine ⟨_, ((noted x.gr op s.nextId (lanePlaces act off val)).window x.entry s.nextId la).advance x.entry n, issued, ?_, ?_, ?_, ?_,
    ?_, ?_, ?_, ?_⟩
  · rw [State.done, State.group_modGroup, if_pos ⟨rfl, rfl⟩, groups, if_pos ⟨rfl, rfl⟩, here]; rfl
  · exact fun k m elsewhere => (t.group_done_ne x n _ elsewhere).trans ((groups k m).trans (if_neg elsewhere))
  · exact MovedOn.of_window split splits (by unfold noted; split <;> rfl) s.nextId la n
  · exact (lanes_window ..).trans lanes
  · exact mem
  · exact fun k => (t.scratch_done x n _ k).trans (scratch k)
  · refine ⟨s.nextId + 1, _, by rw [State.done_fly, fly]; exact mget_mset_same .., rfl, rfl, rfl, rfl, rfl, ?_⟩
    exact List.map_map ..
  · intro d l j dest hl hj
    rw [pend_window, noted, dest]
    refine List.mem_append_right _ (List.mem_flatMap.2 ⟨⟨l, off l, val l, 0⟩, ?_, ?_⟩)
    · exact List.mem_map.2 ⟨l, (mem_lanesOf act l).2 hl, rfl⟩
    · exact List.mem_map.2 ⟨j, List.mem_range.2 hj, rfl⟩

end Sys2Proof.Claims
end

section
/-! SLD, SST and SATOM of plain scratch complete, or leave for another core (R60, R171 to R173, R193 to R196). -/
namespace Sys2Proof.Machine

/-! ### The new value of an atomic operation (R195) -/

theorem two_pow_bytes (z : Nat) : 256 ^ z = 2 ^ (8 * z) := by rw [Nat.pow_mul]
theorem scrNum_lt (s : State) (core off z : Nat) : Claims.scrNum s core off z < 2 ^ (8 * z) := by
  have below := leNat_lt (Bytes.read (s.core core).scratch.bytes off z)
  rwa [show (Bytes.read (s.core core).scratch.bytes off z).length = z by simp [Bytes.read], two_pow_bytes] at below
theorem sint_eq_toInt {z n : Nat} (pos : 0 < z) (fits : n < 2 ^ (8 * z)) : sint z n = (BitVec.ofNat (8 * z) n).toInt := by
  have same : (BitVec.ofNat (8 * z) n).toNat = n := by rw [BitVec.toNat_ofNat, Nat.mod_eq_of_lt fits]
  have top : (BitVec.ofNat (8 * z) n).msb = n.testBit (8 * z - 1) := by
    rw [BitVec.msb_eq_getLsbD_last, BitVec.getLsbD_ofNat, decide_eq_true (by omega), Bool.true_and]
  rw [sint, BitVec.toInt_eq_msb_cond, top, same]
  norm_cast
theorem atomNew_eq_updated {op z old b c d : Nat} (pos : 0 < z) (fits : old < 2 ^ (8 * z)) (fits' : b < 2 ^ (8 * z))
    (second : op = 9 → c = d) : atomNew op z old b c = Claims.updated op z old b d := by
  unfold atomNew Claims.updated
  simp only [sint_eq_toInt pos fits, sint_eq_toInt pos fits']
  split <;> simp_all

theorem toNat_pairOf (lo hi : Word) : (pairOf lo hi).toNat = lo.toNat + 2 ^ 32 * hi.toNat := by
  rw [pairOf, BitVec.toNat_append, Nat.shiftLeft_eq, Nat.mul_comm, ← Nat.two_pow_add_eq_or_of_lt lo.isLt, Nat.add_comm]
/-- Registers of a lane as one number, the first lowest. -/
def wordSum (ln : Lane) (b n : Nat) : Nat := (List.range n).foldl (fun a i => a + (ln.v (b + i)).toNat * 2 ^ (32 * i)) 0
theorem wordSum_succ (ln : Lane) (b n : Nat) : wordSum ln b (n + 1) = wordSum ln b n + (ln.v (b + n)).toNat * (2 ^ 32) ^ n := by
  rw [wordSum, List.range_succ, List.foldl_append, ← Nat.pow_mul]; rfl
theorem wordSum_one (ln : Lane) (b : Nat) : wordSum ln b 1 = (ln.v b).toNat := by
  rw [wordSum_succ, Nat.pow_zero, Nat.mul_one]; exact Nat.zero_add _
theorem wordSum_two (ln : Lane) (b : Nat) : wordSum ln b 2 = (ln.vPair b).toNat := by
  rw [wordSum_succ, wordSum_one, Nat.pow_one, Lane.vPair, toNat_pairOf, Nat.mul_comm]
theorem wordSum_four (ln : Lane) (b : Nat) : wordSum ln b 4 = (ln.vPair b).toNat + (2 ^ 32) ^ 2 * (ln.vPair (b + 2)).toNat := by
  rw [wordSum_succ, wordSum_succ, wordSum_two, Lane.vPair, toNat_pairOf, Lane.vPair, toNat_pairOf]
  generalize 2 ^ 32 = p
  ring
/-- The number that a lane's access carries: its first operand, and for cas the second one above it. -/
theorem Lane.atomVal_eq (ln : Lane) (b op : Nat) {z : Nat} (size : z = 4 ∨ z = 8) : ln.atomVal b z op =
    BitVec.ofNat 128 (Claims.operandOf ln b z + 2 ^ (8 * z) * if op = 9 then Claims.secondOf ln b z else 0) := by
  show BitVec.ofNat 128 (wordSum ln b (if op = 9 then 2 * (z / 4) else z / 4)) = _
  congr 1
  obtain rfl | rfl := size <;> by_cases cas : op = 9
  · rw [if_pos cas, if_pos cas]
    exact (wordSum_succ ln b 1).trans (by rw [wordSum_one, Nat.pow_one, Nat.mul_comm]; rfl)
  · rw [if_neg cas, if_neg cas]
    exact wordSum_one ln b
  · rw [if_pos cas, if_pos cas]
    exact (wordSum_four ln b).trans (by rw [← Nat.pow_mul]; rfl)
  · rw [if_neg cas, if_neg cas]
    exact wordSum_two ln b
theorem operands_lt (ln : Lane) (b : Nat) {z : Nat} (size : z = 4 ∨ z = 8) :
    Claims.operandOf ln b z < 2 ^ (8 * z) ∧ Claims.secondOf ln b z < 2 ^ (8 * z) := by
  obtain rfl | rfl := size
  · exact ⟨(ln.v b).isLt, (ln.v (b + 1)).isLt⟩
  · exact ⟨(ln.vPair b).isLt, (ln.vPair (b + 2)).isLt⟩
/-- The operands that the access gives back. -/
theorem atomVal_operands (ln : Lane) (l off b op : Nat) {z : Nat} (size : z = 4 ∨ z = 8) :
    let k : LaneAcc := ⟨l, off, ln.atomVal b z op, 0⟩
    k.b z = Claims.operandOf ln b z ∧ (op = 9 → k.c z = Claims.secondOf ln b z) := by
  obtain ⟨first, second⟩ := operands_lt ln b size
  have upper : (if op = 9 then Claims.secondOf ln b z else 0) < 2 ^ (8 * z) := by split <;> omega
  generalize high : (if op = 9 then Claims.secondOf ln b z else 0) = hi at upper
  have value : (ln.atomVal b z op).toNat = Claims.operandOf ln b z + 2 ^ (8 * z) * hi := by
    rw [Lane.atomVal_eq ln b op size, high, BitVec.toNat_ofNat]
    refine Nat.mod_eq_of_lt ?_
    calc Claims.operandOf ln b z + 2 ^ (8 * z) * hi < 2 ^ (8 * z) * 2 ^ (8 * z) := by
          exact (Nat.add_lt_add_right first _).trans_le
            (by rw [Nat.add_comm, ← Nat.mul_succ]; exact Nat.mul_le_mul_left _ upper)
      _ ≤ 2 ^ 128 := by rw [← Nat.pow_add]; exact Nat.pow_le_pow_right (by decide) (by omega)
  refine ⟨?_, fun cas => ?_⟩
  · show (ln.atomVal b z op).toNat % _ = _
    rw [value, Nat.add_mul_mod_self_left, Nat.mod_eq_of_lt first]
  · show (ln.atomVal b z op).toNat / _ % _ = _
    rw [value, Nat.add_mul_div_left _ _ (Nat.two_pow_pos _), Nat.div_eq_of_lt first, Nat.zero_add, Nat.mod_eq_of_lt upper, ← high,
      if_pos cas]

/-! ### What the lanes store and load -/

theorem length_storeBytes (ln : Lane) (d z : Nat) : (ln.storeBytes d z).length = z := length_leBytes ..
/-- The bytes of a lane's store, carried as one number. -/
theorem leBytes_of_storeBytes {z : Nat} (size : z ≤ 16) (ln : Lane) (d : Nat) :
    leBytes z (BitVec.ofNat 128 (leNat (ln.storeBytes d z))).toNat = ln.storeBytes d z := by
  have same := leBytes_leNat (ln.storeBytes d z)
  have fits : leNat (ln.storeBytes d z) < 2 ^ 128 := (leNat_lt _).trans_le (by
    rw [length_storeBytes, two_pow_bytes]; exact Nat.pow_le_pow_right (by decide) (by omega))
  rw [length_storeBytes] at same
  rw [BitVec.toNat_ofNat, Nat.mod_eq_of_lt fits, same]

theorem Group.scrNow_lanes (g : Group) (act : Mask) {op : ScrOp} {d : Nat} (dest : op.dest = some d) (v : Nat → Nat × Bool) :
    g.scrNow op ((lanesOf act).map fun l => (l, v l)) = g.modLanes act fun l ln => ln.load d op.size op.signs (v l) := by
  unfold Group.scrNow Group.modLanes
  rw [dest]
  exact List.foldl_map ..
/-- Each lane of the access takes its value, and no other lane changes. -/
theorem Group.lane_scrNow (g : Group) (act : Mask) {op : ScrOp} {d : Nat} (dest : op.dest = some d) (v : Nat → Nat × Bool) (l : Nat) :
    (g.scrNow op ((lanesOf act).map fun l => (l, v l))).lane l =
      if Mask.has act l = true then (g.lane l).load d op.size op.signs (v l) else g.lane l := by
  rw [Group.scrNow_lanes g act dest, Group.lane_modLanes]
theorem Group.rest_scrNow (g : Group) (op : ScrOp) (vs : List (Nat × (Nat × Bool))) :
    { g.scrNow op vs with lanes := [] } = { g with lanes := [] } := by
  unfold Group.scrNow
  split
  · rfl
  · induction vs generalizing g with
    | nil => rfl
    | cons v t ih => exact (ih _).trans rfl

/-- Places of aligned addresses lie apart where they differ. -/
theorem apart_of_aligned {z off e e' : Nat} (size : z = 4 ∨ z = 8) (aligned : e % z = 0) (aligned' : e' % z = 0)
    (ne : off + e % 2 ^ 20 ≠ off + e' % 2 ^ 20) :
    off + e % 2 ^ 20 + z ≤ off + e' % 2 ^ 20 ∨ off + e' % 2 ^ 20 + z ≤ off + e % 2 ^ 20 := by
  obtain rfl | rfl := size <;> omega
/-- A lane's run reads back where no other lane's run lies over it. -/
theorem leNat_putAll_lane {m : Mask} {run : Nat → Nat × List Byte} {l : Nat} (hl : Mask.has m l = true)
    (alone : ∀ k, Mask.has m k = true → k ≠ l → (run k).1 + (run k).2.length ≤ (run l).1 ∨ (run l).1 + (run l).2.length ≤ (run k).1)
    (b : Bytes) : leNat (Bytes.read (putAll b ((lanesOf m).map run)) (run l).1 (run l).2.length) = leNat (run l).2 := by
  refine leNat_read_of_bytes fun j hj => ?_
  rw [at_putAll_lane hl ⟨by omega, by omega⟩ (fun k above hk => ?_), Nat.add_sub_cancel_left]
  rintro ⟨lo, hi⟩
  have := alone k hk above.ne'
  omega

/-! ### Steps that leave scratch as it is -/

theorem ScratchWrites.opened (s : State) (x : Ex) (n : Nat) : ScratchWrites s (s.fresh.bump x.core .sbankc n) x.core [] :=
  have fresh : ScratchWrites s s.fresh x.core [] := ⟨⟨fun _ _ => rfl, fun _ _ => rfl, rfl, rfl, rfl, rfl, rfl⟩, rfl, rfl, rfl⟩
  fresh.trans (.bump s.fresh x.core n .sbankc)
theorem ScratchWrites.of_ctxs (s : State) (core : Nat) (m : Map Ctx) : ScratchWrites s { s with ctxs := m } core [] :=
  ⟨⟨fun _ _ => rfl, fun _ _ => rfl, rfl, rfl, rfl, rfl, rfl⟩, rfl, rfl, rfl⟩

end Sys2Proof.Machine

namespace Sys2Proof.Claims
open Sys2Proof.Machine

/-! ### An access at the own core -/

section
variable {s : State} {x : Ex}

theorem Idle.of_ctxs (idle : Idle s x) (m : Map Ctx) : Idle { s with ctxs := m } x :=
  ⟨idle.reqs, idle.touches, idle.tests, idle.pushes, idle.rows, idle.matrix, idle.words, idle.halo, idle.half, idle.earlier⟩

variable (plain : PlainScratch s x.core)
include plain

/-- SLD at the own core. -/
theorem servedHere_sld (z d : Nat) (sx : Bool) (ls : List LaneAcc) : servedHere s x (.sld z d sx) ls =
    (ls.map fun k => (k.lane, scrNum s x.core k.off z, false), s.fresh.bump x.core .sbankc (bankLoss z ls)) := by
  have here (off : Nat) : (s.fresh.core x.core).scratch.value off z = (scrNum s x.core off z, false) := plain.value off z
  simp only [servedHere, ScrOp.size, State.scrLanes_sld, State.scratch_bump, here, State.satomOrder]
/-- SST at the own core. -/
theorem servedHere_sst (z : Nat) (ls : List LaneAcc) :
    ScratchWrites s (servedHere s x (.sst z) ls).2 x.core (ls.map fun k => (k.off, leBytes z k.val.toNat)) := by
  have opened := ScratchWrites.opened s x (bankLoss z ls)
  have stored := opened.trans (State.scrLanes_sst (plain.of_writes opened) z ls)
  have ordered := stored.trans (State.satomOrder_writes (who := x.owner s.nextId) (.sst z) ls x.gr.fenced (by simp))
  rwa [List.append_nil] at ordered
/-- SATOM at the own core, of places that lie apart. -/
theorem servedHere_satom (idle : Idle s x) (op z d order scope : Nat) {ls : List LaneAcc} (apart : ls.Pairwise (Machine.Apart z)) :
    (servedHere s x (.satom op z d order scope) ls).1 = ls.map (fun k => (k.lane, scrNum s x.core k.off z, false)) ∧
    ScratchWrites s (servedHere s x (.satom op z d order scope) ls).2 x.core (ls.map (atomRun s x.core op z)) := by
  have opened := ScratchWrites.opened s x (bankLoss z ls)
  have same (off : Nat) : scrNum (s.fresh.bump x.core .sbankc (bankLoss z ls)) x.core off z = scrNum s x.core off z :=
    scrNum_congr fun _ _ => by rw [opened.bytes]; rfl
  obtain ⟨values, stores⟩ := State.scrLanes_satom (plain.of_writes opened) op z d order scope apart
  have runs : ls.map (atomRun (s.fresh.bump x.core .sbankc (bankLoss z ls)) x.core op z) = ls.map (atomRun s x.core op z) :=
    List.map_congr_left fun k _ => by rw [atomRun, same, atomRun]
  have stored := opened.trans (runs ▸ stores)
  refine ⟨values.trans (List.map_congr_left fun k _ => by rw [same]), ?_⟩
  have ordered := stored.trans (State.satomOrder_writes (who := x.owner s.nextId) (.satom op z d order scope) ls x.gr.fenced
    fun _ => ⟨rfl, stored.words.trans idle.words⟩)
  rwa [List.append_nil] at ordered
end

/-- The machine behind an access at the own core that has completed. -/
structure Completed (s t : State) (x : Ex) (g h : Group) (n : Nat) (ws : List (Nat × List Byte)) : Prop where
  group : t.group x.core x.slot = some g
  frame : InScratch s t x
  moves : MovedOn x g n
  lanes : g.lanes = h.lanes
  pend : g.pend = x.gr.pend
  bytes : (t.core x.core).scratch.bytes = putAll (s.core x.core).scratch.bytes ws
theorem Completed.lane {s t : State} {x : Ex} {g h : Group} {n : Nat} {ws : List (Nat × List Byte)} (c : Completed s t x g h n ws)
    (l : Nat) : g.lane l = h.lane l := by rw [Group.lane, c.lanes]; rfl

/-- An access at the own core that runs from a state which differs by ids, floors and the like alone. -/
theorem Completed.of_served {s s' : State} {x : Ex} (running : s.running = some x) (idle : Idle s' x) (plain : PlainScratch s' x.core)
    {act : Mask} (some : act ≠ 0) {i : Instr} {n la : Nat} {op : ScrOp} {off : Nat → Nat} {val : Nat → BitVec 128}
    (run : exec i s = scrIssue s' x n la op ((lanesOf act).map fun l => (l, x.core, off l)) val) {ws : List (Nat × List Byte)}
    (served : ScratchWrites s (servedHere s' x op (lanePlaces act off val)).2 x.core ws) :
    let r := servedHere s' x op (lanePlaces act off val)
    ∃ t g, exec i s = .next t ∧ Completed s t x g (x.gr.scrNow op r.1) n ws ∧
      (t.core x.core).scratch = (r.2.core x.core).scratch := by
  intro r
  obtain ⟨-, here, split⟩ := (s.running_iff x).1 running
  have rest := x.gr.rest_scrNow op r.1
  have splits : (x.gr.scrNow op r.1).splits = x.gr.splits := by
    have same := congrArg Group.splits rest
    exact same
  have pend : (x.gr.scrNow op r.1).pend = x.gr.pend := by
    have same := congrArg Group.pend rest
    exact same
  have group (c k : Nat) : (r.2.modGroup x.core x.slot fun g => g.scrNow op r.1).group c k =
      if c = x.core ∧ k = x.slot then .some (x.gr.scrNow op r.1) else s.group c k := by
    rw [State.group_modGroup, served.groups, served.groups, here]; rfl
  refine ⟨_, ((x.gr.scrNow op r.1).window x.entry s'.nextId la).advance x.entry n, run.trans (scrIssue_here idle plain some n la op off val),
    ⟨?_, ⟨fun c k other => ?_, served.mem, served.fly, fun c other => ?_, served.blocks, served.dev⟩, ?_, lanes_window ..,
      (pend_window ..).trans pend, ?_⟩, ?_⟩
  · rw [State.done, State.group_modGroup, if_pos ⟨rfl, rfl⟩, group, if_pos ⟨rfl, rfl⟩]; rfl
  · exact (State.group_done_ne _ x n _ other).trans ((group c k).trans (if_neg other))
  · exact (State.core_modGroup_ne _ _ _ other).trans ((State.core_modGroup_ne _ _ _ other).trans (served.cores c other))
  · refine .of_window split splits ?_ s'.nextId la n
    have same := congrArg (fun g : Group => { g with pend := [], splits := [] }) rest
    exact same
  · rw [State.scratch_done, State.scratch_modGroup]; exact served.bytes
  · rw [State.scratch_done, State.scratch_modGroup]

theorem OwnScratch.places {s : State} {x : Ex} {act : Mask} {w : Window} {z : Nat} {ea : Nat → Nat} (own : OwnScratch s x act w z ea) :
    PlainPlaces s x act z ea x.core fun l => w.off + ea l % 2 ^ 20 := fun l hl => by
  obtain ⟨field, aligned, fits⟩ := own.lanes l hl
  exact ⟨State.scrAddr_own own.win field fits, aligned, (PlainScratch.of_wins own.plain own.clean).unmapped _⟩

/-- The values of the lanes, each with its lane. -/
theorem map_lanePlaces {β : Type} (act : Mask) (off : Nat → Nat) (val : Nat → BitVec 128) (f : LaneAcc → β) :
    (lanePlaces act off val).map f = (lanesOf act).map fun l => f ⟨l, off l, val l, 0⟩ := List.map_map ..

theorem scratchAccesses : ScratchAccesses := by
  intro s x w running idle
  refine ⟨fun o => ?_, fun o => ?_, fun o => ?_⟩
  · intro z ea size some own
    have plain := PlainScratch.of_wins own.plain own.clean
    have served := servedHere_sld (s := s) (x := x) plain z o.d.toNat (o.k == 1)
      (lanePlaces (x.active o.g) (fun l => w.off + ea l % 2 ^ 20) fun _ => 0)
    have writes : ScratchWrites s (servedHere s x (.sld z o.d.toNat (o.k == 1))
        (lanePlaces (x.active o.g) (fun l => w.off + ea l % 2 ^ 20) fun _ => 0)).2 x.core [] := by
      rw [served]
      dsimp only
      exact .opened s x _
    obtain ⟨t, g, next, done, scratch⟩ :=
      Completed.of_served running idle plain some (exec_sld_of_places running some own.places) writes
    rw [served, map_lanePlaces] at done
    rw [served] at scratch
    dsimp only at scratch
    rw [State.scratch_bump] at scratch
    refine ⟨t, g, next, done.group, done.frame, done.moves, scratch, fun l hl => ?_, fun l hl => ?_⟩
    · rw [done.lane, Group.lane_scrNow x.gr (x.active o.g) rfl, if_pos hl]; rfl
    · rw [done.lane, Group.lane_scrNow x.gr (x.active o.g) rfl, if_neg (by simp [hl])]
  · intro z ea at_ size some own
    have plain := PlainScratch.of_wins own.plain own.clean
    obtain ⟨t, g, next, done, -⟩ := Completed.of_served running idle plain some (exec_sst_of_places running some own.places)
      (servedHere_sst plain z _)
    have bytes (l : Nat) : leBytes z (BitVec.ofNat 128 (leNat ((x.gr.lane l).storeBytes o.d.toNat z))).toNat =
        (x.gr.lane l).storeBytes o.d.toNat z := leBytes_of_storeBytes (Nat.pow_le_pow_right (by decide) size) ..
    have stored : (t.core x.core).scratch.bytes = putAll (s.core x.core).scratch.bytes
        ((lanesOf (x.active o.g)).map fun l => (at_ l, (x.gr.lane l).storeBytes o.d.toNat z)) := by
      rw [done.bytes, map_lanePlaces]
      exact congrArg _ (List.map_congr_left fun l _ => congrArg (Prod.mk _) (bytes l))
    have run (l a : Nat) : RunAt (at_ l, (x.gr.lane l).storeBytes o.d.toNat z) a ↔ at_ l ≤ a ∧ a < at_ l + z := by
      rw [RunAt, length_storeBytes]
    refine ⟨t, g, next, done.group, done.frame, done.moves, done.lanes, done.pend, fun l j hl hj highest => ?_, fun a out => ?_⟩
    · rw [stored, at_putAll_lane hl ((run l _).2 (by omega)) fun k above hk => (run k _).not.2 (highest k above hk), Nat.add_sub_cancel_left]
    · rw [stored]
      refine at_putAll_outside (fun v hv => ?_) _
      obtain ⟨l, hl, rfl⟩ := List.mem_map.1 hv
      exact (run l a).not.2 (out l ((mem_lanesOf _ l).1 hl))
  · intro z ea at_ sizes top some own distinct _
    have size : z = 4 ∨ z = 8 := sizes.imp (congrArg (2 ^ ·)) (congrArg (2 ^ ·))
    have pos : 0 < z := Nat.two_pow_pos _
    have plain := PlainScratch.of_wins own.plain own.clean
    have alone : ∀ k l, Mask.has (x.active o.g) k = true → Mask.has (x.active o.g) l = true → k ≠ l →
        at_ k + z ≤ at_ l ∨ at_ l + z ≤ at_ k := fun k l hk hl ne =>
      apart_of_aligned size (own.lanes k hk).2.1 (own.lanes l hl).2.1 (distinct k l hk hl ne)
    obtain ⟨m, run⟩ := exec_satom_of_places running idle some own.places
    have plain' : PlainScratch { s with ctxs := m } x.core := ⟨plain.unmapped, plain.clean⟩
    have apart : (lanePlaces (x.active o.g) at_ fun l => (x.gr.lane l).atomVal o.b.toNat z o.op.toNat).Pairwise (Machine.Apart z) :=
      List.pairwise_map.2 ((pairwise_lanesOf _).imp_of_mem fun hk hl below =>
        alone _ _ ((mem_lanesOf ..).1 hk) ((mem_lanesOf ..).1 hl) below.ne)
    obtain ⟨values, writes⟩ := servedHere_satom plain' (idle.of_ctxs m) o.op.toNat z o.d.toNat o.order.toNat o.scope.toNat apart
    obtain ⟨t, g, next, done, -⟩ := Completed.of_served running (idle.of_ctxs m) plain' some run ((ScratchWrites.of_ctxs ..).trans writes)
    rw [values, map_lanePlaces, List.nil_append, map_lanePlaces] at done
    refine ⟨t, g, next, done.group, done.frame, done.moves, fun l hl => ⟨?_, ?_⟩, fun l hl => ?_, fun a out => ?_⟩
    · rw [done.lane, Group.lane_scrNow x.gr (x.active o.g) rfl, if_pos hl]; rfl
    · obtain ⟨first, second⟩ := atomVal_operands (x.gr.lane l) l (at_ l) o.b.toNat o.op.toNat size
      have fits := (operands_lt (x.gr.lane l) o.b.toNat size).1
      have read := leNat_putAll_lane (run := fun l => atomRun { s with ctxs := m } x.core o.op.toNat z
        ⟨l, at_ l, (x.gr.lane l).atomVal o.b.toNat z o.op.toNat, 0⟩) hl (fun k hk ne => by
          simp only [atomRun, length_leBytes]; exact alone k l hk hl ne) (s.core x.core).scratch.bytes
      rw [← done.bytes] at read
      simp only [atomRun, length_leBytes, leNat_leBytes, two_pow_bytes, first] at read
      rw [atomNew_eq_updated pos (scrNum_lt ..) fits second] at read
      exact read
    · rw [done.lane, Group.lane_scrNow x.gr (x.active o.g) rfl, if_neg (by simp [hl])]
    · rw [done.bytes]
      refine at_putAll_outside (fun v hv => ?_) _
      obtain ⟨l, hl, rfl⟩ := List.mem_map.1 hv
      rw [RunAt, atomRun, length_leBytes]
      exact out l ((mem_lanesOf _ l).1 hl)

end Sys2Proof.Claims
end

section
/-! SLD, SST and SATOM of another core's plain scratch (R60, R172, R173). -/
namespace Sys2Proof.Claims
open Sys2Proof.Machine

theorem remoteScratchAccesses : RemoteScratchAccesses := by
  refine ⟨fun o => .of_done fun s x running => exec_sld_of_none running o, fun o => .of_done fun s x running => exec_sst_of_none running o,
    fun o => .of_done fun s x running => exec_satom_of_none running o, fun s x c running idle other => ?_⟩
  obtain ⟨-, here, split⟩ := (s.running_iff x).1 running
  refine ⟨?_, ?_, ?_⟩ <;> intro o off z ⟨act, places⟩
  · have issued := exec_sld_of_places running act places
    have sent := scrIssue_there idle here split act other (offLen o.off) o.l.toNat (.sld z o.d.toNat (o.k == 1)) off fun _ => 0
    rwa [← issued] at sent
  · have issued := exec_sst_of_places running act places
    have sent := scrIssue_there idle here split act other (offLen o.off) 0 (.sst z) off
      fun l => BitVec.ofNat 128 (leNat ((x.gr.lane l).storeBytes o.d.toNat z))
    rwa [← issued] at sent
  · obtain ⟨m, issued⟩ := exec_satom_of_places running idle act places
    have sent := scrIssue_there (idle.of_ctxs m) here split act other 8 o.l.toNat
      (.satom o.op.toNat z o.d.toNat o.order.toNat o.scope.toNat) off fun l => (x.gr.lane l).atomVal o.b.toNat z o.op.toNat
    rw [← issued] at sent
    exact sent

end Sys2Proof.Claims
end

section
/-! What the events of scratch do: accesses of other cores, fills, write-backs, probes and halo pushes (R172, R178 to R181, R186). -/
namespace Sys2Proof.Machine

/-! ### Steps that change one word -/

/-- At most one word of a core's scratch has changed, with its four bytes. -/
structure WordOnly (s t : State) (core off : Nat) : Prop extends ScratchOnly s t core where
  words : ∀ n, n ≠ off / 4 → mget (t.core core).scratch.words n = mget (s.core core).scratch.words n
  bytes : ∀ a, ¬(off ≤ a ∧ a < off + 4) → Bytes.at_ (t.core core).scratch.bytes a = Bytes.at_ (s.core core).scratch.bytes a
/-- A word and its four bytes are the same in two states. -/
structure SameWord (s t : State) (core off : Nat) : Prop where
  word : mget (t.core core).scratch.words (off / 4) = mget (s.core core).scratch.words (off / 4)
  bytes : ∀ b, b < 4 → Bytes.at_ (t.core core).scratch.bytes (off + b) = Bytes.at_ (s.core core).scratch.bytes (off + b)

theorem WordOnly.refl (s : State) (core off : Nat) : WordOnly s s core off := ⟨.refl s core, fun _ _ => rfl, fun _ _ => rfl⟩
/-- Words four bytes apart, or more, do not meet. -/
theorem WordOnly.elsewhere {s t : State} {core o i j : Nat} (h : WordOnly s t core (o + 4 * j)) (ne : j ≠ i) :
    SameWord s t core (o + 4 * i) where
  word := h.words _ (by omega)
  bytes b hb := h.bytes _ (by omega)
theorem SameWord.trans {s t u : State} {core off : Nat} (h : SameWord s t core off) (g : SameWord t u core off) : SameWord s u core off where
  word := g.word.trans h.word
  bytes b hb := (g.bytes b hb).trans (h.bytes b hb)

section
variable {f : State → Nat → State} {core o : Nat} (step : ∀ s i, WordOnly s (f s i) core (o + 4 * i))
include step

theorem foldl_words_elsewhere {ls : List Nat} {i : Nat} (out : i ∉ ls) (s : State) : SameWord s (ls.foldl f s) core (o + 4 * i) := by
  induction ls generalizing s with
  | nil => exact ⟨rfl, fun _ _ => rfl⟩
  | cons j t ih =>
    obtain ⟨ne, out⟩ := not_or.1 (List.mem_cons.not.1 out)
    exact ((step s j).elsewhere (Ne.symm ne)).trans (ih out _)
/-- One of the words that a fold goes over: its step sees the word as it was, and no later step touches it. -/
theorem foldl_words_at {ls : List Nat} {i : Nat} (distinct : ls.Nodup) (inside : i ∈ ls) (s : State) :
    ∃ u, ScratchOnly s u core ∧ SameWord s u core (o + 4 * i) ∧ SameWord (f u i) (ls.foldl f s) core (o + 4 * i) := by
  obtain ⟨pre, post, rfl⟩ := List.append_of_mem inside
  have apart := List.nodup_append.1 distinct
  have later : i ∉ post := (List.nodup_cons.1 apart.2.1).1
  have earlier : i ∉ pre := fun h => apart.2.2 i h i (List.mem_cons_self ..) rfl
  refine ⟨pre.foldl f s, .foldl (fun s j => (step s j).toScratchOnly) pre s, foldl_words_elsewhere step earlier s, ?_⟩
  rw [List.foldl_append, List.foldl_cons]
  exact foldl_words_elsewhere step later _
end

/-- A word put with its bytes and its poison. -/
def State.putWord (s : State) (core off : Nat) (bs : List Byte) (p : Bool) (w : MWord) : State :=
  ((s.putScr core off bs).setScrPoison core off p).setWord core off w
theorem State.scratch_putWord (s : State) (core off : Nat) (bs : List Byte) (p : Bool) (w : MWord) :
    ((s.putWord core off bs p w).core core).scratch =
      { (s.core core).scratch with
        bytes := Bytes.write (s.core core).scratch.bytes off bs
        poison := mput false (s.core core).scratch.poison (off / 4) p
        words := mset (s.core core).scratch.words (off / 4) w } := by
  simp [State.putWord]
theorem WordOnly.putWord (s : State) (core off : Nat) {bs : List Byte} (length : bs.length ≤ 4) (p : Bool) (w : MWord) :
    WordOnly s (s.putWord core off bs p w) core off where
  toScratchOnly := ((ScratchOnly.putScr ..).trans (.setScrPoison ..)).trans (.setWord ..)
  words n ne := by rw [State.scratch_putWord]; exact mget_mset_ne _ _ ne
  bytes a out := by rw [State.scratch_putWord]; exact (Bytes.at_write ..).trans (if_neg (by omega))
theorem State.word_putWord (s : State) (core off : Nat) (bs : List Byte) (p : Bool) (w : MWord) :
    mget ((s.putWord core off bs p w).core core).scratch.words (off / 4) = some w := by
  rw [State.scratch_putWord]; exact mget_mset_same ..
theorem State.byte_putWord (s : State) (core off : Nat) {bs : List Byte} {b : Nat} (inside : b < bs.length) (p : Bool) (w : MWord) :
    Bytes.at_ ((s.putWord core off bs p w).core core).scratch.bytes (off + b) = bs.getD b 0 := by
  rw [State.scratch_putWord]
  exact (Bytes.at_write ..).trans ((if_pos (by omega)).trans (by rw [Nat.add_sub_cancel_left]))

/-! ### Nothing waits, nothing follows -/

theorem State.refill_of_none {s : State} (touches : s.fly.touches = []) (owners : ∀ q ∈ s.fly.fills, q.2.owner = none) :
    s.refill = s := by
  unfold State.refill
  rw [touches]
  exact foldl_eq_self fun q hq => by rw [owners q hq]
theorem State.finishTouches_of_none {s : State} (touches : s.fly.touches = []) (core : Nat) : s.finishTouches core = s := by
  unfold State.finishTouches
  rw [touches]; rfl
/-- Held probes of other cores, and those that a request waits for, stay. -/
theorem State.applyProbes_of_none {s : State} {core : Nat} (probes : ∀ p ∈ s.fly.scrProbes, p.2.core ≠ core ∨ p.2.req ≠ 0) :
    s.applyProbes core = s :=
  foldl_eq_self fun p hp => if_pos (by
    obtain other | waited := probes p hp
    · exact .inl other
    · exact .inr (.inl waited))


/-! ### An access of another core -/

/-- The access as its owning core has it once it has come. -/
def Touch.come (u : Touch) : Touch := { u with remote := false, waits := true }
/-- The machine at that moment. -/
def State.touchComes (s : State) (id : Nat) (u : Touch) : State :=
  { s with fly := { s.fly with touches := mset s.fly.touches id u.come } }
/-- An access that is performed: what it returns to its lanes, and the machine behind it. -/
def State.touchServed (s : State) (u : Touch) : List (Nat × (Nat × Bool)) × State :=
  (s.bump u.at_ .sbankc (bankLoss u.op.size u.lanes)).scrLanes u.at_ u.op u.lanes
/-- That machine once the access has left what is in flight, and its order holds; the group that made it is as before. -/
def State.touchDone (s : State) (id : Nat) (u : Touch) : State :=
  let t := (s.touchServed u).2
  { t with fly := { t.fly with touches := mdel t.fly.touches id } }.satomOrder u.who u.at_ u.op u.lanes u.fenced
theorem State.performTouch_eq (s : State) (id : Nat) (u : Touch) :
    s.performTouch id u = (s.touchDone id u).modGroup u.who.core u.who.slot fun g =>
      if g.uid = u.who.uid then (g.scrLater u.op u.who.iid (s.touchServed u).1).wake (.touch id) else g := rfl

/-- A load or a store is performed: it leaves the list of what is in flight, and writes what its lanes carry. -/
theorem State.touchDone_writes {s : State} {id : Nat} {u : Touch} {ws : List (Nat × List Byte)}
    (served : ScratchWrites s (s.touchServed u).2 u.at_ ws)
    (simple : ∀ a z d o sc, u.op ≠ .satom a z d o sc) :
    ScratchWrites { s with fly := { s.fly with touches := mdel s.fly.touches id } } (s.touchDone id u) u.at_ ws := by
  have left (t : State) (h : ScratchWrites s t u.at_ ws) : ScratchWrites { s with fly := { s.fly with touches := mdel s.fly.touches id } }
      { t with fly := { t.fly with touches := mdel t.fly.touches id } } u.at_ ws :=
    { h with fly := by rw [h.fly] }
  have ordered := (left _ served).trans (State.satomOrder_writes (who := u.who) u.op u.lanes u.fenced
    fun ⟨a, z, d, o, sc, eq⟩ => absurd eq (simple a z d o sc))
  rwa [List.append_nil] at ordered

section
variable {s : State} {id : Nat} {u : Touch} {k : LaneAcc} (touches : s.fly.touches = [(id, u)]) (lanes : u.lanes = [k])
  (plain : PlainScratch s u.at_)
include touches lanes plain

/-- An access that finds its window and plain scratch there is performed as it comes. -/
theorem exec_remoteAccess (remote : u.remote = true) (here : mget (s.core u.at_).saved u.who.ctx = none)
    (window : (s.windowAt u.at_ k.off u.op.size u.who.ctx).isSome = true)
    (gone : ((s.touchComes id u).touchDone id u.come).fly.touches = []) :
    exec (.scratchRemoteAccess id) s = .next ((s.touchComes id u).performTouch id u.come) := by
  have found : mget s.fly.touches id = some u := by simp [touches, mget]
  have alone : (s.touchComes id u).fly.touches = [(id, u.come)] := by
    show mset s.fly.touches id u.come = _
    rw [touches]; simp [mset]
  have plain' : PlainScratch (s.touchComes id u) u.at_ := ⟨plain.unmapped, plain.clean⟩
  have ready : (s.touchComes id u).touchReady id u.come = true := by
    unfold State.touchReady
    rw [alone]
    simp [Touch.come, plain'.validRange]
  have unsaved : s.savedWin u.at_ ((u.lanes.head?.map LaneAcc.off).getD 0) 1 u.who.ctx = false := by
    unfold State.savedWin
    rw [here]
  have room : s.touchFull u = false := by
    unfold State.touchFull
    rw [plain.fillsFull, Bool.and_false]
  have windows : (u.lanes.all fun k => (s.windowAt u.at_ k.off u.op.size u.who.ctx).isSome) = true := by simp [lanes, window]
  have touched : (if u.op.reads then u.lanes.foldl (fun s k => s.touchRange none u.known u.at_ k.off u.op.size) (s.touchComes id u)
      else s.touchComes id u) = s.touchComes id u := by
    rw [lanes]
    simp [plain'.touchRange]
  have last : ((s.touchComes id u).performTouch id u.come).finishTouches u.at_ = (s.touchComes id u).performTouch id u.come :=
    State.finishTouches_of_none (by rw [State.performTouch_eq]; exact gone) _
  show execScratchRemoteAccess id s = _
  simp only [execScratchRemoteAccess, found, remote, unsaved, windows, room, Bool.true_eq_false, Bool.false_eq_true, or_self, if_true, if_false]
  refine (congrArg (fun t => Host.Outcome.next (if t.touchReady id u.come = true then (t.performTouch id u.come).finishTouches u.at_ else t))
    touched).trans ?_
  rw [ready, if_pos rfl, last]
end

end Sys2Proof.Machine
end

section
/-! Accesses of other cores, fills, write-backs, probes and halo pushes take effect (R172, R178 to R181, R186, R414). -/
namespace Sys2Proof.Claims
open Sys2Proof.Machine

/-! ### An access of another core arrives (R172, R173) -/

section
variable {s : State} {id : Nat} {u : Touch} {k : LaneAcc} {g : Group} (touches : s.fly.touches = [(id, u)]) (remote : u.remote = true)
  (lanes : u.lanes = [k]) (here : mget (s.core u.at_).saved u.who.ctx = none)
  (window : (s.windowAt u.at_ k.off u.op.size u.who.ctx).isSome = true) (plain : PlainScratch s u.at_)
  (group : s.group u.who.core u.who.slot = some g) (uid : g.uid = u.who.uid)
include touches remote lanes here window plain group uid

/-- What a load or a store leaves, whatever it writes. -/
theorem remoteAccess_performed {ws : List (Nat × List Byte)} (simple : ∀ a z d o sc, u.op ≠ .satom a z d o sc)
    (served : ScratchWrites (s.touchComes id u) ((s.touchComes id u).touchServed u.come).2 u.at_ ws) :
    ∃ t, exec (.scratchRemoteAccess id) s = .next t ∧ t.fly.touches = [] ∧ t.mem = s.mem ∧
      (t.core u.at_).scratch = (((s.touchComes id u).touchDone id u.come).core u.at_).scratch ∧
      (t.core u.at_).scratch.bytes = putAll (s.core u.at_).scratch.bytes ws ∧
      t.group u.who.core u.who.slot =
        some ((g.scrLater u.op u.who.iid ((s.touchComes id u).touchServed u.come).1).wake (.touch id)) := by
  have done := State.touchDone_writes (id := id) (u := u.come) served simple
  have gone : ((s.touchComes id u).touchDone id u.come).fly.touches = [] := by
    rw [done.fly]
    show mdel (mset s.fly.touches id u.come) id = []
    simp [touches, mset, mdel]
  refine ⟨_, exec_remoteAccess touches lanes plain remote here window gone, gone, done.mem, State.scratch_modGroup .., ?_, ?_⟩
  · exact (congrArg Scratch.bytes (State.scratch_modGroup ..)).trans done.bytes
  · rw [State.performTouch_eq, State.group_modGroup, done.groups]
    refine (if_pos ⟨rfl, rfl⟩).trans ?_
    show Option.map _ (s.group u.who.core u.who.slot) = _
    rw [group]
    exact congrArg some (if_pos uid)

theorem remoteAccess_sld {z d : Nat} {sx : Bool} (op : u.op = .sld z d sx) :
    ∃ t, exec (.scratchRemoteAccess id) s = .next t ∧ t.fly.touches = [] ∧ t.mem = s.mem ∧
      (t.core u.at_).scratch = (s.core u.at_).scratch ∧ t.group u.who.core u.who.slot =
        some ((g.deliver u.who.iid k.lane fun ln => ln.load d z sx (scrNum s u.at_ k.off z, false)).wake (.touch id)) := by
  have served : (s.touchComes id u).touchServed u.come =
      ([(k.lane, scrNum s u.at_ k.off z, false)], (s.touchComes id u).bump u.at_ .sbankc (bankLoss z u.lanes)) := by
    have value : ((s.touchComes id u).core u.at_).scratch.value k.off z = (scrNum s u.at_ k.off z, false) := plain.value k.off z
    have opened := ((s.touchComes id u).bump u.at_ .sbankc (bankLoss z u.lanes)).scrLanes_sld u.at_ z d sx u.lanes
    rw [State.scratch_bump] at opened
    show ((s.touchComes id u).bump u.at_ .sbankc (bankLoss u.op.size u.lanes)).scrLanes u.at_ u.op u.lanes = _
    rw [op]
    refine opened.trans ?_
    rw [lanes, List.map_cons, List.map_nil, value]
  have writes : ScratchWrites (s.touchComes id u) ((s.touchComes id u).touchServed u.come).2 u.at_ [] := by
    rw [served]
    dsimp only
    exact .bump ..
  obtain ⟨t, next, gone, mem, scratch, -, after⟩ := remoteAccess_performed touches remote lanes here window plain group uid
    (by rw [op]; simp) writes
  refine ⟨t, next, gone, mem, scratch.trans ?_, after.trans ?_⟩
  · have order : u.come.op = .sld z d sx := op
    have kept := (s.touchComes id u).scratch_bump u.at_ (bankLoss z u.lanes) u.at_ .sbankc
    rw [State.touchDone, served]
    generalize (s.touchComes id u).bump u.at_ .sbankc (bankLoss z u.lanes) = b at kept
    rw [order]
    exact kept
  · rw [served, op]; rfl
theorem remoteAccess_sst {z : Nat} (op : u.op = .sst z) :
    ∃ t, exec (.scratchRemoteAccess id) s = .next t ∧ t.fly.touches = [] ∧ t.mem = s.mem ∧
      (∀ a, Bytes.at_ (t.core u.at_).scratch.bytes a = if k.off ≤ a ∧ a < k.off + z
        then BitVec.ofNat 8 (k.val.toNat / 256 ^ (a - k.off)) else Bytes.at_ (s.core u.at_).scratch.bytes a) ∧
      t.group u.who.core u.who.slot = some (g.wake (.touch id)) := by
  have plain' : PlainScratch (s.touchComes id u) u.at_ := ⟨plain.unmapped, plain.clean⟩
  have opened : ScratchWrites (s.touchComes id u) ((s.touchComes id u).bump u.at_ .sbankc (bankLoss z u.lanes)) u.at_ [] := .bump ..
  have served : ScratchWrites (s.touchComes id u) ((s.touchComes id u).touchServed u.come).2 u.at_ [(k.off, leBytes z k.val.toNat)] := by
    have stored := opened.trans (State.scrLanes_sst (plain'.of_writes opened) z u.lanes)
    show ScratchWrites _ (((s.touchComes id u).bump u.at_ .sbankc (bankLoss u.op.size u.lanes)).scrLanes u.at_ u.op u.lanes).2 _ _
    rw [op]
    rwa [lanes] at stored ⊢
  obtain ⟨t, next, gone, mem, -, bytes, after⟩ := remoteAccess_performed touches remote lanes here window plain group uid
    (by rw [op]; simp) served
  refine ⟨t, next, gone, mem, fun a => ?_, after.trans (by rw [op]; rfl)⟩
  rw [bytes]
  refine (Bytes.at_write ..).trans ?_
  rw [length_leBytes]
  split
  · next inside => exact getD_leBytes (by omega) _
  · rfl
end

end Sys2Proof.Claims
end

section
/-! Fills, write-backs, probes and halo pushes take effect (R178 to R181, R186, R414). -/
namespace Sys2Proof.Machine

/-! ### A fill lands (R178) -/

/-- What a fill does with word i of its line. -/
def State.fillWord (s : State) (f : Fill) (cls pa va : Nat) (d : Line) (p : BitVec 16) (i : Nat) : State :=
  match s.mapAt f.core (f.off + 4 * i), mget (s.core f.core).scratch.words ((f.off + 4 * i) / 4) with
  | none, _ => s
  | some _, some w => if w.st = .pending then State.fillWords.fillOne s f.core (f.off + 4 * i) i cls pa va d p else s
  | some _, none => State.fillWords.fillOne s f.core (f.off + 4 * i) i cls pa va d p
theorem State.fillWords_eq (s : State) (f : Fill) (cls pa va : Nat) (d : Line) (p : BitVec 16) : s.fillWords f cls pa va d p =
    ((List.range 16).filter fun i => !f.dropped.getLsbD i).foldl (fun s i => s.fillWord f cls pa va d p i) s := rfl

section
variable (s : State) (f : Fill) (cls pa va : Nat) (d : Line) (p : BitVec 16)

theorem WordOnly.fillWord (i : Nat) : WordOnly s (s.fillWord f cls pa va d p i) f.core (f.off + 4 * i) := by
  have filled : WordOnly s (State.fillWords.fillOne s f.core (f.off + 4 * i) i cls pa va d p) f.core (f.off + 4 * i) :=
    .putWord s f.core _ (by simp) _ _
  unfold State.fillWord
  split
  · exact .refl ..
  · split
    · exact filled
    · exact .refl ..
  · exact filled
theorem ScratchOnly.fillWords : ScratchOnly s (s.fillWords f cls pa va d p) f.core := by
  rw [State.fillWords_eq]
  exact .foldl (fun s i => (WordOnly.fillWord s f cls pa va d p i).toScratchOnly) _ s

variable {i : Nat} (mapped : (s.mapAt f.core (f.off + 4 * i)).isSome = true)
  (wants : ∀ w, mget (s.core f.core).scratch.words ((f.off + 4 * i) / 4) = some w → w.st = .pending)
include mapped wants

theorem State.fillWord_of_wanted : s.fillWord f cls pa va d p i =
    State.fillWords.fillOne s f.core (f.off + 4 * i) i cls pa va d p := by
  obtain ⟨v, there⟩ := Option.isSome_iff_exists.1 mapped
  rw [State.fillWord, there]
  cases word : mget (s.core f.core).scratch.words ((f.off + 4 * i) / 4) with
  | none => rfl
  | some w => exact if_pos (wants w word)
/-- A word of the line that a fill brings, one that still wants its value. -/
theorem State.word_fillWords (inside : i < 16) (kept : f.dropped.getLsbD i = false) :
    (mget ((s.fillWords f cls pa va d p).core f.core).scratch.words ((f.off + 4 * i) / 4)).map MWord.st = some .clean ∧
    ∀ b, b < 4 → Bytes.at_ ((s.fillWords f cls pa va d p).core f.core).scratch.bytes (f.off + 4 * i + b) = lineByte d (4 * i + b) := by
  obtain ⟨u, only, same, last⟩ := foldl_words_at (fun s i => WordOnly.fillWord s f cls pa va d p i)
    (List.nodup_range.filter fun i => !f.dropped.getLsbD i) (List.mem_filter.2 ⟨List.mem_range.2 inside, by simp [kept]⟩) s
  rw [State.fillWord_of_wanted u f cls pa va d p (by rwa [only.mapAt]) (by rwa [same.word])] at last
  rw [State.fillWords_eq]
  refine ⟨?_, fun b hb => ?_⟩
  · rw [last.word]
    exact congrArg (Option.map MWord.st) (State.word_putWord ..)
  · rw [last.bytes b hb]
    refine (State.byte_putWord u f.core _ (by simpa using hb) _ _).trans ?_
    simp [List.getD_eq_getElem?_getD, hb]
end

end Sys2Proof.Machine

namespace Sys2Proof.Claims
open Sys2Proof.Machine

/-- The machine in which a fill's request and the fill itself are no longer in flight. -/
def fillGone (s : State) (id : Nat) : State :=
  { s with fly := { s.fly with fills := mdel s.fly.fills id, reqs := mdel s.fly.reqs id } }

/-- A fill whose mapping is there writes its words, and nothing else follows where nothing waits. -/
theorem landFill_of_alive {s : State} {f : Fill} (touches : s.fly.touches = []) (owners : ∀ q ∈ s.fly.fills, q.2.owner = none)
    (probes : ∀ p ∈ s.fly.scrProbes, p.2.core ≠ f.core ∨ p.2.req ≠ 0) (alive : s.fillAlive f = true) (id cls pa va : Nat) (d : Line)
    (p : BitVec 16) :
    s.landFill id f cls pa va d p = ((fillGone s id).bump f.core .sfilll).fillWords f cls pa va d p := by
  have there : (fillGone s id).fillAlive f = true := alive
  have only := (ScratchOnly.bump (fillGone s id) f.core 1 .sfilll).trans (.fillWords _ f cls pa va d p)
  show ((if (fillGone s id).fillAlive f then (((fillGone s id).bump f.core .sfilll).fillWords f cls pa va d p).refill.finishTouches f.core
    else (fillGone s id).refill).applyProbes f.core) = _
  generalize ((fillGone s id).bump f.core .sfilll).fillWords f cls pa va d p = t at only ⊢
  rw [if_pos there, State.refill_of_none (by rw [only.fly]; exact touches) (by rw [only.fly]; exact fun q hq => owners q (mem_mdel _ _ q hq)),
    State.finishTouches_of_none (by rw [only.fly]; exact touches), State.applyProbes_of_none (by rw [only.fly]; exact probes)]

theorem scratchFillLand {s : State} {id : Nat} {f : Fill} {r : Req} {i : Nat} (found : mget s.fly.fills id = some f)
    (owner : f.owner = none) (index : f.index = none) (owners : ∀ q ∈ s.fly.fills, q.2.owner = none) (request : mget s.fly.reqs id = some r)
    (back : r.phase = .back) (touches : s.fly.touches = []) (probes : ∀ p ∈ s.fly.scrProbes, p.2.core ≠ f.core ∨ p.2.req ≠ 0)
    (alive : s.fillAlive f = true) (inside : i < 16) (kept : f.dropped.getLsbD i = false)
    (mapped : (s.mapAt f.core (f.off + 4 * i)).isSome = true)
    (wants : ∀ w, mget (s.core f.core).scratch.words ((f.off + 4 * i) / 4) = some w → w.st = .pending) :
    ∃ t, exec (.scratchFillLand id) s = .next t ∧ mget t.fly.fills id = none ∧ mget t.fly.reqs id = none ∧ t.mem = s.mem ∧
      (∀ c k, t.group c k = s.group c k) ∧
      (mget (t.core f.core).scratch.words ((f.off + 4 * i) / 4)).map MWord.st = some .clean ∧
      ∀ b, b < 4 → Bytes.at_ (t.core f.core).scratch.bytes (f.off + 4 * i + b) = lineByte r.data (4 * i + b) := by
  have raised : ∃ u, ScratchOnly s u f.core ∧ (u.core f.core).scratch = (s.core f.core).scratch ∧
      exec (.scratchFillLand id) s = .next (u.landFill id f r.cls r.pa (r.vas.headD 0) r.data r.poison) := by
    refine ⟨if r.cls = 1 then s.raisePts f.core f.ctx r.wts else s, ?_, ?_, ?_⟩
    · split
      · exact .raisePts ..
      · exact .refl ..
    · split
      · exact State.scratch_raisePts ..
      · rfl
    · show execScratchFillLand id s = _
      simp only [execScratchFillLand, found, owner, index, request, back, if_true]
  obtain ⟨u, only, scratch, next⟩ := raised
  have alive' : u.fillAlive f = true := by rwa [State.fillAlive, only.mapAt]
  rw [landFill_of_alive (by rw [only.fly, touches]) (by rwa [only.fly]) (by rwa [only.fly]) alive'] at next
  have opened : ScratchOnly (fillGone u id) ((fillGone u id).bump f.core .sfilll) f.core := .bump ..
  have landed := opened.trans (.fillWords _ f r.cls r.pa (r.vas.headD 0) r.data r.poison)
  have words : (((fillGone u id).bump f.core .sfilll).core f.core).scratch = (s.core f.core).scratch :=
    ((fillGone u id).scratch_bump f.core 1 f.core .sfilll).trans scratch
  obtain ⟨clean, bytes⟩ := State.word_fillWords ((fillGone u id).bump f.core .sfilll) f r.cls r.pa (r.vas.headD 0) r.data r.poison (i := i)
    (by rw [opened.mapAt]; show (u.mapAt _ _).isSome = true; rwa [only.mapAt]) (by rwa [words]) inside kept
  refine ⟨_, next, ?_, ?_, landed.mem.trans only.mem, fun c k => (landed.groups c k).trans (only.groups c k), clean, bytes⟩
  · rw [landed.fly]; exact (mget_mdel ..).trans (if_pos rfl)
  · rw [landed.fly]; exact (mget_mdel ..).trans (if_pos rfl)

end Sys2Proof.Claims
end

section
/-! Write-backs, probes and halo pushes take effect (R180, R181, R186, R414). -/
namespace Sys2Proof.Machine

/-! ### A write-back is acknowledged (R180) -/

/-- A word still holds what its write-back has written. -/
def State.unchanged (s : State) (r : Req) (core off i : Nat) : Bool :=
  (List.range 4).all fun b => Bytes.at_ (s.core core).scratch.bytes (off + 4 * i + b) == lineByte r.data (4 * i + b)
/-- The word as its acknowledged write-back leaves it. -/
def Req.cleanWord (r : Req) (i : Nat) : MWord where
  st := .clean
  share := if r.cls = 0 then some (r.pa + 4 * i) else none
  lcl := r.cls == 1
  va := if r.cls = 1 then r.vas.headD 0 + 4 * i else 0
/-- A DIRTY word that is not changed meanwhile becomes CLEAN. -/
def State.ackWord (s : State) (r : Req) (core off i : Nat) : State :=
  match mget (s.core core).scratch.words ((off + 4 * i) / 4) with
  | some w =>
    if w.st = .dirty ∧ s.unchanged r core off i = true then s.setWord core (off + 4 * i) (r.cleanWord i) else s
  | none => s

theorem State.unchanged_iff (s : State) (r : Req) (core off i : Nat) : s.unchanged r core off i = true ↔
    ∀ b, b < 4 → Bytes.at_ (s.core core).scratch.bytes (off + 4 * i + b) = lineByte r.data (4 * i + b) := by
  simp [State.unchanged, List.all_eq_true]
theorem State.bytes_ackWord (s : State) (r : Req) (core off i : Nat) :
    ((s.ackWord r core off i).core core).scratch.bytes = (s.core core).scratch.bytes := by
  unfold State.ackWord
  split
  · split
    · rw [State.scratch_setWord]
    · rfl
  · rfl
theorem WordOnly.setWord (s : State) (core off : Nat) (w : MWord) : WordOnly s (s.setWord core off w) core off where
  toScratchOnly := .setWord ..
  words n ne := by rw [State.scratch_setWord]; exact mget_mset_ne _ _ ne
  bytes a out := by rw [State.scratch_setWord]
theorem WordOnly.ackWord (s : State) (r : Req) (core off i : Nat) : WordOnly s (s.ackWord r core off i) core (off + 4 * i) := by
  unfold State.ackWord
  split
  · split
    · exact .setWord ..
    · exact .refl ..
  · exact .refl ..
theorem State.word_ackWord {s : State} {r : Req} {core off i : Nat} {w : MWord}
    (there : mget (s.core core).scratch.words ((off + 4 * i) / 4) = some w) (dirty : w.st = .dirty) :
    ∃ v, mget ((s.ackWord r core off i).core core).scratch.words ((off + 4 * i) / 4) = some v ∧
      v.st = if s.unchanged r core off i = true then .clean else .dirty := by
  rw [State.ackWord, there]
  dsimp only
  by_cases same : s.unchanged r core off i = true
  · rw [if_pos ⟨dirty, same⟩, if_pos same, State.scratch_setWord]
    exact ⟨r.cleanWord i, mget_mset_same .., rfl⟩
  · rw [if_neg fun h => same h.2, if_neg same]
    exact ⟨w, there, dirty⟩

/-! ### A probe applies (R181) -/

/-- A probed word is gone where it was CLEAN; every other word is as it was. -/
theorem State.words_dropWord (s : State) (core m n : Nat) : mget ((s.dropWord core m).core core).scratch.words n =
    if n = m ∧ (mget (s.core core).scratch.words n).map MWord.st = some .clean then none else mget (s.core core).scratch.words n := by
  unfold State.dropWord
  cases there : mget (s.core core).scratch.words m with
  | none => rw [if_neg (by rintro ⟨rfl, clean⟩; simp [there] at clean)]
  | some w =>
    dsimp only
    by_cases clean : w.st = .clean
    · rw [if_pos clean, State.scratch_bump, State.core_modCore_same]
      refine (mget_mdel ..).trans ?_
      by_cases same : n = m
      · subst same; simp [there, clean]
      · simp [same]
    · rw [if_neg clean, if_neg (by rintro ⟨rfl, eq⟩; simp [there, clean] at eq)]

/-- Probed words of one core: each that was CLEAN is gone. -/
theorem words_foldl_dropWord {core n : Nat} {ws : List (Nat × Nat)} (cores : ∀ w ∈ ws, w.1 = core) (s : State)
    (clean : mget (s.core core).scratch.words n = none ∨ (n ∈ ws.map Prod.snd ∧
      (mget (s.core core).scratch.words n).map MWord.st = some .clean)) :
    mget ((ws.foldl (fun s w => s.dropWord w.1 w.2) s).core core).scratch.words n = none := by
  induction ws generalizing s with
  | nil =>
    obtain gone | ⟨inside, -⟩ := clean
    · exact gone
    · simp at inside
  | cons w t ih =>
    obtain rfl : w.1 = core := cores w (List.mem_cons_self ..)
    refine ih (fun v hv => cores v (List.mem_cons_of_mem _ hv)) _ ?_
    rw [State.words_dropWord]
    obtain gone | ⟨inside, clean⟩ := clean
    · exact .inl (by simp [gone])
    · obtain same | later := List.mem_cons.1 (List.map_cons ▸ inside)
      · exact .inl (if_pos ⟨same, clean⟩)
      · by_cases same : n = w.2
        · exact .inl (if_pos ⟨same, clean⟩)
        · rw [if_neg (fun h => same h.1)]
          exact .inr ⟨later, clean⟩
/-- A probed word of a core, by its sharer. -/
theorem State.mem_sharers {s : State} {core n pa : Nat} {w : MWord} {a : Nat} {words : BitVec 16}
    (there : mget (s.core core).scratch.words n = some w) (share : w.share = some a) (low : pa ≤ a) (high : a < pa + 64)
    (written : words.getLsbD ((a - pa) / 4) = true) : (core, n) ∈ s.sharers pa words := by
  have listed : (core, s.core core) ∈ s.cores := by
    cases found : mget s.cores core with
    | none => simp [State.core, mgetD, found] at there
    | some k =>
      have same : s.core core = k := by simp [State.core, mgetD, found]
      rw [same]; exact mem_of_mget found
  refine List.mem_append_left _ (List.mem_append_left _ (List.mem_flatMap.2 ⟨_, listed, List.mem_filterMap.2 ⟨_, mem_of_mget there, ?_⟩⟩))
  simp [share, low, high, written]

/-! ### A halo push arrives (R186, R414) -/

/-- What a push does with word i of its range at the replica. -/
def State.pushWord (s : State) (p : Push) (i : Nat) : State :=
  match s.mapAt p.core (p.dst + 4 * i) with
  | some (w, _, m) =>
    if w.blk = p.blk ∧ m.kind = .replica then
      s.putWord p.core (p.dst + 4 * i) ((p.data.drop (4 * i)).take 4) (p.poison.getD i false) { st := .clean }
    else s
  | none => s
theorem WordOnly.pushWord (s : State) (p : Push) (i : Nat) : WordOnly s (s.pushWord p i) p.core (p.dst + 4 * i) := by
  unfold State.pushWord
  split
  · split
    · exact .putWord _ _ _ (List.length_take_le ..) _ _
    · exact .refl ..
  · exact .refl ..
theorem ScratchOnly.pushWords (s : State) (p : Push) (ls : List Nat) : ScratchOnly s (ls.foldl (fun s i => s.pushWord p i) s) p.core :=
  .foldl (fun s i => (WordOnly.pushWord s p i).toScratchOnly) ls s
/-- A word of the replica's range takes its value from the push. -/
theorem State.word_pushWords (s : State) (p : Push) {n i : Nat} (inside : i < n) (size : 4 * n ≤ p.data.length) {v : Window} {g : Nat × SMapping}
    (mapped : s.mapAt p.core (p.dst + 4 * i) = some (v, g)) (blk : v.blk = p.blk) (kind : g.2.kind = .replica) :
    let t := (List.range n).foldl (fun s i => s.pushWord p i) s
    (mget (t.core p.core).scratch.words ((p.dst + 4 * i) / 4)).map MWord.st = some .clean ∧
    ∀ b, b < 4 → Bytes.at_ (t.core p.core).scratch.bytes (p.dst + 4 * i + b) = p.data.getD (4 * i + b) 0 := by
  obtain ⟨u, only, -, last⟩ := foldl_words_at (fun s i => WordOnly.pushWord s p i) List.nodup_range (List.mem_range.2 inside) s
  obtain ⟨k, m⟩ := g
  have put : u.pushWord p i =
      u.putWord p.core (p.dst + 4 * i) ((p.data.drop (4 * i)).take 4) (p.poison.getD i false) { st := .clean } := by
    rw [State.pushWord, only.mapAt, mapped]
    exact if_pos ⟨blk, kind⟩
  rw [put] at last
  have length : ((p.data.drop (4 * i)).take 4).length = 4 := by rw [List.length_take, List.length_drop]; omega
  refine ⟨?_, fun b hb => ?_⟩
  · rw [last.word]
    exact congrArg (Option.map MWord.st) (State.word_putWord ..)
  · rw [last.bytes b hb]
    refine (State.byte_putWord u p.core _ (by rwa [length]) _ _).trans ?_
    simp [List.getD_eq_getElem?_getD, hb]

/-- The push as it is once its range has been read. -/
theorem State.readPush_fly (s : State) {id : Nat} {p : Push} (found : mget s.fly.pushes id = some p) :
    mget (s.readPush p 0).fly.pushes id = some { p with taken := true } := by
  unfold State.readPush
  by_cases taken : p.taken = true
  · rw [if_pos taken, found]
    exact congrArg some (by rw [← taken])
  · rw [if_neg taken]
    simp [found, Push.sameRange]
/-- Reading the range changes only what is in flight. -/
theorem State.readPush_rest (s : State) (p : Push) (late : Nat) :
    ∃ ps, s.readPush p late = { s with fly := { s.fly with pushes := ps } } := by
  unfold State.readPush
  split
  · exact ⟨s.fly.pushes, rfl⟩
  · exact ⟨_, rfl⟩

end Sys2Proof.Machine
end

section
/-! The events of scratch (R172, R178, R180, R181, R186, R414). -/
namespace Sys2Proof.Machine

/-- Another push of the range goes first. -/
theorem State.pushBefore_iff (s : State) (p : Push) : s.pushBefore p = true ↔ ∃ q ∈ s.fly.pushes, q.2.arrived = false ∧
    (q.2.owner, q.2.off, q.2.len) = (p.owner, p.off, p.len) ∧
    ((q.2.path = p.path ∧ snakePos (q.2.core % 24) < snakePos (p.core % 24)) ∨
     (q.2.path < p.path ∧ q.2.core = p.core ∧ q.2.dst = p.dst)) := by
  simp only [State.pushBefore, List.any_eq_true, Push.sameRange, Bool.and_eq_true, Bool.or_eq_true, Bool.not_eq_true', decide_eq_true_eq,
    beq_iff_eq, Prod.mk.injEq]
  refine exists_congr fun q => ?_
  constructor
  · rintro ⟨hq, ⟨fresh, h1, h2, h3⟩, h4⟩
    exact ⟨hq, fresh, ⟨h1.symm, h2.symm, h3.symm⟩, h4.imp_right fun h => ⟨h.1.1, h.1.2, h.2⟩⟩
  · rintro ⟨hq, fresh, ⟨h1, h2, h3⟩, h4⟩
    exact ⟨hq, ⟨fresh, h1.symm, h2.symm, h3.symm⟩, h4.imp_right fun h => ⟨⟨h.1, h.2.1⟩, h.2.2⟩⟩

end Sys2Proof.Machine

namespace Sys2Proof.Claims
open Sys2Proof.Machine

/-- The words of an acknowledged write-back that it has written. -/
def ackedWords (r : Req) : List Nat := (List.range 16).filter fun i => r.mask.getLsbD (4 * i)
theorem bytes_foldl_ackWord (r : Req) (core off : Nat) (ls : List Nat) (s : State) :
    ((ls.foldl (fun s i => s.ackWord r core off i) s).core core).scratch.bytes = (s.core core).scratch.bytes :=
  foldl_keeps (fun t : State => (t.core core).scratch.bytes = (s.core core).scratch.bytes) _ ls
    (fun t i h => (t.bytes_ackWord r core off i).trans h) s rfl

/-- An acknowledged write-back looks at each of its words, and nothing else follows where no probe is held. -/
theorem exec_scratchWbAck {s : State} {id core off : Nat} {r : Req} (found : mget s.fly.reqs id = some r) (op : r.op = .swb core off)
    (back : r.phase = .back) (probes : ∀ p ∈ s.fly.scrProbes, p.2.req ≠ id ∧ p.2.core ≠ core) :
    ∃ u, ScratchOnly (s.dropReq id) u core ∧ (u.core core).scratch = (s.core core).scratch ∧
      exec (.scratchWbAck id) s = .next ((ackedWords r).foldl (fun s i => s.ackWord r core off i) u) := by
  let v := if r.cls = 1 then (s.dropReq id).raisePts core r.who.ctx r.wts else s.dropReq id
  have raised : ScratchOnly (s.dropReq id) v core ∧ (v.core core).scratch = (s.core core).scratch := by
    show ScratchOnly _ (if r.cls = 1 then _ else _) _ ∧ ((if r.cls = 1 then _ else _ : State).core core).scratch = _
    split
    · exact ⟨.raisePts .., State.scratch_raisePts ..⟩
    · exact ⟨.refl .., rfl⟩
  have only := raised.1.trans (.bump v core (ackedWords r).length .swbw)
  have acked := only.trans (.foldl (fun s i => (WordOnly.ackWord s r core off i).toScratchOnly) (ackedWords r) _)
  refine ⟨v.bump core .swbw (ackedWords r).length, only, (v.scratch_bump ..).trans raised.2, ?_⟩
  have free : (s.fly.scrProbes.any fun p => decide (p.2.req = id)) = false :=
    List.any_eq_false.2 fun p hp => by simpa using (probes p hp).1
  have last : ((ackedWords r).foldl (fun s i => s.ackWord r core off i) (v.bump core .swbw (ackedWords r).length)).applyProbes core =
      (ackedWords r).foldl (fun s i => s.ackWord r core off i) (v.bump core .swbw (ackedWords r).length) :=
    State.applyProbes_of_none (by rw [acked.fly]; exact fun p hp => .inl (probes p hp).2)
  show execScratchWbAck id s = _
  rw [← last]
  simp only [execScratchWbAck, found, op, back, free]
  rfl

theorem scratchWbAck {s : State} {id core off i : Nat} {r : Req} {w : MWord} (found : mget s.fly.reqs id = some r)
    (op : r.op = .swb core off) (back : r.phase = .back) (probes : ∀ p ∈ s.fly.scrProbes, p.2.req ≠ id ∧ p.2.core ≠ core) (inside : i < 16)
    (written : r.mask.getLsbD (4 * i) = true) (aligned : off % 4 = 0)
    (there : mget (s.core core).scratch.words (off / 4 + i) = some w) (dirty : w.st = .dirty) :
    ∃ t v, exec (.scratchWbAck id) s = .next t ∧ mget t.fly.reqs id = none ∧ t.mem = s.mem ∧
      (∀ c k, t.group c k = s.group c k) ∧ (t.core core).scratch.bytes = (s.core core).scratch.bytes ∧
      mget (t.core core).scratch.words (off / 4 + i) = some v ∧
      ((∀ b, b < 4 → Bytes.at_ (s.core core).scratch.bytes (off + 4 * i + b) = lineByte r.data (4 * i + b)) → v.st = .clean) ∧
      ((∃ b, b < 4 ∧ Bytes.at_ (s.core core).scratch.bytes (off + 4 * i + b) ≠ lineByte r.data (4 * i + b)) → v.st = .dirty) := by
  have word : (off + 4 * i) / 4 = off / 4 + i := by omega
  rw [← word] at there ⊢
  obtain ⟨u, only, scratch, next⟩ := exec_scratchWbAck found op back probes
  obtain ⟨a, -, same, last⟩ := foldl_words_at (fun s i => WordOnly.ackWord s r core off i)
    (List.nodup_range.filter fun i => r.mask.getLsbD (4 * i)) (List.mem_filter.2 ⟨List.mem_range.2 inside, written⟩) u
  obtain ⟨v, now, st⟩ := State.word_ackWord (r := r) (same.word.trans ((congrArg (fun k : Scratch => mget k.words _) scratch).trans there)) dirty
  have acked := only.trans (.foldl (fun s i => (WordOnly.ackWord s r core off i).toScratchOnly) (ackedWords r) _)
  have kept : a.unchanged r core off i = true ↔
      ∀ b, b < 4 → Bytes.at_ (s.core core).scratch.bytes (off + 4 * i + b) = lineByte r.data (4 * i + b) := by
    rw [State.unchanged_iff]
    exact forall₂_congr fun b hb => by rw [same.bytes b hb, scratch]
  refine ⟨_, v, next, ?_, acked.mem, acked.groups, ?_, last.word.trans now, fun all => ?_, fun ⟨b, hb, changed⟩ => ?_⟩
  · rw [acked.fly]; exact (mget_mdel ..).trans (if_pos rfl)
  · rw [bytes_foldl_ackWord, scratch]
  · rw [st, if_pos (kept.2 all)]
  · rw [st, if_neg fun h => changed (kept.1 h b hb)]

theorem scratchProbe {s : State} {id : Nat} {p : ScrProbe} (found : mget s.fly.scrProbes id = some p)
    (fills : ∀ w, s.fillFor p.core w = false) :
    ∃ t, exec (.scratchProbe id) s = .next t ∧ mget t.fly.scrProbes id = none ∧ t.mem = s.mem ∧
      (∀ c k, t.group c k = s.group c k) ∧
      ∀ n w a, mget (s.core p.core).scratch.words n = some w → w.st = .clean → w.share = some a → p.pa ≤ a → a < p.pa + 64 →
        p.words.getLsbD ((a - p.pa) / 4) = true → mget (t.core p.core).scratch.words n = none := by
  let u := { s with fly := { s.fly with scrProbes := mdel s.fly.scrProbes id } }
  let ws := (s.sharers p.pa p.words).filter fun w => w.1 = p.core
  have cores : ∀ w ∈ ws, w.1 = p.core := fun w hw => by simpa using (List.mem_filter.1 hw).2
  have next : exec (.scratchProbe id) s = .next (ws.foldl (fun s w => s.dropWord w.1 w.2) u) := by
    have free : (ws.any fun w => s.fillFor w.1 w.2) = false := List.any_eq_false.2 fun w hw => by simp [cores w hw, fills]
    show execScratchProbe id s = _
    simp only [execScratchProbe, found]
    exact if_neg (by rw [free]; exact Bool.false_ne_true)
  have only : ScratchOnly u (ws.foldl (fun s w => s.dropWord w.1 w.2) u) p.core :=
    .foldl_mem (fun t w hw => cores w hw ▸ .dropWord t w.1 w.2) u
  refine ⟨_, next, ?_, only.mem, only.groups, fun n w a there clean share low high written => ?_⟩
  · rw [only.fly]; exact (mget_mdel ..).trans (if_pos rfl)
  · have probed : (p.core, n) ∈ ws := List.mem_filter.2 ⟨State.mem_sharers there share low high written, by simp⟩
    refine words_foldl_dropWord cores u (.inr ⟨List.mem_map.2 ⟨_, probed, rfl⟩, ?_⟩)
    show (mget (s.core p.core).scratch.words n).map MWord.st = _
    rw [there]; exact congrArg some clean

theorem haloPushArrival {s : State} {id i : Nat} {p : Push} {w v : Window} {g : Nat × SMapping} (found : mget s.fly.pushes id = some p)
    (travels : p.arrived = false) (window : s.blockWin p.core p.blk = some w) (touches : s.fly.touches = []) (size : p.data.length = p.len)
    (inside : i < p.len / 4) (mapped : s.mapAt p.core (p.dst + 4 * i) = some (v, g)) (blk : v.blk = p.blk) (kind : g.2.kind = .replica)
    (first : s.pushBefore p = false) :
    ∃ t, exec (.haloPushArrival id 0) s = .next t ∧ mget t.fly.pushes id = some { p with taken := true, arrived := true } ∧
      t.mem = s.mem ∧ (∀ c k, t.group c k = s.group c k) ∧
      (mget (t.core p.core).scratch.words ((p.dst + 4 * i) / 4)).map MWord.st = some .clean ∧
      ∀ b, b < 4 → Bytes.at_ (t.core p.core).scratch.bytes (p.dst + 4 * i + b) = p.data.getD (4 * i + b) 0 := by
  obtain ⟨ps, rest⟩ := s.readPush_rest p 0
  have read := s.readPush_fly found
  rw [rest] at read
  let q : Push := { p with taken := true }
  let c := ({ s with fly := { s.fly with pushes := ps } } : State).bump p.owner .shalol (p.len / 64)
  let u : State := { c with fly := { s.fly with pushes := mset ps id { q with arrived := true } } }
  have counted : ScratchOnly { s with fly := { s.fly with pushes := ps } } c p.owner := .bump ..
  have scratch : (u.core p.core).scratch = (s.core p.core).scratch := State.scratch_bump ..
  have same : u.mapAt p.core (p.dst + 4 * i) = some (v, g) := by
    rw [State.mapAt_congr (s := s) (congrArg Scratch.wins scratch)]; exact mapped
  have there : u.blockWin p.core p.blk = some w := by
    rw [State.blockWin_congr (s := s) (congrArg Scratch.wins scratch)]; exact window
  have only := ScratchOnly.pushWords u q (List.range (p.len / 4))
  obtain ⟨clean, bytes⟩ := State.word_pushWords u q inside (by show _ ≤ p.data.length; omega) same blk kind
  have next : exec (.haloPushArrival id 0) s = .next ((List.range (p.len / 4)).foldl (fun s i => s.pushWord q i) u) := by
    have last := State.finishTouches_of_none (s := (List.range (p.len / 4)).foldl (fun s i => s.pushWord q i) u)
      (by rw [only.fly]; exact touches) p.core
    have now : mgetD ps id p = q := by rw [mgetD, read]; rfl
    show execHaloPushArrival id 0 s = _
    rw [← last]
    simp only [execHaloPushArrival, found, travels, first, Bool.or_self, Bool.false_eq_true, if_false, rest, now]
    show (match u.blockWin p.core p.blk with
      | none => Host.Outcome.next u
      | some _ => .next (((List.range (p.len / 4)).foldl (fun (s : State) i => s.pushWord q i) u).finishTouches p.core)) = _
    rw [there]
  refine ⟨_, next, ?_, only.mem.trans counted.mem, fun c k => (only.groups c k).trans (counted.groups c k), clean, bytes⟩
  rw [only.fly]; exact mget_mset_same ..

theorem scratchEventsTakeEffect : ScratchEventsTakeEffect := by
  intro s id
  refine ⟨?_, ?_, ?_, ?_, ?_, ?_, ?_⟩
  · intro u k g touches remote lanes here window maps clean group uid
    have plain := PlainScratch.of_wins maps clean
    exact ⟨fun z d sx op => remoteAccess_sld touches remote lanes here window plain group uid op,
      fun z op => remoteAccess_sst touches remote lanes here window plain group uid op⟩
  · intro f r i v found owner index owners request back touches probes alive inside kept mapped wants
    exact scratchFillLand found owner index owners request back touches probes alive inside kept (by rw [mapped]; rfl) wants
  · intro r core off i w found op back probes inside written aligned there dirty
    exact scratchWbAck found op back probes inside written aligned there dirty
  · exact fun p found fills => scratchProbe found fills
  · intro p w i v g found travels window touches size inside mapped blk kind others
    refine haloPushArrival found travels window touches size inside mapped blk kind (Bool.eq_false_iff.2 fun before => ?_)
    obtain ⟨q, hq, fresh, range, order⟩ := (State.pushBefore_iff s p).1 before
    obtain later | ⟨same, high⟩ | ⟨earlier, elsewhere⟩ := others q hq fresh range
    · omega
    · omega
    · obtain ⟨same, -⟩ | ⟨-, core, dst⟩ := order
      · omega
      · exact elsewhere (by rw [core, dst])
  · intro p q k late found other fresh range path order
    have before : s.pushBefore p = true := (State.pushBefore_iff s p).2 ⟨_, mem_of_mget other, fresh, range, .inl ⟨path, order⟩⟩
    show execHaloPushArrival id late s = _
    simp [execHaloPushArrival, found, before]
  · intro p found arrived
    show execHaloPushDone id s = _
    simp [execHaloPushDone, found, arrived]

end Sys2Proof.Claims

namespace Sys2Proof.Proofs
open Sys2Proof.Claims

/-- Settles O23: an access takes effect through its lanes' runs of bytes, an event through one word at a time. -/
theorem scratchAccessesAndEvents : Obligations.ScratchAccessesAndEvents :=
  ⟨scratchAccesses, remoteScratchAccesses, scratchEventsTakeEffect⟩

end Sys2Proof.Proofs
end

section
/-! No access of an agent changes what scratch accesses are in flight. -/
namespace Sys2Proof.Machine

theorem State.touches_foldl {α : Type} {f : State → α → State} (h : ∀ s a, (f s a).fly.touches = s.fly.touches) (l : List α) (s : State) :
    (l.foldl f s).fly.touches = s.fly.touches :=
  foldl_keeps (fun t : State => t.fly.touches = s.fly.touches) f l (fun t a ht => (h t a).trans ht) s rfl
/-- The state that comes with an answer. -/
theorem State.touches_of_snd {α : Type} {s u : State} {r : α × State} {x : α} (e : r = (x, u)) (h : r.2.fly.touches = s.fly.touches) :
    u.fly.touches = s.fly.touches := by rw [e] at h; exact h

/-! ### Lines -/

@[simp] theorem State.touches_landWb (s : State) (pa : Nat) : (s.landWb pa).fly.touches = s.fly.touches := by
  unfold State.landWb; split <;> rfl
@[simp] theorem State.touches_cleanLine (s : State) (pa : Nat) : (s.cleanLine pa).fly.touches = s.fly.touches := by
  unfold State.cleanLine
  dsimp only
  split
  · exact s.touches_landWb pa
  · exact s.touches_landWb pa
@[simp] theorem State.touches_dropCopy (s : State) (c pa : Nat) : (s.dropCopy c pa).fly.touches = s.fly.touches := by
  unfold State.dropCopy
  split
  · rw [State.modCore_fly]; split <;> simp
  · rfl
@[simp] theorem State.touches_reclaim (s : State) (pa : Nat) : (s.reclaim pa).fly.touches = s.fly.touches := by
  have dropped (l : Map Core) (u : State) : (l.foldl (fun s p => s.dropCopy p.1 pa) u).fly.touches = u.fly.touches :=
    State.touches_foldl (fun s p => s.touches_dropCopy p.1 pa) l u
  unfold State.reclaim
  dsimp only
  split
  · exact (dropped _ _).trans (s.touches_cleanLine pa)
  · exact (dropped _ _).trans (s.touches_cleanLine pa)
@[simp] theorem State.touches_agentLine (s : State) (ctx pa : Nat) : (s.agentLine ctx pa).2.fly.touches = s.fly.touches := by
  unfold State.agentLine; split <;> simp
@[simp] theorem State.touches_dropWord (s : State) (c w : Nat) : (s.dropWord c w).fly.touches = s.fly.touches := by
  rw [(ScratchOnly.dropWord s c w).fly]
@[simp] theorem State.touches_probeScratch (s : State) (pa : Nat) (ws : BitVec 16) (req : Nat) (own : Option (Nat × Nat)) :
    (s.probeScratch pa ws req own).fly.touches = s.fly.touches :=
  State.touches_foldl (fun s w => by
    dsimp only
    split
    · rfl
    · exact s.touches_dropWord ..) _ s
@[simp] theorem State.touches_evictSlice (s : State) (vict : Nat) : (s.evictSlice vict).fly.touches = s.fly.touches := by
  unfold State.evictSlice
  split
  · rfl
  split
  · rfl
  · exact s.touches_reclaim (vict - 1)
@[simp] theorem State.touches_takeSline (s : State) (pa : Nat) (f : SliceLine → SliceLine) :
    (s.takeSline pa f).fly.touches = s.fly.touches := by
  show (s.makeRoom (lineAddr pa)).fly.touches = _
  unfold State.makeRoom
  dsimp only
  split
  · rfl
  split
  · rfl
  · exact State.touches_evictSlice ..
theorem State.touches_overtake (s : State) (pa : Nat) : (s.overtake pa).fly.touches = s.fly.touches := rfl
theorem State.touches_patchFills (s : State) (pa : Nat) (d : Line) (m : BitVec 64) (p : BitVec 16) :
    (s.patchFills pa d m p).fly.touches = s.fly.touches := rfl
theorem State.touches_setMem (s : State) (m : Memory) : { s with mem := m }.fly.touches = s.fly.touches := rfl
@[simp] theorem State.touches_homeStore (s : State) (ctx pa cls : Nat) (d : Line) (m : BitVec 64) (p : BitVec 16) (t : Nat) :
    (s.homeStore ctx pa cls d m p t).fly.touches = s.fly.touches := by
  unfold State.homeStore
  split
  · rfl
  have told : ((((s.reclaim pa).overtake pa).probeScratch pa (wordsTouched m) 0).patchFills pa d m p).fly.touches = s.fly.touches := by
    rw [State.touches_patchFills, State.touches_probeScratch, State.touches_overtake, State.touches_reclaim]
  dsimp only
  split
  · rw [State.touches_takeSline, State.touches_setMem, told]
  · rw [State.touches_setMem, told]

/-! ### Translation and events -/

@[simp] theorem State.touches_walkLeaf (s : State) (ctx table va : Nat) : (s.walkLeaf ctx table va).2.fly.touches = s.fly.touches := by
  unfold State.walkLeaf State.entry
  dsimp only
  split_ifs <;> simp
@[simp] theorem State.touches_walkFrom (s : State) (ctx va n table : Nat) : (s.walkFrom ctx va n table).2.fly.touches = s.fly.touches := by
  induction n generalizing s table with
  | zero => exact s.touches_walkLeaf ctx table va
  | succ n ih =>
    rw [State.walkFrom, State.entry]
    dsimp only
    generalize table + 8 * (if n = 2 then bits va 43 6 else if n = 1 then bits va 34 9 else bits va 25 9) = at_
    split_ifs <;> simp [ih]
theorem State.touches_quietTranslate (s : State) (ctx va : Nat) (a : Access) :
    (State.quietTranslate s ctx va a).2.fly.touches = s.fly.touches := s.touches_walkFrom ..
theorem State.touches_checkBy (s : State) (ctx : Nat) (a : Access) (cl : List Nat) (l : List (Nat × Nat × Nat)) :
    (s.checkBy State.quietTranslate ctx a cl l).2.fly.touches = s.fly.touches := by
  induction l generalizing s with
  | nil => rfl
  | cons p t ih =>
    obtain ⟨va, o, n⟩ := p
    rw [State.checkBy]
    split
    · rfl
    split
    · next e => exact State.touches_of_snd e (s.touches_quietTranslate ..)
    · next e =>
      have here := State.touches_of_snd e (s.touches_quietTranslate ..)
      split
      · exact here
      split
      · next e => exact (State.touches_of_snd e (ih _)).trans here
      · next e => exact (State.touches_of_snd e (ih _)).trans here
theorem State.touches_agentPut (s : State) (ctx t : Nat) (l : List (Nat × Nat × Nat × Nat)) (bs : List Byte) :
    (s.agentPut State.homeStore ctx t l bs).fly.touches = s.fly.touches := by
  induction l generalizing s bs with
  | nil => rfl
  | cons p l ih => exact (ih ..).trans (State.touches_homeStore ..)
theorem State.touches_writeBy (s : State) (ctx : Nat) (a : Access) (cl : List Nat) (va : Nat) (bs : List Byte) (t : Nat) :
    (s.writeBy State.quietTranslate State.homeStore ctx a cl va bs t).2.fly.touches = s.fly.touches := by
  unfold State.writeBy
  split
  · next e => exact State.touches_of_snd e (State.touches_checkBy ..)
  · next e => exact (State.touches_agentPut ..).trans (State.touches_of_snd e (State.touches_checkBy ..))
@[simp] theorem State.touches_postEvent (s : State) (ctx code a b w1 d1 d2 : Nat) :
    (s.postEvent ctx code a b w1 d1 d2).fly.touches = s.fly.touches := by
  unfold State.postEvent
  dsimp only
  split
  · rfl
  split
  · next e => rw [State.modCtx_fly, State.touches_of_snd e (State.touches_writeBy ..)]
  · next e => rw [State.modCtx_fly, State.touches_of_snd e (State.touches_writeBy ..)]

end Sys2Proof.Machine
end

section
/-! Asking for the fills of scratch changes no group and no scratch access in flight (R176, R179, R214). -/
namespace Sys2Proof.Machine

/-- Every group, and every scratch access in flight, is as it was. -/
structure Seated (s t : State) : Prop where
  groups : ∀ c k, t.group c k = s.group c k
  touches : t.fly.touches = s.fly.touches

namespace Seated
variable {s t u : State}

theorem refl (s : State) : Seated s s := ⟨fun _ _ => rfl, rfl⟩
theorem trans (h : Seated s t) (g : Seated t u) : Seated s u :=
  ⟨fun c k => (g.groups c k).trans (h.groups c k), g.touches.trans h.touches⟩
theorem of_still (still : t.still = s.still) (touches : t.fly.touches = s.fly.touches) : Seated s t :=
  ⟨State.group_of_still still, touches⟩
theorem of_fly (s : State) {f : Flight} (same : f.touches = s.fly.touches) : Seated s { s with fly := f } := ⟨fun _ _ => rfl, same⟩
theorem ite {p : Prop} [Decidable p] (h : Seated s t) (g : Seated s u) : Seated s (if p then t else u) := by
  split
  · exact h
  · exact g
theorem foldl {α : Type} {f : State → α → State} (h : ∀ s a, Seated s (f s a)) (l : List α) (s : State) : Seated s (l.foldl f s) :=
  foldl_keeps (Seated s ·) f l (fun t a g => g.trans (h t a)) s (.refl s)
/-- The state that comes with an answer. -/
theorem of_snd {α : Type} {r : α × State} {x : α} (e : r = (x, u)) (h : Seated s r.2) : Seated s u := by rw [e] at h; exact h

theorem modCluster (s : State) (k : Nat) (f : Cluster → Cluster) : Seated s (s.modCluster k f) := ⟨fun _ _ => rfl, rfl⟩
theorem modCore (s : State) (c : Nat) {f : Core → Core} (h : ∀ k, (f k).groups = k.groups ∧ (f k).pts = k.pts := by
    exact fun _ => ⟨rfl, rfl⟩) : Seated s (s.modCore c f) := .of_still (s.still_modCore c h) rfl
theorem bump (s : State) (c n : Nat) (x : Ctr) : Seated s (s.bump c x n) := .of_still (s.still_bump c n x) (by rw [State.bump_fly])
theorem bumpK (s : State) (k n : Nat) (x : Ctr) : Seated s (s.bumpK k x n) := by
  unfold State.bumpK; split
  · exact .refl s
  · exact .modCluster ..
theorem walkFrom (s : State) (ctx va n table : Nat) : Seated s (s.walkFrom ctx va n table).2 :=
  .of_still (s.still_walkFrom ..) (s.touches_walkFrom ..)
theorem postEvent (s : State) (ctx code a b w1 d1 d2 : Nat) : Seated s (s.postEvent ctx code a b w1 d1 d2) :=
  .of_still (s.still_postEvent ..) (s.touches_postEvent ..)

/-! ### Walks -/

theorem fillWalk (s : State) (k ctx va n lv table : Nat) : Seated s (s.fillWalk k ctx va n lv table) := by
  induction n generalizing s lv table with
  | zero => exact .refl s
  | succ n ih =>
    rw [State.fillWalk]
    dsimp only
    generalize table + 8 * (if lv = 0 then bits va 43 6 else if lv = 1 then bits va 34 9 else bits va 25 9) = at_
    split
    · exact .refl s
    · split
      · exact .refl s
      · exact (modCluster s k _).trans (ih ..)
theorem walkFast (s : State) (k ctx va : Nat) : Seated s (s.walkFast k ctx va).2 := by
  unfold State.walkFast
  split
  · exact (fillWalk ..).trans (.walkFrom ..)
  · exact (fillWalk ..).trans (.walkFrom ..)
theorem endWalk (s : State) (id : Nat) (w : Walk) : Seated s (s.endWalk id w).2 := by
  have gone : Seated s { s with fly := { s.fly with walks := mdel s.fly.walks id } } := .of_fly s rfl
  have walked := gone.trans (.walkFast _ w.cluster w.ctx (w.page * 2 ^ 16))
  unfold State.endWalk
  dsimp only
  split
  · next e => exact ((walked.of_snd e).trans (.modCluster ..)).trans (.foldl (fun s c => .modCore s c) _ _)
  · next e =>
    refine (walked.of_snd e).trans ?_
    split
    · exact (postEvent ..).trans (.of_fly _ rfl)
    · exact .of_fly _ rfl
theorem takeMiss (s : State) (h : HeldMiss) : Seated s (s.takeMiss h) := by
  unfold State.takeMiss
  dsimp only
  split
  · refine .trans ?_ (bumpK ..)
    exact .of_fly s rfl
  · refine .trans ?_ (bumpK ..)
    exact ⟨fun _ _ => rfl, rfl⟩
theorem takeHeld (s : State) (k : Nat) (l : List HeldMiss) : Seated s (s.takeHeld k l) := by
  induction l generalizing s with
  | nil => exact .refl s
  | cons h t ih =>
    rw [State.takeHeld]
    split
    · refine .trans (.trans ?_ (takeMiss ..)) (ih _)
      exact .of_fly s rfl
    · exact ih s
theorem nextWalks (s : State) (k : Nat) : Seated s (s.nextWalks k) := by
  unfold State.nextWalks
  dsimp only
  split
  · refine .trans (.trans ?_ (bumpK ..)) (takeHeld ..)
    exact .of_fly s rfl
  · exact .takeHeld ..
theorem walkFor (s : State) (k ctx va : Nat) (cores : List Nat) : Seated s (s.walkFor k ctx va cores).2 := by
  have next (t : State) (b : Prop) [Decidable b] : Seated t (if b then t.nextWalks k else t) := .ite (.nextWalks ..) (.refl t)
  unfold State.walkFor
  dsimp only
  split
  · exact .foldl (fun s c => .modCore s c) _ s
  · have missed := bumpK s k 1 .l2tlbm
    split
    · exact (((missed.trans (.bumpK ..)).trans (.bumpK ..)).trans (.endWalk ..)).trans (next ..)
    · refine (missed.trans ?_).trans (next ..)
      refine Seated.trans ?_ ((bumpK ..).trans (.endWalk ..))
      split
      · exact .endWalk ..
      · exact .refl _

/-! ### Fills -/

theorem fillTranslate (s : State) (core ctx va : Nat) (write : Bool) : Seated s (s.fillTranslate core ctx va write).2 := by
  unfold State.fillTranslate
  dsimp only
  split
  · exact .refl s
  · have walked := (bump s core 1 .l1tlbm).trans (.walkFor _ (clusterOf core) ctx va [core])
    split
    · next e => exact walked.of_snd e
    · next e => exact walked.of_snd e
theorem knownTranslate (s : State) (known : List (Nat × DWord)) (core ctx va : Nat) :
    Seated s (s.knownTranslate known core ctx va).2 := by
  unfold State.knownTranslate
  split
  · exact .refl s
  · exact .fillTranslate ..
theorem addFill (s : State) (f : Fill) : Seated s (s.addFill f) := ⟨fun _ _ => rfl, rfl⟩
/-- A fill that no split is told of. -/
theorem startFill (s : State) (known : List (Nat × DWord)) (n core off : Nat) : Seated s (s.startFill none known n core off) := by
  induction n generalizing s core off with
  | zero => exact .refl s
  | succ n ih =>
    rw [State.startFill]
    split
    · exact .refl s
    · dsimp only
      split
      · exact .refl s
      split
      · exact .refl s
      · exact .refl s
      · exact .refl s
      · exact .refl s
      · exact .ite (.addFill ..) ((addFill ..).trans (ih ..))
      · exact .ite (.addFill ..) ((addFill ..).trans (ih ..))
      · split
        · exact .refl s
        split
        · next e => exact (knownTranslate ..).of_snd e
        · next e => exact ((knownTranslate ..).of_snd e).trans ⟨fun _ _ => rfl, rfl⟩
theorem askFills (s : State) (core off n : Nat) : Seated s (s.askFills core off n) :=
  .foldl (fun s _ => .ite (.startFill ..) (.refl s)) _ s

/-- The groups after an instruction that has asked for fills, and then completes. -/
theorem otherGroups_done (h : Seated s t) (x : Ex) (n : Nat) : Claims.OtherGroups s (t.done x n id) x :=
  fun c k other => (t.group_done_ne x n id other).trans (h.groups c k)
theorem group_done (h : Seated s t) {x : Ex} (running : s.running = some x) (n : Nat) :
    (t.done x n id).group x.core x.slot = some (Claims.after x n) := by
  rw [State.done, State.group_modGroup, if_pos ⟨rfl, rfl⟩, h.groups, ((s.running_iff x).1 running).2.1]; rfl
end Seated

end Sys2Proof.Machine
end

section
/-! The state operations of the mapping instructions: windows, entries and mapped words (R174 to R178, R197 to R202). -/
namespace Sys2Proof.Machine

/-! ### Operations on the cores beside their groups -/

/-- Only the cores have changed, and there no group; ids, times and counters apart. -/
structure CoresOnly (s t : State) : Prop where
  groups : ∀ c k, t.group c k = s.group c k
  mem : t.mem = s.mem
  fly : t.fly = s.fly

namespace CoresOnly
variable {s t u : State}

theorem refl (s : State) : CoresOnly s s := ⟨fun _ _ => rfl, rfl, rfl⟩
theorem trans (h : CoresOnly s t) (g : CoresOnly t u) : CoresOnly s u :=
  ⟨fun c k => (g.groups c k).trans (h.groups c k), g.mem.trans h.mem, g.fly.trans h.fly⟩
theorem of_scratch {core : Nat} (h : ScratchOnly s t core) : CoresOnly s t := ⟨h.groups, h.mem, h.fly⟩
theorem modCore (s : State) (c : Nat) {f : Core → Core} (h : ∀ k, (f k).groups = k.groups := by exact fun _ => rfl) :
    CoresOnly s (s.modCore c f) where
  groups b k := by
    obtain rfl | hb := eq_or_ne b c
    · simp [State.group, h]
    · simp [State.group, State.core_modCore_ne _ _ hb]
  mem := rfl
  fly := rfl
theorem modWindow (s : State) (core blk : Nat) (f : Window → Window) : CoresOnly s (s.modWindow core blk f) := .modCore ..
theorem installMap (s : State) (core blk g off : Nat) (m : SMapping) : CoresOnly s (s.installMap core blk g off m) :=
  (CoresOnly.modCore s core).trans (.modWindow ..)

theorem seated (h : CoresOnly s t) : Seated s t := ⟨h.groups, by rw [h.fly]⟩
end CoresOnly

/-! ### Windows and entries -/

/-- A window that stands alone in its table, changed by its block. -/
theorem State.wins_modWindow {s : State} {core i blk : Nat} {w : Window} (wins : (s.core core).scratch.wins = [(i, w)]) (own : w.blk = blk)
    (f : Window → Window) : ((s.modWindow core blk f).core core).scratch = { (s.core core).scratch with wins := [(i, f w)] } := by
  rw [State.modWindow, State.core_modCore_same, wins]
  simp [mall, own]
/-- What the core's scratch is once an entry has been installed. -/
theorem State.scratch_installMap {s : State} {core i blk : Nat} {w : Window} (wins : (s.core core).scratch.wins = [(i, w)])
    (own : w.blk = blk) (g off : Nat) (m : SMapping) : ((s.installMap core blk g off m).core core).scratch =
      { (s.core core).scratch with
        bytes := mkeep (s.core core).scratch.bytes fun a _ => decide (a < off ∨ off + m.n ≤ a)
        poison := mkeep (s.core core).scratch.poison fun a _ => decide (4 * a < off ∨ off + m.n ≤ 4 * a)
        words := mkeep (s.core core).scratch.words fun a _ => decide (4 * a < off ∨ off + m.n ≤ 4 * a)
        wins := [(i, { w with maps := mset w.maps g m })] } := by
  rw [State.installMap]
  refine (State.wins_modWindow (i := i) (w := w) ?_ own _).trans ?_
  · rw [State.core_modCore_same]; exact wins
  · rw [State.core_modCore_same]
/-- No core has a halo registration of a block's entry, and no other part of a core has changed. -/
theorem State.core_dropHalo (s : State) (f : Halo → Bool) (c : Nat) : (s.dropHalo f).core c =
    { s.core c with scratch := { (s.core c).scratch with halo := mkeep (s.core c).scratch.halo fun _ h => !f h } } := by
  unfold State.dropHalo State.core mgetD
  rw [mget_mall]
  cases mget s.cores c <;> rfl
theorem CoresOnly.dropHalo (s : State) (f : Halo → Bool) : CoresOnly s (s.dropHalo f) where
  groups c k := by rw [State.group, State.core_dropHalo]; rfl
  mem := rfl
  fly := rfl

/-! ### Words of a range -/

theorem mem_wordOffs (a off n : Nat) : 4 * a ∈ wordOffs off n ↔ off / 4 ≤ a ∧ a < (off + n + 3) / 4 := by
  simp only [wordOffs, List.mem_map, List.mem_range]
  constructor
  · rintro ⟨i, hi, eq⟩; omega
  · rintro ⟨low, high⟩; exact ⟨a - off / 4, by omega, by omega⟩

/-- A range becomes plain scratch: no window changes, and no word of it has a state. -/
theorem ScratchOnly.plainRange (s : State) (core off n : Nat) : ScratchOnly s (s.plainRange core off n) core :=
  .foldl (fun s o => by
    dsimp only
    refine .trans ?_ (.modCore ..)
    split
    · exact .refl ..
    · exact (ScratchOnly.putScr ..).trans (.setScrPoison ..)) _ s
theorem State.words_plainRange (s : State) (core off n : Nat) : ((s.plainRange core off n).core core).scratch.words =
    (wordOffs off n).foldl (fun m o => mdel m (o / 4)) (s.core core).scratch.words := by
  unfold State.plainRange
  generalize wordOffs off n = ls
  induction ls generalizing s with
  | nil => rfl
  | cons o t ih =>
    rw [List.foldl_cons, List.foldl_cons, ih, State.core_modCore_same]
    split <;> simp
theorem State.word_plainRange (s : State) {core off n a : Nat} (inside : 4 * a ∈ wordOffs off n) :
    mget ((s.plainRange core off n).core core).scratch.words a = none := by
  rw [State.words_plainRange, mget_foldl_mdel fun o => o / 4]
  exact if_pos (List.mem_map.2 ⟨4 * a, inside, by omega⟩)

/-- Words become ABSENT where no fill is in flight. -/
theorem State.dropWords_of_no_fill {s : State} (fills : s.fly.fills = []) (core : Nat) (offs : List Nat) :
    s.dropWords core offs = s.modCore core fun k => { k with scratch := { k.scratch with
      words := mkeep k.scratch.words fun w _ => !offs.contains (4 * w) } } := by
  have kept (f : Nat → Fill → Fill) : mall s.fly.fills f = s.fly.fills := by rw [fills]; rfl
  simp only [State.dropWords, State.modCore_fly, kept]
  rfl
theorem ScratchOnly.dropWords {s : State} (fills : s.fly.fills = []) (core : Nat) (offs : List Nat) :
    ScratchOnly s (s.dropWords core offs) core := by
  rw [State.dropWords_of_no_fill fills]; exact .modCore ..
theorem State.scratch_dropWords {s : State} (fills : s.fly.fills = []) (core : Nat) (offs : List Nat) :
    ((s.dropWords core offs).core core).scratch =
      { (s.core core).scratch with words := mkeep (s.core core).scratch.words fun w _ => !offs.contains (4 * w) } := by
  rw [State.dropWords_of_no_fill fills, State.core_modCore_same]
theorem State.word_dropWords {s : State} (fills : s.fly.fills = []) (core : Nat) (offs : List Nat) (a : Nat) :
    mget ((s.dropWords core offs).core core).scratch.words a =
      if 4 * a ∈ offs then none else mget (s.core core).scratch.words a := by
  rw [State.scratch_dropWords fills]
  dsimp only
  rw [mget_mkeep_keys _ (fun w => !offs.contains (4 * w))]
  by_cases inside : 4 * a ∈ offs <;> simp [inside]

/-! ### A gathered range (R202) -/

theorem WordOnly.zeroWord (s : State) (core off : Nat) : WordOnly s (s.zeroWord core off) core off := .putWord s core off (by decide) _ _
/-- Words set to 0, each at its number. -/
def State.zeroWords (s : State) (core : Nat) (ws : List Nat) : State := ws.foldl (fun s a => s.zeroWord core (4 * a)) s
/-- The numbers of the words of n bytes. -/
def wordNums (off n : Nat) : List Nat := (List.range ((off + n + 3) / 4 - off / 4)).map (off / 4 + ·)
theorem mem_wordNums (a off n : Nat) : a ∈ wordNums off n ↔ off / 4 ≤ a ∧ a < (off + n + 3) / 4 := by
  simp only [wordNums, List.mem_map, List.mem_range]
  constructor
  · rintro ⟨i, hi, eq⟩; omega
  · rintro ⟨low, high⟩; exact ⟨a - off / 4, by omega, by omega⟩
theorem nodup_wordNums (off n : Nat) : (wordNums off n).Nodup :=
  List.nodup_range.map fun _ _ eq => Nat.add_left_cancel eq

theorem State.gather_eq (s : State) (core off n rows : Nat) : s.gather core off n rows =
    (s.dropWords core (wordOffs off n)).zeroWords core (wordNums (off + rows) (n - rows)) := by
  unfold State.gather State.zeroWords wordOffs wordNums
  rw [List.foldl_map, List.foldl_map]
theorem ScratchOnly.zeroWords (s : State) (core : Nat) (ws : List Nat) : ScratchOnly s (s.zeroWords core ws) core :=
  .foldl (fun s _ => .zeroWord s core _) ws s
theorem State.word_zeroWords_elsewhere (s : State) (core : Nat) {ws : List Nat} {a : Nat} (out : a ∉ ws) :
    mget ((s.zeroWords core ws).core core).scratch.words a = mget (s.core core).scratch.words a := by
  have same := (foldl_words_elsewhere (o := 0) (f := fun s a => s.zeroWord core (4 * a))
    (fun s a => by rw [Nat.zero_add]; exact .zeroWord ..) out s).word
  rwa [show (0 + 4 * a) / 4 = a by omega] at same
theorem State.word_zeroWords (s : State) (core : Nat) {ws : List Nat} {a : Nat} (distinct : ws.Nodup) (inside : a ∈ ws) :
    (mget ((s.zeroWords core ws).core core).scratch.words a).map MWord.st = some .clean ∧
    ∀ b, b < 4 → Bytes.at_ ((s.zeroWords core ws).core core).scratch.bytes (4 * a + b) = 0 := by
  obtain ⟨u, -, -, last⟩ := foldl_words_at (o := 0) (f := fun s a => s.zeroWord core (4 * a))
    (fun s a => by rw [Nat.zero_add]; exact .zeroWord ..) distinct inside s
  rw [Nat.zero_add] at last
  have number : 4 * a / 4 = a := by omega
  refine ⟨?_, fun b hb => ?_⟩
  · have word := last.word
    rw [number] at word
    refine (congrArg (Option.map MWord.st) word).trans ?_
    have put := u.word_putWord core (4 * a) [0, 0, 0, 0] false { st := .clean }
    rw [number] at put
    exact congrArg (Option.map MWord.st) put
  · refine (last.bytes b hb).trans ((u.byte_putWord core (4 * a) (bs := [0, 0, 0, 0]) (by simpa using hb) false { st := .clean }).trans ?_)
    match b, hb with
    | 0, _ | 1, _ | 2, _ | 3, _ => rfl

end Sys2Proof.Machine
end

section
/-! SMAP and SUNMAP (R174, R176, R185, R197 to R199). -/
namespace Sys2Proof.Claims
open Sys2Proof.Machine

section
variable {s : State} {x : Ex} {i : Nat} {w : Window} (own : OwnWindow s x i w)
include own

theorem OwnWindow.window : s.blockWin x.core x.gr.blk = some w := by
  rw [State.blockWin, own.wins]
  simp [own.blk]
theorem OwnWindow.place {e n st : Nat} (inside : InOwn e n st w) : s.scrAddr x.scr e n = .at_ x.core (w.off + st) := by
  obtain ⟨field, offset, fits⟩ := inside
  rw [State.scrAddr_own own.window field (by omega), offset]
/-- A range of the block's window passes the check of the mapping instructions. -/
theorem OwnWindow.inWindow {e n st : Nat} (inside : InOwn e n st w) (k : Window → Nat → Out) :
    inWindow s x e n k = k w (w.off + st) := by
  have covers : w.covers (w.off + st) n = true := by
    obtain ⟨-, -, fits⟩ := inside
    simp [Window.covers]; omega
  rw [Machine.inWindow, own.place inside, own.window]
  exact if_pos ⟨rfl, covers⟩

theorem OwnWindow.pushHalos (f : Halo → Bool) : s.pushHalos x f = s := by
  rw [State.pushHalos, own.window, own.halo]; rfl

/-! ### SMAP -/

/-- What an installed entry leaves: the entries, and the words of its range. -/
theorem OwnWindow.mapped_installMap (running : s.running = some x) {u : State} (only : CoresOnly s u)
    (wins : (u.core x.core).scratch.wins = [(i, w)]) (g off n : Nat) (m : SMapping) :
    let t := (u.installMap x.core x.gr.blk g off m).done x n id
    Mapped s t x n i w (mset w.maps g m) ∧
    (∀ a, off ≤ 4 * a → 4 * a + 4 ≤ off + m.n → mget (t.core x.core).scratch.words a = none) ∧
    (t.core x.core).scratch.halo = (u.core x.core).scratch.halo := by
  intro t
  have installed := only.trans (.installMap u x.core x.gr.blk g off m)
  have scratch : (t.core x.core).scratch = _ := (State.scratch_done ..).trans (State.scratch_installMap wins own.blk g off m)
  rw [scratch]
  refine ⟨⟨installed.mem, installed.seated.otherGroups_done x n, installed.seated.group_done running n, by rw [scratch]⟩,
    fun a low high => ?_, rfl⟩
  exact (mget_mkeep_keys _ (fun a => decide (4 * a < off ∨ off + m.n ≤ 4 * a)) a).trans (if_neg (by simp; omega))

end

/-- The machine with other halo entries in a core's table. -/
def withHalo (s : State) (core : Nat) (h : Map Halo) : State :=
  s.modCore core fun k => { k with scratch := { k.scratch with halo := h } }
theorem scratch_withHalo (s : State) (core : Nat) (h : Map Halo) :
    ((withHalo s core h).core core).scratch = { (s.core core).scratch with halo := h } := by rw [withHalo, State.core_modCore_same]
theorem toW_toNat (v : Word) : toW v.toNat = v := BitVec.ofNat_toNat ..

section
variable {s : State} {x : Ex} {i st : Nat} {w : Window} (running : s.running = some x) (own : OwnWindow s x i w) {o : SmapO}
  (inside : InOwn (x.uni.sr o.a.toNat).toNat 1 st w)
include running own inside

/-- SMAP of an entry in use. -/
theorem exec_smap_of_used (used : mget w.maps o.n.toNat ≠ none) :
    exec (.smap o) s = trapAt s x 9 x.sp.mask (x.uni.sr o.a.toNat) 5 := by
  show execSmap o s = _
  rw [execSmap, onSplit_running _ running]
  refine (own.inWindow inside _).trans ((if_pos (Option.isSome_iff_ne_none.2 used)).trans ?_)
  rw [mapFault, toW_toNat]; rfl
/-- SMAP of a range that is not aligned. -/
theorem exec_smap_of_misaligned (free : mget w.maps o.n.toNat = none) (odd : st % 64 ≠ 0) :
    exec (.smap o) s = trapAt s x 9 x.sp.mask (x.uni.sr o.a.toNat) 4 := by
  show execSmap o s = _
  rw [execSmap, onSplit_running _ running]
  refine (own.inWindow inside _).trans ((if_neg (by simp [free])).trans ?_)
  rw [Nat.add_sub_cancel_left]
  refine (if_pos (.inl odd)).trans ?_
  rw [mapFault, toW_toNat]; rfl

variable (free : mget w.maps o.n.toNat = none) (aligned : st % 64 = 0) (whole : o.len.toNat % 64 = 0) (long : 64 ≤ o.len.toNat)
  (fits : st + o.len.toNat ≤ w.len) (apart : ∀ m ∈ w.maps, ¬(m.2.s < st + o.len.toNat ∧ st < m.2.s + m.2.n))
include free aligned whole long fits apart

/-- SMAP of a free entry over global memory. -/
theorem exec_smap_global (kind : o.k.toNat < 2) (base : (x.uni.pair o.b.toNat).toNat % 64 = 0)
    (address : canonical (x.uni.pair o.b.toNat) = true) : exec (.smap o) s =
      .next ((s.installMap x.core x.gr.blk o.n.toNat (w.off + st)
        ⟨if o.k = 1 then .ro else .rw, st, o.len.toNat, (x.uni.pair o.b.toNat).toNat⟩).done x 8 id) := by
  have clear : (w.maps.any fun m => decide (m.2.s < st + o.len.toNat ∧ st < m.2.s + m.2.n)) = false :=
    List.any_eq_false.2 fun m hm => by simpa using apart m hm
  have global : ¬ o.k = 2 := by rintro eq; rw [eq] at kind; exact absurd kind (by decide)
  show execSmap o s = _
  rw [execSmap, onSplit_running _ running]
  refine (own.inWindow inside _).trans ((if_neg (by simp [free])).trans ?_)
  rw [Nat.add_sub_cancel_left]
  refine (if_neg (by rw [clear]; simp; omega)).trans ((if_neg global).trans ((if_neg (by omega)).trans (if_neg (by simp [address]))))
/-- SMAP of a free entry as a replica of a range of the block's own window. -/
theorem exec_smap_replica (kind : o.k.toNat = 2) (field : (x.uni.sr o.b.toNat).toNat / 2 ^ 20 = 31)
    (range : (x.uni.sr o.b.toNat).toNat % 2 ^ 20 + o.len.toNat ≤ w.len) (base : (w.off + (x.uni.sr o.b.toNat).toNat) % 64 = 0) :
    let ow := w.off + (x.uni.sr o.b.toNat).toNat % 2 ^ 20
    exec (.smap o) s =
      .next (((withHalo s x.core [(0, { off := ow, len := o.len.toNat, ctx := x.gr.ctx, core := x.core, blk := x.gr.blk, g := o.n.toNat,
                                        dst := w.off + st })]).installMap x.core x.gr.blk o.n.toNat (w.off + st)
        ⟨.replica, st, o.len.toNat, 512 * ow + x.core⟩).done x 8 id) := by
  intro ow
  have clear : (w.maps.any fun m => decide (m.2.s < st + o.len.toNat ∧ st < m.2.s + m.2.n)) = false :=
    List.any_eq_false.2 fun m hm => by simpa using apart m hm
  have replica : o.k = 2 := BitVec.eq_of_toNat_eq kind
  have owner : s.scrAddr x.scr (x.uni.sr o.b.toNat).toNat o.len.toNat = .at_ x.core ow := own.place ⟨field, rfl, range⟩
  have even : ow % 64 = 0 := by omega
  show execSmap o s = _
  rw [execSmap, onSplit_running _ running]
  refine (own.inWindow inside _).trans ((if_neg (by simp [free])).trans ?_)
  rw [Nat.add_sub_cancel_left]
  refine (if_neg (by rw [clear]; simp; omega)).trans ((if_pos replica).trans ?_)
  dsimp only
  rw [owner]
  refine (if_neg (by omega)).trans ?_
  rw [own.halo]
  rfl
end

/-! ### SUNMAP -/

section
variable {s : State} {x : Ex} {i : Nat} {w : Window} (own : OwnWindow s x i w) (flushed : Flushed s x)
include own flushed

theorem Flushed.dirtyLines (f : Nat → Nat → Bool) : s.dirtyLines x.core x.gr.blk f = [] := by
  have none (g : Nat × MWord → Option (Nat × Nat)) (skip : ∀ p, p.2.st ≠ .dirty → g p = none) :
      (s.core x.core).scratch.words.filterMap g = [] :=
    List.filterMap_eq_nil_iff.2 fun p hp => skip p (flushed.words p hp)
  rw [State.dirtyLines, own.window]
  dsimp only
  rw [none _ fun p clean => if_pos clean]
  rfl
omit own in
theorem Flushed.wbOut : s.wbOut x = false :=
  List.any_eq_false.2 fun r hr => by simp [flushed.reqs r hr]
omit own in
theorem Flushed.pushOut : s.pushOut x = false :=
  List.any_eq_false.2 fun p hp => by simp [flushed.pushes p hp]
/-- Where no word is DIRTY there is nothing to write back. -/
theorem Flushed.rangeFlush (off n : Nat) (k : State → Out) : rangeFlush s x off n k = k s := by
  have written (f : Nat → Nat → Bool) : s.writeBackAll x f (fun _ => false) = .done s := by
    rw [State.writeBackAll, if_pos flushed.half, Flushed.dirtyLines own flushed]
    simp only [State.wbTranslate, List.foldl_nil, own.pushHalos, flushed.wbOut, flushed.pushOut, Bool.or_self,
      Bool.false_eq_true, if_false]
  rw [Machine.rangeFlush, written]
  exact if_pos (Flushed.dirtyLines own flushed _)
end

/-- The machine in which an entry is gone and its range is plain scratch. -/
def unmapped (s : State) (x : Ex) (w : Window) (g : Nat) (m : SMapping) : State :=
  ((s.dropHalo fun h => decide (h.core = x.core ∧ h.blk = x.gr.blk ∧ h.g = g)).plainRange x.core (w.off + m.s) m.n).modWindow x.core
    x.gr.blk fun w => { w with maps := mdel w.maps g }

section
variable {s : State} {x : Ex} {i : Nat} {w : Window} (running : s.running = some x) (own : OwnWindow s x i w)
include running own

theorem exec_sunmap_of_none {o : SunO} (free : mget w.maps o.n.toNat = none) : exec (.sunmap o) s = .next (s.done x 4 id) := by
  show execSunmap o s = _
  rw [execSunmap, onSplit_running _ running, own.window]
  dsimp only
  rw [free]
theorem exec_sunmap_of_some {o : SunO} {m : SMapping} (there : mget w.maps o.n.toNat = some m)
    (ready : o.k = true ∨ (Flushed s x ∧ s.acqBusy x = false)) :
    exec (.sunmap o) s = .next ((unmapped s x w o.n.toNat m).done x 4 id) := by
  show execSunmap o s = _
  rw [execSunmap, onSplit_running _ running, own.window]
  dsimp only
  rw [there]
  dsimp only
  rw [own.fills]
  refine (if_neg (by simp)).trans ?_
  by_cases discard : o.k = true
  · exact if_pos discard
  · obtain ⟨flushed, free⟩ := ready.resolve_left discard
    refine (if_neg discard).trans ((if_neg (by simp [free])).trans ?_)
    exact Flushed.rangeFlush own flushed ..
theorem mapped_unmapped (g : Nat) (m : SMapping) : let t := (unmapped s x w g m).done x 4 id
    Mapped s t x 4 i w (mdel w.maps g) ∧
    ∀ a, w.off + m.s ≤ 4 * a → 4 * a + 4 ≤ w.off + m.s + m.n → mget (t.core x.core).scratch.words a = none := by
  intro t
  let u := s.dropHalo fun h => decide (h.core = x.core ∧ h.blk = x.gr.blk ∧ h.g = g)
  have plain := ScratchOnly.plainRange u x.core (w.off + m.s) m.n
  have wins : ((u.plainRange x.core (w.off + m.s) m.n).core x.core).scratch.wins = [(i, w)] := by
    rw [plain.wins, State.core_dropHalo]; exact own.wins
  have only : CoresOnly s (unmapped s x w g m) := ((CoresOnly.dropHalo s _).trans (.of_scratch plain)).trans (.modWindow ..)
  have scratch : (t.core x.core).scratch = _ := (State.scratch_done ..).trans (State.wins_modWindow wins own.blk _)
  rw [scratch]
  refine ⟨⟨only.mem, only.seated.otherGroups_done x 4, only.seated.group_done running 4, by rw [scratch]⟩, fun a low high => ?_⟩
  exact State.word_plainRange u ((mem_wordOffs ..).2 (by omega))
end

theorem mappingsAreMadeAndRemoved : MappingsAreMadeAndRemoved := by
  intro s x i w running own
  refine ⟨fun o st => ?_, fun o m there ready => ?_, fun o free => ?_⟩
  · intro e n b inside
    refine ⟨fun free aligned whole long fits apart => ⟨fun kind base address => ?_, fun kind field range base => ?_⟩,
      exec_smap_of_used running own inside, exec_smap_of_misaligned running own inside⟩
    · obtain ⟨mapped, words, -⟩ := own.mapped_installMap running (.refl s) own.wins o.n.toNat (w.off + st) 8
        ⟨if o.k = 1 then .ro else .rw, st, n, b.toNat⟩
      exact ⟨_, exec_smap_global running own inside free aligned whole long fits apart kind base address, mapped, words⟩
    · have entry (h : Map Halo) (base : Nat) := own.mapped_installMap running (u := withHalo s x.core h) (.modCore s x.core)
        (by rw [scratch_withHalo]; exact own.wins) o.n.toNat (w.off + st) 8 ⟨.replica, st, n, base⟩
      refine ⟨_, exec_smap_replica running own inside free aligned whole long fits apart kind field range base, (entry ..).1, ?_⟩
      obtain ⟨-, -, halo⟩ := entry _ _
      exact halo.trans (by rw [scratch_withHalo])
  · exact ⟨_, exec_sunmap_of_some running own there ready, mapped_unmapped running own o.n.toNat m⟩
  · exact ⟨_, _, exec_sunmap_of_none running own free, .of_done 4 id running, rfl⟩

end Sys2Proof.Claims
end

section
/-! SFLUSH, SINV, SPRES, SHPUSH and SGATH (R200 to R202), and the claims over the mapping instructions. -/
namespace Sys2Proof.Machine

/-- Where no entry maps a word, no fill is asked for. -/
theorem State.askFills_of_unmapped {s : State} {core : Nat} (unmapped : ∀ off, s.mapAt core off = none) (off n : Nat) :
    s.askFills core off n = s := by
  have absent (o : Nat) : s.absentWord core o = false := by simp [State.absentWord, unmapped]
  have none : s.newFills core off n = [] := by simp [State.newFills, absent]
  rw [State.askFills, none]; rfl

/-- A word that SINV makes ABSENT. -/
theorem State.mem_invalid {s : State} {core off n a : Nat} : 4 * a ∈ s.invalid core off n ↔ 4 * a ∈ wordOffs off n ∧
    ∃ v w g m, mget (s.core core).scratch.words a = some v ∧ s.mapAt core (4 * a) = some (w, g, m) ∧
      (m.kind = .replica ∨ v.st ≠ .dirty) := by
  have number : 4 * a / 4 = a := by omega
  rw [State.invalid, List.mem_filter, number]
  refine and_congr_right fun _ => ?_
  cases mget (s.core core).scratch.words a with
  | none => simp
  | some v =>
    cases s.mapAt core (4 * a) with
    | none => simp
    | some p => obtain ⟨w, g, m⟩ := p; simp

end Sys2Proof.Machine

namespace Sys2Proof.Claims
open Sys2Proof.Machine

/-! ### A range of the block's window -/

/-- SFLUSH, SINV, SPRES and SHPUSH of a range of length 0 do nothing. -/
theorem rangeOp_of_zero {s : State} {x : Ex} (running : s.running = some x) {o : Uab} (zero : SSrc.val o.b x.uni = 0)
    (k : Ex → Nat → Nat → Nat → Out) : rangeOp o s k = .next (s.done x (SSrc.len o.b) id) := by
  rw [rangeOp, onSplit_running _ running]
  exact if_pos (by rw [zero]; rfl)

theorem mmod_mmod {α : Type} (m : Map α) (n : Nat) (f g : α → α) : mmod (mmod m n f) n g = mmod m n (g ∘ f) := by
  induction m with
  | nil => rfl
  | cons p t ih =>
    obtain ⟨k, v⟩ := p
    by_cases here : n = k
    · simp [mmod, here]
    · simp [mmod, here, ih]
/-- A split that has noted its pushes, and then goes on. -/
theorem OnlyGroup.of_setHalf {s : State} {x : Ex} (running : s.running = some x) (h n : Nat) :
    OnlyGroup s ((s.setHalf x h).done x n id) x (after x n) := by
  have two := (OnlyGroup.of_modGroup (fun g => g.modSplit x.entry fun sp => { sp with half := h }) running).modGroup
    fun g => g.advance x.entry n
  have same : (x.gr.modSplit x.entry fun sp => { sp with half := h }).advance x.entry n = after x n := by
    unfold Group.advance Group.modSplit after
    dsimp only
    rw [mmod_mmod]
    rfl
  rw [same] at two
  exact two

section
variable {s : State} {x : Ex} {i st : Nat} {w : Window} (running : s.running = some x) (own : OwnWindow s x i w) {o : Uab}
  (inside : InOwn (x.uni.sr o.a.toNat).toNat (SSrc.val o.b x.uni).toNat st w) (some_ : (SSrc.val o.b x.uni).toNat ≠ 0)
include running own inside some_

theorem rangeOp_of_inside (k : Ex → Nat → Nat → Nat → Out) :
    rangeOp o s k = k x (SSrc.len o.b) (w.off + st) (SSrc.val o.b x.uni).toNat := by
  rw [rangeOp, onSplit_running _ running]
  exact (if_neg some_).trans (own.inWindow inside _)

theorem exec_sflush_of_flushed (flushed : Flushed s x) (free : s.acqBusy x = false) :
    exec (.sflush o) s = .next (s.done x (SSrc.len o.b) id) := by
  show execSflush o s = _
  refine (rangeOp_of_inside running own inside some_ _).trans ((if_neg (by simp [free])).trans ?_)
  exact Flushed.rangeFlush own flushed ..
theorem exec_shpush_of_flushed (flushed : Flushed s x) (free : s.acqBusy x = false) :
    exec (.shpush o) s = .next ((s.setHalf x 1).done x (SSrc.len o.b) id) := by
  have sent : (s.setHalf x 1).pushOut x = false := flushed.pushOut
  show execShpush o s = _
  refine (rangeOp_of_inside running own inside some_ _).trans ((if_neg (by simp [free])).trans ?_)
  rw [own.pushHalos, if_pos flushed.half]
  exact if_neg (by rw [sent]; exact Bool.false_ne_true)
theorem exec_spres_of_free (free : s.acqBusy x = false) : exec (.spres o) s =
    .next ((s.askFills x.core (w.off + st) (SSrc.val o.b x.uni).toNat).done x (SSrc.len o.b) id) := by
  show execSpres o s = _
  exact (rangeOp_of_inside running own inside some_ _).trans (if_neg (by simp [free]))
theorem exec_sinv_of_inside : exec (.sinv o) s =
    .next ((s.dropWords x.core (s.invalid x.core (w.off + st) (SSrc.val o.b x.uni).toNat)).done x (SSrc.len o.b) id) := by
  have still : (s.dropWords x.core (s.invalid x.core (w.off + st) (SSrc.val o.b x.uni).toNat)).refill =
      s.dropWords x.core (s.invalid x.core (w.off + st) (SSrc.val o.b x.uni).toNat) := by
    have only := ScratchOnly.dropWords own.fills x.core (s.invalid x.core (w.off + st) (SSrc.val o.b x.uni).toNat)
    exact State.refill_of_none (by rw [only.fly, own.touches]) (by rw [only.fly, own.fills]; simp)
  show execSinv o s = _
  refine (rangeOp_of_inside running own inside some_ _).trans ?_
  rw [still]
end

/-! ### SGATH -/

/-- The kind of the entry that SGATH makes. -/
def gatheredBy (x : Ex) (o : SgaO) : MapKind :=
  .gathered (x.uni.sr o.a.toNat).toNat (x.uni.sr o.b.toNat).toNat (64 * o.rb.toNat) (64 * o.st.toNat)
/-- The machine in which an entry has its index list, and the words of its range are ABSENT or 0. -/
def gathered (s : State) (x : Ex) (w : Window) (g : Nat) (m : SMapping) (kind : MapKind) (rows : Nat) : State :=
  (s.modWindow x.core x.gr.blk fun w => { w with maps := mset w.maps g { m with kind := kind } }).gather x.core (w.off + m.s) m.n rows

section
variable {s : State} {x : Ex} {i : Nat} {w : Window} (own : OwnWindow s x i w) (g : Nat) (m : SMapping) (kind : MapKind) (rows : Nat)
include own

/-- The parts of a gathering: the window's entry, and what its words become. -/
theorem gathered_parts : let t := gathered s x w g m kind rows
    CoresOnly s t ∧ (t.core x.core).scratch.wins = [(i, { w with maps := mset w.maps g { m with kind := kind } })] ∧
    (∀ a, 4 * a ∈ wordOffs (w.off + m.s) m.n → a ∉ wordNums (w.off + m.s + rows) (m.n - rows) →
      mget (t.core x.core).scratch.words a = none) ∧
    ∀ a, a ∈ wordNums (w.off + m.s + rows) (m.n - rows) →
      (mget (t.core x.core).scratch.words a).map MWord.st = some .clean ∧
      ∀ b, b < 4 → Bytes.at_ (t.core x.core).scratch.bytes (4 * a + b) = 0 := by
  intro t
  let u := s.modWindow x.core x.gr.blk fun w => { w with maps := mset w.maps g { m with kind := kind } }
  have fills : u.fly.fills = [] := own.fills
  have dropped := ScratchOnly.dropWords fills x.core (wordOffs (w.off + m.s) m.n)
  have zeroed := ScratchOnly.zeroWords (u.dropWords x.core (wordOffs (w.off + m.s) m.n)) x.core (wordNums (w.off + m.s + rows) (m.n - rows))
  have shape : t = (u.dropWords x.core (wordOffs (w.off + m.s) m.n)).zeroWords x.core (wordNums (w.off + m.s + rows) (m.n - rows)) :=
    State.gather_eq ..
  rw [shape]
  refine ⟨(CoresOnly.modWindow s x.core x.gr.blk _).trans (.of_scratch (dropped.trans zeroed)), ?_, fun a inside out => ?_, fun a inside => ?_⟩
  · rw [zeroed.wins, dropped.wins, State.wins_modWindow own.wins own.blk]
  · rw [State.word_zeroWords_elsewhere _ _ out, State.word_dropWords fills]
    exact if_pos inside
  · exact State.word_zeroWords _ _ (nodup_wordNums ..) inside

/-- SGATH of a read-only or a gathered entry. -/
theorem exec_sgath (running : s.running = some x) {o : SgaO} (there : mget w.maps o.n.toNat = some m)
    (global : m.kind = .ro ∨ ∃ a b c d, m.kind = .gathered a b c d) (aligned : (x.uni.sr o.a.toNat).toNat % 4 = 0)
    (fits : (x.uni.sr o.b.toNat).toNat * (64 * o.rb.toNat) ≤ m.n) (free : o.now = true → s.acqBusy x = false) :
    let rows := (x.uni.sr o.b.toNat).toNat * (64 * o.rb.toNat)
    let t := gathered s x w o.n.toNat m (gatheredBy x o) rows
    exec (.sgath o) s = .next ((if o.now then t.askFills x.core (w.off + m.s) rows else t).done x 8 id) := by
  intro rows t
  have only : CoresOnly s t := (gathered_parts own ..).1
  have refilled : t.refill = t := State.refill_of_none (by rw [only.fly, own.touches]) (by rw [only.fly, own.fills]; simp)
  have asked : Seated t (if o.now then t.askFills x.core (w.off + m.s) rows else t) := .ite (.askFills ..) (.refl t)
  have finished : (if o.now then t.askFills x.core (w.off + m.s) rows else t).finishTouches x.core = _ :=
    State.finishTouches_of_none (by rw [asked.touches, only.fly, own.touches]) x.core
  have ready : (o.now && s.acqBusy x) = false := by
    cases now : o.now with
    | false => rfl
    | true => exact free now
  show execSgath o s = _
  rw [← finished, execSgath, onSplit_running _ running, own.window]
  dsimp only
  rw [there]
  refine (if_neg (by simpa using aligned)).trans ((if_neg ?_).trans ((if_neg fits.not_gt).trans ((if_neg (by rw [ready]; simp)).trans ?_)))
  · obtain ro | ⟨a, b, c, d, again⟩ := global
    · rw [ro]; exact Bool.false_ne_true
    · rw [again]; exact Bool.false_ne_true
  · show Host.Outcome.next (((if o.now then t.refill.askFills x.core (w.off + m.s) rows else t.refill).finishTouches x.core).done x 8 id) = _
    rw [refilled]
end

section
variable {s : State} {x : Ex} {i : Nat} {w : Window} (running : s.running = some x) (own : OwnWindow s x i w)
include running

theorem rangeOps_of_zero {o : Uab} (zero : SSrc.val o.b x.uni = 0) {k : Instr}
    (one : k ∈ [Instr.sflush o, .sinv o, .spres o, .shpush o]) : exec k s = .next (s.done x (SSrc.len o.b) id) := by
  simp only [List.mem_cons, List.not_mem_nil, or_false] at one
  obtain rfl | rfl | rfl | rfl := one
  · show execSflush o s = _; exact rangeOp_of_zero running zero _
  · show execSinv o s = _; exact rangeOp_of_zero running zero _
  · show execSpres o s = _; exact rangeOp_of_zero running zero _
  · show execShpush o s = _; exact rangeOp_of_zero running zero _

include own

omit running in
/-- The entry that maps a word is one of the block's window. -/
theorem OwnWindow.mem_of_mapAt {off g : Nat} {v : Window} {m : SMapping} (there : s.mapAt x.core off = some (v, g, m)) :
    (g, m) ∈ w.maps := by
  have only (u : Window) (p : Nat) (found : (s.core x.core).scratch.wins.find? (fun w => w.2.covers off 1) = some (p, u)) : u = w := by
    have same := List.mem_of_find?_eq_some found
    rw [own.wins, List.mem_singleton, Prod.mk.injEq] at same
    exact same.2
  unfold State.mapAt at there
  split at there
  · cases there
  · next p u found =>
    obtain ⟨q, hq, eq⟩ := Option.map_eq_some_iff.1 there
    obtain ⟨rfl, rfl⟩ := Prod.mk.injEq .. ▸ eq
    rw [← only _ p found]
    exact List.mem_of_find?_eq_some hq

variable {st : Nat}

theorem spres_asks {o : Uab} (inside : InOwn (x.uni.sr o.a.toNat).toNat (SSrc.val o.b x.uni).toNat st w)
    (long : (SSrc.val o.b x.uni).toNat ≠ 0) (free : s.acqBusy x = false) : ∃ t, exec (.spres o) s = .next t ∧ OtherGroups s t x ∧
      t.group x.core x.slot = some (after x (SSrc.len o.b)) ∧
      (w.maps = [] → t.mem = s.mem ∧ (t.core x.core).scratch = (s.core x.core).scratch) := by
  have asked := Seated.askFills s x.core (w.off + st) (SSrc.val o.b x.uni).toNat
  refine ⟨_, exec_spres_of_free running own inside long free, asked.otherGroups_done x _, asked.group_done running _, fun none => ?_⟩
  have unmapped (off : Nat) : s.mapAt x.core off = .none := by
    cases entry : s.mapAt x.core off with
    | none => rfl
    | some p => exact absurd (own.mem_of_mapAt entry) (by simp [none])
  rw [State.askFills_of_unmapped unmapped]
  exact ⟨rfl, State.scratch_done ..⟩

theorem sinv_drops {o : Uab} (inside : InOwn (x.uni.sr o.a.toNat).toNat (SSrc.val o.b x.uni).toNat st w)
    (long : (SSrc.val o.b x.uni).toNat ≠ 0) : ∃ t, exec (.sinv o) s = .next t ∧ Mapped s t x (SSrc.len o.b) i w w.maps ∧
      (t.core x.core).scratch.bytes = (s.core x.core).scratch.bytes ∧
      ∀ a, mget (t.core x.core).scratch.words a = if 4 * a ∈ s.invalid x.core (w.off + st) (SSrc.val o.b x.uni).toNat then none
        else mget (s.core x.core).scratch.words a := by
  have dropped := ScratchOnly.dropWords own.fills x.core (s.invalid x.core (w.off + st) (SSrc.val o.b x.uni).toNat)
  have seated := (CoresOnly.of_scratch dropped).seated
  refine ⟨_, exec_sinv_of_inside running own inside long, ⟨dropped.mem, seated.otherGroups_done x _, seated.group_done running _, ?_⟩, ?_,
    fun a => ?_⟩
  · rw [State.scratch_done, dropped.wins, own.wins]
  · rw [State.scratch_done, State.scratch_dropWords own.fills]
  · rw [State.scratch_done, State.word_dropWords own.fills]

theorem sgath_gathers {o : SgaO} {m : SMapping} (there : mget w.maps o.n.toNat = some m)
    (global : m.kind = .ro ∨ ∃ a b c d, m.kind = .gathered a b c d) (aligned : (x.uni.sr o.a.toNat).toNat % 4 = 0)
    (fits : (x.uni.sr o.b.toNat).toNat * (64 * o.rb.toNat) ≤ m.n) (now : o.now = false) :
    let rows := (x.uni.sr o.b.toNat).toNat * (64 * o.rb.toNat)
    ∃ t, exec (.sgath o) s = .next t ∧
      Mapped s t x 8 i w (mset w.maps o.n.toNat { m with kind := gatheredBy x o }) ∧
      (∀ a, w.off + m.s ≤ 4 * a → 4 * a + 4 ≤ w.off + m.s + rows → (w.off + m.s) % 4 = 0 →
        mget (t.core x.core).scratch.words a = none) ∧
      (∀ a, w.off + m.s + rows ≤ 4 * a → 4 * a + 4 ≤ w.off + m.s + m.n → (w.off + m.s) % 4 = 0 → m.n % 4 = 0 →
        (mget (t.core x.core).scratch.words a).map MWord.st = some .clean ∧
        ∀ b, b < 4 → Bytes.at_ (t.core x.core).scratch.bytes (4 * a + b) = 0) := by
  intro rows
  have next := exec_sgath own m running there global aligned fits (by simp [now])
  simp only [now, Bool.false_eq_true, if_false] at next
  obtain ⟨only, wins, absent, zero⟩ := gathered_parts own o.n.toNat m (gatheredBy x o) rows
  have lines : rows % 64 = 0 := by
    rw [show rows = 64 * ((x.uni.sr o.b.toNat).toNat * o.rb.toNat) from Nat.mul_left_comm ..]; exact Nat.mul_mod_right ..
  have fits : rows ≤ m.n := fits
  refine ⟨_, next, ⟨only.mem, only.seated.otherGroups_done x 8, only.seated.group_done running 8, ?_⟩, ?_, ?_⟩
  all_goals rw [State.scratch_done]
  · exact wins
  · intro a low high even
    exact absent a ((mem_wordOffs ..).2 (by omega)) fun inside => by have := (mem_wordNums ..).1 inside; omega
  · intro a low high even even'
    exact zero a ((mem_wordNums ..).2 (by omega))
end

theorem mappedRangesAreMaintained : MappedRangesAreMaintained := by
  intro s x i w running own
  refine ⟨fun o zero k one => ⟨_, _, rangeOps_of_zero running zero one, .of_done _ id running, rfl⟩, fun o st => ?_, fun o st => ?_,
    fun o m => ?_⟩
  · intro n inside long
    refine ⟨fun flushed free k one => ?_, fun free => ?_, fun none free => ?_⟩
    · simp only [List.mem_cons, List.not_mem_nil, or_false] at one
      obtain rfl | rfl := one
      · exact ⟨_, _, exec_sflush_of_flushed running own inside long flushed free, .of_done _ id running, rfl⟩
      · exact ⟨_, _, exec_shpush_of_flushed running own inside long flushed free, .of_setHalf running 1 _, rfl⟩
    · obtain ⟨t, next, others, behind, -⟩ := spres_asks running own inside long free
      exact ⟨t, next, others, behind⟩
    · obtain ⟨t, next, -, -, same⟩ := spres_asks running own inside long free
      exact ⟨t, next, same none⟩
  · intro n inside long
    obtain ⟨t, next, mapped, bytes, words⟩ := sinv_drops running own inside long
    refine ⟨t, next, mapped.1, mapped, bytes, fun a v low high there entry => ⟨fun clean => ?_, fun dirty kinds => ?_⟩⟩
    · obtain ⟨⟨u, g, m⟩, entry⟩ := Option.isSome_iff_exists.1 entry
      rw [words]
      exact if_pos (State.mem_invalid.2 ⟨(mem_wordOffs ..).2 (by omega), v, u, g, m, there, entry, .inr (by simp [clean])⟩)
    · rw [words, if_neg, there]
      intro dropped
      obtain ⟨-, v', u, g, m, there', entry, drops⟩ := State.mem_invalid.1 dropped
      obtain rfl : v = v' := Option.some.inj (there.symm.trans there')
      exact drops.elim (kinds _ (own.mem_of_mapAt entry)) fun clean => clean dirty
  · intro e c rb there global aligned fits
    refine ⟨fun free => ?_, sgath_gathers running own there global aligned fits⟩
    have only : CoresOnly s _ := (gathered_parts own o.n.toNat m (gatheredBy x o) (c * rb)).1
    have asked := only.seated.trans (.ite (p := o.now = true) (.askFills _ x.core (w.off + m.s) (c * rb)) (.refl _))
    exact ⟨_, exec_sgath own m running there global aligned fits fun _ => free, asked.otherGroups_done x 8, asked.group_done running 8⟩

end Sys2Proof.Claims

namespace Sys2Proof.Proofs
open Sys2Proof.Claims

/-- Settles O42: an entry and its words are parts of one core's scratch, and asking for fills leaves every group as it is. -/
theorem scratchMappings : Obligations.ScratchMappings := ⟨mappingsAreMadeAndRemoved, mappedRangesAreMaintained⟩

end Sys2Proof.Proofs
end

section
set_option Elab.async false
namespace Sys2Proof.Machine

/-! ## Memory stays canonical in every step (R204, R234)

Most operations of the model leave the bytes and the poison marks alone: one rule each says so. Those that write do it through `Memory.store`,
through a row's transfer or through a poison mark, each of which keeps the canonical form (`Memory.store_wf`, `State.moveRow_wf`,
`Poison.put_ok`); so does every operation that calls them, every instruction and event, and the schedule that picks one. The goals are about
equations between states: `grind` is told to leave its arithmetic out. -/

/-! ### Folds over states -/

theorem mem_foldl {α : Type} {f : State → α → State} {l : List α} {s : State} (h : ∀ s a, (f s a).mem = s.mem) :
    (l.foldl f s).mem = s.mem :=
  foldl_keeps (fun t : State => t.mem = s.mem) f l (fun t a ht => (h t a).trans ht) s rfl

theorem mem_foldl_snd {α β : Type} {f : β × State → α → β × State} {l : List α} {r : β × State}
    (h : ∀ r a, (f r a).2.mem = r.2.mem) : (l.foldl f r).2.mem = r.2.mem :=
  foldl_keeps (fun t : β × State => t.2.mem = r.2.mem) f l (fun t a ht => (h t a).trans ht) r rfl

theorem wf_foldl {α : Type} {f : State → α → State} {l : List α} {s : State}
    (h : ∀ s a, s.mem.wf = true → (f s a).mem.wf = true) (hs : s.mem.wf = true) : (l.foldl f s).mem.wf = true :=
  foldl_keeps (fun t : State => t.mem.wf = true) f l h s hs

theorem wf_foldl_snd {α β : Type} {f : β × State → α → β × State} {l : List α} {r : β × State}
    (h : ∀ r a, r.2.mem.wf = true → (f r a).2.mem.wf = true) (hr : r.2.mem.wf = true) : (l.foldl f r).2.mem.wf = true :=
  foldl_keeps (fun t : β × State => t.2.mem.wf = true) f l h r hr

/-! ### Accesses: what leaves memory as it is -/

@[simp] theorem State.free_mem (s : State) : s.free.2.mem = s.mem := rfl

/-! ### Memory and the caches: what leaves memory as it is -/

@[simp] theorem State.overtake_mem (s : State) (pa : Nat) : (s.overtake pa).mem = s.mem := rfl
@[simp] theorem State.raiseFloor_mem (s : State) (ctx t : Nat) : (s.raiseFloor ctx t).mem = s.mem := rfl

@[simp] theorem State.dropCopy_mem (s : State) (c pa : Nat) : (s.dropCopy c pa).mem = s.mem := by
  unfold State.dropCopy
  grind -linarith -ring -order [State.modCore_mem, State.bump_mem]

theorem State.dropWord_mem (s : State) (core w : Nat) : (s.dropWord core w).mem = s.mem := (ScratchOnly.dropWord s core w).mem

@[simp] theorem State.probeScratch_mem (s : State) (pa : Nat) (words : BitVec 16) (req : Nat) (own : Option (Nat × Nat)) :
    (s.probeScratch pa words req own).mem = s.mem := by
  unfold State.probeScratch
  grind -linarith -ring -order [State.fresh_mem, State.dropWord_mem, mem_foldl]

@[simp] theorem State.patchFills_mem (s : State) (pa : Nat) (d : Line) (mask : BitVec 64) (pois : BitVec 16) :
    (s.patchFills pa d mask pois).mem = s.mem := rfl
@[simp] theorem State.contextFault_mem (s : State) (ctx : Nat) (f : CtxFault) : (s.contextFault ctx f).mem = s.mem := rfl

@[simp] theorem State.takeMiss_mem (s : State) (k : HeldMiss) : (s.takeMiss k).mem = s.mem := by
  unfold State.takeMiss
  grind -linarith -ring -order [State.bumpK_mem, State.fresh_mem]

@[simp] theorem State.startWalk_mem (s : State) (core ctx page : Nat) (who : Waiter) : (s.startWalk core ctx page who).mem = s.mem := by
  unfold State.startWalk
  grind -linarith -ring -order [State.bumpK_mem, State.bump_mem, State.takeMiss_mem]

@[simp] theorem State.takeHeld_mem (s : State) (k : Nat) (l : List HeldMiss) : (s.takeHeld k l).mem = s.mem := by
  fun_induction State.takeHeld <;> grind -linarith -ring -order [State.takeMiss_mem]

@[simp] theorem State.nextWalks_mem (s : State) (k : Nat) : (s.nextWalks k).mem = s.mem := by
  unfold State.nextWalks
  grind -linarith -ring -order [State.bumpK_mem, State.takeHeld_mem]

@[simp] theorem State.runWalks_mem (s : State) (k : Nat) : (s.runWalks k).mem = s.mem := by
  unfold State.runWalks
  grind -linarith -ring -order [State.nextWalks_mem, mem_foldl]

@[simp] theorem State.translate_mem (s : State) (core ctx : Nat) (who : Waiter) (va : Nat) (a : Access) :
    (s.translate core ctx who va a).2.mem = s.mem := by
  unfold State.translate
  grind -linarith -ring -order [State.modCore_mem, State.bump_mem, State.startWalk_mem]

@[simp] theorem State.forget_mem (s : State) (who : Waiter) : (s.forget who).mem = s.mem := rfl

/-! ### Lanes and splits: what leaves memory as it is -/

@[simp] theorem State.divide_mem (s : State) (x : Ex) (g : Group) (parts : List Part) : (s.divide x g parts).mem = s.mem := by
  unfold State.divide
  split <;> rfl

@[simp] theorem State.countIssue_mem (s : State) (core slot : Nat) : (s.countIssue core slot).mem = s.mem := rfl
@[simp] theorem State.withdrawWaits_mem (s : State) (uid : Nat) : (s.withdrawWaits uid).mem = s.mem := rfl

/-! ### Loads, stores and the slices: what leaves memory as it is -/

@[simp] theorem State.checkLane_mem (s : State) (core ctx : Nat) (who : Waiter) (a : Access) (classes : List Nat) (z : Nat) (va : DWord) :
    (s.checkLane core ctx who a classes z va).2.mem = s.mem := by
  unfold State.checkLane
  grind -linarith -ring -order [State.translate_mem]

@[simp] theorem State.checkLanes_mem (s : State) (core ctx : Nat) (who : Waiter) (a : Access) (classes : List Nat) (z : Nat) (l : List (Nat ×
    DWord)) : (s.checkLanes core ctx who a classes z l).2.mem = s.mem := by
  fun_induction State.checkLanes <;> grind -linarith -ring -order [State.checkLane_mem]

@[simp] theorem State.send_mem (s : State) (r : Req) : (s.send r).mem = s.mem := rfl
@[simp] theorem State.setReq_mem (s : State) (id : Nat) (r : Req) : (s.setReq id r).mem = s.mem := rfl
@[simp] theorem State.dropReq_mem (s : State) (id : Nat) : (s.dropReq id).mem = s.mem := rfl

@[simp] theorem State.usePref_mem (s : State) (core pa : Nat) : (s.usePref core pa).mem = s.mem := by
  unfold State.usePref
  grind -linarith -ring -order [State.modCore_mem, State.bump_mem]

@[simp] theorem State.markLu_mem (s : State) (core pa : Nat) (lu : Bool) : (s.markLu core pa lu).mem = s.mem := by
  unfold State.markLu
  split <;> rfl

@[simp] theorem State.loadReq_mem (s : State) (x : Ex) (iid d z : Nat) (sx cb lu : Bool) (u : LineUse) :
    (s.loadReq x iid d z sx cb lu u).mem = s.mem := by
  unfold State.loadReq
  grind -linarith -ring -order [State.setReq_mem, State.bump_mem, State.send_mem]

@[simp] theorem State.joinPref_mem (s : State) (x : Ex) (pa cls : Nat) : (s.joinPref x pa cls).mem = s.mem := by
  unfold State.joinPref
  grind -linarith -ring -order [State.setReq_mem, State.bump_mem]

@[simp] theorem State.loadLine_mem (s : State) (x : Ex) (iid d z : Nat) (sx cb lu : Bool) (u : LineUse) :
    (s.loadLine x iid d z sx cb lu u).mem = s.mem := by
  unfold State.loadLine
  grind -linarith -ring -order [State.mem_raisePts, State.markLu_mem, State.usePref_mem, State.bump_mem, State.modGroup_mem, State.loadReq_mem]

@[simp] theorem State.prefLine_mem (s : State) (x : Ex) (k : Nat) (u : LineUse) : (s.prefLine x k u).mem = s.mem := by
  unfold State.prefLine
  grind -linarith -ring -order [State.bump_mem, State.send_mem]

@[simp] theorem State.writeBack_mem (s : State) (who : Owner) (pa : Nat) (cline : Bool) : (s.writeBack who pa cline).mem = s.mem := by
  unfold State.writeBack
  split <;> rfl

@[simp] theorem State.clineUse_mem (s : State) (x : Ex) (k : Nat) (u : LineUse) : (s.clineUse x k u).mem = s.mem := by
  unfold State.clineUse
  grind -linarith -ring -order [State.modCore_mem, State.writeBack_mem, State.dropCopy_mem]

@[simp] theorem State.setHalf_mem (s : State) (x : Ex) (n : Nat) : (s.setHalf x n).mem = s.mem := rfl

@[simp] theorem State.sendProbe_mem (s : State) (core pa req : Nat) (write : Bool) : (s.sendProbe core pa req write).mem = s.mem := by
  simp [State.sendProbe]

@[simp] theorem State.dropL1_mem (s : State) (core pa : Nat) : (s.dropL1 core pa).mem = s.mem := by
  unfold State.dropL1
  grind -linarith -ring -order [State.writeBack_mem, State.dropCopy_mem]

@[simp] theorem State.evictL1_mem (s : State) (core vict : Nat) : (s.evictL1 core vict).mem = s.mem := by
  unfold State.evictL1
  grind -linarith -ring -order [State.dropL1_mem]

@[simp] theorem State.roomL1_mem (s : State) (core pa : Nat) : (s.roomL1 core pa).mem = s.mem := by
  unfold State.roomL1
  grind -linarith -ring -order [State.dropL1_mem]

@[simp] theorem State.installLease_mem (s : State) (core pa : Nat) (l : L1Line) : (s.installLease core pa l).mem = s.mem := by
  unfold State.installLease
  grind -linarith -ring -order [State.modCore_mem, State.dropCopy_mem, State.bump_mem, mem_foldl]

@[simp] theorem State.install_mem (s : State) (r : Req) : (s.install r).mem = s.mem := by
  unfold State.install
  grind -linarith -ring -order [State.roomL1_mem, State.modCore_mem, State.installLease_mem]

@[simp] theorem State.staleReplies_mem (s : State) (core pa : Nat) : (s.staleReplies core pa).mem = s.mem := rfl

@[simp] theorem State.ackLease_mem (s : State) (id : Nat) (r : Req) : (s.ackLease id r).mem = s.mem := by
  unfold State.ackLease
  grind -linarith -ring -order [State.modCore_mem, State.installLease_mem]

/-! ### Scratch: what leaves memory as it is -/

@[simp] theorem State.setWord_mem (s : State) (core off : Nat) (w : MWord) : (s.setWord core off w).mem = s.mem := rfl
@[simp] theorem State.putScr_mem (s : State) (core off : Nat) (bs : List Byte) : (s.putScr core off bs).mem = s.mem := rfl
@[simp] theorem State.setScrPoison_mem (s : State) (core off : Nat) (b : Bool) : (s.setScrPoison core off b).mem = s.mem := rfl
@[simp] theorem State.zeroWord_mem (s : State) (core off : Nat) : (s.zeroWord core off).mem = s.mem := rfl
@[simp] theorem State.addFill_mem (s : State) (f : Fill) : (s.addFill f).mem = s.mem := rfl

@[simp] theorem State.scrLane_mem (s : State) (core : Nat) (op : ScrOp) (k : LaneAcc) : (s.scrLane core op k).2.mem = s.mem := by
  unfold State.scrLane
  grind -linarith -ring -order [State.storeScr_mem]

@[simp] theorem State.scrLanes_mem (s : State) (core : Nat) (op : ScrOp) (l : List LaneAcc) : (s.scrLanes core op l).2.mem = s.mem := by
  fun_induction State.scrLanes <;> grind -linarith -ring -order [State.scrLane_mem]

@[simp] theorem State.dropWords_mem (s : State) (core : Nat) (offs : List Nat) : (s.dropWords core offs).mem = s.mem := rfl

@[simp] theorem State.scrTimes_mem (s : State) (who : Owner) (core : Nat) (l : List LaneAcc) : (s.scrTimes who core l).mem = s.mem := by
  unfold State.scrTimes
  grind -linarith -ring -order [State.modCore_mem, mem_foldl]

theorem State.fillOne_mem (s : State) (core o i cls pa va : Nat) (d : Line) (p : BitVec 16) :
    (State.fillWords.fillOne s core o i cls pa va d p).mem = s.mem := by
  simp [State.fillWords.fillOne]

theorem State.fillWords_mem (s : State) (f : Fill) (cls pa va : Nat) (d : Line) (p : BitVec 16) : (s.fillWords f cls pa va d p).mem = s.mem := by
  unfold State.fillWords
  grind -linarith -ring -order [mem_foldl, State.fillOne_mem]

@[simp] theorem State.applyProbes_mem (s : State) (core : Nat) : (s.applyProbes core).mem = s.mem := by
  unfold State.applyProbes
  grind -linarith -ring -order [State.dropWord_mem, mem_foldl]

@[simp] theorem State.registerHalo_mem (s : State) (core off c : Nat) : (s.registerHalo core off c).mem = s.mem := by
  unfold State.registerHalo
  grind -linarith -ring -order [State.modCore_mem]

@[simp] theorem State.retag_mem (s : State) (core off : Nat) : (s.retag core off).mem = s.mem := by
  unfold State.retag
  grind -linarith -ring -order [State.setWord_mem]

/-! ### Control flow: what leaves memory as it is -/

@[simp] theorem State.joined_mem (s : State) (core : Nat) (q : Group × Nat) : (s.joined core q).1.mem = s.mem := by
  simp [State.joined]

@[simp] theorem State.goTo_mem (s : State) (x : Ex) (p : Pc) : (s.goTo x p).mem = s.mem := by
  simp [State.goTo]

/-! ### Fences: what leaves memory as it is -/

@[simp] theorem State.wbTranslate_mem (s : State) (x : Ex) (l : List (Nat × BitVec 16 × Nat)) : (s.wbTranslate x l).2.mem = s.mem := by
  fun_induction State.wbTranslate <;> grind -linarith -ring -order [State.translate_mem]

@[simp] theorem State.sendWb_mem (s : State) (x : Ex) (l : Nat × BitVec 16 × Nat × DWord × Nat) : (s.sendWb x l).mem = s.mem := rfl

@[simp] theorem State.pushHalos_mem (s : State) (x : Ex) (f : Halo → Bool) : (s.pushHalos x f).mem = s.mem := by
  unfold State.pushHalos
  grind -linarith -ring -order [State.modCore_mem, State.fresh_mem, mem_foldl]

@[simp] theorem State.readPush_mem (s : State) (p : Push) (late : Nat) : (s.readPush p late).mem = s.mem := by
  unfold State.readPush
  split <;> rfl

@[simp] theorem State.groupDone_mem (s : State) (x : Ex) (n : Nat) (f : Group → Group) : (s.groupDone x n f).mem = s.mem := rfl

/-! ### Atomic operations: what leaves memory as it is -/

@[simp] theorem State.sendAtomic_mem (s : State) (x : Ex) (iid : Nat) (op : ReqOp) (val : Nat → LaneAcc → LaneAcc) (u : LineUse) :
    (s.sendAtomic x iid op val u).mem = s.mem := rfl

@[simp] theorem State.redPoison_mem (s : State) (r : Req) (k : LaneAcc) (bad : Bool) : (s.redPoison r k bad).mem = s.mem := by
  unfold State.redPoison
  split <;> rfl

@[simp] theorem State.laneGone_mem (s : State) (id : Nat) (r : Req) : (s.laneGone id r).mem = s.mem := by
  unfold State.laneGone
  grind -linarith -ring -order [State.dropReq_mem, State.setReq_mem]

/-! ### Synchronisation: what leaves memory as it is -/

@[simp] theorem State.acquireTime_mem (s : State) (x : Ex) (pa t : Nat) : (s.acquireTime x pa t).mem = s.mem := by
  simp [State.acquireTime]

@[simp] theorem State.arriveBar_mem (s : State) (x : Ex) (n : Nat) : (s.arriveBar x n).mem = s.mem := rfl

/-! ### The row stack: what leaves memory as it is -/

@[simp] theorem State.modRows_mem (s : State) (core : Nat) (f : Rows → Rows) : (s.modRows core f).mem = s.mem := rfl
@[simp] theorem State.setSlot_mem (s : State) (core n : Nat) (r : RowSlot) : (s.setSlot core n r).mem = s.mem := rfl
@[simp] theorem State.delSlot_mem (s : State) (core n : Nat) : (s.delSlot core n).mem = s.mem := rfl
@[simp] theorem State.activate_mem (s : State) (core bank : Nat) : (s.activate core bank).mem = s.mem := rfl

@[simp] theorem State.noteSlot_mem (s : State) (core ctx n : Nat) (f : Option SavedSlot → Option SavedSlot) :
    (s.noteSlot core ctx n f).mem = s.mem := by
  unfold State.noteSlot
  split <;> rfl

@[simp] theorem State.closeExpired_mem (s : State) (core n : Nat) (r : RowSlot) : (s.closeExpired core n r).mem = s.mem := by
  unfold State.closeExpired
  grind -linarith -ring -order [State.noteSlot_mem, State.delSlot_mem, State.modRows_mem]

@[simp] theorem State.dirtySlot_mem (s : State) (core n : Nat) (r : RowSlot) : (s.dirtySlot core n r).mem = s.mem := by
  unfold State.dirtySlot
  grind -linarith -ring -order [State.noteSlot_mem, State.setSlot_mem]

@[simp] theorem State.queueMove_mem (s : State) (x : Ex) (m : RowMove) (r : RowSlot) (to_ : Nat) : (s.queueMove x m r to_).mem = s.mem := by
  unfold State.queueMove
  grind -linarith -ring -order [State.dirtySlot_mem, State.done_mem, State.modRows_mem, State.fresh_mem]

@[simp] theorem State.noteClosed_mem (s : State) (x : Ex) (n : Nat) : (s.noteClosed x n).mem = s.mem := by
  simp [State.noteClosed]

@[simp] theorem State.setXfer_mem (s : State) (core id : Nat) (t : Xfer) : (s.setXfer core id t).mem = s.mem := rfl

@[simp] theorem State.busBeat_mem (s : State) (core : Nat) : (s.busBeat core).mem = s.mem := by
  unfold State.busBeat
  split <;> rfl

@[simp] theorem State.countActs_mem (s : State) (core : Nat) : (s.countActs core).mem = s.mem := by
  simp [State.countActs]

/-! ### Scratch mappings: what leaves memory as it is -/

@[simp] theorem State.modWindow_mem (s : State) (core blk : Nat) (f : Window → Window) : (s.modWindow core blk f).mem = s.mem := rfl
@[simp] theorem State.installMap_mem (s : State) (core blk g off : Nat) (m : SMapping) : (s.installMap core blk g off m).mem = s.mem := rfl
@[simp] theorem State.dropHalo_mem (s : State) (f : Halo → Bool) : (s.dropHalo f).mem = s.mem := rfl

@[simp] theorem State.plainRange_mem (s : State) (core off n : Nat) : (s.plainRange core off n).mem = s.mem := by
  unfold State.plainRange
  grind -linarith -ring -order [State.setScrPoison_mem, State.putScr_mem, State.modCore_mem, mem_foldl]

@[simp] theorem State.gather_mem (s : State) (core off n rows : Nat) : (s.gather core off n rows).mem = s.mem := by
  unfold State.gather
  grind -linarith -ring -order [State.dropWords_mem, State.zeroWord_mem, mem_foldl]

/-! ### The matrix unit: what leaves memory as it is -/

@[simp] theorem State.modMx_mem (s : State) (core : Nat) (f : Matrix → Matrix) : (s.modMx core f).mem = s.mem := rfl

@[simp] theorem State.applyPart_mem (s : State) (core part : Nat) : (s.applyPart core part).mem = s.mem := by
  unfold State.applyPart
  grind -linarith -ring -order [State.dropL1_mem, State.modCore_mem, mem_foldl]

@[simp] theorem State.linkCopies_mem (s : State) (cores : List Nat) (op : MxOp) : (s.linkCopies cores op).mem = s.mem := by
  unfold State.linkCopies
  grind -linarith -ring -order [State.modMx_mem, mem_foldl]

@[simp] theorem State.spanBytes_mem (s : State) (ctx : Nat) (p : Nat × Nat × Nat) : (s.spanBytes ctx p).2.mem = s.mem := by
  unfold State.spanBytes
  grind -linarith -ring -order [State.free_mem, mem_foldl_snd]

@[simp] theorem State.spansBytes_mem (s : State) (ctx : Nat) (l : List (Nat × Nat × Nat)) : (s.spansBytes ctx l).2.mem = s.mem := by
  fun_induction State.spansBytes <;> grind -linarith -ring -order [State.spanBytes_mem]

@[simp] theorem State.mxSteps_mem (s : State) (core : Nat) (e : MxEntry) : (s.mxSteps core e).2.mem = s.mem := by
  unfold State.mxSteps
  grind -linarith -ring -order [State.spansBytes_mem]

@[simp] theorem State.streamClk_mem (s : State) (core : Nat) (e : MxEntry) (got : Bool) : (s.streamClk core e got).mem = s.mem := by
  unfold State.streamClk
  grind -linarith -ring -order [State.modMx_mem, State.bump_mem, State.mxSteps_mem]

@[simp] theorem State.mxClk_mem (s : State) (core : Nat) : (s.mxClk core).mem = s.mem := by
  unfold State.mxClk
  grind -linarith -ring -order [State.busBeat_mem, State.streamClk_mem, State.modRows_mem]

@[simp] theorem State.raiseGroup_mem (s : State) (w : Owner) (f : Flags) : (s.raiseGroup w f).mem = s.mem := rfl

@[simp] theorem State.mxPut_mem (s : State) (c : Nat) (e : MxEntry) (k' : Matrix) (fl : Flags) : (s.mxPut c e k' fl).mem = s.mem := by
  simp [State.mxPut]

@[simp] theorem State.storeElem_mem (s : State) (core off z c : Nat) (bad : Bool) : (s.storeElem core off z c bad).mem = s.mem := by
  unfold State.storeElem
  grind -linarith -ring -order [State.storeScr_mem, State.setScrPoison_mem, mem_foldl]

theorem State.accStore_mem (s : State) (e : MxEntry) (cores : List Nat) (t fmt : Nat) (sat : Bool) (spans : List (Nat × Nat)) (row0 : Nat)
    (lands : Nat → Nat → Bool) : (s.accStore e cores t fmt sat spans row0 lands).mem = s.mem := by
  unfold State.accStore
  grind -linarith -ring -order [State.raiseGroup_mem, State.storeElem_mem, mem_foldl]

@[simp] theorem State.mxPerform_mem (s : State) (core : Nat) (e : MxEntry) : (s.mxPerform core e).mem = s.mem := by
  unfold State.mxPerform
  grind -linarith -ring -order [State.mxPut_mem, State.modMx_mem, State.bump_mem, State.accStore_mem, State.spansBytes_mem, State.putPlane_mem,
    mem_foldl]

@[simp] theorem State.mxLost_mem (s : State) (e : MxEntry) (c : Nat) : (s.mxLost e c).mem = s.mem := rfl
@[simp] theorem State.endBinding_mem (s : State) (core : Nat) : (s.endBinding core).mem = s.mem := rfl

/-! ### Launches: what leaves memory as it is -/

@[simp] theorem State.modLaunch_mem (s : State) (ctx n : Nat) (f : Launch → Launch) : (s.modLaunch ctx n f).mem = s.mem := rfl
@[simp] theorem State.grow_mem (s : State) (ctx n k : Nat) (tree : Option Nat) : (s.grow ctx n k tree).mem = s.mem := rfl
@[simp] theorem State.dequeue_mem (s : State) (ctx q : Nat) : (s.dequeue ctx q).mem = s.mem := rfl
@[simp] theorem State.freeLaunch_mem (s : State) (ctx : Nat) : (s.freeLaunch ctx).2.mem = s.mem := rfl

theorem State.offered_mem (ctx : Nat) (b : List Byte) (r : (Nat × Nat) × State) : (State.offered ctx b r).mem = r.2.mem := by
  unfold State.offered
  split <;> rfl

@[simp] theorem State.noteRefused_mem (s : State) (core st : Nat) : (s.noteRefused core st).mem = s.mem := by
  unfold State.noteRefused
  split <;> rfl

/-! ### Work queues: what leaves memory as it is -/

@[simp] theorem State.leaveLanes_mem (s : State) (x : Ex) (a : Mask) (n : Nat) : (s.leaveLanes x a n).mem = s.mem := by
  simp [State.leaveLanes]

@[simp] theorem State.endRays_mem (s : State) (x : Ex) (a : Mask) : (s.endRays x a).mem = s.mem := by
  unfold State.endRays
  grind -linarith -ring -order [mem_foldl]

@[simp] theorem State.dropHolder_mem (s : State) (core blk : Nat) : (s.dropHolder core blk).mem = s.mem := rfl

/-! ### Rays: what leaves memory as it is -/

@[simp] theorem State.newRay_mem (s : State) (ctx : Nat) : (s.newRay ctx).2.mem = s.mem := rfl
@[simp] theorem State.setRay_mem (s : State) (ctx id : Nat) (r : Ray) : (s.setRay ctx id r).mem = s.mem := rfl

@[simp] theorem State.traceLane_mem (s : State) (x : Ex) (o : TraceO) (n : Nat) (ep : Bool) (l : Nat) : (s.traceLane x o n ep l).mem = s.mem := by
  unfold State.traceLane
  grind -linarith -ring -order [State.setRay_mem, State.newRay_mem]

@[simp] theorem State.spawnLane_mem (s : State) (x : Ex) (o : RspO) (n q l : Nat) : (s.spawnLane x o n q l).2.mem = s.mem := by
  unfold State.spawnLane
  grind -linarith -ring -order [State.bumpK_mem, State.newRay_mem, State.setRay_mem]

@[simp] theorem State.spawnLanes_mem (s : State) (x : Ex) (o : RspO) (n q : Nat) (l : List Nat) : (s.spawnLanes x o n q l).2.mem = s.mem := by
  fun_induction State.spawnLanes <;> grind -linarith -ring -order [State.spawnLane_mem]

@[simp] theorem State.testCheck_mem (s : State) (x : Ex) (al n : Nat) (va : DWord) : (s.testCheck x al n va).2.mem = s.mem := by
  unfold State.testCheck
  grind -linarith -ring -order [State.checkLane_mem]

@[simp] theorem State.testChecks_mem (s : State) (x : Ex) (al n : Nat) (l : List (Nat × DWord)) : (s.testChecks x al n l).2.mem = s.mem := by
  fun_induction State.testChecks <;> grind -linarith -ring -order [State.testCheck_mem]

@[simp] theorem State.testLine_mem (s : State) (x : Ex) (iid pa : Nat) (e : DWord) : (s.testLine x iid pa e).2.mem = s.mem := by
  unfold State.testLine
  grind -linarith -ring -order [State.mem_raisePts, State.usePref_mem, State.bump_mem, State.setReq_mem, State.send_mem]

@[simp] theorem State.testLines_mem (s : State) (x : Ex) (iid : Nat) (l : List (Nat × DWord)) (l' : Map TreeLine) :
    (s.testLines x iid l l').2.mem = s.mem := by
  fun_induction State.testLines <;> grind -linarith -ring -order [State.testLine_mem]

theorem State.treeRoom_mem {s u : State} {cluster : Nat} {t : Treelet} (hu : s.treeRoom cluster t = some u) : u.mem = s.mem := by
  grind -linarith -ring -order [State.treeRoom, Option.map_eq_some_iff, State.bumpK_mem, State.modCluster_mem]

theorem State.askTreelet_mem {s u : State} {w : TreeWho} {pa cls : Nat} {pref : Bool} (hu : s.askTreelet w pa cls pref = some u) :
    u.mem = s.mem := by
  grind -linarith -ring -order [State.askTreelet, Option.map_eq_some_iff, State.modCluster_mem, State.treeRoom_mem]

@[simp] theorem State.usedPref_mem (s : State) (w : TreeWho) (pa : Nat) (late : Bool) : (s.usedPref w pa late).mem = s.mem := by
  unfold State.usedPref
  split <;> rfl

@[simp] theorem State.formEpisode_mem (s : State) (cluster : Nat) (l : List Binned) (c : Ctr) : (s.formEpisode cluster l c).mem = s.mem := by
  unfold State.formEpisode
  grind -linarith -ring -order [State.setRay_mem, State.fresh_mem, State.bumpK_mem, State.modCluster_mem, mem_foldl]

/-! ### Admission: what leaves memory as it is -/

@[simp] theorem State.openWindow_mem (s : State) (core blk off n : Nat) (t : List DWord) : (s.openWindow core blk off n t).mem = s.mem := by
  unfold State.openWindow
  grind -linarith -ring -order [State.modCore_mem, State.installMap_mem, mem_foldl]

@[simp] theorem State.adopt_mem (s : State) (core : Nat) (k : Header) : (s.adopt core k).mem = s.mem := by
  unfold State.adopt
  grind -linarith -ring -order [State.applyPart_mem]

@[simp] theorem State.startGroups_mem (s : State) (core ctx blk units s54 : Nat) (pre : Nat → Preload) (n : Nat) (l : List Nat) :
    (s.startGroups core ctx blk units s54 pre n l).mem = s.mem := by
  fun_induction State.startGroups <;> grind -linarith -ring -order [State.modCore_mem, State.fresh_mem]

@[simp] theorem State.startBlock_mem (s : State) (core : Nat) (l : Launch) (w : Want) (place : List Nat × Nat) (pts : Nat) (pre : Nat → Preload) :
    (s.startBlock core l w place pts pre).mem = s.mem := by
  unfold State.startBlock
  grind -linarith -ring -order [State.adopt_mem, State.fresh_mem, State.openWindow_mem, State.startGroups_mem, State.bump_mem, State.mem_raisePts]

theorem State.admitLaunch_mem {s u : State} {core slot n : Nat} {hd : Head} {l : Launch} (hu : s.admitLaunch core slot n hd l = some u) :
    u.mem = s.mem := by
  grind -linarith -ring -order [State.admitLaunch, Option.map_eq_some_iff, State.modLaunch_mem, State.startBlock_mem, State.dequeue_mem,
    State.modCluster_mem]

theorem State.admitCont_mem {s u : State} {core slot : Nat} {hd : Head} {l : Launch} {w0 frame join wid : DWord} {n : Nat} {tree : Option Nat}
    {pushed pts : Nat} (hu : s.admitCont core slot hd l w0 frame join wid n tree pushed pts = some u) : u.mem = s.mem := by
  simp only [State.admitCont] at hu
  split at hu
  · cases hu
  · obtain ⟨place, -, rfl⟩ := Option.map_eq_some_iff.mp hu
    rw [State.dequeue_mem, State.startBlock_mem]

theorem State.admitHead_mem {s u : State} {core slot : Nat} (hu : s.admitHead core slot = some u) : u.mem = s.mem := by
  grind -linarith -ring -order [State.admitHead, State.admitLaunch_mem, State.admitCont_mem]

@[simp] theorem State.headWaits_mem (s : State) (cluster : Nat) : (s.headWaits cluster).mem = s.mem := by
  unfold State.headWaits
  grind -linarith -ring -order [State.bumpK_mem, State.modCluster_mem]

@[simp] theorem State.engineWaits_mem (s : State) (core : Nat) : (s.engineWaits core).mem = s.mem := by
  simp [State.engineWaits]

@[simp] theorem State.clusterWaits_mem (s : State) : s.clusterWaits.mem = s.mem := by
  unfold State.clusterWaits
  grind -linarith -ring -order [State.engineWaits_mem, State.headWaits_mem, mem_foldl]

/-! ### The engines: what leaves memory as it is -/

@[simp] theorem State.jobIndices_mem (s : State) (l : List (Word × Bool)) : (s.jobIndices l).2.mem = s.mem := by
  unfold State.jobIndices
  grind -linarith -ring -order [State.free_mem, mem_foldl_snd]

@[simp] theorem State.setJob_mem (s : State) (id : Nat) (j : Job) : (s.setJob id j).mem = s.mem := rfl

@[simp] theorem State.keysMoved_mem (s : State) (j : Job) (status : Nat) : (s.keysMoved j status).mem = s.mem := by
  unfold State.keysMoved
  grind -linarith -ring -order [State.bumpK_mem, State.free_mem]

/-! ### Messages: what leaves memory as it is -/

@[simp] theorem State.dropSend_mem (s : State) (id : Nat) : (s.dropSend id).mem = s.mem := rfl

@[simp] theorem State.endSend_mem (s : State) (id : Nat) (f : MsgFlight) (ok : Bool) : (s.endSend id f ok).mem = s.mem := by
  unfold State.endSend
  grind -linarith -ring -order [State.dropSend_mem, State.done_mem]

@[simp] theorem State.answered_mem (s : State) (id : Nat) (f : MsgFlight) (ok : Bool) : (s.answered id f ok).mem = s.mem := by
  unfold State.answered
  grind -linarith -ring -order [State.endSend_mem]

/-! ### Preemption: what leaves memory as it is -/

@[simp] theorem State.setRes_mem (s : State) (core ctx : Nat) (r : Residence) : (s.setRes core ctx r).mem = s.mem := rfl

@[simp] theorem State.switchOut_mem (s : State) (core ctx : Nat) (bound : Option Nat) : (s.switchOut core ctx bound).mem = s.mem := by
  unfold State.switchOut
  grind -linarith -ring -order [State.withdrawWaits_mem, State.modCore_mem, State.bump_mem, State.setRes_mem, State.modRows_mem, mem_foldl]

@[simp] theorem State.restoreMx_mem (s : State) (core ctx : Nat) : (s.restoreMx core ctx).mem = s.mem := rfl

@[simp] theorem State.switchIn_mem (s : State) (core ctx : Nat) : (s.switchIn core ctx).mem = s.mem := by
  unfold State.switchIn
  grind -linarith -ring -order [State.modRows_mem, State.setRes_mem, State.restoreMx_mem]

@[simp] theorem State.rebind_mem (s : State) (lead : Nat) : (s.rebind lead).mem = s.mem := by
  unfold State.rebind
  split <;> rfl

@[simp] theorem State.switchOne_mem (s : State) (bound : Option Nat) (core : Nat) : (s.switchOne bound core).mem = s.mem := by
  unfold State.switchOne
  grind -linarith -ring -order [State.switchOut_mem, State.switchIn_mem, State.modCore_mem, State.bump_mem]

@[simp] theorem State.modSaved_mem (s : State) (core ctx : Nat) (f : Saved → Saved) : (s.modSaved core ctx f).mem = s.mem := rfl
@[simp] theorem State.groupLeaves_mem (s : State) (core ctx slot : Nat) (g : Group) (n : Nat) : (s.groupLeaves core ctx slot g n).mem = s.mem := rfl
@[simp] theorem State.winLeaves_mem (s : State) (core ctx i : Nat) (w : Window) : (s.winLeaves core ctx i w).mem = s.mem := rfl

@[simp] theorem State.leaves_mem (s : State) (core ctx n : Nat) : (State.leaves core ctx n s).mem = s.mem := by
  fun_induction State.leaves <;> grind -linarith -ring -order [State.groupLeaves_mem, State.winLeaves_mem]

@[simp] theorem State.vacate_mem (s : State) (core ctx : Nat) : (s.vacate core ctx).mem = s.mem := rfl

@[simp] theorem State.restoreActive_mem (s : State) (core : Nat) : (s.restoreActive core).mem = s.mem := by
  unfold State.restoreActive
  split <;> rfl

@[simp] theorem State.restore_mem (s : State) (core ctx : Nat) (v : Saved) : (s.restore core ctx v).mem = s.mem := by
  unfold State.restore
  grind -linarith -ring -order [State.applyPart_mem, State.modCore_mem, State.setRes_mem]

@[simp] theorem State.loadClk_mem (s : State) (core : Nat) : (s.loadClk core).mem = s.mem := by
  unfold State.loadClk
  grind -linarith -ring -order [State.bump_mem]

@[simp] theorem State.cutReqs_mem (s : State) (ctx : Nat) : (s.cutReqs ctx).mem = s.mem := by
  unfold State.cutReqs
  grind -linarith -ring -order [State.free_mem, mem_foldl]

@[simp] theorem State.cutAccst_mem (s : State) (core ctx : Nat) : (s.cutAccst core ctx).mem = s.mem := by
  unfold State.cutAccst
  grind -linarith -ring -order [State.free_mem, State.accStore_mem, mem_foldl, mem_foldl_snd]

/-! ### The host: what leaves memory as it is -/

@[simp] theorem State.dropTlb_mem (s : State) (ctx a n : Nat) : (s.dropTlb ctx a n).mem = s.mem := rfl
@[simp] theorem State.placeShadow_mem (s : State) (ctx core : Nat) : (s.placeShadow ctx core).mem = s.mem := rfl

@[simp] theorem State.queueLoads_mem (s : State) (ctx : Nat) : (s.queueLoads ctx).mem = s.mem := by
  unfold State.queueLoads
  grind -linarith -ring -order [State.modCore_mem, mem_foldl]

@[simp] theorem State.modRings_mem (s : State) (ctx : Nat) (f : CtxRings → CtxRings) : (s.modRings ctx f).mem = s.mem := rfl
@[simp] theorem State.modRegs_mem (s : State) (ctx : Nat) (f : CtxRegs → CtxRegs) : (s.modRegs ctx f).mem = s.mem := rfl

theorem State.setLqtail_mem (s : State) (ctx v : Nat) : (s.setLqtail ctx v).mem = s.mem := by
  unfold State.setLqtail
  extract_lets
  split <;> rfl

@[simp] theorem State.wakeSplit_mem (s : State) (core slot uid token : Nat) : (s.wakeSplit core slot uid token).mem = s.mem := rfl

@[simp] theorem State.replay_mem (s : State) (ctx token : Nat) : (s.replay ctx token).mem = s.mem := by
  unfold State.replay
  grind -linarith -ring -order [State.modCtx_mem, State.wakeSplit_mem]

@[simp] theorem State.setPwrcap_mem (s : State) (v : Nat) : (s.setPwrcap v).mem = s.mem := by
  unfold State.setPwrcap
  grind -linarith -ring -order

@[simp] theorem State.setWeight_mem (s : State) (c v : Nat) : (s.setWeight c v).mem = s.mem := by
  unfold State.setWeight
  split <;> rfl

@[simp] theorem State.setWeights_mem (s : State) (c v : Nat) : (s.setWeights c v).mem = s.mem := by
  unfold State.setWeights
  grind -linarith -ring -order [State.setWeight_mem, mem_foldl]

theorem State.writeFree_mem (s : State) (ctx o v : Nat) : (s.writeFree ctx o v).mem = s.mem := by
  simp [State.writeFree, apply_ite State.mem]

@[simp] theorem State.hostBytes_mem (s : State) (d : Line) (p : BitVec 16) (o n : Nat) : (s.hostBytes d p o n).2.mem = s.mem := by
  unfold State.hostBytes
  grind -linarith -ring -order [State.free_mem, mem_foldl_snd]

@[simp] theorem State.sizeBar2_mem (s : State) (n : Nat) : (s.sizeBar2 n).mem = s.mem := by
  unfold State.sizeBar2
  split <;> rfl

/-! ### Issue: what leaves memory as it is -/

@[simp] theorem State.lookInstr_mem (s : State) (x : Ex) (i : Instr) : (s.lookInstr x i).2.mem = s.mem := by
  unfold State.lookInstr
  grind -linarith -ring -order [State.modGroup_mem, State.bump_mem]

@[simp] theorem State.yields_mem (s : State) (x : Ex) (n : Nat) : (s.yields x n).mem = s.mem := rfl
@[simp] theorem State.noteIssue_mem (s : State) (x : Ex) (n : Issued) : (s.noteIssue x n).mem = s.mem := rfl

/-! ### Errors: what leaves memory as it is -/

@[simp] theorem State.flawAddr_mem (s : State) (l : FlawAt) : (s.flawAddr l).2.mem = s.mem := by
  unfold State.flawAddr
  split <;> rfl

@[simp] theorem State.errCorrected_mem (s : State) : s.errCorrected.mem = s.mem := rfl

/-! ### The schedule: what leaves memory as it is -/

@[simp] theorem State.started_mem (s : State) (x : Ex) (also : List Nat) : (s.started x also).mem = s.mem := rfl

@[simp] theorem State.afterIssue_mem (s : State) (x : Ex) : (s.afterIssue x).mem = s.mem := by
  unfold State.afterIssue
  grind -linarith -ring -order [State.modGroup_mem, State.withdrawWaits_mem]

/-! ### Answers with a canonical memory -/

/-- An answer that goes on does so with a canonical memory. -/
def AnswersWf : Out → Prop
  | .next t => t.mem.wf = true
  | _ => True

/-- The release's answer holds a canonical memory, whichever it is. -/
def Rel.Wf : Rel → Prop
  | .done t => t.mem.wf = true
  | .wait t => t.mem.wf = true
  | .fault o => AnswersWf o

/-- A job ends, or parks, with a canonical memory. -/
def JobEnd.Wf : JobEnd → Prop
  | .park _ _ _ t => t.mem.wf = true
  | .done _ _ _ t => t.mem.wf = true
  | .wait => True

section
variable {s : State} (h : s.mem.wf = true)
include h

/-! ### Accesses: what keeps memory canonical -/

omit h in
theorem onSplit_wf {f : Ex → Out} (hf : ∀ x, AnswersWf (f x)) : AnswersWf (onSplit s f) := by
  unfold onSplit
  grind -linarith -ring -order [AnswersWf]

/-! ### Memory and the caches: what keeps memory canonical -/

theorem State.modSline_wf (pa : Nat) (f : SliceLine → SliceLine) : (s.modSline pa f).mem.wf = true := h

theorem State.putLine_wf (pa : Nat) (d : Line) (p : BitVec 16) : (s.putLine pa d p).mem.wf = true := Memory.store_wf pa d _ p h

theorem State.landWb_wf (pa : Nat) : (s.landWb pa).mem.wf = true := by
  unfold State.landWb
  grind -linarith -ring -order [State.putLine_wf]

theorem State.cleanLine_wf (pa : Nat) : (s.cleanLine pa).mem.wf = true := by
  unfold State.cleanLine
  grind -linarith -ring -order [State.landWb_wf, State.modCore_mem, State.putLine_wf]

theorem State.reclaim_wf (pa : Nat) : (s.reclaim pa).mem.wf = true := by
  unfold State.reclaim
  grind -linarith -ring -order [State.cleanLine_wf, State.dropCopy_mem, State.modSline_wf, wf_foldl]

theorem State.evictSlice_wf (vict : Nat) : (s.evictSlice vict).mem.wf = true := by
  unfold State.evictSlice
  split
  · exact h
  · split
    · exact h
    · exact State.reclaim_wf h (vict - 1)

theorem State.makeRoom_wf (pa : Nat) : (s.makeRoom pa).mem.wf = true := by
  unfold State.makeRoom
  grind -linarith -ring -order [State.evictSlice_wf]

theorem State.takeSline_wf (pa : Nat) (f : SliceLine → SliceLine) : (s.takeSline pa f).mem.wf = true := by
  unfold State.takeSline
  grind -linarith -ring -order [State.modSline_wf, State.makeRoom_wf]

theorem State.agentLine_wf (ctx pa : Nat) : (s.agentLine ctx pa).2.mem.wf = true := by
  unfold State.agentLine
  grind -linarith -ring -order [State.cleanLine_wf]

theorem State.homeStore_wf (ctx pa cls : Nat) (d : Line) (m : BitVec 64) (p : BitVec 16) (t : Nat) :
    (s.homeStore ctx pa cls d m p t).mem.wf = true := by
  unfold State.homeStore
  grind -linarith -ring -order [State.reclaim_wf, State.overtake_mem, State.probeScratch_mem, State.patchFills_mem, State.takeSline_wf,
    Memory.store_wf]

theorem State.entry_wf (ctx a : Nat) : (s.entry ctx a).2.mem.wf = true := by
  unfold State.entry
  grind -linarith -ring -order [State.agentLine_wf]

theorem State.walkLeaf_wf (ctx table va : Nat) : (s.walkLeaf ctx table va).2.mem.wf = true := by
  unfold State.walkLeaf
  grind -linarith -ring -order [State.entry_wf]

theorem State.walkFrom_wf (ctx va n n' : Nat) : (s.walkFrom ctx va n n').2.mem.wf = true := by
  fun_induction State.walkFrom <;> grind -linarith -ring -order [State.walkLeaf_wf, State.entry_wf]

theorem State.walk_wf (ctx va : Nat) : (s.walk ctx va).2.mem.wf = true := by
  unfold State.walk
  grind -linarith -ring -order [State.walkFrom_wf]

theorem State.quietTranslate_wf (ctx va : Nat) (a : Access) : (State.quietTranslate s ctx va a).2.mem.wf = true := State.walk_wf h ctx va

theorem State.checkBy_wf {tr : Translator} (htr : ∀ t ctx va a, t.mem.wf = true → (tr t ctx va a).2.mem.wf = true) (ctx : Nat) (a : Access)
    (cl : List Nat) (l : List (Nat × Nat × Nat)) : (s.checkBy tr ctx a cl l).2.mem.wf = true := by
  fun_induction State.checkBy <;> grind -linarith -ring -order

theorem State.agentPut_wf {st : Storer} (hst : ∀ t ctx pa cls d m p n, t.mem.wf = true → (st t ctx pa cls d m p n).mem.wf = true)
    (ctx p : Nat) (l : List (Nat × Nat × Nat × Nat)) (bs : List Byte) : (s.agentPut st ctx p l bs).mem.wf = true := by
  fun_induction State.agentPut <;> grind -linarith -ring -order

theorem State.writeBy_wf {tr : Translator} (htr : ∀ t ctx va a, t.mem.wf = true → (tr t ctx va a).2.mem.wf = true) {st : Storer}
    (hst : ∀ t ctx pa cls d m p n, t.mem.wf = true → (st t ctx pa cls d m p n).mem.wf = true) (ctx : Nat) (a : Access) (cl : List Nat)
    (va : Nat) (bs : List Byte) (p : Nat) : (s.writeBy tr st ctx a cl va bs p).2.mem.wf = true := by
  have checked := State.checkBy_wf h htr
  have put := fun (t : State) (ht : t.mem.wf = true) => State.agentPut_wf ht hst
  unfold State.writeBy
  grind -linarith -ring -order

theorem State.postEvent_wf (ctx code a b w1 d1 d2 : Nat) : (s.postEvent ctx code a b w1 d1 d2).mem.wf = true := by
  unfold State.postEvent
  grind -linarith -ring -order [State.writeBy_wf, State.quietTranslate_wf, State.homeStore_wf, State.modCtx_mem]

theorem State.memError_wf (ctx : Option Nat) (a unit_ pa : Nat) : (s.memError ctx a unit_ pa).mem.wf = true := by
  unfold State.memError
  grind -linarith -ring -order [State.postEvent_wf]

theorem State.lostTell_wf (ctx : Option Nat) (pa : Nat) : (s.lostTell ctx pa).mem.wf = true := by
  unfold State.lostTell
  grind -linarith -ring -order [State.memError_wf]

theorem State.lostStore_wf (ctx pa : Nat) : (s.lostStore ctx pa).mem.wf = true := by
  unfold State.lostStore
  grind -linarith -ring -order [State.lostTell_wf]

theorem State.agentStore_wf (ctx pa cls : Nat) (d : Line) (m : BitVec 64) (p : BitVec 16) (t : Nat) :
    (State.agentStore s ctx pa cls d m p t).mem.wf = true := by
  unfold State.agentStore
  grind -linarith -ring -order [State.homeStore_wf, State.lostStore_wf]

theorem State.walkAndTell_wf (ctx va : Nat) : (s.walkAndTell ctx va).2.mem.wf = true := by
  unfold State.walkAndTell
  grind -linarith -ring -order [State.walk_wf, State.postEvent_wf]

theorem State.agentTranslate_wf (ctx va : Nat) (a : Access) : (State.agentTranslate s ctx va a).2.mem.wf = true := State.walkAndTell_wf h ctx va

theorem State.agentRead_wf (ctx : Nat) (a : Access) (classes : List Nat) (l : List (Nat × Nat × Nat)) :
    (s.agentRead ctx a classes l).2.mem.wf = true := by
  fun_induction State.agentRead <;> grind -linarith -ring -order [State.agentTranslate_wf, State.agentLine_wf]

theorem State.agentWrite_wf (ctx : Nat) (a : Access) (cl : List Nat) (va : Nat) (bs : List Byte) (p : Nat) :
    (s.agentWrite ctx a cl va bs p).2.mem.wf = true :=
  State.writeBy_wf h (fun _ _ _ _ ht => State.agentTranslate_wf ht _ _ _) (fun _ _ _ _ _ _ _ _ ht => State.agentStore_wf ht _ _ _ _ _ _ _) ..

theorem State.drainFaults_wf (n n' : Nat) : (State.drainFaults n s n').mem.wf = true := by
  fun_induction State.drainFaults <;> grind -linarith -ring -order [State.agentWrite_wf, State.modCtx_mem]

theorem State.postFault_wf (ctx : Nat) (f : FaultRec) (p : Parked) : (s.postFault ctx f p).mem.wf = true := by
  unfold State.postFault
  grind -linarith -ring -order [State.modCtx_mem, State.bump_mem, State.drainFaults_wf]

/-! ### Lanes and splits: what keeps memory canonical -/

theorem hold_wf : AnswersWf (hold s) := h

theorem waitOn_wf (x : Ex) (w : Wait) : AnswersWf (waitOn s x w) := by
  unfold waitOn
  grind -linarith -ring -order [AnswersWf, State.modGroup_mem]

theorem State.trapEntryWord_wf (ctx trapb cause : Nat) : (s.trapEntryWord ctx trapb cause).2.mem.wf = true := by
  unfold State.trapEntryWord
  grind -linarith -ring -order [State.agentRead_wf]

theorem State.takeTrap_wf (core slot : Nat) (g : Group) (r : Raised) : (s.takeTrap core slot g r).mem.wf = true := by
  unfold State.takeTrap
  grind -linarith -ring -order [State.contextFault_mem, State.modGroup_mem, State.trapEntryWord_wf, State.agentWrite_wf, State.bump_mem,
    State.withdrawWaits_mem]

theorem State.raise_wf (core slot : Nat) (g : Group) (r : Raised) : (s.raise core slot g r).mem.wf = true := by
  unfold State.raise
  grind -linarith -ring -order [State.modGroup_mem, State.bump_mem, State.takeTrap_wf]

theorem trapAt_wf (x : Ex) (cause : Nat) (lanes : Mask) (x60 x61 : Word) : AnswersWf (trapAt s x cause lanes x60 x61) := by
  unfold trapAt
  grind -linarith -ring -order [AnswersWf, State.raise_wf]

theorem accessFault_wf (x : Ex) (cause : Nat) (host write : Bool) (lanes : Mask) (va : DWord) :
    AnswersWf (accessFault s x cause host write lanes va) := by
  unfold accessFault
  grind -linarith -ring -order [AnswersWf, State.postFault_wf, State.fresh_mem, waitOn_wf, State.modGroup_mem, trapAt_wf]

/-! ### Loads, stores and the slices: what keeps memory canonical -/

theorem checked_wf (x : Ex) (write : Bool) (r : List (Nat × DWord × LaneChk)) (k : List LaneOk → State → Out) (hk : ∀ a t, t.mem.wf = true →
    AnswersWf (k a t)) : AnswersWf (checked s x write r k) := by
  unfold checked
  grind -linarith -ring -order [AnswersWf, hold_wf, trapAt_wf, accessFault_wf]

theorem withChecks_wf (x : Ex) (a : Access) (classes : List Nat) (z : Nat) (l : List (Nat × DWord)) (k : List LaneOk → State → Out) (hk : ∀ a t,
    t.mem.wf = true → AnswersWf (k a t)) : AnswersWf (withChecks s x a classes z l k) := by
  unfold withChecks
  grind -linarith -ring -order [AnswersWf, State.checkLanes_mem, checked_wf]

theorem execLd_wf (o : LmO) : AnswersWf (execLd o s) := by
  unfold execLd
  grind -linarith -ring -order [AnswersWf, onSplit_wf, State.done_mem, withChecks_wf, hold_wf, State.loadLine_mem, State.fresh_mem, wf_foldl]

theorem State.storeUse_wf (x : Ex) (iid d z : Nat) (lu : Bool) (u : LineUse) : (s.storeUse x iid d z lu u).mem.wf = true := by
  unfold State.storeUse
  grind -linarith -ring -order [State.usePref_mem, State.bump_mem, State.modCore_mem, State.takeSline_wf, State.send_mem, State.dropCopy_mem,
    State.joinPref_mem]

theorem execSt_wf (o : StO) : AnswersWf (execSt o s) := by
  unfold execSt
  grind -linarith -ring -order [AnswersWf, onSplit_wf, State.done_mem, withChecks_wf, hold_wf, State.storeUse_wf, State.fresh_mem, wf_foldl]

theorem execPref_wf (o : PfO) : AnswersWf (execPref o s) := by
  unfold execPref
  grind -linarith -ring -order [AnswersWf, onSplit_wf, State.checkLanes_mem, hold_wf, State.prefLine_mem, State.bump_mem, State.done_mem, wf_foldl]

theorem execCline_wf (o : PfO) : AnswersWf (execCline o s) := by
  unfold execCline
  grind -linarith -ring -order [AnswersWf, onSplit_wf, State.done_mem, withChecks_wf, waitOn_wf, hold_wf, State.modCore_mem, State.clineUse_mem,
    State.setHalf_mem, wf_foldl]

theorem State.unhold_wf (pa core : Nat) : (s.unhold pa core).mem.wf = true := by
  unfold State.unhold
  grind -linarith -ring -order [State.modSline_wf]

theorem execL1Probe_wf (id : Nat) : AnswersWf (execL1Probe id s) := by
  unfold execL1Probe
  grind -linarith -ring -order [AnswersWf, State.putLine_wf, State.unhold_wf, State.dropCopy_mem, State.modCore_mem]

theorem atSlice_wf (id : Nat) (r : Req) (serve : State → Out) (hserve : ∀ t, t.mem.wf = true → AnswersWf (serve t)) :
    AnswersWf (atSlice s id r serve) := by
  unfold atSlice
  grind -linarith -ring -order [AnswersWf, State.makeRoom_wf, State.setReq_mem, State.sendProbe_mem, wf_foldl]

theorem State.serveRead_wf (id : Nat) (r : Req) : (s.serveRead id r).mem.wf = true := by
  unfold State.serveRead
  grind -linarith -ring -order [State.setReq_mem, State.modSline_wf]

theorem execSliceRead_wf (id vict : Nat) : AnswersWf (execSliceRead id vict s) := by
  unfold execSliceRead
  grind -linarith -ring -order [AnswersWf, State.setReq_mem, State.bump_mem, atSlice_wf, State.evictSlice_wf, State.dropReq_mem, State.modSline_wf,
    State.serveRead_wf]

theorem execL1Reply_wf (id vict : Nat) : AnswersWf (execL1Reply id vict s) := by
  unfold execL1Reply
  grind -linarith -ring -order [AnswersWf, State.dropReq_mem, State.install_mem, State.evictL1_mem, State.mem_raisePts, State.modGroup_mem]

theorem State.serveStore_wf (id : Nat) (r : Req) (own : Option (Nat × Nat)) (keep : Bool) : (s.serveStore id r own keep).mem.wf = true := by
  unfold State.serveStore
  grind -linarith -ring -order [State.probeScratch_mem, State.overtake_mem, State.staleReplies_mem, State.modSline_wf, State.setReq_mem,
    Memory.store_wf]

theorem execSliceStore_wf (id : Nat) : AnswersWf (execSliceStore id s) := by
  unfold execSliceStore
  grind -linarith -ring -order [AnswersWf, atSlice_wf, State.setReq_mem, State.lostStore_wf, State.serveStore_wf, State.landWb_wf]

theorem State.ownLine_wf (r : Req) : (s.ownLine r).mem.wf = true := by
  unfold State.ownLine
  grind -linarith -ring -order [State.roomL1_mem, State.takeSline_wf, State.modCore_mem]

theorem execStoreAck_wf (id : Nat) : AnswersWf (execStoreAck id s) := by
  unfold execStoreAck
  grind -linarith -ring -order [AnswersWf, State.ownLine_wf, State.dropReq_mem, State.probeScratch_mem, State.ackLease_mem, State.mem_raisePts]

theorem State.fillWalk_wf (cluster ctx va n n' n'' : Nat) : (s.fillWalk cluster ctx va n n' n'').mem.wf = true := by
  fun_induction State.fillWalk <;> grind -linarith -ring -order [State.modCluster_mem]

theorem State.walkFast_wf (cluster ctx va : Nat) : (s.walkFast cluster ctx va).2.mem.wf = true := by
  unfold State.walkFast
  grind -linarith -ring -order [State.walkFrom_wf, State.fillWalk_wf]

theorem State.endWalk_wf (id : Nat) (w : Walk) : (s.endWalk id w).2.mem.wf = true := by
  unfold State.endWalk
  grind -linarith -ring -order [State.walkFast_wf, State.modCluster_mem, State.modCore_mem, State.postEvent_wf, wf_foldl]

theorem execWalkDone_wf (id : Nat) : AnswersWf (execWalkDone id s) := by
  unfold execWalkDone
  grind -linarith -ring -order [AnswersWf, State.nextWalks_mem, State.endWalk_wf]

theorem State.walkFor_wf (k ctx va : Nat) (cores : List Nat) : (s.walkFor k ctx va cores).2.mem.wf = true := by
  unfold State.walkFor
  grind -linarith -ring -order [State.modCore_mem, State.bumpK_mem, State.endWalk_wf, State.nextWalks_mem, wf_foldl]

/-! ### Scratch: what keeps memory canonical -/

theorem State.fillTranslate_wf (core ctx va : Nat) (write : Bool) : (s.fillTranslate core ctx va write).2.mem.wf = true := by
  unfold State.fillTranslate
  grind -linarith -ring -order [State.walkFor_wf, State.bump_mem]

theorem State.knownTranslate_wf (known : List (Nat × DWord)) (core ctx va : Nat) : (s.knownTranslate known core ctx va).2.mem.wf = true := by
  unfold State.knownTranslate
  grind -linarith -ring -order [State.fillTranslate_wf]

theorem State.startFill_wf (why : Option (Nat × Nat × Pc)) (known : List (Nat × DWord)) (n n' n'' : Nat) :
    (s.startFill why known n n' n'').mem.wf = true := by
  fun_induction State.startFill <;> grind -linarith -ring -order [State.contextFault_mem, State.addFill_mem, State.knownTranslate_wf,
    State.fresh_mem]

theorem State.touchWord_wf (why : Option (Nat × Nat × Pc)) (known : List (Nat × DWord)) (core off : Nat) :
    (s.touchWord why known core off).mem.wf = true := by
  unfold State.touchWord
  grind -linarith -ring -order [State.zeroWord_mem, State.startFill_wf, State.setWord_mem]

theorem State.touchRange_wf (why : Option (Nat × Nat × Pc)) (known : List (Nat × DWord)) (core off n : Nat) :
    (s.touchRange why known core off n).mem.wf = true := by
  unfold State.touchRange
  grind -linarith -ring -order [State.touchWord_wf, wf_foldl]

theorem State.refill_wf : s.refill.mem.wf = true := by
  unfold State.refill
  grind -linarith -ring -order [State.touchRange_wf, wf_foldl, mem_foldl]

theorem State.acquireWhere_wf (core blk : Nat) (f : Nat → Bool) : (s.acquireWhere core blk f).mem.wf = true := by
  unfold State.acquireWhere
  grind -linarith -ring -order [State.refill_wf, State.dropWords_mem]

theorem State.satomOrder_wf (who : Owner) (core : Nat) (op : ScrOp) (l : List LaneAcc) (fenced : Bool) :
    (s.satomOrder who core op l fenced).mem.wf = true := by
  unfold State.satomOrder
  grind -linarith -ring -order [State.scrTimes_mem, State.mem_raisePts, State.acquireWhere_wf, wf_foldl]

theorem State.performTouch_wf (id : Nat) (t : Touch) : (s.performTouch id t).mem.wf = true := by
  unfold State.performTouch
  grind -linarith -ring -order [State.scrLanes_mem, State.bump_mem, State.satomOrder_wf, State.modGroup_mem]

theorem State.finishTouches_wf (core : Nat) : (s.finishTouches core).mem.wf = true := by
  unfold State.finishTouches
  grind -linarith -ring -order [State.performTouch_wf, wf_foldl]

theorem State.backCheck_wf (ctx : Nat) (who : Waiter) (e : Nat) (write : Bool) (n n' n'' : Nat) :
    (s.backCheck ctx who e write n n' n'').2.mem.wf = true := by
  fun_induction State.backCheck <;> grind -linarith -ring -order [State.touchWord_wf, State.translate_mem]

theorem State.scrCheck_wf (x : Ex) (z : Nat) (write : Bool) (e : Nat) : (s.scrCheck x z write e).2.mem.wf = true := by
  unfold State.scrCheck
  grind -linarith -ring -order [State.backCheck_wf]

theorem State.scrChecks_wf (x : Ex) (z : Nat) (write : Bool) (l : List (Nat × Nat)) : (s.scrChecks x z write l).2.mem.wf = true := by
  fun_induction State.scrChecks <;> grind -linarith -ring -order [State.scrCheck_wf]

theorem scrFault_wf (x : Ex) (c : Nat) (host write : Bool) (m : Mask) (x60 x61 : Word) : AnswersWf (scrFault s x c host write m x60 x61) := by
  unfold scrFault
  grind -linarith -ring -order [AnswersWf, accessFault_wf, trapAt_wf]

theorem scrChecked_wf (x : Ex) (write : Bool) (r : List (Nat × ScrChk)) (k : List (Nat × Nat × Nat) → State → Out) (hk : ∀ a t, t.mem.wf = true →
    AnswersWf (k a t)) : AnswersWf (scrChecked s x write r k) := by
  unfold scrChecked
  grind -linarith -ring -order [AnswersWf, hold_wf, scrFault_wf, waitOn_wf]

theorem State.scrSend_wf (x : Ex) (iid : Nat) (op : ScrOp) (core : Nat) (l : List LaneAcc) : (s.scrSend x iid op core l).mem.wf = true := by
  unfold State.scrSend
  grind -linarith -ring -order [State.fresh_mem, State.modGroup_mem, State.scrLanes_mem, State.bump_mem, State.satomOrder_wf, State.touchRange_wf,
    wf_foldl]

theorem scrIssue_wf (x : Ex) (n la : Nat) (op : ScrOp) (ps : List (Nat × Nat × Nat)) (val : Nat → BitVec 128) :
    AnswersWf (scrIssue s x n la op ps val) := by
  unfold scrIssue
  grind -linarith -ring -order [AnswersWf, hold_wf, State.scrSend_wf, State.fresh_mem, State.done_mem, wf_foldl]

theorem execSld_wf (o : LmO) : AnswersWf (execSld o s) := by
  unfold execSld
  grind -linarith -ring -order [AnswersWf, onSplit_wf, State.done_mem, State.scrChecks_wf, scrChecked_wf, scrIssue_wf]

theorem execSst_wf (o : SstO) : AnswersWf (execSst o s) := by
  unfold execSst
  grind -linarith -ring -order [AnswersWf, onSplit_wf, State.done_mem, State.scrChecks_wf, scrChecked_wf, scrIssue_wf]

theorem execScratchRemoteAccess_wf (id : Nat) : AnswersWf (execScratchRemoteAccess id s) := by
  unfold execScratchRemoteAccess
  grind -linarith -ring -order [AnswersWf, State.touchRange_wf, State.finishTouches_wf, State.performTouch_wf, State.free_mem, State.modGroup_mem,
    wf_foldl, wf_foldl_snd]

theorem State.landFill_wf (id : Nat) (f : Fill) (cls pa va : Nat) (d : Line) (p : BitVec 16) : (s.landFill id f cls pa va d p).mem.wf = true := by
  unfold State.landFill
  grind -linarith -ring -order [State.applyProbes_mem, State.finishTouches_wf, State.refill_wf, State.fillWords_mem, State.bump_mem]

theorem State.indexCome_wf (id : Nat) (f : Fill) : (s.indexCome id f).mem.wf = true := by
  unfold State.indexCome
  grind -linarith -ring -order [State.startFill_wf, State.retag_mem, State.dropWords_mem, wf_foldl]

theorem execScratchFillLand_wf (id : Nat) : AnswersWf (execScratchFillLand id s) := by
  unfold execScratchFillLand
  grind -linarith -ring -order [AnswersWf, State.indexCome_wf, State.registerHalo_mem, State.landFill_wf, State.free_mem, State.mem_raisePts,
    wf_foldl_snd]

theorem execScratchProbe_wf (id : Nat) : AnswersWf (execScratchProbe id s) := by
  unfold execScratchProbe
  grind -linarith -ring -order [AnswersWf, State.dropWord_mem, wf_foldl]

/-! ### Control flow: what keeps memory canonical -/

theorem execBra_wf (o : BraO) : AnswersWf (execBra o s) := by
  unfold execBra
  grind -linarith -ring -order [AnswersWf, onSplit_wf, State.divide_mem]

theorem targetFault_wf (x : Ex) (w : Word) (t : List (Nat × DWord)) : ∀ u ∈ targetFault s x w t, AnswersWf u := by
  unfold targetFault
  grind -linarith -ring -order [AnswersWf, trapAt_wf]

theorem execBrx_wf (o : A1) : AnswersWf (execBrx o s) := by
  unfold execBrx
  grind -linarith -ring -order [AnswersWf, onSplit_wf, targetFault_wf, State.divide_mem]

theorem execBrk_wf (o : BrkO) : AnswersWf (execBrk o s) := by
  unfold execBrk
  grind -linarith -ring -order [AnswersWf, onSplit_wf, State.joined_mem, State.divide_mem]

theorem execJwait_wf (o : JwaitO) : AnswersWf (execJwait o s) := by
  unfold execJwait
  grind -linarith -ring -order [AnswersWf, onSplit_wf, State.done_mem, State.divide_mem, State.joined_mem, State.setGroup_mem]

theorem execJdrop_wf (o : JdropO) : AnswersWf (execJdrop o s) := by
  unfold execJdrop
  grind -linarith -ring -order [AnswersWf, onSplit_wf, State.joined_mem, State.setGroup_mem]

theorem execJput_wf (o : JputO) : AnswersWf (execJput o s) := by
  unfold execJput
  grind -linarith -ring -order [AnswersWf, onSplit_wf, State.done_mem, State.joined_mem, State.setGroup_mem]

theorem execUbra_wf (o : UbraO) : AnswersWf (execUbra o s) := by
  unfold execUbra
  grind -linarith -ring -order [AnswersWf, onSplit_wf, State.goTo_mem, State.done_mem]

theorem execUjmp_wf (o : Ua) : AnswersWf (execUjmp o s) := by
  unfold execUjmp
  grind -linarith -ring -order [AnswersWf, onSplit_wf, targetFault_wf, State.goTo_mem]

theorem execOpportunisticMerge_wf (core slot e1 e2 : Nat) : AnswersWf (execOpportunisticMerge core slot e1 e2 s) := by
  unfold execOpportunisticMerge
  grind -linarith -ring -order [AnswersWf, State.modGroup_mem, State.bump_mem]

/-! ### Traps: what keeps memory canonical -/

theorem execTfence_wf : AnswersWf (execTfence s) := by
  unfold execTfence
  grind -linarith -ring -order [AnswersWf, onSplit_wf, trapAt_wf, State.done_mem]

theorem execTrap_wf (o : Ub) : AnswersWf (execTrap o s) := by
  unfold execTrap
  grind -linarith -ring -order [AnswersWf, onSplit_wf, State.raise_wf]

theorem execBkpt_wf : AnswersWf (execBkpt s) := by
  unfold execBkpt
  grind -linarith -ring -order [AnswersWf, onSplit_wf, trapAt_wf]

theorem wordFault_wf (x : Ex) (cause : Nat) (w0 w1 : Word) : AnswersWf (wordFault s x cause w0 w1) := by
  unfold wordFault
  grind -linarith -ring -order [AnswersWf, trapAt_wf]

theorem execRtt_wf : AnswersWf (execRtt s) := by
  unfold execRtt
  grind -linarith -ring -order [AnswersWf, onSplit_wf, wordFault_wf, State.contextFault_mem, hold_wf, State.agentRead_wf, State.joined_mem,
    State.setGroup_mem]

theorem execTrapEntry_wf (core slot : Nat) : AnswersWf (execTrapEntry core slot s) := by
  unfold execTrapEntry
  grind -linarith -ring -order [AnswersWf, State.takeTrap_wf]

/-! ### Fences: what keeps memory canonical -/

theorem execScratchWbAck_wf (id : Nat) : AnswersWf (execScratchWbAck id s) := by
  unfold execScratchWbAck
  grind -linarith -ring -order [AnswersWf, State.dropReq_mem, State.mem_raisePts, State.bump_mem, State.applyProbes_mem, State.setWord_mem,
    wf_foldl, mem_foldl]

theorem execHaloPushArrival_wf (id late : Nat) : AnswersWf (execHaloPushArrival id late s) := by
  unfold execHaloPushArrival
  grind -linarith -ring -order [AnswersWf, State.readPush_mem, State.bump_mem, State.setWord_mem, State.setScrPoison_mem, State.putScr_mem,
    State.finishTouches_wf, wf_foldl, mem_foldl]

theorem execHaloPushDone_wf (id : Nat) : AnswersWf (execHaloPushDone id s) := by
  unfold execHaloPushDone
  grind -linarith -ring -order [AnswersWf]

theorem State.writeBackAll_wf (x : Ex) (f : Nat → Nat → Bool) (push : Halo → Bool) : (s.writeBackAll x f push).Wf := by
  unfold State.writeBackAll
  grind -linarith -ring -order [Rel.Wf, AnswersWf, State.wbTranslate_mem, accessFault_wf, State.pushHalos_mem, State.sendWb_mem, State.setHalf_mem,
    wf_foldl]

theorem State.release_wf (x : Ex) (scope : Nat) (c : Cover) : (s.release x scope c).Wf := by
  unfold State.release
  grind -linarith -ring -order [Rel.Wf, State.writeBackAll_wf]

theorem released_wf (x : Ex) (scope : Nat) (c : Cover) (k : State → Out) (hk : ∀ t, t.mem.wf = true → AnswersWf (k t)) :
    AnswersWf (released s x scope c k) := by
  unfold released
  grind -linarith -ring -order [Rel.Wf, AnswersWf, State.release_wf, State.raiseFloor_mem, hold_wf]

theorem onGroup_wf (f : Ex → State → Out) (hf : ∀ a t, t.mem.wf = true → AnswersWf (f a t)) : AnswersWf (onGroup s f) := by
  unfold onGroup
  grind -linarith -ring -order [AnswersWf, onSplit_wf, State.modGroup_mem]

theorem groupWait_wf (x : Ex) (w : Wait) : AnswersWf (groupWait s x w) := by
  unfold groupWait
  grind -linarith -ring -order [AnswersWf, waitOn_wf, State.modGroup_mem]

theorem groupReleased_wf (x : Ex) (w : Wait) (scope : Nat) (c : Cover) (k : State → Out) (hk : ∀ t, t.mem.wf = true → AnswersWf (k t)) :
    AnswersWf (groupReleased s x w scope c k) := by
  unfold groupReleased
  grind -linarith -ring -order [Rel.Wf, AnswersWf, State.release_wf, State.raiseFloor_mem, groupWait_wf]

theorem State.acquireWords_wf (core blk : Nat) (c : Cover) : (s.acquireWords core blk c).mem.wf = true := by
  unfold State.acquireWords
  grind -linarith -ring -order [State.acquireWhere_wf]

theorem opFence_wf (rel acq : Bool) (o : FenO) : AnswersWf (opFence rel acq o s) := by
  unfold opFence
  grind -linarith -ring -order [AnswersWf, onGroup_wf, groupWait_wf, State.acquireWords_wf, State.groupDone_mem, groupReleased_wf]

/-! ### Atomic operations: what keeps memory canonical -/

theorem uniAccess_wf (x : Ex) (va : DWord) (a : Access) (classes : List Nat) (al : Nat) (k : DWord → Nat → State → Out) (hk : ∀ a b t, t.mem.wf =
    true → AnswersWf (k a b t)) : AnswersWf (uniAccess s x va a classes al k) := by
  unfold uniAccess
  grind -linarith -ring -order [AnswersWf, trapAt_wf, State.translate_mem, hold_wf, accessFault_wf]

theorem ordered_wf (x : Ex) (order scope : Nat) (k : State → Out) (hk : ∀ t, t.mem.wf = true → AnswersWf (k t)) :
    AnswersWf (ordered s x order scope k) := by
  unfold ordered
  grind -linarith -ring -order [AnswersWf, released_wf]

theorem execAtom_wf (o : LaO) : AnswersWf (execAtom o s) := by
  unfold execAtom
  grind -linarith -ring -order [AnswersWf, onSplit_wf, State.done_mem, withChecks_wf, hold_wf, ordered_wf, State.sendAtomic_mem, State.fresh_mem,
    State.modGroup_mem, wf_foldl]

theorem execRed_wf (o : LaO) : AnswersWf (execRed o s) := by
  unfold execRed
  grind -linarith -ring -order [AnswersWf, onSplit_wf, State.done_mem, withChecks_wf, hold_wf, ordered_wf, State.sendAtomic_mem, State.fresh_mem,
    wf_foldl, mem_foldl]

theorem execSatom_wf (o : LaO) : AnswersWf (execSatom o s) := by
  unfold execSatom
  grind -linarith -ring -order [AnswersWf, onSplit_wf, State.done_mem, State.scrChecks_wf, scrChecked_wf, hold_wf, ordered_wf, scrIssue_wf]

theorem State.sliceWrite_wf (r : Req) (off z v : Nat) : (s.sliceWrite r off z v).mem.wf = true := by
  unfold State.sliceWrite
  grind -linarith -ring -order [State.probeScratch_mem, State.patchFills_mem, State.modSline_wf, Memory.store_wf]

theorem State.atomStep_wf (r : Req) (op z order : Nat) (k : LaneAcc) : (s.atomStep r op z order k).2.mem.wf = true := by
  unfold State.atomStep
  grind -linarith -ring -order [State.lostStore_wf, State.sliceWrite_wf, State.modSline_wf, State.mem_raisePts]

theorem execAtomPerform_wf (id : Nat) : AnswersWf (execAtomPerform id s) := by
  unfold execAtomPerform
  grind -linarith -ring -order [AnswersWf, atSlice_wf, State.atomStep_wf, State.laneGone_mem, State.acquireWhere_wf, State.modGroup_mem]

theorem execRedApply_wf (id : Nat) : AnswersWf (execRedApply id s) := by
  unfold execRedApply
  grind -linarith -ring -order [AnswersWf, atSlice_wf, State.atomStep_wf, State.laneGone_mem, State.redPoison_mem]

theorem State.setWindow_wf (pa : Nat) (w : OrdWindow) : (s.setWindow pa w).mem.wf = true := h

theorem State.closeWindow_wf (pa : Nat) (w : OrdWindow) (v p : Nat) : (s.closeWindow pa w v p).mem.wf = true := by
  have closed : ({ s with mem := { s.mem with windows := mdel s.mem.windows pa } } : State).mem.wf = true := h
  unfold State.closeWindow
  grind -linarith -ring -order [State.agentStore_wf, State.takeSline_wf, State.raiseFloor_mem]

theorem State.loseWindow_wf (pa : Nat) (w : OrdWindow) (p : Nat) : (s.loseWindow pa w p).mem.wf = true := by
  unfold State.loseWindow
  grind -linarith -ring -order [State.postEvent_wf, State.closeWindow_wf]

theorem State.applyOrd_wf (id : Nat) (r : Req) (w : OrdWindow) : (s.applyOrd id r w).mem.wf = true := by
  unfold State.applyOrd
  grind -linarith -ring -order [State.atomStep_wf, State.setWindow_wf, State.dropReq_mem, State.redPoison_mem]

theorem State.applyHeld_wf (n n' : Nat) : (State.applyHeld n s n').mem.wf = true := by
  fun_induction State.applyHeld <;> grind -linarith -ring -order [State.applyOrd_wf]

theorem execOrderedRedArrival_wf (id : Nat) : AnswersWf (execOrderedRedArrival id s) := by
  unfold execOrderedRedArrival
  split
  · trivial
  split
  · apply atSlice_wf h
    intro t ht
    extract_lets
    grind -linarith -ring -order [AnswersWf, State.postEvent_wf, State.dropReq_mem, State.loseWindow_wf, State.applyHeld_wf, State.applyOrd_wf,
      State.closeWindow_wf, State.setReq_mem]
  · trivial

theorem execOrderedRedResend_wf (id : Nat) : AnswersWf (execOrderedRedResend id s) := by
  unfold execOrderedRedResend
  grind -linarith -ring -order [AnswersWf, State.setReq_mem, State.bump_mem]

theorem execOrdopen_wf (o : Uabn) : AnswersWf (execOrdopen o s) := by
  unfold execOrdopen
  grind -linarith -ring -order [AnswersWf, onSplit_wf, hold_wf, trapAt_wf, uniAccess_wf, State.send_mem]

theorem execOrdopenAnswer_wf (id : Nat) : AnswersWf (execOrdopenAnswer id s) := by
  unfold execOrdopenAnswer
  grind -linarith -ring -order [AnswersWf, State.modGroup_mem, State.dropReq_mem, State.setWindow_wf, State.countIssue_mem, State.done_mem,
    trapAt_wf]

/-! ### Synchronisation: what keeps memory canonical -/

theorem State.recWrite_wf (ctx pa off n v : Nat) : (s.recWrite ctx pa off n v).mem.wf = true := by
  unfold State.recWrite
  grind -linarith -ring -order [State.agentStore_wf]

theorem State.releaseTime_wf (x : Ex) (pa : Nat) : (s.releaseTime x pa).mem.wf = true := by
  unfold State.releaseTime
  grind -linarith -ring -order [State.takeSline_wf]

theorem objAccess_wf (x : Ex) (obj : DWord) (k : Nat → State → Out) (hk : ∀ a t, t.mem.wf = true → AnswersWf (k a t)) :
    AnswersWf (objAccess s x obj k) := by
  unfold objAccess
  grind -linarith -ring -order [AnswersWf, uniAccess_wf]

theorem syncStatus_wf (x : Ex) (st : Bool) (d status : Nat) (f : Group → Group) : AnswersWf (syncStatus s x st d status f) := by
  unfold syncStatus
  grind -linarith -ring -order [AnswersWf, State.groupDone_mem, trapAt_wf]

theorem grantSync_wf (x : Ex) (d : Line) (kind pa obj : Nat) (binds : Map Binding) (st : Bool) (dst : Nat) :
    AnswersWf (grantSync s x d kind pa obj binds st dst) := by
  unfold grantSync
  grind -linarith -ring -order [AnswersWf, State.recWrite_wf, State.acquireTime_mem, State.acquireWords_wf, syncStatus_wf]

theorem State.breakHolds_wf (ctx : Nat) (holds : List Nat) : (s.breakHolds ctx holds).mem.wf = true := by
  unfold State.breakHolds
  grind -linarith -ring -order [State.agentTranslate_wf, State.recWrite_wf, wf_foldl]

theorem opAcquire_wf (kind : Nat) (o : SyncO) : AnswersWf (opAcquire kind o s) := by
  unfold opAcquire
  grind -linarith -ring -order [AnswersWf, onGroup_wf, hold_wf, objAccess_wf, State.agentLine_wf, syncStatus_wf, State.breakHolds_wf, grantSync_wf,
    groupWait_wf, State.fresh_mem]

theorem execSyncGrant_wf (id : Nat) : AnswersWf (execSyncGrant id s) := by
  unfold execSyncGrant
  grind -linarith -ring -order [AnswersWf, State.agentLine_wf, syncStatus_wf, grantSync_wf]

theorem State.recRelease_wf (x : Ex) (d : Line) (pa : Nat) : (s.recRelease x d pa).mem.wf = true := by
  unfold State.recRelease
  grind -linarith -ring -order [State.recWrite_wf, State.releaseTime_wf]

theorem execSyncRel_wf (o : SyncO) : AnswersWf (execSyncRel o s) := by
  unfold execSyncRel
  grind -linarith -ring -order [AnswersWf, onGroup_wf, hold_wf, objAccess_wf, syncStatus_wf, groupReleased_wf, State.agentLine_wf,
    State.recRelease_wf]

theorem execSbind_wf (o : U3n) : AnswersWf (execSbind o s) := by
  unfold execSbind
  grind -linarith -ring -order [AnswersWf, onSplit_wf, objAccess_wf, State.done_mem, State.modCtx_mem, State.recWrite_wf]

theorem execSunbind_wf (o : U2) : AnswersWf (execSunbind o s) := by
  unfold execSunbind
  grind -linarith -ring -order [AnswersWf, onSplit_wf, State.done_mem, State.modCtx_mem, State.agentWrite_wf]

theorem State.semWrite_wf (ctx pa v : Nat) : (s.semWrite ctx pa v).mem.wf = true := by
  unfold State.semWrite
  grind -linarith -ring -order [State.agentStore_wf]

theorem State.breakSema_wf (ctx pa : Nat) : (s.breakSema ctx pa).mem.wf = true := by
  unfold State.breakSema
  grind -linarith -ring -order [State.semWrite_wf]

theorem opSema_wf (x : Ex) (a b : BitVec 6) (t : Nat) (k : Nat → Line → Word → Word → State → Out) (hk : ∀ a b c d t, t.mem.wf = true → AnswersWf
    (k a b c d t)) : AnswersWf (opSema s x a b t k) := by
  unfold opSema
  grind -linarith -ring -order [AnswersWf, hold_wf, uniAccess_wf, State.agentLine_wf, State.breakSema_wf, trapAt_wf]

theorem execSemaSig_wf (o : Uabn) : AnswersWf (execSemaSig o s) := by
  unfold execSemaSig
  grind -linarith -ring -order [AnswersWf, onGroup_wf, opSema_wf, groupReleased_wf, State.agentLine_wf, trapAt_wf, State.groupDone_mem,
    State.releaseTime_wf, State.semWrite_wf]

theorem State.takeCount_wf (x : Ex) (pa n : Nat) : (s.takeCount x pa n).mem.wf = true := by
  unfold State.takeCount
  grind -linarith -ring -order [State.acquireTime_mem, State.semWrite_wf]

theorem semaFence_wf (x : Ex) (k : State → Out) (hk : ∀ t, t.mem.wf = true → AnswersWf (k t)) : AnswersWf (semaFence s x k) := by
  unfold semaFence
  grind -linarith -ring -order [AnswersWf, State.acquireWords_wf, groupWait_wf, State.setHalf_mem]

theorem execSemaWait_wf (o : Uabn) : AnswersWf (execSemaWait o s) := by
  unfold execSemaWait
  grind -linarith -ring -order [AnswersWf, onGroup_wf, State.groupDone_mem, semaFence_wf, opSema_wf, trapAt_wf, groupWait_wf, State.fresh_mem,
    State.takeCount_wf]

theorem execSemaTry_wf (o : U3n) : AnswersWf (execSemaTry o s) := by
  unfold execSemaTry
  grind -linarith -ring -order [AnswersWf, onGroup_wf, State.groupDone_mem, semaFence_wf, opSema_wf, trapAt_wf, State.takeCount_wf]

theorem execSemaCountTaken_wf (id : Nat) : AnswersWf (execSemaCountTaken id s) := by
  unfold execSemaCountTaken
  grind -linarith -ring -order [AnswersWf, State.agentLine_wf, trapAt_wf, semaFence_wf, State.takeCount_wf, State.groupDone_mem]

theorem barArrive_wf (x : Ex) (n : Nat) (sync : Bool) (k : State → Out) (hk : ∀ t, t.mem.wf = true → AnswersWf (k t)) :
    AnswersWf (barArrive s x n sync k) := by
  unfold barArrive
  grind -linarith -ring -order [AnswersWf, groupReleased_wf, groupWait_wf, State.arriveBar_mem]

theorem barWait_wf (x : Ex) (n : Nat) : AnswersWf (barWait s x n) := by
  unfold barWait
  grind -linarith -ring -order [AnswersWf, State.groupDone_mem, groupWait_wf]

theorem execBarArr_wf (o : BarO) : AnswersWf (execBarArr o s) := by
  unfold execBarArr
  grind -linarith -ring -order [AnswersWf, onGroup_wf, hold_wf, barArrive_wf, State.groupDone_mem]

theorem execBarWait_wf (o : BarO) : AnswersWf (execBarWait o s) := by
  unfold execBarWait
  grind -linarith -ring -order [AnswersWf, onGroup_wf, hold_wf, barWait_wf]

theorem execBarSync_wf (o : BarO) : AnswersWf (execBarSync o s) := by
  unfold execBarSync
  grind -linarith -ring -order [AnswersWf, onGroup_wf, hold_wf, barWait_wf, barArrive_wf, State.setHalf_mem]

theorem execBarPhaseComplete_wf (blk n : Nat) : AnswersWf (execBarPhaseComplete blk n s) := by
  unfold execBarPhaseComplete
  grind -linarith -ring -order [AnswersWf, State.modBlock_mem, State.modCore_mem]

/-! ### The row stack: what keeps memory canonical -/

theorem expiredFault_wf (x : Ex) (n : Nat) (r : RowSlot) : AnswersWf (expiredFault s x n r) := by
  unfold expiredFault
  grind -linarith -ring -order [AnswersWf, trapAt_wf, State.closeExpired_mem]

theorem slotChecked_wf (x : Ex) (n : Nat) (k : Option RowSlot → Out) (hk : ∀ a, AnswersWf (k a)) : AnswersWf (slotChecked s x n k) := by
  unfold slotChecked
  grind -linarith -ring -order [AnswersWf, hold_wf, trapAt_wf, expiredFault_wf]

theorem execRowact_wf (o : RowaO) : AnswersWf (execRowact o s) := by
  unfold execRowact
  grind -linarith -ring -order [AnswersWf, onSplit_wf, slotChecked_wf, trapAt_wf, hold_wf, State.setSlot_mem, State.bump_mem, State.activate_mem,
    State.done_mem, State.noteSlot_mem]

theorem State.spanCheck_wf (x : Ex) (write : Bool) (e core n n' : Nat) : (s.spanCheck x write e core n n').2.mem.wf = true := by
  fun_induction State.spanCheck <;> grind -linarith -ring -order [State.backCheck_wf]

theorem spanChecked_wf (x : Ex) (write : Bool) (e len : Nat) (k : Nat → State → Out) (hk : ∀ a t, t.mem.wf = true → AnswersWf (k a t)) :
    AnswersWf (spanChecked s x write e len k) := by
  unfold spanChecked
  grind -linarith -ring -order [AnswersWf, trapAt_wf, waitOn_wf, State.spanCheck_wf, scrFault_wf, hold_wf]

theorem opMove_wf (m : Uniform → RowMove) : AnswersWf (opMove s m) := by
  unfold opMove
  refine onSplit_wf fun x => ?_
  apply slotChecked_wf h
  intro r
  cases r with
  | none => exact trapAt_wf h ..
  | some r => grind -linarith -ring -order [AnswersWf, trapAt_wf, hold_wf, State.queueMove_mem, spanChecked_wf]

theorem execRowpre_wf (o : RowpO) : AnswersWf (execRowpre o s) := by
  unfold execRowpre
  grind -linarith -ring -order [AnswersWf, onSplit_wf, expiredFault_wf, hold_wf, State.done_mem, State.noteClosed_mem, slotChecked_wf,
    State.noteSlot_mem, State.setSlot_mem, State.setHalf_mem]

theorem execRowst_wf (o : Ud) : AnswersWf (execRowst o s) := by
  unfold execRowst
  grind -linarith -ring -order [AnswersWf, onSplit_wf, hold_wf, State.done_mem]

theorem execRowwait_wf (o : Ub) : AnswersWf (execRowwait o s) := by
  unfold execRowwait
  grind -linarith -ring -order [AnswersWf, onSplit_wf, hold_wf, waitOn_wf, State.done_mem]

theorem execRowOpenDone_wf (core n : Nat) : AnswersWf (execRowOpenDone core n s) := by
  unfold execRowOpenDone
  grind -linarith -ring -order [AnswersWf, State.modRows_mem, State.setSlot_mem]

theorem execRowCloseStart_wf (core n : Nat) : AnswersWf (execRowCloseStart core n s) := by
  unfold execRowCloseStart
  grind -linarith -ring -order [AnswersWf, State.modRows_mem, State.setSlot_mem]

theorem execRowCloseDone_wf (core n : Nat) : AnswersWf (execRowCloseDone core n s) := by
  unfold execRowCloseDone
  grind -linarith -ring -order [AnswersWf, State.modRows_mem, State.delSlot_mem, State.setSlot_mem]

theorem execRowHoldExpiry_wf (core n : Nat) : AnswersWf (execRowHoldExpiry core n s) := by
  unfold execRowHoldExpiry
  grind -linarith -ring -order [AnswersWf, State.setSlot_mem, State.bump_mem]

theorem execRowRefresh_wf (core n : Nat) : AnswersWf (execRowRefresh core n s) := by
  unfold execRowRefresh
  grind -linarith -ring -order [AnswersWf, State.modRows_mem]

theorem execInternalActivation_wf (core n row : Nat) : AnswersWf (execInternalActivation core n row s) := by
  unfold execInternalActivation
  grind -linarith -ring -order [AnswersWf, State.modRows_mem, State.bump_mem, State.activate_mem]

theorem execRowReactivation_wf (core n : Nat) : AnswersWf (execRowReactivation core n s) := by
  unfold execRowReactivation
  grind -linarith -ring -order [AnswersWf, State.modRows_mem, State.setSlot_mem, State.bump_mem, State.activate_mem]

theorem State.touchSpan_wf (why : Nat × Nat × Pc) (core off n : Nat) : (s.touchSpan why core off n).mem.wf = true := by
  unfold State.touchSpan
  grind -linarith -ring -order [State.touchRange_wf]

theorem execRowTransferStart_wf (id : Nat) : AnswersWf (execRowTransferStart id s) := by
  unfold execRowTransferStart
  grind -linarith -ring -order [AnswersWf, State.touchSpan_wf, State.setXfer_mem]

theorem execRowTransferEnd_wf (id : Nat) : AnswersWf (execRowTransferEnd id s) := by
  unfold execRowTransferEnd
  grind -linarith -ring -order [AnswersWf, State.modRows_mem, State.moveRow_wf]

theorem State.serveTarget_wf (id : Nat) (r : Req) : (s.serveTarget id r).mem.wf = true := by
  have stored (m : BitVec 64) := Memory.store_wf (memKey r.who.ctx r.pa) r.data m 0 h
  unfold State.serveTarget
  grind -linarith -ring -order [State.lostStore_wf, State.setReq_mem, Memory.wf]

theorem execTargetAccess_wf (id : Nat) : AnswersWf (execTargetAccess id s) := by
  unfold execTargetAccess
  grind -linarith -ring -order [AnswersWf, State.serveTarget_wf]

theorem State.serveJob_wf (id : Nat) (j : Job) : AnswersWf (s.serveJob id j) := by
  unfold State.serveJob
  grind -linarith -ring -order [AnswersWf, State.dirtySlot_mem]

theorem execRscAccess_wf (id : Nat) : AnswersWf (execRscAccess id s) := by
  unfold execRscAccess
  grind -linarith -ring -order [AnswersWf, State.serveJob_wf, State.serveTarget_wf, State.dirtySlot_mem]

/-! ### Scratch mappings: what keeps memory canonical -/

theorem mapFault_wf (x : Ex) (e reason : Nat) : AnswersWf (mapFault s x e reason) := by
  unfold mapFault
  grind -linarith -ring -order [AnswersWf, trapAt_wf]

theorem inWindow_wf (x : Ex) (e n : Nat) (k : Window → Nat → Out) (hk : ∀ a b, AnswersWf (k a b)) : AnswersWf (inWindow s x e n k) := by
  unfold inWindow
  grind -linarith -ring -order [AnswersWf, mapFault_wf]

theorem execSmap_wf (o : SmapO) : AnswersWf (execSmap o s) := by
  unfold execSmap
  grind -linarith -ring -order [AnswersWf, onSplit_wf, inWindow_wf, mapFault_wf, waitOn_wf, State.modCore_mem, State.done_mem,
    State.installMap_mem, trapAt_wf]

theorem flushWait_wf (x : Ex) : AnswersWf (flushWait s x) := by
  unfold flushWait
  grind -linarith -ring -order [AnswersWf, waitOn_wf, hold_wf]

theorem rangeFlush_wf (x : Ex) (off n : Nat) (k : State → Out) (hk : ∀ t, t.mem.wf = true → AnswersWf (k t)) :
    AnswersWf (rangeFlush s x off n k) := by
  unfold rangeFlush
  grind -linarith -ring -order [Rel.Wf, AnswersWf, State.writeBackAll_wf, flushWait_wf, waitOn_wf, State.setHalf_mem]

theorem execSunmap_wf (o : SunO) : AnswersWf (execSunmap o s) := by
  unfold execSunmap
  grind -linarith -ring -order [AnswersWf, onSplit_wf, State.done_mem, State.dropHalo_mem, State.modWindow_mem, State.plainRange_mem, waitOn_wf,
    hold_wf, rangeFlush_wf]

theorem rangeOp_wf (o : Uab) (k : Ex → Nat → Nat → Nat → Out) (hk : ∀ a b c d, AnswersWf (k a b c d)) : AnswersWf (rangeOp o s k) := by
  unfold rangeOp
  grind -linarith -ring -order [AnswersWf, onSplit_wf, State.done_mem, inWindow_wf]

theorem execSflush_wf (o : Uab) : AnswersWf (execSflush o s) := by
  unfold execSflush
  grind -linarith -ring -order [AnswersWf, rangeOp_wf, hold_wf, rangeFlush_wf, State.done_mem]

theorem execSinv_wf (o : Uab) : AnswersWf (execSinv o s) := by
  unfold execSinv
  grind -linarith -ring -order [AnswersWf, rangeOp_wf, State.done_mem, State.refill_wf, State.dropWords_mem]

theorem State.askFills_wf (core off n : Nat) : (s.askFills core off n).mem.wf = true := by
  unfold State.askFills
  grind -linarith -ring -order [State.startFill_wf, wf_foldl]

theorem execSpres_wf (o : Uab) : AnswersWf (execSpres o s) := by
  unfold execSpres
  grind -linarith -ring -order [AnswersWf, rangeOp_wf, hold_wf, State.done_mem, State.askFills_wf]

theorem execShpush_wf (o : Uab) : AnswersWf (execShpush o s) := by
  unfold execShpush
  grind -linarith -ring -order [AnswersWf, rangeOp_wf, hold_wf, State.setHalf_mem, State.pushHalos_mem, waitOn_wf, State.done_mem]

theorem execSgath_wf (o : SgaO) : AnswersWf (execSgath o s) := by
  unfold execSgath
  grind -linarith -ring -order [AnswersWf, onSplit_wf, trapAt_wf, mapFault_wf, hold_wf, State.modWindow_mem, State.refill_wf, State.gather_mem,
    State.askFills_wf, State.done_mem, State.finishTouches_wf]

theorem State.timeless_wf : s.timeless.mem.wf = true := h

theorem execTimeWrap_wf : AnswersWf (execTimeWrap s) := by
  unfold execTimeWrap
  grind -linarith -ring -order [AnswersWf, State.bump_mem, State.timeless_wf, State.dropCopy_mem, State.refill_wf, State.dropWords_mem, wf_foldl,
    mem_foldl]

/-! ### The matrix unit: what keeps memory canonical -/

theorem mxFault_wf (x : Ex) (reason : Nat) (detail : Word) : AnswersWf (mxFault s x reason detail) := by
  unfold mxFault
  grind -linarith -ring -order [AnswersWf, trapAt_wf]

theorem mxCores_wf (x : Ex) (pair : Bool) (tiles : List Nat) (k : List Nat → Out) (hk : ∀ a, AnswersWf (k a)) :
    AnswersWf (mxCores s x pair tiles k) := by
  unfold mxCores
  grind -linarith -ring -order [AnswersWf, hold_wf, mxFault_wf]

theorem State.checkSpans_wf (x : Ex) (write : Bool) (l : List (Nat × Nat × Nat × Nat)) : (s.checkSpans x write l).2.mem.wf = true := by
  fun_induction State.checkSpans <;> grind -linarith -ring -order [State.spanCheck_wf]

theorem mxSpans_wf (x : Ex) (write : Bool) (l : List (Nat × Nat)) (k : List (Nat × Nat) → State → Out) (hk : ∀ a t, t.mem.wf = true → AnswersWf (k
    a t)) : AnswersWf (mxSpans s x write l k) := by
  unfold mxSpans
  grind -linarith -ring -order [AnswersWf, trapAt_wf, waitOn_wf, State.checkSpans_wf, scrFault_wf, hold_wf]

theorem enterMx_wf (x : Ex) (len : Nat) (op : MxOp) (cores : List Nat) (pair : Bool) : AnswersWf (enterMx s x len op cores pair) := by
  unfold enterMx
  grind -linarith -ring -order [AnswersWf, hold_wf, State.modMx_mem, State.linkCopies_mem, State.fresh_mem, State.done_mem]

theorem chainChecked_wf (x : Ex) {k : List (Nat × Nat) → Out} (hk : ∀ a, AnswersWf (k a)) (l : List Nat) (acc : List (Nat × Nat)) :
    AnswersWf (chainChecked s x k l acc) := by
  fun_induction chainChecked <;> grind -linarith -ring -order [trapAt_wf, expiredFault_wf]

theorem mulOperands_wf (x : Ex) (cores : List Nat) (pair : Bool) (t : Nat) (kind : MulKind) (ma mb : BitVec 128) (ka kb kl n : Nat) (rows : List
    (Nat × Nat)) : AnswersWf (mulOperands s x cores pair t kind ma mb ka kb kl n rows) := by
  unfold mulOperands
  grind -linarith -ring -order [AnswersWf, mxFault_wf, mxSpans_wf, enterMx_wf, chainChecked_wf]

theorem opMul_wf (t : Nat) (kind : MulKind) (L : Nat) (a : BitVec 6) (c : MmaC)
    (k : Ex → List Nat → BitVec 128 → BitVec 128 → Nat → Nat → Nat → Out) (hk : ∀ x cores ma mb ka kb kl, AnswersWf (k x cores ma mb ka kb kl)) :
    AnswersWf (opMul s t kind L a c k) := by
  unfold opMul
  refine onSplit_wf fun x => ?_
  apply mxCores_wf h
  intro cores
  grind -linarith -ring -order [mxFault_wf, State.free_mem]

theorem opMma_wf (t : Nat) (kind : MulKind) (L : Nat) (a : BitVec 6) (c : MmaC) : AnswersWf (opMma s t kind L a c) := by
  unfold opMma
  grind -linarith -ring -order [AnswersWf, opMul_wf, mulOperands_wf]

theorem execMma_wf (o : MmaO) : AnswersWf (execMma o s) := by
  unfold execMma
  grind -linarith -ring -order [AnswersWf, opMma_wf]

theorem execMmaC_wf (o : MmaO) : AnswersWf (execMmaC o s) := by
  unfold execMmaC
  grind -linarith -ring -order [AnswersWf, opMma_wf]

theorem execMmas_wf (o : MmaO) : AnswersWf (execMmas o s) := by
  unfold execMmas
  grind -linarith -ring -order [AnswersWf, opMma_wf]

theorem listSpan_wf (x : Ex) (e n : Nat) (first : Out → Out) (k : Nat → Nat → State → Out) (hfirst : ∀ o, AnswersWf o → AnswersWf (first o)) (hk :
    ∀ a b t, t.mem.wf = true → AnswersWf (k a b t)) : AnswersWf (listSpan s x e n first k) := by
  unfold listSpan
  grind -linarith -ring -order [AnswersWf, trapAt_wf, waitOn_wf, State.checkSpans_wf, scrFault_wf, hold_wf, State.touchSpan_wf]

theorem execMmag_wf (o : MmagO) : AnswersWf (execMmag o s) := by
  unfold execMmag
  grind -linarith -ring -order [AnswersWf, opMul_wf, mxFault_wf, trapAt_wf, listSpan_wf, mulOperands_wf]

theorem execAccZero_wf (o : AccZ) : AnswersWf (execAccZero o s) := by
  unfold execAccZero
  grind -linarith -ring -order [AnswersWf, onSplit_wf, mxCores_wf, mxFault_wf, enterMx_wf]

theorem execAccCommit_wf (o : AccC) : AnswersWf (execAccCommit o s) := by
  unfold execAccCommit
  grind -linarith -ring -order [AnswersWf, onSplit_wf, mxCores_wf, mxFault_wf, enterMx_wf]

theorem execAccDrop_wf (o : AccZ) : AnswersWf (execAccDrop o s) := by
  unfold execAccDrop
  grind -linarith -ring -order [AnswersWf, onSplit_wf, mxCores_wf, mxFault_wf, enterMx_wf]

theorem execAccMerge_wf (o : AccZ) : AnswersWf (execAccMerge o s) := by
  unfold execAccMerge
  grind -linarith -ring -order [AnswersWf, onSplit_wf, mxCores_wf, mxFault_wf, enterMx_wf]

theorem execAccPoison_wf (o : AccP) : AnswersWf (execAccPoison o s) := by
  unfold execAccPoison
  grind -linarith -ring -order [AnswersWf, onSplit_wf, mxCores_wf, hold_wf, State.modMx_mem, State.done_mem, wf_foldl]

theorem opAccIo_wf (o : AccIo) (store : Bool) : AnswersWf (opAccIo s o store) := by
  unfold opAccIo
  grind -linarith -ring -order [AnswersWf, onSplit_wf, mxCores_wf, mxFault_wf, trapAt_wf, mxSpans_wf, enterMx_wf]

theorem execAmap_wf (o : AmapO) : AnswersWf (execAmap o s) := by
  unfold execAmap
  grind -linarith -ring -order [AnswersWf, onSplit_wf, State.done_mem, mxFault_wf]

theorem opBpl_wf (f : Bool) (b : BitVec 6) (n cols : Nat) (src : Option (BitVec 6 × Nat)) : AnswersWf (opBpl s f b n cols src) := by
  unfold opBpl
  grind -linarith -ring -order [AnswersWf, onSplit_wf, hold_wf, mxFault_wf, trapAt_wf, enterMx_wf, mxSpans_wf]

theorem execBplLd_wf (o : BplO) : AnswersWf (execBplLd o s) := by
  unfold execBplLd
  grind -linarith -ring -order [AnswersWf, opBpl_wf]

theorem execBplZero_wf (o : BpzO) : AnswersWf (execBplZero o s) := by
  unfold execBplZero
  grind -linarith -ring -order [AnswersWf, opBpl_wf]

theorem execPairBind_wf (o : Ud) : AnswersWf (execPairBind o s) := by
  unfold execPairBind
  grind -linarith -ring -order [AnswersWf, onSplit_wf, hold_wf, State.modMx_mem, State.applyPart_mem, State.done_mem]

theorem execPairFree_wf (o : Ud) : AnswersWf (execPairFree o s) := by
  unfold execPairFree
  grind -linarith -ring -order [AnswersWf, onSplit_wf, State.done_mem, hold_wf, State.modMx_mem]

theorem execMwait_wf (o : MwaitO) : AnswersWf (execMwait o s) := by
  unfold execMwait
  grind -linarith -ring -order [AnswersWf, onSplit_wf, waitOn_wf, State.done_mem]

theorem State.mxTouch_wf (e : MxEntry) : (s.mxTouch e).mem.wf = true := by
  unfold State.mxTouch
  grind -linarith -ring -order [State.touchSpan_wf, wf_foldl]

theorem execMatrixOpStart_wf (core : Nat) : AnswersWf (execMatrixOpStart core s) := by
  unfold execMatrixOpStart
  grind -linarith -ring -order [AnswersWf, State.modMx_mem, State.mxTouch_wf]

theorem execMatrixOpComplete_wf (core : Nat) : AnswersWf (execMatrixOpComplete core s) := by
  unfold execMatrixOpComplete
  grind -linarith -ring -order [AnswersWf, State.modMx_mem, State.mxLost_mem, State.endBinding_mem, State.mxPerform_mem]

/-! ### Launches: what keeps memory canonical -/

theorem State.readTemplate_wf (ctx : Nat) (mapt : DWord) : (s.readTemplate ctx mapt).2.mem.wf = true := by
  unfold State.readTemplate
  grind -linarith -ring -order [State.agentRead_wf]

theorem State.compPlace_wf (ctx : Nat) (comp : DWord) : (s.compPlace ctx comp).2.mem.wf = true := by
  unfold State.compPlace
  grind -linarith -ring -order [State.agentTranslate_wf]

theorem State.refusal_wf (ctx : Nat) (b : List Byte) : (s.refusal ctx b).2.mem.wf = true := by
  unfold State.refusal
  grind -linarith -ring -order [State.readTemplate_wf, State.compPlace_wf]

theorem State.compPut_wf (ctx pa off n v time : Nat) : (s.compPut ctx pa off n v time).mem.wf = true := by
  unfold State.compPut
  grind -linarith -ring -order [State.agentStore_wf, State.takeSline_wf]

theorem State.compGet_wf (ctx pa off : Nat) : (s.compGet ctx pa off).2.mem.wf = true := by
  unfold State.compGet
  grind -linarith -ring -order [State.agentLine_wf]

theorem State.compAdd_wf (ctx pa time : Nat) : (s.compAdd ctx pa time).mem.wf = true := by
  unfold State.compAdd
  grind -linarith -ring -order [State.agentLine_wf, State.takeSline_wf, State.compPut_wf]

theorem State.compLater_wf (ctx n : Nat) (l : Launch) {f : State → Nat → State} (hf : ∀ t pa, t.mem.wf = true → (f t pa).mem.wf = true) :
    (s.compLater ctx n l f).mem.wf = true := by
  unfold State.compLater
  grind -linarith -ring -order [State.postEvent_wf, State.compPlace_wf, State.compGet_wf]

theorem State.refuseLaunch_wf (ctx reason : Nat) (comp : DWord) : (s.refuseLaunch ctx reason comp).mem.wf = true := by
  unfold State.refuseLaunch
  grind -linarith -ring -order [State.compPlace_wf, State.compPut_wf]

theorem State.endLaunch_wf (ctx n status : Nat) (l : Launch) : (s.endLaunch ctx n status l).mem.wf = true := by
  unfold State.endLaunch
  grind -linarith -ring -order [State.compLater_wf, State.compPut_wf, State.postEvent_wf, State.modCtx_mem]

theorem State.tryEnd_wf (ctx n : Nat) : (s.tryEnd ctx n).mem.wf = true := by
  unfold State.tryEnd
  grind -linarith -ring -order [State.endLaunch_wf]

theorem State.report_wf (ctx n n' : Nat) : (s.report ctx n n').mem.wf = true := by
  fun_induction State.report <;> grind -linarith -ring -order [State.compLater_wf, State.compAdd_wf, State.modLaunch_mem]

theorem State.shrink_wf (ctx n : Nat) (tree : Option Nat) : (s.shrink ctx n tree).mem.wf = true := by
  unfold State.shrink
  grind -linarith -ring -order [State.modLaunch_mem, State.tryEnd_wf, State.report_wf]

theorem State.storeFree_wf (ctx : Nat) (a : Access) (va n : Nat) : (s.storeFree ctx a va n).mem.wf = true := by
  unfold State.storeFree
  grind -linarith -ring -order [State.free_mem, State.agentWrite_wf, wf_foldl]

theorem State.enqueue_wf (ctx q : Nat) (r : QRec) : (s.enqueue ctx q r).mem.wf = true := by
  unfold State.enqueue
  grind -linarith -ring -order [State.storeFree_wf, State.agentWrite_wf, State.modCtx_mem]

theorem State.offer_wf (ctx : Nat) (b : List Byte) (pts : Nat) : (s.offer ctx b pts).2.mem.wf = true := by
  unfold State.offer
  grind -linarith -ring -order [State.refusal_wf, State.refuseLaunch_wf, State.freeLaunch_mem, State.compPlace_wf, State.compGet_wf,
    State.compPut_wf, State.modCtx_mem, State.enqueue_wf]

theorem execLaunchAccept_wf (ctx : Nat) : AnswersWf (execLaunchAccept ctx s) := by
  unfold execLaunchAccept
  grind -linarith -ring -order [AnswersWf, State.agentRead_wf, State.postEvent_wf, State.modCtx_mem, State.offered_mem, State.offer_wf]

theorem execHeldHeaderEnqueue_wf (ctx : Nat) : AnswersWf (execHeldHeaderEnqueue ctx s) := by
  unfold execHeldHeaderEnqueue
  grind -linarith -ring -order [AnswersWf, State.offer_wf, State.offered_mem]

theorem State.pushRec_wf (w : Pusher) (r : Record) (pts : Nat) : (s.pushRec w r pts).mem.wf = true := by
  unfold State.pushRec
  grind -linarith -ring -order [State.bump_mem, State.grow_mem, State.enqueue_wf]

theorem State.joinCounter_wf (w : Pusher) (pa pts : Nat) : (s.joinCounter w pa pts).2.mem.wf = true := by
  unfold State.joinCounter
  grind -linarith -ring -order [State.agentLine_wf, State.takeSline_wf, State.agentStore_wf, State.noteRefused_mem, State.bumpK_mem,
    State.pushRec_wf]

theorem pushing_wf (x : Ex) (k : State → Out) (hk : ∀ t, t.mem.wf = true → AnswersWf (k t)) : AnswersWf (pushing s x k) := by
  unfold pushing
  grind -linarith -ring -order [AnswersWf, hold_wf, released_wf]

theorem pushDone_wf (x : Ex) (n d v : Nat) : AnswersWf (pushDone s x n d v) := by
  unfold pushDone
  grind -linarith -ring -order [AnswersWf, State.done_mem]

theorem execCont_wf (o : U2) : AnswersWf (execCont o s) := by
  unfold execCont
  grind -linarith -ring -order [AnswersWf, onSplit_wf, pushing_wf, State.pushRec_wf, State.noteRefused_mem, pushDone_wf]

theorem State.pushFork_wf (w : Pusher) (r : Record) (pts n n' : Nat) : (s.pushFork w r pts n n').mem.wf = true := by
  fun_induction State.pushFork <;> grind -linarith -ring -order [State.pushRec_wf]

theorem execCfork_wf (o : U3) : AnswersWf (execCfork o s) := by
  unfold execCfork
  grind -linarith -ring -order [AnswersWf, onSplit_wf, pushDone_wf, pushing_wf, State.noteRefused_mem, State.pushFork_wf, uniAccess_wf,
    State.agentLine_wf, State.releaseTime_wf, State.agentStore_wf]

theorem execCjoin_wf (o : U2) : AnswersWf (execCjoin o s) := by
  unfold execCjoin
  grind -linarith -ring -order [AnswersWf, onSplit_wf, uniAccess_wf, pushing_wf, State.joinCounter_wf, pushDone_wf]

theorem execLaunch_wf (o : U2) : AnswersWf (execLaunch o s) := by
  unfold execLaunch
  grind -linarith -ring -order [AnswersWf, onSplit_wf, uniAccess_wf, pushing_wf, State.agentLine_wf, State.offer_wf, State.bump_mem, pushDone_wf,
    State.noteRefused_mem]

/-! ### Work queues: what keeps memory canonical -/

theorem State.endGroup_wf (x : Ex) : (s.endGroup x).mem.wf = true := by
  unfold State.endGroup
  grind -linarith -ring -order [State.breakHolds_wf, State.modBlock_mem, State.modGroup_mem, State.modCore_mem]

theorem State.freeWindow_wf (core blk : Nat) : (s.freeWindow core blk).mem.wf = true := by
  unfold State.freeWindow
  grind -linarith -ring -order [State.dropHalo_mem, State.modCore_mem, State.finishTouches_wf]

theorem exitLanes_wf (x : Ex) (a : Mask) (n : Nat) (k : State → State) (hk : ∀ t, t.mem.wf = true → (k t).mem.wf = true) :
    AnswersWf (exitLanes s x a n k) := by
  unfold exitLanes
  grind -linarith -ring -order [Rel.Wf, AnswersWf, State.leaveLanes_mem, hold_wf, State.writeBackAll_wf, State.endGroup_wf, State.freeWindow_wf]

theorem execExit_wf (o : G0) : AnswersWf (execExit o s) := by
  unfold execExit
  grind -linarith -ring -order [AnswersWf, onSplit_wf, State.done_mem, hold_wf, exitLanes_wf, State.endRays_mem]

theorem State.dropBlock_wf (blk : Nat) (b : Block) : (s.dropBlock blk b).mem.wf = true := by
  unfold State.dropBlock
  grind -linarith -ring -order [State.modCore_mem, State.shrink_wf, State.endBinding_mem]

theorem State.joinAtEnd_wf (b : Block) (j : Nat) : (s.joinAtEnd b j).2.mem.wf = true := by
  unfold State.joinAtEnd
  grind -linarith -ring -order [State.agentTranslate_wf, State.joinCounter_wf]

theorem State.endWithJoin_wf (blk : Nat) (b : Block) (j : Nat) : ∀ u, s.endWithJoin blk b j = some u → u.mem.wf = true := by
  unfold State.endWithJoin
  grind -linarith -ring -order [State.modCluster_mem, State.joinAtEnd_wf, State.dropBlock_wf, State.modBlock_mem, State.postEvent_wf]

theorem execBlockEnd_wf (blk : Nat) : AnswersWf (execBlockEnd blk s) := by
  unfold execBlockEnd
  grind -linarith -ring -order [AnswersWf, State.dropHolder_mem, State.raiseFloor_mem, State.dropBlock_wf, State.endWithJoin_wf]

theorem execJoinBufferRetry_wf (cluster i : Nat) : AnswersWf (execJoinBufferRetry cluster i s) := by
  unfold execJoinBufferRetry
  grind -linarith -ring -order [AnswersWf, State.endWithJoin_wf]

theorem execQueueEnable_wf (ctx q : Nat) : AnswersWf (execQueueEnable ctx q s) := by
  unfold execQueueEnable
  grind -linarith -ring -order [AnswersWf, State.modCtx_mem]

theorem State.loseJoin_wf (k : Nat) (k' : JoinHeld) : (s.loseJoin k k').mem.wf = true := by
  unfold State.loseJoin
  grind -linarith -ring -order [State.modCluster_mem, State.dropBlock_wf, State.postEvent_wf]

theorem State.discard_wf (ctx : Nat) (r : QRec) : (s.discard ctx r).mem.wf = true := by
  unfold State.discard
  grind -linarith -ring -order [State.shrink_wf]

theorem execQueueDisable_wf (ctx q : Nat) : AnswersWf (execQueueDisable ctx q s) := by
  unfold execQueueDisable
  grind -linarith -ring -order [AnswersWf, State.modCtx_mem, State.discard_wf, State.loseJoin_wf, wf_foldl, mem_foldl]

/-! ### Rays: what keeps memory canonical -/

theorem State.rayStore_wf (ctx id off : Nat) (bs : List Byte) : (s.rayStore ctx id off bs).mem.wf = true := by
  unfold State.rayStore
  grind -linarith -ring -order [State.agentWrite_wf]

theorem State.storeChain_wf (ctx id : Nat) : (s.storeChain ctx id).mem.wf = true := by
  unfold State.storeChain
  grind -linarith -ring -order [State.free_mem, State.rayStore_wf, wf_foldl]

theorem execTrace_wf (o : TraceO) : AnswersWf (execTrace o s) := by
  unfold execTrace
  grind -linarith -ring -order [AnswersWf, onSplit_wf, wordFault_wf, State.done_mem, hold_wf, trapAt_wf, released_wf, exitLanes_wf,
    State.traceLane_mem, wf_foldl]

theorem execRspawn_wf (o : RspO) : AnswersWf (execRspawn o s) := by
  unfold execRspawn
  grind -linarith -ring -order [AnswersWf, onSplit_wf, wordFault_wf, State.done_mem, released_wf, State.spawnLanes_mem]

theorem opChain_wf (i : Instr) (o : G0) (f : Ray → Ray) : AnswersWf (opChain i o f s) := by
  unfold opChain
  grind -linarith -ring -order [AnswersWf, onSplit_wf, wordFault_wf, State.done_mem, hold_wf, released_wf, exitLanes_wf, State.setRay_mem,
    State.storeChain_wf, wf_foldl]

theorem opTest_wf (len al n la d k : Nat) (a c : BitVec 5) (g : Guard) (t : LaneTest → LaneTest) :
    AnswersWf (opTest len al n la d k a c g t s) := by
  unfold opTest
  grind -linarith -ring -order [AnswersWf, onSplit_wf, State.done_mem, State.testChecks_mem, checked_wf, hold_wf, State.testLines_mem,
    State.fresh_mem]

theorem execTbox_wf (o : TboxO) : AnswersWf (execTbox o s) := by
  unfold execTbox
  grind -linarith -ring -order [AnswersWf, opTest_wf]

theorem execTtri_wf (o : TtriO) : AnswersWf (execTtri o s) := by
  unfold execTtri
  grind -linarith -ring -order [AnswersWf, opTest_wf]

theorem execTvuLaneTestDone_wf (id : Nat) : AnswersWf (execTvuLaneTestDone id s) := by
  unfold execTvuLaneTestDone
  grind -linarith -ring -order [AnswersWf, State.bump_mem, State.modGroup_mem]

theorem execTvuAccept_wf (ctx id : Nat) : AnswersWf (execTvuAccept ctx id s) := by
  unfold execTvuAccept
  grind -linarith -ring -order [AnswersWf, State.bump_mem, State.setRay_mem]

theorem State.usedTreelets_wf (w : TreeWho) (vas : List Nat) : (s.usedTreelets w vas).mem.wf = true := by
  unfold State.usedTreelets
  grind -linarith -ring -order [State.usedPref_mem, State.modCluster_mem, wf_foldl]

theorem State.leaveTvu_wf (ctx id : Nat) (r : Ray) : (s.leaveTvu ctx id r).mem.wf = true := by
  unfold State.leaveTvu
  grind -linarith -ring -order [State.storeChain_wf, State.modCluster_mem, State.setRay_mem]

theorem execTraversalDone_wf (ctx id pick : Nat) : AnswersWf (execTraversalDone ctx id pick s) := by
  unfold execTraversalDone
  grind -linarith -ring -order [AnswersWf, State.bumpK_mem, State.bump_mem, State.usedTreelets_wf, State.leaveTvu_wf, State.postEvent_wf,
    State.askTreelet_mem, State.usedPref_mem, State.setRay_mem, State.postFault_wf, State.fresh_mem]

theorem execTreeletFill_wf (cluster ctx line : Nat) : AnswersWf (execTreeletFill cluster ctx line s) := by
  unfold execTreeletFill
  grind -linarith -ring -order [AnswersWf, State.agentLine_wf, State.modCluster_mem]

theorem execRayEnterSaffron_wf (ctx id : Nat) : AnswersWf (execRayEnterSaffron ctx id s) := by
  unfold execRayEnterSaffron
  grind -linarith -ring -order [AnswersWf, State.bumpK_mem, State.rayStore_wf, State.setRay_mem, State.fresh_mem]

theorem execRayRefill_wf (cluster ctx id : Nat) : AnswersWf (execRayRefill cluster ctx id s) := by
  unfold execRayRefill
  grind -linarith -ring -order [AnswersWf, State.bumpK_mem, State.modCluster_mem, State.setRay_mem]

theorem formBin_wf (ctx id : Nat) (c : Ctr) (holds : State → Nat → List Binned → Bool) : AnswersWf (formBin ctx id c holds s) := by
  unfold formBin
  grind -linarith -ring -order [AnswersWf, State.modCluster_mem, State.formEpisode_mem]

theorem execEpisodeFormFull_wf (ctx ray : Nat) : AnswersWf (execEpisodeFormFull ctx ray s) := by
  unfold execEpisodeFormFull
  grind -linarith -ring -order [AnswersWf, formBin_wf]

theorem execEpisodeFormPatience_wf (ctx ray : Nat) : AnswersWf (execEpisodeFormPatience ctx ray s) := by
  unfold execEpisodeFormPatience
  grind -linarith -ring -order [AnswersWf, formBin_wf]

theorem execEpisodeFormDrain_wf (ctx ray : Nat) : AnswersWf (execEpisodeFormDrain ctx ray s) := by
  unfold execEpisodeFormDrain
  grind -linarith -ring -order [AnswersWf, formBin_wf]

theorem State.prefTreelet_wf (w : TreeWho) (va : Nat) : (s.prefTreelet w va).mem.wf = true := by
  unfold State.prefTreelet
  grind -linarith -ring -order [State.agentTranslate_wf, State.bumpK_mem, State.askTreelet_mem]

theorem execTreeletPrefetch_wf (cluster ctx id : Nat) : AnswersWf (execTreeletPrefetch cluster ctx id s) := by
  unfold execTreeletPrefetch
  grind -linarith -ring -order [AnswersWf, State.modCluster_mem, State.prefTreelet_wf, wf_foldl]

/-! ### Admission: what keeps memory canonical -/

theorem State.shaderRec_wf (ctx : Nat) (l : Launch) (i : Nat) : (s.shaderRec ctx l i).2.mem.wf = true := by
  unfold State.shaderRec
  grind -linarith -ring -order [State.agentRead_wf]

theorem State.admitEpisode_wf (core slot e : Nat) (ep : Episode) (l : Launch) : ∀ u ∈ s.admitEpisode core slot e ep l, u.mem.wf = true := by
  simp only [State.admitEpisode, Option.mem_def, Option.map_eq_some_iff]
  rintro u ⟨place, -, rfl⟩
  grind -linarith -ring -order [State.modCluster_mem, State.shaderRec_wf, State.tryEnd_wf, State.bumpK_mem, State.postEvent_wf,
    State.startBlock_mem, State.grow_mem, State.setRay_mem, wf_foldl]

theorem execBlockAdmit_wf (core slot epi : Nat) : AnswersWf (execBlockAdmit core slot epi s) := by
  unfold execBlockAdmit
  grind -linarith -ring -order [AnswersWf, State.admitHead_mem, State.admitEpisode_wf, State.modCluster_mem]

/-! ### The engines: what keeps memory canonical -/

theorem State.jobTranslate_wf (j : Job) (va : Nat) (write : Bool) (classes : List Nat) : (s.jobTranslate j va write classes).2.mem.wf = true := by
  unfold State.jobTranslate
  grind -linarith -ring -order [State.walkFor_wf]

theorem State.jobBacked_wf (j : Job) (write : Bool) (core off : Nat) : (s.jobBacked j write core off).2.mem.wf = true := by
  unfold State.jobBacked
  grind -linarith -ring -order [State.jobTranslate_wf]

theorem State.jobRead_wf (j : Job) (scr : Bool) (a : Nat) : (s.jobRead j scr a).2.mem.wf = true := by
  unfold State.jobRead
  grind -linarith -ring -order [State.jobBacked_wf, State.jobTranslate_wf, State.agentLine_wf]

theorem State.jobReads_wf (j : Job) (scr : Bool) (l : List Nat) : (s.jobReads j scr l).2.mem.wf = true := by
  fun_induction State.jobReads <;> grind -linarith -ring -order [State.jobRead_wf]

theorem State.jobMay_wf (j : Job) (scr : Bool) (a : Nat) : (s.jobMay j scr a).2.mem.wf = true := by
  unfold State.jobMay
  grind -linarith -ring -order [State.jobBacked_wf, State.jobTranslate_wf]

theorem State.jobMays_wf (j : Job) (scr : Bool) (l : List Nat) : (s.jobMays j scr l).2.mem.wf = true := by
  fun_induction State.jobMays <;> grind -linarith -ring -order [State.jobMay_wf]

theorem State.jobWrite_wf (j : Job) (scr : Bool) (a : Nat) (v : Word) (p : Bool) : (s.jobWrite j scr a v p).2.mem.wf = true := by
  unfold State.jobWrite
  grind -linarith -ring -order [State.finishTouches_wf, State.putSpan_mem, State.jobTranslate_wf, State.agentStore_wf]

theorem State.jobWrites_wf (j : Job) (scr : Bool) (l : List (Nat × Word × Bool)) : (s.jobWrites j scr l).2.mem.wf = true := by
  fun_induction State.jobWrites <;> grind -linarith -ring -order [State.jobWrite_wf]

theorem State.jobPlaces_wf (j : Job) : (s.jobPlaces j).2.mem.wf = true := by
  unfold State.jobPlaces
  grind -linarith -ring -order [State.jobReads_wf, State.jobIndices_mem]

theorem State.jobPart_wf (j : Job) : (s.jobPart j).2.mem.wf = true := by
  unfold State.jobPart
  grind -linarith -ring -order [State.jobPlaces_wf, State.free_mem, State.jobRead_wf, State.jobMay_wf, State.jobWrite_wf, wf_foldl_snd,
    mem_foldl_snd]

theorem JobStop.ends_wf (e : JobStop) (j : Job) : (JobStop.ends e j s).Wf := by
  unfold JobStop.ends
  grind -linarith -ring -order [JobEnd.Wf, State.jobPart_wf]

theorem State.jobStore_wf (j : Job) (dst : List Nat) (vals : List (Word × Bool)) (word1 t : Nat) (more : Job × State → Job × State)
    (hmore : ∀ r : Job × State, r.2.mem.wf = true → (more r).2.mem.wf = true) : (s.jobStore j dst vals word1 t more).Wf := by
  unfold State.jobStore
  grind -linarith -ring -order [JobEnd.Wf, JobStop.ends_wf, State.jobMays_wf, State.jobWrites_wf]

theorem State.runCge_wf (j : Job) : (s.runCge j).Wf := by
  unfold State.runCge
  grind -linarith -ring -order [JobEnd.Wf, State.jobStore_wf, State.jobReads_wf, JobStop.ends_wf, State.jobIndices_mem]

theorem State.scribble_wf (scr : Bool) (tmp : List Nat) (j : Job) :
    (tmp.foldl (fun (r : Job × State) a => let f := r.2.free; let g := f.2.free; g.2.jobWrite r.1 scr a f.1 (g.1.getLsbD 0)) (j, s)).2.mem.wf =
      true :=
  wf_foldl_snd (fun _ _ hr => State.jobWrite_wf (by simpa using hr) ..) h

theorem State.runSort_wf (j : Job) : (s.runSort j).Wf := by
  unfold State.runSort
  extract_lets kw vw
  have keysRead := State.jobReads_wf h j j.sscr (wordsFrom j.src (j.kb * j.nk))
  generalize s.jobReads j j.sscr _ = keys at keysRead ⊢
  obtain ⟨_ | ks, u⟩ := keys
  · exact JobStop.ends_wf keysRead ..
  dsimp only
  split
  · exact State.jobPart_wf keysRead j
  have valuesRead := State.jobReads_wf keysRead j j.sscr (if j.vb = 0 then [] else wordsFrom j.vin (j.vb * j.nk))
  generalize State.jobReads u j j.sscr _ = values at valuesRead ⊢
  obtain ⟨_ | vs, v⟩ := values
  · exact JobStop.ends_wf valuesRead ..
  dsimp only
  have placesChecked := State.jobMays_wf valuesRead j j.dscr (wordsFrom j.tmp ((j.kb + j.vb) * j.nk))
  generalize State.jobMays v j j.dscr _ = checked at placesChecked ⊢
  obtain ⟨_ | e, w⟩ := checked
  · exact State.jobStore_wf placesChecked _ _ _ _ _ _ fun r hr => State.scribble_wf hr ..
  · exact JobStop.ends_wf placesChecked ..

theorem State.runJob_wf (j : Job) : (s.runJob j).Wf := by
  unfold State.runJob
  grind -linarith -ring -order [JobEnd.Wf, JobStop.ends_wf, State.runSort_wf, State.runCge_wf]

theorem State.jobArrive_wf (j : Job) : (s.jobArrive j).mem.wf = true := by
  unfold State.jobArrive
  grind -linarith -ring -order [State.postEvent_wf, State.compPlace_wf, State.compGet_wf, State.compAdd_wf]

theorem State.jobFlushWord_wf (j : Job) (core off : Nat) : (State.jobFlushWord j s core off).2.mem.wf = true := by
  unfold State.jobFlushWord
  grind -linarith -ring -order [State.jobTranslate_wf, State.agentStore_wf, State.setWord_mem, State.bump_mem]

theorem State.jobFlush_wf (j : Job) : (s.jobFlush j).2.mem.wf = true := by
  unfold State.jobFlush
  grind -linarith -ring -order [State.jobFlushWord_wf, wf_foldl_snd]

theorem State.endJob_wf (id : Nat) (j : Job) (status word1 : Nat) : (s.endJob id j status word1).mem.wf = true := by
  unfold State.endJob
  grind -linarith -ring -order [State.jobFlush_wf, State.jobArrive_wf, State.raiseFloor_mem, State.postEvent_wf, State.modCluster_mem]

theorem execEngineCardEntry_wf (id : Nat) : AnswersWf (execEngineCardEntry id s) := by
  unfold execEngineCardEntry
  grind -linarith -ring -order [AnswersWf, State.bumpK_mem, State.endJob_wf, State.setJob_mem, State.fresh_mem]

theorem State.jobFills_wf (j : Job) : (s.jobFills j).mem.wf = true := by
  unfold State.jobFills
  grind -linarith -ring -order [State.touchWord_wf, wf_foldl, mem_foldl]

theorem State.jobAsks_wf (id : Nat) (j : Job) : (s.jobAsks id j).mem.wf = true := by
  unfold State.jobAsks
  grind -linarith -ring -order [State.jobFills_wf, State.setJob_mem]

theorem execEngineJobStart_wf (id : Nat) : AnswersWf (execEngineJobStart id s) := by
  unfold execEngineJobStart
  grind -linarith -ring -order [AnswersWf, State.jobAsks_wf]

theorem execEngineJobComplete_wf (id : Nat) : AnswersWf (execEngineJobComplete id s) := by
  unfold execEngineJobComplete
  grind -linarith -ring -order [JobEnd.Wf, AnswersWf, State.runJob_wf, State.postFault_wf, State.fresh_mem, State.setJob_mem, State.endJob_wf,
    State.keysMoved_mem]

theorem queueStuck_wf (x : Ex) (nb : Bool) (cd : BitVec 3) (w : Wait) : AnswersWf (queueStuck s x nb cd w) := by
  unfold queueStuck
  grind -linarith -ring -order [AnswersWf, State.done_mem, waitOn_wf]

theorem queueDone_wf (x : Ex) (nb : Bool) (cd : BitVec 3) (f : Uniform → Uniform) : AnswersWf (queueDone s x nb cd f) := by
  unfold queueDone
  grind -linarith -ring -order [AnswersWf, State.done_mem]

theorem pushCard_wf (x : Ex) (caraway nb : Bool) (cd : BitVec 3) (a : Nat) : AnswersWf (pushCard s x caraway nb cd a) := by
  unfold pushCard
  grind -linarith -ring -order [AnswersWf, queueStuck_wf, hold_wf, released_wf, queueDone_wf, State.setJob_mem, State.fresh_mem]

theorem State.acquired_wf (x : Ex) (pts : Nat) : (s.acquired x pts).mem.wf = true := by
  unfold State.acquired
  grind -linarith -ring -order [State.acquireWords_wf, State.mem_raisePts]

theorem popRecord_wf (x : Ex) (caraway : Bool) (o : QpoO) : AnswersWf (popRecord s x caraway o) := by
  unfold popRecord
  grind -linarith -ring -order [AnswersWf, queueStuck_wf, State.modCluster_mem, queueDone_wf, State.acquired_wf]

theorem State.postMail_wf (x : Ex) (m : Nat) (v : DWord) : (s.postMail x m v).mem.wf = true := by
  unfold State.postMail
  grind -linarith -ring -order [State.agentWrite_wf, State.modCluster_mem, State.mem_setMail]

theorem mailbox_wf (x : Ex) (m : Nat) {k : Out} (hk : AnswersWf k) : AnswersWf (mailbox s x m k) := by
  unfold mailbox
  grind -linarith -ring -order [trapAt_wf, hold_wf]

theorem pushMail_wf (x : Ex) (m : Nat) (o : QpuO) : AnswersWf (pushMail s x m o) := by
  unfold pushMail
  grind -linarith -ring -order [AnswersWf, mailbox_wf, queueStuck_wf, released_wf, queueDone_wf, State.postMail_wf]

theorem popMail_wf (x : Ex) (m : Nat) (o : QpoO) : AnswersWf (popMail s x m o) := by
  unfold popMail
  grind -linarith -ring -order [AnswersWf, mailbox_wf, queueStuck_wf, queueDone_wf, State.acquired_wf, State.mem_setMail]

theorem execQpush_wf (o : QpuO) : AnswersWf (execQpush o s) := by
  unfold execQpush
  grind -linarith -ring -order [AnswersWf, onSplit_wf, pushCard_wf, pushMail_wf]

theorem execQpop_wf (o : QpoO) : AnswersWf (execQpop o s) := by
  unfold execQpop
  grind -linarith -ring -order [AnswersWf, onSplit_wf, popRecord_wf, popMail_wf]

/-! ### Messages: what keeps memory canonical -/

theorem State.spanChecks_wf (x : Ex) (core : Nat) (l : List Nat) : (s.spanChecks x core l).2.mem.wf = true := by
  fun_induction State.spanChecks <;> grind -linarith -ring -order [State.backCheck_wf]

theorem readSpan_wf (x : Ex) (core off n : Nat) (k : List Byte → List Bool → State → Out) (hk : ∀ a b t, t.mem.wf = true → AnswersWf (k a b t)) :
    AnswersWf (readSpan s x core off n k) := by
  unfold readSpan
  grind -linarith -ring -order [AnswersWf, State.spanChecks_wf, scrFault_wf, hold_wf, waitOn_wf, State.touchRange_wf]

theorem opSend_wf (mc : Bool) (o : SendO) : AnswersWf (opSend mc o s) := by
  unfold opSend
  grind -linarith -ring -order [AnswersWf, onSplit_wf, trapAt_wf, waitOn_wf, queueDone_wf, hold_wf, readSpan_wf, released_wf, State.fresh_mem]

theorem State.putPayload_wf (ctx core off : Nat) (bs : List Byte) (ps : List Bool) : (s.putPayload ctx core off bs ps).mem.wf = true := by
  unfold State.putPayload
  grind -linarith -ring -order [State.storeScr_mem, State.setScrPoison_mem, State.finishTouches_wf, wf_foldl, mem_foldl]

theorem State.receive_wf (core n : Nat) (r : Recv) (m : Msg) : (s.receive core n r m).mem.wf = true := by
  unfold State.receive
  grind -linarith -ring -order [State.putPayload_wf, State.bump_mem, State.modMsgs_mem]

theorem State.arrive_wf (core : Nat) (m : Msg) : (s.arrive core m).2.mem.wf = true := by
  unfold State.arrive
  grind -linarith -ring -order [State.bump_mem, State.receive_wf, State.modMsgs_mem]

theorem execMessageArrival_wf (id : Nat) : AnswersWf (execMessageArrival id s) := by
  unfold execMessageArrival
  grind -linarith -ring -order [AnswersWf, State.free_mem, State.arrive_wf, State.answered_mem]

theorem execMessageResend_wf (id : Nat) : AnswersWf (execMessageResend id s) := by
  unfold execMessageResend
  grind -linarith -ring -order [AnswersWf]

theorem setOne_wf (x : Ex) (d v : Nat) : AnswersWf (setOne s x d v) := by
  unfold setOne
  grind -linarith -ring -order [AnswersWf, State.done_mem]

theorem execRecvPost_wf (o : U2) : AnswersWf (execRecvPost o s) := by
  unfold execRecvPost
  grind -linarith -ring -order [AnswersWf, onSplit_wf, trapAt_wf, waitOn_wf, setOne_wf, State.fresh_mem, State.receive_wf, State.modMsgs_mem]

theorem takeRecv_wf (x : Ex) (o : U2) (k : Nat) (r : Recv) (m : Msg) : AnswersWf (takeRecv s x o k r m) := by
  unfold takeRecv
  grind -linarith -ring -order [AnswersWf, trapAt_wf, State.modMsgs_mem, State.done_mem, State.acquired_wf]

theorem execRecvWait_wf (o : U2) : AnswersWf (execRecvWait o s) := by
  unfold execRecvWait
  grind -linarith -ring -order [AnswersWf, onSplit_wf, setOne_wf, waitOn_wf, takeRecv_wf]

theorem execRecvTest_wf (o : U2) : AnswersWf (execRecvTest o s) := by
  unfold execRecvTest
  grind -linarith -ring -order [AnswersWf, onSplit_wf, setOne_wf, State.done_mem, takeRecv_wf]

theorem execRecvCancel_wf (o : U2) : AnswersWf (execRecvCancel o s) := by
  unfold execRecvCancel
  grind -linarith -ring -order [AnswersWf, onSplit_wf, setOne_wf, State.modMsgs_mem]

/-! ### Preemption: what keeps memory canonical -/

theorem execSwitchTaken_wf (core : Nat) : AnswersWf (execSwitchTaken core s) := by
  unfold execSwitchTaken
  grind -linarith -ring -order [AnswersWf, State.switchOne_mem, State.rebind_mem, State.modMx_mem, wf_foldl]

theorem State.writeImage_wf (core ctx from_ n : Nat) : (s.writeImage core ctx from_ n).mem.wf = true := by
  unfold State.writeImage
  grind -linarith -ring -order [State.free_mem, State.agentWrite_wf, State.modSaved_mem, wf_foldl]

theorem State.drainClk_wf (core : Nat) : (s.drainClk core).mem.wf = true := by
  unfold State.drainClk
  grind -linarith -ring -order [State.leaves_mem, State.modCore_mem, State.bump_mem, State.writeImage_wf]

theorem execDrainComplete_wf (core : Nat) : AnswersWf (execDrainComplete core s) := by
  unfold execDrainComplete
  grind -linarith -ring -order [AnswersWf, State.vacate_mem, State.modCore_mem, State.restoreActive_mem]

theorem execLoadStart_wf (core : Nat) : AnswersWf (execLoadStart core s) := by
  unfold execLoadStart
  grind -linarith -ring -order [AnswersWf, State.modCore_mem, State.setRes_mem]

theorem execLoadComplete_wf (core ok : Nat) : AnswersWf (execLoadComplete core ok s) := by
  unfold execLoadComplete
  grind -linarith -ring -order [AnswersWf, State.contextFault_mem, State.restore_mem]

theorem State.cutJobs_wf (ctx : Nat) : (s.cutJobs ctx).mem.wf = true := by
  unfold State.cutJobs
  grind -linarith -ring -order [State.jobPart_wf, wf_foldl]

theorem State.cutXfers_wf (core ctx : Nat) : (s.cutXfers core ctx).mem.wf = true := by
  unfold State.cutXfers
  grind -linarith -ring -order [State.free_mem, State.moveRow_wf, wf_foldl, mem_foldl]

theorem State.breakSync_wf (ctx : Nat) : (s.breakSync ctx).mem.wf = true := by
  unfold State.breakSync
  grind -linarith -ring -order [State.breakHolds_wf, State.semWrite_wf, State.loseWindow_wf, wf_foldl, mem_foldl]

theorem State.cutCore_wf (core ctx : Nat) : (s.cutCore core ctx).mem.wf = true := by
  unfold State.cutCore
  grind -linarith -ring -order [State.vacate_mem, State.cutAccst_mem, State.cutXfers_wf, State.modCore_mem, State.restoreActive_mem]

theorem State.kill_wf (ctx status : Nat) : (s.kill ctx status).mem.wf = true := by
  unfold State.kill
  grind -linarith -ring -order [State.cutReqs_mem, State.breakSync_wf, State.cutJobs_wf, State.endLaunch_wf, State.cutCore_wf, State.modCtx_mem,
    State.runWalks_mem, wf_foldl, mem_foldl]

theorem execContextFault_wf (ctx : Nat) : AnswersWf (execContextFault ctx s) := by
  unfold execContextFault
  grind -linarith -ring -order [AnswersWf, State.postEvent_wf, State.kill_wf]

theorem execKillDone_wf (ctx : Nat) : AnswersWf (execKillDone ctx s) := by
  unfold execKillDone
  grind -linarith -ring -order [AnswersWf, State.modCtx_mem, State.postEvent_wf]

/-! ### The host: what keeps memory canonical -/

theorem State.dropCode_wf (ctx a n : Nat) : (s.dropCode ctx a n).mem.wf = true := by
  unfold State.dropCode
  grind -linarith -ring -order

theorem State.command_wf (op ctx core : Nat) : (s.command op ctx core).mem.wf = true := by
  unfold State.command
  grind -linarith -ring -order [State.placeShadow_mem, State.modCore_mem, State.queueLoads_mem, State.kill_wf, State.dropTlb_mem, State.dropCode_wf]

theorem execPlaceShadow_wf (ctx core : Nat) : AnswersWf (execPlaceShadow ctx core s) := by
  unfold execPlaceShadow
  grind -linarith -ring -order [AnswersWf, State.command_wf]

theorem execSwitchCore_wf (ctx core : Nat) : AnswersWf (execSwitchCore ctx core s) := by
  unfold execSwitchCore
  grind -linarith -ring -order [AnswersWf, State.command_wf]

theorem execLoadContext_wf (ctx : Nat) : AnswersWf (execLoadContext ctx s) := by
  unfold execLoadContext
  grind -linarith -ring -order [AnswersWf, State.command_wf]

theorem execKillContext_wf (ctx : Nat) : AnswersWf (execKillContext ctx s) := by
  unfold execKillContext
  grind -linarith -ring -order [AnswersWf, State.command_wf]

theorem execTlbDrop_wf (ctx : Nat) : AnswersWf (execTlbDrop ctx s) := by
  unfold execTlbDrop
  grind -linarith -ring -order [AnswersWf, State.command_wf]

theorem execIcacheInvalidate_wf (ctx : Nat) : AnswersWf (execIcacheInvalidate ctx s) := by
  unfold execIcacheInvalidate
  grind -linarith -ring -order [AnswersWf, State.command_wf]

theorem State.setFqhead_wf (ctx v : Nat) : (s.setFqhead ctx v).mem.wf = true := by
  unfold State.setFqhead
  grind -linarith -ring -order [State.modRings_mem, State.drainFaults_wf]

theorem hostWrite_wf {t : State} (ht : t.mem.wf = true) : AnswersWf (hostWrite s t) := by
  unfold hostWrite
  split
  · exact h
  · exact ht

theorem execLqtailWrite_wf (ctx v : Nat) : AnswersWf (execLqtailWrite ctx v s) := by
  unfold execLqtailWrite
  grind -linarith -ring -order [AnswersWf, hostWrite_wf, State.setLqtail_mem]

theorem execFqheadWrite_wf (ctx v : Nat) : AnswersWf (execFqheadWrite ctx v s) := by
  unfold execFqheadWrite
  grind -linarith -ring -order [AnswersWf, hostWrite_wf, State.setFqhead_wf]

theorem execFqreplayWrite_wf (ctx token : Nat) : AnswersWf (execFqreplayWrite ctx token s) := by
  unfold execFqreplayWrite
  grind -linarith -ring -order [AnswersWf, hostWrite_wf, State.replay_mem]

theorem execEqheadWrite_wf (ctx v : Nat) : AnswersWf (execEqheadWrite ctx v s) := by
  unfold execEqheadWrite
  grind -linarith -ring -order [AnswersWf, hostWrite_wf, State.modRings_mem]

theorem execPwrcapWrite_wf (v : Nat) : AnswersWf (execPwrcapWrite v s) := by
  unfold execPwrcapWrite
  grind -linarith -ring -order [AnswersWf, hostWrite_wf, State.setPwrcap_mem]

theorem execWeightWrite_wf (c v : Nat) : AnswersWf (execWeightWrite c v s) := by
  unfold execWeightWrite
  grind -linarith -ring -order [AnswersWf, hostWrite_wf, State.setWeight_mem]

theorem State.writeDev_wf (o v : Nat) : (s.writeDev o v).mem.wf = true := by
  unfold State.writeDev
  grind -linarith -ring -order [State.setPwrcap_mem, State.setWeights_mem, State.command_wf]

theorem outOr_wf {o : Out} (ho : AnswersWf o) : (outOr o s).mem.wf = true := by
  cases o with
  | next t => exact ho
  | fault _ => exact h
  | refused _ => exact h

theorem State.writeCtx_wf (ctx o v : Nat) : (s.writeCtx ctx o v).mem.wf = true := by
  unfold State.writeCtx
  grind -linarith -ring -order [outOr_wf, State.setLqtail_mem, State.setFqhead_wf, State.replay_mem, State.modRings_mem, State.writeFree_mem,
    execQueueEnable_wf, execQueueDisable_wf]

theorem State.bar0Write_wf (o v : Nat) : (s.bar0Write o v).mem.wf = true := by
  unfold State.bar0Write
  grind -linarith -ring -order [State.writeDev_wf, State.writeCtx_wf]

theorem execRegisterWrite_wf (off v : Nat) : AnswersWf (execRegisterWrite off v s) := by
  unfold execRegisterWrite
  grind -linarith -ring -order [AnswersWf, State.bar0Write_wf]

theorem State.ctlWrite_wf (o : Nat) (bs : List Byte) : (s.ctlWrite o bs).mem.wf = true := by
  unfold State.ctlWrite
  grind -linarith -ring -order [State.bar0Write_wf, wf_foldl]

theorem State.bar2Part_wf (wr : Bool) (pa o n : Nat) (bs : List Byte) : ∀ r ∈ s.bar2Part wr pa o n bs, r.2.mem.wf = true := by
  unfold State.bar2Part
  grind -linarith -ring -order [Memory.store_wf, State.modRows_mem, State.agentStore_wf, State.agentLine_wf, State.hostBytes_mem, State.ctlWrite_wf]

theorem State.hostGo_wf (n : Nat) (b : HostAccess) : (State.hostGo n s b).mem.wf = true := by
  fun_induction State.hostGo with
  | case1 => exact h
  | case2 => exact h
  | case3 => exact h
  | case4 n s b pa o k t e bs u hpart ih => exact ih (State.bar2Part_wf h b.wr pa o k _ _ hpart)

theorem State.hostTry_wf : s.hostTry.mem.wf = true := by
  unfold State.hostTry
  grind -linarith -ring -order [State.hostGo_wf]

theorem execBar2Access_wf (wr off n v : Nat) : AnswersWf (execBar2Access wr off n v s) := by
  unfold execBar2Access
  grind -linarith -ring -order [AnswersWf, State.hostGo_wf]

theorem execFundamentalReset_wf : AnswersWf (execFundamentalReset s) := by
  unfold execFundamentalReset
  grind -linarith -ring -order [AnswersWf, State.again_wf]

theorem execPowerRemoved_wf : AnswersWf (execPowerRemoved s) := by
  unfold execPowerRemoved
  grind -linarith -ring -order [AnswersWf, State.again_wf]

theorem execBootVerifyDone_wf (ok : Nat) : AnswersWf (execBootVerifyDone ok s) := by
  unfold execBootVerifyDone
  grind -linarith -ring -order [AnswersWf]

theorem State.breakAway_wf (ctx obj : Nat) : (s.breakAway ctx obj).mem.wf = true := by
  unfold State.breakAway
  grind -linarith -ring -order [State.breakHolds_wf]

theorem State.breakSemas_wf (ctx : Nat) : (s.breakSemas ctx).mem.wf = true := by
  unfold State.breakSemas
  grind -linarith -ring -order [State.breakSema_wf, wf_foldl]

theorem State.failSends_wf (ctx : Nat) : (s.failSends ctx).mem.wf = true := by
  unfold State.failSends
  grind -linarith -ring -order [State.dropSend_mem, State.raise_wf, wf_foldl, mem_foldl]

theorem State.loseContext_wf (ctx : Nat) : (s.loseContext ctx).mem.wf = true := by
  unfold State.loseContext
  grind -linarith -ring -order [State.modCtx_mem, State.postEvent_wf, State.breakAway_wf, State.breakSemas_wf, State.loseWindow_wf,
    State.failSends_wf, wf_foldl, mem_foldl]

theorem execPairedContextLost_wf (ctx : Nat) : AnswersWf (execPairedContextLost ctx s) := by
  unfold execPairedContextLost
  grind -linarith -ring -order [AnswersWf, State.loseContext_wf]

theorem State.cutLines_wf : s.cutLines.mem.wf = true := by
  unfold State.cutLines
  grind -linarith -ring -order [State.dropCopy_mem, State.lostTell_wf, State.setReq_mem, State.lostStore_wf, wf_foldl, mem_foldl]

theorem execPairLinkLost_wf : AnswersWf (execPairLinkLost s) := by
  unfold execPairLinkLost
  grind -linarith -ring -order [AnswersWf, State.cutLines_wf, State.free_mem, State.loseContext_wf, wf_foldl]

theorem execPairLinkUp_wf : AnswersWf (execPairLinkUp s) := by
  unfold execPairLinkUp
  grind -linarith -ring -order [AnswersWf]

theorem execPairFlitReplay_wf : AnswersWf (execPairFlitReplay s) := by
  unfold execPairFlitReplay
  grind -linarith -ring -order [AnswersWf, State.memError_wf]

/-! ### Issue: what keeps memory canonical -/

theorem State.fetch_wf (core ctx : Nat) (who : Waiter) (pc : Nat) : (s.fetch core ctx who pc).2.mem.wf = true := by
  unfold State.fetch
  grind -linarith -ring -order [State.translate_mem, State.agentLine_wf, State.modCore_mem]

theorem State.secondWord_wf (x : Ex) (a cause : Nat) (w0 : Word) : (s.secondWord x a cause w0).2.mem.wf = true := by
  unfold State.secondWord
  grind -linarith -ring -order [State.fetch_wf]

theorem State.lookAt_wf (x : Ex) : (s.lookAt x).2.mem.wf = true := by
  unfold State.lookAt
  grind -linarith -ring -order [State.fetch_wf, State.lookInstr_mem, State.secondWord_wf]

theorem State.look_wf (x : Ex) : (s.look x).2.mem.wf = true := by
  unfold State.look
  grind -linarith -ring -order [State.lookAt_wf]

theorem State.listRivals_wf (before : State) (x : Ex) : (s.listRivals before x).mem.wf = true := by
  unfold State.listRivals
  grind -linarith -ring -order [State.modGroup_mem]

theorem execYield_wf (o : G0) : AnswersWf (execYield o s) := by
  unfold execYield
  grind -linarith -ring -order [AnswersWf, onSplit_wf, State.done_mem, State.yields_mem]

theorem execNap_wf (o : B1) : AnswersWf (execNap o s) := by
  unfold execNap
  grind -linarith -ring -order [AnswersWf, onSplit_wf, State.done_mem, State.yields_mem, State.modGroup_mem]

theorem execNapExpiry_wf (core slot entry : Nat) : AnswersWf (execNapExpiry core slot entry s) := by
  unfold execNapExpiry
  grind -linarith -ring -order [AnswersWf, State.modGroup_mem]

theorem execYieldTimeout_wf (core slot entry : Nat) : AnswersWf (execYieldTimeout core slot entry s) := by
  unfold execYieldTimeout
  grind -linarith -ring -order [AnswersWf, State.modGroup_mem]

/-! ### Register windows: what keeps memory canonical -/

theorem State.pseWord_wf (ctx area : Nat) (write : Bool) (p : Nat × Nat) : (s.pseWord ctx area write p).2.mem.wf = true := by
  unfold State.pseWord
  grind -linarith -ring -order [State.walkAndTell_wf]

theorem State.pseWords_wf (ctx area : Nat) (write : Bool) (l : Words) : (s.pseWords ctx area write l).2.mem.wf = true := by
  fun_induction State.pseWords <;> grind -linarith -ring -order [State.pseWord_wf]

theorem pseFault_wf (x : Ex) (write : Bool) (f : PseFail) (fs : List PseFail) : AnswersWf (pseFault s x write f fs) := by
  unfold pseFault
  grind -linarith -ring -order [AnswersWf, accessFault_wf]

theorem State.pseStore_wf (ctx p : Nat) (g : Group) (l : Words) (l' : List (Nat × Nat)) : (s.pseStore ctx p g l l').mem.wf = true := by
  fun_induction State.pseStore <;> grind -linarith -ring -order [State.agentStore_wf]

theorem State.pseLoad_wf (ctx : Nat) (g : Group) (l : Words) (l' : List (Nat × Nat)) : (s.pseLoad ctx g l l').2.mem.wf = true := by
  fun_induction State.pseLoad <;> grind -linarith -ring -order [State.agentLine_wf]

theorem enterCall_wf (x : Ex) (a : Mask) (k : Nat) (t : List (Nat × DWord)) : AnswersWf (enterCall s x a k t) := by
  unfold enterCall
  grind -linarith -ring -order [AnswersWf, hold_wf, trapAt_wf, State.pseWords_wf, pseFault_wf, State.bump_mem, State.pseStore_wf, State.divide_mem]

theorem execCall_wf (o : CallO) : AnswersWf (execCall o s) := by
  unfold execCall
  grind -linarith -ring -order [AnswersWf, onSplit_wf, State.done_mem, hold_wf, enterCall_wf]

theorem execCallx_wf (o : CallxO) : AnswersWf (execCallx o s) := by
  unfold execCallx
  grind -linarith -ring -order [AnswersWf, onSplit_wf, State.done_mem, hold_wf, targetFault_wf, enterCall_wf]

theorem execRet_wf (o : G0) : AnswersWf (execRet o s) := by
  unfold execRet
  grind -linarith -ring -order [AnswersWf, onSplit_wf, State.done_mem, hold_wf, trapAt_wf, State.pseWords_wf, pseFault_wf, State.pseLoad_wf,
    State.divide_mem, State.bump_mem]

/-! ### Errors: what keeps memory canonical -/

theorem State.rayFlaw_wf (ctx id unit_ : Nat) : (s.rayFlaw ctx id unit_).mem.wf = true := by
  unfold State.rayFlaw
  grind -linarith -ring -order [State.free_mem, State.setRay_mem, State.bump_mem, State.postEvent_wf, State.modCluster_mem]

theorem State.flawLasts_wf (at_ : FlawAt) : (s.flawLasts at_).mem.wf = true := by
  have poisoned (a : Nat) : Memory.wf { s.mem with poison := poisonUnit s.mem.poison a } = true := by
    rw [Memory.wf_iff] at *
    exact ⟨h.1, Poison.put_ok _ _ h.2⟩
  unfold State.flawLasts
  grind -linarith -ring -order [State.setScrPoison_mem, State.modMx_mem, State.rayFlaw_wf, State.modCluster_mem, State.bump_mem]

theorem State.meetFlaw_wf (f : Flaw) : (s.meetFlaw f).mem.wf = true := by
  unfold State.meetFlaw
  grind -linarith -ring -order [State.bump_mem, State.errCorrected_mem, State.flawAddr_mem, State.memError_wf, State.flawLasts_wf]

/-! ### The schedule: what keeps memory canonical -/

theorem State.takePlace_wf (before : State) (x : Ex) (i : Instr) : (s.takePlace before x i).mem.wf = true := by
  unfold State.takePlace
  grind -linarith -ring -order [State.noteIssue_mem, State.listRivals_wf]

theorem State.goingOn_wf (before : State) (x : Ex) (i : Instr) : (s.goingOn before x i).mem.wf = true := by
  unfold State.goingOn
  grind -linarith -ring -order [State.countIssue_mem, State.takePlace_wf, State.modGroup_mem, State.fresh_mem]

theorem State.finished_wf (before : State) (x : Ex) (i : Instr) : (s.finished before x i).mem.wf = true := by
  unfold State.finished
  grind -linarith -ring -order [State.goingOn_wf, State.forget_mem, State.modGroup_mem, State.countIssue_mem, State.takePlace_wf]

theorem State.lookFault_wf (x : Ex) (cause : Nat) (host : Bool) (w0 w1 : Word) : AnswersWf (s.lookFault x cause host w0 w1) := by
  unfold State.lookFault
  grind -linarith -ring -order [AnswersWf, accessFault_wf, State.forget_mem]

theorem State.tick_wf : s.tick.mem.wf = true := by
  unfold State.tick
  grind -linarith -ring -order [State.drainClk_wf, State.loadClk_mem, State.mxClk_mem, State.bump_mem, State.countActs_mem, State.hostTry_wf,
    State.clusterWaits_mem, wf_foldl]

/-! ### Instructions and events -/

theorem onSplit_done_wf {n : Ex → Nat} {f : Ex → Group → Group} : AnswersWf (onSplit s fun x => .next (s.done x (n x) (f x))) := by
  unfold onSplit
  split
  · exact h
  · trivial

theorem exec_wf (i : Instr) : AnswersWf (exec i s) := by
  cases i
  case iadd | isub | iaddSat | isubSat | iminI | imaxI | iminN | imaxN | iabs | ineg | idiff | lea1 | lea2 | lea3 | lea4 | iaddw | isubw | and | or
      | xor | andn | orn | not | shl | shrN | shrI | rotl | popc | clz | brev | bytsel | imul | imulhI | imulhN | imulwI | imulwN | imad | imadW |
      bfe | bfi | iset | mov | sel | movu | movs | iaddi | andi | ori | xori | shi | movi | fadd | fsub | fmul | fmin | fmax | fabs | fneg |
      fcopysign | ffrac | fclass | frintRn | frintRz | frintRm | frintRp | faddRz | faddRm | faddRp | fmulRz | fmulRm | fmulRp | ffma | ffms |
      hfma2F16 | hfma2Bf16 | frcp | frsq | fsqrt | fex2 | flg2 | fsint | fcost | ftanh | flogi | fset | cvt | pk2F16 | pk2Bf16 | pk4E4m3 | pk4E5m2
      | pk8E2m1 | pk4E4m3Sat | pk4E5m2Sat | upk2F16 | upk2Bf16 | upk4E4m3 | upk4E5m2 | upk8E2m1 | dp4E4m3 | dp4E5m2 | idp4I8 | idp4N8 | pand | por
      | pxor | pnot | ppack | punpk | pmov | lxcAt | lxcFlip | lxcBelow | lxcAbove | lany | lall | lmask | lfirst | lsum | lminI | lmaxI | lsame |
      jset | jget | nop | uadd | usub | umul | umulhN | uminI | umaxI | uminN | umaxN | uand | uor | uxor | ushl | ushrN | ushrI | upopc | uclz |
      umov | uaddw | uaddi | uandi | uori | ushi | umovi | uset | umovs | ulaneFirst | ulaneIdx | cand | cor | cxor | cnot | flgr | flgc | mode |
      moder => exact onSplit_done_wf h
  case bra => exact execBra_wf h ..
  case brx => exact execBrx_wf h ..
  case brk => exact execBrk_wf h ..
  case jwait => exact execJwait_wf h ..
  case jdrop => exact execJdrop_wf h ..
  case jput => exact execJput_wf h ..
  case call => exact execCall_wf h ..
  case callx => exact execCallx_wf h ..
  case ret => exact execRet_wf h ..
  case exit => exact execExit_wf h ..
  case yield => exact execYield_wf h ..
  case nap => exact execNap_wf h ..
  case ld => exact execLd_wf h ..
  case st => exact execSt_wf h ..
  case pref => exact execPref_wf h ..
  case cline => exact execCline_wf h ..
  case sld => exact execSld_wf h ..
  case sst => exact execSst_wf h ..
  case atom => exact execAtom_wf h ..
  case red => exact execRed_wf h ..
  case satom => exact execSatom_wf h ..
  case tbox => exact execTbox_wf h ..
  case ttri => exact execTtri_wf h ..
  case trace => exact execTrace_wf h ..
  case rspawn => exact execRspawn_wf h ..
  case nexthit | rend => exact opChain_wf h ..
  case ubra => exact execUbra_wf h ..
  case ujmp => exact execUjmp_wf h ..
  case tfence => exact execTfence_wf h ..
  case trap => exact execTrap_wf h ..
  case rtt => exact execRtt_wf h ..
  case bkpt => exact execBkpt_wf h ..
  case mma => exact execMma_wf h ..
  case mmaC => exact execMmaC_wf h ..
  case mmag => exact execMmag_wf h ..
  case mmas => exact execMmas_wf h ..
  case accZero => exact execAccZero_wf h ..
  case accCommit => exact execAccCommit_wf h ..
  case accDrop => exact execAccDrop_wf h ..
  case accMerge => exact execAccMerge_wf h ..
  case accPoison => exact execAccPoison_wf h ..
  case accld | accst => exact opAccIo_wf h ..
  case amap => exact execAmap_wf h ..
  case bplLd => exact execBplLd_wf h ..
  case bplZero => exact execBplZero_wf h ..
  case pairBind => exact execPairBind_wf h ..
  case pairFree => exact execPairFree_wf h ..
  case mwait => exact execMwait_wf h ..
  case rowact => exact execRowact_wf h ..
  case rowcon | rowwr => exact opMove_wf h ..
  case rowpre => exact execRowpre_wf h ..
  case rowst => exact execRowst_wf h ..
  case rowwait => exact execRowwait_wf h ..
  case smap => exact execSmap_wf h ..
  case sunmap => exact execSunmap_wf h ..
  case sflush => exact execSflush_wf h ..
  case sinv => exact execSinv_wf h ..
  case spres => exact execSpres_wf h ..
  case shpush => exact execShpush_wf h ..
  case sgath => exact execSgath_wf h ..
  case syncAcqX | syncAcqS | syncAcqO => exact opAcquire_wf h ..
  case syncRel => exact execSyncRel_wf h ..
  case sbind => exact execSbind_wf h ..
  case sunbind => exact execSunbind_wf h ..
  case fenceAcq | fenceRel | fenceFull => exact opFence_wf h ..
  case semaSig => exact execSemaSig_wf h ..
  case semaWait => exact execSemaWait_wf h ..
  case semaTry => exact execSemaTry_wf h ..
  case barArr => exact execBarArr_wf h ..
  case barWait => exact execBarWait_wf h ..
  case barSync => exact execBarSync_wf h ..
  case ordopen => exact execOrdopen_wf h ..
  case qpush => exact execQpush_wf h ..
  case qpop => exact execQpop_wf h ..
  case cont => exact execCont_wf h ..
  case cfork => exact execCfork_wf h ..
  case cjoin => exact execCjoin_wf h ..
  case launch => exact execLaunch_wf h ..
  case mcast | send => exact opSend_wf h ..
  case recvPost => exact execRecvPost_wf h ..
  case recvWait => exact execRecvWait_wf h ..
  case recvTest => exact execRecvTest_wf h ..
  case recvCancel => exact execRecvCancel_wf h ..
  case placeShadow => exact execPlaceShadow_wf h ..
  case switchCore => exact execSwitchCore_wf h ..
  case loadContext => exact execLoadContext_wf h ..
  case killContext => exact execKillContext_wf h ..
  case tlbDrop => exact execTlbDrop_wf h ..
  case icacheInvalidate => exact execIcacheInvalidate_wf h ..
  case lqtailWrite => exact execLqtailWrite_wf h ..
  case fqheadWrite => exact execFqheadWrite_wf h ..
  case fqreplayWrite => exact execFqreplayWrite_wf h ..
  case eqheadWrite => exact execEqheadWrite_wf h ..
  case pwrcapWrite => exact execPwrcapWrite_wf h ..
  case weightWrite => exact execWeightWrite_wf h ..
  case queueEnable => exact execQueueEnable_wf h ..
  case queueDisable => exact execQueueDisable_wf h ..
  case registerWrite => exact execRegisterWrite_wf h ..
  case bar2Access => exact execBar2Access_wf h ..
  case fundamentalReset => exact execFundamentalReset_wf h ..
  case bootVerifyDone => exact execBootVerifyDone_wf h ..
  case pairLinkLost => exact execPairLinkLost_wf h ..
  case trapEntry => exact execTrapEntry_wf h ..
  case contextFault => exact execContextFault_wf h ..
  case killDone => exact execKillDone_wf h ..
  case switchTaken => exact execSwitchTaken_wf h ..
  case drainComplete => exact execDrainComplete_wf h ..
  case loadStart => exact execLoadStart_wf h ..
  case loadComplete => exact execLoadComplete_wf h ..
  case napExpiry => exact execNapExpiry_wf h ..
  case yieldTimeout => exact execYieldTimeout_wf h ..
  case opportunisticMerge => exact execOpportunisticMerge_wf h ..
  case launchAccept => exact execLaunchAccept_wf h ..
  case heldHeaderEnqueue => exact execHeldHeaderEnqueue_wf h ..
  case blockAdmit => exact execBlockAdmit_wf h ..
  case blockEnd => exact execBlockEnd_wf h ..
  case joinBufferRetry => exact execJoinBufferRetry_wf h ..
  case timeWrap => exact execTimeWrap_wf h ..
  case walkDone => exact execWalkDone_wf h ..
  case sliceRead => exact execSliceRead_wf h ..
  case sliceStore => exact execSliceStore_wf h ..
  case l1Reply => exact execL1Reply_wf h ..
  case l1Probe => exact execL1Probe_wf h ..
  case storeAck => exact execStoreAck_wf h ..
  case targetAccess => exact execTargetAccess_wf h ..
  case rscAccess => exact execRscAccess_wf h ..
  case atomPerform => exact execAtomPerform_wf h ..
  case redApply => exact execRedApply_wf h ..
  case orderedRedArrival => exact execOrderedRedArrival_wf h ..
  case ordopenAnswer => exact execOrdopenAnswer_wf h ..
  case syncGrant => exact execSyncGrant_wf h ..
  case semaCountTaken => exact execSemaCountTaken_wf h ..
  case barPhaseComplete => exact execBarPhaseComplete_wf h ..
  case scratchRemoteAccess => exact execScratchRemoteAccess_wf h ..
  case scratchFillLand => exact execScratchFillLand_wf h ..
  case scratchWbAck => exact execScratchWbAck_wf h ..
  case scratchProbe => exact execScratchProbe_wf h ..
  case haloPushArrival => exact execHaloPushArrival_wf h ..
  case haloPushDone => exact execHaloPushDone_wf h ..
  case rowOpenDone => exact execRowOpenDone_wf h ..
  case rowCloseStart => exact execRowCloseStart_wf h ..
  case rowCloseDone => exact execRowCloseDone_wf h ..
  case rowHoldExpiry => exact execRowHoldExpiry_wf h ..
  case rowRefresh => exact execRowRefresh_wf h ..
  case internalActivation => exact execInternalActivation_wf h ..
  case rowTransferStart => exact execRowTransferStart_wf h ..
  case rowTransferEnd => exact execRowTransferEnd_wf h ..
  case rowReactivation => exact execRowReactivation_wf h ..
  case matrixOpStart => exact execMatrixOpStart_wf h ..
  case matrixOpComplete => exact execMatrixOpComplete_wf h ..
  case engineJobStart => exact execEngineJobStart_wf h ..
  case engineJobComplete => exact execEngineJobComplete_wf h ..
  case messageArrival => exact execMessageArrival_wf h ..
  case messageResend => exact execMessageResend_wf h ..
  case tvuAccept => exact execTvuAccept_wf h ..
  case traversalDone => exact execTraversalDone_wf h ..
  case treeletFill => exact execTreeletFill_wf h ..
  case treeletPrefetch => exact execTreeletPrefetch_wf h ..
  case rayEnterSaffron => exact execRayEnterSaffron_wf h ..
  case rayRefill => exact execRayRefill_wf h ..
  case episodeFormFull => exact execEpisodeFormFull_wf h ..
  case episodeFormPatience => exact execEpisodeFormPatience_wf h ..
  case episodeFormDrain => exact execEpisodeFormDrain_wf h ..
  case powerRemoved => exact execPowerRemoved_wf h ..
  case pairLinkUp => exact execPairLinkUp_wf h ..
  case pairFlitReplay => exact execPairFlitReplay_wf h ..
  case pairedContextLost => exact execPairedContextLost_wf h ..
  case tvuLaneTestDone => exact execTvuLaneTestDone_wf h ..
  case orderedRedResend => exact execOrderedRedResend_wf h ..
  case engineCardEntry => exact execEngineCardEntry_wf h ..

/-! ### The schedule -/

theorem State.issue_wf (core slot entry : Nat) : AnswersWf (s.issue core slot entry) := by
  unfold State.issue
  grind -linarith -ring -order [AnswersWf, State.look_wf, State.modGroup_mem, State.bump_mem, State.lookFault_wf, State.afterIssue_mem, exec_wf,
    State.started_mem, State.finished_wf]

theorem State.firstDue_wf (l : List Instr) : ∀ u ∈ s.firstDue l, u.mem.wf = true := by
  fun_induction State.firstDue
  · grind -linarith -ring -order
  · next i t u e =>
    have := exec_wf h i
    grind -linarith -ring -order [AnswersWf]
  · grind -linarith -ring -order

theorem State.movesOf_wf (core slot entry : Nat) : ∀ o ∈ s.movesOf core slot entry, AnswersWf o := by
  unfold State.movesOf
  grind -linarith -ring -order [AnswersWf, State.look_wf, State.issue_wf]

theorem State.mustGo_wf : ∀ o ∈ s.mustGo, AnswersWf o := by
  intro o ho
  obtain ⟨p, -, hp⟩ := List.exists_of_findSome?_eq_some ho
  split at hp
  · split at hp
    · exact State.movesOf_wf h _ _ _ o hp
    · cases hp
  · cases hp

theorem State.firstMove_wf : ∀ o ∈ s.firstMove, AnswersWf o := by
  intro o ho
  simp only [State.firstMove] at ho
  split at ho
  · cases ho
  · next p t e =>
    have found (q) (hq : q ∈ p :: t) : AnswersWf q.2 := by
      rw [← e] at hq
      simp only [List.mem_filterMap, Option.map_eq_some_iff] at hq
      obtain ⟨a, -, o, ho, rfl⟩ := hq
      exact State.movesOf_wf h _ _ _ o ho
    cases ho
    refine List.foldlRecOn t _ (motive := fun b : Nat × Out => AnswersWf b.2) (found p (by simp)) fun b hb q hq => ?_
    split
    · exact found q (by simp [hq])
    · exact hb

theorem State.passTime_wf : AnswersWf s.passTime := by
  unfold State.passTime
  grind -linarith -ring -order [AnswersWf, State.firstDue_wf, State.mustGo_wf, State.issue_wf, State.tick_wf]

theorem State.choose_wf : AnswersWf s.choose := by
  unfold State.choose
  grind -linarith -ring -order [AnswersWf, State.firstDue_wf, State.firstMove_wf, State.passTime_wf]

theorem State.turn_wf (t : Turn) : AnswersWf (s.turn t) := by
  cases t with
  | issue c g e => exact State.issue_wf h c g e
  | event i =>
    have := exec_wf h i
    unfold State.turn
    grind -linarith -ring -order [AnswersWf]
  | flaw f => exact State.meetFlaw_wf h f
  | bar2Size n => show (s.sizeBar2 n).mem.wf = true; rwa [State.sizeBar2_mem]
  | tick => exact State.passTime_wf h

end

theorem step_wf {s : State} (h : s.mem.wf = true) : AnswersWf (step s) := by
  unfold step
  split
  · next t rest _ => exact State.turn_wf (s := { s with turns := rest }) h t
  · exact State.choose_wf h

end Sys2Proof.Machine
end

namespace Sys2Proof.Proofs
open Sys2Proof Sys2Proof.Machine

/-- Settles O58: every operation that a step can run keeps the canonical form. -/
theorem stepsKeepMemoryCanonical : Obligations.StepsKeepMemoryCanonical := by
  intro s t h hstep
  have answer := step_wf h
  rwa [hstep] at answer

end Sys2Proof.Proofs

section
/-! ## The time wrap with a fill that waits for another core's scratch (R178, R226) -/
namespace Sys2Proof.Proofs
open Sys2Proof Sys2Proof.Machine Sys2Proof.Claims

/-- A replica's fill on core 1 waits for a word of core 0's scratch, which is ABSENT and mapped; the table that a walk for it reads is on its
way to memory, in a write-back. A time of slice 0 is past the limit. -/
def wrapState : State :=
  { mem := { slices := [(0, { mts := 2 ^ 48 })] }
    nextId := 2
    cores := [(0, { scratch := { wins := [(1, { blk := 1, off := 0, len := 0x1000, maps := [(1, ⟨.rw, 0, 64, 0⟩)] })] } })]
    fly := {
      reqs := [(1, { who := ⟨1, 0, 0, 0, 0, 1, 0, 0⟩, op := .wb false, pa := 0, cls := 0, lease := 0, pts := 0, data := 2, mask := BitVec.allOnes 64 })]
      fills := [(0, { core := 1, blk := 1, ctx := 0, off := 0, owner := some (0, 0) })] } }

/-- What the event leaves in memory, where it happens. -/
def bytesAfter : Out → Option Bytes
  | .next t => some t.mem.bytes
  | _ => none

/-- The ABSENT word is asked for; the walk for its own fill reads the table, and the write-back lands. -/
theorem wrapState_writes : bytesAfter (exec .timeWrap wrapState) = some [(0, 2)] := by decide +kernel

theorem wrapState_full : ∃ l ∈ wrapState.mem.slices, 2 ^ 48 - 2 ^ 20 ≤ l.2.mts := ⟨_, List.mem_singleton.2 rfl, by decide⟩

/-- Refutes O53: the wrap starts fills again, those of replicas too (it asks only that no touch waits), and a walk for one of them takes a
line of its table that is on its way to memory: a byte of memory changes. -/
theorem not_timesWrapAndErrors : ¬ Obligations.TimesWrapAndErrors := by
  rintro ⟨wraps, -⟩
  obtain ⟨t, happens, bytes, -⟩ := (wraps wrapState).1 (.inr (.inl wrapState_full)) rfl
  have writes := wrapState_writes
  rw [happens, bytesAfter, bytes] at writes
  exact absurd writes (by decide)

end Sys2Proof.Proofs
end

section
/-! ## A load that joins prefetches (R229, R235) -/
namespace Sys2Proof.Proofs
open Sys2Proof Sys2Proof.Machine Sys2Proof.Claims Sys2Proof.Tests

/-- A prefetch of a line by the group of `stLd`. -/
def prefetchOf (line : Nat) : Req :=
  { who := owner0, op := .pref, pa := line, cls := 0, lease := 0, pts := 0 }
/-- `stLd` with prefetches in flight for the lines of lanes 0 and 1, both under id 1. -/
def twiceState : State := { stLd with fly := { reqs := [(1, prefetchOf 0x2000010000), (1, prefetchOf 0x2000010040)] } }
def twiceEx : Ex := ex (gAddr 0)
/-- Each lane of it loads four bytes from its own line. -/
def lineLoad : LmO := ⟨8, 4, 2, 0, 0, none, ⟨7, false⟩, false⟩
/-- The requests in flight after an instruction that goes on. -/
def reqsAfter : Out → List (Nat × Req)
  | .next t => t.fly.reqs
  | _ => []

theorem twiceState_lands : ∀ l, Mask.has (twiceEx.active lineLoad.g) l = true →
    Lands twiceState twiceEx {} [0, 1, 2, 3] 4 (laneAddr (twiceEx.gr.lane l) lineLoad.a (offWord lineLoad.off)) pteD :=
  lanes_of_mask _ fun l h _ => lands (by revert l; decide)

theorem twiceState_notBusy : ∀ l, Mask.has (twiceEx.active lineLoad.g) l = true →
    twiceState.lineBusy twiceEx (lineAddr (ptePa pteD (laneAddr (twiceEx.gr.lane l) lineLoad.a (offWord lineLoad.off)).toNat)) = false :=
  lanes_of_mask _ (by decide)

theorem twiceState_noCopies : (twiceState.core twiceEx.core).l1 = [] := rfl

/-- Both loads have taken the place of the one request that id 1 names: lane 0's line is not asked for. -/
theorem twiceState_lost : ∀ p ∈ reqsAfter (exec (.ld lineLoad) twiceState), p.2.pa ≠ 0x2000010000 := by decide

/-- Refutes O17: the requests in flight may list an id twice (the statement asks only that each is below the next one). Lanes 0 and 1 join the
two prefetches of that id, the second in the place of the first, and no request names lane 0. -/
theorem not_loadsAndLoadedValues : ¬ Obligations.LoadsAndLoadedValues := by
  rintro ⟨loads, -⟩
  obtain ⟨t, g, next, -, -, -, -, -, lanes, -⟩ := (loads twiceState twiceEx lineLoad (fun _ => pteD) (by decide)).2 (by decide) (by decide)
    (fun p hp => by revert p; decide) (by decide) (by decide) twiceState_lands twiceState_notBusy
  have lost := twiceState_lost
  rw [next] at lost
  rcases lanes 0 (by decide) with ⟨ln, hit, -⟩ | ⟨-, -, id, r, k, hr, hpa, -⟩
  · rw [twiceState_noCopies] at hit
    cases hit
  · exact lost _ (mem_of_mget hr) (hpa.trans (by decide))

end Sys2Proof.Proofs
end

section
/-! ## Walks that end (R210, R211, R214) -/
namespace Sys2Proof.Machine

theorem head?_tlbPut (l : List TlbEntry) (t : TlbEntry) {n : Nat} (hn : 0 < n) : (tlbPut l t n).head? = some t := by
  obtain ⟨n, rfl⟩ := Nat.exists_eq_succ_of_ne_zero hn.ne'
  rfl

/-- The entry t put into the TLBs of the cores of a list. -/
theorem State.head?_tlb_foldl_tlbPut (s : State) (t : TlbEntry) (cs : List Nat) (c : Nat) :
    ((cs.foldl (fun s c => s.modCore c fun k => { k with tlb := tlbPut k.tlb t 128 }) s).core c).tlb.head? =
      if c ∈ cs then some t else (s.core c).tlb.head? := by
  induction cs generalizing s with
  | nil => simp
  | cons d ds ih =>
    rw [List.foldl_cons, ih]
    by_cases hc : c = d
    · subst hc
      simp [head?_tlbPut]
    · simp [State.core_modCore_ne _ _ hc, hc]

/-! ### What starting the next walks reads and changes -/

/-- Beside the walks, the misses that are held, the counters and the ids. -/
structure SameButWalks (s t : State) : Prop where
  cores : t.cores = s.cores
  misses : t.fly.misses = s.fly.misses
  l2tlb : ∀ k, (t.cluster k).l2tlb = (s.cluster k).l2tlb

theorem SameButWalks.refl (s : State) : SameButWalks s s := ⟨rfl, rfl, fun _ => rfl⟩
theorem SameButWalks.trans {s t u : State} (h : SameButWalks s t) (g : SameButWalks t u) : SameButWalks s u :=
  ⟨g.cores.trans h.cores, g.misses.trans h.misses, fun k => (g.l2tlb k).trans (h.l2tlb k)⟩

theorem State.l2tlb_bumpK (s : State) (j : Nat) (c : Ctr) (n k : Nat) : ((s.bumpK j c n).cluster k).l2tlb = (s.cluster k).l2tlb := by
  unfold State.bumpK
  split
  · rfl
  · by_cases hk : k = j
    · subst hk
      simp
    · rw [State.cluster_modCluster_ne _ _ hk]
theorem State.fly_bumpK (s : State) (j : Nat) (c : Ctr) (n : Nat) : (s.bumpK j c n).fly = s.fly := by
  unfold State.bumpK
  split <;> rfl
theorem State.nextId_bumpK (s : State) (j : Nat) (c : Ctr) (n : Nat) : (s.bumpK j c n).nextId = s.nextId := by
  unfold State.bumpK
  split <;> rfl

theorem SameButWalks.bumpK {s t : State} (h : SameButWalks s t) (j : Nat) (c : Ctr) (n : Nat) : SameButWalks s (t.bumpK j c n) :=
  ⟨by rw [State.bumpK_cores, h.cores], by rw [State.fly_bumpK, h.misses], fun k => by rw [State.l2tlb_bumpK, h.l2tlb]⟩

theorem SameButWalks.takeMiss (s : State) (h : HeldMiss) : SameButWalks s (s.takeMiss h) := by
  unfold State.takeMiss
  dsimp only
  split
  · refine .bumpK ?_ ..
    exact ⟨rfl, rfl, fun _ => rfl⟩
  · refine .bumpK ?_ ..
    exact ⟨rfl, rfl, fun _ => rfl⟩

theorem SameButWalks.takeHeld (s : State) (k : Nat) (l : List HeldMiss) : SameButWalks s (s.takeHeld k l) := by
  induction l generalizing s with
  | nil => exact .refl s
  | cons h t ih =>
    rw [State.takeHeld]
    split
    · refine .trans (.trans ?_ (takeMiss ..)) (ih _)
      exact ⟨rfl, rfl, fun _ => rfl⟩
    · exact ih s

theorem SameButWalks.nextWalks (s : State) (k : Nat) : SameButWalks s (s.nextWalks k) := by
  unfold State.nextWalks
  dsimp only
  split
  · refine .trans ?_ (.takeHeld ..)
    refine .bumpK ?_ ..
    exact ⟨rfl, rfl, fun _ => rfl⟩
  · exact .takeHeld ..

/-- The same is in flight, and the same id comes next. -/
def SameFlight (s t : State) : Prop := s.fly = t.fly ∧ s.nextId = t.nextId

theorem SameFlight.trans {s t u : State} (h : SameFlight s t) (g : SameFlight t u) : SameFlight s u := ⟨h.1.trans g.1, h.2.trans g.2⟩

theorem SameFlight.bumpK {s t : State} (h : SameFlight s t) (j : Nat) (c : Ctr) (n : Nat) : SameFlight (s.bumpK j c n) (t.bumpK j c n) := by
  unfold SameFlight
  simp only [State.fly_bumpK, State.nextId_bumpK]
  exact h

theorem SameFlight.takeMiss {s t : State} (same : SameFlight s t) (h : HeldMiss) : SameFlight (s.takeMiss h) (t.takeMiss h) := by
  obtain ⟨fly, next⟩ := same
  unfold State.takeMiss State.walksRunning
  rw [fly, next]
  dsimp only
  split
  · refine .bumpK ?_ ..
    exact ⟨rfl, rfl⟩
  · refine .bumpK ?_ ..
    exact ⟨rfl, congrArg (· + 1) next⟩

theorem SameFlight.takeHeld {s t : State} (same : SameFlight s t) (k : Nat) (l : List HeldMiss) : SameFlight (s.takeHeld k l) (t.takeHeld k l) := by
  induction l generalizing s t with
  | nil => exact same
  | cons h l ih =>
    obtain ⟨fly, next⟩ := same
    rw [State.takeHeld, State.takeHeld, State.walkerMisses, State.walkerMisses, fly]
    split
    · refine ih (.takeMiss ?_ h)
      exact ⟨rfl, next⟩
    · exact ih ⟨fly, next⟩

theorem SameFlight.nextWalks {s t : State} (same : SameFlight s t) (k : Nat) : SameFlight (s.nextWalks k) (t.nextWalks k) := by
  have ⟨fly, next⟩ := same
  unfold State.nextWalks
  rw [fly]
  dsimp only
  split
  · rw [State.fly_bumpK, State.fly_bumpK]
    refine .takeHeld (.bumpK ?_ ..) ..
    exact ⟨rfl, next⟩
  · rw [fly]
    exact same.takeHeld ..

theorem SameFlight.foldl_modCore {f : Nat → Core → Core} (cs : List Nat) (s : State) :
    SameFlight (cs.foldl (fun s c => s.modCore c (f c)) s) s :=
  foldl_keeps (fun t : State => SameFlight t s) (fun s c => s.modCore c (f c)) cs (fun _ _ h => h) s ⟨rfl, rfl⟩

theorem State.cluster_foldl_modCore {f : Nat → Core → Core} (cs : List Nat) (s : State) (k : Nat) :
    (cs.foldl (fun s c => s.modCore c (f c)) s).cluster k = s.cluster k :=
  foldl_keeps (fun t : State => t.cluster k = s.cluster k) (fun s c => s.modCore c (f c)) cs (fun _ _ h => h) s rfl

/-! ### The end of a walk -/

/-- A walk that has found the leaf e: the TLBs are filled with it. -/
theorem State.endWalk_leaf {s s1 : State} {id : Nat} {w : Walk} {e : DWord}
    (found : ({ s with fly := { s.fly with walks := mdel s.fly.walks id } } : State).walkFast w.cluster w.ctx (w.page * 2 ^ 16) = (.leaf e, s1)) :
    (s.endWalk id w).2 =
      let t := tlbOf w.ctx w.page e
      w.cores.foldl (fun s c => s.modCore c fun k => { k with tlb := tlbPut k.tlb t 128 })
        (s1.modCluster w.cluster fun k => { k with l2tlb := tlbPut k.l2tlb t 8192 }) := by
  unfold State.endWalk
  dsimp only at found ⊢
  generalize State.walkFast _ _ _ _ = r at found ⊢
  subst found
  rfl

/-- A walk that has found none: those that wait are told. -/
theorem State.endWalk_none {s s1 : State} {id : Nat} {w : Walk} {hs : Bool} {mal : Option Nat}
    (found : ({ s with fly := { s.fly with walks := mdel s.fly.walks id } } : State).walkFast w.cluster w.ctx (w.page * 2 ^ 16) = (.none_ hs mal, s1)) :
    (s.endWalk id w).2 =
      let s2 := match mal with | some a => s1.postEvent w.ctx 12 0 0 0 a | none => s1
      { s2 with fly := { s2.fly with misses := s2.fly.misses ++ w.waiters.map fun u => ⟨u, w.page, hs⟩ } } := by
  unfold State.endWalk
  dsimp only at found ⊢
  generalize State.walkFast _ _ _ _ = r at found ⊢
  subst found
  cases mal <;> rfl

theorem execWalkDone_running {s : State} {id : Nat} {w : Walk} (h : mget s.fly.walks id = some w) (running : w.running = true) :
    execWalkDone id s = .next ((s.endWalk id w).2.nextWalks w.cluster) := by
  simp [execWalkDone, h, running]

end Sys2Proof.Machine

namespace Sys2Proof.Proofs
open Sys2Proof Sys2Proof.Machine

/-- Settles O22: the end of a walk puts its leaf in front of each TLB, and the walks that start next touch no TLB, no core and no miss that is told. -/
theorem walksFillTheTlbs : Obligations.WalksFillTheTlbs := by
  intro s s1 id w hw
  constructor
  · intro waits
    simp [exec, execWalkDone, hw, waits]
  intro running
  have next := execWalkDone_running hw running
  have left := SameButWalks.nextWalks (s.endWalk id w).2 w.cluster
  have mem := State.nextWalks_mem (s.endWalk id w).2 w.cluster
  constructor
  · intro e found
    rw [State.endWalk_leaf found] at left mem next
    refine ⟨_, next, fun c hc => ?_, ?_, ?_, ?_⟩
    · rw [State.core, left.cores, ← State.core, State.head?_tlb_foldl_tlbPut, if_pos hc]
      rfl
    · rw [left.l2tlb, State.cluster_foldl_modCore, State.cluster_modCluster_same, head?_tlbPut _ _ (by decide)]
      rfl
    · refine (SameFlight.nextWalks (t := s1) ?_ w.cluster).1
      exact (SameFlight.foldl_modCore w.cores _).trans ⟨rfl, rfl⟩
    · rw [mem]
      exact mem_foldl fun _ _ => rfl
  · intro hs mal found
    rw [State.endWalk_none found] at left mem next
    refine ⟨_, next, fun u hu => ?_, mem, left.cores⟩
    rw [left.misses]
    exact List.mem_append_right _ (List.mem_map.2 ⟨u, hu, rfl⟩)

end Sys2Proof.Proofs
end

section
/-! ## The checks of global accesses (R171, R215, R232, R233) -/
namespace Sys2Proof.Machine
open Sys2Proof.Claims

/-! ### Accesses that pass -/

/-- An access that the TLB translates changes nothing, and has the leaf's physical address. -/
theorem State.checkLane_of_lands {s : State} {x : Ex} {a : Access} {cl : List Nat} {z : Nat} {va e : DWord} (h : Lands s x a cl z va e) :
    s.checkLane x.core x.gr.ctx x.waiter a cl z va = (.ok e (ptePa e va.toNat), s) := by
  obtain ⟨canonical, aligned, translated, allowed, cls⟩ := h
  obtain ⟨t, found, rfl⟩ := Option.map_eq_some_iff.1 translated
  simp [State.checkLane, State.translate, canonical, aligned, found, allowed, cls]

/-- Checks that leave the machine as it is. -/
theorem State.checkLanes_of_each {s : State} {core ctx : Nat} {who : Waiter} {a : Access} {cl : List Nat} {z : Nat} {va : Nat → DWord}
    {f : Nat → LaneChk} {ls : List Nat} (each : ∀ l ∈ ls, s.checkLane core ctx who a cl z (va l) = (f l, s)) :
    s.checkLanes core ctx who a cl z (ls.map fun l => (l, va l)) = (ls.map fun l => (l, va l, f l), s) := by
  induction ls with
  | nil => rfl
  | cons l t ih =>
    rw [List.map_cons, State.checkLanes, each l (List.mem_cons_self ..), ih fun k hk => each k (List.mem_cons_of_mem _ hk)]
    rfl

/-- The lanes of an access that has passed its checks. -/
def laneOks (act : Mask) (va pte : Nat → DWord) : List LaneOk :=
  (lanesOf act).map fun l => ⟨l, (va l).toNat, pte l, ptePa (pte l) (va l).toNat⟩

/-- An access whose lanes all pass goes on, and nothing has changed. -/
theorem withChecks_of_lands {s : State} {x : Ex} {a : Access} {cl : List Nat} {z : Nat} {act : Mask} {va pte : Nat → DWord}
    (h : ∀ l, Mask.has act l = true → Lands s x a cl z (va l) (pte l)) (k : List LaneOk → State → Out) :
    withChecks s x a cl z ((lanesOf act).map fun l => (l, va l)) k = k (laneOks act va pte) s := by
  have each : ∀ l ∈ lanesOf act, s.checkLane x.core x.gr.ctx x.waiter a cl z (va l) = (.ok (pte l) (ptePa (pte l) (va l).toNat), s) :=
    fun l hl => State.checkLane_of_lands (h l ((mem_lanesOf act l).1 hl))
  have none : ((lanesOf act).map fun l => (l, va l, LaneChk.ok (pte l) (ptePa (pte l) (va l).toNat))).find? (fun p => p.2.2.cause != 0) = none :=
    List.find?_eq_none.2 fun p hp => by
      obtain ⟨l, -, rfl⟩ := List.mem_map.1 hp
      simp [LaneChk.cause]
  have found : ((lanesOf act).map fun l => (l, va l, LaneChk.ok (pte l) (ptePa (pte l) (va l).toNat))).any (fun p => p.2.2 == .miss) = false := by
    simp
  unfold withChecks
  rw [State.checkLanes_of_each each]
  simp only [checked, none, found]
  refine congrArg (k · s) ((List.filterMap_map ..).trans ?_)
  exact congrFun (List.filterMap_eq_map (f := fun l => (⟨l, (va l).toNat, pte l, ptePa (pte l) (va l).toNat⟩ : LaneOk))) (lanesOf act)

/-! ### Accesses that fail -/

/-- The check of an address against the form of addresses and the size: what it gives where these fail. -/
def addressCheck (z : Nat) (pte va : DWord) : LaneChk :=
  if canonical va = false then .bad 5 false else if va.toNat % z ≠ 0 then .bad 7 false else .ok pte (ptePa pte va.toNat)

theorem State.checkLane_eq_addressCheck {s : State} {x : Ex} {a : Access} {cl : List Nat} {z : Nat} {va pte : DWord}
    (h : canonical va = true → va.toNat % z = 0 → Lands s x a cl z va pte) :
    s.checkLane x.core x.gr.ctx x.waiter a cl z va = (addressCheck z pte va, s) := by
  unfold addressCheck
  split_ifs with notCanonical misaligned
  · simp [State.checkLane, notCanonical]
  · simp [State.checkLane, notCanonical, misaligned]
  · exact State.checkLane_of_lands (h (by simpa using notCanonical) (by simpa using misaligned))

theorem addressCheck_ne_miss (z : Nat) (pte va : DWord) : addressCheck z pte va ≠ .miss := by
  unfold addressCheck
  split_ifs <;> simp
theorem cause_addressCheck_eq_five (z : Nat) (pte va : DWord) : (addressCheck z pte va).cause = 5 ↔ canonical va = false := by
  unfold addressCheck
  split_ifs with notCanonical <;> simp [LaneChk.cause, notCanonical]
theorem cause_addressCheck_eq_seven (z : Nat) (pte va : DWord) :
    (addressCheck z pte va).cause = 7 ↔ canonical va = true ∧ va.toNat % z ≠ 0 := by
  unfold addressCheck
  split_ifs with notCanonical misaligned <;> simp_all [LaneChk.cause]

/-- The lanes of a mask from its lowest one on. -/
theorem lanesOf_eq_cons {act : Mask} {l : Nat} (active : Mask.has act l = true) (least : ∀ k, k < l → Mask.has act k = false) :
    ∃ rest, lanesOf act = l :: rest := by
  obtain ⟨rest, h⟩ := filter_lanesOf_eq_cons (f := fun _ => true) active rfl fun k hk has => absurd has (by simp [least k hk])
  exact ⟨rest, by rwa [List.filter_true] at h⟩

/-- The lanes whose checks end with cause c. -/
theorem maskOf_checked {act m : Mask} {va : Nat → DWord} {f : Nat → LaneChk} {c : Nat}
    (lanes : ∀ k, Mask.has m k = true ↔ Mask.has act k = true ∧ (f k).cause = c) :
    maskOf ((((lanesOf act).map fun l => (l, va l, f l)).filter fun p => p.2.2.cause == c).map Prod.fst) = m := by
  refine Mask.ext_has fun k => ?_
  rw [lanes k, Mask.has_maskOf]
  constructor
  · rintro ⟨-, hk⟩
    obtain ⟨p, hp, rfl⟩ := List.mem_map.1 hk
    obtain ⟨hp, cause⟩ := List.mem_filter.1 hp
    obtain ⟨l, hl, rfl⟩ := List.mem_map.1 hp
    exact ⟨(mem_lanesOf act l).1 hl, by simpa using cause⟩
  · rintro ⟨active, cause⟩
    refine ⟨Mask.lt_of_has active, List.mem_map.2 ⟨(k, va k, f k), List.mem_filter.2 ⟨?_, by simpa using cause⟩, rfl⟩⟩
    exact List.mem_map.2 ⟨k, (mem_lanesOf act k).2 active, rfl⟩

/-- Where the lowest active lane fails with cause c, the access raises it with that lane's address, for the lanes that fail so. -/
theorem withChecks_of_bad {s : State} {x : Ex} {a : Access} {cl : List Nat} {z : Nat} {act m : Mask} {va : Nat → DWord} {l c : Nat}
    (k : List LaneOk → State → Out) (active : Mask.has act l = true) (least : ∀ k, k < l → Mask.has act k = false)
    (others : ∀ k, Mask.has act k = true → canonical (va k) = true → (va k).toNat % z = 0 → ∃ e, Lands s x a cl z (va k) e)
    (bad : ∀ e, addressCheck z e (va l) = .bad c false) (nonzero : c ≠ 0)
    (lanes : ∀ e k, Mask.has m k = true ↔ Mask.has act k = true ∧ (addressCheck z e (va k)).cause = c) :
    withChecks s x a cl z ((lanesOf act).map fun l => (l, va l)) k = trapAt s x c m (loOf (va l)) (hiOf (va l)) := by
  have leaf : ∀ k, ∃ e, Mask.has act k = true → canonical (va k) = true → (va k).toNat % z = 0 → Lands s x a cl z (va k) e := fun k => by
    by_cases passes : Mask.has act k = true ∧ canonical (va k) = true ∧ (va k).toNat % z = 0
    · obtain ⟨e, he⟩ := others k passes.1 passes.2.1 passes.2.2
      exact ⟨e, fun _ _ _ => he⟩
    · exact ⟨0, fun h1 h2 h3 => absurd ⟨h1, h2, h3⟩ passes⟩
  choose pte hpte using leaf
  have each : ∀ k ∈ lanesOf act, s.checkLane x.core x.gr.ctx x.waiter a cl z (va k) = (addressCheck z (pte k) (va k), s) :=
    fun k hk => State.checkLane_eq_addressCheck (hpte k ((mem_lanesOf act k).1 hk))
  have noMiss : (((lanesOf act).map fun l => (l, va l, addressCheck z (pte l) (va l))).any fun p => p.2.2 == .miss) = false := by
    simp [addressCheck_ne_miss]
  have first : ((lanesOf act).map fun l => (l, va l, addressCheck z (pte l) (va l))).find? (fun p => p.2.2.cause != 0) =
      some (l, va l, .bad c false) := by
    obtain ⟨rest, cons⟩ := lanesOf_eq_cons active least
    rw [cons, List.map_cons, List.find?_cons_of_pos, bad]
    simpa [bad, LaneChk.cause] using nonzero
  have named := maskOf_checked (va := va) (f := fun k => addressCheck z (pte k) (va k)) fun k => lanes (pte k) k
  unfold withChecks
  rw [State.checkLanes_of_each each]
  simp only [checked, noMiss, first, named, accessFault]
  rcases eq_or_ne c 7 with rfl | other
  · simp
  · simp [other]

/-! ### The statement of an access -/

/-- An access that begins with the checks raises causes 5 and 7 as stated. -/
theorem badGlobal_of_withChecks {i : Instr} {gd : Guard} {acc : Access} {cl : List Nat} {z : Nat} {addr : Lane → DWord}
    (run : ∀ s x, s.running = some x → x.active gd ≠ 0 →
      ∃ k, exec i s = withChecks s x acc cl z ((lanesOf (x.active gd)).map fun l => (l, addr (x.gr.lane l))) k) :
    BadGlobal i gd acc cl z addr := by
  intro s x l m running va hl least active others
  obtain ⟨k, runs⟩ := run s x running (by rintro none; simp [none, Mask.has] at active)
  rw [runs]
  constructor
  · intro lanes
    obtain ⟨-, isCanonical, misaligned⟩ := (lanes l).1 hl
    exact withChecks_of_bad (va := va) k active least others (fun e => by simp [addressCheck, va, isCanonical, misaligned]) (by decide)
      fun e j => (lanes j).trans (and_congr_right fun _ => (cause_addressCheck_eq_seven z e (va j)).symm)
  · intro lanes
    obtain ⟨-, notCanonical⟩ := (lanes l).1 hl
    exact withChecks_of_bad (va := va) k active least others (fun e => by simp [addressCheck, va, notCanonical]) (by decide)
      fun e j => (lanes j).trans (and_congr_right fun _ => (cause_addressCheck_eq_five z e (va j)).symm)

section
variable {s : State} {x : Ex} (running : s.running = some x)
include running

theorem exec_ld_checks (o : LmO) (acts : x.active o.g ≠ 0) : ∃ k, exec (.ld o) s =
    withChecks s x {} [0, 1, 2, 3] (2 ^ o.z.toNat) ((lanesOf (x.active o.g)).map fun l => (l, laneAddr (x.gr.lane l) o.a (offWord o.off))) k :=
  ⟨_, (onSplit_running _ running).trans (if_neg acts)⟩
theorem exec_st_checks (o : StO) (acts : x.active o.g ≠ 0) : ∃ k, exec (.st o) s =
    withChecks s x { write := true } [0, 1, 2, 3] (2 ^ o.z.toNat)
      ((lanesOf (x.active o.g)).map fun l => (l, laneAddr (x.gr.lane l) o.a (offWord o.off))) k :=
  ⟨_, (onSplit_running _ running).trans (if_neg acts)⟩
theorem exec_atom_checks (o : LaO) (acts : x.active o.g ≠ 0) : ∃ k, exec (.atom o) s =
    withChecks s x { write := o.op.toNat != 11 } [0, 1] (2 ^ o.size.toNat)
      ((lanesOf (x.active o.g)).map fun l => (l, (x.gr.lane l).vPair o.a.toNat + o.off.signExtend 64)) k :=
  ⟨_, (onSplit_running _ running).trans (if_neg acts)⟩
theorem exec_red_checks (o : LaO) (acts : x.active o.g ≠ 0) : ∃ k, exec (.red o) s =
    withChecks s x { write := true } [0, 1] (2 ^ o.size.toNat)
      ((lanesOf (x.active o.g)).map fun l => (l, (x.gr.lane l).vPair o.a.toNat + o.off.signExtend 64)) k :=
  ⟨_, (onSplit_running _ running).trans (if_neg acts)⟩
end

theorem badGlobalAddressesTrap : BadGlobalAddressesTrap :=
  ⟨fun o => badGlobal_of_withChecks fun _ _ running => exec_ld_checks running o,
    fun o => badGlobal_of_withChecks fun _ _ running => exec_st_checks running o,
    fun o => badGlobal_of_withChecks fun _ _ running => exec_atom_checks running o,
    fun o => badGlobal_of_withChecks fun _ _ running => exec_red_checks running o⟩

/-! ### Scratch -/

/-- The field and the offset of a scratch address. -/
theorem bits_field (e : Nat) : bits e 20 5 = e / 2 ^ 20 % 2 ^ 5 := by rw [bits, Nat.shiftRight_eq_div_pow]
theorem bits_offset (e : Nat) : bits e 0 20 = e % 2 ^ 20 := by rw [bits, Nat.shiftRight_zero]

theorem State.scrAddr_noWindow (s : State) (w : ScrWho) (z : Nat) {e : Nat}
    (field : 24 ≤ e / 2 ^ 20 ∧ e / 2 ^ 20 ≤ 30 ∨ 32 ≤ e / 2 ^ 20) : s.scrAddr w e z = .bad 1 := by
  have outside : e / 2 ^ 25 ≠ 0 ∨ (24 ≤ e / 2 ^ 20 % 2 ^ 5 ∧ e / 2 ^ 20 % 2 ^ 5 ≤ 30) := by omega
  simp only [State.scrAddr, bits_field, outside, if_true]

theorem State.scrAddr_past {s : State} {x : Ex} {w : Window} {e z : Nat} (win : s.blockWin x.core x.gr.blk = some w)
    (field : e / 2 ^ 20 = 31) (past : w.len < e % 2 ^ 20 + z) : s.scrAddr x.scr e z = .bad 2 := by
  have inside : e / 2 ^ 25 = 0 := by omega
  have own : e / 2 ^ 20 % 2 ^ 5 = 31 := by omega
  have block : s.blockWin x.scr.core x.scr.blk = some w := win
  simp only [State.scrAddr, bits_field, bits_offset, inside, own, block, gt_iff_lt, past, if_true]
  rfl

theorem State.scrCheck_bad {s : State} {x : Ex} {z e r : Nat} (write : Bool) (bad : s.scrAddr x.scr e z = .bad r) :
    s.scrCheck x z write e = (.bad 9 false (toW e) (toW r), s) := by
  rw [State.scrCheck, bad]
theorem State.scrCheck_misaligned {s : State} {x : Ex} {z e c o : Nat} (write : Bool) (place : s.scrAddr x.scr e z = .at_ c o)
    (misaligned : e % z ≠ 0) : s.scrCheck x z write e = (.bad 7 false (toW e) 0, s) := by
  rw [State.scrCheck, place]
  exact if_pos misaligned

/-- One lane whose scratch address fails the check raises its cause. -/
theorem scrChecked_of_bad {s : State} {x : Ex} {act : Mask} {z l c : Nat} {ea : Nat → Nat} {x60 x61 : Word} (write : Bool)
    (k : List (Nat × Nat × Nat) → State → Out) (only : ∀ k, Mask.has act k = true ↔ k = l) (nonzero : c ≠ 0)
    (bad : s.scrCheck x z write (ea l) = (.bad c false x60 x61, s)) :
    (let r := s.scrChecks x z write ((lanesOf act).map fun l => (l, ea l)); scrChecked r.2 x write r.1 k) = trapAt s x c act x60 x61 := by
  have lanes : lanesOf act = [l] := by
    obtain ⟨rest, cons⟩ := lanesOf_eq_cons ((only l).2 rfl) fun k hk => by
      rw [Bool.eq_false_iff]
      exact fun has => hk.ne ((only k).1 has)
    cases rest with
    | nil => exact cons
    | cons j t =>
      have order := pairwise_lanesOf act
      rw [cons] at order
      have above : l < j := (List.pairwise_cons.1 order).1 j (List.mem_cons_self ..)
      have same : j = l := (only j).1 ((mem_lanesOf act j).1 (by simp [cons]))
      exact absurd same above.ne'
  have named : maskOf [l] = act := Mask.ext_has fun k => by
    rw [Mask.has_maskOf, only k, List.mem_singleton]
    exact and_iff_right_of_imp fun h => h ▸ Mask.lt_of_has ((only l).2 rfl)
  simp [lanes, State.scrChecks, bad, scrChecked, ScrChk.cause, nonzero, named, scrFault]

/-- An access of scratch that begins with the checks raises causes 9 and 7 as stated. -/
theorem badScratch_of_scrChecked {i : Instr} {gd : Guard} {z : Nat} {ea : Lane → Nat → Nat}
    (run : ∀ s x, s.running = some x → x.active gd ≠ 0 → ∃ write k, exec i s =
      (let r := s.scrChecks x z write ((lanesOf (x.active gd)).map fun l => (l, ea (x.gr.lane l) l)); scrChecked r.2 x write r.1 k)) :
    BadScratch i gd z ea := by
  intro s x l running only e
  have active : Mask.has (x.active gd) l = true := (only l).2 rfl
  obtain ⟨write, k, runs⟩ := run s x running (by rintro none; simp [none, Mask.has] at active)
  rw [runs]
  refine ⟨fun field => ?_, fun w win field => ⟨fun past => ?_, fun fits misaligned => ?_⟩⟩
  · exact scrChecked_of_bad write k only (by decide) (State.scrCheck_bad write (State.scrAddr_noWindow s x.scr z field))
  · exact scrChecked_of_bad write k only (by decide) (State.scrCheck_bad write (State.scrAddr_past win field past))
  · exact scrChecked_of_bad write k only (by decide) (State.scrCheck_misaligned write (State.scrAddr_own win field fits) misaligned)

theorem badScratchAddressesTrap : BadScratchAddressesTrap :=
  ⟨fun _ => badScratch_of_scrChecked fun _ _ running acts => ⟨_, _, (onSplit_running _ running).trans (if_neg acts)⟩,
    fun _ => badScratch_of_scrChecked fun _ _ running acts => ⟨_, _, (onSplit_running _ running).trans (if_neg acts)⟩,
    fun _ => badScratch_of_scrChecked fun _ _ running acts => ⟨_, _, (onSplit_running _ running).trans (if_neg acts)⟩⟩

end Sys2Proof.Machine

namespace Sys2Proof.Proofs
open Sys2Proof Sys2Proof.Machine

/-- Settles O19: an access runs its checks before all else, and the lowest active lane is the first that fails. -/
theorem badAddressesTrap : Obligations.BadAddressesTrap := ⟨badGlobalAddressesTrap, badScratchAddressesTrap⟩

end Sys2Proof.Proofs
end

section
/-! ## The lines of an access (R229) -/
namespace Sys2Proof.Machine

/-- The lane's address lies in the line of the use, and is used with its class. -/
def LaneOk.on (k : LaneOk) (u : LineUse) : Prop := u.pa = lineAddr k.pa ∧ u.cls = pteClass k.pte
/-- No two uses are of one line and class. -/
def UsesApart (us : List LineUse) : Prop := us.Pairwise fun u v => ¬(u.pa = v.pa ∧ u.cls = v.cls)

theorem putUse_of_on {u : LineUse} {us : List LineUse} {k : LaneOk} (h : k.on u) : putUse (u :: us) k = { u with lanes := u.lanes ++ [k] } :: us :=
  if_pos h
theorem putUse_of_not_on {u : LineUse} {us : List LineUse} {k : LaneOk} (h : ¬ k.on u) : putUse (u :: us) k = u :: putUse us k := if_neg h

/-- What the uses are once a lane has been put to its line. -/
theorem mem_putUse {us : List LineUse} {k : LaneOk} (apart : UsesApart us) {v : LineUse} (hv : v ∈ putUse us k) :
    (v ∈ us ∧ ¬ k.on v) ∨ (∃ u ∈ us, k.on u ∧ v = { u with lanes := u.lanes ++ [k] }) ∨
      (v = ⟨lineAddr k.pa, pteClass k.pte, pteLease k.pte, [k]⟩ ∧ ∀ u ∈ us, ¬ k.on u) := by
  induction us with
  | nil => exact .inr (.inr ⟨List.mem_singleton.1 hv, fun _ h => absurd h List.not_mem_nil⟩)
  | cons u us ih =>
    obtain ⟨first, rest⟩ := List.pairwise_cons.1 apart
    by_cases on : k.on u
    · rw [putUse_of_on on, List.mem_cons] at hv
      rcases hv with rfl | hv
      · exact .inr (.inl ⟨u, List.mem_cons_self .., on, rfl⟩)
      · exact .inl ⟨List.mem_cons_of_mem _ hv, fun other => first v hv ⟨on.1.trans other.1.symm, on.2.trans other.2.symm⟩⟩
    · rw [putUse_of_not_on on, List.mem_cons] at hv
      rcases hv with rfl | hv
      · exact .inl ⟨List.mem_cons_self .., on⟩
      · rcases ih rest hv with ⟨old, notOn⟩ | ⟨w, hw, onW, rfl⟩ | ⟨new, none⟩
        · exact .inl ⟨List.mem_cons_of_mem _ old, notOn⟩
        · exact .inr (.inl ⟨w, List.mem_cons_of_mem _ hw, onW, rfl⟩)
        · exact .inr (.inr ⟨new, List.forall_mem_cons.2 ⟨on, none⟩⟩)

/-- A line that is used stays so, and that of the lane is. -/
theorem exists_mem_putUse (us : List LineUse) (k : LaneOk) {pa cls : Nat} (h : (∃ u ∈ us, u.pa = pa ∧ u.cls = cls) ∨ (pa = lineAddr k.pa ∧ cls = pteClass k.pte)) :
    ∃ v ∈ putUse us k, v.pa = pa ∧ v.cls = cls := by
  induction us with
  | nil => 
    obtain ⟨rfl, rfl⟩ := h.resolve_left (by simp)
    exact ⟨_, List.mem_singleton_self _, rfl, rfl⟩
  | cons u us ih =>
    by_cases on : k.on u
    · rw [putUse_of_on on]
      rcases h with ⟨w, hw, same⟩ | ⟨rfl, rfl⟩
      · rcases List.mem_cons.1 hw with rfl | hw
        · exact ⟨_, List.mem_cons_self .., same⟩
        · exact ⟨w, List.mem_cons_of_mem _ hw, same⟩
      · exact ⟨_, List.mem_cons_self .., on⟩
    · rw [putUse_of_not_on on]
      by_cases here : u.pa = pa ∧ u.cls = cls
      · exact ⟨u, List.mem_cons_self .., here⟩
      · obtain ⟨v, hv, same⟩ := ih (h.imp_left fun ⟨w, hw, same⟩ => 
          ⟨w, (List.mem_cons.1 hw).resolve_left (fun e => here (e ▸ same)), same⟩)
        exact ⟨v, List.mem_cons_of_mem _ hv, same⟩

theorem usesApart_putUse {us : List LineUse} (apart : UsesApart us) (k : LaneOk) : UsesApart (putUse us k) := by
  induction us with
  | nil => exact List.pairwise_singleton ..
  | cons u us ih =>
    obtain ⟨first, rest⟩ := List.pairwise_cons.1 apart
    by_cases on : k.on u
    · rw [putUse_of_on on]
      exact List.pairwise_cons.2 ⟨first, rest⟩
    · rw [putUse_of_not_on on]
      refine List.pairwise_cons.2 ⟨fun v hv => ?_, ih rest⟩
      rcases mem_putUse rest hv with ⟨old, -⟩ | ⟨w, hw, -, rfl⟩ | ⟨rfl, -⟩
      · exact first v old
      · exact first w hw
      · exact fun same => on same

/-- The uses are those of the lanes: each line and class once, with its lanes in their order. -/
structure UsesOf (us : List LineUse) (ks : List LaneOk) : Prop where
  apart : UsesApart us
  lanes : ∀ u ∈ us, u.lanes = ks.filter fun k => decide (u.pa = lineAddr k.pa ∧ u.cls = pteClass k.pte)
  used : ∀ u ∈ us, u.lanes ≠ []
  each : ∀ k ∈ ks, ∃ u ∈ us, u.pa = lineAddr k.pa ∧ u.cls = pteClass k.pte

theorem lineUses_concat (ks : List LaneOk) (k : LaneOk) : lineUses (ks ++ [k]) = putUse (lineUses ks) k := List.foldl_concat ..

theorem usesOf_lineUses (ks : List LaneOk) : UsesOf (lineUses ks) ks := by
  induction ks using List.reverseRecOn with
  | nil => exact ⟨List.Pairwise.nil, by simp [lineUses], by simp [lineUses], by simp⟩
  | append_singleton ks k ih =>
    obtain ⟨apart, lanes, used, each⟩ := ih
    rw [lineUses_concat]
    refine ⟨usesApart_putUse apart k, fun v hv => ?_, fun v hv => ?_, fun j hj => ?_⟩
    · rw [List.filter_append]
      rcases mem_putUse apart hv with ⟨old, notOn⟩ | ⟨u, hu, on, rfl⟩ | ⟨rfl, none⟩
      · rw [lanes v old, List.filter_cons_of_neg (by simpa [LaneOk.on] using notOn), List.filter_nil, List.append_nil]
      · dsimp only
        rw [lanes u hu, List.filter_cons_of_pos (by simpa [LaneOk.on] using on), List.filter_nil]
      · have noLane : ks.filter (fun j => decide (lineAddr k.pa = lineAddr j.pa ∧ pteClass k.pte = pteClass j.pte)) = [] := by
          refine List.filter_eq_nil_iff.2 fun j hj same => ?_
          obtain ⟨u, hu, onJ⟩ := each j hj
          rw [decide_eq_true_eq] at same
          exact none u hu ⟨onJ.1.trans same.1.symm, onJ.2.trans same.2.symm⟩
        dsimp only
        rw [noLane, List.filter_cons_of_pos (by simp), List.filter_nil, List.nil_append]
    · rcases mem_putUse apart hv with ⟨old, -⟩ | ⟨u, -, -, rfl⟩ | ⟨rfl, -⟩
      · exact used v old
      · simp
      · simp
    · refine exists_mem_putUse _ k ?_
      rcases List.mem_append.1 hj with hj | hj
      · exact .inl (each j hj)
      · rw [List.mem_singleton.1 hj]
        exact .inr ⟨rfl, rfl⟩

theorem UsesOf.mem_lanes {us : List LineUse} {ks : List LaneOk} (h : UsesOf us ks) {u : LineUse} (hu : u ∈ us) {k : LaneOk} :
    k ∈ u.lanes ↔ k ∈ ks ∧ u.pa = lineAddr k.pa ∧ u.cls = pteClass k.pte := by
  rw [h.lanes u hu, List.mem_filter, decide_eq_true_eq]

/-- A use is the use of one of its lanes. -/
theorem UsesOf.exists_lane {us : List LineUse} {ks : List LaneOk} (h : UsesOf us ks) {u : LineUse} (hu : u ∈ us) :
    ∃ k ∈ ks, u.pa = lineAddr k.pa ∧ u.cls = pteClass k.pte := by
  obtain ⟨k, hk⟩ := List.exists_mem_of_ne_nil _ (h.used u hu)
  exact ⟨k, (h.mem_lanes hu).1 hk⟩

end Sys2Proof.Machine
end

section
/-! ## PREF and CLINE (R235 to R238) -/
namespace Sys2Proof.Machine
open Sys2Proof.Claims

/-! ### What an access that is sent leaves alone -/

/-- Beside the L1, the times and the counters of a core, the requests in flight and the ids. -/
structure SendsOnly (s t : State) (core : Nat) : Prop where
  groups : ∀ c k, t.group c k = s.group c k
  here : { t.core core with groups := [], l1 := [], pts := [], ctr := [] } = { s.core core with groups := [], l1 := [], pts := [], ctr := [] }
  cores : ∀ c, c ≠ core → t.core c = s.core c
  rest : { t with cores := [], nextId := 0, fly := { t.fly with reqs := [] } } =
    { s with cores := [], nextId := 0, fly := { s.fly with reqs := [] } }

namespace SendsOnly
variable {s t u : State} {core : Nat}

theorem refl (s : State) (core : Nat) : SendsOnly s s core := ⟨fun _ _ => rfl, rfl, fun _ _ => rfl, rfl⟩
theorem trans (h : SendsOnly s t core) (g : SendsOnly t u core) : SendsOnly s u core where
  groups c k := (g.groups c k).trans (h.groups c k)
  here := g.here.trans h.here
  cores c hc := (g.cores c hc).trans (h.cores c hc)
  rest := g.rest.trans h.rest
theorem foldl {α : Type} {f : State → α → State} (h : ∀ s a, SendsOnly s (f s a) core) (l : List α) (s : State) :
    SendsOnly s (l.foldl f s) core :=
  foldl_keeps (fun t => SendsOnly s t core) f l (fun t a ht => ht.trans (h t a)) s (refl s core)
/-- A change of the core's L1, times and counters. -/
theorem modCore (s : State) (core : Nat) {f : Core → Core}
    (h : ∀ k, (f k).groups = k.groups ∧ { f k with l1 := [], pts := [], ctr := [] } = { k with l1 := [], pts := [], ctr := [] } := by
      exact fun _ => ⟨rfl, rfl⟩) : SendsOnly s (s.modCore core f) core where
  groups c k := by
    by_cases hc : c = core
    · subst hc
      rw [State.group, State.core_modCore_same, (h _).1, State.group]
    · rw [State.group, State.core_modCore_ne _ _ hc, State.group]
  here := by
    rw [State.core_modCore_same]
    exact congrArg (fun k : Core => { k with groups := [] }) (h (s.core core)).2
  cores c hc := State.core_modCore_ne _ _ hc
  rest := rfl
theorem bump (s : State) (core n : Nat) (c : Ctr) : SendsOnly s (s.bump core c n) core := by
  unfold State.bump
  split
  · exact refl s core
  · exact modCore s core
theorem raisePts (s : State) (core ctx p : Nat) : SendsOnly s (s.raisePts core ctx p) core := by
  unfold State.raisePts
  split
  · exact modCore s core
  · exact refl s core
theorem send (s : State) (core : Nat) (r : Req) : SendsOnly s (s.send r) core := ⟨fun _ _ => rfl, rfl, fun _ _ => rfl, rfl⟩
theorem setReq (s : State) (core id : Nat) (r : Req) : SendsOnly s (s.setReq id r) core := ⟨fun _ _ => rfl, rfl, fun _ _ => rfl, rfl⟩
theorem dropCopy (s : State) (core pa : Nat) : SendsOnly s (s.dropCopy core pa) core := by
  unfold State.dropCopy
  split
  · split
    · exact (bump ..).trans (modCore ..)
    · exact modCore ..
  · exact refl s core
theorem mem (h : SendsOnly s t core) : t.mem = s.mem := by
  have same := congrArg State.mem h.rest
  exact same

/-- The group of an access that has been sent, once it completes. -/
theorem group_done {x : Ex} (h : SendsOnly s t core) (running : s.running = some x) (n : Nat) (f : Group → Group) :
    (t.done x n f).group x.core x.slot = some ((f x.gr).advance x.entry n) := by
  rw [State.done, State.group_modGroup, if_pos ⟨rfl, rfl⟩, h.groups, ((s.running_iff x).1 running).2.1]
  rfl
theorem sentBy_done {x : Ex} (h : SendsOnly s t x.core) (n : Nat) (f : Group → Group) : SentBy s (t.done x n f) x where
  others c k other := by rw [State.done, State.group_modGroup, if_neg other, h.groups]
  here := (congrArg (fun k : Core => { k with l1 := [], pts := [], ctr := [] }) (t.core_modGroup x.core x.slot _ x.core)).trans h.here
  cores c hc := by rw [State.done, State.modGroup, State.core_modCore_ne _ _ hc, h.cores c hc]
  rest := h.rest
end SendsOnly

/-! ### PREF -/

theorem SendsOnly.prefLine (s : State) (x : Ex) (k : Nat) (u : LineUse) : SendsOnly s (s.prefLine x k u) x.core := by
  unfold State.prefLine
  dsimp only
  split
  · exact .bump ..
  have looked := bump s x.core 1 (if s.prefThere x 0 u then .l1hit else .l1miss)
  refine looked.trans ?_
  generalize s.bump x.core (if s.prefThere x 0 u then .l1hit else .l1miss) = t
  split
  · exact .refl ..
  split
  · exact .bump ..
  · exact .trans (.bump ..) (.send ..)

/-- The check of an aligned address that is not canonical, or that the TLB translates, needs no walk and changes nothing. -/
theorem State.checkLane_translated {s : State} {x : Ex} {va : DWord} (a : Access) (cl : List Nat)
    (h : canonical va = false ∨ ((s.core x.core).tlb.find? fun t => t.serves x.gr.ctx va.toNat).isSome = true) :
    ∃ r, r ≠ .miss ∧ s.checkLane x.core x.gr.ctx x.waiter a cl 1 va = (r, s) := by
  by_cases isCanonical : canonical va = true
  · obtain ⟨t, found⟩ := Option.isSome_iff_exists.1 (h.resolve_left (by simp [isCanonical]))
    cases cause : s.pteCause t.pte va.toNat a with
    | none =>
      by_cases cls : pteClass t.pte ∈ cl
      · exact ⟨.ok t.pte (ptePa t.pte va.toNat), by simp, by simp [State.checkLane, State.translate, isCanonical, Nat.mod_one, found, cause, cls]⟩
      · exact ⟨.bad 6 false, by simp, by simp [State.checkLane, State.translate, isCanonical, Nat.mod_one, found, cause, cls]⟩
    | some c =>
      exact ⟨.bad c ((c = 4 || c = 5) && pteHS t.pte), by simp,
        by simp [State.checkLane, State.translate, isCanonical, Nat.mod_one, found, cause]⟩
  · exact ⟨.bad 5 false, by simp, by simp [State.checkLane, isCanonical]⟩

/-- A prefetch of which no lane needs a walk sends what it sends, and goes on. -/
theorem execPref_translated {s : State} {x : Ex} (o : PfO) (running : s.running = some x)
    (h : ∀ l, Mask.has (x.active o.g) l = true → canonical (laneAddr (x.gr.lane l) o.a (offWord o.off)) = false ∨
      ((s.core x.core).tlb.find? fun t => t.serves x.gr.ctx (laneAddr (x.gr.lane l) o.a (offWord o.off)).toNat).isSome = true) :
    ∃ t, SendsOnly s t x.core ∧ exec (.pref o) s = .next (t.done x (offLen o.off) id) := by
  have each : ∀ l, ∃ r, Mask.has (x.active o.g) l = true → r ≠ .miss ∧
      s.checkLane x.core x.gr.ctx x.waiter { write := o.k.toNat == 2 } [0, 1, 2, 3] 1 (laneAddr (x.gr.lane l) o.a (offWord o.off)) = (r, s) := by
    intro l
    by_cases active : Mask.has (x.active o.g) l = true
    · obtain ⟨r, hr⟩ := State.checkLane_translated { write := o.k.toNat == 2 } [0, 1, 2, 3] (h l active)
      exact ⟨r, fun _ => hr⟩
    · exact ⟨.miss, fun has => absurd has active⟩
  choose r hr using each
  have checks := State.checkLanes_of_each (f := r) fun l hl => (hr l ((mem_lanesOf _ l).1 hl)).2
  have noMiss : (((lanesOf (x.active o.g)).map fun l => (l, laneAddr (x.gr.lane l) o.a (offWord o.off), r l)).any fun p => p.2.2 == .miss) = false := by
    rw [List.any_eq_false]
    intro p hp
    obtain ⟨l, hl, rfl⟩ := List.mem_map.1 hp
    simpa using (hr l ((mem_lanesOf _ l).1 hl)).1
  have ran : exec (.pref o) s = _ := onSplit_running _ running
  dsimp only at ran
  rw [checks] at ran
  simp only [noMiss, Bool.false_eq_true, if_false] at ran
  exact ⟨_, .trans (.bump ..) (.foldl (fun s u => .prefLine s x _ u) _ _), ran⟩

/-! ### CLINE -/

theorem mem_laneOks {act : Mask} {va pte : Nat → DWord} {k : LaneOk} : k ∈ laneOks act va pte ↔
    ∃ l, Mask.has act l = true ∧ k = ⟨l, (va l).toNat, pte l, ptePa (pte l) (va l).toNat⟩ := by
  simp only [laneOks, List.mem_map, mem_lanesOf, eq_comm]

theorem State.l1_dropCopy (s : State) (c pa a : Nat) :
    mget ((s.dropCopy c pa).core c).l1 a = if a = pa then none else mget (s.core c).l1 a := by
  unfold State.dropCopy
  split
  · rw [State.core_modCore_same, mget_mdel]
    split_ifs <;> simp [State.bump]
  · next absent => split_ifs with same <;> simp_all

theorem State.fly_dropCopy (s : State) (c pa : Nat) : (s.dropCopy c pa).fly = s.fly := by
  unfold State.dropCopy State.bump
  split <;> [skip; rfl]
  split_ifs <;> rfl

/-- The copies of the lines of uses are gone, and those of other lines stay. -/
theorem State.l1_foldl_dropCopy (s : State) (c : Nat) (us : List LineUse) (a : Nat) :
    mget ((us.foldl (fun s u => s.dropCopy c u.pa) s).core c).l1 a =
      if ∃ u ∈ us, u.pa = a then none else mget (s.core c).l1 a := by
  induction us generalizing s with
  | nil => simp
  | cons u us ih =>
    rw [List.foldl_cons, ih, State.l1_dropCopy]
    by_cases later : ∃ v ∈ us, v.pa = a
    · have some : ∃ v ∈ u :: us, v.pa = a := later.imp fun v hv => ⟨List.mem_cons_of_mem _ hv.1, hv.2⟩
      rw [if_pos later, if_pos some]
    · by_cases here : a = u.pa
      · simp [here]
      · simp [later, here, Ne.symm here]

/-- The L1 holds no modified copy of a use's line. -/
def Unmodified (s : State) (x : Ex) (us : List LineUse) : Prop := ∀ u ∈ us, ∀ ln, mget (s.core x.core).l1 u.pa = some ln → ln.st ≠ .modified

theorem State.foldl_clineUse_clean {s : State} {x : Ex} {us : List LineUse} (clean : Unmodified s x us) :
    us.foldl (fun s u => s.clineUse x 0 u) s = s := by
  induction us with
  | nil => rfl
  | cons u us ih =>
    have same : s.clineUse x 0 u = s := by
      unfold State.clineUse
      split
      · next ln copy => simp [clean u (List.mem_cons_self ..) ln copy]
      · rfl
    rw [List.foldl_cons, same]
    exact ih fun v hv => clean v (List.mem_cons_of_mem _ hv)

theorem State.foldl_clineUse_drop {s : State} {x : Ex} {us : List LineUse} (clean : Unmodified s x us) :
    us.foldl (fun s u => s.clineUse x 1 u) s = us.foldl (fun s u => s.dropCopy x.core u.pa) s := by
  induction us generalizing s with
  | nil => rfl
  | cons u us ih =>
    have drop : s.clineUse x 1 u = s.dropCopy x.core u.pa := by
      unfold State.clineUse
      split
      · next ln copy => simp [clean u (List.mem_cons_self ..) ln copy]
      · next absent => simp [State.dropCopy, absent]
    rw [List.foldl_cons, List.foldl_cons, drop]
    refine ih fun v hv ln copy => clean v (List.mem_cons_of_mem _ hv) ln ?_
    rw [State.l1_dropCopy] at copy
    split_ifs at copy
    exact copy

/-- Uses of a kind 0 to 2 of lines that the L1 does not hold modified. -/
def State.clined (s : State) (x : Ex) (k : Nat) (us : List LineUse) : State :=
  if k = 2 then s.modCore x.core fun c => { c with icache := us.foldl (fun m u => mdel m u.pa) c.icache }
  else us.foldl (fun s u => s.clineUse x k u) s

section
variable {s : State} {x : Ex} {us : List LineUse} (clean : Unmodified s x us)
include clean

theorem State.clined_leaves {k : Nat} (kind : k ≤ 2) :
    (∀ c j, (s.clined x k us).group c j = s.group c j) ∧ (s.clined x k us).mem = s.mem ∧ (s.clined x k us).fly = s.fly := by
  interval_cases k
  · simp [State.clined, State.foldl_clineUse_clean clean]
  · rw [State.clined, if_neg (by decide), State.foldl_clineUse_drop clean]
    have drops : SendsOnly s (us.foldl (fun s u => s.dropCopy x.core u.pa) s) x.core := .foldl (fun s u => .dropCopy s _ _) ..
    exact ⟨drops.groups, drops.mem, foldl_keeps (fun t : State => t.fly = s.fly) _ us (fun t u ht => (t.fly_dropCopy _ _).trans ht) s rfl⟩
  · refine ⟨fun c j => ?_, rfl, rfl⟩
    by_cases hc : c = x.core
    · subst hc
      simp [State.clined, State.group]
    · simp [State.clined, State.group, State.core_modCore_ne _ _ hc]
theorem State.clined_drops {u : LineUse} (hu : u ∈ us) : mget ((s.clined x 1 us).core x.core).l1 u.pa = none := by
  rw [State.clined, if_neg (by decide), State.foldl_clineUse_drop clean, State.l1_foldl_dropCopy, if_pos ⟨u, hu, rfl⟩]
omit clean in
theorem State.clined_drops_icache {u : LineUse} (hu : u ∈ us) : mget ((s.clined x 2 us).core x.core).icache u.pa = none := by
  rw [State.clined, if_pos rfl, State.core_modCore_same]
  exact (mget_foldl_mdel ..).trans (if_pos (List.mem_map_of_mem hu))
end

/-- The lines of classes D and L that a CLINE names. -/
def clineUses (act : Mask) (va pte : Nat → DWord) : List LineUse := (lineUses (laneOks act va pte)).filter fun u => decide (u.cls ≤ 1)

theorem exists_lane_of_mem_clineUses {act : Mask} {va pte : Nat → DWord} {u : LineUse} (hu : u ∈ clineUses act va pte) :
    ∃ l, Mask.has act l = true ∧ u.pa = lineAddr (ptePa (pte l) (va l).toNat) := by
  obtain ⟨k, hk, pa, -⟩ := (usesOf_lineUses _).exists_lane (List.mem_of_mem_filter hu)
  obtain ⟨l, active, rfl⟩ := mem_laneOks.1 hk
  exact ⟨l, active, pa⟩
theorem exists_mem_clineUses {act : Mask} {va pte : Nat → DWord} {l : Nat} (active : Mask.has act l = true) (cls : pteClass (pte l) ≤ 1) :
    ∃ u ∈ clineUses act va pte, u.pa = lineAddr (ptePa (pte l) (va l).toNat) := by
  obtain ⟨u, hu, pa, same⟩ := (usesOf_lineUses (laneOks act va pte)).each _ (mem_laneOks.2 ⟨l, active, rfl⟩)
  exact ⟨u, List.mem_filter.2 ⟨hu, by simpa [same] using cls⟩, pa⟩

section
variable {s : State} {x : Ex} {o : PfO} {pte : Nat → DWord} (running : s.running = some x) (acts : x.active o.g ≠ 0)
  (lands : ∀ l, Mask.has (x.active o.g) l = true → Lands s x { write := o.k.toNat == 1 } (if o.k.toNat = 2 then [0, 1] else [0, 1, 2, 3]) 1
    (laneAddr (x.gr.lane l) o.a (offWord o.off)) (pte l))
  (performed : s.clineBusy x = false)
include running acts lands performed

/-- A CLINE whose write-backs are performed goes on. -/
theorem exec_cline_performed (half : x.sp.half = 1) : exec (.cline o) s = .next (s.done x (offLen o.off) id) := by
  refine ((onSplit_running _ running).trans (if_neg acts)).trans ?_
  rw [Bool.and_false, withChecks_of_lands lands]
  simp only [half, performed]
  rfl
/-- A CLINE of lines that the L1 does not hold modified does its work and goes on. -/
theorem exec_cline_unmodified (notHalf : x.sp.half ≠ 1) (kind : o.k.toNat ≤ 2)
    (free : ∀ u ∈ clineUses (x.active o.g) (fun l => laneAddr (x.gr.lane l) o.a (offWord o.off)) pte, s.lineBusy x u.pa = false)
    (clean : Unmodified s x (clineUses (x.active o.g) (fun l => laneAddr (x.gr.lane l) o.a (offWord o.off)) pte)) :
    exec (.cline o) s = .next ((s.clined x o.k.toNat (clineUses (x.active o.g) (fun l => laneAddr (x.gr.lane l) o.a (offWord o.off)) pte)).done x
      (offLen o.off) id) := by
  refine ((onSplit_running _ running).trans (if_neg acts)).trans ?_
  rw [Bool.and_false, withChecks_of_lands lands]
  have notBusy : (clineUses (x.active o.g) (fun l => laneAddr (x.gr.lane l) o.a (offWord o.off)) pte).any (fun u => s.lineBusy x u.pa) = false :=
    List.any_eq_false.2 fun u hu => by simp [free u hu]
  have stays := (State.clined_leaves clean kind).2.2
  unfold State.clined at stays ⊢
  unfold clineUses at *
  simp only [notHalf, notBusy]
  by_cases two : o.k.toNat = 2
  · simp [two]
  · rw [if_neg two] at stays
    have none : (State.clineBusy (((lineUses (laneOks (x.active o.g) (fun l => laneAddr (x.gr.lane l) o.a (offWord o.off)) pte)).filter
        fun u => decide (u.cls ≤ 1)).foldl (fun s u => s.clineUse x o.k.toNat u) s) x) = false := by
      rw [← performed, State.clineBusy, State.clineBusy, stays]
    simp [two, none]
end

end Sys2Proof.Machine

namespace Sys2Proof.Proofs
open Sys2Proof Sys2Proof.Machine Sys2Proof.Claims

/-- Settles O20: a prefetch only counts and sends; the lines of a CLINE are dropped one by one where no copy is modified. -/
theorem prefetchAndCacheLineOperations : Obligations.PrefetchAndCacheLineOperations := by
  intro s x o running va
  refine ⟨fun translated => ?_, ?_, fun pte acts notThree notHalf lanes performed => ?_, fun pte acts half performed lanes => ?_⟩
  · obtain ⟨t, sends, next⟩ := execPref_translated o running translated
    exact ⟨_, _, next, sends.group_done running .., Advances.of_advance _ _ rfl, rfl, sends.mem, sends.sentBy_done ..⟩
  · exact IdleGoesOn.of_done fun s x running none => (onSplit_running _ running).trans (if_pos none)
  · have kind : o.k.toNat ≤ 2 := by
      have below := o.k.isLt
      have three : o.k.toNat ≠ 3 := fun e => notThree (BitVec.eq_of_toNat_eq e)
      omega
    have clean : Unmodified s x (clineUses (x.active o.g) va pte) := fun u hu ln copy => by
      obtain ⟨l, active, pa⟩ := exists_lane_of_mem_clineUses hu
      exact (lanes l active).2.2 ln (pa ▸ copy)
    have free : ∀ u ∈ clineUses (x.active o.g) va pte, s.lineBusy x u.pa = false := fun u hu => by
      obtain ⟨l, active, pa⟩ := exists_lane_of_mem_clineUses hu
      exact pa ▸ (lanes l active).2.1
    have next := exec_cline_unmodified running acts (fun l hl => (lanes l hl).1) performed notHalf kind free clean
    obtain ⟨groups, mem, -⟩ := State.clined_leaves clean kind
    refine ⟨_, (x.gr).advance x.entry (offLen o.off), next, ?_, Advances.of_advance _ _ rfl, rfl, mem, fun l active cls => ?_⟩
    · rw [State.done, State.group_modGroup, if_pos ⟨rfl, rfl⟩, groups, ((s.running_iff x).1 running).2.1]
      rfl
    · obtain ⟨u, hu, pa⟩ := exists_mem_clineUses (va := va) active cls
      rw [← pa]
      refine ⟨fun two => ?_, fun one => ?_⟩
      · rw [two, State.done, State.modGroup, State.core_modCore_same]
        exact State.clined_drops_icache hu
      · rw [one, State.done, State.modGroup, State.core_modCore_same]
        exact State.clined_drops clean hu
  · exact ⟨_, _, exec_cline_performed running acts lanes performed half, OnlyGroup.of_done _ _ running, Advances.of_advance _ _ rfl, rfl⟩

end Sys2Proof.Proofs
end

section
/-! ## The masked line of a store (R234) -/
namespace Sys2Proof.Machine

/-! ### Bytes of a line -/

theorem getLsbD_lineByte (d : Line) (i b : Nat) : (lineByte d i).getLsbD b = (decide (b < 8) && d.getLsbD (8 * i + b)) :=
  BitVec.getLsbD_extractLsb' ..
theorem getLsbD_byteIn (x : Byte) (k n : Nat) : (byteIn x k).getLsbD n = (decide (n < 512) && !decide (n < 8 * k) && x.getLsbD (n - 8 * k)) := by
  have wide : n - 8 * k < 512 ∨ x.getLsbD (n - 8 * k) = false := (Nat.lt_or_ge _ 512).imp_right fun h => BitVec.getLsbD_of_ge _ _ (by omega)
  rw [byteIn, BitVec.shiftLeft_eq, BitVec.getLsbD_shiftLeft, BitVec.getLsbD_setWidth]
  rcases wide with h | h <;> simp [h]

/-- A byte put into a line, beside those that are there. -/
theorem lineByte_or_byteIn (d : Line) (x : Byte) (k : Nat) {i : Nat} (inside : i < 64) :
    lineByte (d ||| byteIn x k) i = if i = k then lineByte d i ||| x else lineByte d i := by
  refine BitVec.eq_of_getLsbD_eq fun b hb => ?_
  rw [getLsbD_lineByte, BitVec.getLsbD_or, getLsbD_byteIn]
  have low : 8 * i + b < 512 := by omega
  rcases Nat.lt_trichotomy i k with h | rfl | h
  · have below : 8 * i + b < 8 * k := by omega
    rw [if_neg h.ne, getLsbD_lineByte, decide_eq_true below, Bool.not_true, Bool.and_false, Bool.false_and, Bool.or_false]
  · have here : 8 * i + b - 8 * i = b := by omega
    rw [if_pos rfl, BitVec.getLsbD_or, getLsbD_lineByte, here]
    simp [hb, low]
  · have above : x.getLsbD (8 * i + b - 8 * k) = false := BitVec.getLsbD_of_ge _ _ (by omega)
    rw [if_neg h.ne', getLsbD_lineByte, above, Bool.and_false, Bool.or_false]

/-- A line put together byte by byte. -/
theorem lineByte_foldl_byteIn (f : Nat → Byte) (n : Nat) {i : Nat} (inside : i < 64) :
    lineByte ((List.range n).foldl (fun acc k => acc ||| byteIn (f k) k) 0) i = if i < n then f i else 0 := by
  induction n with
  | zero => simp [lineByte]
  | succ n ih =>
    rw [List.range_succ, List.foldl_append, List.foldl_cons, List.foldl_nil, lineByte_or_byteIn _ _ _ inside, ih]
    rcases Nat.lt_trichotomy i n with h | rfl | h
    · simp [h, h.ne, Nat.lt_succ_of_lt h]
    · simp
    · simp [h.ne', h.not_gt, Nat.not_lt.2 (Nat.succ_le_of_lt h)]

theorem lineByte_blend (old new : Line) (mask : BitVec 64) {i : Nat} (inside : i < 64) :
    lineByte (blend old new mask) i = if mask.getLsbD i then lineByte new i else lineByte old i := by
  rw [blend, lineByte_foldl_byteIn (fun k => if mask.getLsbD k then lineByte new k else lineByte old k) 64 inside, if_pos inside]

/-! ### Bytes put at an offset -/

theorem testBit_leNat (bs : List Byte) {j b : Nat} (inside : j < bs.length) (hb : b < 8) :
    (leNat bs).testBit (8 * j + b) = (bs.getD j 0).getLsbD b := by
  have power : 256 ^ j = 2 ^ (8 * j) := by rw [Nat.pow_mul]
  have byte := getD_leBytes inside (leNat bs)
  rw [leBytes_leNat] at byte
  rw [byte, BitVec.getLsbD_ofNat, power, Nat.testBit_div_two_pow, decide_eq_true hb, Bool.true_and, Nat.add_comm]

theorem mask_placeBytes (o : Nat) (bs : List Byte) {i : Nat} (inside : i < 64) :
    (placeBytes o bs).2.getLsbD i = decide (o ≤ i ∧ i < o + bs.length) := by
  rw [placeBytes, BitVec.getLsbD_ofNat, Nat.testBit_shiftLeft, Nat.testBit_two_pow_sub_one, Bool.eq_iff_iff]
  simp only [inside, decide_true, Bool.true_and, Bool.and_eq_true, decide_eq_true_eq]
  omega

theorem lineByte_placeBytes {o j : Nat} {bs : List Byte} (inside : j < bs.length) (fits : o + j < 64) :
    lineByte (placeBytes o bs).1 (o + j) = bs.getD j 0 := by
  refine BitVec.eq_of_getLsbD_eq fun b hb => ?_
  have place : 8 * (o + j) + b - 8 * o = 8 * j + b := by omega
  have past : 8 * o ≤ 8 * (o + j) + b := by omega
  have low : 8 * (o + j) + b < 512 := by omega
  rw [getLsbD_lineByte, placeBytes, BitVec.getLsbD_ofNat, Nat.testBit_shiftLeft, place, testBit_leNat bs inside hb]
  simp [hb, past, low]

/-! ### The lanes of a use, one after another -/

section
variable (g : Group) (d z : Nat)

/-- A lane's bytes put over those of the lanes before it. -/
def laneOver (acc : Line × BitVec 64) (k : LaneOk) : Line × BitVec 64 :=
  let p := placeBytes (k.pa % 64) ((g.lane k.lane).storeBytes d z)
  (blend acc.1 p.1 p.2, acc.2 ||| p.2)

theorem storeLine_eq_foldl (l : List LaneOk) : storeLine g d z l = l.foldl (laneOver g d z) (0, 0) := rfl

variable {g d z} {i : Nat} (inside : i < 64)
include inside

/-- A lane that does not store a byte leaves it. -/
theorem laneOver_outside {k : LaneOk} (outside : ¬(k.pa % 64 ≤ i ∧ i < k.pa % 64 + z)) (acc : Line × BitVec 64) :
    (laneOver g d z acc k).2.getLsbD i = acc.2.getLsbD i ∧ lineByte (laneOver g d z acc k).1 i = lineByte acc.1 i := by
  have unmasked : (placeBytes (k.pa % 64) ((g.lane k.lane).storeBytes d z)).2.getLsbD i = false := by
    rw [mask_placeBytes _ _ inside, length_storeBytes, decide_eq_false outside]
  simp [laneOver, unmasked, lineByte_blend _ _ _ inside]

theorem foldl_laneOver_outside {l : List LaneOk} (outside : ∀ k ∈ l, ¬(k.pa % 64 ≤ i ∧ i < k.pa % 64 + z)) (acc : Line × BitVec 64) :
    (l.foldl (laneOver g d z) acc).2.getLsbD i = acc.2.getLsbD i ∧ lineByte (l.foldl (laneOver g d z) acc).1 i = lineByte acc.1 i := by
  induction l generalizing acc with
  | nil => exact ⟨rfl, rfl⟩
  | cons k l ih =>
    have first := laneOver_outside (g := g) (d := d) inside (outside k (List.mem_cons_self ..)) acc
    have rest := ih (fun j hj => outside j (List.mem_cons_of_mem _ hj)) (laneOver g d z acc k)
    exact ⟨rest.1.trans first.1, rest.2.trans first.2⟩

/-- The byte that a lane stores, where no lane after it stores it too. -/
theorem storeLine_last {pre post : List LaneOk} {k : LaneOk} {j : Nat} (here : i = k.pa % 64 + j) (within : j < z)
    (last : ∀ m ∈ post, ¬(m.pa % 64 ≤ i ∧ i < m.pa % 64 + z)) :
    (storeLine g d z (pre ++ k :: post)).2.getLsbD i = true ∧
      lineByte (storeLine g d z (pre ++ k :: post)).1 i = ((g.lane k.lane).storeBytes d z).getD j 0 := by
  have length := length_storeBytes (g.lane k.lane) d z
  have masked : (placeBytes (k.pa % 64) ((g.lane k.lane).storeBytes d z)).2.getLsbD i = true := by
    rw [mask_placeBytes _ _ inside, length, decide_eq_true_eq]
    omega
  have after := foldl_laneOver_outside (g := g) (d := d) inside last (laneOver g d z (pre.foldl (laneOver g d z) (0, 0)) k)
  rw [storeLine_eq_foldl, List.foldl_append, List.foldl_cons, after.1, after.2]
  constructor
  · simp [laneOver, masked]
  · rw [laneOver, lineByte_blend _ _ _ inside, if_pos masked]
    subst here
    exact lineByte_placeBytes (by rw [length]; exact within) inside
end

end Sys2Proof.Machine
end

section
/-! ## Stores (R222 to R224, R229, R233, R234) -/
namespace Sys2Proof.Machine
open Sys2Proof.Claims

/-! ### What the store of one line changes -/

/-- Since id n0 only stores were sent, and every id in flight was given out. -/
structure OnlyStoresSince (n0 : Nat) (s : State) : Prop where
  later : n0 ≤ s.nextId
  given : ∀ p ∈ s.fly.reqs, p.1 < s.nextId
  stores : ∀ p ∈ s.fly.reqs, n0 ≤ p.1 → p.2.op.isSt = true

/-- A step of a store to the line at pa of a core: beside what is sent, that line's copy and its record at the slice. -/
structure StoreStep (n0 core pa : Nat) (s t : State) : Prop where
  sends : SendsOnly s { t with mem := s.mem } core
  bytes : t.mem.bytes = s.mem.bytes
  listed : ∀ a, (mget s.mem.lines a).isSome = true → (mget t.mem.lines a).isSome = true
  copies : ∀ a, a ≠ pa → mget (t.core core).l1 a = mget (s.core core).l1 a
  flight : OnlyStoresSince n0 s → OnlyStoresSince n0 t ∧ ∀ id r, n0 ≤ id → mget s.fly.reqs id = some r → mget t.fly.reqs id = some r

namespace StoreStep
variable {n0 core pa : Nat} {s t u : State}

theorem refl (n0 core pa : Nat) (s : State) : StoreStep n0 core pa s s :=
  ⟨.refl s core, rfl, fun _ h => h, fun _ _ => rfl, fun h => ⟨h, fun _ _ _ h => h⟩⟩
theorem trans (h : StoreStep n0 core pa s t) (g : StoreStep n0 core pa t u) : StoreStep n0 core pa s u where
  sends := h.sends.trans ⟨g.sends.groups, g.sends.here, g.sends.cores, congrArg (fun v : State => { v with mem := s.mem }) g.sends.rest⟩
  bytes := g.bytes.trans h.bytes
  listed a ha := g.listed a (h.listed a ha)
  copies a ha := (g.copies a ha).trans (h.copies a ha)
  flight hs :=
    have ⟨ht, keeps⟩ := h.flight hs
    have ⟨hu, keeps'⟩ := g.flight ht
    ⟨hu, fun id r later hr => keeps' id r later (keeps id r later hr)⟩

/-- A step that touches neither the requests nor a slice. -/
theorem of_sends (h : SendsOnly s t core) (fly : t.fly = s.fly) (next : t.nextId = s.nextId)
    (copies : ∀ a, a ≠ pa → mget (t.core core).l1 a = mget (s.core core).l1 a) : StoreStep n0 core pa s t where
  sends := ⟨h.groups, h.here, h.cores, congrArg (fun v : State => { v with mem := s.mem }) h.rest⟩
  bytes := by rw [h.mem]
  listed a := by rw [h.mem]; exact id
  copies := copies
  flight hs := ⟨⟨next ▸ hs.later, by rw [fly, next]; exact hs.given, by rw [fly]; exact hs.stores⟩, fun _ _ _ hr => by rw [fly]; exact hr⟩

theorem modCore (n0 core pa : Nat) (s : State) {f : Core → Core}
    (h : ∀ k, (f k).groups = k.groups ∧ { f k with l1 := [], pts := [], ctr := [] } = { k with l1 := [], pts := [], ctr := [] } := by
      exact fun _ => ⟨rfl, rfl⟩) (copies : ∀ k a, a ≠ pa → mget (f k).l1 a = mget k.l1 a) : StoreStep n0 core pa s (s.modCore core f) :=
  .of_sends (.modCore s core h) rfl rfl fun a ha => by rw [State.core_modCore_same]; exact copies _ a ha
theorem bump (n0 core pa : Nat) (s : State) (c : Ctr) (n : Nat) : StoreStep n0 core pa s (s.bump core c n) := by
  unfold State.bump
  split
  · exact .refl ..
  · exact .modCore (copies := fun _ _ _ => rfl) ..
theorem usePref (n0 core pa : Nat) (s : State) : StoreStep n0 core pa s (s.usePref core pa) := by
  unfold State.usePref
  split
  · split
    · exact .trans (.bump ..) (.modCore (copies := fun k a ha => by rw [mget_mset, if_neg ha]) ..)
    · exact .refl ..
  · exact .refl ..
theorem dropCopy (n0 core pa : Nat) (s : State) : StoreStep n0 core pa s (s.dropCopy core pa) :=
  .of_sends (.dropCopy ..) (s.fly_dropCopy core pa) (by unfold State.dropCopy State.bump; split <;> [split_ifs <;> rfl; rfl]) fun a ha => by
    rw [State.l1_dropCopy, if_neg ha]
/-- The record of a line that the slice lists. -/
theorem modSline (n0 core pa' : Nat) (s : State) (pa : Nat) (f : SliceLine → SliceLine) : StoreStep n0 core pa' s (s.modSline pa f) := by
  refine ⟨.refl s core, rfl, fun a ha => ?_, fun _ _ => rfl, fun h => ⟨⟨h.later, h.given, h.stores⟩, fun _ _ _ h => h⟩⟩
  rw [State.modSline, mget_mset]
  split_ifs
  · rfl
  · exact ha
theorem send (n0 core pa : Nat) (s : State) {r : Req} (store : r.op.isSt = true) : StoreStep n0 core pa s (s.send r) where
  sends := .send s core r
  bytes := rfl
  listed _ h := h
  copies _ _ := rfl
  flight hs := by
    refine ⟨⟨hs.later.trans (Nat.le_succ _), fun p hp => ?_, fun p hp later => ?_⟩, fun id q later hq => ?_⟩
    · rcases mem_mset _ _ _ p hp with rfl | old
      · exact Nat.lt_succ_self _
      · exact (hs.given p old).trans (Nat.lt_succ_self _)
    · rcases mem_mset _ _ _ p hp with rfl | old
      · exact store
      · exact hs.stores p old later
    · have other : id ≠ s.nextId := (hs.given _ (mem_of_mget hq)).ne
      rw [State.send, mget_mset, if_neg other]
      exact hq
/-- A prefetch in flight is marked. -/
theorem setPref (n0 core pa : Nat) {s : State} {i : Nat} {r q : Req} (inFlight : (i, r) ∈ s.fly.reqs) (pref : r.op.isSt = false) :
    StoreStep n0 core pa s (s.setReq i q) where
  sends := .setReq ..
  bytes := rfl
  listed _ h := h
  copies _ _ := rfl
  flight hs := by
    have earlier : i < n0 := Nat.lt_of_not_le fun later => absurd (hs.stores _ inFlight later) (by simp [pref])
    refine ⟨⟨hs.later, fun p hp => ?_, fun p hp later => ?_⟩, fun id q later hq => ?_⟩
    · rcases mem_mset _ _ _ p hp with rfl | old
      · exact hs.given (i, r) inFlight
      · exact hs.given p old
    · rcases mem_mset _ _ _ p hp with rfl | old
      · exact absurd later (Nat.not_le.2 earlier)
      · exact hs.stores p old later
    · rw [State.setReq, mget_mset, if_neg (by omega)]
      exact hq
theorem joinPref (n0 pa : Nat) (s : State) (x : Ex) (line cls : Nat) : StoreStep n0 x.core pa s (s.joinPref x line cls) := by
  unfold State.joinPref
  split
  · next i r found =>
    split
    · exact .refl ..
    have inFlight : (i, r) ∈ (s.bump x.core .pflate).fly.reqs := by
      rw [State.bump, if_neg (by decide)]
      exact List.mem_of_find?_eq_some found
    have pref : r.op.isSt = false := by
      have joined := List.find?_some found
      simp only [Req.joinable, Bool.and_eq_true, decide_eq_true_eq] at joined
      obtain ⟨⟨⟨-, -, -, -, op⟩, -⟩, -⟩ := joined
      rcases op with op | op <;> rw [op] <;> rfl
    exact .trans (.bump ..) (.setPref _ _ _ inFlight pref)
  · exact .refl ..
end StoreStep

/-! ### Where the bytes of a line stand -/

/-- The masked line w stands in a copy of the line that is modified, or in a request since id n0. -/
def Placed (n0 core pa : Nat) (w : Line × BitVec 64) (s : State) : Prop :=
  (∃ ln, mget (s.core core).l1 pa = some ln ∧ ln.st = .modified ∧ ∀ i, i < 64 → w.2.getLsbD i = true → lineByte ln.data i = lineByte w.1 i) ∨
  ∃ id r, mget s.fly.reqs id = some r ∧ n0 ≤ id ∧ r.pa = pa ∧ r.mask = w.2 ∧ r.data = w.1

theorem Placed.step {n0 core pa pa' : Nat} {w : Line × BitVec 64} {s t : State} (h : Placed n0 core pa w s) (other : pa ≠ pa')
    (flight : OnlyStoresSince n0 s) (step : StoreStep n0 core pa' s t) : Placed n0 core pa w t := by
  rcases h with ⟨ln, copy, rest⟩ | ⟨id, r, hr, later, rest⟩
  · exact .inl ⟨ln, (step.copies pa other).trans copy, rest⟩
  · exact .inr ⟨id, r, (step.flight flight).2 id r later hr, later, rest⟩
theorem Placed.send {n0 core : Nat} {s : State} (later : n0 ≤ s.nextId) (r : Req) : Placed n0 core r.pa (r.data, r.mask) (s.send r) :=
  .inr ⟨s.nextId, r, mget_mset_same .., later, rfl, rfl, rfl⟩

theorem State.takeSline_of_listed {s : State} {pa : Nat} (f : SliceLine → SliceLine) (listed : (mget s.mem.lines (lineAddr pa)).isSome = true) :
    s.takeSline pa f = s.modSline pa f := by
  rw [State.takeSline, State.makeRoom, if_pos listed]

/-- A copy after its prefetch mark is cleared. -/
theorem State.l1_usePref (s : State) (core pa : Nat) {l : L1Line} (copy : mget (s.core core).l1 pa = some l) :
    ∃ l', mget ((s.usePref core pa).core core).l1 pa = some l' ∧ l'.st = l.st := by
  unfold State.usePref
  rw [copy]
  dsimp only
  split
  · exact ⟨{ l with pref := false }, by rw [State.core_modCore_same, mget_mset_same], rfl⟩
  · exact ⟨l, copy, rfl⟩

/-- A masked line written into a copy. -/
def State.overwrite (s : State) (core pa : Nat) (w : Line × BitVec 64) : State :=
  s.modCore core fun k => { k with l1 := mmod k.l1 pa fun l => l.write w.1 w.2 }
theorem StoreStep.overwrite (n0 core pa : Nat) (s : State) (w : Line × BitVec 64) : StoreStep n0 core pa s (s.overwrite core pa w) :=
  .modCore (copies := fun k a ha => by rw [mget_mmod, if_neg ha]) ..
theorem Placed.overwrite {n0 core pa : Nat} {s : State} (w : Line × BitVec 64) {l : L1Line} (copy : mget (s.core core).l1 pa = some l)
    (holds : l.st = .modified) : Placed n0 core pa w (s.overwrite core pa w) := by
  refine .inl ⟨l.write w.1 w.2, ?_, holds, fun i inside masked => ?_⟩
  · rw [State.overwrite, State.core_modCore_same, mget_mmod_same, copy]
    rfl
  · rw [L1Line.write, lineByte_blend _ _ _ inside, if_pos masked]

section
variable {s : State} (x : Ex) (iid d z : Nat) (lu : Bool) (u : LineUse)
  (listed : x.gr.fenced = true → ∀ l, mget (s.core x.core).l1 u.pa = some l → l.st = .modified → (mget s.mem.lines (lineAddr u.pa)).isSome = true)
include listed

/-- The store of one line ends in a copy that the L1 holds modified, with or without a note at the slice, or in a request. -/
theorem State.storeUse_cases (n0 : Nat) :
    (∃ t l, StoreStep n0 x.core u.pa s t ∧ mget (t.core x.core).l1 u.pa = some l ∧ l.st = .modified ∧
      (s.storeUse x iid d z lu u = t.overwrite x.core u.pa (storeLine x.gr d z u.lanes) ∨
        ∃ f, s.storeUse x iid d z lu u = (t.overwrite x.core u.pa (storeLine x.gr d z u.lanes)).modSline u.pa f)) ∨
    ∃ t r, StoreStep n0 x.core u.pa s t ∧ r.op.isSt = true ∧ r.pa = u.pa ∧ (r.data, r.mask) = storeLine x.gr d z u.lanes ∧
      s.storeUse x iid d z lu u = t.send r := by
  have looked (c : Ctr) (n : Nat) : StoreStep n0 x.core u.pa s ((s.bump x.core c n).usePref x.core u.pa) := .trans (.bump ..) (.usePref ..)
  unfold State.storeUse
  dsimp only
  split
  · next l copy =>
    split
    · next here =>
      have holds : l.st = .modified := by
        simp only [State.storesHere, copy, Bool.and_eq_true, decide_eq_true_eq] at here
        exact here.1.2
      have before := looked .l1hit (if u.cls ≤ 1 then 1 else 0)
      obtain ⟨l', copy', same⟩ := (s.bump x.core .l1hit (if u.cls ≤ 1 then 1 else 0)).l1_usePref x.core u.pa (l := l) (by rw [State.l1_bump]; exact copy)
      refine .inl ⟨_, l', before, copy', same.trans holds, ?_⟩
      split
      · next fenced =>
        refine .inr ⟨_, State.takeSline_of_listed _ ?_⟩
        exact before.listed _ (listed fenced l copy holds)
      · exact .inl rfl
    · right
      split
      · split
        · exact ⟨_, _, (looked ..).trans (.dropCopy ..), by rfl, by rfl, by rfl, rfl⟩
        · exact ⟨_, _, (looked ..).trans (.modCore (copies := fun k a ha => by rw [mget_mmod, if_neg ha]) ..), by rfl, by rfl, by rfl, rfl⟩
      · exact ⟨_, _, (looked ..).trans (.joinPref ..), by rfl, by rfl, by rfl, rfl⟩
  · exact .inr ⟨_, _, .trans (.bump ..) (.joinPref ..), by rfl, by rfl, by rfl, rfl⟩

theorem State.storeUse_step (n0 : Nat) : StoreStep n0 x.core u.pa s (s.storeUse x iid d z lu u) := by
  rcases State.storeUse_cases x iid d z lu u listed n0 with ⟨t, l, step, -, -, e | ⟨f, e⟩⟩ | ⟨t, r, step, store, -, -, e⟩ <;> rw [e]
  · exact step.trans (.overwrite ..)
  · exact (step.trans (.overwrite ..)).trans (.modSline ..)
  · exact step.trans (.send _ _ _ _ store)

theorem State.storeUse_places {n0 : Nat} (flight : OnlyStoresSince n0 s) :
    Placed n0 x.core u.pa (storeLine x.gr d z u.lanes) (s.storeUse x iid d z lu u) := by
  rcases State.storeUse_cases x iid d z lu u listed n0 with ⟨t, l, -, copy, holds, e | ⟨f, e⟩⟩ | ⟨t, r, step, -, pa, w, e⟩ <;> rw [e]
  · exact .overwrite _ copy holds
  · exact .overwrite (n0 := n0) _ copy holds
  · rw [← pa, ← w]
    exact .send (step.flight flight).1.later r
end

/-! ### The stores of the lines, one after another -/

/-- The slices list the lines that a fenced group's core holds modified. -/
def ListsModified (s : State) (x : Ex) (us : List LineUse) : Prop := x.gr.fenced = true → ∀ u ∈ us, ∀ l,
  mget (s.core x.core).l1 u.pa = some l → l.st = .modified → (mget s.mem.lines (lineAddr u.pa)).isSome = true

/-- The stores of lines that lie apart, from a state on. -/
def State.storeUses (s : State) (x : Ex) (iid d z : Nat) (lu : Bool) (us : List LineUse) : State :=
  us.foldl (fun s u => s.storeUse x iid d z lu u) s

theorem ListsModified.step {n0 : Nat} {s t : State} {x : Ex} {u : LineUse} {us : List LineUse} (h : ListsModified s x (u :: us))
    (apart : ∀ v ∈ us, u.pa ≠ v.pa) (step : StoreStep n0 x.core u.pa s t) : ListsModified t x us := fun fenced v hv l copy holds =>
  step.listed _ (h fenced v (List.mem_cons_of_mem _ hv) l ((step.copies _ (apart v hv).symm).symm.trans copy) holds)

section
variable {n0 : Nat} {x : Ex} (iid d z : Nat) (lu : Bool)

/-- A line's bytes stay where they were put. -/
theorem Placed.storeUses {us : List LineUse} {s : State} {pa : Nat} {w : Line × BitVec 64} (h : Placed n0 x.core pa w s)
    (apart : us.Pairwise fun u v => u.pa ≠ v.pa) (other : ∀ v ∈ us, pa ≠ v.pa) (lists : ListsModified s x us) (flight : OnlyStoresSince n0 s) :
    Placed n0 x.core pa w (s.storeUses x iid d z lu us) := by
  induction us generalizing s with
  | nil => exact h
  | cons u us ih =>
    obtain ⟨first, rest⟩ := List.pairwise_cons.1 apart
    have step := State.storeUse_step x iid d z lu u (fun fenced => lists fenced u (List.mem_cons_self ..)) n0
    exact ih (h.step (other u (List.mem_cons_self ..)) flight step) rest (fun v hv => other v (List.mem_cons_of_mem _ hv)) (lists.step first step)
      (step.flight flight).1

theorem State.storeUses_places {us : List LineUse} {s : State} (apart : us.Pairwise fun u v => u.pa ≠ v.pa) (lists : ListsModified s x us)
    (flight : OnlyStoresSince n0 s) {u : LineUse} (hu : u ∈ us) :
    Placed n0 x.core u.pa (storeLine x.gr d z u.lanes) (s.storeUses x iid d z lu us) := by
  induction us generalizing s with
  | nil => exact absurd hu List.not_mem_nil
  | cons v us ih =>
    obtain ⟨first, rest⟩ := List.pairwise_cons.1 apart
    have listed := fun fenced => lists fenced v (List.mem_cons_self ..)
    have step := State.storeUse_step x iid d z lu v listed n0
    rcases List.mem_cons.1 hu with rfl | hu
    · exact (State.storeUse_places x iid d z lu u listed flight).storeUses iid d z lu rest first (lists.step first step) (step.flight flight).1
    · exact ih rest (lists.step first step) (step.flight flight).1 hu

/-- All of them together leave what each leaves. -/
theorem State.storeUses_leaves {us : List LineUse} {s : State} (apart : us.Pairwise fun u v => u.pa ≠ v.pa) (lists : ListsModified s x us) :
    SendsOnly s { s.storeUses x iid d z lu us with mem := s.mem } x.core ∧ (s.storeUses x iid d z lu us).mem.bytes = s.mem.bytes := by
  induction us generalizing s with
  | nil => exact ⟨.refl s x.core, rfl⟩
  | cons u us ih =>
    obtain ⟨first, rest⟩ := List.pairwise_cons.1 apart
    have step := State.storeUse_step x iid d z lu u (fun fenced => lists fenced u (List.mem_cons_self ..)) 0
    obtain ⟨sends, bytes⟩ := ih rest (lists.step first step)
    refine ⟨step.sends.trans ⟨sends.groups, sends.here, sends.cores, ?_⟩, bytes.trans step.bytes⟩
    exact congrArg (fun v : State => { v with mem := s.mem }) sends.rest
end

/-! ### Addresses -/

/-- A page's bytes keep their place in the line (R206). -/
theorem ptePa_mod (e : DWord) (va : Nat) : ptePa e va % 64 = va % 64 := by
  unfold ptePa pteFrame
  split <;> omega
/-- An aligned access of up to 16 bytes lies in its line. -/
theorem inside_line {a k : Nat} (small : k ≤ 4) (aligned : a % 2 ^ k = 0) : a % 64 + 2 ^ k ≤ 64 := by
  interval_cases k <;> omega
theorem lineAddr_lineAddr (a : Nat) : lineAddr (lineAddr a) = lineAddr a := by
  unfold lineAddr
  omega

/-! ### ST -/

section
variable {s : State} {x : Ex} {o : StO} {pte : Nat → DWord}

/-- The physical address that a lane of a store names. -/
def storePa (x : Ex) (o : StO) (pte : Nat → DWord) (l : Nat) : Nat := ptePa (pte l) (laneAddr (x.gr.lane l) o.a (offWord o.off)).toNat
/-- The lines that the store names. -/
def stUses (x : Ex) (o : StO) (pte : Nat → DWord) : List LineUse :=
  lineUses (laneOks (x.active o.g) (fun l => laneAddr (x.gr.lane l) o.a (offWord o.off)) pte)

theorem exists_lane_of_mem_stUses {u : LineUse} (hu : u ∈ stUses x o pte) :
    ∃ l, Mask.has (x.active o.g) l = true ∧ u.pa = lineAddr (storePa x o pte l) ∧ u.cls = pteClass (pte l) := by
  obtain ⟨k, hk, pa, cls⟩ := (usesOf_lineUses _).exists_lane hu
  obtain ⟨l, active, rfl⟩ := mem_laneOks.1 hk
  exact ⟨l, active, pa, cls⟩

/-- Where no line is used with two classes, the uses are of lines that lie apart. -/
theorem pairwise_stUses (oneClass : ∀ l m, Mask.has (x.active o.g) l = true → Mask.has (x.active o.g) m = true →
    lineAddr (storePa x o pte l) = lineAddr (storePa x o pte m) → pteClass (pte l) = pteClass (pte m)) :
    (stUses x o pte).Pairwise fun u v => u.pa ≠ v.pa := by
  refine (usesOf_lineUses _).apart.imp_of_mem fun hu hv apart same => apart ⟨same, ?_⟩
  obtain ⟨l, hl, pa, cls⟩ := exists_lane_of_mem_stUses hu
  obtain ⟨m, hm, pa', cls'⟩ := exists_lane_of_mem_stUses hv
  rw [cls, cls']
  exact oneClass l m hl hm (pa ▸ pa' ▸ same)

/-- A byte that a lane stores, and that no higher lane stores too, in the masked line of its use. -/
theorem exists_stUse_byte {l j : Nat} (active : Mask.has (x.active o.g) l = true) (within : j < 2 ^ o.z.toNat)
    (inside : storePa x o pte l % 64 + j < 64)
    (highest : ∀ m, l < m → Mask.has (x.active o.g) m = true →
      ¬(storePa x o pte m ≤ storePa x o pte l + j ∧ storePa x o pte l + j < storePa x o pte m + 2 ^ o.z.toNat)) :
    ∃ u ∈ stUses x o pte, u.pa = lineAddr (storePa x o pte l) ∧
      (storeLine x.gr o.d.toNat (2 ^ o.z.toNat) u.lanes).2.getLsbD (storePa x o pte l % 64 + j) = true ∧
      lineByte (storeLine x.gr o.d.toNat (2 ^ o.z.toNat) u.lanes).1 (storePa x o pte l % 64 + j) =
        ((x.gr.lane l).storeBytes o.d.toNat (2 ^ o.z.toNat)).getD j 0 := by
  have uses := usesOf_lineUses (laneOks (x.active o.g) (fun l => laneAddr (x.gr.lane l) o.a (offWord o.off)) pte)
  have lane := mem_laneOks (va := fun l => laneAddr (x.gr.lane l) o.a (offWord o.off)) (pte := pte) |>.2 ⟨l, active, rfl⟩
  obtain ⟨u, hu, pa, cls⟩ := uses.each _ lane
  obtain ⟨pre, post, split⟩ := List.append_of_mem ((uses.mem_lanes hu).2 ⟨lane, pa, cls⟩)
  have ascending : u.lanes.Pairwise fun a b => a.lane < b.lane := by
    rw [uses.lanes u hu]
    exact .filter _ (List.pairwise_map.2 (pairwise_lanesOf _))
  have above : ∀ k ∈ post, l < k.lane := by
    rw [split] at ascending
    exact (List.pairwise_cons.1 (List.pairwise_append.1 ascending).2.1).1
  refine ⟨u, hu, pa, ?_⟩
  rw [split]
  refine storeLine_last inside rfl within fun k hk => ?_
  have member : k ∈ u.lanes := split ▸ List.mem_append_right _ (List.mem_cons_of_mem _ hk)
  obtain ⟨listed, line, -⟩ := (uses.mem_lanes hu).1 member
  obtain ⟨m, activeM, rfl⟩ := mem_laneOks.1 listed
  have apart := highest m (above _ hk) activeM
  have sameLine : lineAddr (storePa x o pte l) = lineAddr (storePa x o pte m) := pa.symm.trans line
  show ¬(storePa x o pte m % 64 ≤ _ ∧ _ < storePa x o pte m % 64 + _)
  unfold lineAddr at sameLine
  omega

theorem exec_st_passed (running : s.running = some x) (acts : x.active o.g ≠ 0) (notHeld : s.acqBusy x = false)
    (room : s.storeCount x.core + s.storesSent x o.d.toNat (2 ^ o.z.toNat) (stUses x o pte) ≤ 64)
    (lands : ∀ l, Mask.has (x.active o.g) l = true →
      Lands s x { write := true } [0, 1, 2, 3] (2 ^ o.z.toNat) (laneAddr (x.gr.lane l) o.a (offWord o.off)) (pte l))
    (free : ∀ l, Mask.has (x.active o.g) l = true → s.lineBusy x (lineAddr (storePa x o pte l)) = false) :
    exec (.st o) s = .next ((s.fresh.storeUses x s.nextId o.d.toNat (2 ^ o.z.toNat) (o.k == 2) (stUses x o pte)).done x (offLen o.off) id) := by
  refine ((onSplit_running _ running).trans (if_neg acts)).trans ?_
  have notBusy : (stUses x o pte).any (fun u => s.lineBusy x u.pa) = false := List.any_eq_false.2 fun u hu => by
    obtain ⟨l, active, pa, -⟩ := exists_lane_of_mem_stUses hu
    rw [pa, free l active]
    decide
  rw [withChecks_of_lands lands]
  refine if_neg ?_
  rw [notHeld, ← stUses, notBusy]
  simpa using room
end

end Sys2Proof.Machine

namespace Sys2Proof.Proofs
open Sys2Proof Sys2Proof.Machine Sys2Proof.Claims

/-- Settles O18: the lines of the uses lie apart, so each keeps the place that its store gave it, and the last lane's bytes stand in its masked line. -/
theorem storesGoToTheL1OrToTheSlice : Obligations.StoresGoToTheL1OrToTheSlice := by
  intro s x o pte running z va pa us
  refine ⟨IdleGoesOn.of_done fun s x running none => (onSplit_running _ running).trans (if_pos none), ?_⟩
  intro small acts given notHeld room lands free oneClass listed
  have next := exec_st_passed running acts notHeld room lands free
  have apart := pairwise_stUses oneClass
  have lists : ListsModified s.fresh x (stUses x o pte) := fun fenced u hu ln copy holds => by
    obtain ⟨l, active, line, -⟩ := exists_lane_of_mem_stUses hu
    rw [line, lineAddr_lineAddr]
    exact listed fenced l active ln (line ▸ copy) holds
  have flight : OnlyStoresSince s.nextId s.fresh :=
    ⟨Nat.le_succ _, fun p hp => (given p hp).trans (Nat.lt_succ_self _), fun p hp later => absurd (given p hp) (Nat.not_lt.2 later)⟩
  obtain ⟨sends, bytes⟩ := State.storeUses_leaves s.nextId o.d.toNat z (o.k == 2) apart lists
  have sent : SendsOnly s { s.fresh.storeUses x s.nextId o.d.toNat z (o.k == 2) (stUses x o pte) with mem := s.mem } x.core :=
    ⟨sends.groups, sends.here, sends.cores, sends.rest⟩
  refine ⟨_, _, next, sent.group_done running .., fun a => congrArg (Bytes.at_ · a) bytes, sent.sentBy_done .., Advances.of_advance _ _ rfl, rfl, ?_⟩
  intro l j active within highest byte
  have inside : storePa x o pte l % 64 + j < 64 := by
    have line := inside_line small (lands l active).aligned
    rw [storePa, ptePa_mod]
    exact (Nat.add_lt_add_left within _).trans_le line
  obtain ⟨u, hu, line, masked, value⟩ := exists_stUse_byte active within inside highest
  rcases State.storeUses_places s.nextId o.d.toNat z (o.k == 2) apart lists flight hu with ⟨ln, copy, holds, put⟩ | ⟨id, r, hr, later, rpa, mask, data⟩
  · refine .inl ⟨ln, ?_, holds, (put _ inside masked).trans value⟩
    rw [State.done, State.modGroup, State.core_modCore_same]
    exact line ▸ copy
  · exact .inr ⟨id, r, hr, later, rpa.trans line, mask ▸ masked, data ▸ value⟩

end Sys2Proof.Proofs
end

section
/-! ## The home slice (R217, R219, R221 to R224) -/
namespace Sys2Proof.Machine
open Sys2Proof.Claims

/-! ### Lines and requests -/

theorem lineAddr_of_aligned {pa : Nat} (h : pa % 64 = 0) : lineAddr pa = pa := by
  unfold lineAddr
  omega
theorem State.sline_modSline (s : State) {pa : Nat} (f : SliceLine → SliceLine) : (s.modSline pa f).sline pa = f (s.sline pa) := by
  simp only [State.sline, State.modSline, mget_mset_same]
/-- The record of a line is read from the lines, the slices' times and the level of the pair link. -/
theorem State.sline_congr {s t : State} (lines : t.mem.lines = s.mem.lines) (slices : t.mem.slices = s.mem.slices) (dev : t.dev = s.dev)
    (pa : Nat) : t.sline pa = s.sline pa := by
  unfold State.sline State.sliceTimes State.slice
  rw [lines, slices, dev]
theorem State.isSome_modSline (s : State) {pa : Nat} (aligned : pa % 64 = 0) (f : SliceLine → SliceLine) :
    (mget (s.modSline pa f).mem.lines pa).isSome = true := by
  rw [State.modSline, lineAddr_of_aligned aligned, mget_mset_same]
  rfl
theorem State.makeRoom_of_room {s : State} {pa : Nat} (room : SliceRoom s pa) : s.makeRoom pa = s := by
  unfold State.makeRoom
  split_ifs with listed
  · rfl
  · dsimp only
    exact if_pos (by simpa using room.resolve_left listed)
theorem State.mget_setReq_same (s : State) (id : Nat) (r : Req) : mget (s.setReq id r).fly.reqs id = some r := mget_mset_same ..
theorem State.mget_setReq_ne (s : State) (r : Req) {id k : Nat} (h : k ≠ id) : mget (s.setReq id r).fly.reqs k = mget s.fly.reqs k :=
  mget_mset_ne _ _ h
theorem State.mget_dropReq_same (s : State) (id : Nat) : mget (s.dropReq id).fly.reqs id = none := by
  rw [State.dropReq, mget_mdel, if_pos rfl]
theorem State.group_of_cores {s t : State} (h : t.cores = s.cores) (c k : Nat) : t.group c k = s.group c k := by
  rw [State.group, State.core, h]
  rfl

/-! ### A request at its slice -/

section
variable {s : State} {id : Nat} {r : Req} (phase : r.phase = .out ∨ r.phase = .pending) (free : s.sliceBusy id r = false)
  (times : r.cls = 1 → s.timesFull = false)
include phase free times

theorem atSlice_open : ¬((r.phase ≠ .out ∧ r.phase ≠ .pending) ∨ s.sliceBusy id r = true ∨ (r.cls = 1 ∧ s.timesFull = true)) := by
  rintro (⟨out, pending⟩ | busy | ⟨cls, full⟩)
  · exact phase.elim out pending
  · rw [free] at busy
    cases busy
  · rw [times cls] at full
    cases full

/-- It is served once nothing is left to probe. -/
theorem atSlice_serves (probed : r.probed = true ∨ s.needed r = []) (room : SliceRoom s r.pa) (serve : State → Out) :
    atSlice s id r serve = serve s := by
  unfold atSlice
  rw [if_neg (atSlice_open phase free times), State.makeRoom_of_room room]
  split_ifs with done
  · rfl
  · rw [probed.resolve_left done]

/-- It sends its probes first. -/
theorem atSlice_probes (unprobed : r.probed = false) (needs : s.needed r ≠ []) (serve : State → Out) :
    atSlice s id r serve = .next (((s.needed r).foldl (fun s p => s.sendProbe p.1 r.pa id p.2) s).setReq id { r with probed := true }) := by
  unfold atSlice
  rw [if_neg (atSlice_open phase free times), if_neg (by simp [unprobed])]
  split
  · next none => exact absurd none needs
  · rfl
end

/-! ### Probes -/

/-- Every probe in flight has an id that was given out. -/
theorem State.sendProbe_fly (s : State) (core pa req : Nat) (write : Bool) : (s.sendProbe core pa req write).fly.probes =
    mset s.fly.probes s.nextId ⟨core, pa, write, req, s.fillOut core pa⟩ := by
  simp [State.sendProbe]
theorem State.sendProbe_nextId (s : State) (core pa req : Nat) (write : Bool) : (s.sendProbe core pa req write).nextId = s.nextId + 1 := by
  simp [State.sendProbe, State.fresh]
/-- Each probe of a list is on its way under an id of its own. -/
theorem State.mget_foldl_sendProbe (ps : List (Nat × Bool)) (pa req : Nat) (s : State) :
    (∀ k, k < s.nextId → mget (ps.foldl (fun s p => s.sendProbe p.1 pa req p.2) s).fly.probes k = mget s.fly.probes k) ∧
    ∀ p ∈ ps, ∃ k q, mget (ps.foldl (fun s p => s.sendProbe p.1 pa req p.2) s).fly.probes k = some q ∧
      q.core = p.1 ∧ q.pa = pa ∧ q.write = p.2 ∧ q.req = req := by
  induction ps generalizing s with
  | nil => exact ⟨fun _ _ => rfl, by simp⟩
  | cons p ps ih =>
    obtain ⟨before, each⟩ := ih (s.sendProbe p.1 pa req p.2)
    rw [State.sendProbe_nextId] at before
    refine ⟨fun k hk => ?_, List.forall_mem_cons.2 ⟨?_, each⟩⟩
    · rw [List.foldl_cons, before k (hk.trans (Nat.lt_succ_self _)), State.sendProbe_fly, mget_mset_ne _ _ hk.ne]
    · refine ⟨s.nextId, ⟨p.1, pa, p.2, req, s.fillOut p.1 pa⟩, ?_, rfl, rfl, rfl, rfl⟩
      rw [List.foldl_cons, before _ (Nat.lt_succ_self _), State.sendProbe_fly, mget_mset_same]

/-! ### Reads -/

section
variable {s : State} {id : Nat} {r : Req} (inFlight : mget s.fly.reqs id = some r) (reads : r.op.reads = true) (cls : r.cls ≤ 1)
include inFlight reads cls

theorem exec_sliceRead_absent (free : s.sliceBusy id r = false) (out : r.phase = .out) (absent : mget s.mem.lines r.pa = none) :
    exec (.sliceRead id 0) s =
      .next ((s.bump r.who.core .rdmerge (if s.mergesRead id r.pa then 1 else 0)).setReq id { r with phase := .pending }) := by
  show execSliceRead id 0 s = _
  rw [execSliceRead, inFlight]
  dsimp only
  rw [if_pos ⟨reads, cls⟩, if_pos ⟨out, absent, free⟩]
theorem exec_sliceRead_present (present : r.phase = .pending ∨ (mget s.mem.lines r.pa).isSome = true) :
    exec (.sliceRead id 0) s = atSlice s id r fun s =>
      if r.op = .prefLlc then .next ((s.modSline r.pa fun l => l).dropReq id) else .next (s.serveRead id r) := by
  have notAbsent : ¬(r.phase = .out ∧ mget s.mem.lines r.pa = none ∧ s.sliceBusy id r = false) := by
    rintro ⟨out, absent, -⟩
    rw [out, absent] at present
    simp at present
  show execSliceRead id 0 s = _
  rw [execSliceRead, inFlight]
  dsimp only
  rw [if_pos ⟨reads, cls⟩, if_neg notAbsent]
  rfl
end

/-- A read that is served carries the line as it stands; its record notes the lease. -/
theorem State.serveRead_eq {s : State} {id : Nat} {r : Req} (reached : s.lostLink r.pa = false) :
    ∃ f q, s.serveRead id r = (s.modSline r.pa f).setReq id q ∧ q.phase = .back ∧ q.data = (s.lineData r.who.ctx r.pa).1 ∧
      q.poison = (s.lineData r.who.ctx r.pa).2 ∧ q.wts = (s.sline r.pa).wts ∧
      (r.cls = 1 → r.op.leases = true → ∀ l, (f l).rts = (s.sline r.pa).leased r) := by
  unfold State.serveRead
  rw [reached]
  exact ⟨_, _, rfl, rfl, rfl, rfl, rfl, fun cls leases _ => if_pos ⟨cls, leases⟩⟩

/-! ### Stores -/

theorem State.dropWord_dev (s : State) (core word : Nat) : (s.dropWord core word).dev = s.dev := by
  unfold State.dropWord
  split
  · split_ifs
    · exact State.bump_dev ..
    · rfl
  · rfl
theorem State.probeScratch_dev (s : State) (pa : Nat) (words : BitVec 16) (req : Nat) (own : Option (Nat × Nat)) :
    (s.probeScratch pa words req own).dev = s.dev :=
  foldl_keeps (fun t : State => t.dev = s.dev) _ _ (fun t w same => by
    dsimp only
    split_ifs
    · exact same
    · exact (t.dropWord_dev w.1 w.2).trans same) s rfl

/-- What a store that has passed a release notes in its line's record. -/
def SliceLine.noteFence (r : Req) (l : SliceLine) : SliceLine := if r.fenced then { l with sts := max l.sts r.pts } else l
/-- What a store notes in its line's record. -/
def SliceLine.noteStore (r : Req) (l : SliceLine) : SliceLine := if r.cls = 1 then (l.noteFence r).stored r.pts else l.noteFence r

theorem SliceLine.holders_noteStore (r : Req) (l : SliceLine) : (l.noteStore r).holders = l.holders := by
  unfold SliceLine.noteStore SliceLine.noteFence
  split_ifs <;> rfl
theorem SliceLine.times_noteStore {r : Req} (cls : r.cls = 1) (l : SliceLine) :
    (l.noteStore r).wts = max r.pts (l.rts + 1) ∧ (l.noteStore r).rts = (l.noteStore r).wts := by
  unfold SliceLine.noteStore SliceLine.noteFence
  rw [if_pos cls]
  split_ifs <;> exact ⟨rfl, rfl⟩

/-- The state in which a store's notes are made: past the L1 its bytes are in memory, else its core is the line's one holder. -/
def State.storeTaken (s : State) (id : Nat) (r : Req) (own : Option (Nat × Nat)) (keep : Bool) : State :=
  let s := (s.probeScratch r.pa (wordsTouched r.mask) id own).overtake r.pa
  if keep then (s.staleReplies r.who.core r.pa).modSline r.pa fun l => { l with holders := [r.who.core] }
  else { s with mem := s.mem.store r.pa r.data r.mask r.poison }

/-- The state once a store's notes are made. -/
def State.storeNoted (s : State) (r : Req) : State :=
  let s := if r.fenced then s.modSline r.pa fun l => { l with sts := max l.sts r.pts } else s
  if r.cls = 1 then s.modSline r.pa fun l => l.stored r.pts else s
theorem State.serveStore_eq (s : State) (id : Nat) (r : Req) (own : Option (Nat × Nat)) (keep : Bool) : s.serveStore id r own keep =
    ((s.storeTaken id r own keep).storeNoted r).setReq id { r with
      phase := .back, probed := true,
      wts := if r.cls = 1 then (((s.storeTaken id r own keep).storeNoted r).sline r.pa).wts else 0, rts := (s.sline r.pa).wts } := rfl

theorem State.sline_storeNoted (s : State) (r : Req) : (s.storeNoted r).sline r.pa = (s.sline r.pa).noteStore r := by
  unfold State.storeNoted SliceLine.noteStore SliceLine.noteFence
  dsimp only
  split_ifs <;> simp only [State.sline_modSline]
theorem State.bytes_storeNoted (s : State) (r : Req) : (s.storeNoted r).mem.bytes = s.mem.bytes := by
  unfold State.storeNoted
  dsimp only
  split_ifs <;> rfl

section
variable (s : State) (id : Nat) (r : Req) (own : Option (Nat × Nat))

/-- Past the L1 a store's bytes are those of its mask, and its line's record is as it was. -/
theorem State.bytes_storeTaken_past (a : Nat) : Bytes.at_ (s.storeTaken id r own false).mem.bytes a =
    if r.pa ≤ a ∧ a < r.pa + 64 ∧ r.mask.getLsbD (a - r.pa) = true then lineByte r.data (a - r.pa) else Bytes.at_ s.mem.bytes a := by
  have probed : ((s.probeScratch r.pa (wordsTouched r.mask) id own).overtake r.pa).mem = s.mem := State.probeScratch_mem ..
  change Bytes.at_ (Bytes.writeLine ((s.probeScratch r.pa (wordsTouched r.mask) id own).overtake r.pa).mem.bytes _ _ _) a = _
  rw [probed, Bytes.at_writeLine]
theorem State.sline_storeTaken_past : (s.storeTaken id r own false).sline r.pa = s.sline r.pa :=
  State.sline_congr (congrArg Memory.lines (State.probeScratch_mem ..)) (congrArg Memory.slices (State.probeScratch_mem ..))
    (State.probeScratch_dev ..) r.pa
/-- A store whose core takes the line over changes no byte, and the core is the one holder. -/
theorem State.bytes_storeTaken_keep : (s.storeTaken id r own true).mem.bytes = s.mem.bytes := by
  have probed := congrArg Memory.bytes (s.probeScratch_mem r.pa (wordsTouched r.mask) id own)
  exact probed
theorem State.holders_storeTaken_keep : ((s.storeTaken id r own true).sline r.pa).holders = [r.who.core] := by
  rw [State.storeTaken, if_pos rfl, State.sline_modSline]

theorem State.serveStore_past : ∃ q, mget (s.serveStore id r own false).fly.reqs id = some q ∧ q.phase = .back ∧
    (∀ a, Bytes.at_ (s.serveStore id r own false).mem.bytes a =
      if r.pa ≤ a ∧ a < r.pa + 64 ∧ r.mask.getLsbD (a - r.pa) = true then lineByte r.data (a - r.pa) else Bytes.at_ s.mem.bytes a) ∧
    (r.cls = 1 → ((s.serveStore id r own false).sline r.pa).wts = max r.pts ((s.sline r.pa).rts + 1) ∧
      ((s.serveStore id r own false).sline r.pa).rts = ((s.serveStore id r own false).sline r.pa).wts ∧
      q.wts = ((s.serveStore id r own false).sline r.pa).wts) := by
  rw [State.serveStore_eq]
  refine ⟨_, State.mget_setReq_same .., rfl, fun a => ?_, fun cls => ?_⟩
  · exact (congrArg (Bytes.at_ · a) (State.bytes_storeNoted _ r)).trans (s.bytes_storeTaken_past id r own a)
  · have noted : ((s.storeTaken id r own false).storeNoted r).sline r.pa = (s.sline r.pa).noteStore r := by
      rw [State.sline_storeNoted, State.sline_storeTaken_past]
    obtain ⟨wts, rts⟩ := SliceLine.times_noteStore cls (s.sline r.pa)
    rw [← noted] at wts rts
    exact ⟨wts, rts, if_pos cls⟩
theorem State.serveStore_keep : ∃ q, mget (s.serveStore id r own true).fly.reqs id = some q ∧ q.phase = .back ∧
    ((s.serveStore id r own true).sline r.pa).holders = [r.who.core] ∧
    ∀ a, Bytes.at_ (s.serveStore id r own true).mem.bytes a = Bytes.at_ s.mem.bytes a := by
  rw [State.serveStore_eq]
  refine ⟨_, State.mget_setReq_same .., rfl, ?_, fun a => ?_⟩
  · calc (((s.storeTaken id r own true).storeNoted r).sline r.pa).holders
        = (((s.storeTaken id r own true).sline r.pa).noteStore r).holders := by rw [State.sline_storeNoted]
      _ = [r.who.core] := by rw [SliceLine.holders_noteStore, State.holders_storeTaken_keep]
  · exact congrArg (Bytes.at_ · a) ((State.bytes_storeNoted _ r).trans (s.bytes_storeTaken_keep id r own))
end

section
variable {s : State} {id : Nat} {r : Req} (inFlight : mget s.fly.reqs id = some r) (phase : r.phase = .out ∨ r.phase = .pending)
  (free : s.sliceBusy id r = false) (cls : r.cls ≤ 1) (times : r.cls = 1 → s.timesFull = false) (probed : r.probed = true ∨ s.needed r = [])
  (reached : s.lostLink r.pa = false) (room : SliceRoom s r.pa)
include inFlight phase free cls times probed reached room

theorem exec_sliceStore_st {lu inL1 : Bool} (op : r.op = .st lu inL1) :
    exec (.sliceStore id) s = .next (s.serveStore id r none (decide (r.cls = 0) && !lu)) := by
  show execSliceStore id s = _
  rw [execSliceStore, inFlight]
  dsimp only
  rw [if_neg (by omega), op]
  dsimp only
  rw [atSlice_serves phase free times probed room, reached]
  rfl
theorem exec_sliceStore_swb {core off : Nat} (op : r.op = .swb core off) :
    exec (.sliceStore id) s = .next (s.serveStore id r (some (core, off)) false) := by
  show execSliceStore id s = _
  rw [execSliceStore, inFlight]
  dsimp only
  rw [if_neg (by omega), op]
  dsimp only
  rw [atSlice_serves phase free times probed room, reached]
  rfl
/-- An L-class store, a store past the L1 and a scratch write-back are served without a copy kept. -/
theorem exec_sliceStore_past {lu inL1 : Bool} {core off : Nat} (op : (r.op = .st lu inL1 ∧ (r.cls = 1 ∨ lu = true)) ∨ r.op = .swb core off) :
    ∃ own, exec (.sliceStore id) s = .next (s.serveStore id r own false) := by
  obtain ⟨st, past⟩ | swb := op
  · have noKeep : (decide (r.cls = 0) && !lu) = false := by
      obtain cls | rfl := past
      · simp [cls]
      · simp
    exact ⟨none, noKeep ▸ exec_sliceStore_st inFlight phase free cls times probed reached room st⟩
  · exact ⟨_, exec_sliceStore_swb inFlight phase free cls times probed reached room swb⟩
end

/-- A write-back lands in memory. -/
theorem exec_sliceStore_wb {s : State} {id : Nat} {r : Req} {c : Bool} (inFlight : mget s.fly.reqs id = some r) (cls : r.cls ≤ 1)
    (op : r.op = .wb c) (out : r.phase = .out) (lands : (s.fly.reqs.find? fun q => q.2.lineWb r.pa) = some (id, r)) :
    exec (.sliceStore id) s = .next ((s.putLine r.pa r.data r.poison).setReq id { r with phase := .back }) := by
  have landed : s.landWb r.pa = (s.putLine r.pa r.data r.poison).setReq id { r with phase := .back } := by
    rw [State.landWb, lands]
    rfl
  show execSliceStore id s = _
  rw [execSliceStore, inFlight]
  dsimp only
  rw [if_neg (by omega), op]
  dsimp only
  rw [if_pos out, landed, op]
/-- A whole line put into memory: its 64 bytes, and every other byte as it was. -/
theorem State.bytes_putLine (s : State) (pa : Nat) (d : Line) (p : BitVec 16) (a : Nat) : Bytes.at_ (s.putLine pa d p).mem.bytes a =
    if pa ≤ a ∧ a < pa + 64 then lineByte d (a - pa) else Bytes.at_ s.mem.bytes a := by
  change Bytes.at_ (Bytes.writeLine s.mem.bytes pa d (BitVec.allOnes 64)) a = _
  rw [Bytes.at_writeLine]
  refine if_congr ⟨fun ⟨low, high, _⟩ => ⟨low, high⟩, fun ⟨low, high⟩ => ⟨low, high, ?_⟩⟩ rfl rfl
  rw [BitVec.getLsbD_allOnes, decide_eq_true (by omega)]

theorem homeSliceServesReadsAndStores : HomeSliceServesReadsAndStores := by
  intro s id r inFlight phase free aligned cls
  refine ⟨fun reads out absent => ?_, fun times unprobed needs reads present => ?_, fun times probed reached room => ⟨?_, ?_, ?_, ?_⟩, ?_⟩
  case refine_1 =>
    refine ⟨_, exec_sliceRead_absent inFlight reads cls free out absent, State.mget_setReq_same .., fun k other => ?_, State.bump_mem .., ?_⟩
    · rw [State.mget_setReq_ne _ _ other, State.bump_fly]
    · exact State.group_of_still (State.still_bump ..)
  case refine_2 =>
    refine ⟨_, (exec_sliceRead_present inFlight reads cls present).trans (atSlice_probes phase free times unprobed needs _),
      State.mget_setReq_same .., ?_, (s.mget_foldl_sendProbe (s.needed r) r.pa id).2⟩
    exact foldl_keeps (fun t : State => t.mem = s.mem) _ _ (fun t p same => (t.sendProbe_mem ..).trans same) s rfl
  case refine_3 =>
    intro reads present notPrefLlc
    obtain ⟨f, q, served, back, data, poison, wts, leased⟩ := State.serveRead_eq (id := id) (r := r) reached
    refine ⟨_, q, ((exec_sliceRead_present inFlight reads cls present).trans (atSlice_serves phase free times probed room _)).trans
      ((if_neg notPrefLlc).trans (congrArg Host.Outcome.next served)), State.mget_setReq_same .., back, data, poison, wts, fun _ => rfl, rfl,
      fun k other => State.mget_setReq_ne _ _ other, fun lclass leases => ?_⟩
    exact (congrArg SliceLine.rts (s.sline_modSline f)).trans (leased lclass leases _)
  case refine_4 =>
    intro op present
    have reads : r.op.reads = true := by rw [op]; rfl
    exact ⟨_, ((exec_sliceRead_present inFlight reads cls present).trans (atSlice_serves phase free times probed room _)).trans (if_pos op),
      State.mget_dropReq_same .., s.isSome_modSline aligned (fun l => l), fun _ => rfl⟩
  case refine_5 =>
    intro lu inL1 core off op
    obtain ⟨own, served⟩ := exec_sliceStore_past inFlight phase free cls times probed reached room op
    obtain ⟨q, inFlight', noted⟩ := s.serveStore_past id r own
    exact ⟨_, q, served, inFlight', noted⟩
  case refine_6 =>
    intro lu inL1 op dclass keeps
    obtain ⟨q, inFlight', noted⟩ := s.serveStore_keep id r none
    subst keeps
    exact ⟨_, q, (exec_sliceStore_st inFlight phase free cls times probed reached room op).trans (by rw [dclass]; rfl), inFlight', noted⟩
  case refine_7 =>
    intro c op out lands
    exact ⟨_, exec_sliceStore_wb inFlight cls op out lands, State.mget_setReq_same .., fun a => s.bytes_putLine r.pa r.data r.poison a⟩

end Sys2Proof.Machine
end

section
/-! ## Replies, acknowledgements and probes (R217, R219, R224) -/
namespace Sys2Proof.Machine
open Sys2Proof.Claims

/-! ### What a line that comes into an L1 leaves alone -/

/-- Groups, program times and clusters stay, and a request that is past stays past. -/
structure Settles (s t : State) : Prop where
  still : t.still = s.still
  gone : ∀ id, id < s.nextId → mget s.fly.reqs id = none → id < t.nextId ∧ mget t.fly.reqs id = none

namespace Settles
variable {s t u : State}

theorem refl (s : State) : Settles s s := ⟨rfl, fun _ h g => ⟨h, g⟩⟩
theorem trans (h : Settles s t) (g : Settles t u) : Settles s u where
  still := g.still.trans h.still
  gone id given past :=
    have ⟨given', past'⟩ := h.gone id given past
    g.gone id given' past'
/-- A step that leaves the requests in flight and the ids as they are. -/
theorem of_fly (still : t.still = s.still) (fly : t.fly = s.fly) (next : t.nextId = s.nextId) : Settles s t :=
  ⟨still, fun _ given past => by rw [fly, next]; exact ⟨given, past⟩⟩
theorem foldl {α : Type} {f : State → α → State} (h : ∀ s a, Settles s (f s a)) (l : List α) (s : State) : Settles s (l.foldl f s) :=
  foldl_keeps (fun t => Settles s t) f l (fun t a ht => ht.trans (h t a)) s (refl s)

theorem modCore (s : State) (c : Nat) {f : Core → Core}
    (h : ∀ k, (f k).groups = k.groups ∧ (f k).pts = k.pts := by exact fun _ => ⟨rfl, rfl⟩) : Settles s (s.modCore c f) :=
  of_fly (s.still_modCore c h) rfl rfl
theorem bump (s : State) (c n : Nat) (x : Ctr) : Settles s (s.bump c x n) := of_fly (s.still_bump ..) (s.bump_fly ..) (s.bump_nextId ..)
theorem setMem (s : State) (m : Memory) : Settles s { s with mem := m } := of_fly rfl rfl rfl
theorem setFreed (s : State) (n : Nat) : Settles s { s with freed := n } := of_fly rfl rfl rfl
theorem send (s : State) (r : Req) : Settles s (s.send r) where
  still := rfl
  gone id given past := ⟨Nat.lt_succ_of_lt given, by
    change mget (mset s.fly.reqs s.nextId r) id = none
    rw [mget_mset_ne _ _ given.ne, past]⟩
theorem mall (s : State) (f : Nat → Req → Req) : Settles s { s with fly := { s.fly with reqs := mall s.fly.reqs f } } where
  still := rfl
  gone id given past := ⟨given, by
    change mget (Machine.mall s.fly.reqs f) id = none
    rw [mget_mall, past]
    rfl⟩
theorem dropCopy (s : State) (c pa : Nat) : Settles s (s.dropCopy c pa) := by
  unfold State.dropCopy
  split
  · split
    · exact (bump ..).trans (modCore ..)
    · exact modCore ..
  · exact refl s
theorem writeBack (s : State) (who : Owner) (pa : Nat) (cline : Bool) : Settles s (s.writeBack who pa cline) := by
  unfold State.writeBack
  split
  · exact send ..
  · exact refl s
theorem dropL1 (s : State) (c pa : Nat) : Settles s (s.dropL1 c pa) := by
  unfold State.dropL1
  split
  · exact refl s
  · dsimp only
    split_ifs
    · exact (writeBack ..).trans (dropCopy ..)
    · exact dropCopy ..
theorem roomL1 (s : State) (c pa : Nat) : Settles s (s.roomL1 c pa) := by
  unfold State.roomL1
  dsimp only
  split
  · exact refl s
  · exact (setFreed ..).trans (dropL1 ..)
theorem installLease (s : State) (c pa : Nat) (l : L1Line) : Settles s (s.installLease c pa l) := by
  unfold State.installLease
  dsimp only
  split_ifs
  · exact refl s
  · exact modCore ..
  · exact (bump ..).trans ((foldl (fun s q => dropCopy s c q) _ _).trans (modCore ..))
theorem install (s : State) (r : Req) : Settles s (s.install r) := by
  unfold State.install
  dsimp only
  split_ifs
  · exact refl s
  · exact (roomL1 ..).trans (modCore ..)
  · exact (roomL1 ..).trans (modCore ..)
  · exact (roomL1 ..).trans (installLease ..)
theorem ackLease (s : State) (id : Nat) (r : Req) : Settles s (s.ackLease id r) := by
  unfold State.ackLease
  split <;> [skip; exact refl s]
  dsimp only
  split_ifs
  · exact modCore ..
  · exact (modCore ..).trans (installLease ..)
  · exact refl s

/-! ### A line that leaves its slice -/

theorem landWb (s : State) (pa : Nat) : Settles s (s.landWb pa) := by
  unfold State.landWb
  split
  · next i r found =>
    refine ⟨rfl, fun id given past => ⟨given, ?_⟩⟩
    have other : id ≠ i := by
      rintro rfl
      exact absurd past (mget_ne_none_of_mem (List.mem_of_find?_eq_some found))
    change mget (mset s.fly.reqs i _) id = none
    rw [mget_mset_ne _ _ other, past]
  · exact refl s
theorem cleanLine (s : State) (pa : Nat) : Settles s (s.cleanLine pa) := by
  unfold State.cleanLine
  dsimp only
  split
  · exact (landWb s pa).trans ((setMem ..).trans (modCore ..))
  · exact landWb s pa
theorem reclaim (s : State) (pa : Nat) : Settles s (s.reclaim pa) := by
  have dropped (l : Map Core) (u : State) : Settles u (l.foldl (fun s p => s.dropCopy p.1 pa) u) := foldl (fun s p => dropCopy s p.1 pa) l u
  unfold State.reclaim
  dsimp only
  split
  · exact (cleanLine s pa).trans ((mall ..).trans ((dropped ..).trans (setMem ..)))
  · exact (cleanLine s pa).trans ((mall ..).trans (dropped ..))
theorem evictSlice (s : State) (vict : Nat) : Settles s (s.evictSlice vict) := by
  unfold State.evictSlice
  split_ifs
  · exact refl s
  split
  · exact refl s
  · exact (reclaim ..).trans (setMem ..)
theorem takeSline (s : State) (pa : Nat) (f : SliceLine → SliceLine) : Settles s (s.takeSline pa f) := by
  unfold State.takeSline State.makeRoom
  dsimp only
  split_ifs
  · exact setMem ..
  · exact setMem ..
  · exact (setFreed ..).trans ((evictSlice ..).trans (setMem ..))
theorem ownLine (s : State) (r : Req) : Settles s (s.ownLine r) :=
  (roomL1 ..).trans ((modCore ..).trans (takeSline ..))
end Settles

/-! ### The copies of an L1 -/

/-- Each copy that an L1 holds of a line was held before. -/
theorem State.l1_dropL1 {s : State} {c v a : Nat} {l : L1Line} (h : mget ((s.dropL1 c v).core c).l1 a = some l) :
    mget (s.core c).l1 a = some l := by
  have sent (u : State) (same : (u.core c).l1 = (s.core c).l1) (h : mget ((u.dropCopy c v).core c).l1 a = some l) :
      mget (s.core c).l1 a = some l := by
    rw [State.l1_dropCopy, same] at h
    split_ifs at h
    exact h
  have back (who : Owner) : ((s.writeBack who v false).core c).l1 = (s.core c).l1 := by
    unfold State.writeBack
    split <;> rfl
  unfold State.dropL1 at h
  split at h
  · exact h
  · dsimp only at h
    split_ifs at h
    · exact sent _ (back _) h
    · exact sent _ rfl h
theorem State.l1_roomL1 {s : State} {c pa a : Nat} {l : L1Line} (h : mget ((s.roomL1 c pa).core c).l1 a = some l) :
    mget (s.core c).l1 a = some l := by
  unfold State.roomL1 at h
  dsimp only at h
  split at h
  · exact h
  · exact State.l1_dropL1 (s := { s with freed := s.freed + 1 }) h

/-- The copy that a reply of class D puts into the L1. -/
def Req.copy (r : Req) : L1Line where
  st := if (match r.op with | .prefEx => true | .ld _ _ _ _ _ ex => ex | .test _ ex => ex | _ => false) then .modified else .shared
  data := r.data
  poison := r.poison
  lu := match r.op with | .ld _ _ _ _ lu _ => lu | _ => false
  pref := !r.used && (match r.op with | .pref => true | .prefEx => true | _ => false)
theorem Req.st_copy_ld {r : Req} {z d : Nat} {sx cb lu ex : Bool} (op : r.op = .ld z d sx cb lu ex) :
    r.copy.st = if ex then .modified else .shared := by
  rw [Req.copy, op]
theorem Req.copy_pref {r : Req} (op : r.op = .pref ∨ r.op = .prefEx) :
    r.copy.pref = !r.used ∧ r.copy.st = if r.op = .prefEx then .modified else .shared := by
  obtain op | op := op <;> simp [Req.copy, op]

theorem State.l1_install {s : State} {r : Req} (dclass : r.cls = 0) (fresh : r.stale = false) (reached : s.lostLink r.pa = false)
    (leases : ∀ l, mget (s.core r.who.core).l1 r.pa = some l → l.st = .lease) :
    mget ((s.install r).core r.who.core).l1 r.pa = some r.copy := by
  unfold State.install
  dsimp only
  rw [if_neg (by simp [fresh, reached]), if_pos dclass, State.core_modCore_same, mget_mset_same]
  refine congrArg some ?_
  split
  · next l copy => exact if_pos (leases l (State.l1_roomL1 copy))
  · rfl

/-! ### Times that are raised -/

section
variable (s : State) (core ctx p : Nat)

theorem State.fly_raisePts : (s.raisePts core ctx p).fly = s.fly := by
  unfold State.raisePts; split <;> rfl
theorem State.nextId_raisePts : (s.raisePts core ctx p).nextId = s.nextId := by
  unfold State.raisePts; split <;> rfl
theorem State.l1_raisePts (c : Nat) : ((s.raisePts core ctx p).core c).l1 = (s.core c).l1 := by
  have same := congrArg Core.l1 (s.core_raisePts core ctx p c)
  exact same
theorem State.le_pts_raisePts_of_le {q : Nat} (h : q ≤ s.pts core ctx) : q ≤ (s.raisePts core ctx p).pts core ctx := by
  by_cases reached : s.pts core ctx < p
  · exact h.trans (reached.le.trans (s.le_pts_raisePts core ctx p))
  · rw [State.raisePts, if_neg reached]
    exact h
end

theorem State.pts_modGroup (s : State) (c k : Nat) (f : Group → Group) (c' x : Nat) : (s.modGroup c k f).pts c' x = s.pts c' x := by
  have same := congrArg Core.pts (s.core_modGroup c k f c')
  exact congrArg (mgetD · x 0) same
theorem State.l1_modGroup (s : State) (c k : Nat) (f : Group → Group) (c' : Nat) : ((s.modGroup c k f).core c').l1 = (s.core c').l1 := by
  have same := congrArg Core.l1 (s.core_modGroup c k f c')
  exact same

/-! ### Replies -/

/-- The line that a reply brings. -/
def State.brought (s : State) (id : Nat) (r : Req) (cb : Bool) : State :=
  if !cb && decide (r.cls ≤ 1) then ((s.dropReq id).evictL1 r.who.core 0).install r else s.dropReq id
/-- What a reply brings but for the registers: the line, and the times. -/
def State.replied (s : State) (id : Nat) (r : Req) (cb : Bool) : State :=
  let s := s.brought id r cb
  let s := if r.cls = 1 then s.raisePts r.who.core r.who.ctx r.wts else s
  if cb then s.raisePts r.who.core r.who.ctx r.sts else s

section
variable (s : State) (id : Nat) (r : Req) (cb : Bool)

theorem Settles.brought : Settles (s.dropReq id) (s.brought id r cb) := by
  unfold State.brought
  split_ifs
  · exact .install ..
  · exact .refl _
theorem State.mem_brought : (s.brought id r cb).mem = s.mem := by
  unfold State.brought
  split_ifs
  · exact State.install_mem ..
  · rfl
theorem State.fly_replied : (s.replied id r cb).fly = (s.brought id r cb).fly := by
  unfold State.replied
  dsimp only
  split_ifs <;> simp only [State.fly_raisePts]
theorem State.mem_replied : (s.replied id r cb).mem = s.mem := by
  rw [← s.mem_brought id r cb]
  unfold State.replied
  dsimp only
  split_ifs <;> simp only [State.mem_raisePts]
theorem State.group_replied (c k : Nat) : (s.replied id r cb).group c k = s.group c k := by
  rw [← State.group_of_still (s := s) (Settles.brought s id r cb).still c k]
  unfold State.replied
  dsimp only
  split_ifs <;> simp only [State.group_raisePts]
theorem State.l1_replied (c : Nat) : ((s.replied id r cb).core c).l1 = ((s.brought id r cb).core c).l1 := by
  unfold State.replied
  dsimp only
  split_ifs <;> simp only [State.l1_raisePts]
theorem State.wts_le_pts_replied (lclass : r.cls = 1) : r.wts ≤ (s.replied id r cb).pts r.who.core r.who.ctx := by
  unfold State.replied
  dsimp only
  rw [if_pos lclass]
  split_ifs
  · exact State.le_pts_raisePts_of_le _ _ _ _ (State.le_pts_raisePts ..)
  · exact State.le_pts_raisePts ..
theorem State.sts_le_pts_replied : r.sts ≤ (s.replied id r true).pts r.who.core r.who.ctx := State.le_pts_raisePts ..
end

/-- The copy of a D-class reply that has come without .cb. -/
theorem State.l1_brought {s : State} {id : Nat} {r : Req} (dclass : r.cls = 0) (fresh : r.stale = false) (reached : s.lostLink r.pa = false)
    (leases : ∀ l, mget (s.core r.who.core).l1 r.pa = some l → l.st = .lease) :
    mget ((s.brought id r false).core r.who.core).l1 r.pa = some r.copy := by
  rw [State.brought, if_pos (by simp [dclass])]
  exact State.l1_install (s := s.dropReq id) dclass fresh reached leases

section
variable {s : State} {id : Nat} {r : Req} (inFlight : mget s.fly.reqs id = some r) (back : r.phase = .back)
include inFlight back

theorem exec_l1Reply_ld {z d : Nat} {sx cb lu ex : Bool} (op : r.op = .ld z d sx cb lu ex) : exec (.l1Reply id 0) s =
    .next ((s.replied id r cb).modGroup r.who.core r.who.slot fun g => g.loadReply r z d sx) := by
  show execL1Reply id 0 s = _
  rw [execL1Reply, inFlight]
  dsimp only
  rw [if_neg (by simp [back]), op]
  rfl
theorem exec_l1Reply_pref (op : r.op = .pref ∨ r.op = .prefEx) : exec (.l1Reply id 0) s = .next ((s.dropReq id).install r) := by
  show execL1Reply id 0 s = _
  rw [execL1Reply, inFlight]
  dsimp only
  rw [if_neg (by simp [back])]
  obtain op | op := op <;> rw [op] <;> rfl
end

theorem State.gone_of_settles {s t : State} {id : Nat} (given : id < s.nextId) (h : Settles (s.dropReq id) t) : mget t.fly.reqs id = none :=
  (h.gone id given (s.mget_dropReq_same id)).2

theorem reply_writes_registers {s : State} {id z d : Nat} {r : Req} {sx cb lu ex : Bool} (inFlight : mget s.fly.reqs id = some r)
    (given : id < s.nextId) (back : r.phase = .back) (op : r.op = .ld z d sx cb lu ex) :
    ∃ t, exec (.l1Reply id 0) s = .next t ∧ mget t.fly.reqs id = none ∧ t.mem = s.mem ∧
      (∀ g, s.group r.who.core r.who.slot = some g → t.group r.who.core r.who.slot = some (g.loadReply r z d sx)) ∧
      (∀ c k, ¬(c = r.who.core ∧ k = r.who.slot) → t.group c k = s.group c k) ∧
      (cb = false → r.cls = 0 → r.stale = false → s.lostLink r.pa = false → (∀ l, mget (s.core r.who.core).l1 r.pa = some l → l.st = .lease) →
        ∃ l, mget (t.core r.who.core).l1 r.pa = some l ∧ l.data = r.data ∧
          l.poison = r.poison ∧ l.st = if ex then .modified else .shared) ∧
      (r.cls = 1 → r.wts ≤ t.pts r.who.core r.who.ctx) ∧ (cb = true → r.sts ≤ t.pts r.who.core r.who.ctx) := by
  refine ⟨_, exec_l1Reply_ld inFlight back op, ?_, s.mem_replied id r cb, fun g group => ?_, fun c k other => ?_, ?_, fun lclass => ?_, ?_⟩
  · rw [State.modGroup_fly, State.fly_replied]
    exact State.gone_of_settles given (.brought s id r cb)
  · rw [State.group_modGroup, if_pos ⟨rfl, rfl⟩, State.group_replied, group]
    rfl
  · rw [State.group_modGroup, if_neg other, State.group_replied]
  · rintro rfl dclass fresh reached leases
    rw [State.l1_modGroup, State.l1_replied]
    exact ⟨r.copy, State.l1_brought dclass fresh reached leases, rfl, rfl, Req.st_copy_ld op⟩
  · rw [State.pts_modGroup]
    exact s.wts_le_pts_replied id r cb lclass
  · rintro rfl
    rw [State.pts_modGroup]
    exact s.sts_le_pts_replied id r

theorem reply_brings_prefetched {s : State} {id : Nat} {r : Req} (inFlight : mget s.fly.reqs id = some r) (given : id < s.nextId)
    (back : r.phase = .back) (op : r.op = .pref ∨ r.op = .prefEx) :
    ∃ t, exec (.l1Reply id 0) s = .next t ∧ mget t.fly.reqs id = none ∧ t.mem = s.mem ∧
      (∀ c k, t.group c k = s.group c k) ∧
      (r.cls = 0 → r.stale = false → s.lostLink r.pa = false → (∀ l, mget (s.core r.who.core).l1 r.pa = some l → l.st = .lease) →
        ∃ l, mget (t.core r.who.core).l1 r.pa = some l ∧ l.data = r.data ∧ l.pref = !r.used ∧
          l.st = if r.op = .prefEx then .modified else .shared) := by
  have brings : Settles (s.dropReq id) ((s.dropReq id).install r) := .install ..
  obtain ⟨pref, st⟩ := Req.copy_pref op
  exact ⟨_, exec_l1Reply_pref inFlight back op, State.gone_of_settles given brings, State.install_mem (s.dropReq id) r,
    State.group_of_still brings.still, fun dclass fresh reached leases =>
      ⟨r.copy, State.l1_install (s := s.dropReq id) dclass fresh reached leases, rfl, pref, st⟩⟩

/-! ### A line that its core owns after a store -/

theorem State.l1_dropCopy_other (s : State) (c k : Nat) {pa a : Nat} (other : a ≠ pa) :
    mget ((s.dropCopy c pa).core k).l1 a = mget (s.core k).l1 a := by
  by_cases here : k = c
  · rw [here, State.l1_dropCopy, if_neg other]
  · unfold State.dropCopy
    split
    · rw [State.core_modCore_ne _ _ here]
      split <;> simp
    · rfl
theorem State.l1_reclaim_other (s : State) (k : Nat) {pa a : Nat} (other : a ≠ pa) :
    mget ((s.reclaim pa).core k).l1 a = mget (s.core k).l1 a := by
  have cleaned : mget ((s.cleanLine pa).core k).l1 a = mget (s.core k).l1 a :=
    (s.l1_cleanLine pa k a).resolve_right fun shared => other shared.1
  rw [State.core_reclaim]
  exact foldl_keeps (fun t : State => mget (t.core k).l1 a = mget (s.core k).l1 a) _ _
    (fun t p same => (t.l1_dropCopy_other p.1 k other).trans same) _ cleaned
theorem State.l1_evictSlice_unlisted {s : State} {pa : Nat} (unlisted : mget s.mem.lines pa = none) (vict k : Nat) :
    mget ((s.evictSlice vict).core k).l1 pa = mget (s.core k).l1 pa := by
  unfold State.evictSlice
  split_ifs
  · rfl
  split
  · rfl
  · next l listed =>
    have other : pa ≠ vict - 1 := by
      rintro rfl
      rw [listed] at unlisted
      cases unlisted
    exact s.l1_reclaim_other k other
/-- The room made for a line in its slice leaves every copy of it. -/
theorem State.l1_takeSline {s : State} {pa : Nat} (aligned : pa % 64 = 0) (f : SliceLine → SliceLine) (k : Nat) :
    mget ((s.takeSline pa f).core k).l1 pa = mget (s.core k).l1 pa := by
  change mget ((s.makeRoom (lineAddr pa)).core k).l1 pa = _
  rw [lineAddr_of_aligned aligned]
  unfold State.makeRoom
  dsimp only
  split_ifs with listed
  · rfl
  · rfl
  · exact State.l1_evictSlice_unlisted (s := { s with freed := s.freed + 1 }) (by simpa using listed) _ k
theorem State.l1_ownLine {s : State} {r : Req} (aligned : r.pa % 64 = 0) :
    ∃ l, mget ((s.ownLine r).core r.who.core).l1 r.pa = some l ∧ l.st = .modified ∧
      ∀ i, i < 64 → r.mask.getLsbD i = true → lineByte l.data i = lineByte r.data i := by
  unfold State.ownLine
  dsimp only
  rw [State.l1_takeSline aligned, State.core_modCore_same, mget_mset_same]
  refine ⟨_, rfl, rfl, fun i inside set => ?_⟩
  rw [L1Line.write, lineByte_blend _ _ _ inside, if_pos set]

/-! ### Acknowledgements -/

section
variable {s : State} {id : Nat} {r : Req} (inFlight : mget s.fly.reqs id = some r) (back : r.phase = .back)
  (probed : ∀ p ∈ s.fly.scrProbes, p.2.req ≠ id)
include back probed

theorem storeAck_due : ¬(r.phase ≠ .back ∨ (s.fly.scrProbes.any fun p => decide (p.2.req = id)) = true) := by
  rintro (waits | some)
  · exact waits back
  · obtain ⟨p, hp, req⟩ := List.any_eq_true.1 some
    exact probed p hp (of_decide_eq_true req)

include inFlight

theorem exec_storeAck_wb {c : Bool} (op : r.op = .wb c) : exec (.storeAck id) s = .next (s.dropReq id) := by
  show execStoreAck id s = _
  rw [execStoreAck, inFlight]
  dsimp only
  rw [if_neg (storeAck_due back probed), op]
theorem exec_storeAck_owned {inL1 : Bool} (op : r.op = .st false inL1) (dclass : r.cls = 0) (reached : s.lostLink r.pa = false)
    (unshared : s.sharers r.pa (wordsTouched r.mask) = []) : exec (.storeAck id) s = .next ((s.dropReq id).ownLine r) := by
  show execStoreAck id s = _
  rw [execStoreAck, inFlight]
  dsimp only
  rw [if_neg (storeAck_due back probed), op]
  dsimp only
  rw [if_pos ⟨dclass, rfl, reached⟩, if_pos unshared]
theorem exec_storeAck_lease {lu inL1 : Bool} (op : r.op = .st lu inL1) (lclass : r.cls = 1) :
    exec (.storeAck id) s = .next (((s.dropReq id).raisePts r.who.core r.who.ctx r.wts).ackLease id r) := by
  show execStoreAck id s = _
  rw [execStoreAck, inFlight]
  dsimp only
  rw [if_neg (storeAck_due back probed), op]
  dsimp only
  rw [if_neg (by omega), if_pos lclass]
theorem exec_storeAck_past {lu inL1 : Bool} (op : r.op = .st lu inL1) (notOwned : ¬(r.cls = 0 ∧ lu = false ∧ s.lostLink r.pa = false))
    (notLease : r.cls ≠ 1) : exec (.storeAck id) s = .next (s.dropReq id) := by
  show execStoreAck id s = _
  rw [execStoreAck, inFlight]
  dsimp only
  rw [if_neg (storeAck_due back probed), op]
  dsimp only
  rw [if_neg notOwned, if_neg notLease]
end

theorem storeAck_owns_or_raises {s : State} {id : Nat} {r : Req} {lu inL1 : Bool} (inFlight : mget s.fly.reqs id = some r)
    (given : id < s.nextId) (back : r.phase = .back) (op : r.op = .st lu inL1) (aligned : r.pa % 64 = 0)
    (probed : ∀ p ∈ s.fly.scrProbes, p.2.req ≠ id)
    (unshared : r.cls = 0 → lu = false → s.lostLink r.pa = false → s.sharers r.pa (wordsTouched r.mask) = []) :
    ∃ t, exec (.storeAck id) s = .next t ∧ mget t.fly.reqs id = none ∧
      (∀ c k, t.group c k = s.group c k) ∧
      (r.cls = 1 → r.wts ≤ t.pts r.who.core r.who.ctx ∧ t.mem = s.mem) ∧
      (r.cls = 0 → lu = false → s.lostLink r.pa = false →
        ∃ l, mget (t.core r.who.core).l1 r.pa = some l ∧ l.st = .modified ∧
          ∀ i, i < 64 → r.mask.getLsbD i = true → lineByte l.data i = lineByte r.data i) := by
  by_cases owned : r.cls = 0 ∧ lu = false ∧ s.lostLink r.pa = false
  · obtain ⟨dclass, rfl, reached⟩ := owned
    have owns : Settles (s.dropReq id) ((s.dropReq id).ownLine r) := .ownLine ..
    exact ⟨_, exec_storeAck_owned inFlight back probed op dclass reached (unshared dclass rfl reached),
      State.gone_of_settles given owns, State.group_of_still owns.still, fun lclass => absurd (dclass ▸ lclass) (by decide),
      fun _ _ _ => State.l1_ownLine aligned⟩
  by_cases lclass : r.cls = 1
  · have acked : Settles ((s.dropReq id).raisePts r.who.core r.who.ctx r.wts)
        (((s.dropReq id).raisePts r.who.core r.who.ctx r.wts).ackLease id r) := .ackLease ..
    refine ⟨_, exec_storeAck_lease inFlight back probed op lclass, (acked.gone id ?_ ?_).2, fun c k => ?_, fun _ => ⟨?_, ?_⟩,
      fun dclass plain reached => absurd ⟨dclass, plain, reached⟩ owned⟩
    · rwa [State.nextId_raisePts]
    · rw [State.fly_raisePts, State.mget_dropReq_same]
    · rw [State.group_of_still acked.still, State.group_raisePts]
      rfl
    · rw [State.pts_of_still acked.still]
      exact State.le_pts_raisePts ..
    · rw [State.ackLease_mem, State.mem_raisePts]
      rfl
  · exact ⟨_, exec_storeAck_past inFlight back probed op owned lclass, s.mget_dropReq_same id, fun _ _ => rfl,
      fun h => absurd h lclass, fun dclass plain reached => absurd ⟨dclass, plain, reached⟩ owned⟩

/-! ### Probes of an L1 -/

/-- A probe that its L1 has answered. -/
def State.dropProbe (s : State) (id : Nat) : State := { s with fly := { s.fly with probes := mdel s.fly.probes id } }
/-- A modified copy is in memory. -/
def State.written (s : State) (pa : Nat) (l : L1Line) : State := if l.st = .modified then s.putLine pa l.data l.poison else s

theorem State.still_written (s : State) (pa : Nat) (l : L1Line) : (s.written pa l).still = s.still := by
  unfold State.written; split <;> rfl
theorem State.fly_written (s : State) (pa : Nat) (l : L1Line) : (s.written pa l).fly = s.fly := by
  unfold State.written; split <;> rfl
theorem State.cores_written (s : State) (pa : Nat) (l : L1Line) : (s.written pa l).cores = s.cores := by
  unfold State.written; split <;> rfl
theorem State.bytes_unhold (s : State) (pa c : Nat) : (s.unhold pa c).mem.bytes = s.mem.bytes := by
  unfold State.unhold; split <;> rfl
theorem State.unhold_frame (s : State) (pa c : Nat) : (s.unhold pa c).cores = s.cores ∧ (s.unhold pa c).fly = s.fly := by
  unfold State.unhold; split <;> exact ⟨rfl, rfl⟩

section
variable {s : State} {id : Nat} {p : Probe} (inFlight : mget s.fly.probes id = some p) (settled : s.fillOut p.core p.pa = false)
include inFlight settled

theorem exec_l1Probe_none (leases : ∀ l, mget (s.core p.core).l1 p.pa = some l → l.st = .lease) :
    exec (.l1Probe id) s = .next (s.dropProbe id) := by
  show execL1Probe id s = _
  rw [execL1Probe, inFlight]
  dsimp only
  rw [settled, if_neg Bool.false_ne_true]
  change (match mget (s.core p.core).l1 p.pa with | none => _ | some l => _) = _
  cases copy : mget (s.core p.core).l1 p.pa with
  | none => rfl
  | some l => simp [leases l copy, State.dropProbe]
theorem exec_l1Probe_write {l : L1Line} (copy : mget (s.core p.core).l1 p.pa = some l) (held : l.st ≠ .lease) (write : p.write = true) :
    exec (.l1Probe id) s = .next ((((s.dropProbe id).written p.pa l).dropCopy p.core p.pa).unhold p.pa p.core) := by
  show execL1Probe id s = _
  rw [execL1Probe, inFlight]
  dsimp only
  rw [settled, if_neg Bool.false_ne_true]
  change (match mget (s.core p.core).l1 p.pa with | none => _ | some l => _) = _
  rw [copy]
  dsimp only
  rw [if_pos write, if_neg held]
  rfl
theorem exec_l1Probe_read {l : L1Line} (copy : mget (s.core p.core).l1 p.pa = some l) (read : p.write = false) :
    exec (.l1Probe id) s = .next (if l.st = .modified then
      ((s.dropProbe id).written p.pa l).modCore p.core fun k => { k with l1 := mset k.l1 p.pa { l with st := .shared } }
      else (s.dropProbe id).written p.pa l) := by
  show execL1Probe id s = _
  rw [execL1Probe, inFlight]
  dsimp only
  rw [settled, if_neg Bool.false_ne_true]
  change (match mget (s.core p.core).l1 p.pa with | none => _ | some l => _) = _
  rw [copy]
  dsimp only
  rw [read, if_neg Bool.false_ne_true]
  exact (apply_ite Host.Outcome.next _ _ _).symm
end

/-- A modified copy that a probe finds goes to memory; otherwise no byte changes. -/
theorem State.bytes_written (s : State) (pa : Nat) (l : L1Line) :
    (l.st = .modified → ∀ a, Bytes.at_ (s.written pa l).mem.bytes a = if pa ≤ a ∧ a < pa + 64 then lineByte l.data (a - pa)
      else Bytes.at_ s.mem.bytes a) ∧
    (l.st ≠ .modified → ∀ a, Bytes.at_ (s.written pa l).mem.bytes a = Bytes.at_ s.mem.bytes a) := by
  refine ⟨fun modified a => ?_, fun clean a => ?_⟩
  · rw [State.written, if_pos modified, State.bytes_putLine]
  · rw [State.written, if_neg clean]

theorem L1Line.shared_of_held {l : L1Line} (held : l.st ≠ .lease) (clean : l.st ≠ .modified) : l.st = .shared := by
  cases st : l.st with
  | shared => rfl
  | modified => exact absurd st clean
  | lease => exact absurd st held

theorem l1Probe_takes_or_shares {s : State} {id : Nat} {p : Probe} {l : L1Line} (inFlight : mget s.fly.probes id = some p)
    (settled : s.fillOut p.core p.pa = false) (copy : mget (s.core p.core).l1 p.pa = some l) (held : l.st ≠ .lease) :
    ∃ t, exec (.l1Probe id) s = .next t ∧ mget t.fly.probes id = none ∧ (∀ c k, t.group c k = s.group c k) ∧
      (p.write = true → mget (t.core p.core).l1 p.pa = none) ∧
      (p.write = false → ∃ m, mget (t.core p.core).l1 p.pa = some m ∧ m.st = .shared ∧ m.data = l.data) ∧
      (l.st = .modified → ∀ a, Bytes.at_ t.mem.bytes a = if p.pa ≤ a ∧ a < p.pa + 64 then lineByte l.data (a - p.pa)
        else Bytes.at_ s.mem.bytes a) ∧
      (l.st ≠ .modified → ∀ a, Bytes.at_ t.mem.bytes a = Bytes.at_ s.mem.bytes a) := by
  have answered : mget ((s.dropProbe id).written p.pa l).fly.probes id = none := by
    rw [State.fly_written, State.dropProbe, mget_mdel, if_pos rfl]
  have still : ((s.dropProbe id).written p.pa l).still = s.still := State.still_written ..
  have bytes := (s.dropProbe id).bytes_written p.pa l
  cases write : p.write with
  | true =>
    obtain ⟨cores, fly⟩ := (((s.dropProbe id).written p.pa l).dropCopy p.core p.pa).unhold_frame p.pa p.core
    refine ⟨_, exec_l1Probe_write inFlight settled copy held write, ?_, fun c k => ?_, fun _ => ?_, nofun, ?_⟩
    · rw [fly, State.fly_dropCopy, answered]
    · rw [State.group_of_cores cores, State.group_of_still ((State.still_dropCopy ..).trans still)]
    · rw [State.core, cores]
      exact (State.l1_dropCopy ..).trans (if_pos rfl)
    · rw [State.bytes_unhold, State.dropCopy_mem]
      exact bytes
  | false =>
    refine ⟨_, exec_l1Probe_read inFlight settled copy write, ?_⟩
    split_ifs with modified
    · refine ⟨answered, State.group_of_still ((State.still_modCore _ _).trans still), nofun, fun _ => ?_, bytes⟩
      rw [State.core_modCore_same, mget_mset_same]
      exact ⟨_, rfl, rfl, rfl⟩
    · refine ⟨answered, State.group_of_still still, nofun, fun _ => ⟨l, ?_, L1Line.shared_of_held held modified, rfl⟩, bytes⟩
      rw [State.core, State.cores_written]
      exact copy

theorem repliesAcknowledgementsAndProbes : RepliesAcknowledgementsAndProbes :=
  ⟨fun _ _ _ _ _ _ _ _ _ inFlight given back op => reply_writes_registers inFlight given back op,
    fun _ _ _ inFlight given back op => reply_brings_prefetched inFlight given back op,
    fun _ _ _ _ _ inFlight given back op aligned probed unshared =>
      storeAck_owns_or_raises inFlight given back op aligned probed unshared,
    fun _ _ _ _ inFlight back op probed => exec_storeAck_wb inFlight back probed op,
    fun _ _ _ inFlight settled leases => exec_l1Probe_none inFlight settled leases,
    fun _ _ _ _ inFlight settled copy held => l1Probe_takes_or_shares inFlight settled copy held⟩

end Sys2Proof.Machine

namespace Sys2Proof.Proofs
open Sys2Proof.Machine

/-- Settles O21: the home slice's events, then replies, acknowledgements and probes, one lemma for each event and outcome. -/
theorem slicesRepliesAndProbes : Obligations.SlicesRepliesAndProbes :=
  ⟨homeSliceServesReadsAndStores, repliesAcknowledgementsAndProbes⟩

end Sys2Proof.Proofs
end
